-- ==== Sys2Proof/Word.lean ====
section
/-! DEFINITION. The word types and the exact fractions of the kinematics (R10, R116). -/

namespace Sys2Proof

/-- A byte of device memory (R10). -/
abbrev Byte := BitVec 8
/-- A register word, a G register, a coordinate in nm (R14). -/
abbrev Word := BitVec 32
/-- A Pellin instruction word. -/
abbrev DWord := BitVec 64
/-- The index of a beam unit BE, PCU, LD, HP or LP (R2). -/
abbrev Beam := Fin 16
/-- A job queue slot. -/
abbrev Slot := Fin 4
/-- A loop engine LE0 to LE3. -/
abbrev Engine := Fin 4
/-- A local slot of a loop engine. -/
abbrev LSlot := Fin 16
/-- A machine axis. -/
abbrev Axis := Fin 16
/-- A Yawell port ID: HP n is n, LP n is 16 + n, then TP, DP and AP. -/
abbrev Port := Fin 35
/-- A Yawell lane. -/
abbrev Lane := Fin 64

/-- An exact fraction, as the kinematics of R116 asks for. `den` is never 0 in a value the model forms. -/
structure Q where
  num : Int
  den : Nat
  deriving DecidableEq, Repr

/-- A point or vector of the bed in whole nm (R14). -/
structure Pt where
  x : Int
  y : Int
  deriving DecidableEq, Repr

/-- An exact point or velocity (R116). -/
structure QPt where
  x : Q
  y : Q
  deriving DecidableEq, Repr

end Sys2Proof
end

