-- ==== Sys2Proof/Types.lean ====
section
/-! DEFINITION. The enumerations and the operand records of the commands: what a cell, a parcel, a Pellin word or a
measurement carries when it reaches the block. -/

namespace Sys2Proof

/-- The two time domains A and B (R51). -/
inductive Dom where
  | a | b
  deriving DecidableEq, Repr

/-- The register access paths (R467, R483): BAR0 over PCIe, the I2C port and the debug TAP. -/
inductive Path where
  | pcie | i2c | tap
  deriving DecidableEq, Repr

/-- The word 0 fields and operand words of a stroke (R111, R112). -/
structure StrokeArgs where
  flags   : BitVec 8
  speed   : BitVec 24
  power   : BitVec 16
  profile : Byte
  w1      : DWord
  w2      : DWord := 0
  deriving DecidableEq, Repr

/-- The fields of the integer word format (Pellin instruction reference, "Integer group"). -/
structure IntArgs where
  rd    : Fin 16
  ra    : Fin 16
  rb    : Fin 16
  imm   : Bool
  imm32 : Word
  deriving DecidableEq, Repr

/-- The two-operand integer instructions of R127 that write a register or only flags. -/
inductive AluOp where
  | mov | add | sub | mul | band | bor | bxor | shl | shr | sar | cmp | mulh
  deriving DecidableEq, Repr

/-- A Pellin instruction with its fields (R109). -/
inductive PInstr where
  | mark (a : StrokeArgs)
  | jump (a : StrokeArgs)
  | arc (a : StrokeArgs)
  | spot (a : StrokeArgs)
  | zacq (set : BitVec 16)
  | zrel
  | muster (id : Byte) (cell : Bool) (mask : BitVec 16)
  | waitt (rel : Bool) (target : BitVec 48)
  | alu (op : AluOp) (a : IntArgs)
  | ld (a : IntArgs)
  | st (a : IntArgs)
  | rdp (a : IntArgs)
  | loop (creg : Bool) (rc : Fin 16) (bound body : BitVec 24)
  | endl (back : BitVec 24)
  | br (cond : Fin 16) (offset : BitVec 24)
  | lgq (rd rx ry : Fin 16) (useP : Bool)
  | pset (reg : Bool) (rs : Fin 16) (sel : Fin 16) (imm32 : Word)
  | focus (reg rel : Bool) (rs : Fin 16) (imm32 : Word)
  | markev (reg irq : Bool) (rs : Fin 16) (code : BitVec 16) (imm32 : Word)
  | halt
  deriving DecidableEq, Repr

/-- How a PTP message travels (R66): in an IEEE 802.3 frame of EtherType 0x88F7, or over UDP and IPv4 to a port. -/
inductive PtpVia where
  | ether
  | udp (port : BitVec 16)
  deriving DecidableEq, Repr

/-- A Sync, with its Follow_Up where two-step, as the PTP instance uses it (R66, R68). -/
structure SyncMsg where
  /-- Identity of the sending port. -/
  srcId  : BitVec 80
  /-- Port ETH0 or ETH1 on which it came. -/
  eth    : Fin 2
  /-- Transport of the event message. -/
  via    : PtpVia
  /-- PTP domainNumber. -/
  dom    : Byte
  /-- preciseOriginTimestamp plus correctionField, ns of the master. -/
  t1     : Word
  /-- logSyncInterval. -/
  logInt : Int
  deriving DecidableEq, Repr

/-- An Announce message (R66). -/
structure AnnounceMsg where
  srcId   : BitVec 80
  eth     : Fin 2
  /-- Transport of the general message. -/
  via     : PtpVia
  dom     : Byte
  prio1   : Byte
  /-- clockClass, clockAccuracy and offsetScaledLogVariance in comparison order. -/
  quality : BitVec 32
  prio2   : Byte
  gmId    : BitVec 64
  steps   : BitVec 16
  /-- logAnnounceInterval. -/
  logInt  : Int
  deriving DecidableEq, Repr

/-- Who asks in an ARP request: sender hardware and protocol address (R70). -/
structure ArpSender where
  mac : BitVec 48
  ip  : Word
  deriving DecidableEq, Repr

/-- What an Ethernet frame that no rule takes up shows: its bytes, its VLAN tags, and the instance it is for where it is a PTP
message (R66, R70). -/
structure EthFrame where
  len  : Nat
  tags : Fin 4
  ptp  : Option Dom
  deriving DecidableEq, Repr

/-- The own event messages of the PTP instance (R66). -/
inductive PtpEvent where
  | delayReq | pdelayReq | pdelayResp
  deriving DecidableEq, Repr

/-- A response to a delay request: Delay_Resp with its logMinDelayReqInterval and t4, or Pdelay_Resp with its Follow_Up.
Times are ns. -/
inductive PtpResp where
  | delayResp (eth : Fin 2) (via : PtpVia) (logMin : Int) (t4 : Word)
  | pdelayResp (eth : Fin 2) (via : PtpVia) (turn : Word)
  deriving DecidableEq, Repr

/-- The stream-independent fields of a TRAIN block (R363). -/
structure TrainBlk where
  st     : Fin 16
  lane   : Fin 16
  req    : Fin 16
  resp   : Fin 16
  reqSeq : Byte
  ackSeq : Byte
  pre    : Fin 8
  main_  : Fin 64
  post   : Fin 16
  deriving DecidableEq, Repr

/-- What a receiver finds in an expected alignment marker (R365, R369, R388). -/
structure AmBlk where
  /-- The marker is there (false: the expected AM is missing). -/
  present : Bool
  portId  : Byte
  lane    : Fin 16
  /-- BIP8 agrees. -/
  bipOk   : Bool
  /-- Delay of this lane behind the earliest lane of its port, ns. -/
  delay   : Byte
  /-- Blocks on the lane since the previous marker. -/
  gap     : BitVec 16
  deriving DecidableEq, Repr

/-- What one pair's double delay-line run yields (R334, R335): the delay in ps of each element and of each bypass of the idle
line in the first and the second run, as counted by REFCLK; and which selection the Shepherd takes where several are equally
good (log entry 51). -/
structure LineMeas where
  sel     : BitVec 80
  elem1   : List Int
  bypass1 : List Int
  elem2   : List Int
  bypass2 : List Int
  deriving DecidableEq, Repr

/-- A block as a port receives it: its lane position, its sync header and its payload (R360, R361). -/
structure RxBlk where
  pos  : Fin 8
  hdr  : Fin 4
  data : DWord
  deriving DecidableEq, Repr

/-- Why a cell is dropped (R376). -/
inductive DropCause where
  | crc | header | unknown | cut
  deriving DecidableEq, Repr

/-- How a fabric or DMA transfer ends (R251, R470, R482). -/
inductive XferEnd where
  | ok | corrected | uncorrectable | pcieError
  deriving DecidableEq, Repr

/-- The boundary-scan instructions of R484. -/
inductive TapInstr where
  | bypass | idcode | sample | extest | extestPulse | extestTrain | clamp | highz
  deriving DecidableEq, Repr

/-- The operands of a STOP parcel (R416). -/
structure StopMsg where
  beam    : Fin 16
  kindForm : Byte
  pc      : Word
  x       : Word
  y       : Word
  rem     : Word
  at_     : BitVec 64
  deriving DecidableEq, Repr

/-- A TWIN_TAKE cell: CAUSE, and bits [15:0] of its launch sample (R383). -/
structure TakeMsg where
  cause : Fin 16
  sidx  : BitVec 16
  deriving DecidableEq, Repr

/-- The operands of a STATE parcel (R416). -/
structure StateMsg where
  lt    : Word
  at_   : BitVec 64
  layer : Byte
  tau   : Word
  kl    : BitVec 16
  deriving DecidableEq, Repr

end Sys2Proof
end

