-- ==== Sys2Proof/Syntax.lean ====
section
/-! DEFINITION. The commands: one constructor per row of spec/opcode_table.json, with what the sender or the event
carries. A command names its unit by index; a value that the block itself holds (a register, a schedule) is no operand. -/

namespace Sys2Proof

/-- The commands of the block, in the order of the table. -/
inductive Instr where
  -- boot and reset (R33, R476)
  | rstNAssert
  | rstNRelease
  | bootStepTimeout (step : Fin 8)
  | bootComplete
  -- job commands (R142) and job events
  | submit (slot : Slot)
  | arm (slot : Slot)
  | disarm (slot : Slot)
  | abort (slot : Slot)
  | resume (slot : Slot)
  | release (slot : Slot)
  | go (slot : Slot)
  | jobHold
  | walkStart
  | analysisEnd
  | walkLimit
  | statusPublish (slot : Slot)
  | autoArm (slot : Slot)
  | preparationBegin (slot : Slot)
  | preparationEnd (slot : Slot)
  | driftCutoff (head : Beam)
  | jobStart (slot : Slot)
  | jobCommit
  | strokeStart (b : Beam)
  | gateEdge (b : Beam)
  -- Pellin instructions, executed by the decode stage of beam b (R109)
  | mark (b : Beam) (a : StrokeArgs)
  | jump (b : Beam) (a : StrokeArgs)
  | arc (b : Beam) (a : StrokeArgs)
  | spot (b : Beam) (a : StrokeArgs)
  | zacq (b : Beam) (set : BitVec 16)
  | zrel (b : Beam)
  | muster (b : Beam) (id : Byte) (cell : Bool) (mask : BitVec 16)
  | waitt (b : Beam) (rel : Bool) (target : BitVec 48)
  | mov (b : Beam) (a : IntArgs)
  | add (b : Beam) (a : IntArgs)
  | sub (b : Beam) (a : IntArgs)
  | mul (b : Beam) (a : IntArgs)
  | band (b : Beam) (a : IntArgs)
  | bor (b : Beam) (a : IntArgs)
  | bxor (b : Beam) (a : IntArgs)
  | shl (b : Beam) (a : IntArgs)
  | shr (b : Beam) (a : IntArgs)
  | sar (b : Beam) (a : IntArgs)
  | cmp (b : Beam) (a : IntArgs)
  | mulh (b : Beam) (a : IntArgs)
  | ld (b : Beam) (a : IntArgs)
  | st (b : Beam) (a : IntArgs)
  | rdp (b : Beam) (a : IntArgs)
  | loop (b : Beam) (creg : Bool) (rc : Fin 16) (bound body : BitVec 24)
  | endl (b : Beam) (back : BitVec 24)
  | br (b : Beam) (cond : Fin 16) (offset : BitVec 24)
  | lgq (b : Beam) (rd rx ry : Fin 16) (useP : Bool)
  | pset (b : Beam) (reg : Bool) (rs sel : Fin 16) (imm32 : Word)
  | focus (b : Beam) (reg rel : Bool) (rs : Fin 16) (imm32 : Word)
  | markev (b : Beam) (reg irq : Bool) (rs : Fin 16) (code : BitVec 16) (imm32 : Word)
  | halt (b : Beam)
  -- beam engine events and host actions
  | markevRelease (b : Beam)
  | musterRelease (id : Byte)
  | zacqWaitExpiry (b : Beam)
  | beStop (b : Beam)
  | stopComplete (b : Beam)
  | beEvPop (b : Beam)
  | evClr (b : Beam)
  | beCntClr (b : Beam)
  -- melt-pool sensing
  | pdSample (b : Beam) (f : Bool) (sidx : BitVec 16) (pdA pdB : BitVec 16)
  | pcuWord (b : Beam)
  | pcuCntClr (b : Beam)
  | imgLine (b : Beam) (f : Bool) (sidx frame : BitVec 16) (line : Fin 128) (w8 h8 : Fin 16) (depth12 : Bool)
      (pix : List (BitVec 16))
  | featurePublish (b : Beam)
  | trimApply (b : Beam)
  | eyeLoss (b : Beam)
  | pcuCapArm (b : Beam)
  | datagramSend (eth : Fin 2)
  -- light drive
  | pwrReport (b : Beam) (f : Bool) (sidx : BitVec 16) (pwr : BitVec 16) (emit ready fault : Bool)
  | reportLost (b : Beam)
  | diagWindowEnd (b : Beam)
  | pwmPeriodStart (b : Beam)
  | musterGrid (b : Beam)
  | interlockTrip (a b : Bool) (widthPs : Nat)
  | ilkDiscrep
  | rearm
  | emitOffRepeat (b : Beam)
  | emitOffWrite (b : Beam) (v : Bool)
  | ldEnable (b : Beam) (v : Bool)
  | killForce
  | ldCntClr (b : Beam)
  -- heat ledger
  | visitCommit (b : Beam)
  | sweepStep
  | sweepLate
  | ldgEcc (b : Beam) (cell : BitVec 26)
  | ldgFlush
  | ldgClear
  | ldgApply
  | ldgImport
  | ldgOpDone
  | ldgQryGo
  | ldgQryDone
  | ldgCntClr
  -- zone arbiter and memory fabric
  | zoneRound
  | quotaWindowEnd
  | zoneCntClr
  | fabSlot
  | fabQuotaWindowEnd
  | crookPreempt (chan : Fin 2) (debug : Bool)
  | transferComplete (e : XferEnd)
  | swap
  | swapApply
  | fabCntClr
  -- loop engines
  | leUpdate (k : Engine) (l : LSlot) (retry : Nat)
  | axisFb (p : Port) (axis : Fin 16) (f : Bool) (sidx : BitVec 16) (pos : Word) (cur : BitVec 16) (aux : Word)
  | load (k : Engine) (l : LSlot)
  | enable (k : Engine) (l : LSlot)
  | disable (k : Engine) (l : LSlot)
  | coefSwap (k : Engine) (l : LSlot)
  | leImgCheck (k : Engine)
  | clr (k : Engine) (l : LSlot) (acc : Fin 4)
  | lda (k : Engine) (l : LSlot) (acc : Fin 4) (sh : Fin 32) (sa : Byte)
  | mac (k : Engine) (l : LSlot) (acc : Fin 4) (sa : Byte) (kk : Fin 64)
  | msu (k : Engine) (l : LSlot) (acc : Fin 4) (sa : Byte) (kk : Fin 64)
  | ada (k : Engine) (l : LSlot) (acc : Fin 4) (neg : Bool) (sh : Fin 32) (sa : Byte)
  | sta (k : Engine) (l : LSlot) (acc : Fin 4) (sh : Fin 32) (dst : Byte)
  | clp (k : Engine) (l : LSlot) (dst sa : Byte) (kk : Fin 64)
  | sel (k : Engine) (l : LSlot) (dst sa sb sc : Byte)
  | lawMov (k : Engine) (l : LSlot) (dst sa : Byte)
  | lawHalt (k : Engine) (l : LSlot)
  | trArm (k : Engine)
  | trTrig (k : Engine)
  | leCntClr (k : Engine)
  -- machine axes
  | axAppend (n : Axis)
  | axReplace (n : Axis)
  | axStop (n : Axis)
  | axResume (n : Axis)
  | axHome (n : Axis)
  | setPos (n : Axis)
  | el1Move (n : Axis)
  | el1Set (n : Axis)
  | axClear (n : Axis)
  | pitchStart (n : Axis)
  | pitchEnd (n : Axis)
  | limitInput (n : Axis) (pos active : Bool)
  | homeEdge (n : Axis) (active : Bool)
  | mmove (axis : Fin 16) (rel : Bool) (v a : BitVec 24) (tgt : Word)
  | mwait (mask : BitVec 16)
  | mdwell (ns : BitVec 48)
  | machHalt
  -- calibration
  | calRefLoss
  | dlRun
  | dlRunComplete (m : List LineMeas)
  | dlSwap (m : Fin 32)
  | validate (q : BitVec 16)
  | invalidate (q : BitVec 16)
  | promote (n : BitVec 16)
  | drift (n : BitVec 16)
  | pcalPoint (arg : BitVec 16)
  | pcalExposureEnd (b : Beam)
  | pcalEnter (arg : BitVec 16)
  | pcalCommit (n : BitVec 16)
  | pcalClear (n : BitVec 16)
  | calCntClr
  | headTemp (b : Beam) (f : Bool) (temp : BitVec 16)
  | headTempStale (b : Beam)
  | refReq (b : Beam)
  | refMeas (b : Beam) (seq tag : BitVec 16) (point : Fin 4) (signal : Bool) (mx my : Word)
  -- Yawell link
  | train (n : Lane) (blk : TrainBlk) (eye : Byte)
  | am (n : Lane) (blk : AmBlk)
  | amSend (p : Port)
  | trainTimeout (p : Port)
  | laneLockLoss (n : Lane)
  | hbLoss (p : Port)
  | heartbeat (p : Port)
  | farHeartbeat (p : Port) (f : Bool) (sidx echo turn : BitVec 16) (role : Fin 4)
  | cellDrop (p : Port) (blocks : List RxBlk)
  | parcelBad (p : Port) (crcBad : Bool) (seq : BitVec 16)
  | ack (p : Port) (next : BitVec 16)
  | nak (p : Port) (next : BitVec 16)
  | ackSend (p : Port)
  | replayTimeout (p : Port)
  | cfgRd (p : Port) (seq tag : BitVec 16) (addr : Word) (count : Byte)
  | cfgWr (p : Port) (seq tag : BitVec 16) (addr : Word) (data : List Word)
  | cfgRsp (p : Port) (seq tag : BitVec 16) (status : Byte) (data : List Word)
  | cfgTimeout (p : Port)
  | cfgRead (p : Port)
  | cfgWrite (p : Port)
  | retrain (p : Port)
  | portCntClr (p : Port)
  | laneCntClr (n : Lane)
  | auxData (seq stream : BitVec 16) (sidx : Word) (data : List Byte)
  -- twin operation
  | ropeUp
  | handover
  | confirmSolo
  | releaseLead
  | roleCfgWrite (v : Fin 4)
  | twinTimeSend
  | twinTime (launch lastArr : Word)
  | twinSkewCheck
  | checkpointDigest
  | twinDigest (num : Word) (digest : DWord)
  | digestTimeout
  | twinHbMissing
  | twinTake (m : TakeMsg)
  | takeover
  | twinCmdEffective
  | twinCtlCmd (seq : BitVec 16) (op slot : Byte) (at_ : BitVec 64)
  | twinObj (seq : BitVec 16) (addr : BitVec 64) (len crc : Word)
  | twinFwd (seq : BitVec 16) (ofs : Word) (data : List Byte)
  | twinLdg (seq : BitVec 16) (ofs : Word) (cells : List DWord)
  | twinAdm (seq : BitVec 16) (slot code : Byte) (jtFin digest : BitVec 64)
  | twinStart (seq : BitVec 16) (slot : Byte) (at_ : BitVec 64)
  | twinStop (seq : BitVec 16) (m : StopMsg)
  | twinDrift (seq : BitVec 16) (head : Byte) (m00 m01 m10 m11 ox oy : Word)
  | twinZero (seq : BitVec 16) (first count : Word)
  | twinState (seq : BitVec 16) (m : StateMsg)
  | twinLeave (seq : BitVec 16) (cause : Byte)
  | twinCfg (seq : BitVec 16) (digest : DWord)
  | twinJoined (seq : BitVec 16)
  | twinRtt (seq : BitVec 16) (first : Byte) (rtts : List (BitVec 16))
  -- faults and the ladder
  | faultReport (id unit : Byte) (detail : BitVec 16)
  | fltAck (cls : Fin 4) (seq : Byte)
  | fltForce (k : Fin 8) (bits : Word)
  | shadowClose
  | quietPeriodEnd
  | fltCntClr
  | ladderRequest (func : Fin 16) (unit : Fin 64) (step : Fin 8)
  | ladderKey (key : BitVec 16)
  | ladderStepDone (func : Fin 16) (unit : Fin 64) (ok : Bool)
  | pwrCycEnd
  -- recorder
  | recordWrite
  | optimeSave
  | crcModeEnd
  | freeze (path : Path) (on : Bool)
  | freezeTimeout
  | recRdData (path : Path)
  | recClrKey (path : Path) (key : BitVec 16)
  | clrRing (path : Path)
  | clrCairn (path : Path)
  | recCntClr
  -- supplies and thermal
  | vwarnFall
  | vwarnRise (low : BitVec 16)
  | vstopFall
  | vstopRise (low : BitVec 16)
  | vresetFall
  | vresetRise
  | hkRound (ch : List Int)
  | pwrCntClr
  -- clocks and time
  | clkLoss (which : Fin 8)
  | rtcStartTimeout
  | timeFold
  | timeRateWrite (d : Dom) (v : Word)
  | timeOfsWrite (d : Dom) (v : Word)
  | timeStepWrite (d : Dom) (v : Word)
  | bellwetherWrite (b : Bool)
  | timeSnap
  | tpArm (n : Fin 8)
  | tpulseFire (n : Fin 8)
  | tpulseEnd (n : Fin 8)
  | tcapEdge (n : Fin 8) (rising : Bool) (width : Nat) (err : Fin 3)
  | tcRawPop (n : Fin 8)
  | ptpSync (d : Dom) (m : SyncMsg)
  | ptpAnnounce (d : Dom) (m : AnnounceMsg)
  | ptpEventSend (d : Dom) (e : PtpEvent)
  | ptpResponse (d : Dom) (r : PtpResp)
  | ptpParentLoss (d : Dom)
  | timeServoWrite (d : Dom) (v : Word)
  | arpRequest (eth : Fin 2) (ip : Word) (who : ArpSender)
  | rtcSet
  | rtcSnap
  | rtcTrimStep
  | backupBrownout
  -- host interface
  | dmaGo (c : Fin 4)
  | dmaDone (c : Fin 4) (e : XferEnd) (host : List Byte)
  | auxEnable (v : Bool)
  | hostWinLoWrite (v : Word)
  | flr
  | info (tag : BitVec 16)
  | mbxJob (tag : BitVec 16) (op slot : Byte) (daddr : BitVec 64)
  | mbxHold (tag : BitVec 16)
  | patchLoad (tag : BitVec 16) (addr : BitVec 64) (len : Word)
  | bootCfgSave (tag : BitVec 16)
  | ddrCfgSave (tag : BitVec 16) (cfg : BitVec 64)
  | dbgChallenge (tag : BitVec 16)
  | dbgUnlock (tag : BitVec 16) (addr : BitVec 64)
  | sysLock
  | tapInstruction (i : TapInstr)
  | loReadLatch (path : Path) (addr : BitVec 24)
  | registerWrite (path : Path) (addr : BitVec 24) (v : Word)
  | bar2Access (write : Bool) (ofs : BitVec 28) (data : Word) (be : BitVec 4)
  | ilkInputRise (b : Bool)
  | calRefEdge (dev : Int)
  | rtcOscStart
  | slewEnd
  | calendarEnd
  | ethLink (n : Fin 2) (blockLock up : Bool)
  | ethFrameDiscard (n : Fin 2) (badFcs : Bool) (f : EthFrame)
  | axAtRest (n : Axis)
  deriving DecidableEq, Repr

end Sys2Proof
end

