-- ==== Sys2Proof/Machine/Bits.lean ====
section
/-! DEFINITION. Fields of words, narrowing (R13), checksums (R81, R405), bytes and sparse maps. -/

namespace Sys2Proof.Machine

/-- Bits [hi:lo] of a word as a number. -/
def fld (w : Word) (hi lo : Nat) : Nat := w.toNat / 2 ^ lo % 2 ^ (hi + 1 - lo)

/-- Bit `i` of a word. -/
def bit (w : Word) (i : Nat) : Bool := w.toNat / 2 ^ i % 2 == 1

/-- Bits [hi:lo] of a natural number. -/
def nfld (w hi lo : Nat) : Nat := w / 2 ^ lo % 2 ^ (hi + 1 - lo)

/-- A number as a bit of a word at place `i`. -/
def b2n (b : Bool) (i : Nat := 0) : Nat := if b then 2 ^ i else 0

/-- The word of a natural number. -/
def w32 (n : Nat) : Word := BitVec.ofNat 32 n

/-- The word of an integer, low 32 bits in two's complement. -/
def i32 (n : Int) : Word := BitVec.ofInt 32 n

/-- `w` with bits [hi:lo] replaced by `v`. -/
def setFld (w : Word) (hi lo v : Nat) : Word :=
  let n := w.toNat
  w32 (n - n / 2 ^ lo % 2 ^ (hi + 1 - lo) * 2 ^ lo + v % 2 ^ (hi + 1 - lo) * 2 ^ lo)

/-- `w` with bit `i` set. -/
def setBit (w : Word) (i : Nat) : Word := w ||| w32 (2 ^ i)

/-- `w` with bit `i` cleared. -/
def clrBit (w : Word) (i : Nat) : Word := w &&& ~~~(w32 (2 ^ i))

/-- The low `n` bits of a number read as two's complement. -/
def sext (n : Nat) (v : Nat) : Int :=
  let m := v % 2 ^ n
  if 2 ^ (n - 1) ≤ m then (m : Int) - 2 ^ n else m

/-- Saturation of a natural number at the greatest value of `n` bits (R13). -/
def satN (n v : Nat) : Nat := min v (2 ^ n - 1)

/-- Saturation of an integer to `n` bits of two's complement (R13). -/
def satS (n : Nat) (v : Int) : Int := max (-(2 ^ (n - 1))) (min v (2 ^ (n - 1) - 1))

/-- Saturation to the range `lo` to `hi`. -/
def clampN (lo hi v : Nat) : Nat := max lo (min hi v)

/-- `a / b` to nearest, ties away from zero (R13); 0 for `b = 0`. -/
def rdiv (a : Int) (b : Nat) : Int :=
  if b = 0 then 0
  else if 0 ≤ a then ((2 * a.toNat + b) / (2 * b) : Nat)
  else -((2 * (-a).toNat + b) / (2 * b) : Nat)

/-- `a / 2^n` to nearest, ties away from zero (R13). -/
def rshr (a : Int) (n : Nat) : Int := rdiv a (2 ^ n)

/-- A 0 is taken as 1. -/
def oneIfZero (n : Nat) : Nat := if n = 0 then 1 else n

/-- The greatest `r` with `r * r ≤ n`, by bits from `2^k` down. -/
def isqrtGo (n : Nat) : Nat → Nat → Nat
  | 0, r => r
  | k + 1, r =>
    let r' := r + 2 ^ k
    if r' * r' ≤ n then isqrtGo n k r' else isqrtGo n k r

/-- Integer square root, rounded down. -/
def isqrt (n : Nat) : Nat := isqrtGo n (Nat.log2 n / 2 + 1) 0

/-- Integer square root, rounded up. -/
def isqrtUp (n : Nat) : Nat :=
  let r := isqrt n
  if r * r = n then r else r + 1

/-- `a / b` rounded up. -/
def cdiv (a b : Nat) : Nat := (a + b - 1) / b

/-- The bits of a number, least significant first. -/
def bitsOf : Nat → Nat → List Bool
  | 0, _ => []
  | n + 1, v => (v % 2 == 1) :: bitsOf n (v / 2)

/-- The number of bits set below place `n`. -/
def popcount (n v : Nat) : Nat := ((bitsOf n v).filter id).length

/-- Whether bit `i` of a number is set. -/
def nbit (v i : Nat) : Bool := v / 2 ^ i % 2 == 1

/-- The indices below `n` whose bits are set, rising. -/
def onesOf (n v : Nat) : List Nat := (List.range n).filter (nbit v)

/-- The number whose bits are the members of a list. -/
def maskOf (l : List Nat) : Nat := l.foldl (fun a i => a ||| 2 ^ i) 0

/-- `n` bytes of a number, little-endian (R10). -/
def toBytes : Nat → Nat → List Byte
  | 0, _ => []
  | n + 1, v => BitVec.ofNat 8 v :: toBytes n (v / 256)

/-- A little-endian number (R10). -/
def ofBytes : List Byte → Nat
  | [] => 0
  | b :: bs => b.toNat + 256 * ofBytes bs

/-- `n` bytes of a number, most significant first. -/
def toBytesBE (n v : Nat) : List Byte := (toBytes n v).reverse

/-- One bit step of the reflected CRC-32. -/
def crc32Bit : Nat → Word → Word
  | 0, c => c
  | k + 1, c => crc32Bit k (if c.toNat % 2 = 1 then (c >>> 1) ^^^ 0xEDB88320#32 else c >>> 1)

/-- The CRC-32 of R81. -/
def crc32 (bs : List Byte) : Word :=
  (bs.foldl (fun c b => crc32Bit 8 (c ^^^ b.zeroExtend 32)) 0xFFFFFFFF#32) ^^^ 0xFFFFFFFF#32

/-- One bit step of the CRC-8. -/
def crc8Bit : Nat → Byte → Byte
  | 0, c => c
  | k + 1, c => crc8Bit k (if c.toNat / 2 ^ 7 % 2 = 1 then (c <<< 1) ^^^ 0x07#8 else c <<< 1)

/-- The CRC-8 of R374. -/
def crc8 (bs : List Byte) : Byte := bs.foldl (fun c b => crc8Bit 8 (c ^^^ b)) 0#8

/-- One bit step of the CRC-16. -/
def crc16Bit : Nat → BitVec 16 → BitVec 16
  | 0, c => c
  | k + 1, c => crc16Bit k (if c.toNat / 2 ^ 15 % 2 = 1 then (c <<< 1) ^^^ 0x1021#16 else c <<< 1)

/-- The CRC-16 of R375. -/
def crc16 (bs : List Byte) : BitVec 16 :=
  bs.foldl (fun c b => crc16Bit 8 (c ^^^ BitVec.shiftLeft (b.zeroExtend 16) 8)) 0xFFFF#16

/-- One bit step of the CRC-64. -/
def crc64Bit : Nat → DWord → DWord
  | 0, c => c
  | k + 1, c => crc64Bit k (if c.toNat / 2 ^ 63 % 2 = 1 then (c <<< 1) ^^^ 0x42F0E1EBA9EA3693#64 else c <<< 1)

/-- The CRC-64 of R405. -/
def crc64 (bs : List Byte) : DWord :=
  (bs.foldl (fun c b => crc64Bit 8 (c ^^^ BitVec.shiftLeft (b.zeroExtend 64) 56)) 0xFFFFFFFFFFFFFFFF#64) ^^^ 0xFFFFFFFFFFFFFFFF#64

/-- `v` with entry `i` replaced by `f` of it. -/
def vupd {α : Type} {n : Nat} (v : Vector α n) (i : Fin n) (f : α → α) : Vector α n := v.set i.val (f v[i.val])

/-- The entry at a place that may lie outside. -/
def vget? {α : Type} {n : Nat} (v : Vector α n) (i : Nat) : Option α := if h : i < n then some v[i] else none

/-- `v` with entry `i` replaced by `f` of it, and unchanged where `i` lies outside. -/
def vupdN {α : Type} {n : Nat} (v : Vector α n) (i : Nat) (f : α → α) : Vector α n :=
  if h : i < n then v.set i (f v[i]) else v

/-- The value at key `k` of a sparse map, whose keys rise. -/
def sget {α : Type} (k : Nat) : List (Nat × α) → Option α
  | [] => none
  | (j, v) :: l => if j = k then some v else sget k l

/-- A sparse map with key `k` set to `v`. -/
def sput {α : Type} (k : Nat) (v : α) : List (Nat × α) → List (Nat × α)
  | [] => [(k, v)]
  | (j, u) :: l => if k < j then (k, v) :: (j, u) :: l else if j = k then (k, v) :: l else (j, u) :: sput k v l

/-- A sparse map without key `k`. -/
def sdel {α : Type} (k : Nat) : List (Nat × α) → List (Nat × α)
  | [] => []
  | (j, u) :: l => if j = k then l else (j, u) :: sdel k l

/-- The value at `k`, or `d` where nothing is listed. -/
def sval {α : Type} (d : α) (k : Nat) (l : List (Nat × α)) : α := (sget k l).getD d

/-- Sets `k` to `v`, listing nothing where `v` is what an unlisted key reads as. -/
def sset {α : Type} [DecidableEq α] (d : α) (k : Nat) (v : α) (l : List (Nat × α)) : List (Nat × α) :=
  if v = d then sdel k l else sput k v l

/-- Keys rise strictly and no entry equals what its key reads as when unlisted. -/
def SparseWf {α : Type} (d : Nat → α) : List (Nat × α) → Prop
  | [] => True
  | (k, v) :: l => v ≠ d k ∧ (∀ p ∈ l, k < p.1) ∧ SparseWf d l

end Sys2Proof.Machine
end

