-- ==== Sys2Proof/Machine/Rational.lean ====
section
/-! DEFINITION. Exact fractions in lowest terms, for the kinematics of R116. -/

namespace Sys2Proof

open Machine

/-- The fraction `n/d` in lowest terms; 0 for `d = 0`. -/
def Q.mk' (n : Int) (d : Nat) : Q :=
  if d = 0 then ⟨0, 1⟩
  else
    let g := Nat.gcd n.natAbs d
    ⟨n / (g : Int), d / g⟩

/-- A whole number. -/
def Q.ofInt (n : Int) : Q := ⟨n, 1⟩

def Q.add (a b : Q) : Q := Q.mk' (a.num * b.den + b.num * a.den) (a.den * b.den)
def Q.neg (a : Q) : Q := ⟨-a.num, a.den⟩
def Q.sub (a b : Q) : Q := Q.add a (Q.neg b)
def Q.mul (a b : Q) : Q := Q.mk' (a.num * b.num) (a.den * b.den)

/-- `a / b`; 0 for `b = 0`. -/
def Q.div (a b : Q) : Q :=
  if b.num = 0 then ⟨0, 1⟩
  else if 0 < b.num then Q.mk' (a.num * b.den) (a.den * b.num.natAbs)
  else Q.mk' (-(a.num * b.den)) (a.den * b.num.natAbs)

def Q.le (a b : Q) : Bool := a.num * b.den ≤ b.num * a.den
def Q.lt (a b : Q) : Bool := a.num * b.den < b.num * a.den
def Q.isZero (a : Q) : Bool := a.num == 0
def Q.abs (a : Q) : Q := ⟨a.num.natAbs, a.den⟩
def Q.max (a b : Q) : Q := if a.le b then b else a
def Q.min (a b : Q) : Q := if a.le b then a else b

/-- Rounded down. -/
def Q.floor (a : Q) : Int := if a.den = 0 then 0 else a.num / (a.den : Int)

/-- Rounded up. -/
def Q.ceil (a : Q) : Int := if a.den = 0 then 0 else -((-a.num) / (a.den : Int))

/-- To nearest, ties away from zero (R13). -/
def Q.round (a : Q) : Int := rdiv a.num a.den

/-- The square root in units of 2^-k, rounded up; 0 for a negative number. -/
def Q.sqrtUp (a : Q) (k : Nat) : Q :=
  if a.num ≤ 0 then ⟨0, 1⟩
  else Q.mk' (isqrtUp (cdiv (a.num.toNat * 4 ^ k) a.den)) (2 ^ k)

/-- The square root in units of 2^-k, rounded down; 0 for a negative number. -/
def Q.sqrtDown (a : Q) (k : Nat) : Q :=
  if a.num ≤ 0 then ⟨0, 1⟩
  else Q.mk' (isqrt (a.num.toNat * 4 ^ k / a.den)) (2 ^ k)

/-! Points and velocities. -/

def QPt.add (a b : QPt) : QPt := ⟨a.x.add b.x, a.y.add b.y⟩
def QPt.sub (a b : QPt) : QPt := ⟨a.x.sub b.x, a.y.sub b.y⟩
def QPt.smul (k : Q) (a : QPt) : QPt := ⟨k.mul a.x, k.mul a.y⟩
def QPt.ofPt (p : Pt) : QPt := ⟨Q.ofInt p.x, Q.ofInt p.y⟩
/-- A direction of sQ1.30 components. -/
def QPt.dir (u : Pt) : QPt := ⟨Q.mk' u.x (2 ^ 30), Q.mk' u.y (2 ^ 30)⟩
def QPt.zero : QPt := ⟨⟨0, 1⟩, ⟨0, 1⟩⟩
/-- To whole nm (R13). -/
def QPt.round (a : QPt) : Pt := ⟨a.x.round, a.y.round⟩

end Sys2Proof
end

