-- ==== Sys2Proof/Config.lean ====
section
/-! DEFINITION. What a part's factory fixes, and the free values: constants without a body, so that no proof can rest on
a value of them. -/

namespace Sys2Proof.Config

/-- The fused variant, as its place in the table of R1 (code minus 1). -/
opaque variantIx : Fin 12

/-- SYS_UID (R491: factory value). -/
opaque uid : BitVec 64

/-- The identifier that PCI-SIG assigns to the vendor (R466). -/
opaque vendorId : BitVec 16

/-- IDENT of the device's own configuration space on a port: maker and product code (R386 gives the layout only). -/
opaque linkIdent : Word

/-- The ROM version that INFO reports (R474). -/
opaque romVersion : Word

/-- PWR_MODELk, k = 0 to 12 (R460, R465: factory values). -/
opaque pwrModel : Nat → Word

/-- The factory worst-case power in mW that unit `idx` of kind `kind` adds to quadrant `q` while it is active
(R465). Kinds: 0 beam, 1 PCU, 2 light drive, 3 pool eye, 4 loop engine, 5 machine-axis block, 6 ledger, 7 zone arbiter,
8 fabric and DDR5. -/
opaque unitPower : (kind idx q : Nat) → Nat

/-- The code of the housekeeping converter at full scale (R457 gives channels 39 and 40 in codes only). -/
opaque adcFull : Nat

/-- Whether an ECDSA P-384 signature verifies under the vendor's patch key (R478): signed bytes, signature. -/
opaque patchSigOk : List Byte → List Byte → Bool

/-- Whether a signature verifies under the vendor's debug key (R485): signed bytes, signature. -/
opaque debugSigOk : List Byte → List Byte → Bool

/-- The depth of the elastic buffer of a lane's receiver in blocks (R370 gives none). -/
opaque elasticDepth : Nat → Nat

/-- The capacity in bytes of an Ethernet port's telemetry egress queue (R233 gives none). -/
opaque egressCap : Nat

/-- By how many ns the fetch of a beam leads the model of R519, of which it holds at least the words: beam, bytes fetched. -/
opaque fetchLead : (beam bytes : Nat) → Nat

/-- The bed travel in nm that brings a mirror from a reference point back to its start point (R349 takes move() of it; R346
gives the points in head units only): head, point, start point. -/
opaque refTravel : (head point : Nat) → Pt → Nat

/-- The bed travel in nm of a mirror from one reference point to another (R346 gives the points in head units only): head,
points. -/
opaque refLeg : (head at_ next : Nat) → Nat

/-- The tick at which the partner of a pair stopped, and the ledger cells that it committed since: R404 needs both, and no
parcel brings them. -/
opaque farStop : Nat → Nat

/-- The ledger cells that the partner of a pair committed at or after the earlier of the two stops (R404). -/
opaque farCells : Nat → List Nat

/-- The byte at an offset of a control block of the recorder, by the values it holds: HEAD, TAIL, CAIRN fill and FULL, the
counts, the operating time, the sequence (R436 gives its contents and no layout). -/
opaque ctlByte : List Nat → Nat → Byte

/-- A value that the spec leaves open, applied to the counter `free` of the state that the step reads and advances. -/
opaque freeValue : Nat → BitVec 64

end Sys2Proof.Config
end

