-- ==== Sys2Proof/Machine/StateCore.lean ====
section
/-! DEFINITION. The parts of the state: device, time, job queue and promise. A field's bracket gives its width, the
file and rule of spec/ that names it, and its value at reset. -/

namespace Sys2Proof.Machine

/-- The seven device states in the order of their codes (SYS_STATE.STATE). -/
inductive DevState where
  | reset | boot | idle | armed | run | hold | belay
  deriving DecidableEq, Repr

/-- A latched or reported fault occurrence as a detector hands it to the hub (R418, R420). -/
structure Report where
  /-- [8 bits; 16 R419] fault ID. -/
  id     : Nat
  /-- [6 bits; 16 R418] index of the reporting unit. -/
  unit   : Nat
  /-- [32 bits; 16 R418] DETAIL word. -/
  detail : Word
  /-- [tick; 16 R418] extended FRC of the detection. -/
  at_    : Nat
  /-- [1 bit; 16 R424] made through FLT_FORCEk. -/
  forced : Bool
  deriving DecidableEq, Repr

/-- The device as a whole. -/
structure Dev where
  /-- [3 bits; 01 R31; reset BOOT] device state. -/
  state    : DevState
  /-- [4 bits; 01 SYS_STATE; reset RESET] state before the last transition. -/
  prev     : DevState
  /-- [32 bits; 01 SYS_STATE_FRC; reset 0] raw FRC of the last transition. -/
  stateFrc : Word
  /-- [4 bits; 01 SYS_STATE; reset 0] cause of the last entry to HOLD or BELAY. -/
  holdCause : Nat
  /-- [4 bits; 01 R33; reset 0] cause of an end-of-stroke HOLD that waits for its last beam, 0 for none. -/
  holdReq  : Nat
  /-- [tick; 18 R463; reset 0] tick on which that HOLD was asked for. -/
  holdAt   : Nat
  /-- [1 bit; 01 R35; reset 0] BELAY is sticky. -/
  sticky   : Bool
  /-- [1 bit; 01 R31 row 1; reset 0] RST_N is low. -/
  rstLow   : Bool
  /-- [1 bit; 18 R453; reset 0] VDD_CORE is below VRESET. -/
  belowVreset : Bool
  /-- [1 bit; 18 R453; reset 0] VDD_CORE is below VSTOP. -/
  belowVstop : Bool
  /-- [1 bit; 18 R453; reset 0] VDD_CORE is below VWARN. -/
  belowVwarn : Bool
  /-- [1 bit; 01 R31 row 2; reset 0] boot is complete. -/
  booted   : Bool
  /-- [4 bits; 19 R476; reset 0] the boot step that failed, 0 for none. -/
  bootStep : Nat
  /-- [1 bit; 01 R35; reset 0] a boot step failed. -/
  bootFailed : Bool
  /-- [1 bit; 16 R418; reset 0] the Shepherd pair has halted. -/
  shpHalt : Bool
  /-- [1 bit; 01 R31 row 3; reset 0] BELAY entered and not yet left. -/
  inBelay  : Bool
  /-- [8 bits; 00 R1; reset factory fuse] the VARIANT code. -/
  variant  : Nat
  /-- [2 bits; 17 R438; reset 0] cause of the last RESET: 0 power-on, 1 warm reset, 2 power cycle. -/
  rstCause : Nat
  /-- [1 bit; 19 R486; reset 0] SYS_LOCK is set. -/
  lock     : Bool
  deriving DecidableEq, Repr

/-- A PTP master seen in Announce messages (R66). -/
structure PtpMaster where
  /-- [8 bits; 02 R66; reset none] grandmaster priority1. -/
  prio1    : Nat
  /-- [32 bits; 02 R66; reset none] clockClass, accuracy and variance in comparison order. -/
  quality  : Nat
  /-- [8 bits; 02 R66; reset none] grandmaster priority2. -/
  prio2    : Nat
  /-- [64 bits; 02 R66; reset none] grandmaster identity. -/
  gmId     : Nat
  /-- [16 bits; 02 R66; reset none] stepsRemoved. -/
  steps    : Nat
  /-- [80 bits; 02 R66; reset none] identity of the port that sent the Announce. -/
  srcId    : Nat
  /-- [8 bits; 02 R69; reset none] logAnnounceInterval. -/
  logInt   : Int
  /-- [tick; 02 R69; reset none] arrival of its last Announce. -/
  heardAt  : Nat
  deriving DecidableEq, Repr

/-- One time domain and its PTP instance. Its OFS, RATE, STEP, SERVO and SPAR words are registers. -/
structure Domain where
  /-- [40 bits; 02 R51; reset 0] fraction of the offset, 2^-40 ns. -/
  frac     : Nat
  /-- [32 bits; 02 R51; reset 0] ANCHOR, raw FRC of the last fold. -/
  anchor   : Word
  /-- [4 bits; 02 R67; reset 0 FREE] domain state. -/
  st       : Nat
  /-- [rational; 02 R68; reset 0] integ of the servo in units of 2^-40. -/
  integ    : Q
  /-- [16 entries; 02 R69; reset empty] the last 16 servo outputs, newest first, 2^-40. -/
  outputs  : List Int
  /-- [5 bits; 02 R68; reset 0] consecutive updates with the offset below LOCK_NS. -/
  good     : Nat
  /-- [3 bits; 02 R68; reset 0] consecutive updates at or above 4 LOCK_NS. -/
  bad      : Nat
  /-- [record; 02 R66; reset none] masters heard, newest Announce first. -/
  masters  : List PtpMaster
  /-- [record; 02 R66; reset none] the selected parent. -/
  parent   : Option PtpMaster
  /-- [ns; 02 R68; reset 0] meanPathDelay in use. -/
  pathDelay : Int
  /-- [ns; 02 R66; reset none] t1 (master) and t2 (own stamp) of the last Sync used. -/
  lastSync : Option (Int × Int)
  /-- [tick; 02 R69; reset 0] the last Sync used, or the selection of the parent. -/
  syncAt   : Nat
  /-- [8 bits; 02 R69; reset 1, the longest interval accepted] logSyncInterval of that Sync. -/
  syncLog  : Int
  /-- [ns; 02 R66; reset none] own stamp t3 of the last delay request sent. -/
  reqSent  : Option Int
  /-- [1 bit; 02 R76; reset 0] LOCKED was reached since power-up. -/
  lockedOnce : Bool
  deriving DecidableEq, Repr

/-- A pulse output: the parameters in service and the run state (R61 to R63). -/
structure PulseOut where
  /-- [1 bit; 02 R62; reset 0] armed. -/
  armed  : Bool
  /-- [1 bit; 02 R61; reset 0] output active. -/
  active : Bool
  /-- [32 bits; 02 R62; reset 0] TGT in service. -/
  tgt    : Word
  /-- [32 bits; 02 R62; reset 0] PERIOD in service, saturated. -/
  period : Word
  /-- [32 bits; 02 R62; reset 0] WIDTH in service, saturated. -/
  width  : Word
  /-- [32 bits; 02 R61; reset 0] selected time at which the active pulse ends. -/
  endAt  : Word
  /-- [32 bits; 02 R62; reset 0] WIDTH under which the active pulse completes. -/
  curWidth : Word
  deriving DecidableEq, Repr

/-- The calendar of the backup domain (R72 to R75). -/
structure Rtc where
  /-- [s; 02 R72; reset 0 (2000-01-01)] seconds since 2000-01-01 00:00:00. -/
  secs    : Nat
  /-- [15 bits; 02 R74; reset 0] 1/32768 s. -/
  sub     : Nat
  /-- [rational; 02 R44; reset 0] phase of the 32.768 kHz oscillator, in 10^-9 of a cycle. -/
  phase   : Nat
  /-- [20 bits; 02 R75; reset 0] oscillator cycles since the last trim. -/
  trimCyc : Nat
  /-- [15 bits; 02 CLK_MON_REF; reset 0] oscillator cycles of the present CLK_MON_REF window. -/
  monCyc  : Nat
  /-- [1 bit; 02 R72; reset 0] calendar valid. -/
  valid   : Bool
  /-- [1 bit; 02 R48; reset 0] oscillator running. -/
  oscRun  : Bool
  /-- [1 bit; 02 TIME_RTC_STATUS; reset 0] VBAT below 2.0 V. -/
  vbatLow : Bool
  /-- [1 bit; 02 R72; reset 0] the calendar has stopped after 2199-12-31 23:59:59. -/
  stopped : Bool
  /-- [31 bits; 02 R48; reset 0] ns since VDDIO_33 reached its operating range, up to 2 s. -/
  supplyNs : Nat
  /-- [1 bit; 02 R48; reset 0] the oscillator has started since then. -/
  started : Bool
  /-- [record; 02 R74; reset none] date and time waiting for the next 1/32768 s edge. -/
  setPend : Option Nat
  deriving DecidableEq, Repr

/-- The timebase. -/
structure TimeBase where
  /-- [record; 02 R51] domain A. -/
  a       : Domain
  /-- [record; 02 R51] domain B. -/
  b       : Domain
  /-- [2^-40/10^6 ns; 02 R57; reset 0] slew residual D. -/
  slew    : Int
  /-- [8 x record; 02 R61] pulse outputs. -/
  tp      : Vector PulseOut 8
  /-- [8 x 16 entries; 02 R64; reset empty] capture FIFOs: raw stamp and edge (true rising), oldest first. -/
  tc      : Vector (List (Word × Bool)) 8
  /-- [record; 02 R72] calendar. -/
  rtc     : Rtc
  /-- [4 bits; 02 CLK_STATUS; reset 0] SD_LOCK. -/
  sdLock  : BitVec 4
  /-- [1 bit; 02 CLK_STATUS; reset 0] PCIE_LOCK. -/
  pcieLock : Bool
  /-- [1 bit; 02 CLK_STATUS; reset 0] DDR_LOCK. -/
  ddrLock : Bool
  /-- [1 bit; 02 CLK_STATUS; reset 0] ROOT_LOCK. -/
  rootLock : Bool
  /-- [2 x 2 bits; 02 ETHn_STATUS; reset 0] BLOCK_LOCK and LINK_UP of ETH0 and ETH1. -/
  eth     : Vector (BitVec 2) 2
  deriving DecidableEq, Repr

/-- A point of a beam's execution: program counter and the iteration of every open loop, innermost first. -/
structure Key where
  pc    : Nat
  iters : List Nat
  deriving DecidableEq, Repr

/-- The merged schedule at a meeting point: the first terms of program time, the instructions of the open window, and the
end of the slot before it (R99, R139). -/
structure Merge where
  base  : Nat
  count : Nat
  rel   : Nat
  deriving DecidableEq, Repr

/-- What admission promises for a job (R159), with what the engines need of it (R92, R93, R99, R161). -/
structure Promise where
  /-- [48 bits; 05 R154] JT_FIN. -/
  jtFin  : Nat
  /-- [16 x 48 bits; 05 R154] beam finishes F_b. -/
  finish : List (Nat × Nat)
  /-- [record; 05 R159] scheduled start s of every stroke: beam, key, JT. -/
  begins : List (Nat × Key × Nat)
  /-- [record; 04 R94] scheduled end of every stroke's slot: beam, key, JT. -/
  ends   : List (Nat × Key × Nat)
  /-- [record; 06 R170] scheduled begin of every stroke's slot: beam, key, JT. -/
  slots  : List (Nat × Key × Nat)
  /-- [record; 04 R516] strokes whose joint with the stroke before is blended: beam, key. -/
  blends : List (Nat × Key)
  /-- [record; 03 R92] scheduled wait of every ZACQ and MUSTER: beam, key, ns. -/
  waits  : List (Nat × Key × Nat)
  /-- [record; 03 R99] merged schedules: beam, key, value. -/
  merges : List (Nat × Key × Merge)
  /-- [record; 03 R108] the words that admission walked: beam, code word offset, instruction. -/
  code   : List (Nat × Nat × PInstr)
  /-- [record; 05 R156] slots each stream needs: stream 0 fetch, 1 ledger, 2 profile, 3 tables; index; slots. -/
  needs  : List (Nat × Nat × Nat)
  /-- [sQ8.7; 05 R157] predicted peak hotspot. -/
  peak   : Int
  /-- [sQ8.7; 05 R157] hotspot from which the prediction started. -/
  start  : Int
  /-- [64 bits; 15 R401] schedule digest. -/
  digest : DWord
  /-- [record; 05 R164] strokes on the latest path of each beam. -/
  strokes : List (Nat × Nat)
  /-- [48 bits; 05 R154] F_m, the finish of the machine program. -/
  machFin : Nat
  /-- [record; 05 R149] where each beam's latest path leaves its head: beam, point, focus. -/
  last   : List (Nat × Pt × Int)
  /-- [record; 03 R100] barrier instances not released yet: ID, instance, mask, CELL, release JT. -/
  bars   : List (Nat × Nat × Nat × Bool × Nat)
  /-- [record; 12 R330] scheduled ends of the pitches not begun yet, in the order of each axis: axis, JT. -/
  axEnds : List (Nat × Nat)
  /-- [record; 12 R329, R330] last target issued on each axis of the machine program: axis, counts. -/
  axLast : List (Nat × Int)
  deriving DecidableEq, Repr

/-- A violation: code, LOC and time in ns (R160, R162). -/
structure Viol where
  code : Nat
  obj  : Nat
  beam : Nat
  off  : Nat
  time : Nat
  deriving DecidableEq, Repr

/-- What an analysis comes to: the first violation, or the promise (R153). -/
structure Analysis where
  viol    : Option Viol
  promise : Option Promise
  walked  : Nat
  /-- FIN: the latest finish of a beam, or JT_FIN in phase 6. -/
  fin     : Nat
  /-- Each beam with its latest program time and its strokes walked. -/
  beams   : List (Nat × Nat × Nat)
  hotspot : Int
  deriving DecidableEq, Repr

/-- Job states in the order of their codes (JOB_SLOTn_STATUS.STATE). -/
inductive JobState where
  | empty | analysing | accepted | rejected | armed | running | holding | done | aborted
  deriving DecidableEq, Repr

/-- A job slot (R39, R144, R164). -/
structure JobSlot where
  /-- [4 bits; 01 R39; reset EMPTY] job state. -/
  st       : JobState
  /-- [4 bits; 05 R153; reset 0] analysis phase. -/
  phase    : Nat
  /-- [1024 bits; 05 R144; reset 0] copy of the descriptor, byte 0 in the low bits. -/
  desc     : BitVec 1024
  /-- [64 bits; 05 R144; reset 0] device address of the descriptor at SUBMIT. -/
  descAt   : Nat
  /-- [record; 05 R159; reset none] the promise held. -/
  promise  : Option Promise
  /-- [1 bit; 05 R151; reset 0] preparation complete. -/
  ready    : Bool
  /-- [set slots; 13 R341; reset empty] set slots that the job has drawn on. -/
  locks : List Nat
  /-- [1 bit; 03 R42; reset 0] the promise was withdrawn. -/
  withdrawn : Bool
  /-- [1 bit; 05 R166; reset 0] the slot holds a remainder. -/
  remainder : Bool
  /-- [4 bits; 05 R151; reset 0] start events ignored before READY. -/
  early    : Nat
  /-- [8 bits; 05 R162; reset 0] rejection code. -/
  code     : Nat
  /-- [7 bits; 05 R163; reset 0] publish counter. -/
  seq      : Nat
  /-- [1 bit; 05 R148; reset 0] auto-arm cancelled. -/
  autoFail : Bool
  /-- [1 bit; 05 R148; reset 0] auto-arm waits for another slot to leave ARMED. -/
  autoWait : Bool
  /-- [32 bits; 05 R160; reset 0] LOC. -/
  loc      : Word
  /-- [32 bits; 05 R160; reset 0] LOC_AUX. -/
  locAux   : Word
  /-- [48 bits; 05 R164; reset 0] instructions walked. -/
  walked   : Nat
  /-- [48 bits; 05 R164; reset 0] FIN. -/
  fin      : Nat
  /-- [sQ8.7; 05 R157; reset 0] HOTSPOT. -/
  hotspot  : Int
  /-- [extended tick; 05 R150; reset none] S once fixed. -/
  s        : Option Nat
  /-- [32 bits; 05 R150; reset 0] DT_START. -/
  dtStart  : Word
  /-- [tick; 05 R150; reset 0] the tick whose device time DT_START reports: S, or the bound of an AFTER_PREV job. -/
  startAt  : Nat
  /-- [32 bits; 05 R159; reset 0] DT_FIN. -/
  dtFin    : Word
  /-- [16 x 48 bits; 05 R164; reset 0] BEAMb TIME. -/
  bTime    : Vector Nat 16
  /-- [16 x 32 bits; 05 R164; reset 0] BEAMb STROKES. -/
  bStrokes : Vector Nat 16
  /-- [16 x 8 bits; 05 JOB_SLOTn_BEAMb_PROC; reset 0] rise events. -/
  bRise    : Vector Nat 16
  /-- [16 x 8 bits; 05 JOB_SLOTn_BEAMb_PROC; reset 0] LOOP_CLAMP events. -/
  bClamp   : Vector Nat 16
  /-- [16 x counter; 05 JOB_SLOTn_BEAMb_PROC; reset 0] samples in feed-forward fallback. -/
  bFF      : Vector Nat 16
  /-- [tick; 05 R149; reset none] preparation begin. -/
  prepAt   : Option Nat
  /-- [ns; 05 R149; reset 0] t_prep fixed at preparation begin. -/
  tPrep    : Nat
  /-- [tick; 05 R149; reset 0] begin of the drift allotment, after positioning and settling. -/
  driftAt  : Nat
  /-- [counter; 05 R163; reset 0] the housekeeping round of its last periodic publish. -/
  pubRound : Nat
  /-- [3 x 32 bits; 05 R149; reset 0] JOB_POS, JOB_SETTLE and JOB_PREP as the ARM found them. -/
  prepCfg  : Vector Word 3
  /-- [tick; 05 R142; reset 0] tick of the ARM. -/
  armAt    : Nat
  /-- [2 bits; 05 R150; reset none] predecessor slot of an AFTER_PREV job. -/
  predSlot : Option Slot
  /-- [1 bit; 05 R151; reset 0] the start event was taken. -/
  started  : Bool
  /-- [tick; 01 R40; reset none] commit tick. -/
  commitAt : Option Nat
  /-- [record; 15 R401; reset none] the partner's answer: result code, JT_FIN, digest. -/
  twinAns  : Option (Nat × Nat × DWord)
  /-- [record; 01 R42; reset none] what the new analysis asked for by an ARM comes to, from the state at that ARM. -/
  decided  : Option Analysis
  deriving DecidableEq, Repr

/-- The JOB block. -/
structure JobBlock where
  /-- [4 x record; 01 R39] slots. -/
  slot    : Vector JobSlot 4
  /-- [4 entries; 05 R146; reset empty] slots waiting for the walker, in order. -/
  queue   : List Slot
  /-- [2 bits; 05 R146; reset none] the slot being walked. -/
  walking : Option Slot
  /-- [2 bits; 05 R168; reset none] the slot of the last job to leave RUNNING, where it left by its commit. -/
  left    : Option Slot
  deriving DecidableEq, Repr

end Sys2Proof.Machine
end

