-- ==== Sys2Proof/Machine/StateBeam.lean ====
section
/-! DEFINITION. The parts of the state: beam engine, light drive. A field's bracket gives its width, the file and rule
of spec/ that names it, and its value at reset. -/

namespace Sys2Proof.Machine

/-- A loop stack entry (R77). -/
structure LoopEntry where
  /-- [23 bits; 03 R77] body start word. -/
  start     : Nat
  /-- [24 bits; 03 R77] remaining count. -/
  remaining : Nat
  /-- [24 bits; model's key of an iteration] iterations done. -/
  iter      : Nat
  deriving DecidableEq, Repr

/-- The programmer-visible state of a beam engine at its decode stage (R77), with the scales of R133 and the terms of
program time (R78). -/
structure PState where
  /-- [16 x 32 bits; 03 R77; reset 0] G0 to G15. -/
  g      : Vector Word 16
  /-- [32 bits; 03 R77; reset 0] PX. -/
  px     : Word
  /-- [32 bits; 03 R77; reset 0] PY. -/
  py     : Word
  /-- [32 bits; 03 R77; reset 0] PZ. -/
  pz     : Word
  /-- [1 bit; 03 R77; reset 0] flag Z. -/
  z      : Bool
  /-- [1 bit; 03 R77; reset 0] flag N. -/
  n      : Bool
  /-- [1 bit; 03 R77; reset 0] flag C. -/
  c      : Bool
  /-- [1 bit; 03 R77; reset 0] flag V. -/
  v      : Bool
  /-- [23 bits; 03 R77; reset 0] PC. -/
  pc     : Nat
  /-- [8 entries; 03 R77; reset empty] loop stack, innermost first. -/
  loops  : List LoopEntry
  /-- [16 bits; 03 R77; reset none] paddock set held in program order. -/
  held   : Option Nat
  /-- [16 bits; 04 R133; reset 0x8000] P_SCALE. -/
  pScale : Nat
  /-- [16 bits; 04 R133; reset 0x8000] IREF_SCALE. -/
  irefScale : Nat
  /-- [1 bit; 04 R133; reset 0] FB_HOLD. -/
  fbHold : Bool
  /-- [48 bits; 03 R78; reset 0] scheduled end of the last stroke decoded. -/
  progEnd : Nat
  /-- [48 bits; 03 R105; reset 0] end of the slot of the last stroke decoded. -/
  lastEnd : Nat
  /-- [counter; 03 R91; reset 0] control instructions of the open window. -/
  window : Nat
  /-- [48 bits; 03 R92; reset 0] scheduled waits of the open window. -/
  waits  : Nat
  /-- [record; 03 R106; reset empty] barrier instances passed: ID and count. -/
  passed : List (Nat × Nat)
  /-- [1 bit; 04 R134; reset 0] a FOCUS waits for its JUMP or SPOT. -/
  focusPend : Bool
  /-- [32 bits; 04 R134; reset 0] the PZ from which the FOCUS ramps. -/
  zFrom  : Word
  /-- [1 bit; 04 R136; reset 0] HALT has been decoded. -/
  halted : Bool
  /-- [1 bit; 05 R184; reset 0] the next stroke decoded is the rerun stroke. -/
  rerun  : Bool
  deriving DecidableEq, Repr

/-- The stroke kinds of R111. -/
inductive StrokeKind where
  | mark | jump | arc | spot
  deriving DecidableEq, Repr

/-- A decoded stroke, with everything needed to run it (R170). Times are JT in ns, lengths nm. -/
structure Stroke where
  /-- [2 bits; 06 R170] kind. -/
  kind    : StrokeKind
  /-- [8 bits; 04 R111] FLAGS. -/
  flags   : BitVec 8
  /-- [record; 06 R161] key of the scheduled begin. -/
  key     : Key
  /-- [record; 03 R106] decode state just before the stroke was decoded. -/
  snap    : PState
  /-- [record; 03 R106] scratch words overwritten between this decode and the next, newest first: address, old word. -/
  undo    : List (Nat × Word)
  /-- [48 bits; 06 R170] slot begin. -/
  slotAt  : Nat
  /-- [32 bits; 06 R170] bridge, or the move time of a JUMP, or T_pos of a SPOT. -/
  tBr     : Nat
  /-- [32 bits; 06 R170] run-up. -/
  tRu     : Nat
  /-- [32 bits; 06 R170] path, or the dwell of a SPOT. -/
  tPath   : Nat
  /-- [32 bits; 06 R170] run-out. -/
  tRo     : Nat
  /-- [point; 06 R170] commanded position at the slot begin. -/
  m0      : Pt
  /-- [point; 06 R170] Q0, or the target of a JUMP. -/
  q0      : Pt
  /-- [point; 06 R170] P0. -/
  p0      : Pt
  /-- [point; 06 R170] P1. -/
  p1      : Pt
  /-- [point; 06 R170] centre of an ARC. -/
  cen     : Pt
  /-- [point; 06 R170] Q1. -/
  q1      : Pt
  /-- [24 bits; 04 R112] speed in µm/s, or the dwell of a SPOT. -/
  speed   : Nat
  /-- [speed; 04 R117] entry speed of the path in nm/ns. -/
  vIn     : Q
  /-- [speed; 04 R117] exit speed of the path in nm/ns. -/
  vOut    : Q
  /-- [32 bits; 03 R89] ACC in m/s². -/
  acc     : Nat
  /-- [32 bits; 03 R89] RUNUP. -/
  runup   : Nat
  /-- [32 bits; 03 R89] RUNOUT. -/
  runout  : Nat
  /-- [32 bits; 03 R89] CORNER_TOL. -/
  tol     : Nat
  /-- [32 bits; 03 R89] LON_DLY. -/
  lon     : Int
  /-- [32 bits; 03 R89] LOFF_DLY. -/
  loff    : Int
  /-- [1 bit; 04 R117] the joint into this stroke is blended. -/
  blendIn : Bool
  /-- [1 bit; 04 R117] the joint out of this stroke is blended. -/
  blendOut : Bool
  /-- [1 bit; 06 R175] the stroke's end is fixed (its successor or HALT has been decoded). -/
  fixed   : Bool
  /-- [nm; 06 R175] fillet half-length a at the joint out of this stroke. -/
  filA    : Nat
  /-- [nm; 06 R175] fillet radius at the joint out of this stroke. -/
  filR    : Nat
  /-- [32 bits; 06 R170] scheduled gate-on, 125 ps of JT, before the lag term. -/
  gOn     : Option Int
  /-- [32 bits; 06 R170] scheduled gate-off, 125 ps of JT, before the lag term. -/
  gOff    : Option Int
  /-- [16 bits; 04 R133] P_stroke. -/
  power   : Nat
  /-- [8 bits; 06 R170] profile index. -/
  profile : Nat
  /-- [16 bits; 06 R170] IREF_SCALE in force at decode. -/
  irefScale : Nat
  /-- [1 bit; 06 R170] FB_HOLD in force at decode. -/
  fbHold  : Bool
  /-- [32 bits; 04 R134] focus at the begin of the move. -/
  z0      : Word
  /-- [32 bits; 04 R134] focus at its end. -/
  z1      : Word
  /-- [1 bit; 06 R161] the stroke has started. -/
  began   : Bool
  /-- [125 ps; 06 R178] lag term of the exposure in force. -/
  tau     : Nat
  /-- [1 bit; 06 R178] the gate-on edge was placed. -/
  onDone  : Bool
  /-- [1 bit; 06 R178] the gate-off edge was placed. -/
  offDone : Bool
  /-- [1 bit; 05 R184] a rerun stroke. -/
  isRerun : Bool
  /-- [nm; 06 R184] path of a rerun stroke from its rejoin point to the stop point. -/
  back    : Nat
  /-- [1 bit; 06 R185] its gate-on is placed where the path reaches the stop point. -/
  skip    : Bool
  deriving DecidableEq, Repr

/-- A gate-open interval at LGATEn: edges in 125 ps of extended FRC; `off` none while open. -/
structure GateIv where
  /-- [125 ps; 06 R178] gate-on edge. -/
  on_     : Int
  /-- [125 ps; 06 R178] gate-off edge. -/
  off     : Option Int
  /-- [125 ps; 06 R178] lag term of the chain. -/
  tau     : Nat
  /-- [record; 06 R176] strokes of the chain: end of the path phase in JT (ns), P_stroke, profile, IREF_SCALE, FB_HOLD. -/
  parts   : List (Nat × Nat × Nat × Nat × Bool)
  deriving DecidableEq, Repr

/-- A program event (R135, R188). -/
structure PEvent where
  /-- [16 bits; 04 R135] CODE. -/
  code  : Nat
  /-- [32 bits; 04 R135] value. -/
  value : Word
  /-- [48 bits; 04 R135] program time. -/
  time  : Nat
  /-- [1 bit; 04 R135] raise MSI-X on release. -/
  irq   : Bool
  deriving DecidableEq, Repr

/-- The stop record of R183, as kept through HOLD. -/
structure StopRec where
  /-- [4 bits; 06 R183] KIND. -/
  kind    : Nat
  /-- [2 bits; 06 R182] FORM. -/
  form    : Nat
  /-- [23 bits; 06 R183] PC. -/
  pc      : Nat
  /-- [point; 06 R183] stop point. -/
  pt      : Pt
  /-- [32 bits; 06 R183] remainder. -/
  rem     : Nat
  /-- [tick; 06 R179] stop tick. -/
  at_     : Nat
  /-- [record; 03 R106] decode state kept. -/
  kept    : PState
  /-- [record; 03 R106] the interrupted stroke, when it had been decoded. -/
  stroke  : Option Stroke
  /-- [record; 06 R184] what the remainder reruns first: kind and remainder of its stop, the stroke. -/
  src     : Option (Nat × Nat × Stroke)
  /-- [16 bits; 03 R106] paddock set held at the stop point in program order. -/
  setHeld : Option Nat
  /-- [2 bits; 06 R183] job slot whose beam stopped. -/
  slot    : Slot
  /-- [nm; 06 R184, R186] BEn_REJOIN.OVL in force at the stop. -/
  ovl     : Nat
  /-- [record; 15 R404] strokes decoded at the stop, oldest first: where the LEAD's stop lies elsewhere, its decode state. -/
  seen    : List Stroke
  /-- [record; 15 R404] decode state ahead of the stop. -/
  front   : PState
  /-- [record; 15 R404] scratch words that the stop restored, as they were: address, word. -/
  redo    : List (Nat × Word)
  deriving DecidableEq, Repr

/-- A stop in progress: the ramp of R180 or R181, or the wait for the end of the stroke. -/
structure StopMove where
  /-- [2 bits; 06 R182] form of the stop. -/
  form  : Nat
  /-- [tick; 06 R180] ramp begin. -/
  t0    : Nat
  /-- [ns; 06 R180] ramp duration. -/
  dur   : Q
  /-- [point; 06 R180] position at the ramp begin. -/
  from_ : QPt
  /-- [nm/ns; 06 R180] velocity at the ramp begin, X. -/
  vx    : Q
  /-- [nm/ns; 06 R180] velocity at the ramp begin, Y. -/
  vy    : Q
  /-- [tick; 06 R181] instant at which the mirror holds. -/
  endAt : Nat
  /-- [1 bit; 06 R180] the mirror holds in closed loop. -/
  done  : Bool
  deriving DecidableEq, Repr

/-- The course that a job's engine ran, kept past its end for the instants before it (R242): until when, S, the strokes and
the stop that shape it, the position outside any slot. -/
structure Course where
  until_ : Nat
  s0     : Nat
  fifo   : List Stroke
  move   : Option StopMove
  m      : Pt
  deriving DecidableEq, Repr

/-- A commanded position as kept for one update (R177): its instant, head units, and the bed point in nm. -/
structure CmdPt where
  at_ : Nat
  hx  : Int
  hy  : Int
  p   : Pt
  deriving DecidableEq, Repr

/-- An observer estimate of one axis (R177, R304): update instant, tick at which the update completes, head units,
validity. -/
structure ObsPt where
  at_  : Nat
  done : Nat
  est  : Int
  ok   : Bool
  deriving DecidableEq, Repr

/-- A beam engine. -/
structure BeamEng where
  /-- [2 bits; 05 R149; reset none] job slot whose program the engine decodes or runs. -/
  job    : Option Slot
  /-- [record; 03 R77] decode state. -/
  dec    : PState
  /-- [64 entries; 06 R170; reset empty] stroke FIFO, oldest first. -/
  fifo   : List Stroke
  /-- [counter; 05 R164; reset 0] strokes completed. -/
  strokesDone : Nat
  /-- [48 bits; 06 R161; reset 0] scheduled JT of the last stroke started. -/
  lastStart : Nat
  /-- [point; 04 R113; reset 0] commanded position outside any slot. -/
  m      : Pt
  /-- [32 bits; 06 R171; reset 0] focus outside any slot. -/
  mz     : Word
  /-- [48 bits; 06 BEn_JT; reset 0] physical JT held after commit or stop. -/
  jtLast : Nat
  /-- [tick; 05 R149; reset none] positioning: begin tick and start position. -/
  posFrom : Option (Nat × Pt)
  /-- [32 bits; 05 R149; reset 0] focus at the positioning begin. -/
  zStart : Word
  /-- [tick; 05 R149; reset 0] end of positioning. -/
  posEnd : Nat
  /-- [64 entries; 06 R188; reset empty] event FIFO, oldest first. -/
  events : List PEvent
  /-- [record; 04 R135; reset empty] events not yet released, oldest first. -/
  pendEv : List PEvent
  /-- [256 entries; 06 R177; reset empty] commanded positions of the last updates of the head, newest first. -/
  hist   : List CmdPt
  /-- [2 x 256 entries; 06 R177; reset empty] observer estimates of the X and of the Y slot, newest first. -/
  obs    : Vector (List ObsPt) 2
  /-- [record; 06 R178; reset empty] recent gate-open intervals, newest first. -/
  gates  : List GateIv
  /-- [record; 06 R183; reset none] stop record. -/
  stop   : Option StopRec
  /-- [record; 06 R180; reset none] stop in progress. -/
  move   : Option StopMove
  /-- [1 bit; 06 R179; reset none] stop request: true at once, false end of stroke. -/
  stopReq : Option Bool
  /-- [9 x 32 bits; 06 R186; reset registers' reset] AXES, LAG_CFG, LAG_DEF, STOP_CFG, REJOIN, REJOIN_EMAX and PWR_CFG
  as sampled at S. -/
  cfg    : Vector Word 7
  /-- [16 bits; 07 R100; reset none] MUSTER the beam has reached: ID, mask, CELL, instance, release JT. -/
  barrier : List (Nat × Nat × Bool × Nat × Nat)
  /-- [1 bit; 05 R185; reset 0] the rejoin overlap is skipped. -/
  skip   : Bool
  /-- [1 bit; 20 Device memory; reset 0] a fetch has filled the prefetch ring of the local SRAM since RESET. -/
  fetched : Bool
  /-- [448 KiB; 06 R169; reset empty] bytes that the host has written into the ring since its last fetch. -/
  ring    : List (Nat × Byte)
  /-- [bytes; 05 R519; reset 0] program words decoded since the preparation begin. -/
  read    : Nat
  /-- [record; 03 R106; reset empty] scratch words overwritten since the preparation begin before any stroke, newest first:
  address, old word. -/
  undo    : List (Nat × Word)
  /-- [record; 09 R242; reset none] the course of the last job of the beam. -/
  past    : Option Course
  /-- [ns; 03 R92; reset 0] JT before which no slot begins (a release or grant awaited). -/
  holdTo : Nat
  deriving DecidableEq, Repr

/-- A light drive channel. -/
structure Laser where
  /-- [2 bits; 07 R518; reset 0] EMIT_OFF cells with STATE 0 still to send. -/
  relLeft : Nat
  /-- [tick; 07 R518; reset 0] tick of the next repeat of EMIT_OFF. -/
  offNext : Nat
  /-- [3 x 32 bits; 07 R192; reset registers' reset] CTL, PWM and MUSTER_DLY as sampled at S. -/
  cfg     : Vector Word 3
  /-- [3 x 32 bits; 07 R210; reset registers' reset] DIAG_TIME, DIAG_CFG and DIAG_THR in force. -/
  diag    : Vector Word 3
  /-- [sample; 07 R208; reset 0] first sample of the present diagnosis window. -/
  winAt   : Nat
  /-- [16 bits; 07 R208; reset 0] short on-time added in the window, samples. -/
  acc     : Nat
  /-- [1 bit; 07 R208; reset 0] one of the samples added showed emission. -/
  accEmit : Bool
  /-- [1 bit; 07 R208; reset 0] an interval was checked alone in the window and passed. -/
  alone   : Bool
  /-- [1 bit; 07 R208; reset 0] an interval was checked alone in the window and failed. -/
  failed  : Bool
  /-- [16 bits; 07 R207; reset 0] eligible samples of the present interval. -/
  ivLen   : Nat
  /-- [1 bit; 07 R207; reset 0] one of them showed emission. -/
  ivEmit  : Bool
  /-- [125 ps; 07 R207; reset none] gate-on edge of the interval being counted. -/
  ivOn    : Option Int
  /-- [8 bits; 07 R209; reset 0] consecutive off samples that showed emission, 256 once they have raised EMIT_STUCK. -/
  stuck   : Nat
  /-- [16 bits; 07 R206; reset 0] consecutive lost samples up to the last one counted. -/
  lost    : Nat
  /-- [1 bit; 07 R206; reset 0] the present run of lost samples has raised RPT_LOSS. -/
  lossUp  : Bool
  /-- [sample; 07 R206; reset 0] the first sample not yet counted in the run of lost ones. -/
  next    : Nat
  /-- [1 bit; 07 LDn_STATUS; reset 0] the latest sample's report is lost. -/
  lastLost : Bool
  /-- [1 bit; 07 LDn_STATUS; reset 0] the last report shows emission. -/
  lastEmit : Bool
  /-- [32 entries; 07 R191; reset empty] power words sent, newest first: sample, word. -/
  words   : List (Nat × Nat)
  /-- [tick; 07 R198; reset none] present PWM period: begin (125 ps), on-time (125 ps), open at its start. -/
  pwm     : Option (Int × Int)
  /-- [32 entries; 07 R206; reset empty] samples whose report was received or declared lost, newest first: sample, lost. -/
  seen    : List (Nat × Bool)
  /-- [32 entries; 07 R189; reset empty] edges of LGATEn, newest first: instant (125 ps of extended FRC), level. -/
  edges   : List (Int × Bool)
  deriving DecidableEq, Repr

/-- The parts of light drive shared by all channels. -/
structure LaserCommon where
  /-- [1 bit; 07 LD_ILK_STATUS; reset pin, high] level of ILK_A_N. -/
  a      : Bool
  /-- [1 bit; 07 LD_ILK_STATUS; reset pin, high] level of ILK_B_N. -/
  b      : Bool
  /-- [1 bit; 07 R200; reset 0] interlock latch. -/
  latch  : Bool
  /-- [tick; 07 R202; reset 0] instant from which both inputs have been high. -/
  highAt : Nat
  /-- [tick; 07 R203; reset none] instant from which the inputs differ. -/
  diffAt : Option Nat
  /-- [1 bit; 07 R203; reset 0] ILK_DISCREP was raised for the present difference. -/
  diffRaised : Bool
  /-- [1 bit; 07 R205; reset 1] LASER_KILL_N asserted. -/
  kill   : Bool
  /-- [4 bits; 07 LD_KILL.CAUSE; reset 1] first cause. -/
  cause  : Nat
  deriving DecidableEq, Repr

end Sys2Proof.Machine
end

