-- ==== Sys2Proof/Machine/StateProcess.lean ====
section
/-! DEFINITION. The parts of the state: pool correction, pool eye, telemetry, heat ledger. A field's bracket gives its
width, the file and rule of spec/ that names it, and its value at reset. -/

namespace Sys2Proof.Machine

/-- A frame of the coaxial imager as received line by line (R225). -/
structure Frame where
  /-- [32 bits; 14 R372; reset none] frame number. -/
  num    : Nat
  /-- [64 bits; 08 R225; reset none] sample index of the exposure midpoint. -/
  mid    : Nat
  /-- [8 bits; 08 R225; reset none] width. -/
  w      : Nat
  /-- [8 bits; 08 R225; reset none] height. -/
  h      : Nat
  /-- [4 bits; 08 R225; reset none] depth, 10 or 12. -/
  depth  : Nat
  /-- [16,384 x 12 bits; 08 R226; reset none] pixels received, row by row, unscaled. -/
  pix    : List Nat
  /-- [8 bits; 08 R225; reset none] lines received. -/
  lines  : Nat
  /-- [32 bits; 08 R231; reset none] raw FRC at the arrival of the last line. -/
  frc    : Word
  /-- [tick; 08 R231; reset none] arrival of the first line. -/
  firstAt : Nat
  deriving DecidableEq, Repr

/-- The features of a frame (R226). -/
structure Features where
  area   : Nat
  sum    : Nat
  peak   : Nat
  cx     : Nat
  cy     : Nat
  len    : Nat
  wid    : Nat
  orient : Int
  valid  : Bool
  deriving DecidableEq, Repr

/-- A frame's contribution to TRIM waiting for its application sample (R228, R229). -/
structure TrimReq where
  at_   : Nat
  area  : Nat
  prof  : Nat
  epoch : Nat
  deriving DecidableEq, Repr

/-- A pool correction unit with its eye. -/
structure Pcu where
  /-- [16 bits; 08 R211; reset 0] A_h. -/
  ah     : Nat
  /-- [16 bits; 08 R211; reset 0] B_h. -/
  bh     : Nat
  /-- [sample; 08 R211; reset none] index of the last cell accepted. -/
  lastIdx : Option Nat
  /-- [record; 08 R212; reset empty] cells that arrived and are not yet used: index, and A and B where VALID. -/
  inbox  : List (Nat × Option (Nat × Nat))
  /-- [sample; 08 R212; reset 0] next sample to evaluate. -/
  next   : Nat
  /-- [8 bits; 08 R221; reset 0] consecutive samples without an accepted cell. -/
  lossRun : Nat
  /-- [16 bits; 08 R221; reset 0] length of the run of equal A_h that a freeze needs. -/
  frzRun : Nat
  /-- [16 bits; 08 R221; reset 0] the value of that run. -/
  frzVal : Nat
  /-- [64 bits; 08 R216; reset 0] integrator acc. -/
  acc    : Int
  /-- [16 bits; 08 PCUn_WORD; reset 0] last word formed. -/
  word   : Nat
  /-- [16 bits; 08 PCUn_WORD; reset 0] its NOM. -/
  nom    : Nat
  /-- [1 bit; 08 PCUn_STATUS; reset 0] OPEN of the last sample. -/
  opn    : Bool
  /-- [1 bit; 08 PCUn_STATUS; reset 0] feedback active on the last sample. -/
  fbActive : Bool
  /-- [1 bit; 08 R222; reset 0] in fallback. -/
  fallback : Bool
  /-- [1 bit; 08 PCUn_STATUS; reset 0] last sample clamped at P_MAX. -/
  clampHi : Bool
  /-- [1 bit; 08 PCUn_STATUS; reset 0] last sample clamped at P_MIN. -/
  clampLo : Bool
  /-- [1 bit; 08 PCUn_STATUS; reset 0] last sample restrained by SLEW. -/
  slewed : Bool
  /-- [8 bits; 08 PCUn_STATUS; reset 0] PROF of the last sample. -/
  prof   : Nat
  /-- [1 bit; 08 R223; reset 0] FB_HOLD of the stroke that supplied the last NOM. -/
  holdFb : Bool
  /-- [record; 09 R242; reset none] last OPEN sample and the lag term of its exposure. -/
  lastOpen : Option (Nat × Nat)
  /-- [125 ps; 08 R217; reset none] gate-on edge that names the exposure of the last OPEN sample. -/
  expo   : Option Int
  /-- [8 bits; 08 R217; reset none] PROF of the previous exposure. -/
  expoProf : Option Nat
  /-- [8 bits; 08 R222; reset 0] consecutive accepted cells up to now. -/
  okRun  : Nat
  /-- [256 entries; 08 R222; reset empty] values of A_h of that run, newest first, then the value held before it. -/
  okVals : List Nat
  /-- [32 bits; 08 R228; reset 0] TRIM. -/
  trim   : Int
  /-- [record; 08 R229; reset empty] trims waiting. -/
  trimQ  : List TrimReq
  /-- [counter; 08 R229; reset 0] resets of TRIM, which discard the frames before them. -/
  epoch  : Nat
  /-- [65536 entries; 08 R228; reset empty] recent samples, newest first: sample, OPEN with feedback active, PROF, epoch. -/
  hist   : List (Nat × Bool × Nat × Nat)
  /-- [6 x 32 bits; 08 R224; reset registers' reset] CTL, PD_CFG, FREEZE, EYE_CFG, EYE_THR and EYE_LOOP as sampled at S. -/
  cfg    : Vector Word 6
  /-- [32 bits; 14 R383; reset none] number of the last frame of which a line came, its wraps counted. -/
  frameNo : Option Nat
  /-- [record; 08 R225; reset none] frame being received. -/
  frame  : Option Frame
  /-- [record; 08 R227; reset none] complete frame whose features are not yet published. -/
  full   : Option Frame
  /-- [tick; 08 R230; reset none] instant from which OPEN samples with EYE_EN wait for a frame. -/
  eyeFrom : Option Nat
  /-- [1 bit; 08 R230; reset 0] EYE_LOSS was raised since the last accepted frame. -/
  eyeLost : Bool
  /-- [1 bit; 08 R230; reset 0] TRIM held under eye loss. -/
  hold   : Bool
  /-- [1 bit; 08 R231; reset 0] capture armed, trigger awaited. -/
  capArmed : Bool
  /-- [tick; 08 R231; reset none] trigger instant, frames captured from the next first line on. -/
  capFrom : Option Nat
  /-- [16 bits; 08 R231; reset 0] next offset in the capture buffer. -/
  capOff : Nat
  deriving DecidableEq, Repr

/-- The telemetry egress of an Ethernet port (R232). -/
structure Telemetry where
  /-- [1,408 bytes; 08 R232; reset empty] records of the open datagram, oldest first. -/
  recs    : List (List Byte)
  /-- [tick; 08 R232; reset 0] arrival of its first record. -/
  openAt  : Nat
  /-- [bytes; 08 R232; reset empty] datagrams closed that wait for the port, oldest first: SEQ and content. -/
  egress  : List (Nat × List Nat)
  /-- [tick; 02 R70; reset 0] end of the last frame that the port sends. -/
  wireEnd : Nat
  /-- [32 bits; 08 R232; reset 0] SEQ of the next datagram. -/
  seq     : Nat
  /-- [32 bits; 08 R232; reset 0] records dropped since the last DROP record. -/
  dropped : Nat
  /-- [32 bits; 08 R232; reset 0] raw FRC of the first of them. -/
  dropFrc : Word
  deriving DecidableEq, Repr

/-- A sample of a visit: index, OPEN, and the delivered power once known (lost counts as full scale). -/
structure VSample where
  k    : Nat
  opn  : Bool
  pwr  : Option Nat
  lost : Bool
  deriving DecidableEq, Repr

/-- A visit of a beam to a spot cell (R243): its samples newest first; `open_` until the next visit begins. -/
structure Visit where
  /-- [2 x 13 bits; 09 R242; reset none] spot cell, column and row, possibly outside the grid. -/
  i     : Int
  j     : Int
  /-- [record; 09 R243; reset none] samples. -/
  samples : List VSample
  /-- [1 bit; 09 R243; reset none] the visit may still take samples. -/
  open_ : Bool
  /-- [1 bit; 16 R424; reset none] a forced LDG_SUSPECT makes it suspect. -/
  susp  : Bool
  /-- [1 bit; 16 R424; reset none] a forced LDG_RISE sets RISE in its cells. -/
  rise  : Bool
  deriving DecidableEq, Repr

/-- The parameters under which a cell is read (R238, R239). -/
structure LdgPar where
  tau   : Nat
  kl    : Nat
  layer : Nat
  lmax  : Nat
  deriving DecidableEq, Repr

/-- One deposit of a commit, with the outcome of its rise test. -/
structure Deposit where
  cell   : Nat
  prior  : DWord
  d      : Nat
  centre : Bool
  rise   : Bool
  deriving DecidableEq, Repr

/-- A committed visit as kept for the views of R241: its tick and ledger time, the visit, the parameters, full scale and
kernel under which it was committed, and its deposits. -/
structure Commit where
  at_     : Nat
  lt      : Nat
  beam    : Nat
  ended   : Nat
  visit   : Visit
  par     : LdgPar
  fs      : Nat
  kernel  : List Nat
  suspect : Bool
  lit     : Bool
  deps    : List Deposit
  deriving DecidableEq, Repr

/-- A change of stored cells as kept for the views of R241: a committed visit, or a cell that the sweep rewrote, with its word
before (R252). -/
inductive Change
  | visit (c : Commit)
  | sweep (at_ cell : Nat) (prior : DWord)
  deriving DecidableEq, Repr

/-- An entry of the window cache (R250). -/
structure CacheEnt where
  cell  : Nat
  word  : DWord
  dirty : Bool
  beam  : Nat
  last  : Nat
  deriving DecidableEq, Repr

/-- The heat ledger. -/
structure Ledger where
  /-- [24 bits; 09 R237; reset 0] LT at the present period base. -/
  ltBase  : Nat
  /-- [tick; 09 R237; reset 0] the period base. -/
  ltAt    : Nat
  /-- [24 bits, tick; 09 R237; reset 0 and 0] LT and tick of the period base before the last S. -/
  ltPrev  : Nat × Nat
  /-- [24 bits; 09 R238; reset none: LDG_DEF_TAU] τ of the last job that ran. -/
  tau     : Option Nat
  /-- [16 bits; 09 R238; reset none: LDG_DEF_KL] K_L of the last job that ran. -/
  kl      : Option Nat
  /-- [8 bits; 09 R238; reset 0] current layer. -/
  layer   : Nat
  /-- [9 x 16 bits; 09 R243; reset 0] kernel of the job. -/
  kernel  : List Nat
  /-- [6 x 32 bits; 09 R253; reset registers' reset] GRID, CFG, BASE_LO, BASE_HI, ORG_X and ORG_Y in service. -/
  geo     : Vector Word 6
  /-- [3 x 32 bits; 09 R256; reset registers' reset] LDG_CFG, LDG_RISE and LDG_RISE_REP as sampled at S. -/
  cfg     : Vector Word 3
  /-- [16 x 32 bits; 09 R243; reset 0] FS_mW of each source as sampled at S. -/
  fs      : Vector Nat 16
  /-- [16 x record; 09 R243; reset empty] visits not yet committed, oldest first. -/
  visits  : Vector (List Visit) 16
  /-- [record; 09 R251; reset empty] cells taken as full for an uncorrectable error and not read again since. -/
  failed  : List Nat
  /-- [record; 09 R241; reset empty] recent changes of stored cells, oldest first. -/
  changes : List Change
  /-- [1,048,576 x 64 bits; 09 R250; reset empty] window cache. -/
  cache   : List CacheEnt
  /-- [16 x bytes; 09 R250; reset 0] cells fetched and written back that the ledger stream of each beam has yet to carry. -/
  owed    : Vector Nat 16
  /-- [16 x record; 09 R248; reset empty] ticks of recent rise events of each beam, newest first. -/
  rises   : Vector (List Nat) 16
  /-- [26 bits; 09 R252; reset 0] cell that the sweep visits next. -/
  sweep   : Nat
  /-- [tick; 09 R252; reset 0] tick at which the pass began. -/
  sweepFrom : Nat
  /-- [1 bit; 09 R252; reset 0] LDG_SWEEP_LATE raised in this pass. -/
  sweepLate : Bool
  /-- [3 bits; 09 R253; reset 0] operation in progress. -/
  op      : Nat
  /-- [1 bit; 09 R255; reset 0] a host query is in progress. -/
  qry     : Bool
  /-- [point; 09 R255; reset none] query: cell and view instant. -/
  qryAt   : Option (Int × Int × Nat)
  deriving DecidableEq, Repr

end Sys2Proof.Machine
end

