-- ==== Sys2Proof/Machine/StateShared.lean ====
section
/-! DEFINITION. The parts of the state: zone arbiter, memory fabric, loop engines. A field's bracket gives its width,
the file and rule of spec/ that names it, and its value at reset. -/

namespace Sys2Proof.Machine

/-- A waiting zone request (R264, R267). -/
structure ZReq where
  /-- [12 bits; 10 R265] set asked for. -/
  set   : Nat
  /-- [48 bits; 10 R264] program time of the ZACQ. -/
  time  : Nat
  /-- [counter; 10 R267] rounds lost. -/
  lost  : Nat
  /-- [record; 04 R123] key of the ZACQ. -/
  key   : Key
  deriving DecidableEq, Repr

/-- One beam's side of the zone arbiter. -/
structure ZoneBeam where
  /-- [record; 10 R264; reset empty] requests in program order: the first one waits, later ones follow its release. -/
  reqs    : List ZReq
  /-- [12 bits; 10 R266; reset none] set held. -/
  held    : Option Nat
  /-- [48 bits; 10 R264; reset empty] scheduled release instants (JT) of the grants in program order. -/
  rels    : List Nat
  /-- [48 bits; 10 R123; reset none] JT of the grant of the set held. -/
  granted : Option Nat
  /-- [3 bits; 10 R268; reset 0] base priority in force. -/
  base    : Nat
  /-- [3 bits; 10 R268; reset none] base stored until the release. -/
  nextBase : Option Nat
  /-- [8 bits; 10 R269; reset 0] grants counted in the quota window. -/
  quota   : Nat
  /-- [1 bit; 10 R269; reset 0] masked by quota. -/
  masked  : Bool
  deriving DecidableEq, Repr

/-- The zone arbiter. -/
structure Zone where
  /-- [1 bit; 10 ZONE_STATUS; reset 0] running rounds for a RUNNING job. -/
  active : Bool
  /-- [1 bit; 10 ZONE_STATUS; reset 0] the job has a paddock map. -/
  map    : Bool
  /-- [40 bits; 10 R264; reset 0] next round r. -/
  round  : Nat
  /-- [16 x record; 10 R265] beams. -/
  beam   : Vector ZoneBeam 16
  /-- [4,096 x 4 x 16 bits; 10 R260; reset empty] the sets of the map: I0, I1, J0, J1. -/
  sets   : List (Nat × Nat × Nat × Nat)
  /-- [256 entries; 10 R260; reset empty] priority entries not yet applied: JT_P, beam, base. -/
  prio   : List (Nat × Nat × Nat)
  /-- [40 bits; 10 R269; reset 0] quota windows ended since S. -/
  window : Nat
  deriving DecidableEq, Repr

/-- What a fabric transfer is for. -/
inductive XferKind where
  | fetch (beam : Nat)
  | ledger (beam : Nat)
  | profile (beam : Nat)
  | table (engine : Nat)
  | bestEffort (requester : Nat)
  deriving DecidableEq, Repr

/-- A transfer issued to level 0 and not yet complete (R277, R281). -/
structure Xfer where
  kind  : XferKind
  /-- [tick; 10 R277] start of the slot that issued it. -/
  at_   : Nat
  deriving DecidableEq, Repr

/-- A best-effort requester (R282). -/
structure BestEffort where
  /-- [tick; 10 R282; reset none] a transfer waits since this tick. -/
  pend   : Option Nat
  /-- [counter; 10 R282; reset 0] arbitrations lost with it. -/
  lost   : Nat
  /-- [8 bits; 10 R282; reset 0] wins in the quota window. -/
  wins   : Nat
  /-- [1 bit; 10 R282; reset 0] masked. -/
  masked : Bool
  /-- [3 bits; 10 R282; reset FAB_PRIO] base in force. -/
  base   : Nat
  /-- [1 bit; 10 R281; reset 0] what waits is a transfer that was cancelled. -/
  again  : Bool
  deriving DecidableEq, Repr

/-- The memory fabric. -/
structure Fabric where
  /-- [64 x 8 bits; 10 R279; reset 0] slot table in service. -/
  live   : Vector Byte 64
  /-- [1 bit; 10 FAB_STATUS; reset 0] a swap is pending. -/
  swapPend : Bool
  /-- [tick; 10 R283; reset 0] tick of the SWAP write. -/
  swapAt : Nat
  /-- [record; 10 R277; reset empty] transfers in progress, oldest first. -/
  flight : List Xfer
  /-- [tick; 10 R280; reset none] start of the last slot carried out. -/
  slotAt : Option Nat
  /-- [16 x record; 10 R282] best-effort requesters. -/
  be     : Vector BestEffort 16
  /-- [40 bits; 10 R282; reset 0] quota windows ended. -/
  window : Nat
  /-- [4 x 40 bits; 10 R301; reset none] fabric round in which the table stream of each engine last moved data. -/
  tabAt  : Vector (Option Nat) 4
  /-- [tick; 10 R283; reset 0] tick of the last shadow write. -/
  shAt   : Nat
  /-- [64 x 8 bits; 10 R283; reset 0] the shadow before the writes of that tick. -/
  shOld  : Vector Byte 64
  /-- [2 x tick; 10 R276; reset none] last debug-port burst of each channel. -/
  dbgAt  : Vector (Option Nat) 2
  deriving DecidableEq, Repr

/-- Slot states of a loop engine in the order of their codes (R302). -/
inductive LeState where
  | off | loaded | start | ramp | run | safe
  deriving DecidableEq, Repr

/-- The working values of a law during an update (R293). -/
structure LawCtx where
  /-- [4 x 64 bits; 11 R293; reset 0] accumulators A0 to A3. -/
  acc  : Vector Int 4
  /-- [32 x 32 bits; 11 R293; reset 0] S0 to S31, uncommitted. -/
  s    : Vector Int 32
  /-- [8 x 32 bits; 11 R293; reset 0] T0 to T7. -/
  t    : Vector Int 8
  /-- [8 x 32 bits; 11 R292; reset 0] inputs SP, SV, SA, FP, FC, FA, PCMD, FLAGS. -/
  inp  : Vector Int 8
  /-- [8 x 32 bits; 11 R293; reset 0] outputs O0 to O7. -/
  o    : Vector Int 8
  /-- [1 bit; 11 R295; reset 0] HALT reached. -/
  done : Bool
  deriving DecidableEq, Repr

/-- A loop-engine slot. Its CFG, RAMP, FE, SUP and FREEZE_I words and its counters are registers. -/
structure LeSlot where
  /-- [4 bits; 11 R302; reset OFF] state. -/
  st      : LeState
  /-- [4 bits; 11 LEk_SLOTl_STATUS; reset 0] SAFE_CAUSE. -/
  cause   : Nat
  /-- [12 bits; 11 LEk_SLOTl_CYC; reset 0] law cycle count of the image. -/
  cycles  : Nat
  /-- [11 bits; 11 R298; reset 0] CODE_WORDS of the image. -/
  words   : Nat
  /-- [7 bits; 11 R298; reset 0] NCOEF of the image. -/
  ncoef   : Nat
  /-- [64 bits; 11 R301; reset 0] address of the master copy. -/
  master  : Nat
  /-- [record; 11 R293] working values of the law. -/
  ctx     : LawCtx
  /-- [32 bits; 11 R303; reset 0] ramp value R. -/
  ramp    : Int
  /-- [32 bits; 11 R291; reset 0] held feedback position. -/
  pos     : Int
  /-- [16 bits; 11 R291; reset 0] held feedback current. -/
  cur     : Int
  /-- [32 bits; 11 R291; reset 0] held AUX word. -/
  aux     : Int
  /-- [record; 11 R291; reset empty] cells of the present index in time: index, POS, CUR, AUX. -/
  inbox   : List (Nat × Int × Int × Int)
  /-- [sample; 11 R291; reset none] index of a cell that arrived late, already counted. -/
  lateIdx : List Nat
  /-- [1 bit; 11 LEk_SLOTl_STATUS; reset 0] the last update accepted a cell. -/
  fbNew   : Bool
  /-- [1 bit; 11 R292; reset 0] the next update is the first after ENABLE. -/
  first   : Bool
  /-- [32 bits; 11 R292; reset 0] command value of the previous update. -/
  pcmd    : Int
  /-- [2 x 32 bits; 11 R292; reset 0] H of the last two updates. -/
  h1      : Int
  h2      : Int
  /-- [frame; 11 R290; reset none] frame of the last update. -/
  ran     : Option Nat
  /-- [1 bit; 11 R304; reset 0] estimate of the last update valid. -/
  obsValid : Bool
  /-- [8 bits; 11 R305; reset 0] updates in a row without an accepted cell. -/
  lossRun : Nat
  /-- [16 bits; 11 R306; reset 0] run of equal FP. -/
  frzRun  : Nat
  /-- [32 bits; 11 R306; reset 0] its value. -/
  frzVal  : Int
  /-- [8 bits; 11 R307; reset 0] updates in a row above FE_MAX. -/
  feRun   : Nat
  /-- [record; 11 R310; reset empty] ticks of recent overruns, newest first. -/
  overs   : List Nat
  /-- [1 bit; 16 R424; reset 0] a forced LE_OVERRUN: the next update is abandoned. -/
  forceOver : Bool
  deriving DecidableEq, Repr

/-- A trace channel. -/
structure TraceCh where
  /-- [1 bit; 11 R313; reset 0] writing. -/
  on_   : Bool
  /-- [16 bits; 11 R312; reset 0] NEXT. -/
  next  : Nat
  /-- [16 bits; 11 R312; reset 0] updates since the ARM, modulo 2^DEC. -/
  div   : Nat
  /-- [16 bits; 11 R313; reset none] POST samples still to write after the trigger. -/
  left  : Option Nat
  /-- [32 bits; 11 R313; reset none] previous sample, for the edge triggers of channel 0. -/
  prev  : Option Int
  deriving DecidableEq, Repr

/-- A loop engine. -/
structure LoopEng where
  /-- [16 x record; 11 R285] slots. -/
  slot  : Vector LeSlot 16
  /-- [4 x record; 11 R312] trace channels. -/
  tr    : Vector TraceCh 4
  /-- [1 bit; 11 R313; reset 0] trace armed. -/
  armed : Bool
  /-- [1 bit; 11 R313; reset 0] trace triggered. -/
  trig  : Bool
  /-- [11 bits; 11 R301; reset 0] next 64-byte block that the image check reads: 128 per slot. -/
  check : Nat
  /-- [count; 11 R301; reset none] fabric round in which the image check last read. -/
  checkRound : Option Nat
  deriving DecidableEq, Repr

end Sys2Proof.Machine
end

