-- ==== Sys2Proof/Machine/StateMotion.lean ====
section
/-! DEFINITION. The parts of the state: machine axes. A field's bracket gives its width, the file and rule of spec/ that
names it, and its value at reset. -/

namespace Sys2Proof.Machine

/-- One piece of constant acceleration of an axis's motion, in counts and ns (R116, R316). -/
structure Seg where
  /-- [tick; 12 R316] begin of the phase to which the piece belongs. -/
  t0   : Nat
  /-- [ns; 12 R316] duration of that phase, rounded up to a whole ns. -/
  dur  : Nat
  /-- [ns; 12 R316] exact duration of the phase to which the piece belongs. -/
  ex   : Q
  /-- [ns; 12 R316] exact offset of the piece in that phase. -/
  off  : Q
  /-- [counts; 12 R316] position at the begin. -/
  p    : Q
  /-- [counts/ns; 12 R316] velocity at the begin, signed. -/
  v    : Q
  /-- [counts/ns²; 12 R316] acceleration, signed. -/
  a    : Q
  deriving DecidableEq, Repr

/-- A plan of motion that a later one has replaced. -/
structure AxPlan where
  /-- [tick; 12 R318] first tick on which it is no longer in force. -/
  till : Nat
  /-- [record; 12 R316] pieces of its motion. -/
  segs : List Seg
  /-- [32 bits; 12 R316] position at rest. -/
  pos  : Q
  /-- [counts/ns; 12 R319] exit speed. -/
  vOut : Q
  deriving DecidableEq, Repr

/-- A queued pitch. -/
structure Pitch where
  /-- [32 bits; 12 R316] target. -/
  tgt : Int
  /-- [32 bits; 12 R316] speed limit V. -/
  v   : Nat
  /-- [32 bits; 12 R316] acceleration A. -/
  a   : Nat
  deriving DecidableEq, Repr

/-- States of an axis in the order of their codes (AXn_STATUS.STATE). -/
inductive AxState where
  | off | idle | moving | stopping | homing | fault
  deriving DecidableEq, Repr

/-- A machine axis. -/
structure AxisSt where
  /-- [4 bits; 12 AXn_STATUS; reset OFF] state. -/
  st      : AxState
  /-- [16 entries; 12 R319; reset empty] queued pitches, the running one first. -/
  queue   : List Pitch
  /-- [1 bit; 12 R319; reset 0] the first pitch of the queue is running. -/
  running : Bool
  /-- [counts/ns; 12 R319; reset 0] exit speed fixed for the running pitch. -/
  vOut    : Q
  /-- [record; 12 R316; reset empty] motion in progress, oldest first. -/
  segs    : List Seg
  /-- [32 bits; 12 AXn_POS; reset 0] commanded position at rest. -/
  pos     : Q
  /-- [list; 12 R318; reset empty] plans replaced of late, oldest first: an update asks for the position at its own instant. -/
  past    : List AxPlan
  /-- [32 bits; 12 R317; reset 0] step count. -/
  steps   : Int
  /-- [1 bit; 12 R317; reset 0] DIR for positive motion. -/
  dirPos  : Bool
  /-- [tick; 12 R317; reset 0] last change of DIRn. -/
  dirAt   : Nat
  /-- [tick; 12 R317; reset none] last rising edge of STPn. -/
  stepAt  : Option Nat
  /-- [32 bits; 12 AXn_REM; reset 0] remaining distance of the last stop. -/
  rem     : Int
  /-- [1 bit; 12 AXn_STATUS; reset 0] a kept queue awaits RESUME or CLEAR. -/
  remValid : Bool
  /-- [32 bits; 12 R324; reset none] target of the pitch that a stop in progress interrupted. -/
  stopTgt : Option Int
  /-- [16 entries; 12 R324; reset empty] kept pitches. -/
  kept    : List Pitch
  /-- [1 bit; 12 AXn_STATUS; reset 0] HOMED. -/
  homed   : Bool
  /-- [1 bit; 12 AXn_STATUS; reset pin, 0] HOMEn active. -/
  home    : Bool
  /-- [1 bit; 21 LIMPn; reset pin, 1] filtered level of LIMPn. -/
  limP    : Bool
  /-- [1 bit; 21 LIMNn; reset pin, 1] filtered level of LIMNn. -/
  limN    : Bool
  /-- [2 bits; 12 R328; reset 0] homing phase: 0 none, 1 seeking, 2 stopping after the edge, 3 moving back. -/
  homing  : Nat
  /-- [32 bits; 12 R328; reset 0] commanded position taken at the home edge. -/
  homeAt  : Q
  /-- [1 bit; 12 R324; reset 0] a HARD stop holds the axis. -/
  hard    : Bool
  /-- [32 bits; 12 R329; reset 0] last target issued by the machine program. -/
  lastTgt : Int
  /-- [tick; 12 R330; reset none] scheduled end of the running pitch of a job. -/
  schedEnd : Option Nat
  deriving DecidableEq, Repr

/-- The machine program of the running job (R329). -/
structure MachProg where
  /-- [2 bits; 12 R329; reset none] job slot. -/
  job    : Option Slot
  /-- [23 bits; 12 R329; reset 0] word offset of the next instruction. -/
  pc     : Nat
  /-- [48 bits; 12 R329; reset 0] program time. -/
  time   : Nat
  /-- [1 bit; 12 R329; reset 0] HALT executed. -/
  halted : Bool
  /-- [23 bits; 12 R325; reset 0] word after the last MMOVE issued. -/
  resumePc : Nat
  deriving DecidableEq, Repr

end Sys2Proof.Machine
end

