-- ==== Sys2Proof/Machine/StateCal.lean ====
section
/-! DEFINITION. The parts of the state: calibration. A field's bracket gives its width, the file and rule of spec/ that
names it, and its value at reset. -/

namespace Sys2Proof.Machine

/-- A delay-line pair (R333). -/
structure LinePair where
  /-- [1 bit; 13 CAL_DLm_STATUS; reset 0 (A), restored from MRAM] line in service: true is B. -/
  line  : Bool
  /-- [2 x 80 bits; 13 R333; reset 0] elements selected in line A and in line B. -/
  selA  : BitVec 80
  selB  : BitVec 80
  /-- [2 x 8 bits; 13 R334; reset 0] INL of line A and of line B, ps. -/
  inlA  : Nat
  inlB  : Nat
  /-- [1 bit; 13 R336; reset 0] a swap waits for its instant. -/
  swap  : Bool
  deriving DecidableEq, Repr

/-- A drift check in progress (R346). -/
structure DriftCheck where
  /-- [8 x 2 x 32 bits; 13 R347; reset none] readings taken, oldest first. -/
  got    : List (Int × Int)
  /-- [1 bit; 13 R346; reset none] made in a preparation (else the CAL_CMD operation). -/
  inPrep : Bool
  /-- [16 bits; 13 R346; reset none] TAG of the measurement request that is out. -/
  asked  : Option Nat
  /-- [tick; 13 R346; reset none] tick at which the mirror leaves for the present reference point. -/
  legAt  : Nat
  deriving DecidableEq, Repr

/-- A head's calibration. Its drift parameters and reference points are registers. -/
structure CalHead where
  /-- [1 bit; 13 CAL_Hn_STATUS; reset 0] ACTIVE. -/
  active  : Nat
  /-- [1 bit; 13 R343; reset 0] PROMOTE_PEND. -/
  promote : Bool
  /-- [16 bits; 13 CAL_Hn_TEMP; reset 0] head temperature, sQ8.7. -/
  temp    : Int
  /-- [tick; 13 R341; reset none] arrival of the last temperature. -/
  tempAt  : Option Nat
  /-- [1 bit; 13 CAL_Hn_STATUS; reset 0] TEMP_STALE. -/
  stale   : Bool
  /-- [1 bit; 13 R348; reset 0] a good check has been made since BOOT. -/
  checked : Bool
  /-- [1 bit; 13 R345; reset 0] RECAL_DUE as last evaluated. -/
  recal   : Bool
  /-- [record; 13 R342; reset none] sets drawn on by the present job: LO, HI, w. -/
  drawn   : Option (Nat × Nat × Nat)
  /-- [record; 13 R346; reset none] check in progress. -/
  check   : Option DriftCheck
  /-- [6 x 32 bits; 06 R173; reset identity] M00, M01, M10, M11, OX, OY in force in the beam engine. -/
  eng     : Vector Word 6
  deriving DecidableEq, Repr

/-- A source's power curve work. W_p in service and the points held are registers. -/
structure CalSource where
  /-- [1 bit; 13 CAL_Pn_STATUS; reset 0, restored from MRAM] a curve is in service. -/
  valid  : Bool
  /-- [1 bit; 13 R355; reset 0] LIN_EN as sampled at S. -/
  lin    : Bool
  /-- [record; 13 R352; reset none] exposure in progress: point, begin tick, end tick. -/
  expo   : Option (Nat × Nat × Nat)
  /-- [6 bits; 13 R353; reset none] point of the last exposure that ended without abort and awaits its entry. -/
  done   : Option Nat
  /-- [33 x 32 bits; 13 R353; reset empty] first entries of further pairs for accepted points: point, mW. -/
  more   : List (Nat × Nat)
  deriving DecidableEq, Repr

/-- Calibration. -/
structure Cal where
  /-- [32 x record; 13 R333] delay-line pairs. -/
  pair    : Vector LinePair 32
  /-- [1 bit; 13 CAL_STATUS; reset 0] a run is in progress. -/
  running : Bool
  /-- [1 bit; 13 R337; reset 0] a run is in progress or waits for REF_OK. -/
  due     : Bool
  /-- [1 bit; 13 CAL_STATUS; reset 0] STALE: a run came due while REF_OK was 0 and has not completed. -/
  waited  : Bool
  /-- [1 bit; 13 R337; reset 0] one more run follows the present one. -/
  again   : Bool
  /-- [1 bit; 13 R335; reset 0] REF_OK stayed 1 since the run began. -/
  refHeld : Bool
  /-- [1 bit; 13 CAL_STATUS; reset 0] REF_OK. -/
  refOk   : Bool
  /-- [2 bits; 13 R332; reset 0] consecutive good reference periods. -/
  refGood : Nat
  /-- [tick; 13 R332; reset none] last CAL_REF edge. -/
  refAt   : Option Nat
  /-- [32 x 1 bit; 13 R339; reset 0] VALID of each set slot. -/
  valid   : Vector Bool 32
  /-- [16 x record; 13 R341] heads. -/
  head    : Vector CalHead 16
  /-- [16 x record; 13 R351] sources. -/
  src     : Vector CalSource 16
  deriving DecidableEq, Repr

end Sys2Proof.Machine
end

