-- ==== Sys2Proof/Machine/StateLink.lean ====
section
/-! DEFINITION. The parts of the state: Yawell lanes and ports, and what the block has handed to its transmitters. A
field's bracket gives its width, the file and rule of spec/ that names it, and its value at reset. -/

namespace Sys2Proof.Machine

/-- A cell, block or parcel handed to the transmitter of a port (R374, R379, R383, R384). -/
structure Sent where
  /-- [tick; 14 R359] tick at the transmit PHY boundary. -/
  at_  : Nat
  /-- [6 bits; 14 R357] port ID. -/
  port : Nat
  /-- [8 bits; 14 R383] message code; 0x1_00 + type for a control block of R362. -/
  msg  : Nat
  /-- [1 bit; 14 R374] F. -/
  f    : Bool
  /-- [16 bits; 14 R374] SIDX of a cell, SEQ of a parcel. -/
  sidx : Nat
  /-- [bytes or fields; 14 R383] the fields of the message in the order of their table. -/
  data : List Nat
  deriving DecidableEq, Repr

/-- Lane states in the order of their codes (LANEn_STATUS.STATE). -/
inductive LaneState where
  | off | lock | eq | eqDone | inPort | failed
  deriving DecidableEq, Repr

/-- A lane (R360 to R369). -/
structure LaneSt where
  /-- [4 bits; 14 LANEn_STATUS; reset OFF] state. -/
  st      : LaneState
  /-- [4 bits; 14 LANEn_STATUS; reset 0] position in the port. -/
  pos     : Nat
  /-- [8 bits; 14 LANEn_STATUS; reset 0] port ID received in AMs. -/
  portId  : Nat
  /-- [2 bits; 14 R365; reset 0] consecutive AMs that agree. -/
  ams     : Nat
  /-- [2 bits; 14 R388; reset 0] consecutive expected AMs missing or wrong in UP. -/
  amBad   : Nat
  /-- [1 bit; 14 LANEn_STATUS; reset 0] BLOCK_LOCK. -/
  block   : Bool
  /-- [tick; 14 R360; reset none] tick since which the sync headers received are valid. -/
  goodAt  : Option Nat
  /-- [16 entries; 14 R360; reset empty] block slots of the last invalid sync headers, newest first. -/
  bad     : List Nat
  /-- [1 bit; 14 LANEn_STATUS; reset 0] SIGNAL. -/
  signal  : Bool
  /-- [4 bits; 14 R363; reset 0] PRE of this transmitter. -/
  pre     : Nat
  /-- [6 bits; 14 R363; reset 48] MAIN of this transmitter. -/
  main_   : Nat
  /-- [4 bits; 14 R363; reset 4] POST of this transmitter. -/
  post    : Nat
  /-- [8 bits; 14 LANEn_EQ; reset 0] EYE. -/
  eye     : Nat
  /-- [8 bits; 14 LANEn_EQ_CFG; reset 0] REQS of the last equalisation. -/
  reqs    : Nat
  /-- [8 bits; 14 R363; reset 0] REQ_SEQ of the own request. -/
  mySeq   : Nat
  /-- [4 bits; 14 R363; reset 0] the own request in force. -/
  myReq   : Nat
  /-- [1 bit; 14 R365; reset 0] the own request awaits its ACK_SEQ. -/
  waiting : Bool
  /-- [8 bits; 14 R363; reset none] REQ_SEQ of the partner's last request. -/
  farSeq  : Option Nat
  /-- [4 bits; 14 R363; reset 0] RESP to it. -/
  resp    : Nat
  /-- [1 bit; 14 R364; reset 0] own DONE sent. -/
  doneTx  : Bool
  /-- [1 bit; 14 R364; reset 0] partner's DONE received. -/
  doneRx  : Bool
  /-- [8 bits; 14 LANEn_SKEW; reset 0] delay behind the earliest lane, ns. -/
  skew    : Nat
  /-- [tick; 14 R370; reset none] last alignment marker received. -/
  amAt    : Option Nat
  /-- [ps; 14 R370; reset 0] what the elastic buffer of the receiver holds, as transmission time. -/
  elastic : Int
  deriving DecidableEq, Repr

/-- Port states in the order of their codes (PORTp_STATUS.STATE). -/
inductive PortState where
  | off | train | align_ | ident | up | down
  deriving DecidableEq, Repr

/-- A parcel kept for replay (R381). -/
structure Parcel where
  /-- [16 bits; 14 R379] SEQ. -/
  seq  : Nat
  /-- [8 bits; 14 R384] MSG. -/
  msg  : Nat
  /-- [64 bytes; 14 R379] data. -/
  data : List Byte
  deriving DecidableEq, Repr

/-- A CFG access of the EL2 in progress (R385). -/
structure CfgReq where
  /-- [16 bits; 14 R385] TAG. -/
  tag     : Nat
  /-- [8 bits; 14 R384] MSG: CFG_RD or CFG_WR. -/
  msg     : Nat
  /-- [64 bytes; 14 R384] the parcel as sent. -/
  data    : List Byte
  /-- [2 bits; 14 R385] repeats made. -/
  repeats : Nat
  /-- [tick; 14 R385] last transmission. -/
  at_     : Nat
  /-- [1 bit; 14 R366] the read of IDENT, not a host access. -/
  ident   : Bool
  deriving DecidableEq, Repr

/-- A port (R357). -/
structure PortSt where
  /-- [4 bits; 14 PORTp_STATUS; reset OFF] state. -/
  st      : PortState
  /-- [4 bits; 14 PORTp_STATUS; reset 0] WIDTH. -/
  width   : Nat
  /-- [1 bit; 14 R368; reset 0] DEGRADED. -/
  degraded : Bool
  /-- [4 lanes; 14 R368; reset empty] lanes that the port uses at half width. -/
  half    : List Nat
  /-- [block slots; 14 R369; reset none] block slot for which the next alignment marker is due, and that of the last one. -/
  amNext  : Option (Nat × Nat)
  /-- [tick; 14 R367; reset 0] begin of the present training. -/
  trainAt : Nat
  /-- [16 bits; 14 R381; reset 0] SEQ of the next new parcel. -/
  txSeq   : Nat
  /-- [64 entries; 14 R381; reset empty] parcels sent and not acknowledged, oldest first. -/
  unacked : List Parcel
  /-- [record; 14 R381; reset empty] parcels that wait because 64 are outstanding, oldest first. -/
  waiting : List Parcel
  /-- [tick; 14 R381; reset 0] instant from which REPLAY_US counts. -/
  replayAt : Nat
  /-- [8 bits; 14 R381; reset 0] consecutive replays without release. -/
  replays : Nat
  /-- [16 bits; 14 R380; reset 0] NEXT of the receiver. -/
  rxNext  : Nat
  /-- [1 bit; 14 R380; reset 0] a NAK was sent for the present NEXT. -/
  nakOut  : Bool
  /-- [5 bits; 14 R380; reset 0] parcels delivered and not acknowledged. -/
  ackDue  : Nat
  /-- [tick; 14 R380; reset 0] delivery of the first of them. -/
  ackAt   : Nat
  /-- [1 bit; 14 R388; reset 0] a good heartbeat arrived in the present 1 µs interval. -/
  hbSeen  : Bool
  /-- [8 bits; 14 R388; reset 0] consecutive intervals without one. -/
  hbMiss  : Nat
  /-- [record; 14 R373; reset empty] recent heartbeats sent: sample index, launch tick; newest first. -/
  hbSent  : List (Nat × Nat)
  /-- [16 bits; 14 R373; reset 0] last RTT. -/
  rtt     : Nat
  /-- [16 bits; 14 R373; reset 0] largest RTT since CNT_CLR. -/
  rttMax  : Nat
  /-- [16 bits; 14 R385; reset 0] TAG counter. -/
  tag     : Nat
  /-- [record; 14 R385; reset none] CFG access in progress. -/
  cfg     : Option CfgReq
  /-- [16 entries; 14 R385; reset empty] answers to the last 16 tags received: TAG, CFG_RSP data; newest first. -/
  answers : List (Nat × List Byte)
  /-- [32 bits; 14 R386; reset 0] GRID_OFS of this device's own configuration space on the port. -/
  gridOfs : Word
  /-- [32 bits; 14 PORTp_FAR_ID; reset 0] far-end IDENT. -/
  farId   : Word
  /-- [16 bits; 14 PORTp_FAR_PROF; reset 0] far-end CAPS and PROFILE. -/
  farProf : Word
  deriving DecidableEq, Repr

end Sys2Proof.Machine
end

