-- ==== Sys2Proof/Machine/StateTwin.lean ====
section
/-! DEFINITION. The parts of the state: twin operation. A field's bracket gives its width, the file and rule of spec/
that names it, and its value at reset. -/

namespace Sys2Proof.Machine

/-- An item of a checkpoint window (R406): sample, table order, rank within the order, bytes. -/
structure DigItem where
  k     : Nat
  ord   : Nat
  rank  : Nat
  bytes : List Byte
  deriving DecidableEq, Repr

/-- A job command waiting for its effective tick, or an ARM for the SECOND's answer, `auto` where AUTO_ARM asked (R401, R403). -/
structure TimedCmd where
  op   : Nat
  slot : Nat
  at_  : Nat
  auto : Bool
  deriving DecidableEq, Repr

/-- Twin operation. TWIN_CTL, TWIN_CHECK, TWIN_CMD_DLY and the last comparison's words are registers. -/
structure Twin where
  /-- [2 bits; 15 R390; reset 0 SOLO] ROLE: 0 SOLO, 1 LEAD, 2 SECOND. -/
  role    : Nat
  /-- [2 bits; 15 R390; reset 0 UNPAIRED] PAIR: 0 UNPAIRED, 1 JOINING, 2 PAIRED, 3 BROKEN. -/
  pair    : Nat
  /-- [1 bit; 15 R391; reset 1] lead bit. -/
  lead    : Bool
  /-- [1 bit; 15 R413; reset 0] CONFIRM_PEND. -/
  confirm : Bool
  /-- [4 bits; 15 TWIN_STATUS; reset 0] TAKE_CAUSE. -/
  takeCause : Nat
  /-- [4 bits; 15 R410; reset 0] CAUSE of the last TWIN_TAKE sent. -/
  sentCause : Nat
  /-- [2 bits; 15 TWIN_STATUS; reset 0] TOOK. -/
  took    : Nat
  /-- [1 bit; 15 R394; reset 0] TIME_OK. -/
  timeOk  : Bool
  /-- [2 bits; 15 R394; reset 0] consecutive exchanges within 2 ns. -/
  timeGood : Nat
  /-- [2 bits; 15 R394; reset 0] consecutive exchanges beyond 2 ns. -/
  timeBad : Nat
  /-- [64 bits; 15 R395; reset 0] the offset in force: TWIN_OFS on the SECOND of a formed pair, else 0 (log entry 104). -/
  ofs     : Int
  /-- [64 bits; 15 R394; reset 0] TWIN_OFS as ROPE_UP measured it, FRC_LEAD - FRC_SECOND. -/
  timeRef : Int
  /-- [3 bits; 15 R397; reset 0] step of ROPE_UP in progress, 0 none. -/
  step    : Nat
  /-- [16 entries; 15 R394; reset empty] twice FRC_LEAD - FRC_SECOND of the exchanges of step 2. -/
  deltas  : List Int
  /-- [8 x 64 bits; 15 R393; reset empty] launches of the last own TWIN_TIME cells, extended, newest first. -/
  txAt    : List Nat
  /-- [64 bits; 15 R393; reset none] own arrival tick of the last TWIN_TIME received. -/
  rxAt    : Option Nat
  /-- [64 bits; 15 R393; reset 0] the partner's FRC at its last launch, extended under R50. -/
  farExt  : Nat
  /-- [2 bits; 15 R397; reset none] ROLE in the partner's last heartbeat. -/
  farRole : Option Nat
  /-- [2 bits; 15 R409; reset 0] consecutive partner heartbeats missing. -/
  hbMiss  : Nat
  /-- [2 bits; 15 R409; reset 0] intervals without a missing heartbeat, up to 3. -/
  hbGood  : Nat
  /-- [48 bits; 15 R409; reset none] SIDX of the last good partner heartbeat, extended. -/
  hbLast  : Option Nat
  /-- [64 bits; 15 R398; reset none] partner's configuration digest. -/
  farCfg  : Option DWord
  /-- [35 x 16 bits; 15 R396; reset empty] partner's RTT of each port that it enables; complete with TP, which comes last. -/
  farRtt  : List (Nat × Nat)
  /-- [tick; 15 R396; reset none] the last exchange of RTTs. -/
  skewAt  : Option Nat
  /-- [1 bit; 15 R396; reset 0] TWIN_SKEW is raised for the present excess. -/
  skewBad : Bool
  /-- [48 bits; 15 R406; reset none] first sample of the open checkpoint window. -/
  winAt   : Option Nat
  /-- [48 bits; 15 R406; reset none] commit sample, which ends the last window. -/
  winEnd  : Option Nat
  /-- [32 bits; 15 R406; reset 0] number of the open window. -/
  winNo   : Nat
  /-- [record; 15 R406; reset empty] items not yet digested. -/
  items   : List DigItem
  /-- [record; 15 R407; reset empty] own digests: window, last sample, digest; newest first. -/
  mine    : List (Nat × Nat × DWord)
  /-- [record; 15 R407; reset empty] partner's digests not yet compared: window, digest. -/
  theirs  : List (Nat × DWord)
  /-- [48 bits; 15 R412; reset none] last sample of the last window that agreed; none after a difference. -/
  agreed  : Option Nat
  /-- [tick; 15 R410; reset none] tick at which the lead bit changes, and its new value. -/
  leadAt  : Option (Nat × Bool)
  /-- [tick; 15 R411; reset none] decision tick of a takeover. -/
  decideAt : Option Nat
  /-- [2 bits; 15 R411, R412; reset none] what held on the decision tick: the device not in BELAY, and READY. -/
  decided : Option (Bool × Bool)
  /-- [1 bit; 15 R411; reset 0] the takeover decided follows from heartbeat loss, not from TWIN_TAKE. -/
  hbTake  : Bool
  /-- [record; 15 R403; reset empty] commands waiting for their effective tick. -/
  timed   : List TimedCmd
  /-- [record; 15 R416; reset none] object being forwarded: address, length, CRC-32. -/
  obj     : Option (Nat × Nat × Word)
  /-- [26 bits; 15 R399; reset 0] cells sent in the ledger copy. -/
  copied  : Nat
  deriving DecidableEq, Repr

end Sys2Proof.Machine
end

