-- ==== Sys2Proof/Machine/StateFault.lean ====
section
/-! DEFINITION. The parts of the state: fault hub and recovery ladder. A field's bracket gives its width, the file and
rule of spec/ that names it, and its value at reset. -/

namespace Sys2Proof.Machine

/-- A class latch (R420, R421). -/
structure Latch where
  /-- [8 bits; 16 FLT_FIRSTc_SRC; reset 0] SEQ. -/
  seq    : Nat
  /-- [8 bits; 16 FLT_FIRSTc_SRC; reset 0] ID. -/
  id     : Nat
  /-- [6 bits; 16 FLT_FIRSTc_SRC; reset 0] UNIT. -/
  unit   : Nat
  /-- [2 bits; 16 FLT_FIRSTc_SRC; reset 0] ORIG. -/
  orig   : Nat
  /-- [1 bit; 16 FLT_FIRSTc_SRC; reset 0] VALID. -/
  valid  : Bool
  /-- [1 bit; 16 FLT_FIRSTc_SRC; reset 0] OVERFLOW. -/
  ovf    : Bool
  /-- [1 bit; 16 FLT_FIRSTc_SRC; reset 0] ESCALATED. -/
  esc    : Bool
  /-- [1 bit; 16 FLT_FIRSTc_SRC; reset 0] FORCED. -/
  forced : Bool
  /-- [1 bit; 16 FLT_FIRSTc_SRC; reset 0] DOUBLE. -/
  dbl    : Bool
  /-- [3 bits; 16 FLT_FIRSTc_SRC; reset 0] STATE. -/
  state  : Nat
  /-- [32 bits; 16 FLT_FIRSTc_FRC; reset 0] raw FRC. -/
  frc    : Word
  /-- [32 bits; 16 FLT_FIRSTc_JT; reset 0] JT bits [31:0]. -/
  jt     : Word
  /-- [16 bits; 16 FLT_FIRSTc_DET; reset 0] REPEAT. -/
  rep    : Nat
  /-- [16 bits; 16 FLT_FIRSTc_DET; reset 0] DETAIL. -/
  detail : Nat
  deriving DecidableEq, Repr

/-- A reaction shadow (R427). -/
structure Shadow where
  /-- [8 bits; 16 R427] reacting source. -/
  id    : Nat
  /-- [6 bits; 16 R427] its unit. -/
  unit  : Nat
  /-- [16 bits; 16 R427] its DETAIL. -/
  detail : Nat
  /-- [1 bit; 16 R427] latched in class U or F. -/
  uf    : Bool
  /-- [tick; 16 R427] end. -/
  until_ : Nat
  deriving DecidableEq, Repr

/-- A ladder step in progress (R430). -/
structure LadderRun where
  /-- [4 bits; 16 R430] FUNC. -/
  func  : Nat
  /-- [6 bits; 16 R430] UNIT. -/
  unit  : Nat
  /-- [3 bits; 16 R430] STEP. -/
  step  : Nat
  /-- [tick; 16 R430] begin. -/
  at_   : Nat
  /-- [1 bit; 16 R433] requested by the Shepherd. -/
  auto  : Bool
  deriving DecidableEq, Repr

/-- The fault hub. -/
structure Hub where
  /-- [record; 16 R420; reset empty] reports of the present tick not yet handled. -/
  pending : List Report
  /-- [3 x record; 16 R420; reset empty latches] latches of classes C, U and F. -/
  latch   : Vector Latch 3
  /-- [record; 16 R427; reset empty] open shadows. -/
  shadows : List Shadow
  /-- [record; 16 R427; reset empty] slots in SAFE from a consequential report: engine, local slot. -/
  conseqSafe : List (Nat × Nat)
  /-- [tick; 16 R428; reset 0] instant from which the quiet period runs. -/
  quietAt : Nat
  /-- [1 bit; 16 R428; reset 0] QUIET_F applies. -/
  quietF  : Bool
  /-- [15 entries; 16 R429; reset empty] operating time (ms) of the last automatic exits, newest first. -/
  exits   : List Nat
  /-- [4 bits; 16 FLT_STATUS; reset 0] STICKY_CAUSE. -/
  stickyCause : Nat
  /-- [records; 16 R434; reset empty] ladder steps in progress, oldest first. -/
  ladder  : List LadderRun
  /-- [record; 16 R432; reset empty] completed steps: func, unit, step, tick of completion. -/
  steps   : List (Nat × Nat × Nat × Nat)
  /-- [record; 16 R432; reset empty] sources latched as first: ID, unit, tick of the first latch; newest first. -/
  seen    : List (Nat × Nat × Nat)
  /-- [record; 16 R432; reset none] the last step 3 or 4 as BOOT found it: the ID of FLT_PRE_RESET, tick of completion. -/
  whole   : Option (Nat × Nat)
  /-- [record; 16 R430; reset empty] engines on which step 1 waits for the step in progress there. -/
  follow  : List Nat
  /-- [2 bits; 16 R435; reset 0] key progress: 0 none, 1 first write, 2 whole. -/
  key     : Nat
  /-- [tick; 16 R435; reset 0] tick of the last key write. -/
  keyAt   : Nat
  /-- [tick; 16 R431; reset none] end of the PWR_CYC_N pulse. -/
  pwrCyc  : Option Nat
  /-- [record; 16 R430; reset empty] loop-engine slots that step 2 enables again: engine, local slot. -/
  reEnable : List (Nat × Nat)
  deriving DecidableEq, Repr

end Sys2Proof.Machine
end

