-- ==== Sys2Proof/Machine/StateSystem.lean ====
section
/-! DEFINITION. The parts of the state: event recorder, power and thermal, host interface and mailbox, and what lasts in
MRAM and in the backup domain. A field's bracket gives its width, the file and rule of spec/ that names it, and its value
at reset. -/

namespace Sys2Proof.Machine

/-- A record waiting to be written (R437): its type, payload and header times. -/
structure Rec where
  /-- [8 bits; 17 R438] TYPE. -/
  type    : Nat
  /-- [bytes; 17 R438] payload. -/
  payload : List Byte
  /-- [32 bits; 17 R437] OPS and OPMS as one ms count at the record. -/
  opMs    : Nat
  /-- [1 bit; 17 R437, R446] passed through the holding buffer: made under a freeze or behind another record, or kept by a
  freeze. -/
  held    : Bool
  deriving DecidableEq, Repr

/-- A record being written, step by step (R440). -/
structure RecRun where
  /-- [record; 17 R437] the record. -/
  rec_    : Rec
  /-- [1 bit; 17 R439] committed in CRC mode. -/
  crc     : Bool
  /-- [23 bits; 17 R441] its ring offset. -/
  at_     : Nat
  /-- [12 bits; 17 R437] LENGTH. -/
  len     : Nat
  /-- [3 bits; 17 R440] the next part: 2 header, 3 payload, 4 MARK; 5 to 7 those of the CAIRN copy; 8 HEAD. -/
  part    : Nat
  deriving DecidableEq, Repr

/-- A copy of the control block whose CRC is good (R436). -/
structure CtlBlk where
  /-- [23 bits; 17 R436] HEAD. -/
  head : Nat
  /-- [23 bits; 17 R436] TAIL. -/
  tail : Nat
  /-- [20 bits; 17 R436] CAIRN fill. -/
  fill : Nat
  /-- [1 bit; 17 R436] CAIRN FULL. -/
  full : Bool
  /-- [32 bits; 17 R436] power-cycle count. -/
  pcc  : Nat
  /-- [32 bits; 17 R436] warm-reset count. -/
  warm : Nat
  /-- [ms; 17 R436] operating time. -/
  opMs : Nat
  /-- [32 bits; 17 R436] update sequence. -/
  seq  : Nat
  deriving DecidableEq, Repr

/-- The event recorder. Its areas lie in memory (R436). -/
structure Recorder where
  /-- [64 KiB; 17 R445; reset empty] records waiting, oldest first. -/
  queue   : List Rec
  /-- [record; 17 R440; reset none] the record being written. -/
  cur     : Option RecRun
  /-- [23 bits; 17 R441; reset from MRAM, 0] HEAD. -/
  head    : Nat
  /-- [23 bits; 17 R441; reset from MRAM, 0] TAIL. -/
  tail    : Nat
  /-- [20 bits; 17 R442; reset from MRAM, 0] CAIRN fill. -/
  cairn   : Nat
  /-- [1 bit; 17 R442; reset from MRAM, 0] CAIRN_FULL. -/
  cairnFull : Bool
  /-- [32 bits; 17 R443; reset from MRAM, 0] power-cycle count. -/
  pcc     : Nat
  /-- [32 bits; 17 R443; reset from MRAM, 0] warm-reset count. -/
  warm    : Nat
  /-- [ms; 17 R443; reset from MRAM, 0] operating time. -/
  opMs    : Nat
  /-- [32 bits; 17 R436; reset from MRAM, 0] update sequence of the control block. -/
  cbSeq   : Nat
  /-- [12 bits; 17 R445; reset 0] OVF. -/
  ovf     : Nat
  /-- [32 bits; 17 R438; reset 0] raw FRC of the first record discarded. -/
  ovfFrc  : Word
  /-- [1 bit; 17 R445; reset 0] FROZEN. -/
  frozen  : Bool
  /-- [tick; 17 R446; reset 0] begin of the freeze. -/
  frzAt   : Nat
  /-- [1 bit; 17 REC_STATUS; reset 0] FREEZE_SRC. -/
  frzSrc  : Bool
  /-- [record; 17 R448; reset none] clear key in force: path and tick. -/
  clrKey  : Option (Path × Nat)
  /-- [1 bit; 17 R439; reset 0] CRC mode after a VWARN crossing. -/
  warnCrc : Bool
  /-- [tick; 17 R439; reset none] instant from which VDD_CORE has stayed above VWARN. -/
  aboveAt : Option Nat
  deriving DecidableEq, Repr

/-- The die thermal model of one quadrant, in units of 2^-16 °C (R460). -/
structure Quad where
  t0 : Int
  t1 : Int
  t2 : Int
  t3 : Int
  tb : Int
  deriving DecidableEq, Repr

/-- Power and thermal monitoring. -/
structure Power where
  /-- [4 x 5 x 32 bits; 18 R460; reset 0] die model nodes. -/
  quad    : Vector Quad 4
  /-- [1 bit; 18 R461; reset 0] MODEL_VALID. -/
  valid   : Bool
  /-- [1,001 entries; 18 R462; reset empty] H of the last rounds, newest first, 2^-16 °C. -/
  hist    : List Int
  /-- [48 x 5 bits; 18 R458; reset 0] consecutive plausible rounds still needed, 0 when plausible. -/
  bad     : Vector Nat 48
  /-- [48 x 16 bits; 18 PWR_CHk; reset 0] value in use. -/
  val     : Vector Int 48
  /-- [2 bits; 18 R459; reset 0] consecutive rounds with a rail out of tolerance. -/
  oor     : Nat
  /-- [1 bit; 18 PWR_STATUS; reset 0] RAIL_OOR. -/
  railOor : Bool
  /-- [1 bit; 18 R462; reset 0] HOT_WARN. -/
  hotWarn : Bool
  /-- [1 bit; 18 R462; reset 0] HOT_HOLD. -/
  hotHold : Bool
  /-- [1 bit; 18 R462; reset 0] HOT_BELAY. -/
  hotBelay : Bool
  /-- [1 bit; 18 R462; reset 0] RISE_OVER. -/
  riseOver : Bool
  /-- [sQ8.7 as 2^-16 °C/s; 18 R462; reset 0] rate of rise R. -/
  rate    : Int
  /-- [4 x 32 bits; 18 R460; reset 0] P[q], mW. -/
  pq      : Vector Nat 4
  /-- [4 x 2^-16 °C; 18 PWR_Qq_TB; reset 0] anchor error e. -/
  err     : Vector Int 4
  /-- [tick; 18 R454; reset none] falling crossings of VWARN and VSTOP still open: tick. -/
  warnAt  : Option Nat
  stopAt  : Option Nat
  /-- [mV; 18 R454; reset none] lowest VDD_CORE sampled in the present dip. -/
  low     : Nat
  /-- [4 x record; 01 R42; reset none] die nodes and last hotspots at the ARM that asked for a slot's new analysis. -/
  armDie  : Vector (Option (Vector Quad 4 × List Int)) 4
  deriving DecidableEq, Repr

/-- A completed mailbox command (R473). -/
structure MbxHist where
  /-- [16 bits; 19 R473; reset 0] tag. -/
  tag    : Nat
  /-- [32 bits; 19 R473; reset 0] payload digest. -/
  digest : Word
  /-- [8 bits; 19 R473; reset 0] CODE of the command. -/
  cmd    : Nat
  /-- [8 bits; 19 R473; reset 0] CODE of the status. -/
  code   : Nat
  /-- [8 x 32 bits; 19 R473; reset 0] results. -/
  res    : List Word
  deriving DecidableEq, Repr

/-- A JOB or HOLD command of the mailbox that has not completed (R475). -/
structure MbxRun where
  /-- [16 bits; 19 R472] tag. -/
  tag    : Nat
  /-- [32 bits; 19 R473] payload digest. -/
  digest : Word
  /-- [8 bits; 19 R474] CODE. -/
  cmd    : Nat
  /-- [8 bits; 19 R474] OP of R142. -/
  op     : Nat
  /-- [8 bits; 19 R474] SLOT. -/
  slot   : Nat
  /-- [64 bits; 19 R474] descriptor address. -/
  daddr  : Nat
  /-- [1 bit; 19 R475] issued through JOB_CTL. -/
  issued : Bool
  /-- [32 bits; 05 R168] JOB_RESULT of a HOLD that was accepted: until the next tick an ABORT may come before it. -/
  held   : Option Word
  deriving DecidableEq, Repr

/-- A DMA transfer in progress, as its GO found it (R470, R490). -/
structure DmaRun where
  /-- [64 bits; 19 R470] host address. -/
  haddr  : Nat
  /-- [64 bits; 19 R470] device address. -/
  daddr  : Nat
  /-- [25 bits; 19 R470] length in bytes. -/
  len    : Nat
  /-- [1 bit; 19 HOST_DMAc_CTL] device to host. -/
  toHost : Bool
  deriving DecidableEq, Repr

/-- The host interface. What its DMA and aux registers hold are registers. -/
structure HostIf where
  /-- [64 bits; 20 R490; reset 0] BASE of the BAR2 window. -/
  win     : Nat
  /-- [4 x record; 19 R470; reset none] DMA transfers in progress. -/
  dma     : Vector (Option DmaRun) 4
  /-- [1 bit; 19 R477; reset 0] PCIe link up. -/
  linkUp  : Bool
  /-- [8 bits; 19 HOST_LINK; reset 0] width and rate. -/
  link    : Nat
  /-- [64 bits; 19 R466; reset 0] MSI-X vectors raised and not yet taken (pending-bit array of BAR4). -/
  msix    : BitVec 64
  /-- [64 x 16 bytes; 19 R467; reset masked, 0] MSI-X table of BAR4, sparse: index, word. -/
  table   : List (Nat × Word)
  /-- [32 entries; 19 R473; reset empty] mailbox history, newest first. -/
  hist    : List MbxHist
  /-- [record; 19 R475; reset none] job command of the mailbox that waits for JOB_RESULT. -/
  mbx     : Option MbxRun
  /-- [64 bits; 19 R485; reset none] nonce. -/
  nonce   : Option DWord
  /-- [1 bit; 19 R485; reset 0] DBG_OPEN. -/
  dbgOpen : Bool
  /-- [24 bits; 19 HOST_AUX_HEAD; reset 0] HEAD. -/
  auxHead : Nat
  /-- [32 bits; 19 R471; reset 0] parcels dropped since the previous entry. -/
  auxDrop : Nat
  /-- [record; 19 R470; reset empty] what the block wrote to host memory: address, bytes; newest first. -/
  toHost  : List (Nat × List Byte)
  /-- [3 bits; 19 R484; reset 0 BYPASS] TAP instruction in effect. -/
  tap     : Nat
  /-- [record; 20 R489; reset none] latched HI words: path, HI register offset, value. -/
  latched : List (Path × Nat × Word)
  /-- [32 bits; model's own output; reset 0] data with which the last read of a register, of BAR2 or of IDCODE completed. -/
  rdData  : Word
  deriving DecidableEq, Repr

/-- What lasts in the MRAM outside the recorder areas (R337, R351, R474, R479, R481); the exit record of R429 is `Hub.exits`,
and what the control block keeps is in `Recorder`. -/
structure Mram where
  /-- [64 bytes; 17 R436; reset none] copy A of the control block, where its CRC is good. -/
  cbA     : Option CtlBlk
  /-- [64 bytes; 17 R436; reset all 0] copy B. -/
  cbB     : Option CtlBlk
  /-- [32 x record; 13 R337; reset empty] line in service, selections and INL of each delay-line pair. -/
  lines   : List LinePair
  /-- [16 x 33 x 32 bits; 13 R351; reset empty] power curves: source, W_0 to W_32. -/
  curves  : List (Nat × List Nat)
  /-- [64 bits; 19 R481; reset none] DDR5 configuration saved. -/
  ddrCfg  : Option (BitVec 64)
  /-- [35 x 32 bits; 19 R474; reset none] PORTp_CTL fields saved by BOOT_CFG_SAVE: port, word. -/
  ports   : List (Nat × Word)
  /-- [32 bits; 19 R479; reset 0] LEVEL of the active patch bank. -/
  patch   : Nat
  /-- [32 bits; 19 R479; reset 0] LEVEL of the pending patch bank, 0 for none. -/
  pend    : Nat
  /-- [1,048,480 bytes; 19 R479; reset empty] image in the pending bank. -/
  pendImg : List Byte
  deriving DecidableEq, Repr

end Sys2Proof.Machine
end

