-- ==== Sys2Proof/Machine/State.lean ====
section
/-! DEFINITION. The state of the block, its stops, and the state right after reset. A field's bracket gives its width, the
file and rule of spec/ that names it, and its value at reset. -/

namespace Sys2Proof.Machine

/-- The faults. No rule of the spec stops the block without an effect, so no command ends in one (log entry 1). -/
inductive Fault where
  deriving DecidableEq

/-- The refusals. -/
inductive Refusal where
  /-- Raised by an arm of `exec` whose command has no meaning yet. Safe: the model stops where the block goes on. -/
  | notModelled (mnemonic : String)
  deriving DecidableEq, Repr

/-- The whole block. -/
structure State where
  /-- [queue; model's own] commands that wait, first in, first out; reset empty. -/
  pending : List Instr
  /-- [extended tick; 02 R50; reset 0] FRC extended without wrap, counted from the entry to BOOT. -/
  tick  : Nat
  /-- [counter; model's own; reset 0, DESIGN CHOICE, log entry 4] free values used so far. -/
  free  : Nat
  /-- [record; 01 R31] the device as a whole. -/
  dev   : Dev
  /-- [32-bit words of BAR0; 20 R487; reset registers' reset] words that registers hold, as differences from reset. -/
  regs  : List (Nat × Word)
  /-- [bytes; 20 Device memory; reset empty, DESIGN CHOICE, log entry 5] memory by device address. -/
  mem   : List Host.Cell
  /-- [record; 02 R51] timebase. -/
  time  : TimeBase
  /-- [record; 05 R141] job queue. -/
  job   : JobBlock
  /-- [16 x record; 06 R170] beam engines. -/
  be    : Vector BeamEng 16
  /-- [16 x record; 07 R189] light drive channels. -/
  ld    : Vector Laser 16
  /-- [record; 07 R200] interlock and kill. -/
  ldc   : LaserCommon
  /-- [16 x record; 08 R211] pool correction units with their eyes. -/
  pcu   : Vector Pcu 16
  /-- [2 x record; 08 R232] telemetry egress of ETH0 and ETH1. -/
  tel   : Vector Telemetry 2
  /-- [record; 09 R236] heat ledger. -/
  ldg   : Ledger
  /-- [record; 10 R264] zone arbiter. -/
  zone  : Zone
  /-- [record; 10 R276] memory fabric. -/
  fab   : Fabric
  /-- [4 x record; 11 R285] loop engines. -/
  le    : Vector LoopEng 4
  /-- [16 x record; 12 R315] machine axes. -/
  ax    : Vector AxisSt 16
  /-- [record; 12 R329] machine program. -/
  mach  : MachProg
  /-- [record; 13 R332] calibration. -/
  cal   : Cal
  /-- [64 x record; 14 R360] lanes. -/
  lane  : Vector LaneSt 64
  /-- [35 x record; 14 R357] ports. -/
  port  : Vector PortSt 35
  /-- [record; 14 R374; reset empty] what was handed to transmitters and output pins, newest first. -/
  sent  : List Sent
  /-- [record; 15 R390] twin operation. -/
  twin  : Twin
  /-- [record; 16 R418] fault hub and ladder. -/
  hub   : Hub
  /-- [record; 17 R436] event recorder. -/
  recd  : Recorder
  /-- [record; 18 R457] power and thermal. -/
  pwr   : Power
  /-- [record; 19 R466] host interface. -/
  host  : HostIf
  /-- [record; 19 R479] what lasts in MRAM outside the recorder areas. -/
  mram  : Mram
  deriving DecidableEq, Repr

namespace State

/-- A domain with nothing heard and no offset (R51, R67). -/
def resetDomain : Domain :=
  { frac := 0, anchor := 0, st := 0, integ := ⟨0, 1⟩, outputs := [], good := 0, bad := 0, masters := [],
    parent := none, pathDelay := 0, lastSync := none, syncAt := 0, syncLog := 1, reqSent := none,
    lockedOnce := false }

/-- A pulse output that is off (R61). -/
def resetPulse : PulseOut :=
  { armed := false, active := false, tgt := 0, period := 0, width := 0, endAt := 0, curWidth := 0 }

/-- The timebase at reset. -/
def resetTime : TimeBase :=
  { a := resetDomain, b := resetDomain, slew := 0, tp := Vector.replicate 8 resetPulse,
    tc := Vector.replicate 8 [],
    rtc := { secs := 0, sub := 0, phase := 0, trimCyc := 0, monCyc := 0, valid := false, oscRun := false,
             vbatLow := false, stopped := false, supplyNs := 0, started := false, setPend := none },
    sdLock := 0, pcieLock := false, ddrLock := false, rootLock := false, eth := Vector.replicate 2 0 }

/-- An empty job slot (R39). -/
def resetSlot : JobSlot :=
  { st := .empty, phase := 0, desc := 0, descAt := 0, promise := none, ready := false, locks := [], withdrawn := false, remainder := false,
    early := 0, code := 0, seq := 0, autoFail := false, autoWait := false, loc := 0, locAux := 0, walked := 0,
    fin := 0, hotspot := 0, s := none, dtStart := 0, startAt := 0, dtFin := 0, bTime := Vector.replicate 16 0,
    bStrokes := Vector.replicate 16 0, bRise := Vector.replicate 16 0, bClamp := Vector.replicate 16 0,
    bFF := Vector.replicate 16 0, prepAt := none, tPrep := 0, driftAt := 0, pubRound := 0, prepCfg := #v[0, 0, 0], armAt := 0, predSlot := none, started := false,
    commitAt := none, twinAns := none, decided := none }

/-- The decode state at job start before the image is looked at (R77). -/
def resetPState : PState :=
  { g := Vector.replicate 16 0, px := 0, py := 0, pz := 0, z := false, n := false, c := false, v := false, pc := 0,
    loops := [], held := none, pScale := 0x8000, irefScale := 0x8000, fbHold := false, progEnd := 0, lastEnd := 0, window := 0,
    waits := 0, passed := [], focusPend := false, zFrom := 0, halted := false, rerun := false }

/-- Beam engine `n` at reset; its sampled words are BEn_AXES, LAG_CFG, LAG_DEF, STOP_CFG, REJOIN, REJOIN_EMAX and
PWR_CFG at their reset values. -/
def resetBeam (n : Nat) : BeamEng :=
  { job := none, dec := resetPState, fifo := [], strokesDone := 0, lastStart := 0, m := ⟨0, 0⟩, mz := 0, jtLast := 0,
    posFrom := none, zStart := 0, posEnd := 0, events := [], pendEv := [], hist := [], obs := #v[[], []], gates := [], stop := none,
    move := none, stopReq := none,
    cfg := #v[BitVec.ofNat 32 ((3 * n + 2) * 65536 + (3 * n + 1) * 256 + 3 * n), 0x03230D40, 0, 0, 0, 0x00FFFFFF,
              0x00000100],
    barrier := [], skip := false, fetched := false, ring := [], read := 0, undo := [], past := none, holdTo := 0 }

/-- A light drive channel at reset; LDn_CTL, LDn_PWM, LDn_MUSTER_DLY and the diagnosis words at their reset values. -/
def resetLaser : Laser :=
  { relLeft := 0, offNext := 0, cfg := #v[0x00002010, 0x00002710, 0],
    diag := #v[0x03E807D0, 0x08040404, 0x0CCD199A], winAt := 0, acc := 0, accEmit := false, alone := false, failed := false,
    ivLen := 0, ivEmit := false, ivOn := none, stuck := 0, lost := 0, lossUp := false, next := 0, lastLost := false, lastEmit := false,
    words := [], pwm := none, seen := [], edges := [] }

/-- A pool correction unit at reset; PCUn_CTL, PD_CFG, FREEZE, EYE_CFG, EYE_THR and EYE_LOOP at their reset values. -/
def resetPcu : Pcu :=
  { ah := 0, bh := 0, lastIdx := none, inbox := [], next := 0, lossRun := 0, frzRun := 0, frzVal := 0, acc := 0,
    word := 0, nom := 0, opn := false, fbActive := false, fallback := false, clampHi := false, clampLo := false,
    slewed := false, prof := 0, holdFb := false, lastOpen := none, expo := none, expoProf := none, okRun := 0, okVals := [], trim := 0, trimQ := [],
    epoch := 0, hist := [], cfg := #v[0, 0x10000802, 0x0040199A, 0x40400000, 0x00000800, 0x006400C8],
    frameNo := none, frame := none, full := none, eyeFrom := none, eyeLost := false, hold := false, capArmed := false,
    capFrom := none, capOff := 0 }

/-- A telemetry egress at reset (R232). -/
def resetTel : Telemetry :=
  { recs := [], openAt := 0, egress := [], wireEnd := 0, seq := 0, dropped := 0, dropFrc := 0 }

/-- The heat ledger at reset; GRID, CFG, BASE and ORG, and CFG, RISE and RISE_REP, at their reset values. -/
def resetLedger : Ledger :=
  { ltBase := 0, ltAt := 0, ltPrev := (0, 0), tau := none, kl := none, layer := 0, kernel := [],
    geo := #v[0x20002000, 0x10010208, 0, 1, 0xF3CB0000, 0xF3CB0000],
    cfg := #v[0x10010208, 0x10FFFFFF, 0x03E80008], fs := Vector.replicate 16 0, visits := Vector.replicate 16 [],
    failed := [], changes := [], cache := [], owed := Vector.replicate 16 0, rises := Vector.replicate 16 [], sweep := 0, sweepFrom := 0, sweepLate := false,
    op := 0, qry := false, qryAt := none }

/-- The zone arbiter at reset. -/
def resetZone : Zone :=
  { active := false, map := false, round := 0,
    beam := Vector.replicate 16
      { reqs := [], held := none, rels := [], granted := none, base := 0, nextBase := none, quota := 0,
        masked := false },
    sets := [], prio := [], window := 0 }

/-- The fabric at reset: unreserved entries in both tables, best-effort bases of FAB_PRIO and FAB_PRIO2. -/
def resetFab : Fabric :=
  { live := Vector.replicate 64 0, swapPend := false, swapAt := 0, flight := [], slotAt := none,
    be := #v[3, 3, 3, 3, 4, 5, 3, 5, 2, 2, 4, 6, 1, 0, 0, 0].map fun b =>
      { pend := none, lost := 0, wins := 0, masked := false, base := b, again := false },
    window := 0, tabAt := #v[none, none, none, none], shAt := 0, shOld := Vector.replicate 64 0, dbgAt := #v[none, none] }

/-- Zeros in every place of a law (R293). -/
def resetLaw : LawCtx :=
  { acc := Vector.replicate 4 0, s := Vector.replicate 32 0, t := Vector.replicate 8 0, inp := Vector.replicate 8 0,
    o := Vector.replicate 8 0, done := false }

/-- A loop-engine slot that is off (R302). -/
def resetLeSlot : LeSlot :=
  { st := .off, cause := 0, cycles := 0, words := 0, ncoef := 0, master := 0, ctx := resetLaw, ramp := 0, pos := 0,
    cur := 0, aux := 0, inbox := [], lateIdx := [], fbNew := false, first := false, pcmd := 0, h1 := 0, h2 := 0, ran := none,
    obsValid := false, lossRun := 0, frzRun := 0, frzVal := 0, feRun := 0, overs := [], forceOver := false }

/-- A loop engine at reset. -/
def resetLe : LoopEng :=
  { slot := Vector.replicate 16 resetLeSlot,
    tr := Vector.replicate 4 { on_ := false, next := 0, div := 0, left := none, prev := none },
    armed := false, trig := false, check := 0, checkRound := none }

/-- A machine axis at reset (KIND 0, so OFF). -/
def resetAxis : AxisSt :=
  { st := .off, queue := [], running := false, vOut := ⟨0, 1⟩, segs := [], pos := ⟨0, 1⟩, past := [], steps := 0, dirPos := false,
    dirAt := 0, stepAt := none, rem := 0, remValid := false, stopTgt := none, kept := [], homed := false, home := false, limP := true,
    limN := true, homing := 0, homeAt := ⟨0, 1⟩, hard := false, lastTgt := 0,
    schedEnd := none }

/-- No machine program. -/
def resetMach : MachProg :=
  { job := none, pc := 0, time := 0, halted := false, resumePc := 0 }

/-- A delay-line pair with nothing selected (R333, R337). -/
def resetPair : LinePair :=
  { line := false, selA := 0, selB := 0, inlA := 0, inlB := 0, swap := false }

/-- A head at reset; the drift correction in the engine is the identity (R173). -/
def resetHead : CalHead :=
  { active := 0, promote := false, temp := 0, tempAt := none, stale := false, checked := false, recal := false,
    drawn := none, check := none, eng := #v[0x40000000, 0, 0, 0x40000000, 0, 0] }

/-- Calibration at reset. -/
def resetCal : Cal :=
  { pair := Vector.replicate 32 resetPair, running := false, due := false, waited := false, again := false, refHeld := false,
    refOk := false, refGood := 0, refAt := none, valid := Vector.replicate 32 false,
    head := Vector.replicate 16 resetHead,
    src := Vector.replicate 16 { valid := false, lin := false, expo := none, done := none, more := [] } }

/-- A lane that is off, with the transmitter taps that training starts from (R363). -/
def resetLane : LaneSt :=
  { st := .off, pos := 0, portId := 0, ams := 0, amBad := 0, block := false, goodAt := none, bad := [], signal := false, pre := 0, main_ := 48,
    post := 4, eye := 0, reqs := 0, mySeq := 0, myReq := 0, waiting := false, farSeq := none, resp := 0,
    doneTx := false, doneRx := false, skew := 0, amAt := none, elastic := 0 }

/-- A port that is off. -/
def resetPort : PortSt :=
  { st := .off, width := 0, degraded := false, half := [], amNext := none, trainAt := 0, txSeq := 0, unacked := [], waiting := [], replayAt := 0,
    replays := 0, rxNext := 0, nakOut := false, ackDue := 0, ackAt := 0, hbSeen := false, hbMiss := 0, hbSent := [],
    rtt := 0, rttMax := 0, tag := 0, cfg := none, answers := [], gridOfs := 0, farId := 0, farProf := 0 }

/-- SOLO and UNPAIRED with the lead bit set (R390, R391). -/
def resetTwin : Twin :=
  { role := 0, pair := 0, lead := true, confirm := false, takeCause := 0, sentCause := 0, took := 0, timeOk := false, timeGood := 0,
    timeBad := 0, ofs := 0, timeRef := 0, step := 0, deltas := [], txAt := [], rxAt := none, farExt := 0, farRole := none, hbMiss := 0,
    hbGood := 0, hbLast := none, farCfg := none, farRtt := [], skewAt := none, skewBad := false, winAt := none, winEnd := none, winNo := 0,
    items := [], mine := [], theirs := [], agreed := none, leadAt := none, decideAt := none, decided := none, timed := [],
    hbTake := false, obj := none, copied := 0 }

/-- The fault hub with nothing latched. -/
def resetHub : Hub :=
  { pending := [],
    latch := Vector.replicate 3
      { seq := 0, id := 0, unit := 0, orig := 0, valid := false, ovf := false, esc := false, forced := false,
        dbl := false, state := 0, frc := 0, jt := 0, rep := 0, detail := 0 },
    shadows := [], conseqSafe := [], whole := none, follow := [], quietAt := 0, quietF := false, exits := [], stickyCause := 0, ladder := [],
    steps := [], seen := [], key := 0, keyAt := 0, pwrCyc := none, reEnable := [] }

/-- A recorder over empty areas. -/
def resetRec : Recorder :=
  { queue := [], cur := none, head := 0, tail := 0, cairn := 0, cairnFull := false, pcc := 0, warm := 0, opMs := 0, cbSeq := 0,
    ovf := 0, ovfFrc := 0, frozen := false, frzAt := 0, frzSrc := false, clrKey := none, warnCrc := false,
    aboveAt := none }

/-- The recorder of a first power-on: one power cycle counted, the BOOT record and the STATE record of RESET to BOOT waiting
(R438, R443). -/
def resetRecBoot : Recorder :=
  { resetRec with
    pcc := 1
    queue := [{ type := 0x10, payload := [0, BitVec.ofNat 8 (Config.variantIx.val + 1), 0xC1, 0] ++ List.replicate 8 0
                opMs := 0, held := false },
              { type := 0x11, payload := [1, 0, 0, 0, 0, 0, 0, 0], opMs := 0, held := true }] }

/-- Power and thermal monitoring before the first round (R457 to R461). -/
def resetPwr : Power :=
  { quad := Vector.replicate 4 ⟨0, 0, 0, 0, 0⟩, valid := false, hist := [], bad := Vector.replicate 48 0,
    val := Vector.replicate 48 0, oor := 0, railOor := false, hotWarn := false, hotHold := false, hotBelay := false,
    riseOver := false, rate := 0, pq := Vector.replicate 4 0, err := Vector.replicate 4 0, warnAt := none,
    stopAt := none, low := 0, armDie := Vector.replicate 4 none }

/-- The host interface at reset. -/
def resetHost : HostIf :=
  { win := 0, dma := Vector.replicate 4 none, linkUp := false, link := 0, msix := 0, table := [], hist := [], mbx := none, nonce := none, dbgOpen := false, auxHead := 0,
    auxDrop := 0, toHost := [], tap := 0, latched := [], rdData := 0 }

/-- An MRAM in which nothing was ever saved. -/
def resetMram : Mram :=
  { cbA := none, cbB := some ⟨0, 0, 0, false, 0, 0, 0, 0⟩, lines := [], curves := [], ddrCfg := none, ports := [], patch := 0, pend := 0, pendImg := [] }

/-- The block right after a power-on reset: BOOT entered, LASER_KILL_N asserted with CAUSE 1 (R205), both interlock
inputs high, MRAM never written. Values that the spec does not give are named in log entries 4 to 8. -/
def reset : State :=
  { pending := [], tick := 0, free := 0,
    dev := { state := .boot, prev := .reset, stateFrc := 0, holdCause := 0, holdReq := 0, holdAt := 0, sticky := false, rstLow := false,
             belowVreset := false, belowVstop := false, belowVwarn := false, booted := false, bootStep := 0,
             bootFailed := false, shpHalt := false, inBelay := false, variant := Config.variantIx.val + 1, rstCause := 0,
             lock := false },
    regs := [], mem := [], time := resetTime,
    job := { slot := Vector.replicate 4 resetSlot, queue := [], walking := none, left := none },
    be := Vector.ofFn fun i => resetBeam i.val, ld := Vector.replicate 16 resetLaser,
    ldc := { a := true, b := true, latch := false, highAt := 0, diffAt := none, diffRaised := false, kill := true,
             cause := 1 },
    pcu := Vector.replicate 16 resetPcu, tel := Vector.replicate 2 resetTel, ldg := resetLedger, zone := resetZone,
    fab := resetFab, le := Vector.replicate 4 resetLe, ax := Vector.replicate 16 resetAxis, mach := resetMach,
    cal := resetCal, lane := Vector.replicate 64 resetLane, port := Vector.replicate 35 resetPort, sent := [],
    twin := resetTwin, hub := resetHub, recd := resetRecBoot, pwr := resetPwr, host := resetHost, mram := resetMram }

end State

end Sys2Proof.Machine
end

