-- ==== Sys2Proof/Machine/RegMap.lean ====
section
/-! DEFINITION. The register map of BAR0 (R487): the offset of every register by its name, and per register which bits
software writes, which bits a write of 1 clears, and the reset value. -/

namespace Sys2Proof.Machine

/-! Offsets. An index outside its range names no register of the block. -/

def R.SYS_ID : Nat := 0x000000
def R.SYS_LOCK : Nat := 0x000004
def R.SYS_BOOT : Nat := 0x000008
def R.SYS_STATE : Nat := 0x000010
def R.SYS_STATE_FRC : Nat := 0x000014
def R.SYS_UID_LO : Nat := 0x000018
def R.SYS_UID_HI : Nat := 0x00001C
def R.SYS_LADDER_HINT : Nat := 0x000020
def R.SYS_LADDER : Nat := 0x000024
def R.SYS_LADDER_KEY : Nat := 0x000028
def R.SYS_LADDER_RESULT : Nat := 0x00002C
def R.SYS_LADDER_CODE : Nat := 0x000030
def R.SYS_PWR_CYC : Nat := 0x000034
def R.SYS_PATCH : Nat := 0x000038
def R.SYS_PATCH_PEND : Nat := 0x00003C
def R.CLK_STATUS : Nat := 0x010000
def R.CLK_LOSS : Nat := 0x010004
def R.CLK_MON_REF : Nat := 0x010008
def R.TIME_CTL : Nat := 0x020000
def R.TIME_STATUS : Nat := 0x020004
def R.TIME_SLEW : Nat := 0x020008
def R.TIME_RESID : Nat := 0x02000C
def R.TIME_FRC : Nat := 0x020010
def R.TIME_DT : Nat := 0x020014
def R.TIME_SNAP_FRC : Nat := 0x020018
def R.TIME_SNAP_DT : Nat := 0x02001C
def R.TIME_SNAP_A : Nat := 0x020020
def R.TIME_SNAP_B : Nat := 0x020024
def R.TIME_AB_OFS (d : Nat) : Nat := 0x020100 + d * 0x100
def R.TIME_AB_FRAC (d : Nat) : Nat := 0x020104 + d * 0x100
def R.TIME_AB_RATE (d : Nat) : Nat := 0x020108 + d * 0x100
def R.TIME_AB_ANCHOR (d : Nat) : Nat := 0x02010C + d * 0x100
def R.TIME_AB_STEP (d : Nat) : Nat := 0x020110 + d * 0x100
def R.TIME_AB_SERVO (d : Nat) : Nat := 0x020114 + d * 0x100
def R.TIME_AB_SPAR (d : Nat) : Nat := 0x020118 + d * 0x100
def R.TIME_AB_PTPO (d : Nat) : Nat := 0x02011C + d * 0x100
def R.TIME_AB_PTPD (d : Nat) : Nat := 0x020120 + d * 0x100
def R.TIME_AB_PCNT (d : Nat) : Nat := 0x020124 + d * 0x100
def R.TIME_TPn_CTL (n : Nat) : Nat := 0x020400 + n * 0x20
def R.TIME_TPn_TGT (n : Nat) : Nat := 0x020404 + n * 0x20
def R.TIME_TPn_PERIOD (n : Nat) : Nat := 0x020408 + n * 0x20
def R.TIME_TPn_WIDTH (n : Nat) : Nat := 0x02040C + n * 0x20
def R.TIME_TPn_STATUS (n : Nat) : Nat := 0x020410 + n * 0x20
def R.TIME_TCn_CTL (n : Nat) : Nat := 0x020600 + n * 0x20
def R.TIME_TCn_STATUS (n : Nat) : Nat := 0x020604 + n * 0x20
def R.TIME_TCn_RAW (n : Nat) : Nat := 0x020608 + n * 0x20
def R.TIME_TCn_CONV (n : Nat) : Nat := 0x02060C + n * 0x20
def R.TIME_RTC_CTL : Nat := 0x020800
def R.TIME_RTC_STATUS : Nat := 0x020804
def R.TIME_RTC_DATE : Nat := 0x020808
def R.TIME_RTC_TOD : Nat := 0x02080C
def R.TIME_RTC_SUB : Nat := 0x020810
def R.TIME_RTC_SET_DATE : Nat := 0x020814
def R.TIME_RTC_SET_TOD : Nat := 0x020818
def R.TIME_RTC_TRIM : Nat := 0x02081C
def R.JOB_CTL : Nat := 0x030000
def R.JOB_RESULT : Nat := 0x030004
def R.JOB_RESULT_FRC : Nat := 0x030008
def R.JOB_PREP : Nat := 0x03000C
def R.JOB_POS : Nat := 0x030010
def R.JOB_SETTLE : Nat := 0x030014
def R.JOB_WALK_MAX : Nat := 0x030018
def R.JOB_IRQ_STATUS : Nat := 0x03001C
def R.JOB_IRQ_EN : Nat := 0x030020
def R.JOB_MISS : Nat := 0x030024
def R.JOB_MISS_JT : Nat := 0x030028
def R.JOB_SLOTn_STATUS (n : Nat) : Nat := 0x031000 + n * 0x400
def R.JOB_SLOTn_JOBID (n : Nat) : Nat := 0x031004 + n * 0x400
def R.JOB_SLOTn_DADDR_LO (n : Nat) : Nat := 0x031008 + n * 0x400
def R.JOB_SLOTn_DADDR_HI (n : Nat) : Nat := 0x03100C + n * 0x400
def R.JOB_SLOTn_WALKED_LO (n : Nat) : Nat := 0x031010 + n * 0x400
def R.JOB_SLOTn_WALKED_HI (n : Nat) : Nat := 0x031014 + n * 0x400
def R.JOB_SLOTn_LOC (n : Nat) : Nat := 0x031018 + n * 0x400
def R.JOB_SLOTn_LOC_AUX (n : Nat) : Nat := 0x03101C + n * 0x400
def R.JOB_SLOTn_FIN_LO (n : Nat) : Nat := 0x031020 + n * 0x400
def R.JOB_SLOTn_FIN_HI (n : Nat) : Nat := 0x031024 + n * 0x400
def R.JOB_SLOTn_S (n : Nat) : Nat := 0x031028 + n * 0x400
def R.JOB_SLOTn_DT_START (n : Nat) : Nat := 0x03102C + n * 0x400
def R.JOB_SLOTn_DT_FIN (n : Nat) : Nat := 0x031030 + n * 0x400
def R.JOB_SLOTn_HOTSPOT (n : Nat) : Nat := 0x031034 + n * 0x400
def R.JOB_SLOTn_BEAMb_TIME_LO (n b : Nat) : Nat := 0x031100 + n * 0x400 + b * 0x10
def R.JOB_SLOTn_BEAMb_TIME_HI (n b : Nat) : Nat := 0x031104 + n * 0x400 + b * 0x10
def R.JOB_SLOTn_BEAMb_STROKES (n b : Nat) : Nat := 0x031108 + n * 0x400 + b * 0x10
def R.JOB_SLOTn_BEAMb_PROC (n b : Nat) : Nat := 0x03110C + n * 0x400 + b * 0x10
def R.MBX_CMD : Nat := 0x040000
def R.MBX_DOORBELL : Nat := 0x040004
def R.MBX_STATUS : Nat := 0x040008
def R.MBX_RTAG : Nat := 0x04000C
def R.MBX_IRQ_EN : Nat := 0x040010
def R.MBX_ARGi (i : Nat) : Nat := 0x040040 + i * 0x4
def R.MBX_RESi (i : Nat) : Nat := 0x040080 + i * 0x4
def R.MBX_HISTe_TAG (e : Nat) : Nat := 0x040100 + e * 0x8
def R.MBX_HISTe_DIG (e : Nat) : Nat := 0x040104 + e * 0x8
def R.BEn_CTL (n : Nat) : Nat := 0x100000 + n * 0x10000
def R.BEn_STATUS (n : Nat) : Nat := 0x100004 + n * 0x10000
def R.BEn_JT_LO (n : Nat) : Nat := 0x100008 + n * 0x10000
def R.BEn_JT_HI (n : Nat) : Nat := 0x10000C + n * 0x10000
def R.BEn_PC (n : Nat) : Nat := 0x100010 + n * 0x10000
def R.BEn_AXES (n : Nat) : Nat := 0x100014 + n * 0x10000
def R.BEn_LAG_CFG (n : Nat) : Nat := 0x100018 + n * 0x10000
def R.BEn_LAG_DEF (n : Nat) : Nat := 0x10001C + n * 0x10000
def R.BEn_LAG_LAST (n : Nat) : Nat := 0x100020 + n * 0x10000
def R.BEn_STOP_CFG (n : Nat) : Nat := 0x100024 + n * 0x10000
def R.BEn_REJOIN (n : Nat) : Nat := 0x100028 + n * 0x10000
def R.BEn_REJOIN_EMAX (n : Nat) : Nat := 0x10002C + n * 0x10000
def R.BEn_PWR_CFG (n : Nat) : Nat := 0x100030 + n * 0x10000
def R.BEn_STOP_KIND (n : Nat) : Nat := 0x100040 + n * 0x10000
def R.BEn_STOP_PC (n : Nat) : Nat := 0x100044 + n * 0x10000
def R.BEn_STOP_X (n : Nat) : Nat := 0x100048 + n * 0x10000
def R.BEn_STOP_Y (n : Nat) : Nat := 0x10004C + n * 0x10000
def R.BEn_STOP_REM (n : Nat) : Nat := 0x100050 + n * 0x10000
def R.BEn_STOP_FRC (n : Nat) : Nat := 0x100054 + n * 0x10000
def R.BEn_EV_STATUS (n : Nat) : Nat := 0x100060 + n * 0x10000
def R.BEn_EV_CODE (n : Nat) : Nat := 0x100064 + n * 0x10000
def R.BEn_EV_TIME (n : Nat) : Nat := 0x100068 + n * 0x10000
def R.BEn_EV_VALUE (n : Nat) : Nat := 0x10006C + n * 0x10000
def R.BEn_CNT (n : Nat) : Nat := 0x100070 + n * 0x10000
def R.PCUn_CTL (n : Nat) : Nat := 0x200000 + n * 0x10000
def R.PCUn_STATUS (n : Nat) : Nat := 0x200004 + n * 0x10000
def R.PCUn_PD_CFG (n : Nat) : Nat := 0x200008 + n * 0x10000
def R.PCUn_FREEZE (n : Nat) : Nat := 0x20000C + n * 0x10000
def R.PCUn_WORD (n : Nat) : Nat := 0x200010 + n * 0x10000
def R.PCUn_PD (n : Nat) : Nat := 0x200014 + n * 0x10000
def R.PCUn_INT_LO (n : Nat) : Nat := 0x200018 + n * 0x10000
def R.PCUn_INT_HI (n : Nat) : Nat := 0x20001C + n * 0x10000
def R.PCUn_CNT_PD (n : Nat) : Nat := 0x200020 + n * 0x10000
def R.PCUn_CNT_CLAMP (n : Nat) : Nat := 0x200024 + n * 0x10000
def R.PCUn_CNT_FB (n : Nat) : Nat := 0x200028 + n * 0x10000
def R.PCUn_TEL (n : Nat) : Nat := 0x200030 + n * 0x10000
def R.PCUn_EYE_CFG (n : Nat) : Nat := 0x200100 + n * 0x10000
def R.PCUn_EYE_THR (n : Nat) : Nat := 0x200104 + n * 0x10000
def R.PCUn_EYE_LOOP (n : Nat) : Nat := 0x200108 + n * 0x10000
def R.PCUn_EYE_STATUS (n : Nat) : Nat := 0x20010C + n * 0x10000
def R.PCUn_EYE_F0 (n : Nat) : Nat := 0x200110 + n * 0x10000
def R.PCUn_EYE_F1 (n : Nat) : Nat := 0x200114 + n * 0x10000
def R.PCUn_EYE_F2 (n : Nat) : Nat := 0x200118 + n * 0x10000
def R.PCUn_EYE_F3 (n : Nat) : Nat := 0x20011C + n * 0x10000
def R.PCUn_EYE_F4 (n : Nat) : Nat := 0x200120 + n * 0x10000
def R.PCUn_EYE_F5 (n : Nat) : Nat := 0x200124 + n * 0x10000
def R.PCUn_EYE_TRIM (n : Nat) : Nat := 0x200128 + n * 0x10000
def R.PCUn_EYE_CNT (n : Nat) : Nat := 0x20012C + n * 0x10000
def R.PCUn_CAP_CTL (n : Nat) : Nat := 0x200140 + n * 0x10000
def R.PCUn_CAP_THR (n : Nat) : Nat := 0x200144 + n * 0x10000
def R.PCUn_CAP_CODE (n : Nat) : Nat := 0x200148 + n * 0x10000
def R.PCUn_CAP_STATUS (n : Nat) : Nat := 0x20014C + n * 0x10000
def R.LEk_CTL (k : Nat) : Nat := 0x300000 + k * 0x10000
def R.LEk_STATUS (k : Nat) : Nat := 0x300004 + k * 0x10000
def R.LEk_CMD (k : Nat) : Nat := 0x300008 + k * 0x10000
def R.LEk_CMD_RESULT (k : Nat) : Nat := 0x30000C + k * 0x10000
def R.LEk_IMG_LO (k : Nat) : Nat := 0x300010 + k * 0x10000
def R.LEk_IMG_HI (k : Nat) : Nat := 0x300014 + k * 0x10000
def R.LEk_OVR_CFG (k : Nat) : Nat := 0x300018 + k * 0x10000
def R.LEk_FRAME (k : Nat) : Nat := 0x30001C + k * 0x10000
def R.LEk_SCHED (k : Nat) : Nat := 0x300020 + k * 0x10000
def R.LEk_IRQ_STATUS (k : Nat) : Nat := 0x300024 + k * 0x10000
def R.LEk_IRQ_EN (k : Nat) : Nat := 0x300028 + k * 0x10000
def R.LEk_TR_CTL (k : Nat) : Nat := 0x300100 + k * 0x10000
def R.LEk_TR_STATUS (k : Nat) : Nat := 0x300104 + k * 0x10000
def R.LEk_TR_THR (k : Nat) : Nat := 0x300108 + k * 0x10000
def R.LEk_TRc_SEL (k c : Nat) : Nat := 0x300110 + k * 0x10000 + c * 0x10
def R.LEk_TRc_IDX (k c : Nat) : Nat := 0x300114 + k * 0x10000 + c * 0x10
def R.LEk_TRc_TFRM (k c : Nat) : Nat := 0x300118 + k * 0x10000 + c * 0x10
def R.LEk_SLOTl_CFG (k l : Nat) : Nat := 0x301000 + k * 0x10000 + l * 0x100
def R.LEk_SLOTl_STATUS (k l : Nat) : Nat := 0x301004 + k * 0x10000 + l * 0x100
def R.LEk_SLOTl_CYC (k l : Nat) : Nat := 0x301008 + k * 0x10000 + l * 0x100
def R.LEk_SLOTl_RAMP (k l : Nat) : Nat := 0x30100C + k * 0x10000 + l * 0x100
def R.LEk_SLOTl_FE (k l : Nat) : Nat := 0x301010 + k * 0x10000 + l * 0x100
def R.LEk_SLOTl_SUP (k l : Nat) : Nat := 0x301014 + k * 0x10000 + l * 0x100
def R.LEk_SLOTl_FREEZE_I (k l : Nat) : Nat := 0x301018 + k * 0x10000 + l * 0x100
def R.LEk_SLOTl_CNT (k l : Nat) : Nat := 0x30101C + k * 0x10000 + l * 0x100
def R.LEk_SLOTl_OVR (k l : Nat) : Nat := 0x301020 + k * 0x10000 + l * 0x100
def R.LEk_SLOTl_SP (k l : Nat) : Nat := 0x301024 + k * 0x10000 + l * 0x100
def R.LEk_SLOTl_FP (k l : Nat) : Nat := 0x301028 + k * 0x10000 + l * 0x100
def R.LEk_SLOTl_CMD (k l : Nat) : Nat := 0x30102C + k * 0x10000 + l * 0x100
def R.LEk_SLOTl_OBS (k l : Nat) : Nat := 0x301030 + k * 0x10000 + l * 0x100
def R.LEk_SLOTl_FE_PEAK (k l : Nat) : Nat := 0x301034 + k * 0x10000 + l * 0x100
def R.AX_STATUS : Nat := 0x340000
def R.AXn_CFG (n : Nat) : Nat := 0x341000 + n * 0x100
def R.AXn_STATUS (n : Nat) : Nat := 0x341004 + n * 0x100
def R.AXn_POS (n : Nat) : Nat := 0x341008 + n * 0x100
def R.AXn_REM (n : Nat) : Nat := 0x34100C + n * 0x100
def R.AXn_VMAX (n : Nat) : Nat := 0x341010 + n * 0x100
def R.AXn_AMAX (n : Nat) : Nat := 0x341014 + n * 0x100
def R.AXn_DMAX (n : Nat) : Nat := 0x341018 + n * 0x100
def R.AXn_SLIM_LO (n : Nat) : Nat := 0x34101C + n * 0x100
def R.AXn_SLIM_HI (n : Nat) : Nat := 0x341020 + n * 0x100
def R.AXn_STEP (n : Nat) : Nat := 0x341024 + n * 0x100
def R.AXn_HOME (n : Nat) : Nat := 0x341028 + n * 0x100
def R.AXn_HOME_POS (n : Nat) : Nat := 0x34102C + n * 0x100
def R.AXn_HOME_FRC (n : Nat) : Nat := 0x341030 + n * 0x100
def R.AXn_CMD (n : Nat) : Nat := 0x341040 + n * 0x100
def R.AXn_CMD_TGT (n : Nat) : Nat := 0x341044 + n * 0x100
def R.AXn_CMD_V (n : Nat) : Nat := 0x341048 + n * 0x100
def R.AXn_CMD_A (n : Nat) : Nat := 0x34104C + n * 0x100
def R.AXn_RESULT (n : Nat) : Nat := 0x341050 + n * 0x100
def R.LDG_CTL : Nat := 0x380000
def R.LDG_STATUS : Nat := 0x380004
def R.LDG_GRID : Nat := 0x380008
def R.LDG_CFG : Nat := 0x38000C
def R.LDG_BASE_LO : Nat := 0x380010
def R.LDG_BASE_HI : Nat := 0x380014
def R.LDG_ORG_X : Nat := 0x380018
def R.LDG_ORG_Y : Nat := 0x38001C
def R.LDG_RISE : Nat := 0x380020
def R.LDG_RISE_REP : Nat := 0x380024
def R.LDG_DEF_TAU : Nat := 0x380028
def R.LDG_DEF_KL : Nat := 0x38002C
def R.LDG_LT : Nat := 0x380030
def R.LDG_LAYER : Nat := 0x380034
def R.LDG_TAU : Nat := 0x380038
def R.LDG_KL : Nat := 0x38003C
def R.LDG_IMP_LO : Nat := 0x380040
def R.LDG_IMP_HI : Nat := 0x380044
def R.LDG_SWEEP : Nat := 0x380048
def R.LDG_CNT : Nat := 0x38004C
def R.LDG_CNT2 : Nat := 0x380050
def R.LDG_QRY_X : Nat := 0x380060
def R.LDG_QRY_Y : Nat := 0x380064
def R.LDG_QRY_CTL : Nat := 0x380068
def R.LDG_QRY_RES : Nat := 0x38006C
def R.LDG_QRY_RAW_LO : Nat := 0x380070
def R.LDG_QRY_RAW_HI : Nat := 0x380074
def R.ZONE_CTL : Nat := 0x390000
def R.ZONE_STATUS : Nat := 0x390004
def R.ZONE_SEP : Nat := 0x390008
def R.ZONE_LEE : Nat := 0x39000C
def R.ZONE_QUOTA : Nat := 0x390010
def R.ZONE_ROUND : Nat := 0x390014
def R.ZONE_HELD : Nat := 0x390018
def R.ZONE_MASKED : Nat := 0x39001C
def R.ZONE_Bb_STATE (b : Nat) : Nat := 0x390040 + b * 0x4
def R.ZONE_Bb_CNT (b : Nat) : Nat := 0x390080 + b * 0x4
def R.ZONE_Bb_WAITMAX (b : Nat) : Nat := 0x3900C0 + b * 0x4
def R.FAB_CTL : Nat := 0x3A0000
def R.FAB_STATUS : Nat := 0x3A0004
def R.FAB_QUOTA : Nat := 0x3A0008
def R.FAB_PRIO : Nat := 0x3A000C
def R.FAB_PRIO2 : Nat := 0x3A0010
def R.FAB_CNT : Nat := 0x3A0014
def R.FAB_L0_CNT : Nat := 0x3A0018
def R.FAB_L0_MAX : Nat := 0x3A001C
def R.FAB_SLOT_SHDWk (k : Nat) : Nat := 0x3A0100 + k * 0x4
def R.FAB_SLOT_LIVEk (k : Nat) : Nat := 0x3A0140 + k * 0x4
def R.DDR_STATUS : Nat := 0x3B0000
def R.DDR_CFG_LO : Nat := 0x3B0004
def R.DDR_CFG_HI : Nat := 0x3B0008
def R.DDR_ECC : Nat := 0x3B000C
def R.DDR_SCRUB : Nat := 0x3B0010
def R.LANEn_CTL (n : Nat) : Nat := 0x400000 + n * 0x1000
def R.LANEn_STATUS (n : Nat) : Nat := 0x400004 + n * 0x1000
def R.LANEn_EQ (n : Nat) : Nat := 0x400008 + n * 0x1000
def R.LANEn_EQ_CFG (n : Nat) : Nat := 0x40000C + n * 0x1000
def R.LANEn_CNT (n : Nat) : Nat := 0x400010 + n * 0x1000
def R.LANEn_CNT2 (n : Nat) : Nat := 0x400014 + n * 0x1000
def R.LANEn_SKEW (n : Nat) : Nat := 0x400018 + n * 0x1000
def R.PORT_SIDX_LO : Nat := 0x440000
def R.PORT_SIDX_HI : Nat := 0x440004
def R.PORTp_CTL (p : Nat) : Nat := 0x441000 + p * 0x100
def R.PORTp_STATUS (p : Nat) : Nat := 0x441004 + p * 0x100
def R.PORTp_RTT (p : Nat) : Nat := 0x441008 + p * 0x100
def R.PORTp_TC0 (p : Nat) : Nat := 0x44100C + p * 0x100
def R.PORTp_TC1 (p : Nat) : Nat := 0x441010 + p * 0x100
def R.PORTp_TC1_CFG (p : Nat) : Nat := 0x441014 + p * 0x100
def R.PORTp_FAR_ID (p : Nat) : Nat := 0x441018 + p * 0x100
def R.PORTp_FAR_PROF (p : Nat) : Nat := 0x44101C + p * 0x100
def R.PORTp_CFG_ADDR (p : Nat) : Nat := 0x441020 + p * 0x100
def R.PORTp_CFG_WDATA (p : Nat) : Nat := 0x441024 + p * 0x100
def R.PORTp_CFG_RDATA (p : Nat) : Nat := 0x441028 + p * 0x100
def R.PORTp_CFG_CMD (p : Nat) : Nat := 0x44102C + p * 0x100
def R.PORTp_CFG_RESULT (p : Nat) : Nat := 0x441030 + p * 0x100
def R.PORTp_UPCNT (p : Nat) : Nat := 0x441034 + p * 0x100
def R.LD_ILK_CTL : Nat := 0x480000
def R.LD_ILK_STATUS : Nat := 0x480004
def R.LD_KILL : Nat := 0x480008
def R.LD_MUSTER_CFG : Nat := 0x48000C
def R.LDn_CTL (n : Nat) : Nat := 0x481000 + n * 0x100
def R.LDn_STATUS (n : Nat) : Nat := 0x481004 + n * 0x100
def R.LDn_PWM (n : Nat) : Nat := 0x481008 + n * 0x100
def R.LDn_MUSTER_DLY (n : Nat) : Nat := 0x48100C + n * 0x100
def R.LDn_DIAG_TIME (n : Nat) : Nat := 0x481010 + n * 0x100
def R.LDn_DIAG_CFG (n : Nat) : Nat := 0x481014 + n * 0x100
def R.LDn_DIAG_THR (n : Nat) : Nat := 0x481018 + n * 0x100
def R.LDn_DIAG_STATUS (n : Nat) : Nat := 0x48101C + n * 0x100
def R.LDn_RPT_CFG (n : Nat) : Nat := 0x481020 + n * 0x100
def R.LDn_CNT (n : Nat) : Nat := 0x481024 + n * 0x100
def R.LDn_LAST_RPT (n : Nat) : Nat := 0x481028 + n * 0x100
def R.CAL_CTL : Nat := 0x500000
def R.CAL_STATUS : Nat := 0x500004
def R.CAL_CMD : Nat := 0x500008
def R.CAL_RESULT : Nat := 0x50000C
def R.CAL_REF_PPM : Nat := 0x500010
def R.CAL_DL_CFG : Nat := 0x500014
def R.CAL_DL_GATE : Nat := 0x500018
def R.CAL_DL_BAD : Nat := 0x50001C
def R.CAL_DL_LAST : Nat := 0x500020
def R.CAL_DL_CNT : Nat := 0x500024
def R.CAL_HEAD_CFG : Nat := 0x500028
def R.CAL_DRIFT_TOL : Nat := 0x50002C
def R.CAL_PCAL_CFG : Nat := 0x500030
def R.CAL_PCAL_ON : Nat := 0x500034
def R.CAL_PCAL_READ : Nat := 0x500038
def R.CAL_IRQ_STATUS : Nat := 0x500040
def R.CAL_IRQ_EN : Nat := 0x500044
def R.CAL_DLm_STATUS (m : Nat) : Nat := 0x500100 + m * 0x4
def R.CAL_Hn_STATUS (n : Nat) : Nat := 0x501000 + n * 0x100
def R.CAL_Hn_TEMP (n : Nat) : Nat := 0x501004 + n * 0x100
def R.CAL_Hn_SETT0 (n : Nat) : Nat := 0x501008 + n * 0x100
def R.CAL_Hn_SETT1 (n : Nat) : Nat := 0x50100C + n * 0x100
def R.CAL_Hn_WEIGHT (n : Nat) : Nat := 0x501010 + n * 0x100
def R.CAL_Hn_REFk_X (n k : Nat) : Nat := 0x501020 + n * 0x100 + k * 0x8
def R.CAL_Hn_REFk_Y (n k : Nat) : Nat := 0x501024 + n * 0x100 + k * 0x8
def R.CAL_Hn_M00 (n : Nat) : Nat := 0x501040 + n * 0x100
def R.CAL_Hn_M01 (n : Nat) : Nat := 0x501044 + n * 0x100
def R.CAL_Hn_M10 (n : Nat) : Nat := 0x501048 + n * 0x100
def R.CAL_Hn_M11 (n : Nat) : Nat := 0x50104C + n * 0x100
def R.CAL_Hn_OX (n : Nat) : Nat := 0x501050 + n * 0x100
def R.CAL_Hn_OY (n : Nat) : Nat := 0x501054 + n * 0x100
def R.CAL_Hn_D_BX (n : Nat) : Nat := 0x501060 + n * 0x100
def R.CAL_Hn_D_BY (n : Nat) : Nat := 0x501064 + n * 0x100
def R.CAL_Hn_D_GX (n : Nat) : Nat := 0x501068 + n * 0x100
def R.CAL_Hn_D_GY (n : Nat) : Nat := 0x50106C + n * 0x100
def R.CAL_Hn_D_ROT (n : Nat) : Nat := 0x501070 + n * 0x100
def R.CAL_Hn_D_SKEW (n : Nat) : Nat := 0x501074 + n * 0x100
def R.CAL_Hn_DRIFT_T (n : Nat) : Nat := 0x501078 + n * 0x100
def R.CAL_Pn_CTL (n : Nat) : Nat := 0x502000 + n * 0x200
def R.CAL_Pn_STATUS (n : Nat) : Nat := 0x502004 + n * 0x200
def R.CAL_Pn_FS (n : Nat) : Nat := 0x502008 + n * 0x200
def R.CAL_Pn_Wp (n p : Nat) : Nat := 0x502040 + n * 0x200 + p * 0x4
def R.CAL_Pn_ACCp (n p : Nat) : Nat := 0x502100 + n * 0x200 + p * 0x4
def R.TWIN_CTL : Nat := 0x510000
def R.TWIN_STATUS : Nat := 0x510004
def R.TWIN_CMD : Nat := 0x510008
def R.TWIN_RESULT : Nat := 0x51000C
def R.TWIN_CHECK : Nat := 0x510010
def R.TWIN_CMD_DLY : Nat := 0x510014
def R.TWIN_OFS_LO : Nat := 0x510018
def R.TWIN_OFS_HI : Nat := 0x51001C
def R.TWIN_TIME_ERR : Nat := 0x510020
def R.TWIN_SKEW : Nat := 0x510024
def R.TWIN_CP : Nat := 0x510028
def R.TWIN_CP_END : Nat := 0x51002C
def R.TWIN_DIG_LO : Nat := 0x510030
def R.TWIN_DIG_HI : Nat := 0x510034
def R.TWIN_PDIG_LO : Nat := 0x510038
def R.TWIN_PDIG_HI : Nat := 0x51003C
def R.TWIN_CFGDIG_LO : Nat := 0x510040
def R.TWIN_CFGDIG_HI : Nat := 0x510044
def R.TWIN_CNT : Nat := 0x510048
def R.TWIN_COPY : Nat := 0x51004C
def R.TWIN_IRQ_STATUS : Nat := 0x510050
def R.TWIN_IRQ_EN : Nat := 0x510054
def R.FLT_CTL : Nat := 0x520000
def R.FLT_STATUS : Nat := 0x520004
def R.FLT_QUIET : Nat := 0x520008
def R.FLT_SHADOW : Nat := 0x52000C
def R.FLT_TALLY_CFG : Nat := 0x520010
def R.FLT_ACK : Nat := 0x520014
def R.FLT_FORCE_UNIT : Nat := 0x520018
def R.FLT_QUIET_LEFT : Nat := 0x52001C
def R.FLT_FIRSTc_SRC (c : Nat) : Nat := 0x520040 + c * 0x10
def R.FLT_FIRSTc_FRC (c : Nat) : Nat := 0x520044 + c * 0x10
def R.FLT_FIRSTc_JT (c : Nat) : Nat := 0x520048 + c * 0x10
def R.FLT_FIRSTc_DET (c : Nat) : Nat := 0x52004C + c * 0x10
def R.FLT_IRQ_STATUS : Nat := 0x520070
def R.FLT_IRQ_EN : Nat := 0x520074
def R.FLT_CNT : Nat := 0x520078
def R.FLT_PRE_RESET : Nat := 0x52007C
def R.FLT_FORCEk (k : Nat) : Nat := 0x520080 + k * 0x4
def R.FLT_SEENk (k : Nat) : Nat := 0x5200A0 + k * 0x4
def R.REC_CTL : Nat := 0x530000
def R.REC_STATUS : Nat := 0x530004
def R.REC_HEAD : Nat := 0x530008
def R.REC_TAIL : Nat := 0x53000C
def R.REC_CAIRN : Nat := 0x530010
def R.REC_PCC : Nat := 0x530014
def R.REC_OPS : Nat := 0x530018
def R.REC_OPMS : Nat := 0x53001C
def R.REC_CNT : Nat := 0x530020
def R.REC_HOLD : Nat := 0x530024
def R.REC_FREEZE_CFG : Nat := 0x530028
def R.REC_CLR_KEY : Nat := 0x53002C
def R.REC_RD_OFS : Nat := 0x530030
def R.REC_RD_DATA : Nat := 0x530034
def R.REC_IRQ_STATUS : Nat := 0x530038
def R.REC_IRQ_EN : Nat := 0x53003C
def R.PWR_CTL : Nat := 0x540000
def R.PWR_STATUS : Nat := 0x540004
def R.PWR_RISE : Nat := 0x540008
def R.PWR_HOT : Nat := 0x54000C
def R.PWR_HOT_Q : Nat := 0x540010
def R.PWR_PEAK : Nat := 0x540014
def R.PWR_TOTAL : Nat := 0x540018
def R.PWR_DIP_CNT : Nat := 0x54001C
def R.PWR_DIP_LAST : Nat := 0x540020
def R.PWR_ROUND : Nat := 0x540024
def R.PWR_CH_BAD_LO : Nat := 0x540028
def R.PWR_CH_BAD_HI : Nat := 0x54002C
def R.PWR_IRQ_STATUS : Nat := 0x540030
def R.PWR_IRQ_EN : Nat := 0x540034
def R.PWR_OOR_CNT : Nat := 0x540038
def R.PWR_Qq_T01 (q : Nat) : Nat := 0x540040 + q * 0x10
def R.PWR_Qq_T23 (q : Nat) : Nat := 0x540044 + q * 0x10
def R.PWR_Qq_TB (q : Nat) : Nat := 0x540048 + q * 0x10
def R.PWR_Qq_P (q : Nat) : Nat := 0x54004C + q * 0x10
def R.PWR_CHk (k : Nat) : Nat := 0x540100 + k * 0x4
def R.PWR_MODELk (k : Nat) : Nat := 0x540200 + k * 0x4
def R.ETHn_CTL (n : Nat) : Nat := 0x550000 + n * 0x100
def R.ETHn_STATUS (n : Nat) : Nat := 0x550004 + n * 0x100
def R.ETHn_MAC_LO (n : Nat) : Nat := 0x550008 + n * 0x100
def R.ETHn_MAC_HI (n : Nat) : Nat := 0x55000C + n * 0x100
def R.ETHn_IP (n : Nat) : Nat := 0x550010 + n * 0x100
def R.ETHn_LAT (n : Nat) : Nat := 0x550014 + n * 0x100
def R.ETHn_TEL_IP (n : Nat) : Nat := 0x550018 + n * 0x100
def R.ETHn_TEL_MAC_LO (n : Nat) : Nat := 0x55001C + n * 0x100
def R.ETHn_TEL_MAC_HI (n : Nat) : Nat := 0x550020 + n * 0x100
def R.ETHn_CNT (n : Nat) : Nat := 0x550024 + n * 0x100
def R.HOST_IDS : Nat := 0x560000
def R.HOST_LINK : Nat := 0x560004
def R.HOST_WIN_LO : Nat := 0x560008
def R.HOST_WIN_HI : Nat := 0x56000C
def R.HOST_STATUS : Nat := 0x560010
def R.HOST_VEC0 : Nat := 0x560014
def R.HOST_VEC1 : Nat := 0x560018
def R.HOST_DMAc_HADDR_LO (c : Nat) : Nat := 0x560100 + c * 0x20
def R.HOST_DMAc_HADDR_HI (c : Nat) : Nat := 0x560104 + c * 0x20
def R.HOST_DMAc_DADDR_LO (c : Nat) : Nat := 0x560108 + c * 0x20
def R.HOST_DMAc_DADDR_HI (c : Nat) : Nat := 0x56010C + c * 0x20
def R.HOST_DMAc_LEN (c : Nat) : Nat := 0x560110 + c * 0x20
def R.HOST_DMAc_CTL (c : Nat) : Nat := 0x560114 + c * 0x20
def R.HOST_DMAc_STATUS (c : Nat) : Nat := 0x560118 + c * 0x20
def R.HOST_AUX_BASE_LO : Nat := 0x560200
def R.HOST_AUX_BASE_HI : Nat := 0x560204
def R.HOST_AUX_SIZE : Nat := 0x560208
def R.HOST_AUX_HEAD : Nat := 0x56020C
def R.HOST_AUX_TAIL : Nat := 0x560210
def R.HOST_AUX_CTL : Nat := 0x560214
def R.HOST_AUX_DROP : Nat := 0x560218

/-- The blocks of BAR0. -/
inductive Blk where
  | sys | clk | time | job | mbx | be | pcu | le | ax | ldg | zone | fab | ddr | lane | port | ld | cal | twin | flt
  | rec_ | pwr | eth | host
  deriving DecidableEq, Repr

/-- A register or register array of a block: first offset in the block, two index ranges with their strides, the bits
that software writes, the bits that a write of 1 clears, and the reset value. -/
structure RegRow where
  off  : Nat
  n1   : Nat
  s1   : Nat
  n2   : Nat
  s2   : Nat
  rw   : Nat
  w1c  : Nat
  rst  : Nat
  deriving DecidableEq, Repr

/-- The block, its index and the offset within it of a BAR0 offset (R487). -/
def blkOf (a : Nat) : Option (Blk × Nat × Nat) :=
  let p := a / 0x10000
  let r := a % 0x10000
  if p = 0 then some (.sys, 0, r) else if p = 1 then some (.clk, 0, r) else if p = 2 then some (.time, 0, r)
  else if p = 3 then some (.job, 0, r) else if p = 4 then some (.mbx, 0, r)
  else if p < 0x10 then none
  else if p < 0x20 then some (.be, p - 0x10, r)
  else if p < 0x30 then some (.pcu, p - 0x20, r)
  else if p < 0x34 then some (.le, p - 0x30, r)
  else if p = 0x34 then some (.ax, 0, r) else if p = 0x38 then some (.ldg, 0, r)
  else if p = 0x39 then some (.zone, 0, r) else if p = 0x3A then some (.fab, 0, r)
  else if p = 0x3B then some (.ddr, 0, r)
  else if p < 0x40 then none
  else if p < 0x44 then some (.lane, 0, a - 0x400000)
  else if p = 0x44 then some (.port, 0, r) else if p = 0x48 then some (.ld, 0, r)
  else if p = 0x50 then some (.cal, 0, r) else if p = 0x51 then some (.twin, 0, r)
  else if p = 0x52 then some (.flt, 0, r) else if p = 0x53 then some (.rec_, 0, r)
  else if p = 0x54 then some (.pwr, 0, r) else if p = 0x55 then some (.eth, 0, r)
  else if p = 0x56 then some (.host, 0, r)
  else none

/-- Rows of block SYS. -/
def rowsSys : List RegRow := [
  ⟨0x0, 1, 0x10000000, 1, 0x10000000, 0x0, 0x0, 0x0⟩,
  ⟨0x4, 1, 0x10000000, 1, 0x10000000, 0x1, 0x0, 0x0⟩,
  ⟨0x8, 1, 0x10000000, 1, 0x10000000, 0x0, 0x0, 0x0⟩,
  ⟨0x10, 1, 0x10000000, 1, 0x10000000, 0x0, 0x0, 0x0⟩,
  ⟨0x14, 1, 0x10000000, 1, 0x10000000, 0x0, 0x0, 0x0⟩,
  ⟨0x18, 1, 0x10000000, 1, 0x10000000, 0x0, 0x0, 0x0⟩,
  ⟨0x1C, 1, 0x10000000, 1, 0x10000000, 0x0, 0x0, 0x0⟩,
  ⟨0x20, 1, 0x10000000, 1, 0x10000000, 0x0, 0x0, 0x0⟩,
  ⟨0x24, 1, 0x10000000, 1, 0x10000000, 0x3F0F07, 0x0, 0x0⟩,
  ⟨0x28, 1, 0x10000000, 1, 0x10000000, 0x0, 0x0, 0x0⟩,
  ⟨0x2C, 1, 0x10000000, 1, 0x10000000, 0x0, 0x0, 0x0⟩,
  ⟨0x30, 1, 0x10000000, 1, 0x10000000, 0x0, 0x0, 0x0⟩,
  ⟨0x34, 1, 0x10000000, 1, 0x10000000, 0x3FF, 0x0, 0x64⟩,
  ⟨0x38, 1, 0x10000000, 1, 0x10000000, 0x0, 0x0, 0x0⟩,
  ⟨0x3C, 1, 0x10000000, 1, 0x10000000, 0x0, 0x0, 0x0⟩]

/-- Rows of block CLK. -/
def rowsClk : List RegRow := [
  ⟨0x0, 1, 0x10000000, 1, 0x10000000, 0x0, 0x0, 0x0⟩,
  ⟨0x4, 1, 0x10000000, 1, 0x10000000, 0x0, 0xFF, 0x0⟩,
  ⟨0x8, 1, 0x10000000, 1, 0x10000000, 0x0, 0x0, 0x0⟩]

/-- Rows of block TIME. -/
def rowsTime0 : List RegRow := [
  ⟨0x0, 1, 0x10000000, 1, 0x10000000, 0x5, 0x0, 0x4⟩,
  ⟨0x4, 1, 0x10000000, 1, 0x10000000, 0x0, 0x10000, 0x0⟩,
  ⟨0x8, 1, 0x10000000, 1, 0x10000000, 0x3FF, 0x0, 0x64⟩,
  ⟨0xC, 1, 0x10000000, 1, 0x10000000, 0x0, 0x0, 0x0⟩,
  ⟨0x10, 1, 0x10000000, 1, 0x10000000, 0x0, 0x0, 0x0⟩,
  ⟨0x14, 1, 0x10000000, 1, 0x10000000, 0x0, 0x0, 0x0⟩,
  ⟨0x18, 1, 0x10000000, 1, 0x10000000, 0x0, 0x0, 0x0⟩,
  ⟨0x1C, 1, 0x10000000, 1, 0x10000000, 0x0, 0x0, 0x0⟩,
  ⟨0x20, 1, 0x10000000, 1, 0x10000000, 0x0, 0x0, 0x0⟩,
  ⟨0x24, 1, 0x10000000, 1, 0x10000000, 0x0, 0x0, 0x0⟩,
  ⟨0x100, 2, 0x100, 1, 0x100, 0xFFFFFFFF, 0x0, 0x0⟩,
  ⟨0x104, 2, 0x100, 1, 0x100, 0x0, 0x0, 0x0⟩,
  ⟨0x108, 2, 0x100, 1, 0x100, 0xFFFFFFFF, 0x0, 0x0⟩,
  ⟨0x10C, 2, 0x100, 1, 0x100, 0x0, 0x0, 0x0⟩,
  ⟨0x110, 2, 0x100, 1, 0x100, 0xFFFFFFFF, 0x0, 0x0⟩,
  ⟨0x114, 2, 0x100, 1, 0x100, 0xFF0F0F03, 0x0, 0x10300⟩,
  ⟨0x118, 2, 0x100, 1, 0x100, 0xFFFFFFFF, 0x0, 0x3E86425⟩,
  ⟨0x11C, 2, 0x100, 1, 0x100, 0x0, 0x0, 0x0⟩,
  ⟨0x120, 2, 0x100, 1, 0x100, 0x0, 0x0, 0x0⟩,
  ⟨0x124, 2, 0x100, 1, 0x100, 0x0, 0x0, 0x0⟩,
  ⟨0x400, 8, 0x20, 1, 0x20, 0x1F, 0x0, 0x0⟩,
  ⟨0x404, 8, 0x20, 1, 0x20, 0xFFFFFFFF, 0x0, 0x0⟩,
  ⟨0x408, 8, 0x20, 1, 0x20, 0xFFFFFFFF, 0x0, 0x0⟩,
  ⟨0x40C, 8, 0x20, 1, 0x20, 0xFFFFFFFF, 0x0, 0x0⟩]

/-- Rows of block TIME. -/
def rowsTime1 : List RegRow := [
  ⟨0x410, 8, 0x20, 1, 0x20, 0x0, 0x1, 0x0⟩,
  ⟨0x600, 8, 0x20, 1, 0x20, 0x7F, 0x0, 0x0⟩,
  ⟨0x604, 8, 0x20, 1, 0x20, 0x0, 0x0, 0x0⟩,
  ⟨0x608, 8, 0x20, 1, 0x20, 0x0, 0x0, 0x0⟩,
  ⟨0x60C, 8, 0x20, 1, 0x20, 0x0, 0x0, 0x0⟩,
  ⟨0x800, 1, 0x10000000, 1, 0x10000000, 0x0, 0x0, 0x0⟩,
  ⟨0x804, 1, 0x10000000, 1, 0x10000000, 0x0, 0x18, 0x0⟩,
  ⟨0x808, 1, 0x10000000, 1, 0x10000000, 0x0, 0x0, 0x0⟩,
  ⟨0x80C, 1, 0x10000000, 1, 0x10000000, 0x0, 0x0, 0x0⟩,
  ⟨0x810, 1, 0x10000000, 1, 0x10000000, 0x0, 0x0, 0x0⟩,
  ⟨0x814, 1, 0x10000000, 1, 0x10000000, 0xFFFFFF, 0x0, 0x0⟩,
  ⟨0x818, 1, 0x10000000, 1, 0x10000000, 0xFFFFFF, 0x0, 0x0⟩,
  ⟨0x81C, 1, 0x10000000, 1, 0x10000000, 0xFF, 0x0, 0x0⟩]

/-- Rows of block JOB. -/
def rowsJob0 : List RegRow := [
  ⟨0x0, 1, 0x10000000, 1, 0x10000000, 0x30, 0x0, 0x0⟩,
  ⟨0x4, 1, 0x10000000, 1, 0x10000000, 0x0, 0x0, 0x0⟩,
  ⟨0x8, 1, 0x10000000, 1, 0x10000000, 0x0, 0x0, 0x0⟩,
  ⟨0xC, 1, 0x10000000, 1, 0x10000000, 0xFFFF0000, 0x0, 0x7D00000⟩,
  ⟨0x10, 1, 0x10000000, 1, 0x10000000, 0xFFFFFFFF, 0x0, 0x13884E20⟩,
  ⟨0x14, 1, 0x10000000, 1, 0x10000000, 0xFFFF, 0x0, 0xC8⟩,
  ⟨0x18, 1, 0x10000000, 1, 0x10000000, 0xFFFFFF, 0x0, 0x4000⟩,
  ⟨0x1C, 1, 0x10000000, 1, 0x10000000, 0x0, 0xF, 0x0⟩,
  ⟨0x20, 1, 0x10000000, 1, 0x10000000, 0xF, 0x0, 0x0⟩,
  ⟨0x24, 1, 0x10000000, 1, 0x10000000, 0x0, 0x0, 0x0⟩,
  ⟨0x28, 1, 0x10000000, 1, 0x10000000, 0x0, 0x0, 0x0⟩,
  ⟨0x1000, 4, 0x400, 1, 0x400, 0x0, 0x0, 0x0⟩,
  ⟨0x1004, 4, 0x400, 1, 0x400, 0x0, 0x0, 0x0⟩,
  ⟨0x1008, 4, 0x400, 1, 0x400, 0xFFFFFFFF, 0x0, 0x0⟩,
  ⟨0x100C, 4, 0x400, 1, 0x400, 0xFFFFFFFF, 0x0, 0x0⟩,
  ⟨0x1010, 4, 0x400, 1, 0x400, 0x0, 0x0, 0x0⟩,
  ⟨0x1014, 4, 0x400, 1, 0x400, 0x0, 0x0, 0x0⟩,
  ⟨0x1018, 4, 0x400, 1, 0x400, 0x0, 0x0, 0x0⟩,
  ⟨0x101C, 4, 0x400, 1, 0x400, 0x0, 0x0, 0x0⟩,
  ⟨0x1020, 4, 0x400, 1, 0x400, 0x0, 0x0, 0x0⟩,
  ⟨0x1024, 4, 0x400, 1, 0x400, 0x0, 0x0, 0x0⟩,
  ⟨0x1028, 4, 0x400, 1, 0x400, 0x0, 0x0, 0x0⟩,
  ⟨0x102C, 4, 0x400, 1, 0x400, 0x0, 0x0, 0x0⟩,
  ⟨0x1030, 4, 0x400, 1, 0x400, 0x0, 0x0, 0x0⟩]

/-- Rows of block JOB. -/
def rowsJob1 : List RegRow := [
  ⟨0x1034, 4, 0x400, 1, 0x400, 0x0, 0x0, 0x0⟩,
  ⟨0x1100, 4, 0x400, 16, 0x10, 0x0, 0x0, 0x0⟩,
  ⟨0x1104, 4, 0x400, 16, 0x10, 0x0, 0x0, 0x0⟩,
  ⟨0x1108, 4, 0x400, 16, 0x10, 0x0, 0x0, 0x0⟩,
  ⟨0x110C, 4, 0x400, 16, 0x10, 0x0, 0x0, 0x0⟩]

/-- Rows of block MBX. -/
def rowsMbx : List RegRow := [
  ⟨0x0, 1, 0x10000000, 1, 0x10000000, 0xFFFF7FFF, 0x0, 0x0⟩,
  ⟨0x4, 1, 0x10000000, 1, 0x10000000, 0x0, 0x0, 0x0⟩,
  ⟨0x8, 1, 0x10000000, 1, 0x10000000, 0x0, 0x200000, 0x0⟩,
  ⟨0xC, 1, 0x10000000, 1, 0x10000000, 0x0, 0x0, 0x0⟩,
  ⟨0x10, 1, 0x10000000, 1, 0x10000000, 0x1, 0x0, 0x0⟩,
  ⟨0x40, 16, 0x4, 1, 0x4, 0xFFFFFFFF, 0x0, 0x0⟩,
  ⟨0x80, 8, 0x4, 1, 0x4, 0x0, 0x0, 0x0⟩,
  ⟨0x100, 32, 0x8, 1, 0x8, 0x0, 0x0, 0x0⟩,
  ⟨0x104, 32, 0x8, 1, 0x8, 0x0, 0x0, 0x0⟩]

/-- Rows of block BE. -/
def rowsBe : List RegRow := [
  ⟨0x0, 1, 0x10000000, 1, 0x10000000, 0x102, 0x0, 0x100⟩,
  ⟨0x4, 1, 0x10000000, 1, 0x10000000, 0x0, 0x0, 0x0⟩,
  ⟨0x8, 1, 0x10000000, 1, 0x10000000, 0x0, 0x0, 0x0⟩,
  ⟨0xC, 1, 0x10000000, 1, 0x10000000, 0x0, 0x0, 0x0⟩,
  ⟨0x10, 1, 0x10000000, 1, 0x10000000, 0x0, 0x0, 0x0⟩,
  ⟨0x14, 1, 0x10000000, 1, 0x10000000, 0x3F3F3F, 0x0, 0x0⟩,
  ⟨0x18, 1, 0x10000000, 1, 0x10000000, 0xFFFFFFFF, 0x0, 0x3230D40⟩,
  ⟨0x1C, 1, 0x10000000, 1, 0x10000000, 0xFFFFF, 0x0, 0x0⟩,
  ⟨0x20, 1, 0x10000000, 1, 0x10000000, 0x0, 0x0, 0x0⟩,
  ⟨0x24, 1, 0x10000000, 1, 0x10000000, 0x1FFFFF, 0x0, 0x0⟩,
  ⟨0x28, 1, 0x10000000, 1, 0x10000000, 0x1FF, 0x0, 0x0⟩,
  ⟨0x2C, 1, 0x10000000, 1, 0x10000000, 0xFFFFFF, 0x0, 0xFFFFFF⟩,
  ⟨0x30, 1, 0x10000000, 1, 0x10000000, 0xFFFF0F00, 0x0, 0x100⟩,
  ⟨0x40, 1, 0x10000000, 1, 0x10000000, 0x0, 0x0, 0x0⟩,
  ⟨0x44, 1, 0x10000000, 1, 0x10000000, 0x0, 0x0, 0x0⟩,
  ⟨0x48, 1, 0x10000000, 1, 0x10000000, 0x0, 0x0, 0x0⟩,
  ⟨0x4C, 1, 0x10000000, 1, 0x10000000, 0x0, 0x0, 0x0⟩,
  ⟨0x50, 1, 0x10000000, 1, 0x10000000, 0x0, 0x0, 0x0⟩,
  ⟨0x54, 1, 0x10000000, 1, 0x10000000, 0x0, 0x0, 0x0⟩,
  ⟨0x60, 1, 0x10000000, 1, 0x10000000, 0x0, 0x0, 0x0⟩,
  ⟨0x64, 1, 0x10000000, 1, 0x10000000, 0x0, 0x0, 0x0⟩,
  ⟨0x68, 1, 0x10000000, 1, 0x10000000, 0x0, 0x0, 0x0⟩,
  ⟨0x6C, 1, 0x10000000, 1, 0x10000000, 0x0, 0x0, 0x0⟩,
  ⟨0x70, 1, 0x10000000, 1, 0x10000000, 0x0, 0x0, 0x0⟩]

/-- Rows of block PCU. -/
def rowsPcu0 : List RegRow := [
  ⟨0x0, 1, 0x10000000, 1, 0x10000000, 0x6, 0x0, 0x0⟩,
  ⟨0x4, 1, 0x10000000, 1, 0x10000000, 0x0, 0x180, 0x0⟩,
  ⟨0x8, 1, 0x10000000, 1, 0x10000000, 0xFF00FF0F, 0x0, 0x10000802⟩,
  ⟨0xC, 1, 0x10000000, 1, 0x10000000, 0xFFFFFFFF, 0x0, 0x40199A⟩,
  ⟨0x10, 1, 0x10000000, 1, 0x10000000, 0x0, 0x0, 0x0⟩,
  ⟨0x14, 1, 0x10000000, 1, 0x10000000, 0x0, 0x0, 0x0⟩,
  ⟨0x18, 1, 0x10000000, 1, 0x10000000, 0x0, 0x0, 0x0⟩,
  ⟨0x1C, 1, 0x10000000, 1, 0x10000000, 0x0, 0x0, 0x0⟩,
  ⟨0x20, 1, 0x10000000, 1, 0x10000000, 0x0, 0x0, 0x0⟩,
  ⟨0x24, 1, 0x10000000, 1, 0x10000000, 0x0, 0x0, 0x0⟩,
  ⟨0x28, 1, 0x10000000, 1, 0x10000000, 0x0, 0x0, 0x0⟩,
  ⟨0x30, 1, 0x10000000, 1, 0x10000000, 0xF13, 0x0, 0x0⟩,
  ⟨0x100, 1, 0x10000000, 1, 0x10000000, 0xFFFF0101, 0x0, 0x40400000⟩,
  ⟨0x104, 1, 0x10000000, 1, 0x10000000, 0xFFF, 0x0, 0x800⟩,
  ⟨0x108, 1, 0x10000000, 1, 0x10000000, 0xFFFF0FFF, 0x0, 0x6400C8⟩,
  ⟨0x10C, 1, 0x10000000, 1, 0x10000000, 0x0, 0x4, 0x0⟩,
  ⟨0x110, 1, 0x10000000, 1, 0x10000000, 0x0, 0x0, 0x0⟩,
  ⟨0x114, 1, 0x10000000, 1, 0x10000000, 0x0, 0x0, 0x0⟩,
  ⟨0x118, 1, 0x10000000, 1, 0x10000000, 0x0, 0x0, 0x0⟩,
  ⟨0x11C, 1, 0x10000000, 1, 0x10000000, 0x0, 0x0, 0x0⟩,
  ⟨0x120, 1, 0x10000000, 1, 0x10000000, 0x0, 0x0, 0x0⟩,
  ⟨0x124, 1, 0x10000000, 1, 0x10000000, 0x0, 0x0, 0x0⟩,
  ⟨0x128, 1, 0x10000000, 1, 0x10000000, 0x0, 0x0, 0x0⟩,
  ⟨0x12C, 1, 0x10000000, 1, 0x10000000, 0x0, 0x0, 0x0⟩]

/-- Rows of block PCU. -/
def rowsPcu1 : List RegRow := [
  ⟨0x140, 1, 0x10000000, 1, 0x10000000, 0x70F10, 0x0, 0x0⟩,
  ⟨0x144, 1, 0x10000000, 1, 0x10000000, 0xFFFF0FFF, 0x0, 0xFFFF0FFF⟩,
  ⟨0x148, 1, 0x10000000, 1, 0x10000000, 0xFFFF, 0x0, 0x0⟩,
  ⟨0x14C, 1, 0x10000000, 1, 0x10000000, 0x0, 0x2, 0x0⟩]

/-- Rows of block LE. -/
def rowsLe0 : List RegRow := [
  ⟨0x0, 1, 0x10000000, 1, 0x10000000, 0x1, 0x0, 0x0⟩,
  ⟨0x4, 1, 0x10000000, 1, 0x10000000, 0x0, 0x0, 0x0⟩,
  ⟨0x8, 1, 0x10000000, 1, 0x10000000, 0xF0000, 0x0, 0x0⟩,
  ⟨0xC, 1, 0x10000000, 1, 0x10000000, 0x0, 0x0, 0x0⟩,
  ⟨0x10, 1, 0x10000000, 1, 0x10000000, 0xFFFFFFFF, 0x0, 0x0⟩,
  ⟨0x14, 1, 0x10000000, 1, 0x10000000, 0xFFFFFFFF, 0x0, 0x0⟩,
  ⟨0x18, 1, 0x10000000, 1, 0x10000000, 0xFFFF00FF, 0x0, 0x3E80004⟩,
  ⟨0x1C, 1, 0x10000000, 1, 0x10000000, 0x0, 0x0, 0x0⟩,
  ⟨0x20, 1, 0x10000000, 1, 0x10000000, 0x0, 0x0, 0x0⟩,
  ⟨0x24, 1, 0x10000000, 1, 0x10000000, 0x0, 0x3FFFF, 0x0⟩,
  ⟨0x28, 1, 0x10000000, 1, 0x10000000, 0x3FFFF, 0x0, 0x0⟩,
  ⟨0x100, 1, 0x10000000, 1, 0x10000000, 0xFFFF0070, 0x0, 0x0⟩,
  ⟨0x104, 1, 0x10000000, 1, 0x10000000, 0x0, 0x4, 0x0⟩,
  ⟨0x108, 1, 0x10000000, 1, 0x10000000, 0xFFFFFFFF, 0x0, 0x0⟩,
  ⟨0x110, 4, 0x10, 1, 0x10, 0x800F0FFF, 0x0, 0x0⟩,
  ⟨0x114, 4, 0x10, 1, 0x10, 0x0, 0x0, 0x0⟩,
  ⟨0x118, 4, 0x10, 1, 0x10, 0x0, 0x0, 0x0⟩,
  ⟨0x1000, 16, 0x100, 1, 0x100, 0xFFFFFFFF, 0x0, 0x0⟩,
  ⟨0x1004, 16, 0x100, 1, 0x100, 0x0, 0xF8, 0x0⟩,
  ⟨0x1008, 16, 0x100, 1, 0x100, 0x0, 0x0, 0x0⟩,
  ⟨0x100C, 16, 0x100, 1, 0x100, 0x7FFFFFFF, 0x0, 0x1000⟩,
  ⟨0x1010, 16, 0x100, 1, 0x100, 0xFFFFFFFF, 0x0, 0x0⟩,
  ⟨0x1014, 16, 0x100, 1, 0x100, 0xFFFFFFFF, 0x0, 0x4080190⟩,
  ⟨0x1018, 16, 0x100, 1, 0x100, 0xFFFF, 0x0, 0x800⟩]

/-- Rows of block LE. -/
def rowsLe1 : List RegRow := [
  ⟨0x101C, 16, 0x100, 1, 0x100, 0x0, 0x0, 0x0⟩,
  ⟨0x1020, 16, 0x100, 1, 0x100, 0x0, 0x0, 0x0⟩,
  ⟨0x1024, 16, 0x100, 1, 0x100, 0x0, 0x0, 0x0⟩,
  ⟨0x1028, 16, 0x100, 1, 0x100, 0x0, 0x0, 0x0⟩,
  ⟨0x102C, 16, 0x100, 1, 0x100, 0x0, 0x0, 0x0⟩,
  ⟨0x1030, 16, 0x100, 1, 0x100, 0x0, 0x0, 0x0⟩,
  ⟨0x1034, 16, 0x100, 1, 0x100, 0x0, 0x0, 0x0⟩]

/-- Rows of block AX. -/
def rowsAx : List RegRow := [
  ⟨0x0, 1, 0x10000000, 1, 0x10000000, 0x0, 0x0, 0x0⟩,
  ⟨0x1000, 16, 0x100, 1, 0x100, 0x1FB, 0x0, 0x0⟩,
  ⟨0x1004, 16, 0x100, 1, 0x100, 0x0, 0x60, 0x0⟩,
  ⟨0x1008, 16, 0x100, 1, 0x100, 0x0, 0x0, 0x0⟩,
  ⟨0x100C, 16, 0x100, 1, 0x100, 0x0, 0x0, 0x0⟩,
  ⟨0x1010, 16, 0x100, 1, 0x100, 0x7FFFFFFF, 0x0, 0x7A1200⟩,
  ⟨0x1014, 16, 0x100, 1, 0x100, 0x7FFFFFFF, 0x0, 0x3D0900⟩,
  ⟨0x1018, 16, 0x100, 1, 0x100, 0x7FFFFFFF, 0x0, 0x3D0900⟩,
  ⟨0x101C, 16, 0x100, 1, 0x100, 0xFFFFFFFF, 0x0, 0x80000000⟩,
  ⟨0x1020, 16, 0x100, 1, 0x100, 0xFFFFFFFF, 0x0, 0x7FFFFFFF⟩,
  ⟨0x1024, 16, 0x100, 1, 0x100, 0xFFFFFFFF, 0x0, 0x640028⟩,
  ⟨0x1028, 16, 0x100, 1, 0x100, 0xFFFFFFFF, 0x0, 0x0⟩,
  ⟨0x102C, 16, 0x100, 1, 0x100, 0xFFFFFFFF, 0x0, 0x0⟩,
  ⟨0x1030, 16, 0x100, 1, 0x100, 0x0, 0x0, 0x0⟩,
  ⟨0x1040, 16, 0x100, 1, 0x100, 0x0, 0x0, 0x0⟩,
  ⟨0x1044, 16, 0x100, 1, 0x100, 0xFFFFFFFF, 0x0, 0x0⟩,
  ⟨0x1048, 16, 0x100, 1, 0x100, 0xFFFFFFFF, 0x0, 0x0⟩,
  ⟨0x104C, 16, 0x100, 1, 0x100, 0xFFFFFFFF, 0x0, 0x0⟩,
  ⟨0x1050, 16, 0x100, 1, 0x100, 0x0, 0x0, 0x0⟩]

/-- Rows of block LDG. -/
def rowsLdg0 : List RegRow := [
  ⟨0x0, 1, 0x10000000, 1, 0x10000000, 0x0, 0x0, 0x0⟩,
  ⟨0x4, 1, 0x10000000, 1, 0x10000000, 0x0, 0x70, 0x0⟩,
  ⟨0x8, 1, 0x10000000, 1, 0x10000000, 0x3FFF3FFF, 0x0, 0x20002000⟩,
  ⟨0xC, 1, 0x10000000, 1, 0x10000000, 0x3F07077F, 0x0, 0x10010208⟩,
  ⟨0x10, 1, 0x10000000, 1, 0x10000000, 0xFFFFF000, 0x0, 0x0⟩,
  ⟨0x14, 1, 0x10000000, 1, 0x10000000, 0xFFFFFFFF, 0x0, 0x1⟩,
  ⟨0x18, 1, 0x10000000, 1, 0x10000000, 0xFFFFFFFF, 0x0, 0xF3CB0000⟩,
  ⟨0x1C, 1, 0x10000000, 1, 0x10000000, 0xFFFFFFFF, 0x0, 0xF3CB0000⟩,
  ⟨0x20, 1, 0x10000000, 1, 0x10000000, 0xFFFFFFFF, 0x0, 0x10FFFFFF⟩,
  ⟨0x24, 1, 0x10000000, 1, 0x10000000, 0xFFFF00FF, 0x0, 0x3E80008⟩,
  ⟨0x28, 1, 0x10000000, 1, 0x10000000, 0xFFFFFF, 0x0, 0x30D4⟩,
  ⟨0x2C, 1, 0x10000000, 1, 0x10000000, 0xFFFF, 0x0, 0x4CCD⟩,
  ⟨0x30, 1, 0x10000000, 1, 0x10000000, 0x0, 0x0, 0x0⟩,
  ⟨0x34, 1, 0x10000000, 1, 0x10000000, 0x0, 0x0, 0x0⟩,
  ⟨0x38, 1, 0x10000000, 1, 0x10000000, 0x0, 0x0, 0x0⟩,
  ⟨0x3C, 1, 0x10000000, 1, 0x10000000, 0x0, 0x0, 0x0⟩,
  ⟨0x40, 1, 0x10000000, 1, 0x10000000, 0xFFFFF000, 0x0, 0x0⟩,
  ⟨0x44, 1, 0x10000000, 1, 0x10000000, 0xFFFFFFFF, 0x0, 0x0⟩,
  ⟨0x48, 1, 0x10000000, 1, 0x10000000, 0x0, 0x0, 0x0⟩,
  ⟨0x4C, 1, 0x10000000, 1, 0x10000000, 0x0, 0x0, 0x0⟩,
  ⟨0x50, 1, 0x10000000, 1, 0x10000000, 0x0, 0x0, 0x0⟩,
  ⟨0x60, 1, 0x10000000, 1, 0x10000000, 0xFFFFFFFF, 0x0, 0x0⟩,
  ⟨0x64, 1, 0x10000000, 1, 0x10000000, 0xFFFFFFFF, 0x0, 0x0⟩,
  ⟨0x68, 1, 0x10000000, 1, 0x10000000, 0x0, 0x0, 0x0⟩]

/-- Rows of block LDG. -/
def rowsLdg1 : List RegRow := [
  ⟨0x6C, 1, 0x10000000, 1, 0x10000000, 0x0, 0x0, 0x0⟩,
  ⟨0x70, 1, 0x10000000, 1, 0x10000000, 0x0, 0x0, 0x0⟩,
  ⟨0x74, 1, 0x10000000, 1, 0x10000000, 0x0, 0x0, 0x0⟩]

/-- Rows of block ZONE. -/
def rowsZone : List RegRow := [
  ⟨0x0, 1, 0x10000000, 1, 0x10000000, 0x0, 0x0, 0x0⟩,
  ⟨0x4, 1, 0x10000000, 1, 0x10000000, 0x0, 0x4, 0x0⟩,
  ⟨0x8, 1, 0x10000000, 1, 0x10000000, 0xF, 0x0, 0x1⟩,
  ⟨0xC, 1, 0x10000000, 1, 0x10000000, 0xFF00FF, 0x0, 0x10004⟩,
  ⟨0x10, 1, 0x10000000, 1, 0x10000000, 0xFFFF00FF, 0x0, 0x3E80010⟩,
  ⟨0x14, 1, 0x10000000, 1, 0x10000000, 0x0, 0x0, 0x0⟩,
  ⟨0x18, 1, 0x10000000, 1, 0x10000000, 0x0, 0x0, 0x0⟩,
  ⟨0x1C, 1, 0x10000000, 1, 0x10000000, 0x0, 0x0, 0x0⟩,
  ⟨0x40, 16, 0x4, 1, 0x4, 0x0, 0x0, 0x0⟩,
  ⟨0x80, 16, 0x4, 1, 0x4, 0x0, 0x0, 0x0⟩,
  ⟨0xC0, 16, 0x4, 1, 0x4, 0x0, 0x0, 0x0⟩]

/-- Rows of block FAB. -/
def rowsFab : List RegRow := [
  ⟨0x0, 1, 0x10000000, 1, 0x10000000, 0x0, 0x0, 0x0⟩,
  ⟨0x4, 1, 0x10000000, 1, 0x10000000, 0x0, 0xE, 0x0⟩,
  ⟨0x8, 1, 0x10000000, 1, 0x10000000, 0xFFFF00FF, 0x0, 0x640008⟩,
  ⟨0xC, 1, 0x10000000, 1, 0x10000000, 0x77777777, 0x0, 0x53543333⟩,
  ⟨0x10, 1, 0x10000000, 1, 0x10000000, 0x77777777, 0x0, 0x16422⟩,
  ⟨0x14, 1, 0x10000000, 1, 0x10000000, 0x0, 0x0, 0x0⟩,
  ⟨0x18, 1, 0x10000000, 1, 0x10000000, 0x0, 0x0, 0x0⟩,
  ⟨0x1C, 1, 0x10000000, 1, 0x10000000, 0x0, 0x0, 0x0⟩,
  ⟨0x100, 16, 0x4, 1, 0x4, 0xFFFFFFFF, 0x0, 0x0⟩,
  ⟨0x140, 16, 0x4, 1, 0x4, 0x0, 0x0, 0x0⟩]

/-- Rows of block DDR. -/
def rowsDdr : List RegRow := [
  ⟨0x0, 1, 0x10000000, 1, 0x10000000, 0x0, 0x0, 0x0⟩,
  ⟨0x4, 1, 0x10000000, 1, 0x10000000, 0x0, 0x0, 0x0⟩,
  ⟨0x8, 1, 0x10000000, 1, 0x10000000, 0x0, 0x0, 0x0⟩,
  ⟨0xC, 1, 0x10000000, 1, 0x10000000, 0x0, 0x0, 0x0⟩,
  ⟨0x10, 1, 0x10000000, 1, 0x10000000, 0x0, 0x0, 0x0⟩]

/-- Rows of block LANE. -/
def rowsLane : List RegRow := [
  ⟨0x0, 64, 0x1000, 1, 0x1000, 0x3, 0x0, 0x0⟩,
  ⟨0x4, 64, 0x1000, 1, 0x1000, 0x0, 0x0, 0x0⟩,
  ⟨0x8, 64, 0x1000, 1, 0x1000, 0x0, 0x0, 0x0⟩,
  ⟨0xC, 64, 0x1000, 1, 0x1000, 0xFF, 0x0, 0x60⟩,
  ⟨0x10, 64, 0x1000, 1, 0x1000, 0x0, 0x0, 0x0⟩,
  ⟨0x14, 64, 0x1000, 1, 0x1000, 0x0, 0x0, 0x0⟩,
  ⟨0x18, 64, 0x1000, 1, 0x1000, 0x0, 0x0, 0x0⟩]

/-- Rows of block PORT. -/
def rowsPort : List RegRow := [
  ⟨0x0, 1, 0x10000000, 1, 0x10000000, 0x0, 0x0, 0x0⟩,
  ⟨0x4, 1, 0x10000000, 1, 0x10000000, 0x0, 0x0, 0x0⟩,
  ⟨0x1000, 35, 0x100, 1, 0x100, 0xFF030071, 0x0, 0x8000010⟩,
  ⟨0x1004, 35, 0x100, 1, 0x100, 0x0, 0x1C, 0x0⟩,
  ⟨0x1008, 35, 0x100, 1, 0x100, 0x0, 0x0, 0x0⟩,
  ⟨0x100C, 35, 0x100, 1, 0x100, 0x0, 0x0, 0x0⟩,
  ⟨0x1010, 35, 0x100, 1, 0x100, 0x0, 0x0, 0x0⟩,
  ⟨0x1014, 35, 0x100, 1, 0x100, 0xFFFF, 0x0, 0x810⟩,
  ⟨0x1018, 35, 0x100, 1, 0x100, 0x0, 0x0, 0x0⟩,
  ⟨0x101C, 35, 0x100, 1, 0x100, 0x0, 0x0, 0x0⟩,
  ⟨0x1020, 35, 0x100, 1, 0x100, 0xFFFFFFFF, 0x0, 0x0⟩,
  ⟨0x1024, 35, 0x100, 1, 0x100, 0xFFFFFFFF, 0x0, 0x0⟩,
  ⟨0x1028, 35, 0x100, 1, 0x100, 0x0, 0x0, 0x0⟩,
  ⟨0x102C, 35, 0x100, 1, 0x100, 0xFFFF0000, 0x0, 0x640000⟩,
  ⟨0x1030, 35, 0x100, 1, 0x100, 0x0, 0x0, 0x0⟩,
  ⟨0x1034, 35, 0x100, 1, 0x100, 0x0, 0x0, 0x0⟩]

/-- Rows of block LD. -/
def rowsLd : List RegRow := [
  ⟨0x0, 1, 0x10000000, 1, 0x10000000, 0xFF00, 0x0, 0xA00⟩,
  ⟨0x4, 1, 0x10000000, 1, 0x10000000, 0x0, 0x10, 0x0⟩,
  ⟨0x8, 1, 0x10000000, 1, 0x10000000, 0x0, 0x0, 0x12⟩,
  ⟨0xC, 1, 0x10000000, 1, 0x10000000, 0x1FFFF, 0x0, 0x14E20⟩,
  ⟨0x1000, 16, 0x100, 1, 0x100, 0x3773, 0x0, 0x2010⟩,
  ⟨0x1004, 16, 0x100, 1, 0x100, 0x0, 0x60, 0x0⟩,
  ⟨0x1008, 16, 0x100, 1, 0x100, 0xFFFFF, 0x0, 0x2710⟩,
  ⟨0x100C, 16, 0x100, 1, 0x100, 0x7FF, 0x0, 0x0⟩,
  ⟨0x1010, 16, 0x100, 1, 0x100, 0xFFFFFFFF, 0x0, 0x3E807D0⟩,
  ⟨0x1014, 16, 0x100, 1, 0x100, 0xFFFFFFFF, 0x0, 0x8040404⟩,
  ⟨0x1018, 16, 0x100, 1, 0x100, 0xFFFFFFFF, 0x0, 0xCCD199A⟩,
  ⟨0x101C, 16, 0x100, 1, 0x100, 0x0, 0x30, 0x3⟩,
  ⟨0x1020, 16, 0x100, 1, 0x100, 0xFFFF000F, 0x0, 0x7D00004⟩,
  ⟨0x1024, 16, 0x100, 1, 0x100, 0x0, 0x0, 0x0⟩,
  ⟨0x1028, 16, 0x100, 1, 0x100, 0x0, 0x0, 0x0⟩]

/-- Rows of block CAL. -/
def rowsCal0 : List RegRow := [
  ⟨0x0, 1, 0x10000000, 1, 0x10000000, 0x13, 0x0, 0x10⟩,
  ⟨0x4, 1, 0x10000000, 1, 0x10000000, 0x0, 0x8, 0x0⟩,
  ⟨0x8, 1, 0x10000000, 1, 0x10000000, 0xFFFF0000, 0x0, 0x0⟩,
  ⟨0xC, 1, 0x10000000, 1, 0x10000000, 0x0, 0x0, 0x0⟩,
  ⟨0x10, 1, 0x10000000, 1, 0x10000000, 0x0, 0x0, 0x0⟩,
  ⟨0x14, 1, 0x10000000, 1, 0x10000000, 0xFFFF00FF, 0x0, 0x2800008⟩,
  ⟨0x18, 1, 0x10000000, 1, 0x10000000, 0xFFFF, 0x0, 0x3E8⟩,
  ⟨0x1C, 1, 0x10000000, 1, 0x10000000, 0x0, 0x0, 0x0⟩,
  ⟨0x20, 1, 0x10000000, 1, 0x10000000, 0x0, 0x0, 0x0⟩,
  ⟨0x24, 1, 0x10000000, 1, 0x10000000, 0x0, 0x0, 0x0⟩,
  ⟨0x28, 1, 0x10000000, 1, 0x10000000, 0xFFFFFFFF, 0x0, 0x1000200⟩,
  ⟨0x2C, 1, 0x10000000, 1, 0x10000000, 0xFFFFFFFF, 0x0, 0x3200BB80⟩,
  ⟨0x30, 1, 0x10000000, 1, 0x10000000, 0xFFFFFF00, 0x0, 0x1F40A00⟩,
  ⟨0x34, 1, 0x10000000, 1, 0x10000000, 0xFFFF, 0x0, 0x3E8⟩,
  ⟨0x38, 1, 0x10000000, 1, 0x10000000, 0xFFFFFFFF, 0x0, 0x0⟩,
  ⟨0x40, 1, 0x10000000, 1, 0x10000000, 0x0, 0x3F, 0x0⟩,
  ⟨0x44, 1, 0x10000000, 1, 0x10000000, 0x3F, 0x0, 0x0⟩,
  ⟨0x100, 32, 0x4, 1, 0x4, 0x0, 0x0, 0x0⟩,
  ⟨0x1000, 16, 0x100, 1, 0x100, 0x0, 0x60, 0x0⟩,
  ⟨0x1004, 16, 0x100, 1, 0x100, 0x0, 0x0, 0x0⟩,
  ⟨0x1008, 16, 0x100, 1, 0x100, 0x0, 0x0, 0x0⟩,
  ⟨0x100C, 16, 0x100, 1, 0x100, 0x0, 0x0, 0x0⟩,
  ⟨0x1010, 16, 0x100, 1, 0x100, 0x0, 0x0, 0x0⟩,
  ⟨0x1020, 16, 0x100, 4, 0x8, 0xFFFFFFFF, 0x0, 0x0⟩]

/-- Rows of block CAL. -/
def rowsCal1 : List RegRow := [
  ⟨0x1024, 16, 0x100, 4, 0x8, 0xFFFFFFFF, 0x0, 0x0⟩,
  ⟨0x1040, 16, 0x100, 1, 0x100, 0x0, 0x0, 0x40000000⟩,
  ⟨0x1044, 16, 0x100, 1, 0x100, 0x0, 0x0, 0x0⟩,
  ⟨0x1048, 16, 0x100, 1, 0x100, 0x0, 0x0, 0x0⟩,
  ⟨0x104C, 16, 0x100, 1, 0x100, 0x0, 0x0, 0x40000000⟩,
  ⟨0x1050, 16, 0x100, 1, 0x100, 0x0, 0x0, 0x0⟩,
  ⟨0x1054, 16, 0x100, 1, 0x100, 0x0, 0x0, 0x0⟩,
  ⟨0x1060, 16, 0x100, 1, 0x100, 0x0, 0x0, 0x0⟩,
  ⟨0x1064, 16, 0x100, 1, 0x100, 0x0, 0x0, 0x0⟩,
  ⟨0x1068, 16, 0x100, 1, 0x100, 0x0, 0x0, 0x40000000⟩,
  ⟨0x106C, 16, 0x100, 1, 0x100, 0x0, 0x0, 0x40000000⟩,
  ⟨0x1070, 16, 0x100, 1, 0x100, 0x0, 0x0, 0x0⟩,
  ⟨0x1074, 16, 0x100, 1, 0x100, 0x0, 0x0, 0x0⟩,
  ⟨0x1078, 16, 0x100, 1, 0x100, 0x0, 0x0, 0x0⟩,
  ⟨0x2000, 16, 0x200, 1, 0x200, 0x1, 0x0, 0x0⟩,
  ⟨0x2004, 16, 0x200, 1, 0x200, 0x0, 0x8, 0x0⟩,
  ⟨0x2008, 16, 0x200, 1, 0x200, 0x0, 0x0, 0x0⟩,
  ⟨0x2040, 16, 0x200, 33, 0x4, 0x0, 0x0, 0x0⟩,
  ⟨0x2100, 16, 0x200, 33, 0x4, 0x0, 0x0, 0x0⟩]

/-- Rows of block TWIN. -/
def rowsTwin : List RegRow := [
  ⟨0x0, 1, 0x10000000, 1, 0x10000000, 0x7, 0x0, 0x4⟩,
  ⟨0x4, 1, 0x10000000, 1, 0x10000000, 0x0, 0xE0, 0x0⟩,
  ⟨0x8, 1, 0x10000000, 1, 0x10000000, 0x0, 0x0, 0x0⟩,
  ⟨0xC, 1, 0x10000000, 1, 0x10000000, 0x0, 0x0, 0x0⟩,
  ⟨0x10, 1, 0x10000000, 1, 0x10000000, 0xFFFFFF, 0x0, 0x140064⟩,
  ⟨0x14, 1, 0x10000000, 1, 0x10000000, 0xFFF, 0x0, 0xBB8⟩,
  ⟨0x18, 1, 0x10000000, 1, 0x10000000, 0x0, 0x0, 0x0⟩,
  ⟨0x1C, 1, 0x10000000, 1, 0x10000000, 0x0, 0x0, 0x0⟩,
  ⟨0x20, 1, 0x10000000, 1, 0x10000000, 0x0, 0x0, 0x0⟩,
  ⟨0x24, 1, 0x10000000, 1, 0x10000000, 0x0, 0x0, 0x0⟩,
  ⟨0x28, 1, 0x10000000, 1, 0x10000000, 0x0, 0x0, 0x0⟩,
  ⟨0x2C, 1, 0x10000000, 1, 0x10000000, 0x0, 0x0, 0x0⟩,
  ⟨0x30, 1, 0x10000000, 1, 0x10000000, 0x0, 0x0, 0x0⟩,
  ⟨0x34, 1, 0x10000000, 1, 0x10000000, 0x0, 0x0, 0x0⟩,
  ⟨0x38, 1, 0x10000000, 1, 0x10000000, 0x0, 0x0, 0x0⟩,
  ⟨0x3C, 1, 0x10000000, 1, 0x10000000, 0x0, 0x0, 0x0⟩,
  ⟨0x40, 1, 0x10000000, 1, 0x10000000, 0x0, 0x0, 0x0⟩,
  ⟨0x44, 1, 0x10000000, 1, 0x10000000, 0x0, 0x0, 0x0⟩,
  ⟨0x48, 1, 0x10000000, 1, 0x10000000, 0x0, 0x0, 0x0⟩,
  ⟨0x4C, 1, 0x10000000, 1, 0x10000000, 0x0, 0x0, 0x0⟩,
  ⟨0x50, 1, 0x10000000, 1, 0x10000000, 0x0, 0x7, 0x0⟩,
  ⟨0x54, 1, 0x10000000, 1, 0x10000000, 0x7, 0x0, 0x0⟩]

/-- Rows of block FLT. -/
def rowsFlt : List RegRow := [
  ⟨0x0, 1, 0x10000000, 1, 0x10000000, 0x13, 0x0, 0x1⟩,
  ⟨0x4, 1, 0x10000000, 1, 0x10000000, 0x0, 0x20, 0x0⟩,
  ⟨0x8, 1, 0x10000000, 1, 0x10000000, 0xFFFFFFFF, 0x0, 0x3E80064⟩,
  ⟨0xC, 1, 0x10000000, 1, 0x10000000, 0xFFFF, 0x0, 0x32⟩,
  ⟨0x10, 1, 0x10000000, 1, 0x10000000, 0xF, 0x0, 0x4⟩,
  ⟨0x14, 1, 0x10000000, 1, 0x10000000, 0xFF03, 0x0, 0x0⟩,
  ⟨0x18, 1, 0x10000000, 1, 0x10000000, 0x3F, 0x0, 0x0⟩,
  ⟨0x1C, 1, 0x10000000, 1, 0x10000000, 0x0, 0x0, 0x0⟩,
  ⟨0x40, 3, 0x10, 1, 0x10, 0x0, 0x0, 0x0⟩,
  ⟨0x44, 3, 0x10, 1, 0x10, 0x0, 0x0, 0x0⟩,
  ⟨0x48, 3, 0x10, 1, 0x10, 0x0, 0x0, 0x0⟩,
  ⟨0x4C, 3, 0x10, 1, 0x10, 0x0, 0x0, 0x0⟩,
  ⟨0x70, 1, 0x10000000, 1, 0x10000000, 0x0, 0x7F, 0x0⟩,
  ⟨0x74, 1, 0x10000000, 1, 0x10000000, 0x7F, 0x0, 0x0⟩,
  ⟨0x78, 1, 0x10000000, 1, 0x10000000, 0x0, 0x0, 0x0⟩,
  ⟨0x7C, 1, 0x10000000, 1, 0x10000000, 0x0, 0x0, 0x0⟩,
  ⟨0x80, 8, 0x4, 1, 0x4, 0x0, 0x0, 0x0⟩,
  ⟨0xA0, 8, 0x4, 1, 0x4, 0x0, 0xFFFFFFFF, 0x0⟩]

/-- Rows of block REC. -/
def rowsRec : List RegRow := [
  ⟨0x0, 1, 0x10000000, 1, 0x10000000, 0x1, 0x0, 0x0⟩,
  ⟨0x4, 1, 0x10000000, 1, 0x10000000, 0x0, 0x70, 0x0⟩,
  ⟨0x8, 1, 0x10000000, 1, 0x10000000, 0x0, 0x0, 0x0⟩,
  ⟨0xC, 1, 0x10000000, 1, 0x10000000, 0x0, 0x0, 0x0⟩,
  ⟨0x10, 1, 0x10000000, 1, 0x10000000, 0x0, 0x0, 0x0⟩,
  ⟨0x14, 1, 0x10000000, 1, 0x10000000, 0x0, 0x0, 0x0⟩,
  ⟨0x18, 1, 0x10000000, 1, 0x10000000, 0x0, 0x0, 0x0⟩,
  ⟨0x1C, 1, 0x10000000, 1, 0x10000000, 0x0, 0x0, 0x0⟩,
  ⟨0x20, 1, 0x10000000, 1, 0x10000000, 0x0, 0x0, 0x0⟩,
  ⟨0x24, 1, 0x10000000, 1, 0x10000000, 0x0, 0x0, 0x0⟩,
  ⟨0x28, 1, 0x10000000, 1, 0x10000000, 0xFF, 0x0, 0xA⟩,
  ⟨0x2C, 1, 0x10000000, 1, 0x10000000, 0x0, 0x0, 0x0⟩,
  ⟨0x30, 1, 0x10000000, 1, 0x10000000, 0x7FFFFC, 0x0, 0x0⟩,
  ⟨0x34, 1, 0x10000000, 1, 0x10000000, 0x0, 0x0, 0x0⟩,
  ⟨0x38, 1, 0x10000000, 1, 0x10000000, 0x0, 0xF, 0x0⟩,
  ⟨0x3C, 1, 0x10000000, 1, 0x10000000, 0xF, 0x0, 0x0⟩]

/-- Rows of block PWR. -/
def rowsPwr : List RegRow := [
  ⟨0x0, 1, 0x10000000, 1, 0x10000000, 0x0, 0x0, 0x0⟩,
  ⟨0x4, 1, 0x10000000, 1, 0x10000000, 0x0, 0x800, 0x0⟩,
  ⟨0x8, 1, 0x10000000, 1, 0x10000000, 0xFFFFFFFF, 0x0, 0x20000FA⟩,
  ⟨0xC, 1, 0x10000000, 1, 0x10000000, 0x0, 0x0, 0x0⟩,
  ⟨0x10, 1, 0x10000000, 1, 0x10000000, 0x0, 0x0, 0x0⟩,
  ⟨0x14, 1, 0x10000000, 1, 0x10000000, 0x0, 0x0, 0x0⟩,
  ⟨0x18, 1, 0x10000000, 1, 0x10000000, 0x0, 0x0, 0x0⟩,
  ⟨0x1C, 1, 0x10000000, 1, 0x10000000, 0x0, 0x0, 0x0⟩,
  ⟨0x20, 1, 0x10000000, 1, 0x10000000, 0x0, 0x0, 0x0⟩,
  ⟨0x24, 1, 0x10000000, 1, 0x10000000, 0x0, 0x0, 0x0⟩,
  ⟨0x28, 1, 0x10000000, 1, 0x10000000, 0x0, 0x0, 0x0⟩,
  ⟨0x2C, 1, 0x10000000, 1, 0x10000000, 0x0, 0x0, 0x0⟩,
  ⟨0x30, 1, 0x10000000, 1, 0x10000000, 0x0, 0x1FF, 0x0⟩,
  ⟨0x34, 1, 0x10000000, 1, 0x10000000, 0x1FF, 0x0, 0x0⟩,
  ⟨0x38, 1, 0x10000000, 1, 0x10000000, 0x0, 0x0, 0x0⟩,
  ⟨0x40, 4, 0x10, 1, 0x10, 0x0, 0x0, 0x0⟩,
  ⟨0x44, 4, 0x10, 1, 0x10, 0x0, 0x0, 0x0⟩,
  ⟨0x48, 4, 0x10, 1, 0x10, 0x0, 0x0, 0x0⟩,
  ⟨0x4C, 4, 0x10, 1, 0x10, 0x0, 0x0, 0x0⟩,
  ⟨0x100, 48, 0x4, 1, 0x4, 0x0, 0x0, 0x0⟩,
  ⟨0x200, 13, 0x4, 1, 0x4, 0x0, 0x0, 0x0⟩]

/-- Rows of block ETH. -/
def rowsEth : List RegRow := [
  ⟨0x0, 2, 0x100, 1, 0x100, 0xFFFE007, 0x0, 0x0⟩,
  ⟨0x4, 2, 0x100, 1, 0x100, 0x0, 0x0, 0x0⟩,
  ⟨0x8, 2, 0x100, 1, 0x100, 0xFFFFFFFF, 0x0, 0x0⟩,
  ⟨0xC, 2, 0x100, 1, 0x100, 0xFFFF, 0x0, 0x0⟩,
  ⟨0x10, 2, 0x100, 1, 0x100, 0xFFFFFFFF, 0x0, 0x0⟩,
  ⟨0x14, 2, 0x100, 1, 0x100, 0xFFFFFFFF, 0x0, 0x0⟩,
  ⟨0x18, 2, 0x100, 1, 0x100, 0xFFFFFFFF, 0x0, 0x0⟩,
  ⟨0x1C, 2, 0x100, 1, 0x100, 0xFFFFFFFF, 0x0, 0x0⟩,
  ⟨0x20, 2, 0x100, 1, 0x100, 0xFFFFFFFF, 0x0, 0x0⟩,
  ⟨0x24, 2, 0x100, 1, 0x100, 0x0, 0x0, 0x0⟩]

/-- Rows of block HOST. -/
def rowsHost : List RegRow := [
  ⟨0x0, 1, 0x10000000, 1, 0x10000000, 0x0, 0x0, 0x0⟩,
  ⟨0x4, 1, 0x10000000, 1, 0x10000000, 0x0, 0x0, 0x0⟩,
  ⟨0x8, 1, 0x10000000, 1, 0x10000000, 0xFFF00000, 0x0, 0x0⟩,
  ⟨0xC, 1, 0x10000000, 1, 0x10000000, 0xFFFFFFFF, 0x0, 0x0⟩,
  ⟨0x10, 1, 0x10000000, 1, 0x10000000, 0x0, 0x1, 0x0⟩,
  ⟨0x14, 1, 0x10000000, 1, 0x10000000, 0x3F3F3F3F, 0x0, 0x0⟩,
  ⟨0x18, 1, 0x10000000, 1, 0x10000000, 0x3F3F3F, 0x0, 0x0⟩,
  ⟨0x100, 4, 0x20, 1, 0x20, 0xFFFFFFFF, 0x0, 0x0⟩,
  ⟨0x104, 4, 0x20, 1, 0x20, 0xFFFFFFFF, 0x0, 0x0⟩,
  ⟨0x108, 4, 0x20, 1, 0x20, 0xFFFFFFFF, 0x0, 0x0⟩,
  ⟨0x10C, 4, 0x20, 1, 0x20, 0xFFFFFFFF, 0x0, 0x0⟩,
  ⟨0x110, 4, 0x20, 1, 0x20, 0x1FFFFFF, 0x0, 0x0⟩,
  ⟨0x114, 4, 0x20, 1, 0x20, 0x3, 0x0, 0x0⟩,
  ⟨0x118, 4, 0x20, 1, 0x20, 0x0, 0xE, 0x0⟩,
  ⟨0x200, 1, 0x10000000, 1, 0x10000000, 0xFFFFF000, 0x0, 0x0⟩,
  ⟨0x204, 1, 0x10000000, 1, 0x10000000, 0xFFFFFFFF, 0x0, 0x0⟩,
  ⟨0x208, 1, 0x10000000, 1, 0x10000000, 0x1FFFFFF, 0x0, 0x0⟩,
  ⟨0x20C, 1, 0x10000000, 1, 0x10000000, 0x0, 0x0, 0x0⟩,
  ⟨0x210, 1, 0x10000000, 1, 0x10000000, 0xFFFFFF, 0x0, 0x0⟩,
  ⟨0x214, 1, 0x10000000, 1, 0x10000000, 0x1, 0x0, 0x0⟩,
  ⟨0x218, 1, 0x10000000, 1, 0x10000000, 0x0, 0x0, 0x0⟩]

/-- The registers of a block. -/
def rowsOf : Blk → List RegRow
  | .sys => rowsSys
  | .clk => rowsClk
  | .time => rowsTime0 ++ rowsTime1
  | .job => rowsJob0 ++ rowsJob1
  | .mbx => rowsMbx
  | .be => rowsBe
  | .pcu => rowsPcu0 ++ rowsPcu1
  | .le => rowsLe0 ++ rowsLe1
  | .ax => rowsAx
  | .ldg => rowsLdg0 ++ rowsLdg1
  | .zone => rowsZone
  | .fab => rowsFab
  | .ddr => rowsDdr
  | .lane => rowsLane
  | .port => rowsPort
  | .ld => rowsLd
  | .cal => rowsCal0 ++ rowsCal1
  | .twin => rowsTwin
  | .flt => rowsFlt
  | .rec_ => rowsRec
  | .pwr => rowsPwr
  | .eth => rowsEth
  | .host => rowsHost

/-- Whether a row holds the offset `r` of its block. -/
def RegRow.has (w : RegRow) (r : Nat) : Bool :=
  w.off ≤ r &&
    (let d := r - w.off
     d / w.s1 < w.n1 && (d % w.s1) / w.s2 < w.n2 && d % w.s1 % w.s2 == 0)

/-- The row of a BAR0 offset; none where no register is named (R487). -/
def rowAt (a : Nat) : Option RegRow :=
  match blkOf a with
  | none => none
  | some (b, _, r) => (rowsOf b).find? (fun w => w.has r)

/-- The reset binding of loop-engine slot `s` (R286): head s/3 and axis s mod 3 below slot 48, machine axis s - 48 above. -/
def leCfgReset (s : Nat) : Nat :=
  if s < 48 then (s % 3) * 16 + s / 3 else 4096 + (s - 48)

/-- What a register reads as while nothing was written (R491). -/
def regReset (a : Nat) : Word :=
  match blkOf a with
  | none => 0
  | some (b, i, r) =>
    if b = .be ∧ r = 0x14 then w32 ((3 * i + 2) * 65536 + (3 * i + 1) * 256 + 3 * i)
    else if b = .le ∧ 0x1000 ≤ r ∧ r < 0x2000 ∧ r % 0x100 = 0 then w32 (leCfgReset (16 * i + (r - 0x1000) / 0x100))
    else match (rowsOf b).find? (fun w => w.has r) with
      | some w => w32 w.rst
      | none => 0

end Sys2Proof.Machine
end

