-- ==== Sys2Proof/Machine/Ops.lean ====
section
/-! DEFINITION. The named operations on registers, memory and units, and what every command may cause: a report to the
fault hub, a record, an MSI-X vector, a transmitted cell, a change of the device state. -/

namespace Sys2Proof.Machine

/-- What a command answers when it goes on. -/
abbrev Res := Host.Outcome State Fault Refusal

namespace State

/-! Registers. -/

/-- The word that register `a` holds. -/
def rd (s : State) (a : Nat) : Word := sval (regReset a) a s.regs

/-- `s` with register `a` holding `v`. -/
def wr (a : Nat) (v : Word) (s : State) : State :=
  { s with regs := sset (regReset a) a v s.regs }

/-- `s` with register `a` changed by `f`. -/
def wmod (a : Nat) (f : Word → Word) (s : State) : State := s.wr a (f (s.rd a))

/-- Bits [hi:lo] of register `a`. -/
def rf (s : State) (a hi lo : Nat) : Nat := fld (s.rd a) hi lo

/-- Bit `i` of register `a`. -/
def rb (s : State) (a i : Nat) : Bool := bit (s.rd a) i

/-- Sets bit `i` of register `a` (a W1C or status bit). -/
def setB (a i : Nat) (s : State) : State := s.wmod a (setBit · i)

/-- Clears bit `i` of register `a`. -/
def clrB (a i : Nat) (s : State) : State := s.wmod a (clrBit · i)

/-- Bits [hi:lo] of register `a` replaced. -/
def setF (a hi lo v : Nat) (s : State) : State := s.wmod a (setFld · hi lo v)

/-- A saturating counter in bits [hi:lo] of register `a` advanced by `n`. -/
def count (a hi lo : Nat) (n : Nat := 1) (s : State) : State :=
  s.setF a hi lo (satN (hi + 1 - lo) (s.rf a hi lo + n))

/-- A wrapping counter in bits [hi:lo] of register `a` advanced by 1 (SEQ fields). -/
def advance (a hi lo : Nat) (s : State) : State :=
  s.setF a hi lo (s.rf a hi lo + 1)

/-! Units. -/

def upBe (b : Beam) (f : BeamEng → BeamEng) (s : State) : State := { s with be := vupd s.be b f }
def upLd (b : Beam) (f : Laser → Laser) (s : State) : State := { s with ld := vupd s.ld b f }
def upPcu (b : Beam) (f : Pcu → Pcu) (s : State) : State := { s with pcu := vupd s.pcu b f }
def upSlot (n : Slot) (f : JobSlot → JobSlot) (s : State) : State :=
  { s with job := { s.job with slot := vupd s.job.slot n f } }
def upJob (f : JobBlock → JobBlock) (s : State) : State := { s with job := f s.job }
def upDev (f : Dev → Dev) (s : State) : State := { s with dev := f s.dev }
def upTime (f : TimeBase → TimeBase) (s : State) : State := { s with time := f s.time }
def upLdc (f : LaserCommon → LaserCommon) (s : State) : State := { s with ldc := f s.ldc }
def upTel (e : Fin 2) (f : Telemetry → Telemetry) (s : State) : State := { s with tel := vupd s.tel e f }
def upLdg (f : Ledger → Ledger) (s : State) : State := { s with ldg := f s.ldg }
def upZone (f : Zone → Zone) (s : State) : State := { s with zone := f s.zone }
def upFab (f : Fabric → Fabric) (s : State) : State := { s with fab := f s.fab }
def upLe (k : Engine) (f : LoopEng → LoopEng) (s : State) : State := { s with le := vupd s.le k f }
def upLs (k : Engine) (l : LSlot) (f : LeSlot → LeSlot) (s : State) : State :=
  s.upLe k fun e => { e with slot := vupd e.slot l f }
def upAx (n : Axis) (f : AxisSt → AxisSt) (s : State) : State := { s with ax := vupd s.ax n f }
def upCal (f : Cal → Cal) (s : State) : State := { s with cal := f s.cal }
def upHead (b : Beam) (f : CalHead → CalHead) (s : State) : State :=
  s.upCal fun c => { c with head := vupd c.head b f }
def upSrc (b : Beam) (f : CalSource → CalSource) (s : State) : State :=
  s.upCal fun c => { c with src := vupd c.src b f }
def upLane (n : Lane) (f : LaneSt → LaneSt) (s : State) : State := { s with lane := vupd s.lane n f }
def upTwin (f : Twin → Twin) (s : State) : State := { s with twin := f s.twin }
def upHub (f : Hub → Hub) (s : State) : State := { s with hub := f s.hub }
def upRec (f : Recorder → Recorder) (s : State) : State := { s with recd := f s.recd }
def upPwr (f : Power → Power) (s : State) : State := { s with pwr := f s.pwr }
def upHost (f : HostIf → HostIf) (s : State) : State := { s with host := f s.host }
def upMram (f : Mram → Mram) (s : State) : State := { s with mram := f s.mram }

/-- A job slot. -/
def js (s : State) (n : Slot) : JobSlot := s.job.slot[n]
/-- A loop-engine slot. -/
def ls (s : State) (k : Engine) (l : LSlot) : LeSlot := (s.le[k]).slot[l]

/-- `s` changed by `f` for every member of a list, in order. -/
def each {α : Type} (l : List α) (f : α → State → State) (s : State) : State := l.foldl (fun t a => f a t) s

/-- `f` where the condition holds, else no change. -/
def ifc (c : Bool) (f : State → State) (s : State) : State := if c then f s else s

/-! Time. -/

/-- FRC (R50). -/
def frc (s : State) : Word := w32 s.tick

/-- The index of the sample that contains tick `t`, on the sample grid in use: the device's own, or on the SECOND of a
pair the pair grid (R371, R395). -/
def sampleOf (s : State) (t : Nat) : Nat := (((t : Int) + s.twin.ofs) / 50).toNat

/-- The present sample index (R371). -/
def sample (s : State) : Nat := s.sampleOf s.tick

/-- The sample index next to the present one that has the low 16 bits of an SIDX (R371, R383). -/
def sampleNear (s : State) (sidx : BitVec 16) : Nat :=
  let d := (sidx - BitVec.ofNat 16 s.sample).toInt
  ((s.sample : Int) + d).toNat

/-- The tick at which sample `k` begins (R371, R395). -/
def sampleAt (s : State) (k : Nat) : Nat := (50 * (k : Int) - s.twin.ofs).toNat

/-! What the variant provides (R1 to R3). -/

/-- The number of beams. -/
def beams (s : State) : Nat :=
  if s.dev.variant ≤ 2 then 4 else if s.dev.variant ≤ 6 then 8 else if s.dev.variant ≤ 9 then 12 else 16

/-- Package L. -/
def pkgL (s : State) : Bool := 5 ≤ s.dev.variant

/-- The pool eye is present (V and T). -/
def hasEye (s : State) : Bool :=
  let v := s.dev.variant
  v == 2 || v == 4 || v == 5 || v == 6 || v == 8 || v == 9 || v == 11 || v == 12

/-- The twin port is present (T). -/
def hasTwin (s : State) : Bool := s.dev.variant == 6 || s.dev.variant == 9 || s.dev.variant == 12

/-- Beam units with index `b` are enabled (R2). -/
def beamOn (s : State) (b : Nat) : Bool := b < s.beams

/-- Loop engine `k` is bonded (R3). -/
def leOn (s : State) (k : Nat) : Bool := k < 2 || s.pkgL

/-- Engine `k` has its 64 bytes of the present fabric round to read: IMG_CHECK is 1 (R301). -/
def leReads (s : State) (k : Nat) : Bool :=
  s.leOn k && s.rb (R.LEk_CTL k) 0 && (vget? s.le k).any fun e => e.checkRound != some (s.tick / 4096)

/-- Lane `n` is bonded, and of the twin-port lanes not fused off (R3, R7). -/
def laneOn (s : State) (n : Nat) : Bool := n < 32 || (s.pkgL && (n < 48 || 55 < n || s.hasTwin))

/-- Port `p` is present: head and laser ports of enabled beams, TP on a T part, DP and AP (R2, R3, R357). -/
def portOn (s : State) (p : Nat) : Bool :=
  if p < 16 then s.beamOn p
  else if p < 32 then s.beamOn (p - 16)
  else if p = 32 then s.hasTwin
  else p < 35

/-- DDR5 channels (R1). -/
def ddrChans (s : State) : Nat := if s.pkgL then 2 else 1

/-- A small configuration, of 8 beams or fewer. -/
def small (s : State) : Bool := s.beams ≤ 8

/-! Memory. -/

/-- The byte at a device address; an unlisted one reads 0 (log entry 5). -/
def rdByte (s : State) (a : Nat) : Byte := sval 0 a s.mem

/-- `s` with a byte of memory written. -/
def wrByte (a : Nat) (v : Byte) (s : State) : State := { s with mem := sset 0 a v s.mem }

/-- `n` bytes from address `a`. -/
def rdBytes (s : State) (a n : Nat) : List Byte := (List.range n).map fun i => s.rdByte (a + i)

/-- Bytes written from address `a` on. -/
def wrBytes (a : Nat) : List Byte → State → State
  | [], s => s
  | v :: vs, s => wrBytes (a + 1) vs (s.wrByte a v)

/-- A little-endian number of `n` bytes (R10). -/
def rdN (s : State) (a n : Nat) : Nat := ofBytes (s.rdBytes a n)

/-- A little-endian 32-bit word. -/
def rd32 (s : State) (a : Nat) : Word := w32 (s.rdN a 4)

/-- A little-endian 64-bit word. -/
def rd64 (s : State) (a : Nat) : DWord := BitVec.ofNat 64 (s.rdN a 8)

/-- A little-endian number of `n` bytes written. -/
def wrN (a n v : Nat) (s : State) : State := s.wrBytes a (toBytes n v)

/-! Effects that commands share. -/

/-- A free value: one that the spec leaves open. The counter advances, so no two uses share a value. -/
def fresh (s : State) : BitVec 64 × State := (Config.freeValue s.free, { s with free := s.free + 1 })

/-- Raises an MSI-X vector (R466). -/
def msix (v : Nat) (s : State) : State := s.upHost fun h => { h with msix := h.msix ||| BitVec.ofNat 64 (2 ^ v) }

/-- The event of an assignable source, 1 to 7: its vector is raised where it lies from 28 to 63 (R469). -/
def assigned (src : Nat) (s : State) : State :=
  let i := src - 1
  let v := if i < 4 then s.rf R.HOST_VEC0 (8 * i + 5) (8 * i) else s.rf R.HOST_VEC1 (8 * (i - 4) + 5) (8 * (i - 4))
  if 28 ≤ v then s.msix v else s

/-- A port changed; a change of its state is source 7 of R469. -/
def upPort (p : Port) (f : PortSt → PortSt) (s : State) : State :=
  let t := { s with port := vupd s.port p f }
  if (f s.port[p]).st = (s.port[p]).st then t else t.assigned 7

/-- Sets bit `i` of a status register `st`, and raises vector `v` where `en` enables that bit. -/
def irq (st en v i : Nat) (s : State) : State :=
  let t := s.setB st i
  if s.rb en i then t.msix v else t

/-- Hands something to the transmitter of a port. -/
def send (port msg : Nat) (f : Bool) (sidx : Nat) (data : List Nat) (s : State) : State :=
  { s with sent := { at_ := s.tick, port := port, msg := msg, f := f, sidx := sidx, data := data } :: s.sent }

/-- An item of the open checkpoint window (R406). -/
def digItem (k ord rank : Nat) (bytes : List Byte) (s : State) : State :=
  if s.twin.winAt.isSome then s.upTwin fun t => { t with items := ⟨k, ord, rank, bytes⟩ :: t.items } else s

/-- A detector's report; the hub handles it on this tick (R418, R420). -/
def report (id unit : Nat) (detail : Word) (s : State) : State :=
  s.upHub fun h =>
    { h with pending := h.pending ++ [{ id := id, unit := unit, detail := detail, at_ := s.tick, forced := false }] }

/-- The slot whose job is RUNNING. -/
def runSlot (s : State) : Option Slot :=
  (List.finRange 4).find? fun n => (s.js n).st = .running

/-- The slot whose job is RUNNING or HOLDING, or holds a remainder ANALYSING or ACCEPTED (SYS_STATE.JOB_SLOT). -/
def heldSlot (s : State) : Option Slot :=
  (List.finRange 4).find? fun n =>
    let j := s.js n
    j.st = .running || j.st = .holding || (j.remainder && (j.st = .analysing || j.st = .accepted))

/-- The job time of the RUNNING job at tick `t`, where `t` is at or after its S (R21). -/
def jtAt (s : State) (t : Nat) : Option Nat :=
  match s.runSlot with
  | some n => match (s.js n).s with
    | some st => if st ≤ t then some (t - st) else none
    | none => none
  | none => none

/-- The job time now. -/
def jt (s : State) : Option Nat := s.jtAt s.tick

/-- Bits [31:0] of the job time, 0 while no job runs. -/
def jtWord (s : State) : Word := w32 (s.jt.getD 0)

/-- LASER_KILL_N is asserted, and the first cause of the assertion is kept (R205). -/
def assertKill (cause : Nat) (s : State) : State :=
  if s.ldc.kill then s else s.upLdc fun l => { l with kill := true, cause := cause }

/-- Work of the Shepherd, which a halted pair does not do (R418; DEDUCED, log entry 106). -/
def shp (f : State → State) (s : State) : State := if s.dev.shpHalt then s else f s

/-- The first reaction of SHP_LOCKSTEP: the pair halts until RESET (R418). -/
def shpStop (s : State) : State := s.upDev fun d => { d with shpHalt := true }

/-! Records (R437 to R446). -/

/-- A record is committed in CRC mode (R439). -/
def crcMode (s : State) : Bool :=
  s.dev.state == .boot || !s.hub.ladder.isEmpty || s.rb R.FLT_CTL 4 || s.recd.warnCrc

/-- The LENGTH of a record with a payload of `n` bytes (R437). -/
def recLen (crc : Bool) (n : Nat) : Nat := cdiv (16 + n + (if crc then 4 else 0)) 16 * 16

/-- Bytes that the waiting records take. -/
def recHeld (s : State) : Nat := (s.recd.queue.map fun r => recLen s.crcMode r.payload.length).sum

/-- Queues a record for the recorder; where the holding buffer has no room it is discarded and counted (R445, R446). -/
def record (type : Nat) (payload : List Byte) (s : State) : State :=
  let r : Rec := { type := type, payload := payload, opMs := s.recd.opMs
                   held := s.recd.frozen || s.recd.cur.isSome || !s.recd.queue.isEmpty }
  if s.recHeld + recLen s.crcMode payload.length ≤ 65536 then
    s.upRec fun q => { q with queue := q.queue ++ [r] }
  else
    let t := s.upRec fun q =>
      { q with
        ovf := satN 12 (q.ovf + 1)
        ovfFrc := if q.ovf = 0 then s.frc else q.ovfFrc
        queue := if q.frozen || q.queue.any (·.type = 3) then q.queue
                 else q.queue ++ [{ type := 3, payload := [], opMs := q.opMs, held := true }] }
    t.irq R.REC_IRQ_STATUS R.REC_IRQ_EN 5 1

/-! The device state (R31). -/

/-- The code of a device state (SYS_STATE). -/
def stCode : DevState → Nat
  | .reset => 0 | .boot => 1 | .idle => 2 | .armed => 3 | .run => 4 | .hold => 5 | .belay => 6

/-- The device state that R31 gives. -/
def devState (s : State) : DevState :=
  let any (p : JobSlot → Bool) := (List.finRange 4).any fun n => p (s.js n)
  if s.dev.rstLow || s.dev.belowVreset then .reset
  else if !s.dev.booted && !s.dev.bootFailed then .boot
  else if s.dev.inBelay then .belay
  else if any fun j => j.st = .running then .run
  else if any fun j => j.st = .holding || (j.remainder && (j.st = .analysing || j.st = .accepted)) then .hold
  else if any fun j => j.st = .armed then .armed
  else .idle

/-- Brings the device state up to R31; a transition notes the state before, FRC, the cause of an entry to HOLD or BELAY,
and makes a STATE record. -/
def refresh (cause : Nat := 0) (s : State) : State :=
  let n := s.devState
  if n = s.dev.state then s
  else
    let t := s.upDev fun d =>
      { d with
        state := n, prev := d.state, stateFrc := s.frc
        holdCause := if (n = .hold ∨ n = .belay) ∧ cause ≠ 0 then cause else d.holdCause }
    t.record 0x11 ([t.dev.state, t.dev.prev].map (fun x => BitVec.ofNat 8 (stCode x)) ++
      [BitVec.ofNat 8 t.dev.holdCause, BitVec.ofNat 8 (b2n t.dev.sticky)] ++ toBytes 4 s.frc.toNat)

end State

end Sys2Proof.Machine
end

