-- ==== Sys2Proof/Machine/Descriptor.lean ====
section
/-! DEFINITION. The fields of a job descriptor and of a program image as the units read them (R80, R83, R84). -/

namespace Sys2Proof.Machine

namespace JobSlot

/-- A little-endian field of the descriptor: `n` bytes from byte `off` (R84). -/
def dN (j : JobSlot) (off n : Nat) : Nat := j.desc.toNat / 2 ^ (8 * off) % 2 ^ (8 * n)

def jobId (j : JobSlot) : Nat := j.dN 0 4
def mode (j : JobSlot) : Nat := j.dN 4 1
def autoArm (j : JobSlot) : Bool := nbit (j.dN 5 1) 0
def driftAllot (j : JobSlot) : Bool := nbit (j.dN 5 1) 1
def mask (j : JobSlot) : Nat := j.dN 6 2
def param (j : JobSlot) : Nat := j.dN 8 4
def layer (j : JobSlot) : Nat := j.dN 12 4
def deadline (j : JobSlot) : Nat := j.dN 16 6
/-- Pointers, as device addresses (R83). -/
def machAddr (j : JobSlot) : Nat := j.dN 24 4 * 4096
def profTable (j : JobSlot) : Nat := j.dN 28 4 * 4096
def image (j : JobSlot) (b : Nat) : Nat := j.dN (32 + 4 * b) 4 * 4096
def zoneMap (j : JobSlot) : Nat := j.dN 96 4 * 4096
def tau (j : JobSlot) : Nat := j.dN 100 3
def kl (j : JobSlot) : Nat := j.dN 104 2
def kern (j : JobSlot) (k : Nat) : Nat := j.dN (106 + 2 * k) 2

/-- The job names beam `b`. -/
def names (j : JobSlot) (b : Nat) : Bool := nbit j.mask b

/-- The beams that the job names. -/
def named (j : JobSlot) : List Beam := (List.finRange 16).filter fun b => j.names b.val

/-- The slot is ACCEPTED, ARMED, RUNNING or HOLDING. -/
def live (j : JobSlot) : Bool := j.st = .accepted || j.st = .armed || j.st = .running || j.st = .holding

/-- The slot is ARMED, RUNNING or HOLDING. -/
def busy (j : JobSlot) : Bool := j.st = .armed || j.st = .running || j.st = .holding

/-- The values that the job or remainder sampled apply still, or it is about to start: ARMED, RUNNING or HOLDING, or a
remainder of a held job (R186). -/
def bound (j : JobSlot) : Bool := j.busy || (j.remainder && (j.st = .analysing || j.st = .accepted))

end JobSlot

namespace State

/-- Some slot naming beam `b` meets a condition. -/
def naming (s : State) (b : Beam) (f : JobSlot → Bool) : Bool :=
  (List.finRange 4).any fun n => (s.js n).names b.val && f (s.js n)

/-- Fields of a program image at a device address (R80). -/
def imgCode (s : State) (a : Nat) : Nat := s.rdN (a + 8) 4
def imgConst (s : State) (a : Nat) : Nat := s.rdN (a + 12) 4
def imgEntry (s : State) (a : Nat) : Nat := s.rdN (a + 16) 4
def imgDepth (s : State) (a : Nat) : Nat := s.rdN (a + 20) 1
def imgStart (s : State) (a : Nat) : Pt := ⟨sext 32 (s.rdN (a + 40) 4), sext 32 (s.rdN (a + 44) 4)⟩
def imgStartZ (s : State) (a : Nat) : Word := s.rd32 (a + 48)
/-- Code word `i` of an image. -/
def imgWord (s : State) (a i : Nat) : DWord := s.rd64 (a + 64 + 8 * i)

/-- The base of a beam engine's local SRAM. -/
def beSram (b : Beam) : Nat := b.val * 0x80000
/-- The base of its scratch (R77). -/
def scratchBase (b : Beam) : Nat := b.val * 0x80000 + 0x70000

end State

end Sys2Proof.Machine
end

