-- ==== Sys2Proof/Machine/Die.lean ====
section
/-! DEFINITION. The die thermal model: its nodes, its step, and the course that the heat check predicts with it (R148, R157,
R460, R462, R465). -/

namespace Sys2Proof.Machine

/-- PWR_MODELk as a number. -/
def pwrPar (k : Nat) : Nat := (Config.pwrModel k).toNat

/-- One step of 1 ms of a quadrant with power `p` in µW, and with a diode reading the anchoring to it; the anchor error in
2^-16 °C goes with it (R460). -/
def Quad.advance (x : Quad) (p : Q) (diode : Option Int) : Quad × Int :=
  let q (n : Int) : Q := Q.ofInt n
  let f (k : Nat) (d : Int) : Q := q (pwrPar k * d)
  let f01 := f 4 (x.t0 - x.t1)
  let f12 := f 5 (x.t1 - x.t2)
  let f23 := f 6 (x.t2 - x.t3)
  let f3b := f 7 (x.t3 - x.tb)
  let step (t : Int) (fin fout : Q) (k : Nat) : Q := (q t).add ((fin.sub fout).div (q (1000 * pwrPar k)))
  let t0 := step x.t0 (p.mul (q 65536)) f01 0
  let t1 := step x.t1 f01 f12 1
  let t2 := step x.t2 f12 f23 2
  let t3 := step x.t3 f23 f3b 3
  let e := match diode with
    | some d => (q (d * 512)).sub t1
    | none => ⟨0, 1⟩
  let a := e.mul (Q.mk' (fld (Config.pwrModel 8) 15 0) 65536)
  let r (t : Q) : Int := (t.add a).round
  (⟨r t0, r t1, r t2, r t3, r (q x.tb)⟩, e.round)

namespace State

/-- Thermal limits in force: LIMIT in sQ8.7 °C/s and WIN in rounds (R464). -/
def riseLimit (s : State) : Nat := clampN 64 1024 (s.rf R.PWR_RISE 31 16)
def riseWin (s : State) : Nat := clampN 10 1000 (s.rf R.PWR_RISE 15 0)

end State

/-- The slot was enabled and not disabled since: it keeps its cycles and its axis. -/
def LeSlot.enabled (x : LeSlot) : Bool := x.st == .start || x.st == .ramp || x.st == .run || x.st == .safe

/-- The worst-case power in mW of a quadrant in the step of 1 ms that begins at `t`: beams up to their finishes, the axes up
to theirs, and the shared units (R465). -/
def stepPower (s : State) (fins : List (Nat × Nat)) (axEnd t q : Nat) : Nat :=
  let beams := (fins.filter fun f => t < f.2).map fun f =>
    Config.unitPower 0 f.1 q + Config.unitPower 1 f.1 q + Config.unitPower 2 f.1 q +
      (if s.hasEye then Config.unitPower 3 f.1 q else 0)
  let engines := ((List.finRange 4).filter fun k => s.leOn k.val && (List.finRange 16).any fun l => (s.ls k l).enabled).map
    fun k => Config.unitPower 4 k.val q
  let ax := if t < axEnd then Config.unitPower 5 0 q else 0
  pwrPar (9 + q) + beams.sum + engines.sum + ax + Config.unitPower 6 0 q + Config.unitPower 7 0 q + Config.unitPower 8 0 q

/-- The nodes of the die and the hotspots of the rounds before, newest first. -/
structure DieSim where
  quad : Vector Quad 4
  hist : List Int
  deriving DecidableEq, Repr

/-- The hotspot. -/
def DieSim.hot (x : DieSim) : Int := x.hist.headD 0

/-- One step of 1 ms without anchoring (R460, R465). -/
def DieSim.step (pw : Nat → Nat) (x : DieSim) : DieSim :=
  let quad := Vector.ofFn fun q : Fin 4 => ((x.quad[q]).advance (Q.ofInt ((1000 * pw q.val : Nat) : Int)) none).1
  let h := (quad.toList.map (·.t0))
  { quad := quad, hist := (h.foldl max (h.headD 0) :: x.hist).take 1001 }

/-- Steps from JT `t` on, unchecked. -/
def DieSim.course (pw : Nat → Nat → Nat) : Nat → Nat → DieSim → DieSim
  | 0, _, x => x
  | k + 1, t, x => course pw k (t + 1000000) (x.step (pw t))

/-- The highest hotspot of the steps from JT `t` on. -/
def DieSim.peak (pw : Nat → Nat → Nat) : Nat → Nat → DieSim → Int
  | 0, _, x => x.hot
  | k + 1, t, x => max x.hot (peak pw k (t + 1000000) (x.step (pw t)))

/-- The WARN level of 95 °C, 2^-16 °C (R157, R462). -/
def dieWarn : Int := 95 * 65536

/-- The code of a state of the die: THERM_DIE, THERM_RATE, or 0 (R157, R462). -/
def DieSim.code (s : State) (rate : Bool) (x : DieSim) : Nat :=
  let n := s.riseWin
  let d := (x.hot - (x.hist[n]?).getD x.hot) * 1000
  if dieWarn ≤ x.hot then 0x47
  else if rate && decide ((s.riseLimit * 512 * n : Nat) ≤ d) then 0x48 else 0

/-- Steps from JT `t` on, up to the first violation: its code and step, or the peak. -/
def DieSim.check (s : State) (pw : Nat → Nat → Nat) : Nat → Nat → Int → DieSim → Except (Nat × Nat) Int
  | 0, _, peak, _ => .ok peak
  | k + 1, t, peak, x =>
    let y := x.step (pw t)
    let c := y.code s true
    if c ≠ 0 then .error (c, t) else check s pw k (t + 1000000) (max peak y.hot) y

namespace State

/-- The die as it stands, or as it stood at the ARM that asked for a new analysis (R42). -/
def dieNow (s : State) : DieSim := { quad := s.pwr.quad, hist := s.pwr.hist }
def dieOf (s : State) (n : Slot) : DieSim :=
  match s.pwr.armDie[n] with
  | some (q, h) => { quad := q, hist := h }
  | none => s.dieNow

/-- The die at the start of job `n`: behind the rest of its predecessor's predicted course where it follows one (R157). -/
def dieStart (s : State) (n : Slot) (x : DieSim) : DieSim :=
  match s.runSlot with
  | some r =>
    match (s.js r).promise, (s.js r).s with
    | some p, some s0 =>
      if (s.js n).mode = 2 ∧ !(s.js n).remainder then
        let now := s.tick - s0
        x.course (fun t q => stepPower s p.finish p.machFin t q) (cdiv (p.jtFin - now) 1000000) now
      else x
    | _, _ => x
  | none => x

/-- The die check of a job with beam finishes `fins`, machine finish `axEnd` and end `fin`: code and step of the first
violation, or the peak (R157, R465). -/
def dieCheck (s : State) (n : Slot) (fins : List (Nat × Nat)) (axEnd fin : Nat) : Except (Nat × Nat) Int :=
  let x := s.dieStart n (s.dieOf n)
  let c := x.code s false
  if c ≠ 0 then .error (c, 0) else x.check s (fun t q => stepPower s fins axEnd t q) (cdiv fin 1000000) 0 x.hot

/-- From the present state of the die, the predicted peak of a job stays below the WARN level (R148). -/
def thermOk (s : State) (n : Slot) : Bool :=
  match (s.js n).promise with
  | some p =>
    let x := s.dieStart n s.dieNow
    decide (x.peak (fun t q => stepPower s p.finish p.machFin t q) (cdiv p.jtFin 1000000) 0 < dieWarn)
  | none => false

end State

end Sys2Proof.Machine
end

