-- ==== Sys2Proof/Machine/TimeOps.lean ====
section
/-! DEFINITION. Time domains, device time and the calendar (R51 to R60, R72 to R76). -/

namespace Sys2Proof.Machine

/-- The place of a domain in its register arrays. -/
def domIx : Dom → Nat
  | .a => 0
  | .b => 1

/-- A domain's record. -/
def State.dom (s : State) : Dom → Domain
  | .a => s.time.a
  | .b => s.time.b

/-- `s` with a domain's record changed. -/
def State.upDom (d : Dom) (f : Domain → Domain) (s : State) : State :=
  match d with
  | .a => s.upTime fun t => { t with a := f t.a }
  | .b => s.upTime fun t => { t with b := f t.b }

/-- The signed 32-bit difference of two times. -/
def diff32 (a b : Word) : Int := (a - b).toInt

namespace State

/-- OFS of a domain, signed ns. -/
def ofs (s : State) (d : Dom) : Int := (s.rd (R.TIME_AB_OFS (domIx d))).toInt
/-- RATE of a domain, 2^-40. -/
def rate (s : State) (d : Dom) : Int := (s.rd (R.TIME_AB_RATE (domIx d))).toInt

/-- The correction of a domain at raw tick `f`, in 2^-40 ns (R51). -/
def corr (s : State) (d : Dom) (f : Word) : Int :=
  s.ofs d * 2 ^ 40 + (s.dom d).frac + s.rate d * diff32 f (s.dom d).anchor

/-- t_d at raw tick `f` (R51). -/
def tOf (s : State) (d : Dom) (f : Word) : Word := f + i32 (rshr (s.corr d f) 40)

/-- The domain that BELLWETHER selects (R56). -/
def bell (s : State) : Dom := if s.rb R.TIME_CTL 0 then .b else .a

/-- The units of the slew residual in one ns. -/
def slewUnit : Nat := 2 ^ 40 * 1000000

/-- The slew residual D in whole ns (R57). -/
def resid (s : State) : Int := rdiv s.time.slew slewUnit

/-- DT at raw tick `f`, with the present residual (R56). -/
def dtAt (s : State) (f : Word) : Word := s.tOf s.bell f - i32 s.resid

/-- DT now. -/
def dt (s : State) : Word := s.dtAt s.frc

/-- The time that a DOM field selects: 0 and 3 DT, 1 domain A, 2 domain B. -/
def selTime (s : State) (dom : Nat) (f : Word) : Word :=
  if dom = 1 then s.tOf .a f else if dom = 2 then s.tOf .b f else s.dtAt f

/-- A fold of a domain at the present tick: RATE · e goes into OFS and FRAC exactly (R52). -/
def fold (d : Dom) (s : State) : State :=
  let c := s.corr d s.frc
  (s.wr (R.TIME_AB_OFS (domIx d)) (i32 (c / 2 ^ 40))).upDom d fun x =>
    { x with frac := (c % 2 ^ 40).toNat, anchor := s.frc }

/-- A step of `n` ns of a domain's integer offset; a step of the bellwether under STEP_GUARD is added to D (R53, R59). A sum
outside OFS wraps, as t_d does (R51; DESIGN CHOICE, log entry 99). -/
def stepDom (d : Dom) (n : Int) (s : State) : State :=
  let t := s.wr (R.TIME_AB_OFS (domIx d)) (i32 (s.ofs d + n))
  if d = s.bell ∧ s.rb R.TIME_CTL 2 then t.upTime fun x => { x with slew := x.slew + n * slewUnit } else t

/-- The slew per tick: MAX ppm, 1 to 1000 (R58). -/
def slewStep (s : State) : Nat := clampN 1 1000 (s.rf R.TIME_SLEW 9 0) * 2 ^ 40

/-- A new value of RATE: fold with the old rate first (R52). -/
def setRate (d : Dom) (v : Word) (s : State) : State := (s.fold d).wr (R.TIME_AB_RATE (domIx d)) v

end State

/-! The calendar. -/

/-- Leap years of 2000 to 2199. -/
def leap (y : Nat) : Bool := y % 4 == 0 && y != 2100

/-- Days of a month. -/
def monthDays (y m : Nat) : Nat :=
  if m = 2 then (if leap y then 29 else 28) else if m = 4 ∨ m = 6 ∨ m = 9 ∨ m = 11 then 30 else 31

/-- Days of a year. -/
def yearDays (y : Nat) : Nat := if leap y then 366 else 365

/-- The year that holds day `n` counted from `y`-01-01, and the day in it. -/
def yearOf : Nat → Nat → Nat → Nat × Nat
  | 0, y, n => (y, n)
  | k + 1, y, n => if n < yearDays y then (y, n) else yearOf k (y + 1) (n - yearDays y)

/-- The month and day (from 0) of a day of year `y`. -/
def monthOf (y : Nat) : Nat → Nat → Nat → Nat × Nat
  | 0, m, n => (m, n)
  | k + 1, m, n => if n < monthDays y m then (m, n) else monthOf y k (m + 1) (n - monthDays y m)

/-- Days of the months of `y` before month `m`. -/
def daysBefore (y m : Nat) : Nat := ((List.range (m - 1)).map fun i => monthDays y (i + 1)).sum

/-- Days from 2000-01-01 to `y`-01-01. -/
def daysTo (y : Nat) : Nat := ((List.range (y - 2000)).map fun i => yearDays (2000 + i)).sum

/-- Year, month, day, hour, minute, second of a count of seconds since 2000-01-01. -/
def civil (secs : Nat) : Nat × Nat × Nat × Nat × Nat × Nat :=
  let (y, d) := yearOf 200 2000 (secs / 86400)
  let (m, d) := monthOf y 11 1 d
  let r := secs % 86400
  (y, m, d + 1, r / 3600, r / 60 % 60, r % 60)

/-- The count of seconds of a date and time; none where it is impossible (R72, R74). -/
def secsOf (y m d hh mm ss : Nat) : Option Nat :=
  if 2000 ≤ y ∧ y ≤ 2199 ∧ 1 ≤ m ∧ m ≤ 12 ∧ 1 ≤ d ∧ d ≤ monthDays y m ∧ hh < 24 ∧ mm < 60 ∧ ss < 60 then
    some ((daysTo y + daysBefore y m + (d - 1)) * 86400 + hh * 3600 + mm * 60 + ss)
  else none

/-- The last second that the calendar counts, 2199-12-31 23:59:59 (R72). -/
def calendarEnd : Nat := 73049 * 86400 - 1

/-- The 2 s after VDDIO_33 in which the RTC oscillator must start, in ns (R48). -/
def startNs : Nat := 2000000000

/-- DATE as its register lays it out. -/
def dateWord (secs : Nat) : Word :=
  let (y, m, d, _, _, _) := civil secs
  w32 ((y - 2000) * 65536 + m * 256 + d)

/-- TOD as its register lays it out. -/
def todWord (secs : Nat) : Word :=
  let (_, _, _, hh, mm, ss) := civil secs
  w32 (hh * 65536 + mm * 256 + ss)

/-- The tick of the last edge of the RTC oscillator: the phase is in 10^-9 of a cycle and each tick adds 32,768. -/
def State.rtcEdge (s : State) : Nat := s.tick - s.time.rtc.phase / 32768

/-- A TIME_MARK record (R76). Cause: 0 boot, 1 calendar set, 2 first lock. -/
def State.timeMark (cause : Nat) (s : State) : State :=
  let r := s.time.rtc
  let (y, m, d, hh, mm, ss) := civil r.secs
  let f := w32 s.rtcEdge
  let locked := (s.dom s.bell).st = 3
  s.record 0x12 (([y - 2000, m, d, hh, mm, ss].map (BitVec.ofNat 8)) ++ toBytes 2 r.sub ++ toBytes 4 f.toNat ++
    toBytes 4 (s.dtAt f).toNat ++
    [BitVec.ofNat 8 (b2n r.valid 0 + b2n locked 1 + b2n (s.bell = .b) 2 + cause * 16)] ++ List.replicate 7 0)

end Sys2Proof.Machine
end

