-- ==== Sys2Proof/Machine/Ledger.lean ====
section
/-! DEFINITION. The bed heat ledger (R234 to R257). -/

namespace Sys2Proof.Machine

/-- TBL of R239: 2^16 · 2^(-f/256), rounded. -/
def decayTbl : List Nat :=
  [65536, 65359, 65182, 65006, 64830, 64655, 64480, 64306, 64132, 63958, 63785, 63613, 63441, 63269, 63098, 62928] ++
  [62757, 62588, 62419, 62250, 62081, 61914, 61746, 61579, 61413, 61247, 61081, 60916, 60751, 60587, 60423, 60260] ++
  [60097, 59934, 59772, 59611, 59449, 59289, 59128, 58968, 58809, 58650, 58491, 58333, 58176, 58018, 57861, 57705] ++
  [57549, 57393, 57238, 57083, 56929, 56775, 56622, 56468, 56316, 56163, 56012, 55860, 55709, 55558, 55408, 55258] ++
  [55109, 54960, 54811, 54663, 54515, 54368, 54221, 54074, 53928, 53782, 53637, 53492, 53347, 53203, 53059, 52916] ++
  [52773, 52630, 52488, 52346, 52204, 52063, 51922, 51782, 51642, 51502, 51363, 51224, 51085, 50947, 50810, 50672] ++
  [50535, 50399, 50262, 50126, 49991, 49856, 49721, 49586, 49452, 49319, 49185, 49052, 48920, 48787, 48655, 48524] ++
  [48393, 48262, 48131, 48001, 47871, 47742, 47613, 47484, 47356, 47228, 47100, 46973, 46846, 46719, 46593, 46467] ++
  [46341, 46216, 46091, 45966, 45842, 45718, 45594, 45471, 45348, 45225, 45103, 44981, 44859, 44738, 44617, 44497] ++
  [44376, 44256, 44137, 44017, 43898, 43780, 43661, 43543, 43425, 43308, 43191, 43074, 42958, 42841, 42726, 42610] ++
  [42495, 42380, 42265, 42151, 42037, 41923, 41810, 41697, 41584, 41472, 41360, 41248, 41136, 41025, 40914, 40804] ++
  [40693, 40583, 40473, 40364, 40255, 40146, 40037, 39929, 39821, 39714, 39606, 39499, 39392, 39286, 39180, 39074] ++
  [38968, 38863, 38757, 38653, 38548, 38444, 38340, 38236, 38133, 38030, 37927, 37824, 37722, 37620, 37518, 37417] ++
  [37316, 37215, 37114, 37014, 36914, 36814, 36715, 36615, 36516, 36417, 36319, 36221, 36123, 36025, 35928, 35831] ++
  [35734, 35637, 35541, 35445, 35349, 35253, 35158, 35063, 34968, 34874, 34779, 34685, 34591, 34498, 34405, 34312] ++
  [34219, 34126, 34034, 33942, 33850, 33759, 33667, 33576, 33486, 33395, 33305, 33215, 33125, 33035, 32946, 32857]

/-- Fields of a cell word (R236). -/
def cE (w : DWord) : Nat := w.toNat % 2 ^ 24
def cT (w : DWord) : Nat := w.toNat / 2 ^ 24 % 2 ^ 24
def cL (w : DWord) : Nat := w.toNat / 2 ^ 48 % 2 ^ 8
def cB (w : DWord) : Nat := w.toNat / 2 ^ 56 % 2 ^ 4
def cMelted (w : DWord) : Bool := nbit w.toNat 60
def cRise (w : DWord) : Bool := nbit w.toNat 61
def cSuspect (w : DWord) : Bool := nbit w.toNat 62

/-- A cell word (R236); bit 63 is written 0. -/
def cellMk (e t l b : Nat) (melted rise suspect : Bool) : DWord :=
  BitVec.ofNat 64 (e % 2 ^ 24 + t % 2 ^ 24 * 2 ^ 24 + l % 256 * 2 ^ 48 + b % 16 * 2 ^ 56 + b2n melted 60 +
    b2n rise 61 + b2n suspect 62)

/-- The layer carry, applied `n` times (R239). -/
def carry (kl : Nat) : Nat → Nat → Nat
  | 0, e => e
  | n + 1, e => carry kl n (cdiv (e * kl) 65536)

/-- The layer difference that R239 uses, with a layer gone back taken as none. -/
def cellDl (p : LdgPar) (w : DWord) : Nat :=
  let dl := (p.layer + 256 - cL w) % 256
  if 128 ≤ dl then 0 else dl

/-- The age of a cell at ledger time `t`. -/
def cellDt (w : DWord) (t : Nat) : Nat := (t + 2 ^ 24 - cT w) % 2 ^ 24

/-- The energy of a cell at ledger time `t` (R239). -/
def cellEnergy (p : LdgPar) (w : DWord) (t : Nat) : Nat :=
  let dt := cellDt w t
  let dl := (p.layer + 256 - cL w) % 256
  if 2 ^ 23 ≤ dt ∨ (p.lmax ≤ dl ∧ dl < 128) then 0
  else
    let q := dt * 256 / oneIfZero p.tau
    let n := q / 256
    if 24 ≤ n then 0
    else carry p.kl (cellDl p w) (cdiv (cE w * decayTbl.getD (q % 256) 0) (2 ^ (16 + n)))

/-- A cell read at ledger time `t` in the layout of R103 (R240). -/
def cellRead (p : LdgPar) (w : DWord) (t : Nat) : Word :=
  let e := cellEnergy p w t
  let live := e ≠ 0 ∧ cellDl p w = 0
  w32 (e + cB w * 2 ^ 24 + b2n (live ∧ cMelted w) 28 + b2n (live ∧ cRise w) 29 + b2n (cSuspect w) 30)

/-- The rise measure of a deposit (R247). -/
def riseMeasure (p : LdgPar) (w : DWord) (t d win : Nat) : Nat :=
  if cellDt w t < win ∧ cellDl p w = 0 then d + cellEnergy p w t else d

/-- The update of a cell by one deposit at ledger time `t` (R244). `rise` is the outcome of the rise test. -/
def cellUpdate (p : LdgPar) (w : DWord) (t d b : Nat) (centreLit suspect rise : Bool) : DWord :=
  let e0 := cellEnergy p w t
  cellMk (min (e0 + d) 0xFFFFFF) t p.layer b ((e0 ≠ 0 && cMelted w) || centreLit) rise
    ((e0 ≠ 0 && cSuspect w) || suspect)

namespace State

/-- LT at a tick: LT_S + floor(JT / 64,000) from S on, and before it the count of the period base before (R237). -/
def ltAtTick (s : State) (t : Nat) : Nat :=
  let (lt, at_) := if s.ldg.ltAt ≤ t then (s.ldg.ltBase, s.ldg.ltAt) else s.ldg.ltPrev
  (((lt : Int) + ((t : Int) - at_) / 64000) % 2 ^ 24).toNat
/-- LT now. -/
def lt (s : State) : Nat := s.ltAtTick s.tick

/-- LDG_CFG, LDG_RISE and LDG_RISE_REP as the registers hold them. -/
def ldgRegs (s : State) : Vector Word 3 := #v[s.rd R.LDG_CFG, s.rd R.LDG_RISE, s.rd R.LDG_RISE_REP]

/-- LDG_CFG, LDG_RISE and LDG_RISE_REP in force (R256). -/
def ldgCfg (s : State) : Word := s.ldg.cfg[0]
def ldgRise (s : State) : Word := s.ldg.cfg[1]
def ldgRep (s : State) : Word := s.ldg.cfg[2]

/-- τ and K_L in force (R238). -/
def ldgTau (s : State) : Nat := s.ldg.tau.getD (oneIfZero (s.rf R.LDG_DEF_TAU 23 0))
def ldgKl (s : State) : Nat := s.ldg.kl.getD (s.rf R.LDG_DEF_KL 15 0)

/-- The parameters of a read now. -/
def ldgPar (s : State) : LdgPar :=
  { tau := s.ldgTau, kl := s.ldgKl, layer := s.ldg.layer, lmax := clampN 1 64 (fld s.ldgCfg 29 24) }

/-- The geometry in service (R234, R235). -/
def ldgNx (s : State) : Nat := fld s.ldg.geo[0] 13 0
def ldgNy (s : State) : Nat := fld s.ldg.geo[0] 29 16
def ldgPitch (s : State) : Nat := 25000 * 2 ^ fld s.ldg.geo[1] 18 16
/-- E_UNIT in pJ (R236). -/
def ldgEu (s : State) : Nat := 62500 * 2 ^ fld s.ldg.geo[1] 10 8
def ldgBase (s : State) : Nat := (s.ldg.geo[2]).toNat + (s.ldg.geo[3]).toNat * 2 ^ 32

/-- The cell of a bed point, as column and row that may lie outside (R234). -/
def ldgIJ (s : State) (p : Pt) : Int × Int :=
  ((p.x - (s.ldg.geo[4]).toInt) / (s.ldgPitch : Int), (p.y - (s.ldg.geo[5]).toInt) / (s.ldgPitch : Int))

/-- The index of a cell inside the grid. -/
def ldgIx (s : State) (i j : Int) : Option Nat :=
  if 0 ≤ i ∧ i < s.ldgNx ∧ 0 ≤ j ∧ j < s.ldgNy then some (j.toNat * s.ldgNx + i.toNat) else none

/-- The stored word of a cell: the cached entry where there is one, else DDR5 (R250). -/
def cellWord (s : State) (ix : Nat) : DWord :=
  match s.ldg.cache.find? (·.cell = ix) with
  | some c => c.word
  | none => s.rd64 (s.ldgBase + 8 * ix)

/-- The ledger stream of a beam has `n` bytes more to carry (R250). -/
def ledgerOwes (b n : Nat) (s : State) : State := s.upLdg fun g => { g with owed := vupdN g.owed b (· + n) }

/-- Room for one entry more of a beam: with its reserve full the entry with the oldest last deposit goes, written back when
modified (R250). -/
def cacheRoom (b : Nat) (s : State) : State :=
  let mine := s.ldg.cache.filter (·.beam = b)
  if mine.length < 65536 then s
  else match mine.foldl (fun (a : Option CacheEnt) c => match a with
      | none => some c
      | some x => if c.last < x.last then some c else some x) none with
    | none => s
    | some o =>
      let t := s.upLdg fun g => { g with cache := g.cache.filter (·.cell ≠ o.cell) }
      if o.dirty then (t.wrN (t.ldgBase + 8 * o.cell) 8 o.word.toNat).ledgerOwes b 8 else t

/-- A cell that the kernel of a beam is about to reach is fetched, where the cache does not hold it (R250). -/
def cacheFetch (b ix : Nat) (s : State) : State :=
  if s.ldg.cache.any (·.cell = ix) then s
  else
    let s := (s.cacheRoom b).ledgerOwes b 8
    s.upLdg fun g =>
      { g with cache := { cell := ix, word := s.cellWord ix, dirty := false, beam := b, last := s.tick } :: g.cache }

/-- A deposit of a beam into a cell: its entry, fetched where it is not held, takes the new word (R250). -/
def cachePut (ix : Nat) (w : DWord) (b : Nat) (s : State) : State :=
  (s.cacheFetch b ix).upLdg fun g => { g with cache := g.cache.map fun c =>
    if c.cell = ix then { c with word := w, dirty := true, beam := b, last := s.tick } else c }

/-- A cell written in DDR5, and in the cache where it is held. -/
def cellWrite (ix : Nat) (w : DWord) (s : State) : State :=
  (s.wrN (s.ldgBase + 8 * ix) 8 w.toNat).upLdg fun g =>
    { g with cache := g.cache.map fun c => if c.cell = ix then { c with word := w, dirty := false } else c }

/-- ΣD of the samples: a lost report counts as full scale (R243, R245). -/
def sumD (l : List VSample) : Nat := (l.map fun v => if v.lost then 65535 else v.pwr.getD 0).sum

/-- dep[k] of a visit under a full scale and a kernel (R243). -/
def depBy (s : State) (fs : Nat) (kernel : List Nat) (sum k : Nat) : Nat :=
  cdiv (sum * fs * 50 * kernel.getD k 0) (65535 * s.ldgEu * 65536)

/-- dep[k] of a visit of beam `b` (R243). -/
def depOf (s : State) (b : Beam) (sum k : Nat) : Nat := s.depBy s.ldg.fs[b] s.ldg.kernel sum k

/-- The nine kernel cells of a spot cell: kernel index and cell, none outside the ledger (R243). -/
def kernelCells (s : State) (i j : Int) : List (Nat × Option Nat) :=
  (List.range 9).map fun k => (k, s.ldgIx (i + (k % 3 : Nat) - 1) (j + (k / 3 : Nat) - 1))

/-- The cells of a visit that begins are fetched (R250). -/
def kernelFetch (b : Nat) (i j : Int) (s : State) : State :=
  s.each (s.kernelCells i j) fun kc t => match kc.2 with
    | some ix => t.cacheFetch b ix
    | none => t

/-- A visit as a view takes it: its beam, and the parameters, full scale and kernel under which it deposits. -/
structure Viewed where
  beam   : Beam
  visit  : Visit
  par    : LdgPar
  fs     : Nat
  kernel : List Nat
  deriving DecidableEq, Repr

/-- The deposit into cell `ix` of the samples of a visit that end by `t`, applied to a word at ledger time `lt`, without a
rise test (R241). -/
def viewDeposit (s : State) (v : Viewed) (ix t lt : Nat) (w : DWord) : DWord :=
  let l := v.visit.samples.filter fun x => s.sampleAt (x.k + 1) ≤ t
  match (s.kernelCells v.visit.i v.visit.j).find? (·.2 = some ix) with
  | none => w
  | some (k, _) =>
    if l.isEmpty then w
    else
      let e0 := cellEnergy v.par w lt
      cellUpdate v.par w lt (s.depBy v.fs v.kernel (sumD l) k) v.beam.val (k == 4 && l.any (·.opn)) (l.any (·.lost))
        (e0 ≠ 0 && cRise w)

end State

/-- The tick of a change. -/
def Change.at_ : Change → Nat
  | .visit c => c.at_
  | .sweep t _ _ => t

/-- The word of cell `ix` before a change, where the change wrote it. -/
def Change.priorOf (ix : Nat) : Change → Option DWord
  | .visit c => (c.deps.find? (·.cell = ix)).map (·.prior)
  | .sweep _ cell w => if cell = ix then some w else none

/-- A change that no longer touches cell `ix`. -/
def Change.without (ix : Nat) : Change → Option Change
  | .visit c => some (.visit { c with deps := c.deps.filter (·.cell ≠ ix) })
  | .sweep t cell w => if cell = ix then none else some (.sweep t cell w)

/-- The visit of a commit as a view takes it. -/
def Change.viewed : Change → Option State.Viewed
  | .visit c => some ⟨Fin.ofNat 16 c.beam, c.visit, c.par, c.fs, c.kernel⟩
  | .sweep _ _ _ => none

namespace State

/-- The stored word of a cell as it was at the end of tick `t`: before the first kept change after `t` (R241). -/
def wordAt (s : State) (ix t : Nat) : DWord :=
  ((s.ldg.changes.filter fun c => t < c.at_).findSome? (Change.priorOf ix)).getD (s.cellWord ix)

/-- The visits whose commits fall after `t` or are still to come: committed ones in commit order, then the waiting ones in
beam order (R241, R246). -/
def visitsAfter (s : State) (t : Nat) : List Viewed :=
  ((s.ldg.changes.filter fun c => t < c.at_).filterMap Change.viewed) ++
    (List.finRange 16).flatMap fun b => (s.ldg.visits[b]).map fun v => ⟨b, v, s.ldgPar, s.ldg.fs[b], s.ldg.kernel⟩

/-- A visit has ended by `t`: it is closed, and its samples end by then. -/
def visitEnded (s : State) (t : Nat) (v : Viewed) : Bool :=
  !v.visit.open_ && v.visit.samples.all fun x => s.sampleAt (x.k + 1) ≤ t

/-- The word of a cell in the view at tick `t`; `self` names a beam whose visit open at `t` is left out. What committed by `t`
stands in the stored word; a visit that ended by `t` and commits later deposits at the ledger time of `t`, and the visits open
at `t` deposit last. No rise test is made for either (R241). -/
def viewWord (s : State) (ix t : Nat) (self : Option Beam) : DWord :=
  let lt := s.ltAtTick t
  let (done, open_) := (s.visitsAfter t).partition (s.visitEnded t)
  let live := ((List.finRange 16).flatMap fun b => open_.filter (·.beam = b)).filter fun v => self ≠ some v.beam
  (done ++ live).foldl (fun w v => s.viewDeposit v ix t lt w) (s.wordAt ix t)

/-- The view at `t` is final: the report of every sample that ends by `t` has been received or declared lost (R241). -/
def viewFinal (s : State) (t : Nat) : Bool :=
  (List.finRange 16).all fun b => (s.ldg.visits[b]).all fun v => v.samples.all fun x =>
    !(decide (s.sampleAt (x.k + 1) ≤ t)) || x.pwr.isSome || x.lost

/-- A change is kept until no view of an instant before it is read any more (R241). -/
def keepChange (c : Change) (s : State) : State :=
  let old := match s.ldg.qryAt with
    | some (_, _, t) => min t (s.tick - 65536)
    | none => s.tick - 65536
  s.upLdg fun g => { g with changes := (g.changes.filter fun c => old < c.at_) ++ [c] }

/-- The read of a cell that is not cached is 8 bytes of the beam's ledger stream, and no entry is allocated (R250). -/
def readOwes (b : Nat) (q : Pt) (s : State) : State :=
  let (i, j) := s.ldgIJ q
  match s.ldgIx i j with
  | some ix => if s.ldg.cache.any (·.cell = ix) then s else s.ledgerOwes b 8
  | none => s

/-- The read of a bed point in the view at tick `t`, in the layout of R103; outside the ledger 0 (R241). -/
def viewRead (s : State) (q : Pt) (t : Nat) (self : Option Beam) : Word :=
  let (i, j) := s.ldgIJ q
  match s.ldgIx i j with
  | none => 0
  | some ix => cellRead s.ldgPar (s.viewWord ix t self) (s.ltAtTick t)

/-- One deposit of a commit: rise test, update, and its place in the kept commits; `forced` sets RISE whatever the test says
(R244, R247, R424). -/
def depositOne (b : Beam) (k ix d : Nat) (lit suspect forced : Bool) (s : State) : State × Deposit × Bool :=
  let w := s.cellWord ix
  let win := oneIfZero (fld s.ldgRise 31 24)
  let rise := fld s.ldgRise 23 0 < riseMeasure s.ldgPar w s.lt d win
  let w' := cellUpdate s.ldgPar w s.lt d b.val (k == 4 && lit) suspect (rise || forced)
  (s.cachePut ix w' b.val, { cell := ix, prior := w, d := d, centre := k == 4, rise := rise || forced }, rise)

/-- A rise event of a beam: event, counts, and LDG_RISE_REP where REP_N fall within REP_WIN ms (R247, R248). -/
def riseEvent (b : Beam) (s : State) : State :=
  let s := (s.report 0x29 b.val 0).count R.LDG_CNT 31 16
  let s := match (s.be[b]).job with
    | some n => s.upSlot n fun j => { j with bRise := vupd j.bRise b fun x => satN 8 (x + 1) }
    | none => s
  let win := oneIfZero (fld s.ldgRep 31 16) * 1000000
  let l := s.tick :: ((s.ldg.rises[b]).filter fun t => s.tick < t + win)
  let s := s.upLdg fun g => { g with rises := vupd g.rises b fun _ => l }
  if oneIfZero (fld s.ldgRep 7 0) ≤ l.length then s.report 0x2A b.val 0 else s

/-- One cell of a visit's kernel: outside the grid it is counted, inside it takes its deposit and any rise event. -/
def commitCell (b : Beam) (sum : Nat) (lit suspect forced : Bool) (s : State) (kc : Nat × Option Nat) : State × List Deposit :=
  match kc.2 with
  | none => (s.count R.LDG_CNT2 31 16, [])
  | some ix =>
    let (t, d, rise) := s.depositOne b kc.1 ix (s.depOf b sum kc.1) lit suspect forced
    (if rise then t.riseEvent b else t, [d])

/-- The commit of a closed visit whose reports are all in; one that a forced report has made suspect has had its report
(R243 to R247, R424). -/
def commitVisit (b : Beam) (v : Visit) (s : State) : State :=
  let sum := sumD v.samples
  let lit := v.samples.any (·.opn)
  let lost := v.samples.any (·.lost)
  let suspect := lost || v.susp
  let cells := s.kernelCells v.i v.j
  let go := cells.foldl (fun (x : State × List Deposit) kc =>
    let y := x.1.commitCell b sum lit suspect v.rise kc
    (y.1, x.2 ++ y.2)) (s, [])
  let t := go.1.digItem s.sample 6 b.val (BitVec.ofNat 8 b.val ::
    (toBytes 4 (i32 (v.j * s.ldgNx + v.i)).toNat ++ toBytes 4 (satN 32 sum) ++ [BitVec.ofNat 8 (b2n suspect)]))
  let c : Commit := { at_ := s.tick, lt := s.lt, beam := b.val
                      ended := (v.samples.map fun x => s.sampleAt (x.k + 1)).foldl max 0
                      visit := v, par := s.ldgPar, fs := s.ldg.fs[b], kernel := s.ldg.kernel
                      suspect := suspect, lit := lit, deps := go.2 }
  let t := t.keepChange (.visit c)
  if suspect then (t.ifc lost (State.report 0x28 b.val 0)).count R.LDG_CNT 15 0 else t

/-- The grid and the cache become all zeros (CLEAR, R253). -/
def clearGrid (s : State) : State :=
  let lo := s.ldgBase
  let hi := lo + 8 * (s.ldgNx * s.ldgNy)
  let t : State := { s with mem := s.mem.filter fun c => c.1 < lo || hi ≤ c.1 }
  t.upLdg fun g => { g with cache := [], changes := [], failed := [] }

/-- Every modified cache entry is written to DDR5; entries stay valid (FLUSH, R253). -/
def flushCache (s : State) : State :=
  let t := s.ldg.cache.foldl (fun t c => if c.dirty then t.wrN (t.ldgBase + 8 * c.cell) 8 c.word.toNat else t) s
  t.upLdg fun g => { g with cache := g.cache.map fun c => { c with dirty := false } }

/-- No slot is ANALYSING, ACCEPTED, ARMED, RUNNING or HOLDING. -/
def slotsQuiet (s : State) : Bool :=
  (List.finRange 4).all fun n =>
    let j := (s.js n).st
    !(j = .analysing || j = .accepted || j = .armed || j = .running || j = .holding)

/-- The end of populated DDR5 (R481). -/
def ddrEnd (s : State) : Nat := 0x100000000 + s.rf R.DDR_STATUS 31 16 * 2 ^ 30

/-- A range lies in populated DDR5. -/
def inDdr (s : State) (a n : Nat) : Bool := 0x100000000 ≤ a && a + n ≤ s.ddrEnd

/-- The shadow geometry is valid and fits (R234 to R236). -/
def geoOk (s : State) : Bool :=
  let nx := s.rf R.LDG_GRID 13 0
  let ny := s.rf R.LDG_GRID 29 16
  let ok (n : Nat) := 256 ≤ n && n ≤ 8192 && n % 256 == 0
  ok nx && ok ny && s.rf R.LDG_CFG 18 16 ≤ 4 && s.rf R.LDG_CFG 10 8 ≤ 6 &&
    s.inDdr ((s.rd R.LDG_BASE_LO).toNat + (s.rd R.LDG_BASE_HI).toNat * 2 ^ 32) (8 * (nx * ny))

end State

/-- A higher beam has committed on this tick: a commit of beam `b` now would break the order of R246, and waits. -/
def State.commitBarred (s : State) (b : Beam) : Bool :=
  s.ldg.changes.any fun c => match c with
    | .visit c => c.at_ == s.tick && b.val < c.beam
    | .sweep _ _ _ => false

/-- VISIT_COMMIT: the oldest visit of the beam that has ended and whose reports are all received or lost commits, in
ascending beam order within a tick (R244, R246). -/
def execVisitCommit (b : Beam) (s : State) : Res :=
  match s.ldg.visits[b] with
  | [] => .next s
  | v :: rest =>
    if v.open_ ∨ v.samples.any (fun x => x.pwr.isNone && !x.lost) ∨ s.commitBarred b then .next s
    else .next ((s.upLdg fun g => { g with visits := vupd g.visits b fun _ => rest }).commitVisit b v)

/-- The sweep rewrites a cell, whose word before is kept for the views of earlier instants (R241, R252). -/
def State.sweepWrite (ix : Nat) (w : DWord) (s : State) : State :=
  (s.cellWrite ix w).keepChange (.sweep s.tick ix (s.cellWord ix))

/-- SWEEP_STEP: one cell in row order; an empty one is zeroed and an old one rebased (R252). The sweep pauses for a host operation
and from step 4 to step 6 of ROPE_UP (R252, R397). -/
def execSweepStep (s : State) : Res :=
  if s.ldg.op ≠ 0 ∨ (s.twin.pair = 1 ∧ 4 ≤ s.twin.step) then .next s
  else
    let ix := s.ldg.sweep
    let w := s.cellWord ix
    let p := s.ldgPar
    let e := cellEnergy p w s.lt
    let s1 :=
      if e = 0 then (if w = 0 then s else s.sweepWrite ix 0)
      else if 2 ^ 22 ≤ cellDt w s.lt then
        let keep := cellDl p w = 0
        s.sweepWrite ix (cellMk e s.lt p.layer (cB w) (keep && cMelted w) (keep && cRise w) (cSuspect w))
      else s
    if ix + 1 < s.ldgNx * s.ldgNy then .next (s1.upLdg fun g => { g with sweep := ix + 1 })
    else .next ((s1.advance R.LDG_SWEEP 31 16).upLdg fun g =>
      { g with sweep := 0, sweepFrom := s.tick, sweepLate := false })

/-- SWEEP_LATE: a pass longer than 2^21 units raises its event once (R252). -/
def execSweepLate (s : State) : Res :=
  if s.ldg.sweepFrom + 2 ^ 21 * 64000 < s.tick ∧ !s.ldg.sweepLate then
    .next (((s.setB R.LDG_STATUS 6).report 0x2C 0 0).upLdg fun g => { g with sweepLate := true })
  else .next s

/-- A cell with an uncorrectable error is taken as full, written back, counted and reported for unit `u` (R251). -/
def State.cellFull (u ix : Nat) (s : State) : State :=
  let w := cellMk 0xFFFFFF s.lt s.ldg.layer (cB (s.cellWord ix)) false false true
  let t := (s.cellWrite ix w).upLdg fun g =>
    { g with changes := g.changes.filterMap (Change.without ix), failed := ix :: g.failed.filter (· ≠ ix) }
  (t.count R.LDG_CNT2 15 0).report 0x2B u 0

/-- Failing cells are read from DDR5 again, where the cache holds them unmodified (R430). -/
def State.failedAgain (s : State) : State :=
  let again (c : CacheEnt) : CacheEnt :=
    if s.ldg.failed.contains c.cell && !c.dirty then { c with word := s.rd64 (s.ldgBase + 8 * c.cell) } else c
  s.upLdg fun g => { g with failed := [], cache := g.cache.map again }

/-- LDG_ECC: a cell with an uncorrectable error is taken as full and written back (R251). -/
def execLdgEcc (b : Beam) (cell : BitVec 26) (s : State) : Res := .next (s.cellFull b.val cell.toNat)

/-- A host operation starts unless one runs, which sets REFUSED (R253). -/
def State.ldgStart (op : Nat) (quiet : Bool) (f : State → State) (s : State) : State :=
  if s.ldg.op ≠ 0 ∨ (quiet ∧ !s.slotsQuiet) then s.setB R.LDG_STATUS 5
  else f (s.upLdg fun g => { g with op := op })

/-- LDG_FLUSH (R253). -/
def execLdgFlush (s : State) : Res := .next (s.ldgStart 1 false State.flushCache)

/-- LDG_CLEAR (R253). -/
def execLdgClear (s : State) : Res := .next (s.ldgStart 2 true State.clearGrid)

/-- The shadow geometry enters service, then the grid is cleared; an invalid one sets CFG_ERR (R253). -/
def State.applyGeo (s : State) : State :=
  if s.geoOk then
    (s.upLdg fun g => { g with
      geo := #v[s.rd R.LDG_GRID, s.rd R.LDG_CFG, s.rd R.LDG_BASE_LO, s.rd R.LDG_BASE_HI, s.rd R.LDG_ORG_X,
                s.rd R.LDG_ORG_Y]
      sweep := 0, sweepFrom := s.tick }).clearGrid
  else s.setB R.LDG_STATUS 4

/-- LDG_APPLY (R253). -/
def execLdgApply (s : State) : Res := .next (s.ldgStart 3 true State.applyGeo)

/-- The cells at LDG_IMP are copied into the region (R253). -/
def State.importCells (s : State) : State :=
  let src := (s.rd R.LDG_IMP_LO).toNat + (s.rd R.LDG_IMP_HI).toNat * 2 ^ 32
  let n := 8 * (s.ldgNx * s.ldgNy)
  let cells := s.mem.filter fun c => src ≤ c.1 ∧ c.1 < src + n
  cells.foldl (fun t c => t.wrByte (t.ldgBase + (c.1 - src)) c.2) s.clearGrid

/-- LDG_IMPORT (R253). -/
def execLdgImport (s : State) : Res := .next (s.ldgStart 4 true State.importCells)

/-- LDG_OP_DONE: BUSY and OP clear, and the sweep starts a new pass (R252, R253). -/
def execLdgOpDone (s : State) : Res :=
  if s.ldg.op = 0 then .next s
  else .next ((s.upLdg fun g => { g with op := 0, sweep := 0, sweepFrom := s.tick, sweepLate := false }).assigned 6)

/-- LDG_QRY_GO: a query of the cell at the query position starts, or starts again (R255). -/
def execLdgQryGo (s : State) : Res :=
  .next ((s.clrB R.LDG_QRY_CTL 8).upLdg fun g =>
    { g with qry := true, qryAt := some ((s.rd R.LDG_QRY_X).toInt, (s.rd R.LDG_QRY_Y).toInt, s.tick) })

/-- LDG_QRY_DONE: DONE with the view of the tick on which GO was accepted, once that view is final, and the stored word
(R241, R255). -/
def execLdgQryDone (s : State) : Res :=
  match s.ldg.qryAt with
  | none => .next s
  | some (x, y, t) =>
    if !s.viewFinal t then .next s else
    let (i, j) := s.ldgIJ ⟨x, y⟩
    let raw := match s.ldgIx i j with
      | some ix => (s.cellWord ix).toNat
      | none => 0
    let s1 := ((s.wr R.LDG_QRY_RES (s.viewRead ⟨x, y⟩ t none)).wr R.LDG_QRY_RAW_LO (w32 raw)).wr R.LDG_QRY_RAW_HI
      (w32 (raw / 2 ^ 32))
    .next ((s1.setB R.LDG_QRY_CTL 8).upLdg fun g => { g with qry := false, qryAt := none })

/-- LDG_CNT_CLR: refused like any write of LDG_CTL while an operation runs (R253, R488). -/
def execLdgCntClr (s : State) : Res :=
  .next (if s.ldg.op ≠ 0 then s.setB R.LDG_STATUS 5 else (s.wr R.LDG_CNT 0).wr R.LDG_CNT2 0)

end Sys2Proof.Machine
end

