-- ==== Sys2Proof/Machine/Kin.lean ====
section
/-! DEFINITION. The fixed arithmetic of strokes, shared by the walk and the beam engines (R114 to R118, R175, R516,
R517): lengths in nm, times in ns, exact fractions in between. -/

namespace Sys2Proof.Machine

/-! Lengths, directions and angles (R116, R517). -/

/-- The square root of a whole number, to nearest. -/
def rootNear (n : Nat) : Nat :=
  let r := isqrt n
  if r + r * r < n then r + 1 else r

/-- The distance of two points in nm, rounded (R116). -/
def dist (a b : Pt) : Nat := rootNear (((a.x - b.x) * (a.x - b.x) + (a.y - b.y) * (a.y - b.y)).toNat)

/-- 1.0 of sQ1.30. -/
def one30 : Int := 2 ^ 30

/-- The direction of a vector, components sQ1.30 (R517). -/
def direction (dx dy : Int) : Pt :=
  let l := rootNear ((dx * dx + dy * dy).toNat)
  ⟨rdiv (dx * one30) l, rdiv (dy * one30) l⟩

/-- π in units of 2^-96. -/
def pi96 : Int := 248902613312231085230521944622

/-- The first `n` terms of the sine series from term `t` of index `k`; units of 2^-96. -/
def sinGo (x2 : Int) : Nat → Int → Int → Int → Int
  | 0, _, _, acc => acc
  | n + 1, k, t, acc =>
    let t' := -(t * x2 / 2 ^ 96) / (k * (k + 1))
    sinGo x2 n (k + 2) t' (acc + t')

/-- Sine of a small angle in units of 2^-96. -/
def sinFix (x : Int) : Int := sinGo (x * x / 2 ^ 96) 16 2 x x

/-- Cosine of a small angle in units of 2^-96. -/
def cosFix (x : Int) : Int := sinGo (x * x / 2 ^ 96) 16 1 (2 ^ 96) (2 ^ 96)

/-- Cosine and sine of an angle count, in units of 2^-96, by quadrants. -/
def cosSinFix (c : Nat) : Int × Int :=
  let c := c % 2 ^ 32
  let q := c / 2 ^ 30
  let x := ((c % 2 ^ 30 : Nat) : Int) * pi96 / 2 ^ 31
  let co := cosFix x
  let si := sinFix x
  if q = 0 then (co, si) else if q = 1 then (-si, co) else if q = 2 then (-co, -si) else (si, -co)

/-- Cosine and sine of an angle count, rounded to sQ1.30 (R517). -/
def cosSin (c : Nat) : Int × Int :=
  let (a, b) := cosSinFix c
  (rshr a 66, rshr b 66)

/-- The arctangent series of a ratio at most 1/4; units of 2^-96. -/
def atanGo (x2 : Int) : Nat → Int → Int → Int → Int
  | 0, _, _, acc => acc
  | n + 1, k, p, acc =>
    let p' := -(p * x2 / 2 ^ 96)
    atanGo x2 n (k + 2) p' (acc + p' / (k + 2))

/-- The ratio whose arctangent is half: r / (1 + sqrt(1 + r²)); units of 2^-96. -/
def atanHalf (r : Int) : Int :=
  r * 2 ^ 96 / (2 ^ 96 + (isqrt ((2 ^ 192 + r * r).toNat) : Int))

/-- Arctangent of a ratio between 0 and 1; units of 2^-96. -/
def atanFix (r : Int) : Int :=
  let h := atanHalf (atanHalf r)
  4 * atanGo (h * h / 2 ^ 96) 28 1 h h

/-- To nearest, ties to even, of a non-negative number by a positive one. -/
def rdivEven (a : Int) (b : Int) : Int :=
  let q := a / b
  let r := 2 * (a % b)
  if r < b then q else if b < r then q + 1 else if q % 2 = 0 then q else q + 1

/-- The angle of a vector as a count of 2π/2^32, to nearest, ties to the even count (R517). -/
def angleOf (x y : Int) : Nat :=
  let ax : Int := x.natAbs
  let ay : Int := y.natAbs
  let base : Int :=
    if ax = 0 ∧ ay = 0 then 0
    else if ay ≤ ax then atanFix (ay * 2 ^ 96 / ax)
    else pi96 / 2 - atanFix (ax * 2 ^ 96 / ay)
  let full : Int :=
    if 0 ≤ x then (if 0 ≤ y then base else 2 * pi96 - base)
    else (if 0 ≤ y then pi96 - base else pi96 + base)
  (rdivEven (full * 2 ^ 31) pi96).toNat % 2 ^ 32

/-! Speeds and times. -/

/-- µm/s as nm/ns. -/
def speedQ (v : Nat) : Q := Q.mk' v 1000000
/-- m/s² as nm/ns². -/
def accQ (a : Nat) : Q := Q.mk' a 1000000000

/-- A phase time: computed to 2^-16 ns, then rounded up to a whole ns (R116; log entry 21). -/
def upNs (t : Q) : Nat := cdiv ((t.mul (Q.ofInt 65536)).floor.toNat) 65536

/-- The plan of path(): times of acceleration, cruise and deceleration, and peak speed. -/
structure PathPlan where
  ta : Q
  tc : Q
  td : Q
  vp : Q
  deriving DecidableEq, Repr

/-- path() of R115 under the arithmetic of R116; none where the end speeds cannot be met. -/
def pathPlan (l : Q) (vi vo v a : Q) : Option PathPlan :=
  let two := Q.ofInt 2
  let sq (x : Q) := x.mul x
  let da := ((sq v).sub (sq vi)).div (two.mul a)
  let dd := ((sq v).sub (sq vo)).div (two.mul a)
  if (da.add dd).le l then
    some ⟨(v.sub vi).div a, ((l.sub da).sub dd).div v, (v.sub vo).div a, v⟩
  else
    let tp := ((((two.mul a).mul l).add ((sq vi).add (sq vo))).div (two.mul (sq a))).sqrtDown 16
    let vp := a.mul tp
    if vp.lt (vi.max vo) then none
    else some ⟨tp.sub (vi.div a), ⟨0, 1⟩, tp.sub (vo.div a), vp⟩

/-- The exact duration of a plan. -/
def PathPlan.exact (p : PathPlan) : Q := (p.ta.add p.tc).add p.td

/-- Distance covered and speed at exact time `t` of a plan over length `l`. -/
def PathPlan.at (p : PathPlan) (l vi vo a t : Q) : Q × Q :=
  let half := Q.mk' 1 2
  if t.lt p.ta then ((vi.mul t).add ((half.mul a).mul (t.mul t)), vi.add (a.mul t))
  else if t.lt (p.ta.add p.tc) then
    let d0 := (vi.mul p.ta).add ((half.mul a).mul (p.ta.mul p.ta))
    (d0.add (p.vp.mul (t.sub p.ta)), p.vp)
  else
    let r := (p.exact.sub t).max ⟨0, 1⟩
    (l.sub ((vo.mul r).add ((half.mul a).mul (r.mul r))), vo.add (a.mul r))

/-- The time of move() over `d` nm; 0 for no distance. -/
def moveNs (d : Nat) (v a : Q) : Nat :=
  if d = 0 then 0
  else match pathPlan (Q.ofInt d) ⟨0, 1⟩ ⟨0, 1⟩ v a with
    | some p => upNs p.exact
    | none => 0

/-- T_pos of SPOT, 2·sqrt(d / ACC), root in ns (R116, R122). -/
def tPosNs (d : Nat) (a : Q) : Nat :=
  if d = 0 then 0 else upNs ((Q.ofInt 2).mul (((Q.ofInt d).div a).sqrtDown 16))

/-! Profiles (R88, R89). -/

/-- A stroke profile as the beam engine reads it. -/
structure Prof where
  acc    : Nat
  runup  : Nat
  runout : Nat
  tol    : Nat
  lon    : Int
  loff   : Int
  pMax   : Nat
  pMin   : Nat
  slew   : Nat
  mode   : Nat
  iRef   : Nat
  kp     : Int
  ki     : Int
  kpSh   : Nat
  kiSh   : Nat
  intClamp : Nat
  areaRef : Nat
  gain   : Int
  trimMax : Nat
  deriving DecidableEq, Repr

/-- The profile at a device address. -/
def State.profAt (s : State) (a : Nat) : Prof :=
  { acc := s.rdN a 4, runup := s.rdN (a + 4) 4, runout := s.rdN (a + 8) 4, tol := s.rdN (a + 12) 4
    lon := sext 32 (s.rdN (a + 16) 4), loff := sext 32 (s.rdN (a + 20) 4), pMax := s.rdN (a + 24) 2
    pMin := s.rdN (a + 26) 2, slew := s.rdN (a + 28) 2, mode := s.rdN (a + 30) 1, iRef := s.rdN (a + 32) 4
    kp := sext 32 (s.rdN (a + 36) 4), ki := sext 32 (s.rdN (a + 40) 4), kpSh := s.rdN (a + 44) 1 % 32
    kiSh := s.rdN (a + 45) 1 % 32, intClamp := s.rdN (a + 46) 2, areaRef := s.rdN (a + 48) 2
    gain := sext 16 (s.rdN (a + 50) 2), trimMax := s.rdN (a + 52) 2 }

/-- The device address of profile `i` of beam `b` in the table at `t` (R88). -/
def State.profAddr (s : State) (t b i : Nat) : Nat :=
  t + 64 + 512 * (((List.range b).map fun k => s.rdN (t + 8 + 2 * k) 2).sum + i)

/-! Geometry of a MARK or an ARC (R114, R119, R121). -/

/-- The geometry of a path. -/
structure Geo where
  len : Nat
  u0  : Pt
  u1  : Pt
  r0  : Nat
  r1  : Nat
  th  : Nat
  a0  : Nat
  deriving DecidableEq, Repr

/-- A direction turned a quarter, anticlockwise or clockwise. -/
def quarter (cw : Bool) (u : Pt) : Pt := if cw then ⟨u.y, -u.x⟩ else ⟨-u.y, u.x⟩

/-- The sweep angle about a centre in the direction of travel, 1 to 2^32 counts (R121). -/
def sweepOf (cw : Bool) (a0 a1 : Nat) (same : Bool) : Nat :=
  if same then 2 ^ 32
  else
    let d := (if cw then a0 + 2 ^ 32 - a1 else a1 + 2 ^ 32 - a0) % 2 ^ 32
    if d = 0 then 2 ^ 32 else d

/-- The geometry of a straight path. -/
def markGeo (p0 p1 : Pt) : Geo :=
  let u := direction (p1.x - p0.x) (p1.y - p0.y)
  { len := dist p0 p1, u0 := u, u1 := u, r0 := 0, r1 := 0, th := 0, a0 := 0 }

/-- The geometry of an arc about `c`; its length is θ·(r0 + r1)/2, θ a count of 2π/2^32 (R121). -/
def arcGeo (cw : Bool) (p0 p1 c : Pt) : Geo :=
  let a0 := angleOf (p0.x - c.x) (p0.y - c.y)
  let a1 := angleOf (p1.x - c.x) (p1.y - c.y)
  let th := sweepOf cw a0 a1 (p0 = p1)
  let r0 := dist p0 c
  let r1 := dist p1 c
  { len := (rdiv ((th * (r0 + r1) : Nat) * pi96) (2 ^ 128)).toNat
    u0 := quarter cw (direction (p0.x - c.x) (p0.y - c.y))
    u1 := quarter cw (direction (p1.x - c.x) (p1.y - c.y))
    r0 := r0, r1 := r1, th := th, a0 := a0 }

/-- A point moved by `n` nm along a direction, components rounded to nm. -/
def along (p : Pt) (u : Pt) (n : Int) : Pt := ⟨p.x + rdiv (u.x * n) (2 ^ 30), p.y + rdiv (u.y * n) (2 ^ 30)⟩

/-- T_ru and T_ro: 2·d / v, 0 without a distance (R114). -/
def rampNs (d : Nat) (v : Q) : Nat := if d = 0 then 0 else upNs ((Q.ofInt (2 * d)).div v)

/-- The acceleration v²/(2·d) does not exceed ACC (R114). -/
def rampOk (d : Nat) (v a : Q) : Bool := d == 0 || ((v.mul v).div (Q.ofInt (2 * d))).le a

/-- A blended joint: its speed, and the fillet's half-length and radius (0 without a fillet). -/
structure Joint where
  vj : Q
  a  : Nat
  r  : Nat
  ok : Bool
  deriving DecidableEq, Repr

/-- The joint of two paths (R117, R175, R517). `ok` is false where the reduced fillet exceeds the acceleration. Where
cos(φ/2) rounds to 1 the corner is passed as at φ = 0 (DESIGN CHOICE, log entry 100). -/
def jointOf (u1 u0 : Pt) (tol1 tol2 acc1 acc2 : Nat) (v1 v2 : Q) (len1 len2 : Nat) : Joint :=
  let c := max (-one30) (min one30 (rdiv (u1.x * u0.x + u1.y * u0.y) (2 ^ 30)))
  let ch : Int := isqrt ((rdiv (one30 + c) 2 * 2 ^ 30).toNat)
  let tol := min tol1 tol2
  let acc := accQ (min acc1 acc2)
  if c = one30 ∨ ch = one30 then { vj := v1.min v2, a := 0, r := 0, ok := true }
  else
    let rho := (rdiv (tol * ch) ((one30 - ch).toNat)).toNat
    let vj := (v1.min v2).min ((acc.mul (Q.ofInt rho)).sqrtDown 16)
    if ch = 0 then { vj := vj, a := 0, r := 0, ok := true }
    else
      let sn : Int := isqrt ((one30 * one30 - ch * ch).toNat)
      let tn := rdiv (sn * one30) ch.toNat
      let a0 := (rdiv (rho * tn) (2 ^ 30)).toNat
      let half := (rdiv (min len1 len2 : Nat) 2).toNat
      if half < a0 then
        let r := (rdiv (half * one30) tn.toNat).toNat
        { vj := vj, a := half, r := r, ok := vj.isZero || ((vj.mul vj).div (Q.ofInt r)).le acc }
      else { vj := vj, a := a0, r := rho, ok := true }

end Sys2Proof.Machine
end

