-- ==== Sys2Proof/Machine/Traj.lean ====
section
/-! DEFINITION. The commanded position of a beam at an instant (R113, R114, R171, R175, R180, R181) and the edges of its
gate (R178, R196). -/

namespace Sys2Proof.Machine

namespace Stroke

/-- CW of an ARC. -/
def cw (st : Stroke) : Bool := st.flags.toNat / 4 % 2 == 1

/-- The geometry of the path. -/
def geo (st : Stroke) : Geo :=
  match st.kind with
  | .arc => arcGeo st.cw st.p0 st.p1 st.cen
  | _ => markGeo st.p0 st.p1

/-- The coded speed in nm/ns. -/
def v (st : Stroke) : Q := speedQ st.speed
/-- ACC in nm/ns². -/
def a (st : Stroke) : Q := accQ st.acc

/-- The end of the slot, JT. -/
def slotEnd (st : Stroke) : Nat := st.slotAt + st.tBr + st.tRu + st.tPath + st.tRo
/-- The scheduled start s: the end of the run-up, or of the positioning move of a SPOT (R22). -/
def startAt (st : Stroke) : Nat :=
  match st.kind with
  | .jump => st.slotAt
  | _ => st.slotAt + st.tBr + st.tRu
/-- The end of the path phase, JT. -/
def pathEnd (st : Stroke) : Nat :=
  match st.kind with
  | .jump => st.slotAt + st.tBr
  | _ => st.slotAt + st.tBr + st.tRu + st.tPath
/-- A MARK, ARC or SPOT. -/
def light (st : Stroke) : Bool := st.kind != .jump

/-- Where the mirror ends: Q1, the target of a JUMP, P1 of a SPOT. -/
def endPt (st : Stroke) : Pt :=
  match st.kind with
  | .jump => st.q0
  | .spot => st.p1
  | _ => if st.blendOut then st.p1 else st.q1

/-- The fraction of the sweep of an ARC at distance `d` along it: its radius changes linearly with angle, so the distance to
an angle is the integral of the radius (R121). -/
def sweepAt (g : Geo) (d : Q) : Q :=
  let k := (d.div (Q.ofInt g.len)).mul (Q.ofInt (g.r0 + g.r1))
  let root := ((Q.ofInt (g.r0 * g.r0)).add ((Q.ofInt ((g.r1 : Int) - g.r0)).mul k)).sqrtDown 30
  k.div ((Q.ofInt g.r0).add root)

/-- The distance along an ARC to a fraction of its sweep (R121). -/
def sweepLen (g : Geo) (f : Q) : Q :=
  let r := (Q.ofInt (2 * g.r0)).add (f.mul (Q.ofInt ((g.r1 : Int) - g.r0)))
  ((Q.ofInt g.len).mul (f.mul r)).div (Q.ofInt (g.r0 + g.r1))

/-- Point and unit tangent at distance `d` along the sharp path. -/
def sharpAt (st : Stroke) (d : Q) : QPt × QPt :=
  let g := st.geo
  match st.kind with
  | .arc =>
    let f := sweepAt g d
    let k := (f.mul (Q.ofInt g.th)).round
    let c := (if st.cw then (g.a0 : Int) - k else g.a0 + k) % 2 ^ 32
    let (co, si) := cosSin c.toNat
    let r := (Q.ofInt g.r0).add (f.mul (Q.ofInt ((g.r1 : Int) - g.r0)))
    ((QPt.ofPt st.cen).add (QPt.smul r (QPt.dir ⟨co, si⟩)), QPt.dir (quarter st.cw ⟨co, si⟩))
  | _ =>
    let f := d.div (Q.ofInt g.len)
    ((QPt.ofPt st.p0).add (QPt.smul f ⟨Q.ofInt (st.p1.x - st.p0.x), Q.ofInt (st.p1.y - st.p0.y)⟩), QPt.dir g.u0)

/-- The fillet of a joint with corner `p`, tangents `u1` and `u0`, half-length `fa` and radius `fr`: its departure from the
tangent line at signed distance `σ`, with its derivative (R175). -/
def filletAt (p : Pt) (u1 u0 : Pt) (fa fr : Nat) (σ : Q) : QPt × QPt :=
  let dot := u1.x * u0.x + u1.y * u0.y
  let cross := u1.x * u0.y - u1.y * u0.x
  let φ : Nat := angleOf (dot / 2 ^ 30) (cross.natAbs / 2 ^ 30 : Nat)
  let t := (σ.add (Q.ofInt fa)).div (Q.ofInt (2 * fa))
  let (co, si) := cosSin (t.mul (Q.ofInt φ)).round.toNat
  let n := QPt.dir (quarter (cross < 0) u1)
  let u := QPt.dir u1
  let c := Q.mk' co (2 ^ 30)
  let s := Q.mk' si (2 ^ 30)
  let r := Q.ofInt fr
  let t1 := (QPt.ofPt p).sub (QPt.smul (Q.ofInt fa) u)
  let f := t1.add (QPt.smul r ((QPt.smul s u).add (QPt.smul ((Q.ofInt 1).sub c) n)))
  let rate := (r.mul (Q.mk' (φ * pi96) (2 ^ 127))).div (Q.ofInt (2 * fa))
  let f' := QPt.smul rate ((QPt.smul c u).add (QPt.smul s n))
  let tang := if σ.lt ⟨0, 1⟩ then u else QPt.dir u0
  (f.sub ((QPt.ofPt p).add (QPt.smul σ tang)), f'.sub tang)

/-- Position and velocity in the path phase at distance `d`, speed `w`, with the fillets at both ends. -/
def pathAt (st : Stroke) (prev next : Option Stroke) (d w : Q) : QPt × QPt :=
  let (p, u) := st.sharpAt d
  let l := Q.ofInt st.geo.len
  let dep : QPt × QPt :=
    match next with
    | some n =>
      if st.blendOut ∧ st.filA ≠ 0 ∧ (l.sub (Q.ofInt st.filA)).le d then
        filletAt st.p1 st.geo.u1 n.geo.u0 st.filA st.filR (d.sub l)
      else (QPt.zero, QPt.zero)
    | none => (QPt.zero, QPt.zero)
  let dep : QPt × QPt :=
    match prev with
    | some m =>
      if st.blendIn ∧ m.filA ≠ 0 ∧ d.le (Q.ofInt m.filA) then
        filletAt st.p0 m.geo.u1 st.geo.u0 m.filA m.filR d
      else dep
    | none => dep
  (p.add dep.1, QPt.smul w (u.add dep.2))

/-- The straight move from `m0` to `q`, at exact time `t`. -/
def moveAt (m0 q : Pt) (v a t : Q) : QPt × QPt :=
  let d := dist m0 q
  if d = 0 then (QPt.ofPt q, QPt.zero)
  else match pathPlan (Q.ofInt d) ⟨0, 1⟩ ⟨0, 1⟩ v a with
    | none => (QPt.ofPt q, QPt.zero)
    | some p =>
      let (s, w) := p.at (Q.ofInt d) ⟨0, 1⟩ ⟨0, 1⟩ a t
      let e : QPt := ⟨Q.mk' (q.x - m0.x) d, Q.mk' (q.y - m0.y) d⟩
      ((QPt.ofPt m0).add (QPt.smul s e), QPt.smul w e)

/-- Exact time in a phase of rounded length `n` and exact length `e`, `t` ns after its begin (R116). -/
def scaled (t : Q) (e : Q) (n : Nat) : Q := if n = 0 then ⟨0, 1⟩ else t.mul (e.div (Q.ofInt n))

/-- What the scaling makes of a velocity in such a phase (R116, R180). -/
def rated (v : QPt × QPt) (e : Q) (n : Nat) : QPt × QPt :=
  if n = 0 then v else (v.1, QPt.smul (e.div (Q.ofInt n)) v.2)

/-- The positioning move of a SPOT: half the time speeding up, half slowing down, at ACC. -/
def spotMove (m0 q : Pt) (a t : Q) : QPt × QPt :=
  let d := dist m0 q
  if d = 0 then (QPt.ofPt q, QPt.zero)
  else
    let th := ((Q.ofInt d).div a).sqrtDown 16
    let p : PathPlan := ⟨th, ⟨0, 1⟩, th, a.mul th⟩
    let (s, w) := p.at (Q.ofInt d) ⟨0, 1⟩ ⟨0, 1⟩ a t
    let e : QPt := ⟨Q.mk' (q.x - m0.x) d, Q.mk' (q.y - m0.y) d⟩
    ((QPt.ofPt m0).add (QPt.smul s e), QPt.smul w e)

/-- Position and velocity at JT `t` inside the slot: a phase contains its first instant and not its last (R180). -/
def kinAt (st : Stroke) (prev next : Option Stroke) (t : Q) : QPt × QPt :=
  let r := t.sub (Q.ofInt st.slotAt)
  if r.lt (Q.ofInt st.tBr) then
    match st.kind with
    | .spot =>
      let e := (Q.ofInt 2).mul (((Q.ofInt (dist st.m0 st.p1)).div st.a).sqrtDown 16)
      rated (spotMove st.m0 st.p1 st.a (scaled r e st.tBr)) e st.tBr
    | _ =>
      let e := match pathPlan (Q.ofInt (dist st.m0 st.q0)) ⟨0, 1⟩ ⟨0, 1⟩ st.v st.a with
        | some p => p.exact
        | none => Q.ofInt st.tBr
      rated (moveAt st.m0 st.q0 st.v st.a (scaled r e st.tBr)) e st.tBr
  else
    let r := r.sub (Q.ofInt st.tBr)
    match st.kind with
    | .jump => (QPt.ofPt st.q0, QPt.zero)
    | .spot => (QPt.ofPt st.p1, QPt.zero)
    | _ =>
      let g := st.geo
      if r.lt (Q.ofInt st.tRu) then
        let e := (Q.ofInt (2 * st.runup)).div st.v
        let x := scaled r e st.tRu
        let acc := st.v.div e
        let u := QPt.dir g.u0
        rated ((QPt.ofPt st.q0).add (QPt.smul ((Q.mk' 1 2).mul (acc.mul (x.mul x))) u), QPt.smul (acc.mul x) u) e st.tRu
      else
        let r := r.sub (Q.ofInt st.tRu)
        if r.lt (Q.ofInt st.tPath) then
          match pathPlan (Q.ofInt g.len) st.vIn st.vOut st.v st.a with
          | none => (QPt.ofPt st.p0, QPt.zero)
          | some p =>
            let (d, w) := p.at (Q.ofInt g.len) st.vIn st.vOut st.a (scaled r p.exact st.tPath)
            rated (st.pathAt prev next d w) p.exact st.tPath
        else
          let r := r.sub (Q.ofInt st.tPath)
          if r.lt (Q.ofInt st.tRo) then
            let e := (Q.ofInt (2 * st.runout)).div st.v
            let x := scaled r e st.tRo
            let acc := st.v.div e
            let u := QPt.dir g.u1
            rated ((QPt.ofPt st.p1).add (QPt.smul ((st.v.mul x).sub ((Q.mk' 1 2).mul (acc.mul (x.mul x)))) u),
              QPt.smul (st.v.sub (acc.mul x)) u) e st.tRo
          else (QPt.ofPt st.endPt, QPt.zero)

/-- Focus at JT `t`: it ramps over the move of the stroke after a FOCUS (R134). -/
def zAt (st : Stroke) (t : Nat) : Q :=
  let z0 := st.z0.toInt
  let z1 := st.z1.toInt
  if t < st.slotAt + st.tBr then (Q.ofInt z0).add (Q.mk' ((z1 - z0) * ((t - st.slotAt : Nat) : Int)) st.tBr)
  else Q.ofInt z1

end Stroke

namespace State

/-- The stroke of beam `b` whose slot contains or precedes JT `t`, with its neighbours. -/
def strokeAt (l : List Stroke) (t : Q) (prev : Option Stroke := none) : Option (Option Stroke × Stroke × Option Stroke) :=
  match l with
  | [] => none
  | st :: rest =>
    if t.lt (Q.ofInt st.slotAt) then none
    else
      match strokeAt rest t (some st) with
      | some r => some r
      | none => some (prev, st, rest.head?)

/-- Position and velocity in the ramp or the hold of a stop (R180, R181). -/
def stopAt (m : StopMove) (t : Q) : QPt × QPt :=
  let r := (t.sub (Q.ofInt m.t0)).min m.dur
  let k := if m.dur.isZero then ⟨0, 1⟩ else r.sub ((r.mul r).div ((Q.ofInt 2).mul m.dur))
  let f := if m.dur.isZero then ⟨0, 1⟩ else (Q.ofInt 1).sub (r.div m.dur)
  (m.from_.add (QPt.smul k ⟨m.vx, m.vy⟩), QPt.smul f ⟨m.vx, m.vy⟩)

/-- Position and velocity at extended tick `t` by the strokes of a course with start tick `s0`; `m` outside any slot
(R171). -/
def runAt (m : Pt) (s0 : Nat) (l : List Stroke) (t : Q) : QPt × QPt :=
  let j := t.sub (Q.ofInt s0)
  match strokeAt l j with
  | none => (QPt.ofPt m, QPt.zero)
  | some (p, st, n) => if j.lt (Q.ofInt st.slotEnd) then st.kinAt p n j else (QPt.ofPt st.endPt, QPt.zero)

/-- A plan with the stop that takes it over (R180, R181). -/
def stopped (move : Option StopMove) (t : Q) (plan : QPt × QPt) : QPt × QPt :=
  match move with
  | some m => if t.lt (Q.ofInt m.t0) then plan else stopAt m t
  | none => plan

/-- V_POS and A_POS of a word of JOB_POS. -/
def posV (w : Word) : Q := speedQ (oneIfZero (fld w 31 16) * 1000)
def posA (w : Word) : Q := accQ (oneIfZero (fld w 15 0))

/-- JOB_POS as the preparation of beam `b` uses it (R149). -/
def posWord (s : State) (b : Beam) : Word :=
  match (s.be[b]).job with
  | some n => (s.js n).prepCfg[0]
  | none => s.rd R.JOB_POS

/-- Position and velocity in the positioning before S, or by the strokes of the FIFO (R149, R171). -/
def planAt (s : State) (b : Beam) (t : Q) : QPt × QPt :=
  let e := s.be[b]
  match e.posFrom with
  | some (t0, p) =>
    if t.lt (Q.ofInt e.posEnd) then
      Stroke.moveAt p e.m (posV (s.posWord b)) (posA (s.posWord b)) (t.sub (Q.ofInt t0))
    else (QPt.ofPt e.m, QPt.zero)
  | none =>
    let st? : Option Nat := match e.job with
      | some j => (s.js j).s
      | none => none
    match st? with
    | none => (QPt.ofPt e.m, QPt.zero)
    | some s0 => runAt e.m s0 e.fifo t

/-- Commanded position and velocity of a beam at extended tick `t`, ns and fractions of it: an instant of the last job's
course lies on that (R171, R180, R242). -/
def posAt (s : State) (b : Beam) (t : Q) : QPt × QPt :=
  let now := stopped (s.be[b]).move t (s.planAt b t)
  match (s.be[b]).past with
  | some c => if t.lt (Q.ofInt c.until_) then stopped c.move t (runAt c.m c.s0 c.fifo t) else now
  | none => now

/-- Commanded bed position now, whole nm. -/
def pos (s : State) (b : Beam) : Pt := (s.posAt b (Q.ofInt s.tick)).1.round

/-- The gate of beam `b` is open by its engine's edges at tick `t` (R178, R179). -/
def gateOpen (s : State) (b : Beam) (t : Nat) : Bool :=
  (s.be[b]).gates.any fun g => g.on_ ≤ 8 * (t : Int) && (match g.off with
    | some o => 8 * (t : Int) < o
    | none => true)

end State

end Sys2Proof.Machine
end

