-- ==== Sys2Proof/Machine/Field.lean ====
section
/-! DEFINITION. Field-correction sets and the conversion of a bed position to head units (R172 to R174, R338, R339,
R342, R343). -/

namespace Sys2Proof.Machine

/-- Bytes of a set (R338). -/
def setBytes : Nat := 545356

/-- The device address of set slot `q` (R339). -/
def setBase (q : Nat) : Nat := 0x2000000 + q * 0xA0000

/-- The bilinear weight place of a coordinate in a grid of `n` cells: node and 16-bit fraction, saturated to the edge
(R172). -/
def gridPlace (c : Q) (n : Nat) : Nat × Nat :=
  let f := c.floor
  if f < 0 then (0, 0)
  else if (n : Int) ≤ f then (n - 1, 65536)
  else (f.toNat, ((c.sub (Q.ofInt f)).mul (Q.ofInt 65536)).floor.toNat)

/-- The bilinear sum of four nodes, in units of 2^-32 (R172). -/
def bilin (fx fy : Nat) (n00 n10 n01 n11 : Int) : Int :=
  let gx : Int := 65536 - fx
  let gy : Int := 65536 - fy
  gx * gy * n00 + fx * gy * n10 + gx * fy * n01 + fx * fy * n11

namespace State

/-- The set slots of head `n` (R339). -/
def headSlots (s : State) (n : Nat) : List Nat :=
  if s.small then [4 * n, 4 * n + 1, 4 * n + 2, 4 * n + 3] else [2 * n, 2 * n + 1]

/-- The slot of set `k` of head `n`. -/
def setSlot (s : State) (n k : Nat) : Nat := if s.small then 4 * n + k else 2 * n + k

/-- The head that owns a slot; none where no beam of the part has it. -/
def slotHead (s : State) (q : Nat) : Option Nat :=
  let h := if s.small then q / 4 else q / 2
  if s.beamOn h then some h else none

/-- VALID of a slot. -/
def setValid (s : State) (q : Nat) : Bool := (vget? s.cal.valid q).getD false

/-- A signed 32-bit field of a set. -/
def setI32 (s : State) (q off : Nat) : Int := sext 32 (s.rdN (setBase q + off) 4)
/-- TEMP of a set, sQ8.7. -/
def setTemp (s : State) (q : Nat) : Int := sext 16 (s.rdN (setBase q + 20) 2)
/-- PITCH of a set. -/
def setPitch (s : State) (q : Nat) : Nat := oneIfZero (s.rdN (setBase q + 16) 4)

/-- The set that the choice of R342 takes as LO and as HI, with w, at the present head temperature. -/
def chooseSets (s : State) (n : Beam) : Nat × Nat × Nat :=
  if s.small then
    let t := (s.cal.head[n]).temp
    let ks := [0, 1, 2, 3].filter fun k => s.setValid (4 * n.val + k)
    let tk (k : Nat) := s.setTemp (4 * n.val + k)
    let best (l : List Nat) (better : Int → Int → Bool) : Option Nat :=
      l.foldl (fun a k => match a with
        | none => some k
        | some j => if better (tk k) (tk j) then some k else some j) none
    let lo := best (ks.filter fun k => tk k ≤ t) (fun a b => b < a)
    let hi := best (ks.filter fun k => t < tk k) (fun a b => a < b)
    match lo, hi with
    | some l, some h => (l, h, (((t - tk l) * 65536) / (tk h - tk l)).toNat)
    | some l, none => (l, l, 0)
    | none, _ => let l := (best ks (fun a b => a < b)).getD 0; (l, l, 0)
  else
    let k := (s.cal.head[n]).active
    (k, k, 0)

/-- The sets in service of head `n`: those drawn at the preparation begin, else the present choice. -/
def setsOf (s : State) (n : Beam) : Nat × Nat × Nat := (s.cal.head[n]).drawn.getD (s.chooseSets n)

/-- A head has a valid set (R344). -/
def hasSet (s : State) (n : Beam) : Bool :=
  if s.small then (s.headSlots n.val).any s.setValid else s.setValid (2 * n.val + (s.cal.head[n]).active)

/-- A slot whose header bounds the field of head `n` (R344). -/
def fieldSlot (s : State) (n : Beam) : Nat := s.setSlot n.val (s.setsOf n).1

/-- PZ saturated to the Z range of the head's focus grid (R134, R174). -/
def satZ (s : State) (n : Beam) (z : Int) : Int :=
  let q := s.fieldSlot n
  max (s.setI32 q 28) (min (s.setI32 q 32) z)

/-- The same of a PZ within a ramp. -/
def satZq (s : State) (n : Beam) (z : Q) : Q :=
  let q := s.fieldSlot n
  (Q.ofInt (s.setI32 q 28)).max ((Q.ofInt (s.setI32 q 32)).min z)

/-- Head units X, Y of a bed point under set `q` (R172). -/
def headXY (s : State) (q : Nat) (p : QPt) : Int × Int :=
  let pit := Q.ofInt (s.setPitch q)
  let (i, fx) := gridPlace ((p.x.sub (Q.ofInt (s.setI32 q 8))).div pit) 256
  let (j, fy) := gridPlace ((p.y.sub (Q.ofInt (s.setI32 q 12))).div pit) 256
  let node (i j o : Nat) := s.setI32 q (64 + 8 * (257 * j + i) + o)
  let h (o : Nat) := satS 32 (rshr (bilin fx fy (node i j o) (node (i + 1) j o) (node i (j + 1) o)
    (node (i + 1) (j + 1) o)) 32)
  (h 0, h 4)

/-- The focus command of a bed point and PZ under set `q` (R174). -/
def headZ (s : State) (q : Nat) (p : QPt) (pz : Q) : Int :=
  let pit := Q.ofInt (4 * s.setPitch q)
  let (i, fx) := gridPlace ((p.x.sub (Q.ofInt (s.setI32 q 8))).div pit) 64
  let (j, fy) := gridPlace ((p.y.sub (Q.ofInt (s.setI32 q 12))).div pit) 64
  let node (i j : Nat) := s.setI32 q (528456 + 4 * (65 * j + i))
  satS 32 ((Q.mk' (bilin fx fy (node i j) (node (i + 1) j) (node i (j + 1)) (node (i + 1) (j + 1))) (2 ^ 32)).add
    (pz.mul (Q.mk' (s.setI32 q 24) (2 ^ 16)))).round

/-- The blend of two sets' results (R342). -/
def blend (w : Nat) (lo hi : Int) : Int := satS 32 (rshr ((65536 - (w : Int)) * lo + w * hi) 16)

/-- The drift correction in head units, the whole sum rounded once (R173). -/
def driftXY (m : Vector Word 6) (hx hy : Int) : Int × Int :=
  (satS 32 (rshr ((m[0]).toInt * hx + (m[1]).toInt * hy + (m[4]).toInt * 2 ^ 30) 30),
   satS 32 (rshr ((m[2]).toInt * hx + (m[3]).toInt * hy + (m[5]).toInt * 2 ^ 30) 30))

/-- Head units X, Y and focus of a bed point (R172 to R174, R342). -/
def headUnits (s : State) (n : Beam) (p : QPt) (pz : Q) : Int × Int × Int :=
  let (lo, hi, w) := s.setsOf n
  let ql := s.setSlot n.val lo
  let qh := s.setSlot n.val hi
  let (xl, yl) := s.headXY ql p
  let (xh, yh) := s.headXY qh p
  let z := s.satZq n pz
  let (x, y) := driftXY (s.cal.head[n]).eng (blend w xl xh) (blend w yl yh)
  (x, y, blend w (s.headZ ql p z) (s.headZ qh p z))

/-- The focus of beam `b` at a tick: in positioning, where it moves in parallel (R149), by the strokes of its job, or outside
any slot. -/
def focusQ (s : State) (b : Beam) (t : Nat) : Q :=
  let e := s.be[b]
  let st? : Option Nat := match e.job with
    | some j => (s.js j).s
    | none => none
  match e.past.filter (fun c => decide (t < c.until_)), e.posFrom, st? with
  | some c, _, _ =>
    match strokeAt c.fifo ((Q.ofInt t).sub (Q.ofInt c.s0)) with
    | none => Q.ofInt e.mz.toInt
    | some (_, st, _) => st.zAt (t - c.s0)
  | none, some (t0, _), _ =>
    let z0 : Pt := ⟨e.zStart.toInt, 0⟩
    let z1 : Pt := ⟨e.mz.toInt, 0⟩
    let v := posV (s.posWord b)
    let a := posA (s.posWord b)
    if t < t0 + moveNs (dist z0 z1) v a then (Stroke.moveAt z0 z1 v a (Q.ofInt (t - t0 : Nat))).1.x else Q.ofInt z1.x
  | none, none, none => Q.ofInt e.mz.toInt
  | none, none, some s0 =>
    match strokeAt e.fifo ((Q.ofInt t).sub (Q.ofInt s0)) with
    | none => Q.ofInt e.mz.toInt
    | some (_, st, _) => st.zAt (t - s0)

/-- The same in whole nm. -/
def focusAt (s : State) (b : Beam) (t : Nat) : Int := (s.focusQ b t).round

end State

end Sys2Proof.Machine
end

