-- ==== Sys2Proof/Machine/Flags.lean ====
section
/-! DEFINITION. Results and flags of the integer group (R127) and the branch conditions (R131). -/

namespace Sys2Proof.Machine

/-- What an integer instruction computes: its result, whether it writes it, and its flags; `none` keeps a flag. -/
structure AluRes where
  res   : Word
  write : Bool
  c     : Option Bool
  v     : Option Bool
  deriving DecidableEq, Repr

/-- Signed overflow of a sum. -/
def addOvf (a b r : Word) : Bool := a.msb == b.msb && r.msb != a.msb

/-- Signed overflow of a difference. -/
def subOvf (a b r : Word) : Bool := a.msb != b.msb && r.msb != a.msb

/-- The signed 64-bit product. -/
def sprod (a b : Word) : Int := a.toInt * b.toInt

/-- The last bit shifted out by `n` places to the left, 0 for none. -/
def outLeft (a : Word) (n : Nat) : Bool := n != 0 && bit a (32 - n)

/-- The last bit shifted out by `n` places to the right, 0 for none. -/
def outRight (a : Word) (n : Nat) : Bool := n != 0 && bit a (n - 1)

/-- Result, C and V of an operation on ra and src (R127). -/
def aluRes (op : AluOp) (a b : Word) : AluRes :=
  let n := b.toNat % 32
  match op with
  | .mov => ⟨b, true, none, none⟩
  | .add => ⟨a + b, true, some (decide (2 ^ 32 ≤ a.toNat + b.toNat)), some (addOvf a b (a + b))⟩
  | .sub => ⟨a - b, true, some (decide (b.toNat ≤ a.toNat)), some (subOvf a b (a - b))⟩
  | .cmp => ⟨a - b, false, some (decide (b.toNat ≤ a.toNat)), some (subOvf a b (a - b))⟩
  | .mul =>
    let p := sprod a b
    ⟨i32 p, true, some false, some (decide (p < -2 ^ 31 ∨ 2 ^ 31 ≤ p))⟩
  | .mulh => ⟨i32 (sprod a b / 2 ^ 32), true, some false, some false⟩
  | .band => ⟨a &&& b, true, some false, some false⟩
  | .bor => ⟨a ||| b, true, some false, some false⟩
  | .bxor => ⟨a ^^^ b, true, some false, some false⟩
  | .shl => ⟨a <<< n, true, some (outLeft a n), some false⟩
  | .shr => ⟨a >>> n, true, some (outRight a n), some false⟩
  | .sar => ⟨a.sshiftRight n, true, some (outRight a n), some false⟩

/-- Whether a branch condition holds on the flags; 15 is rejected by admission (R131). -/
def condHolds (cond : Nat) (z n c v : Bool) : Bool :=
  match cond with
  | 0 => true
  | 1 => z
  | 2 => !z
  | 3 => c
  | 4 => !c
  | 5 => n
  | 6 => !n
  | 7 => v
  | 8 => !v
  | 9 => c && !z
  | 10 => !c || z
  | 11 => n == v
  | 12 => n != v
  | 13 => !z && n == v
  | 14 => z || n != v
  | _ => false

/-- The flags that a condition reads, as places Z, N, C, V. -/
def condReads (cond : Nat) : List Nat :=
  match cond with
  | 0 => []
  | 1 | 2 => [0]
  | 3 | 4 => [2]
  | 5 | 6 => [1]
  | 7 | 8 => [3]
  | 9 | 10 => [2, 0]
  | 11 | 12 => [1, 3]
  | _ => [0, 1, 3]

end Sys2Proof.Machine
end

