-- ==== Sys2Proof/Machine/Operands.lean ====
section
/-! DEFINITION. The operand forms of the Pellin instructions over the decode state, and the effects on it that need
nothing else of the block (R112, R113, R127 to R135). -/

namespace Sys2Proof.Machine

/-- The operands of a stroke once its register forms are resolved (R111 to R113, R133). -/
structure StrokeOps where
  p1      : Pt
  cen     : Pt
  speed   : Nat
  power   : Nat
  profile : Nat
  deriving DecidableEq, Repr

/-- FLAGS of a stroke (R111). -/
def fRel (f : BitVec 8) : Bool := nbit f.toNat 7
def fRegXY (f : BitVec 8) : Bool := nbit f.toNat 6
def fRegSpd (f : BitVec 8) : Bool := nbit f.toNat 5
def fRegPwr (f : BitVec 8) : Bool := nbit f.toNat 4
def fNoBlend (f : BitVec 8) : Bool := nbit f.toNat 3
def fCw (f : BitVec 8) : Bool := nbit f.toNat 2

/-- P_stroke = POWER × P_SCALE / 0x8000, rounded and saturated (R133). -/
def scaled16 (power scale : Nat) : Nat := satN 16 (rdiv (power * scale : Nat) 0x8000).toNat

namespace PState

/-- A general register. -/
def gr (p : PState) (r : Fin 16) : Word := p.g[r]

/-- The register whose number is in the low 4 bits of a field. -/
def grN (p : PState) (n : Nat) : Word := p.g[n % 16]'(Nat.mod_lt _ (by decide))

/-- `p` with a general register written. -/
def setG (r : Fin 16) (v : Word) (p : PState) : PState := { p with g := p.g.set r.val v }

/-- src of the integer group: IMM32 or G(RB). -/
def src (p : PState) (a : IntArgs) : Word := if a.imm then a.imm32 else p.gr a.rb

/-- A point word of a stroke: values, or register numbers with REG_XY; offsets with REL (R112, R113). -/
def pointOf (p : PState) (f : BitVec 8) (w : DWord) : Pt :=
  let x : Word := if fRegXY f then p.grN (w.toNat / 2 ^ 32) else w32 (w.toNat / 2 ^ 32)
  let y : Word := if fRegXY f then p.grN w.toNat else w32 w.toNat
  if fRel f then ⟨(p.px + x).toInt, (p.py + y).toInt⟩ else ⟨x.toInt, y.toInt⟩

/-- The operands of a stroke as decode reads them (R112). -/
def strokeOps (p : PState) (a : StrokeArgs) : StrokeOps :=
  let spd := if fRegSpd a.flags then (p.grN a.speed.toNat).toNat % 2 ^ 24 else a.speed.toNat
  let pwr := if fRegPwr a.flags then (p.grN a.power.toNat).toNat % 2 ^ 16 else a.power.toNat
  { p1 := p.pointOf a.flags a.w1, cen := p.pointOf a.flags a.w2, speed := spd, power := scaled16 pwr p.pScale,
    profile := a.profile.toNat }

/-- Idle time that the window's instructions cost so far (R91). -/
def idle (p : PState) : Nat := 2 * (p.window - 48)

/-- The program time at the last instruction counted (R78, R126). -/
def time (p : PState) : Nat := p.progEnd + p.idle + p.waits

/-- One more control instruction in the window (R91). -/
def count (p : PState) : PState := { p with window := p.window + 1 }

/-- The key of the next instruction: its place and the iteration of every open loop. -/
def key (p : PState) : Key := { pc := p.pc, iters := p.loops.map (·.iter) }

/-- Z and N of a result, and a result's C and V where it sets them (R127). -/
def setFlags (r : AluRes) (p : PState) : PState :=
  { p with z := r.res = 0, n := r.res.msb, c := r.c.getD p.c, v := r.v.getD p.v }

/-- A result with its register and flags (R127). -/
def put (rd : Fin 16) (r : AluRes) (p : PState) : PState :=
  let q := p.setFlags r
  if r.write then q.setG rd r.res else q

/-- The two-operand integer instructions; counted, and the pc moves to the next word (R127). -/
def alu (op : AluOp) (a : IntArgs) (p : PState) : PState :=
  { (p.put a.rd (aluRes op (p.gr a.ra) (p.src a))) with pc := p.pc + 1, window := p.window + 1 }

/-- The scratch offset of LD and ST (R79, R127). -/
def scratchOf (p : PState) (a : IntArgs) : Nat := (p.gr a.ra + a.imm32).toNat % 65536 / 4 * 4

/-- A value loaded into a register, with Z and N (R127). -/
def load (rd : Fin 16) (v : Word) (p : PState) : PState :=
  { (p.put rd ⟨v, true, none, none⟩) with pc := p.pc + 1, window := p.window + 1 }

/-- The value that RDP selects, at its own program time (R128). -/
def rdpVal (p : PState) (sel : Nat) : Word :=
  let t := p.count.time
  if sel = 0 then p.px else if sel = 1 then p.py else if sel = 2 then p.pz
  else if sel = 3 then w32 t else if sel = 4 then w32 (t / 2 ^ 32 % 2 ^ 16) else 0

/-- LOOP: the count it takes, and whether it was clamped (R98, R129). -/
def loopCount (p : PState) (creg : Bool) (rc : Fin 16) (bound : BitVec 24) : Nat × Bool :=
  let n := if creg then (p.gr rc).toNat else bound.toNat
  (min n bound.toNat, bound.toNat < n)

/-- LOOP enters its body or, for a count of 0, goes past its ENDL (R129). -/
def loopStep (n : Nat) (body : BitVec 24) (p : PState) : PState :=
  if n = 0 then { p with pc := p.pc + body.toNat + 1, window := p.window + 1 }
  else
    { p with loops := { start := p.pc + 1, remaining := n, iter := 0 } :: p.loops, pc := p.pc + 1,
             window := p.window + 1 }

/-- ENDL: back to the body start, or out of the loop (R130). -/
def endlStep (p : PState) : PState :=
  match p.loops with
  | [] => { p with pc := p.pc + 1, window := p.window + 1 }
  | e :: rest =>
    if e.remaining ≤ 1 then { p with loops := rest, pc := p.pc + 1, window := p.window + 1 }
    else
      { p with loops := { e with remaining := e.remaining - 1, iter := e.iter + 1 } :: rest, pc := e.start,
               window := p.window + 1 }

/-- BR (R131). -/
def brStep (cond : Fin 16) (offset : BitVec 24) (p : PState) : PState :=
  let taken := condHolds cond.val p.z p.n p.c p.v
  { p with pc := if taken then p.pc + offset.toNat else p.pc + 1, window := p.window + 1 }

/-- WAITT: the wait until its target, 0 for a target in the past (R126). -/
def waittStep (rel : Bool) (target : BitVec 48) (p : PState) : PState :=
  let t := p.count.time
  let goal := if rel then t + target.toNat else target.toNat
  { p with pc := p.pc + 1, window := p.window + 1, waits := p.waits + (goal - t) }

/-- PSET: a process scale for the strokes that follow (R133). -/
def psetStep (reg : Bool) (rs sel : Fin 16) (imm32 : Word) (p : PState) : PState :=
  let v := satN 16 (if reg then p.gr rs else imm32).toNat
  let q : PState := { p with pc := p.pc + 1, window := p.window + 1 }
  match sel.val with
  | 0 => { q with pScale := v }
  | 1 => { q with irefScale := v }
  | 2 => { q with fbHold := v % 2 == 1 }
  | _ => q

/-- The value that FOCUS gives PZ, before the saturation to the head's range (R134). -/
def focusVal (p : PState) (reg rel : Bool) (rs : Fin 16) (imm32 : Word) : Word :=
  let v := if reg then p.gr rs else imm32
  if rel then p.pz + v else v

/-- FOCUS: PZ, and the ramp over the next move (R134). -/
def focusStep (v : Word) (p : PState) : PState :=
  { p with pz := v, zFrom := if p.focusPend then p.zFrom else p.pz, focusPend := true, pc := p.pc + 1,
           window := p.window + 1 }

/-- An LGQ result in its register and flags (R103, R132). -/
def lgqStep (rd : Fin 16) (v : Word) (p : PState) : PState :=
  { (p.setG rd v) with z := v.toNat % 2 ^ 24 = 0, n := false, c := false, v := false, pc := p.pc + 1,
                       window := p.window + 1 }

/-- The number of instances of a barrier passed (R101). -/
def passedOf (p : PState) (id : Nat) : Nat := sval 0 id p.passed

/-- A MUSTER or ZACQ with its scheduled wait (R92). -/
def waitStep (w : Nat) (p : PState) : PState :=
  { p with pc := p.pc + 1, window := p.window + 1, waits := p.waits + w }

/-- A ZACQ that asks for a set, with its scheduled wait (R92, R105, R123). -/
def zacqStep (set w : Nat) (p : PState) : PState := { (p.waitStep w) with held := some set }

/-- A control instruction that only goes on to the next word. -/
def pass (p : PState) : PState := { p.count with pc := p.pc + 1 }

/-- A MUSTER, with its scheduled wait: one more instance of its ID is passed (R92, R100). -/
def musterStep (id w : Nat) (p : PState) : PState := { (p.waitStep w) with passed := sput id (p.passedOf id + 1) p.passed }

end PState

end Sys2Proof.Machine
end

