-- ==== Sys2Proof/Machine/StrokeOps.lean ====
section
/-! DEFINITION. From stroke words to a timed stroke, shared by the walk and the decode stage (R113 to R118, R120 to R122,
R175, R184). -/

namespace Sys2Proof.Machine

/-- The words of a stroke kind. -/
def StrokeKind.words : StrokeKind → Nat
  | .arc => 3
  | _ => 2

/-- The 64-bit words of an instruction (R110). -/
def instrWords : PInstr → Nat
  | .arc _ => 3
  | .mark _ | .jump _ | .spot _ => 2
  | _ => 1

/-- MARK or ARC. -/
def StrokeKind.isPath : StrokeKind → Bool
  | .mark | .arc => true
  | _ => false

namespace Stroke

/-- The path time at the present end speeds (R115, R116). -/
def pathNs (st : Stroke) : Nat :=
  match pathPlan (Q.ofInt st.geo.len) st.vIn st.vOut st.v st.a with
  | some p => upNs p.exact
  | none => 0

/-- The exact time from the path's begin at which the path has covered `d` (R185). -/
def timeTo (st : Stroke) (d : Q) : Q :=
  match pathPlan (Q.ofInt st.geo.len) st.vIn st.vOut st.v st.a with
  | none => ⟨0, 1⟩
  | some p =>
    let a := st.a
    let two := Q.ofInt 2
    let da := (st.vIn.mul p.ta).add ((a.mul (p.ta.mul p.ta)).div two)
    let dc := da.add (p.vp.mul p.tc)
    let e :=
      if d.lt da then
        (((st.vIn.mul st.vIn).add ((two.mul a).mul d)).sqrtDown 16 |>.sub st.vIn).div a
      else if d.lt dc then p.ta.add ((d.sub da).div p.vp)
      else
        let r := (Q.ofInt st.geo.len).sub d
        p.exact.sub ((((st.vOut.mul st.vOut).add ((two.mul a).mul r)).sqrtDown 16 |>.sub st.vOut).div a)
    if p.exact.isZero then e else e.mul ((Q.ofInt st.tPath).div p.exact)

/-- What the skip of a rejoin overlap adds to the gate-on: the time to the stop point, 125 ps (R185). -/
def skipNs (st : Stroke) : Int := if st.skip then ((st.timeTo (Q.ofInt st.back)).mul (Q.ofInt 8)).round else 0

/-- The scheduled gate edges: of the first and of the last stroke of a chain only (R118, R185). -/
def withGates (st : Stroke) : Stroke :=
  { st with
    gOn := if st.light && !st.blendIn then some (8 * (st.startAt : Int) + st.lon + st.skipNs) else none
    gOff := if st.light && !st.blendOut then some (8 * (st.pathEnd : Int) + st.loff) else none }

/-- A stroke from its operands, before anything is known of its neighbours: no phase is timed, M is `m` (R113, R114). -/
def raw (kind : StrokeKind) (a : StrokeArgs) (o : StrokeOps) (f : Prof) (p : PState) (p0 m : Pt) : Stroke :=
  let v0 := speedQ o.speed
  let st : Stroke :=
    { kind := kind, flags := a.flags, key := p.key, snap := p, undo := [], slotAt := 0, tBr := 0, tRu := 0, tPath := 0,
      tRo := 0, m0 := m, q0 := o.p1, p0 := p0, p1 := o.p1, cen := o.cen, q1 := o.p1, speed := o.speed
      vIn := if f.runup = 0 then ⟨0, 1⟩ else v0, vOut := if f.runout = 0 then ⟨0, 1⟩ else v0, acc := f.acc
      runup := f.runup, runout := f.runout, tol := f.tol, lon := f.lon, loff := f.loff, blendIn := false
      blendOut := false, fixed := false, filA := 0, filR := 0, gOn := none, gOff := none, power := o.power
      profile := o.profile, irefScale := p.irefScale, fbHold := p.fbHold, z0 := p.pz, z1 := p.pz, began := false
      tau := 0, onDone := false, offDone := false, isRerun := false, back := 0, skip := false }
  let st := if kind.isPath then st
    else { st with z0 := if p.focusPend then p.zFrom else p.pz }
  if kind.isPath then
    let g := st.geo
    { st with q0 := along p0 g.u0 (-(f.runup : Int)), q1 := along o.p1 g.u1 f.runout }
  else st

/-- The joint of two paths. -/
def joint (x y : Stroke) : Joint :=
  jointOf x.geo.u1 y.geo.u0 x.tol y.tol x.acc y.acc x.v y.v x.geo.len y.geo.len

/-- The forms alone allow a blended joint of `x` into `y` (R117). -/
def mayBlend (x y : Stroke) : Bool :=
  x.kind.isPath && y.kind.isPath && !fNoBlend x.flags && x.tol != 0 && y.tol != 0 && !y.isRerun

/-- The last stroke once its successor is known: a blended joint ends it at the joint speed, and a JUMP goes to the
successor's run-up start (R115, R117). -/
def closeWith (x y : Stroke) (blend : Bool) : Stroke :=
  let x :=
    if blend then
      let j := joint x y
      let x := { x with blendOut := true, vOut := j.vj, tRo := 0, filA := j.a, filR := j.r }
      { x with tPath := x.pathNs }
    else if x.kind = .jump ∧ y.kind.isPath ∧ y.runup ≠ 0 then
      { x with q0 := y.q0, tBr := moveNs (dist x.m0 y.q0) x.v x.a }
    else x
  { x.withGates with fixed := true }

/-- The phases of a stroke that begins at `at_` with the mirror at `m` (R114, R117, R120 to R122). -/
def timed (st : Stroke) (at_ : Nat) (m : Pt) (blendIn : Option Joint) : Stroke :=
  let st := { st with slotAt := at_, m0 := m }
  let st :=
    match st.kind with
    | .jump => { st with tBr := moveNs (dist m st.q0) st.v st.a }
    | .spot => { st with tBr := tPosNs (dist m st.p1) st.a, tPath := st.speed }
    | _ =>
      match blendIn with
      | some j =>
        let st := { st with blendIn := true, vIn := j.vj, tRo := rampNs st.runout st.v }
        { st with tPath := st.pathNs }
      | none =>
        { st with
          tBr := moveNs (dist m st.q0) st.v st.a, tRu := rampNs st.runup st.v, tRo := rampNs st.runout st.v
          tPath := st.pathNs }
  st.withGates

end Stroke

/-- How a remainder reruns its first stroke (R184): a dwell's remainder, or the rejoin point with the path from there to
the stop point. -/
inductive Rejoin where
  | dwell (ns : Nat)
  | path (from_ : Pt) (back : Nat)
  deriving DecidableEq, Repr

/-- The rejoin that a stop record asks for: a stroke interrupted in its path goes back by the overlap in force at the stop
along its own path, never before its P0; a rerun stroke that had not begun starts whole (R183, R184, R186). -/
def StopRec.rejoin (r : StopRec) : Option Rejoin :=
  r.src.map fun (kind, rem, st) =>
    if st.kind = .spot then .dwell (if kind = 3 then rem else st.speed)
    else if kind = 2 then
      let stop := st.geo.len - rem
      let back := min stop r.ovl
      .path (if stop = back then st.p0 else ((st.sharpAt (Q.ofInt (stop - back : Nat))).1).round) back
    else .path st.p0 st.back

/-- The rerun stroke of R184 in place of the interrupted one. -/
def rerunOf (r : Rejoin) (kind : StrokeKind) (a : StrokeArgs) (o : StrokeOps) (f : Prof) (p : PState) (p0 m : Pt) :
    Stroke :=
  match r with
  | .dwell ns => { (Stroke.raw kind a { o with speed := ns } f p p0 m) with isRerun := true }
  | .path from_ back => { (Stroke.raw kind a o f p from_ m) with isRerun := true, back := back }

/-- Where positioning brings a beam for a rerun: the run-up start of the rerun stroke, or P1 of a dwell (R166). -/
def StopRec.rerunAt (r : StopRec) : Option Pt :=
  match r.rejoin, r.src with
  | some (.path from_ _), some (_, _, st) => some (along from_ { st with p0 := from_ }.geo.u0 (-(st.runup : Int)))
  | some (.dwell _), some (_, _, st) => some st.p1
  | _, _ => none

/-- PX, PY and the window after a stroke was decoded; its end is program time's new first term (R78, R113). -/
def PState.afterStroke (p : PState) (st : Stroke) (words end_ : Nat) : PState :=
  { p with
    px := i32 st.p1.x, py := i32 st.p1.y, pc := p.pc + words, progEnd := end_, lastEnd := end_, window := 0
    waits := 0
    focusPend := false, rerun := false }

end Sys2Proof.Machine
end

