-- ==== Sys2Proof/Machine/Pellin.lean ====
section
/-! DEFINITION. The decode stage of a beam engine: every Pellin instruction (R109 to R136, R140, R170). -/

namespace Sys2Proof.Machine

namespace State

/-- The promise of the job that beam `b` decodes. -/
def promiseOf (s : State) (b : Beam) : Option Promise :=
  match (s.be[b]).job with
  | some n => (s.js n).promise
  | none => none

/-- The beam has accepted an at-once stop request or a stop (R179). -/
def askStop (b : Beam) (atOnce : Bool) (s : State) : State :=
  s.upBe b fun e => { e with stopReq := some (atOnce || e.stopReq == some true) }

/-- The decoded word is not the word that admission walked (R108). -/
def beIllegal (b : Beam) (s : State) : State := (s.report 0x10 b.val 0).askStop b true

/-- The decode state with the merged schedule of a meeting point, where the walk kept one (R99). -/
def merged (pr : Promise) (b : Beam) (p : PState) : PState :=
  match pr.merges.find? fun m => m.1 = b.val ∧ m.2.1 = p.key with
  | some (_, _, m) => { p with progEnd := m.base, window := m.count, waits := 0, lastEnd := m.rel }
  | none => p

/-- The scheduled wait of a ZACQ or MUSTER of beam `b` (R92). -/
def waitFor (pr : Promise) (b : Beam) (k : Key) : Nat :=
  match pr.waits.find? fun x => x.1 = b.val ∧ x.2.1 = k with
  | some (_, _, n) => n
  | none => 0

/-- The word that admission walked at the pc of beam `b`. -/
def walkedAt (s : State) (b : Beam) : Option PInstr :=
  match s.promiseOf b with
  | some pr => (pr.code.find? fun c => c.1 = b.val ∧ c.2.1 = (s.be[b]).dec.pc).map (·.2.2)
  | none => none

/-- The slots of the table in service that fetch for beam `b` (R279). -/
def fetchSlots (s : State) (b : Beam) : Nat :=
  (s.fab.live.toList.filter fun e => nbit e.toNat 7 && e.toNat % 64 == b.val).length

/-- Fetch has delivered `bytes` of program since the preparation began: it holds at least the words that the model of R519
delivers by now, and how far it leads that model is open (R169, R519). -/
def fetchedBy (s : State) (b : Beam) (bytes : Nat) : Bool :=
  let from_ := match (s.be[b]).job with
    | some n => (s.js n).prepAt
    | none => none
  match from_, s.fetchSlots b with
  | some t, r + 1 =>
    let due := t + 4096 * cdiv bytes (256 * (r + 1) - 64) + 512
    decide (due ≤ s.tick) || decide (due ≤ s.tick + Config.fetchLead b.val bytes)
  | _, _ => false

/-- The engine decodes: its beam is present and has a job ARMED or RUNNING, no stop was requested and HALT was not
decoded (R140, R149), and the words of its next instruction have been fetched (R519). -/
def decoding (s : State) (b : Beam) : Bool :=
  s.beamOn b.val && !(s.be[b]).dec.halted && (s.be[b]).stopReq.isNone && (s.be[b]).move.isNone &&
    (match (s.be[b]).job with
     | some n => (s.js n).st = .armed || (s.js n).st = .running
     | none => false) &&
    s.fetchedBy b ((s.be[b]).read + 8 * ((s.walkedAt b).map instrWords).getD 1)

/-- The scratch words that the strokes of a list overwrote, newest first. -/
def undone (l : List Stroke) : List (Nat × Word) := l.reverse.flatMap (·.undo)

/-- Scratch words restored, newest write first (R106). -/
def restore (l : List (Nat × Word)) (s : State) : State := l.foldl (fun t w => t.wrN w.1 4 w.2.toNat) s

/-- A new decode state. -/
def setDec (b : Beam) (p : PState) (s : State) : State := s.upBe b fun e => { e with dec := p }

/-- The tick S of the job of beam `b`. -/
def beS (s : State) (b : Beam) : Option Nat :=
  match (s.be[b]).job with
  | some n => (s.js n).s
  | none => none

/-- The slot of a stroke has ended. -/
def slotOver (s : State) (b : Beam) (st : Stroke) : Bool :=
  match s.beS b with
  | some s0 => decide (s0 + st.slotEnd ≤ s.tick)
  | none => false

/-- The strokes of the FIFO whose slot has not ended (R170). -/
def fifoLevel (s : State) (b : Beam) : Nat := ((s.be[b]).fifo.filter fun st => !s.slotOver b st).length

/-- For how long an instant of the course is still asked for: the commands of the last lag terms and laser delays, ns
(R177, R242). -/
def courseNs : Nat := 655360

/-- The slot of a stroke began so long ago that no instant before it is asked for any more; of a blended one it ended so long
ago, since its fillet needs the stroke before it (R175). -/
def slotPast (s : State) (b : Beam) (st : Stroke) : Bool :=
  match s.beS b with
  | some s0 => decide (s0 + (if st.blendIn then st.slotEnd else st.slotAt) + courseNs ≤ s.tick)
  | none => false

/-- The entries kept: a stroke leaves once the slot of its successor began long ago. -/
def pruned (past : Stroke → Bool) : List Stroke → List Stroke
  | [] => []
  | [x] => [x]
  | x :: y :: l => if past y then pruned past (y :: l) else x :: y :: l

/-- Strokes of the past leave the list and are counted (R164, R170). -/
def prune (b : Beam) (s : State) : State :=
  let l := (s.be[b]).fifo
  let k := pruned (s.slotPast b) l
  s.upBe b fun e => { e with fifo := k, strokesDone := e.strokesDone + (l.length - k.length) }

/-- Physical JT has reached program time `p` less 3,072 ns, so the view of p - 4,096 ns is final (R102, R241). -/
def viewReady (s : State) (b : Beam) (p : Nat) : Bool :=
  match s.beS b with
  | some s0 => decide (s0 + p ≤ s.tick + 3072)
  | none => false

/-- The tick of the view of an instruction at program time `p` (R102). -/
def viewTick (s : State) (b : Beam) (p : Nat) : Nat := ((s.beS b).getD 0) + p - 4096

/-- BEn_REJOIN.OVL in force, nm (R184, R186). -/
def rejoinOvl (s : State) (b : Beam) : Nat := fld (s.be[b]).cfg[4] 7 0 * 1000

/-- What the engine rejoins under R184, while the next stroke decoded is the rerun one. -/
def rejoinOf (s : State) (b : Beam) : Option Rejoin :=
  if (s.be[b]).dec.rerun then (s.be[b]).stop.bind StopRec.rejoin else none

/-- The rejoin check of a rerun MARK or ARC: with SKIP_EN, a read that shows RISE, or energy at the threshold or above
(R185, R186). -/
def skipOverlap (s : State) (b : Beam) (q : Pt) (p : Nat) : Bool :=
  let e := s.be[b]
  let w := s.viewRead q (s.viewTick b p) none
  bit e.cfg[4] 8 && (bit w 29 || fld e.cfg[5] 23 0 ≤ fld w 23 0)

/-- The ledger view that an instruction reads is not final yet: that of an LGQ, or of a rerun stroke (R102, R185). -/
def viewWaits (s : State) (b : Beam) (p : PState) : PInstr → Bool
  | .mark _ | .jump _ | .arc _ | .spot _ => (s.rejoinOf b).isSome && !s.viewReady b p.time
  | .lgq _ _ _ _ => !s.viewReady b p.count.time
  | _ => false

/-- Decode of an instruction waits: while the FIFO holds 64 strokes, and until its view is final (R102, R140, R170, R185). -/
def decodeWaits (s : State) (b : Beam) (p : PState) (i : PInstr) : Bool :=
  decide (64 ≤ s.fifoLevel b) || s.viewWaits b p i

/-- One instruction at the decode stage: nothing where the engine does not decode or the instruction waits, BE_ILLEGAL where
the word is not the one that was walked, else the instruction's effect on the decode state `p`, its words read. -/
def decode (b : Beam) (i : PInstr) (f : Promise → PState → State → State) (s : State) : State :=
  if s.decoding b then
    match s.promiseOf b with
    | some pr =>
      let p := merged pr b (s.be[b]).dec
      if s.walkedAt b ≠ some i then s.beIllegal b
      else if s.decodeWaits b p i then s
      else (f pr p s).upBe b fun e => { e with read := e.read + 8 * instrWords i }
    | none => s
  else s

/-- An instruction that only changes the decode state. -/
def decodeP (b : Beam) (i : PInstr) (f : PState → PState) (s : State) : State :=
  s.decode b i (fun _ p t => t.setDec b (f p))

/-- A timed stroke at the end of the FIFO, its predecessor closed. It begins so that its start s falls on its scheduled JT
(R93, R99). -/
def pushStroke (b : Beam) (pr : Promise) (p : PState) (y : Stroke) (words : Nat) (s : State) : State :=
  let l := (s.be[b]).fifo
  let last := l.getLast?
  let blend := match last with
    | some x => (pr.blends.any fun k => k.1 = b.val ∧ k.2 = y.key) && Stroke.mayBlend x y
    | none => false
  let last' := last.map fun x => Stroke.closeWith x y blend
  let m := match last' with
    | some x => x.endPt
    | none => (s.be[b]).m
  let j := if blend then last.map fun x => Stroke.joint x y else none
  let at_ := match pr.begins.find? fun g => g.1 = b.val ∧ g.2.1 = y.key with
    | some (_, _, t) => t - (y.timed 0 m j).startAt
    | none => (last'.map (·.slotEnd)).getD p.progEnd + p.idle + p.waits
  let y := y.timed at_ m j
  let end_ := match pr.ends.find? fun g => g.1 = b.val ∧ g.2.1 = y.key with
    | some (_, _, t) => t
    | none => y.slotEnd
  s.upBe b fun e =>
    { e with fifo := l.dropLast ++ last'.toList ++ [y], dec := p.afterStroke y words end_ }

/-- Decode of a stroke (R112 to R118, R170, R184, R185). -/
def decodeStroke (b : Beam) (i : PInstr) (kind : StrokeKind) (a : StrokeArgs) (s : State) : State :=
  s.decode b i fun pr p s =>
    let s := s.prune b
    let o := p.strokeOps a
    let table := match (s.be[b]).job with
      | some n => (s.js n).profTable
      | none => 0
    let f := s.profAt (s.profAddr table b.val o.profile)
    let p0 : Pt := ⟨p.px.toInt, p.py.toInt⟩
    match s.rejoinOf b with
    | none => s.pushStroke b pr p (Stroke.raw kind a o f p p0 ⟨0, 0⟩) kind.words
    | some r =>
      let y := rerunOf r kind a o f p p0 ⟨0, 0⟩
      let skip := kind.isPath && s.skipOverlap b y.p0 p.time
      let s := s.ifc (kind.isPath && bit (s.be[b]).cfg[4] 8) (State.readOwes b.val y.p0)
      let s := s.pushStroke b pr p { y with skip := skip } kind.words
      (s.upBe b fun e => { e with skip := skip }).ifc skip (count (R.BEn_CNT b.val) 15 0)

end State

/-! The commands: one per instruction. -/

/-- MARK (R119). -/
def execMark (b : Beam) (a : StrokeArgs) (s : State) : Res := .next (s.decodeStroke b (.mark a) .mark a)

/-- JUMP (R115, R120). -/
def execJump (b : Beam) (a : StrokeArgs) (s : State) : Res := .next (s.decodeStroke b (.jump a) .jump a)

/-- ARC (R121). -/
def execArc (b : Beam) (a : StrokeArgs) (s : State) : Res := .next (s.decodeStroke b (.arc a) .arc a)

/-- SPOT (R122). -/
def execSpot (b : Beam) (a : StrokeArgs) (s : State) : Res := .next (s.decodeStroke b (.spot a) .spot a)

/-- ZACQ: the request goes out at its program time, and the window takes the scheduled grant wait (R92, R105, R123). -/
def execZacq (b : Beam) (set : BitVec 16) (s : State) : Res :=
  .next (s.decode b (.zacq set) fun pr p s =>
    let t := p.count.time
    let s := s.setDec b (p.zacqStep set.toNat (State.waitFor pr b p.key))
    s.upZone fun z => { z with beam := vupd z.beam b fun x =>
      { x with reqs := x.reqs ++ [{ set := set.toNat % 4096, time := t, lost := 0, key := p.key }] } })

/-- ZREL: the set is released at the end of the stroke before it (R105, R124). -/
def execZrel (b : Beam) (s : State) : Res :=
  .next (s.decode b .zrel fun _ p s =>
    let s := s.setDec b { p.pass with held := none }
    s.upZone fun z => { z with beam := vupd z.beam b fun x => { x with rels := x.rels ++ [p.lastEnd] } })

/-- MUSTER: the beam arrives at its program time and the window takes the barrier wait (R100, R125). -/
def execMuster (b : Beam) (id : Byte) (cell : Bool) (mask : BitVec 16) (s : State) : Res :=
  .next (s.decode b (.muster id cell mask) fun pr p s =>
    let w := State.waitFor pr b p.key
    s.upBe b fun e =>
      { e with dec := p.musterStep id.toNat w
               barrier := e.barrier ++ [(id.toNat, mask.toNat, cell, p.passedOf id.toNat, p.count.time + w)] })

/-- WAITT (R126). -/
def execWaitt (b : Beam) (rel : Bool) (target : BitVec 48) (s : State) : Res :=
  .next (s.decodeP b (.waitt rel target) (PState.waittStep rel target))

/-- MOV (R127). -/
def execMov (b : Beam) (a : IntArgs) (s : State) : Res := .next (s.decodeP b (.alu .mov a) (PState.alu .mov a))
/-- ADD (R127). -/
def execAdd (b : Beam) (a : IntArgs) (s : State) : Res := .next (s.decodeP b (.alu .add a) (PState.alu .add a))
/-- SUB (R127). -/
def execSub (b : Beam) (a : IntArgs) (s : State) : Res := .next (s.decodeP b (.alu .sub a) (PState.alu .sub a))
/-- MUL (R127). -/
def execMul (b : Beam) (a : IntArgs) (s : State) : Res := .next (s.decodeP b (.alu .mul a) (PState.alu .mul a))
/-- AND (R127). -/
def execBand (b : Beam) (a : IntArgs) (s : State) : Res := .next (s.decodeP b (.alu .band a) (PState.alu .band a))
/-- OR (R127). -/
def execBor (b : Beam) (a : IntArgs) (s : State) : Res := .next (s.decodeP b (.alu .bor a) (PState.alu .bor a))
/-- XOR (R127). -/
def execBxor (b : Beam) (a : IntArgs) (s : State) : Res := .next (s.decodeP b (.alu .bxor a) (PState.alu .bxor a))
/-- SHL (R127). -/
def execShl (b : Beam) (a : IntArgs) (s : State) : Res := .next (s.decodeP b (.alu .shl a) (PState.alu .shl a))
/-- SHR (R127). -/
def execShr (b : Beam) (a : IntArgs) (s : State) : Res := .next (s.decodeP b (.alu .shr a) (PState.alu .shr a))
/-- SAR (R127). -/
def execSar (b : Beam) (a : IntArgs) (s : State) : Res := .next (s.decodeP b (.alu .sar a) (PState.alu .sar a))
/-- CMP (R127). -/
def execCmp (b : Beam) (a : IntArgs) (s : State) : Res := .next (s.decodeP b (.alu .cmp a) (PState.alu .cmp a))
/-- MULH (R127). -/
def execMulh (b : Beam) (a : IntArgs) (s : State) : Res := .next (s.decodeP b (.alu .mulh a) (PState.alu .mulh a))

/-- LD: a scratch word (R79, R127). -/
def execLd (b : Beam) (a : IntArgs) (s : State) : Res :=
  .next (s.decode b (.ld a) fun _ p s =>
    s.setDec b (p.load a.rd (s.rd32 (State.scratchBase b + p.scratchOf a))))

/-- ST: a scratch word; the word overwritten is kept for R106 (R79, R127). -/
def execSt (b : Beam) (a : IntArgs) (s : State) : Res :=
  .next (s.decode b (.st a) fun _ p s =>
    let ad := State.scratchBase b + p.scratchOf a
    let old := s.rd32 ad
    let s := (s.setDec b p.pass).wrN ad 4 (p.gr a.rb).toNat
    s.upBe b fun e =>
      match e.fifo.getLast? with
      | some x => { e with fifo := e.fifo.dropLast ++ [{ x with undo := (ad, old) :: x.undo }] }
      | none => { e with undo := (ad, old) :: e.undo })

/-- RDP (R128). -/
def execRdp (b : Beam) (a : IntArgs) (s : State) : Res :=
  .next (s.decodeP b (.rdp a) fun p => p.load a.rd (p.rdpVal a.imm32.toNat))

/-- LOOP; a register count above the bound is clamped and LOOP_CLAMP raised (R98, R129). -/
def execLoop (b : Beam) (creg : Bool) (rc : Fin 16) (bound body : BitVec 24) (s : State) : Res :=
  .next (s.decode b (.loop creg rc bound body) fun _ p s =>
    let (n, clamped) := p.loopCount creg rc bound
    let s := s.setDec b (p.loopStep n body)
    if clamped then
      let s := s.report 0x12 b.val 0
      match (s.be[b]).job with
      | some j => s.upSlot j fun x => { x with bClamp := vupd x.bClamp b fun c => satN 8 (c + 1) }
      | none => s
    else s)

/-- ENDL (R130). -/
def execEndl (b : Beam) (back : BitVec 24) (s : State) : Res := .next (s.decodeP b (.endl back) PState.endlStep)

/-- BR (R131). -/
def execBr (b : Beam) (cond : Fin 16) (offset : BitVec 24) (s : State) : Res :=
  .next (s.decodeP b (.br cond offset) (PState.brStep cond offset))

/-- LGQ: the cell in the view of p - 4,096 ns; decode waits until that view is final (R102, R103, R132). -/
def execLgq (b : Beam) (rd rx ry : Fin 16) (useP : Bool) (s : State) : Res :=
  .next (s.decode b (.lgq rd rx ry useP) fun _ p s =>
    let q : Pt := if useP then ⟨p.px.toInt, p.py.toInt⟩ else ⟨(p.gr rx).toInt, (p.gr ry).toInt⟩
    (s.readOwes b.val q).setDec b (p.lgqStep rd (s.viewRead q (s.viewTick b p.count.time) none)))

/-- PSET (R133). -/
def execPset (b : Beam) (reg : Bool) (rs sel : Fin 16) (imm32 : Word) (s : State) : Res :=
  .next (s.decodeP b (.pset reg rs sel imm32) (PState.psetStep reg rs sel imm32))

/-- FOCUS; PZ saturates to the head's range (R134). -/
def execFocus (b : Beam) (reg rel : Bool) (rs : Fin 16) (imm32 : Word) (s : State) : Res :=
  .next (s.decode b (.focus reg rel rs imm32) fun _ p s =>
    s.setDec b (p.focusStep (i32 (s.satZ b (p.focusVal reg rel rs imm32).toInt))))

/-- MARKEV: an event to be released at its program time (R135). -/
def execMarkev (b : Beam) (reg irq : Bool) (rs : Fin 16) (code : BitVec 16) (imm32 : Word) (s : State) : Res :=
  .next (s.decode b (.markev reg irq rs code imm32) fun _ p s =>
    let v := if reg then p.gr rs else imm32
    s.upBe b fun e =>
      { e with dec := p.pass
               pendEv := e.pendEv ++ [{ code := code.toNat, value := v, time := p.count.time, irq := irq }] })

/-- HALT: the program has ended, and its last stroke is final (R136). -/
def execHalt (b : Beam) (s : State) : Res :=
  .next (s.decode b .halt fun _ p s =>
    s.upBe b fun e =>
      { e with dec := { p.count with halted := true }
               fifo := e.fifo.dropLast ++ (e.fifo.getLast?.map fun x => { x with fixed := true }).toList })

end Sys2Proof.Machine
end

