-- ==== Sys2Proof/Machine/Zone.lean ====
section
/-! DEFINITION. The zone arbiter: conflicts, rounds, grants, quotas (R262 to R272). The rounds are a function of the
arbiter alone, so that admission replays the same one (R273). -/

namespace Sys2Proof.Machine

/-- A set of paddocks: I0, I1, J0, J1 (R260). -/
abbrev PadSet := Nat × Nat × Nat × Nat

/-- ZONE_SEP, ZONE_LEE and ZONE_QUOTA as the arbiter uses them (R262, R269). -/
structure ZoneCfg where
  sep   : Nat
  width : Nat
  len   : Nat
  win   : Nat
  quota : Nat
  deriving DecidableEq, Repr

/-- The paddock distance of two sets: 0 where they share a paddock (R262). -/
def padDist : PadSet → PadSet → Nat
  | (i0, i1, j0, j1), (k0, k1, l0, l1) => max (max (k0 - i1) (i0 - k1)) (max (l0 - j1) (j0 - l1))

/-- The first set meets the lee of the second (R262). -/
def meetsLee (c : ZoneCfg) : PadSet → PadSet → Bool
  | (i0, i1, j0, j1), (_, k1, l0, l1) =>
    c.len ≠ 0 && k1 + 1 ≤ i1 && i0 ≤ k1 + c.len && l0 ≤ j1 + c.width && j0 ≤ l1 + c.width

/-- Two sets conflict (R262). -/
def padConflict (c : ZoneCfg) (a b : PadSet) : Bool := padDist a b ≤ c.sep || meetsLee c a b || meetsLee c b a

namespace ZoneBeam

/-- The effective priority of a request (R267). -/
def eff (x : ZoneBeam) (q : ZReq) : Nat := min 15 (x.base + q.lost)

/-- A release that has taken effect by JT `t` frees the set, and a base stored for it takes effect (R264, R268). -/
def release (t : Nat) (x : ZoneBeam) : ZoneBeam :=
  match x.held, x.rels with
  | some _, r :: rest =>
    if r ≤ t then
      { x with held := none, granted := none, rels := rest, base := x.nextBase.getD x.base, nextBase := none }
    else x
  | _, _ => x

/-- A priority entry (R268). -/
def rebase (n : Nat) (x : ZoneBeam) : ZoneBeam :=
  if x.held.isSome then { x with nextBase := some n } else { x with base := n }

/-- The request that takes part in the round at JT `t` (R264, R265, R269). -/
def asking (t : Nat) (x : ZoneBeam) : Option ZReq :=
  match x.held, x.reqs with
  | none, q :: _ => if q.time ≤ t && !x.masked then some q else none
  | _, _ => none

/-- A grant at JT `t`; with a base of 6 or 7 it counts against the quota (R266, R269). -/
def grant (t : Nat) (q : ZReq) (x : ZoneBeam) : ZoneBeam :=
  let k := if 6 ≤ x.base then min 255 (x.quota + 1) else x.quota
  { x with held := some q.set, granted := some t, reqs := x.reqs.tail, quota := k }

/-- The mask of a round that finds the quota of `n` grants used up in its window (R269). -/
def mask (n : Nat) (x : ZoneBeam) : ZoneBeam := { x with masked := x.masked || n ≤ x.quota }

/-- The arbiter lets go of the beam: no request, grant or quota remains, and a base stored for a release is discarded (R268
to R271). -/
def clear (x : ZoneBeam) : ZoneBeam :=
  { x with reqs := [], rels := [], held := none, granted := none, nextBase := none, quota := 0, masked := false }

/-- A round lost (R265). -/
def lose (x : ZoneBeam) : ZoneBeam :=
  match x.reqs with
  | q :: l => { x with reqs := { q with lost := q.lost + 1 } :: l }
  | [] => x

end ZoneBeam

/-- A request in a round: effective priority, first round, beam, the request. -/
structure Bid where
  eff  : Nat
  from_ : Nat
  beam : Beam
  req  : ZReq
  deriving DecidableEq, Repr

/-- The order of R265: higher priority, then the earlier first round, then the lower beam. -/
def Bid.before (a b : Bid) : Bool :=
  b.eff < a.eff || (a.eff == b.eff && (a.from_ < b.from_ || (a.from_ == b.from_ && a.beam.val < b.beam.val)))

/-- A bid put into its place. -/
def Bid.insert (b : Bid) : List Bid → List Bid
  | [] => [b]
  | x :: l => if b.before x then b :: x :: l else x :: Bid.insert b l

namespace Zone

/-- The rectangle of a set; a set that the map does not hold is taken as paddock (0, 0), which no walked program names
(R123, R261). -/
def padOf (z : Zone) (k : Nat) : PadSet := (z.sets[k]?).getD (0, 0, 0, 0)

/-- Quota windows that have ended by JT `t`: counts return to 0, masks are lifted (R269). -/
def windows (c : ZoneCfg) (t : Nat) (z : Zone) : Zone :=
  let n := t / (c.win * 1000)
  if z.window < n then
    { z with window := n, beam := z.beam.map fun x => { x with quota := 0, masked := false } }
  else z

/-- What comes before the requests of the round at JT `t`: releases, then priority entries (R264, R268). -/
def settle (t : Nat) (z : Zone) : Zone :=
  let now := z.prio.filter (·.1 < t)
  let z := { z with beam := z.beam.map (ZoneBeam.release t), prio := z.prio.filter fun e => ¬ e.1 < t }
  now.foldl (fun z e => { z with beam := vupdN z.beam e.2.1 (ZoneBeam.rebase e.2.2) }) z

/-- The requests of the round at JT `t` in their order (R265). -/
def bids (t : Nat) (z : Zone) : List Bid :=
  ((List.finRange 16).filterMap fun b =>
    (z.beam[b].asking t).map fun q => Bid.mk (z.beam[b].eff q) (cdiv q.time 256) b q).foldl (fun l b => b.insert l) []

/-- The requests in order, against the sets that block; the grants in order with their waits (R265, R266). -/
def serve (c : ZoneCfg) (t : Nat) : List Bid → List PadSet → Zone → Zone × List (Beam × Nat × Nat)
  | [], _, z => (z, [])
  | q :: l, blocked, z =>
    let p := z.padOf q.req.set
    if blocked.all fun x => !padConflict c x p then
      let (z, g) := serve c t l (p :: blocked) { z with beam := vupd z.beam q.beam (ZoneBeam.grant t q.req) }
      (z, (q.beam, q.req.set, t - q.req.time) :: g)
    else serve c t l (p :: blocked) { z with beam := vupd z.beam q.beam ZoneBeam.lose }

/-- One round (R264 to R269). -/
def runRound (c : ZoneCfg) (z : Zone) : Zone × List (Beam × Nat × Nat) :=
  let t := 256 * z.round
  let z := z.windows c t
  let z := { z with beam := z.beam.map (ZoneBeam.mask c.quota) }.settle t
  let held := (List.finRange 16).filterMap fun b => (z.beam[b].held).map z.padOf
  let (z, g) := serve c t (z.bids t) held z
  ({ z with round := z.round + 1 }, g)

end Zone

namespace State

/-- The values in force for the arbiter (R262, R269). -/
def zoneCfg (s : State) : ZoneCfg :=
  { sep := s.rf R.ZONE_SEP 3 0, width := s.rf R.ZONE_LEE 23 16, len := s.rf R.ZONE_LEE 7 0
    win := oneIfZero (s.rf R.ZONE_QUOTA 31 16), quota := oneIfZero (s.rf R.ZONE_QUOTA 7 0) }

/-- JT of the RUNNING job, from its S on. -/
def zoneJt (s : State) : Option Nat :=
  (s.runSlot.bind fun n => (s.js n).s).bind fun s0 => if s0 ≤ s.tick then some (s.tick - s0) else none

/-- The arbiter's record of beam `b` now: a release takes effect on its tick, ahead of the round that follows it (R264, R266,
R268, R270). -/
def zoneNow (s : State) (b : Beam) : ZoneBeam :=
  match s.zoneJt with
  | some j => (s.zone.beam[b]).release j
  | none => s.zone.beam[b]

/-- The set that beam `b` holds now. -/
def zoneHeld (s : State) (b : Beam) : Option Nat := (s.zoneNow b).held

/-- The request that waits now: it goes out at its program time (R105, R264, R267). -/
def zoneWaits (s : State) (b : Beam) : Option ZReq :=
  match (s.zoneNow b).held, s.zoneJt with
  | none, some j => (s.zone.beam[b]).reqs.head?.filter fun q => decide (q.time ≤ j)
  | _, _ => none

/-- S of the RUNNING job while the arbiter runs rounds for it. -/
def zoneS (s : State) : Option Nat :=
  if s.zone.active then s.runSlot.bind fun n => (s.js n).s else none

/-! The arbiter over the life of a job. -/

/-- The zone arbiter stops (R268 to R271). -/
def zoneHalt (s : State) : State :=
  s.upZone fun z => { z with active := false, prio := [], beam := z.beam.map ZoneBeam.clear }

/-- A beam's stop. What was released by the stop tick is free, with its stored base in force. The job's first stop leaves the arbiter idle: every request is withdrawn, counts and masks end, and the
bases in force stay. With `all` the beam's grant is released at once, else with the slot that ends at JT `rel` (R270,
R271). -/
def zoneStop (b : Beam) (all : Bool) (rel : Nat) (s : State) : State :=
  let now := Vector.ofFn s.zoneNow
  s.upZone fun z =>
    { z with
      active := false, prio := []
      beam := vupd (now.map fun x => { x with reqs := [], nextBase := none, quota := 0, masked := false }) b fun x =>
        if all then x.clear else { x with rels := if x.held.isSome then [rel] else [] } }

/-- The arbiter of job `n` at S, before any request; a remainder keeps the bases and takes no entries (R264, R268,
R271). -/
def zoneJob (s : State) (n : Slot) : Zone :=
  let j := s.js n
  let a := j.zoneMap
  let bm := 64 + 8 * cdiv (s.rdN (a + 8) 2 * s.rdN (a + 10) 2) 64
  let ns := s.rdN (a + 12) 2
  let np := s.rdN (a + 14) 2
  let set (i : Nat) :=
    let o := a + bm + 8 * i
    (s.rdN o 2, s.rdN (o + 2) 2, s.rdN (o + 4) 2, s.rdN (o + 6) 2)
  let prio (i : Nat) :=
    let o := a + bm + 8 * ns + 8 * i
    (s.rdN o 6, s.rdN (o + 6) 1 % 16, s.rdN (o + 7) 1 % 8)
  { s.zone with
    active := true, map := a ≠ 0, round := 0, window := 0
    sets := if a = 0 then [] else (List.range ns).map set
    prio := if a = 0 || j.remainder then [] else (List.range np).map prio
    beam := Vector.ofFn fun b : Fin 16 =>
      { (s.zone.beam[b]).clear with
        base := if j.remainder then (s.zone.beam[b]).base else if a = 0 then 0 else s.rdN (a + 16 + b.val) 1 % 8 } }

/-- The request of a remainder for the set that the beam held at its stop (R105, R106, R271). -/
def heldAgain (s : State) (n : Slot) (b : Beam) : List ZReq :=
  match (if (s.js n).remainder then (s.be[b]).stop else none) with
  | some r => (r.setHeld.map fun q => { set := q, time := 0, lost := 0, key := r.kept.key : ZReq }).toList
  | none => []

/-- A beam joins the preparation of job `n`: from now on its decode posts requests and releases. -/
def zonePrep (n : Slot) (b : Beam) (s : State) : State :=
  s.upZone fun z => { z with beam := vupd z.beam b fun x => { x.clear with reqs := s.heldAgain n b } }

/-- The paddock map of a job in the arbiter at S, with the requests and releases decoded so far; the counts start again
(R264, R266, R268, R271). -/
def zoneLoad (n : Slot) (s : State) : State :=
  let z := s.zoneJob n
  let s := s.upZone fun y =>
    { z with beam := Vector.ofFn fun b : Fin 16 => { z.beam[b] with reqs := (y.beam[b]).reqs, rels := (y.beam[b]).rels } }
  s.each (List.range 16) fun b t => (t.wr (R.ZONE_Bb_CNT b) 0).wr (R.ZONE_Bb_WAITMAX b) 0

end State

/-- ZONE_ROUND: the round due by now runs: releases and priority entries, then grants and aging; the counters and the
digest follow (R264 to R269, R406). -/
def execZoneRound (s : State) : Res :=
  match s.zoneS with
  | none => .next s
  | some s0 =>
    let t := 256 * s.zone.round
    if s.tick < s0 + t then .next s
    else
      let z0 := s.zone.windows s.zoneCfg t
      let (z, g) := s.zone.runRound s.zoneCfg
      let s := s.upZone fun _ => z
      let s := s.each (g.zipIdx) fun x s =>
        let b := x.1.1
        let s := s.count (R.ZONE_Bb_CNT b.val) 31 16
        let s := s.wmod (R.ZONE_Bb_WAITMAX b.val) fun w => w32 (satN 32 (max w.toNat x.1.2.2))
        s.digItem (s.sampleOf (s0 + t)) 5 x.2 (BitVec.ofNat 8 b.val :: toBytes 2 x.1.2.1)
      .next (s.each ((List.finRange 16).filter fun b => !(z0.beam[b]).masked && (z.beam[b]).masked) fun b s =>
        s.count (R.ZONE_Bb_CNT b.val) 15 0)

/-- QUOTA_WINDOW_END: at the end of a quota window, counts return to 0 and masks are lifted (R269). -/
def execQuotaWindowEnd (s : State) : Res :=
  match s.zoneS with
  | none => .next s
  | some s0 => if s.tick < s0 then .next s else .next (s.upZone (Zone.windows s.zoneCfg (s.tick - s0)))

/-- ZONE_CNT_CLR (R488). -/
def execZoneCntClr (s : State) : Res :=
  .next (s.each (List.range 16) fun b t => (t.wr (R.ZONE_Bb_CNT b) 0).wr (R.ZONE_Bb_WAITMAX b) 0)

end Sys2Proof.Machine
end

