-- ==== Sys2Proof/Machine/JobState.lean ====
section
/-! DEFINITION. The state of a job slot: its published words, its changes and the withdrawal of its promise (R39, R42,
R163 to R165, R438). -/

namespace Sys2Proof.Machine

/-- The code of a job state (JOB_SLOTn_STATUS.STATE). -/
def jobCode : JobState → Nat
  | .empty => 0 | .analysing => 1 | .accepted => 2 | .rejected => 3 | .armed => 4 | .running => 5 | .holding => 6
  | .done => 7 | .aborted => 8

/-- JOB_SLOTn_STATUS of a slot. -/
def jobStatus (j : JobSlot) : Word :=
  w32 (jobCode j.st * 2 ^ 28 + (if j.st = .analysing then j.phase % 16 * 2 ^ 24 else 0) + b2n j.promise.isSome 23 +
    b2n j.ready 22 + b2n j.withdrawn 21 + b2n j.remainder 20 + j.early % 16 * 2 ^ 16 + j.code % 256 * 2 ^ 8 +
    j.seq % 128 * 2 + b2n j.autoFail 0)

namespace State

/-- While the job is RUNNING or HOLDING, its BEAMb words follow the engines: the scheduled JT of the last stroke started,
and the strokes completed (R164). -/
def syncBeams (n : Slot) (s : State) : State :=
  let j := s.js n
  if j.st = .running ∨ j.st = .holding then
    s.each j.named fun b t =>
      if (t.be[b]).job = some n then
        let e := t.be[b]
        let ended := (e.fifo.filter fun x => t.slotOver b x).length
        t.upSlot n fun j => { j with bTime := vupd j.bTime b fun _ => e.lastStart
                                     bStrokes := vupd j.bStrokes b fun _ => e.strokesDone + ended }
      else t
  else s

/-- The words of a slot written together from what it holds (R164). On its own it serves the changes that R163 does not
list: READY, EARLY, AUTO_FAIL, a phase, S fixed, the reported times (log entry 83). -/
def showSlot (n : Slot) (s : State) : State :=
  let j := s.js n
  let i := n.val
  let live := j.st ≠ .empty
  let k (w : Word) : Word := if live then w else 0
  let timed := j.st = .accepted ∨ j.st = .armed ∨ j.st = .running ∨ j.st = .holding ∨ j.st = .done ∨ j.st = .aborted
  let d (w : Word) : Word := if timed && j.s.isSome then w else 0
  let loc := j.st = .rejected ∨ j.st = .done ∨ j.st = .aborted
  let aux := loc ∨ j.st = .accepted ∨ j.st = .armed
  let proc := j.st = .running ∨ j.st = .holding ∨ j.st = .done ∨ j.st = .aborted
  let s := (((s.wr (R.JOB_SLOTn_STATUS i) (jobStatus j)).wr (R.JOB_SLOTn_JOBID i) (k (w32 j.jobId))).wr
    (R.JOB_SLOTn_WALKED_LO i) (k (w32 j.walked))).wr (R.JOB_SLOTn_WALKED_HI i) (k (w32 (j.walked / 2 ^ 32)))
  let s := (((s.wr (R.JOB_SLOTn_LOC i) (if loc then j.loc else 0)).wr (R.JOB_SLOTn_LOC_AUX i)
    (if aux then j.locAux else 0)).wr (R.JOB_SLOTn_FIN_LO i) (k (w32 j.fin))).wr (R.JOB_SLOTn_FIN_HI i)
    (k (w32 (j.fin / 2 ^ 32)))
  let s := (((s.wr (R.JOB_SLOTn_S i) (d (w32 (j.s.getD 0)))).wr (R.JOB_SLOTn_DT_START i) (d j.dtStart)).wr
    (R.JOB_SLOTn_DT_FIN i) (d j.dtFin)).wr (R.JOB_SLOTn_HOTSPOT i) (k (w32 (j.hotspot % 65536).toNat))
  s.each (List.finRange 16) fun b t =>
    let j := t.js n
    let p : Word := w32 (j.bRise[b] * 2 ^ 24 + j.bClamp[b] * 2 ^ 16 + satN 16 (j.bFF[b] / 1024))
    (((t.wr (R.JOB_SLOTn_BEAMb_TIME_LO i b.val) (k (w32 j.bTime[b]))).wr (R.JOB_SLOTn_BEAMb_TIME_HI i b.val)
      (k (w32 (j.bTime[b] / 2 ^ 32)))).wr (R.JOB_SLOTn_BEAMb_STROKES i b.val) (k (w32 j.bStrokes[b]))).wr
      (R.JOB_SLOTn_BEAMb_PROC i b.val) (if proc then p else 0)

/-- A publish: the words of a slot written together, SEQ advanced (R163). -/
def publish (n : Slot) (s : State) : State :=
  ((s.syncBeams n).upSlot n fun j => { j with seq := (j.seq + 1) % 128 }).showSlot n

/-- A JOB record of a slot (R438). The BUILD_ID of a job that names no beam is 0 (DESIGN CHOICE, log entry 103). -/
def jobRecord (n : Slot) (s : State) : State :=
  let j := s.js n
  let build := match j.named with
    | b :: _ => s.rdBytes (j.image b.val + 24) 8
    | [] => List.replicate 8 0
  s.record 0x30 ([BitVec.ofNat 8 n.val, BitVec.ofNat 8 (jobCode j.st), BitVec.ofNat 8 j.code, 0] ++ toBytes 4 j.jobId ++
    toBytes 8 ((j.promise.map (·.jtFin)).getD 0) ++ build)

/-- A slot changed by `f`, which gives it a new job state: published, recorded, with its interrupt (R163, R165). -/
def jobChange (n : Slot) (f : JobSlot → JobSlot) (s : State) : State :=
  (((s.syncBeams n).upSlot n f).publish n).jobRecord n |>.irq R.JOB_IRQ_STATUS R.JOB_IRQ_EN 1 n.val

/-- The job of beam `b` is RUNNING since its S: S. -/
def running (s : State) (b : Beam) : Option Nat :=
  match (s.be[b]).job with
  | some n =>
    if (s.js n).st = .running then
      match (s.js n).s with
      | some s0 => if s0 ≤ s.tick then some s0 else none
      | none => none
    else none
  | none => none

/-- Physical JT as BEn_JT shows it (R21): it advances from S on until the beam has stopped, also where its job is HOLDING
already, and is held after commit and stop. -/
def beJt (s : State) (b : Beam) : Nat :=
  let e := s.be[b]
  match e.job with
  | some n =>
    let j := s.js n
    match (if (j.st = .running ∨ j.st = .holding) ∧ e.move.isNone then j.s else none) with
    | some s0 => if s0 ≤ s.tick then s.tick - s0 else e.jtLast
    | none => e.jtLast
  | none => e.jtLast

/-- Where head `b` comes to rest once its job has left it, with the tick: where its stop ends, at the end of the last slot
that runs, else where it is now. -/
def restPt (s : State) (b : Beam) : Pt × Nat :=
  let e := s.be[b]
  let s0 := if e.posFrom.isNone then s.beS b else none
  match e.move, s0.bind fun s0 => e.fifo.getLast?.map fun x => (x, s0 + x.slotEnd) with
  | some m, _ => (((stopAt m (Q.ofInt m.endAt)).1).round, s.tick)
  | none, some (x, t) => if s.tick < t then (x.endPt, t) else (s.pos b, s.tick)
  | none, none => (s.pos b, s.tick)

/-- The course that a beam has run since its job's S stays known for the instants before a tick (R242). -/
def keepCourse (b : Beam) (until_ : Nat) (s : State) : State :=
  match s.beS b with
  | some s0 => if s.tick < s0 then s else s.upBe b fun e =>
    { e with past := some { until_ := until_, s0 := s0, fifo := e.fifo, move := e.move, m := e.m } }
  | none => s

/-- What the beam has asked of the arbiter goes with its program. -/
def zoneDrop (b : Beam) (s : State) : State := s.upZone fun z => { z with beam := vupd z.beam b ZoneBeam.clear }

/-- The engines of a job's beams no longer belong to it; each head completes its last slot and holds there, or holds where it
stands or where its stop ends (R136). -/
def freeBeams (n : Slot) (s : State) : State :=
  s.each (List.finRange 16) fun b t =>
    if (t.be[b]).job = some n then
      let p := t.restPt b
      let z := t.focusAt b p.2
      ((t.keepCourse b p.2).zoneDrop b).upBe b fun e =>
        { e with
          job := none, fifo := [], m := p.1, mz := i32 z, posFrom := none, pendEv := [], barrier := [], stopReq := none
          dec := State.resetPState, skip := false, undo := []
          gates := e.gates.filterMap fun g =>
            if 8 * (t.tick : Int) ≤ g.on_ then none
            else some { g with off := some (match g.off with
              | some o => min o (8 * (t.tick : Int))
              | none => 8 * (t.tick : Int)) } }
    else t

/-- The stop records of a job are discarded (R183). -/
def dropStops (n : Slot) (s : State) : State :=
  s.each (List.finRange 16) fun b t => t.upBe b fun e => { e with stop := e.stop.filter fun r => r.slot != n }

/-- The beams of a remainder leave its preparation: what the stop kept stays, scratch with it, and each head holds where it
stands (R42, R106, R183). -/
def unprepare (n : Slot) (s : State) : State :=
  s.each (List.finRange 16) fun b t =>
    if (t.be[b]).job = some n then
      let e := t.be[b]
      if e.posFrom.isNone then t
      else
        let p := t.pos b
        let z := t.focusAt b t.tick
        ((t.restore (undone e.fifo ++ e.undo)).zoneDrop b).upBe b fun e =>
          { e with fifo := [], m := p, mz := i32 z, posFrom := none, pendEv := [], barrier := [], stopReq := none
                   dec := (e.stop.map (·.kept)).getD resetPState, skip := false, undo := [] }
    else t

/-- The beams of an ARMED job go back: a remainder keeps its stop records. -/
def releaseBeams (n : Slot) (s : State) : State := if (s.js n).remainder then s.unprepare n else s.freeBeams n

/-- The promise of an ARMED job is withdrawn: ACCEPTED with WITHDRAWN set, its preparation ended (R39, R42, R150). -/
def withdraw (n : Slot) (s : State) : State :=
  (s.releaseBeams n).jobChange n fun j =>
    { j with st := .accepted, promise := none, withdrawn := true, ready := false, early := 0, s := none, dtStart := 0
             dtFin := 0, prepAt := none, predSlot := none, started := false }

/-- The slots whose job is ARMED. -/
def armedSlots (s : State) : List Slot := (List.finRange 4).filter fun n => (s.js n).st = .armed

/-- A job becomes HOLDING, and every ARMED job's promise is withdrawn (R34, R39). -/
def toHolding (n : Slot) (s : State) : State :=
  (((s.jobChange n fun j => { j with st := .holding, promise := none }).each s.armedSlots withdraw).zoneHalt).upTwin
    fun t => { t with winAt := none, winEnd := none, items := [] }

end State

end Sys2Proof.Machine
end

