-- ==== Sys2Proof/Machine/PortOps.lean ====
section
/-! DEFINITION. Ports and their lanes: training from step 1, the end of UP, and TC1 parcels (R357, R358, R363, R364,
R379 to R381, R388). -/

namespace Sys2Proof.Machine

namespace State

/-- The lanes of a port, ascending (R357). -/
def portLanes (s : State) (p : Nat) : List Nat :=
  let l := s.pkgL
  if p < 16 then [2 * p, 2 * p + 1]
  else if p < 32 then [if l then 16 + p else p]
  else if p = 32 then (if l then [48, 49, 50, 51, 52, 53, 54, 55] else [])
  else if p = 33 then (if l then [56, 57, 58, 59] else [24, 25, 26, 27])
  else if p = 34 then (if l then [60, 61, 62, 63] else [28, 29, 30, 31])
  else []

/-- The lanes that a port uses in its present training, ascending: their order is their position (R357, R368). -/
def usedLanes (s : State) (p : Nat) : List Nat :=
  (s.portLanes p).filter fun n => ((vget? s.lane n).map (·.st)).getD .off != .off

/-- The port of a lane. -/
def lanePort (s : State) (n : Nat) : Option Port :=
  (List.finRange 35).find? fun p => s.portOn p.val && (s.portLanes p.val).contains n

/-- A port is in UP. -/
def portUp (s : State) (p : Nat) : Bool := ((vget? s.port p).map (·.st)) == some .up

/-- A port takes part in TC1: it is in UP or IDENT. -/
def portTalks (s : State) (p : Port) : Bool := (s.port[p]).st == .up || (s.port[p]).st == .ident

/-- A port is enabled: PORTp_CTL.EN, or for LPn the EN of its channel (R193). -/
def portEn (s : State) (p : Nat) : Bool :=
  s.rb (R.PORTp_CTL p) 0 || (16 ≤ p && p < 32 && s.rb (R.LDn_CTL (p - 16)) 0)

/-- The port trains at its RATE: code 3 does not train, and TP runs only at code 2 (R358). -/
def rateOk (s : State) (p : Nat) : Bool :=
  if p = 32 then s.rf (R.PORTp_CTL p) 17 16 == 2 else s.rf (R.PORTp_CTL p) 17 16 ≠ 3

/-- F of a cell: the lead bit; on TP, where the partner takes it as VALID, 1 (R374, R391; DEDUCED, log entry 54). -/
def cellF (s : State) (port : Nat) : Bool := port == 32 || s.twin.lead

/-! Ethernet frames (R70). -/

/-- The 802.1Q tag of the frames that a port sends: 65,536 plus its control word, 0 for none (ETHn_CTL). -/
def ethTag (s : State) (n : Nat) : Nat :=
  if s.rb (R.ETHn_CTL n) 2 then 65536 + s.rf (R.ETHn_CTL n) 15 13 * 8192 + s.rf (R.ETHn_CTL n) 27 16 else 0

/-- The own MAC address of a port, byte 0 lowest. -/
def ethMac (s : State) (n : Nat) : Nat := (s.rd (R.ETHn_MAC_LO n)).toNat + s.rf (R.ETHn_MAC_HI n) 15 0 * 2 ^ 32

/-- The time in ns of a frame with `bytes` of payload at 10 Gb/s, with preamble, header, tag, FCS and gap of IEEE 802.3
(PRESUMED, log entry 75). -/
def frameNs (s : State) (n bytes : Nat) : Nat :=
  cdiv (4 * (8 + 14 + (if s.ethTag n = 0 then 0 else 4) + max 46 bytes + 4 + 12)) 5

/-- A frame leaves a port at the next frame boundary, with its tag and the own MAC address before its data (R70). -/
def ethOut (n : Fin 2) (msg sidx bytes : Nat) (data : List Nat) (s : State) : State :=
  let t := max s.tick (s.tel[n]).wireEnd
  ({ s with sent := ⟨t, 64 + n.val, msg, false, sidx, s.ethTag n :: s.ethMac n :: data⟩ :: s.sent } : State).upTel n
    fun x => { x with wireEnd := t + s.frameNs n bytes }

/-- The oldest datagram that waits goes out once no frame is on the port, to the static destination; a PTP event frame
has taken the boundary before it (R70). -/
def ethNext (n : Fin 2) (s : State) : State :=
  match (s.tel[n]).egress with
  | [] => s
  | (q, d) :: l =>
    if s.tick < (s.tel[n]).wireEnd then s
    else (s.upTel n fun x => { x with egress := l }).ethOut n 0x200 q (28 + d.length)
      ([(s.rd (R.ETHn_TEL_MAC_LO n)).toNat + s.rf (R.ETHn_TEL_MAC_HI n) 15 0 * 2 ^ 32, (s.rd (R.ETHn_IP n)).toNat,
        (s.rd (R.ETHn_TEL_IP n)).toNat, s.rf (R.ETHn_TEL_MAC_HI n) 31 16] ++ d)

/-- Every lane of a list changed. -/
def onLanes (l : List Nat) (f : LaneSt → LaneSt) (s : State) : State :=
  { s with lane := l.foldl (fun v n => vupdN v n f) s.lane }

/-- A lane at step 1 of training: LOCK, with its taps at PRESET (R363, R364). -/
def laneLock (x : LaneSt) : LaneSt :=
  { x with st := .lock, pos := 0, ams := 0, amBad := 0, block := false, goodAt := none, bad := [], pre := 0, main_ := 48, post := 4, reqs := 0
           mySeq := 0, myReq := 0, waiting := false, farSeq := none, resp := 0, doneTx := false, doneRx := false
           skew := 0, amAt := none, elastic := 0 }

/-- The CFG access in progress on a port ends with a result (R385). -/
def cfgPost (p : Port) (code : Nat) (s : State) : State :=
  match (s.port[p]).cfg with
  | none => s
  | some q =>
    let s := s.upPort p fun x => { x with cfg := none }
    if q.ident then s
    else (s.advance (R.PORTp_CFG_RESULT p.val) 31 24).setF (R.PORTp_CFG_RESULT p.val) 7 0 code

/-- What a port loses when it leaves UP or IDENT: parcels outstanding and waiting, counts of the receiver, heartbeats;
a pending access posts PORT_DOWN (R380, R388). -/
def portClear (p : Port) (s : State) : State :=
  (s.cfgPost p 5).upPort p fun x =>
    { x with txSeq := 0, unacked := [], waiting := [], replays := 0, rxNext := 0, nakOut := false, ackDue := 0
             hbSeen := false, hbMiss := 0, hbSent := [], width := 0 }

/-- Training of an enabled port starts at step 1: with all its lanes, or on a port at half width with the lanes it uses
(R364, R368). -/
def portTrain (p : Port) (full : Bool) (s : State) : State :=
  let s := s.portClear p
  if s.portOn p.val && s.portEn p.val && s.rateOk p.val then
    let half := (s.port[p]).degraded && !full
    let l := if half then (s.port[p]).half else s.portLanes p.val
    ((s.onLanes (s.portLanes p.val) fun x => { laneLock x with st := .off }).onLanes l laneLock).upPort p fun x =>
      { x with st := .train, trainAt := s.tick, degraded := half, half := if half then l else [], amNext := none }
  else s

/-- A port that is disabled. One at half width stays so for its next training (R368). -/
def portOff (p : Port) (s : State) : State :=
  ((s.portClear p).onLanes (s.portLanes p.val) fun x => { laneLock x with st := .off }).upPort p fun x =>
    { x with st := .off, amNext := none }

/-- A port goes DOWN: it sends nothing more, raises YW_PORT_DOWN, and trains again with AUTO (R388). -/
def portFall (p : Port) (s : State) : State :=
  let s := ((s.portClear p).report 0x40 p.val 0).upPort p fun x => { x with st := .down }
  if s.rb (R.PORTp_CTL p.val) 4 then s.portTrain p false else s

/-- A port in UP goes DOWN (R388). -/
def portDown (p : Port) (s : State) : State := if (s.port[p]).st ≠ .up then s else s.portFall p

/-! Parcels. -/

/-- A parcel put on the wire, kept for replay (R381). -/
def parcelOut (p : Port) (x : Parcel) (s : State) : State :=
  s.send p.val x.msg false x.seq (x.data.map BitVec.toNat)

/-- Waiting parcels go out while fewer than 64 are outstanding (R381). -/
def pumpGo (p : Port) : Nat → State → State
  | 0, s => s
  | k + 1, s =>
    let x := s.port[p]
    match x.waiting with
    | [] => s
    | q :: rest =>
      if 64 ≤ x.unacked.length then s
      else
        let q := { q with seq := x.txSeq }
        pumpGo p k ((s.parcelOut p q).upPort p fun y =>
          { y with waiting := rest, unacked := y.unacked ++ [q], txSeq := (y.txSeq + 1) % 65536
                   replayAt := if y.unacked.isEmpty then s.tick else y.replayAt })

/-- A parcel handed to a port that is in UP or IDENT (R379, R381). -/
def parcel (p : Port) (msg : Nat) (data : List Byte) (s : State) : State :=
  if s.portTalks p then
    pumpGo p 1 (s.upPort p fun x => { x with waiting := x.waiting ++ [⟨0, msg, data⟩] })
  else s

/-- `a` comes before `b` in sequence: (b - a) mod 65,536 from 1 to 32,768 (R380). -/
def seqBefore (a b : Nat) : Bool :=
  let d := (b + 65536 - a % 65536) % 65536
  1 ≤ d && d ≤ 32768

/-- Every parcel before `next` is released, and waiting ones follow (R381). -/
def ackTo (p : Port) (next : Nat) (s : State) : State :=
  let l := (s.port[p]).unacked
  let k := l.filter fun x => !seqBefore x.seq next
  if k.length = l.length then s
  else pumpGo p 64 (s.upPort p fun x => { x with unacked := k, replays := 0, replayAt := s.tick })

/-- Go-back-N: everything outstanding is sent again; REPLAY_MAX replays in a row take the port DOWN, from UP or IDENT (R381). -/
def replay (p : Port) (s : State) : State :=
  if (s.port[p]).unacked.isEmpty then s
  else
    let n := (s.port[p]).replays + 1
    let s := s.count (R.PORTp_TC1 p.val) 23 12
    if oneIfZero (s.rf (R.PORTp_TC1_CFG p.val) 7 0) ≤ n then
      (s.upPort p fun x => { x with replays := n }).portFall p
    else
      let s := s.upPort p fun x => { x with replays := n, replayAt := s.tick }
      s.each (s.port[p]).unacked (parcelOut p)

/-- ACK or NAK with NEXT (R362, R380). -/
def sendAck (p : Port) (nak : Bool) (s : State) : State := s.send p.val 0x133 false (s.port[p]).rxNext [b2n nak]

/-- One NAK until NEXT advances (R380). -/
def sendNak (p : Port) (s : State) : State :=
  if (s.port[p]).nakOut then s
  else ((s.sendAck p true).count (R.PORTp_TC1 p.val) 11 0).upPort p fun x => { x with nakOut := true }

/-- A good parcel with its SEQ: delivered to `f` in order, discarded as a duplicate, or answered by a NAK (R380). -/
def rxParcel (p : Port) (seq : Nat) (f : State → State) (s : State) : State :=
  if !s.portTalks p then s
  else if seq = (s.port[p]).rxNext then
    f (s.upPort p fun x =>
      { x with rxNext := (x.rxNext + 1) % 65536, nakOut := false, ackDue := x.ackDue + 1
               ackAt := if x.ackDue = 0 then s.tick else x.ackAt })
  else if seqBefore seq (s.port[p]).rxNext then s.count (R.PORTp_TC1 p.val) 31 24
  else s.sendNak p

/-- Port TP. -/
def tp : Port := 32

end State

end Sys2Proof.Machine
end

