-- ==== Sys2Proof/Machine/Cells.lean ====
section
/-! DEFINITION. Blocks of the Yawell link: what a message looks like on the wire, what a receiver finds wrong with a cell,
and the FILL columns of both ends (R360 to R363, R370, R374 to R376, R379, R383). -/

namespace Sys2Proof.Machine

/-! What is sent. -/

/-- The bytes of a block, most significant first. -/
def blockBytes (w : DWord) : List Byte := toBytesBE 8 w.toNat

/-- The first block of a cell: MSG, F, SIDX, the 33 bits of PAYLOAD, and CRC-8 over them (R374). -/
def headBlock (msg : Nat) (f : Bool) (sidx payload : Nat) : DWord :=
  let v := msg % 64 * 2 ^ 58 + b2n f 57 + sidx % 65536 * 2 ^ 41 + payload % 2 ^ 33 * 256
  BitVec.ofNat 64 (v + (crc8 (toBytesBE 7 (v / 256))).toNat)

/-- The bytes that the CRC-16 of a multi-block cell covers: all before its field (R375). -/
def coveredBytes (l : List DWord) : List Byte := let b := l.flatMap blockBytes; b.take (b.length - 2)

/-- A multi-block cell from its first block and the further ones, with the CRC-16 in bits [15:0] of the last (R375). -/
def cellOf (head : DWord) (more : List Nat) : List DWord :=
  match more.reverse with
  | [] => [head]
  | z :: before =>
    let l := head :: before.reverse.map (BitVec.ofNat 64)
    let last := z / 65536 * 65536
    l ++ [BitVec.ofNat 64 (last + (crc16 (coveredBytes (l ++ [BitVec.ofNat 64 last]))).toNat)]

/-- PAYLOAD and the further blocks of a cell that the EL2 sends, from its fields in the order of their table (R383). -/
def cellFields (msg : Nat) (d : List Nat) : Nat × List Nat :=
  let x (i : Nat) := d.getD i 0
  if msg = 0x01 then (x 0 % 4 * 2 ^ 31, [])
  else if msg = 0x02 then (x 0 % 65536 * 2 ^ 17 + x 1 % 2 * 2 ^ 16 + x 2 % 8 * 2 ^ 13, [])
  else if msg = 0x03 then (x 0 % 512 * 2 ^ 24 + x 1 % 2 * 2 ^ 23, [])
  else if msg = 0x04 then (x 0 % 2 * 2 ^ 32, [])
  else if msg = 0x05 then (x 0 % 2 * 2 ^ 32 + x 1 % 256 * 2 ^ 24, [])
  else if msg = 0x30 then (x 0 % 2 ^ 32 * 2, [x 1 % 2 ^ 64, 0])
  else if msg = 0x31 then (x 0 % 16 * 2 ^ 29, [])
  else if msg = 0x32 then (x 0 % 2 ^ 32 * 2, [x 1 % 2 ^ 32 * 2 ^ 32])
  else (x 0 % 2 ^ 32 * 2, [x 1 % 2 * 2 ^ 63 + x 2 % 2 * 2 ^ 62])

/-- A parcel: PSOP, the PDATA blocks with seven bytes each, PEOP with its CRC-32 (R362, R379). -/
def parcelBlocks (seq msg : Nat) (d : List Byte) : List DWord :=
  let c := crc32 (toBytes 2 seq ++ [BitVec.ofNat 8 msg, BitVec.ofNat 8 d.length] ++ d)
  let part (i : Nat) := BitVec.ofNat 64 (0x2D * 2 ^ 56 + ofBytes ((d.drop (7 * i)).take 7))
  [BitVec.ofNat 64 (0x78 * 2 ^ 56 + seq % 65536 * 2 ^ 40 + msg % 256 * 2 ^ 32 + d.length % 256 * 2 ^ 24)] ++
    (List.range (cdiv d.length 7)).map part ++ [BitVec.ofNat 64 (0x87 * 2 ^ 56 + c.toNat * 2 ^ 24)]

/-- A TRAIN block from its fields (R363). -/
def trainBlock (d : List Nat) : DWord :=
  let x (i : Nat) := d.getD i 0
  BitVec.ofNat 64 (0x55 * 2 ^ 56 + x 0 % 16 * 2 ^ 52 + x 1 % 16 * 2 ^ 48 + x 2 % 16 * 2 ^ 44 + x 3 % 16 * 2 ^ 40 +
    x 4 % 256 * 2 ^ 32 + x 5 % 256 * 2 ^ 24 + x 6 % 16 * 2 ^ 20 + x 7 % 64 * 2 ^ 14 + x 8 % 16 * 2 ^ 10)

/-- An AM block from PORT_ID, LANE, WIDTH and BIP8: its low half is its high half inverted (R369). -/
def amBlock (d : List Nat) : DWord :=
  let x (i : Nat) := d.getD i 0
  let hi := 0x4B * 2 ^ 24 + x 0 % 256 * 2 ^ 16 + x 1 % 16 * 2 ^ 12 + x 2 % 16 * 2 ^ 8 + x 3 % 256
  BitVec.ofNat 64 (hi * 2 ^ 32 + (2 ^ 32 - 1 - hi))

/-- The blocks of what was handed to the transmitter of a Yawell port, one behind the other: no other data block and no
parcel block stands between those of a cell; an AM from its port, lane, width and parity (R362, R369, R374, R375, R379). -/
def Sent.blocks (c : Sent) : List DWord :=
  if 35 ≤ c.port then []
  else if c.msg < 0x40 then
    let (payload, more) := cellFields c.msg c.data
    cellOf (headBlock c.msg c.f c.sidx payload) more
  else if c.msg < 0x100 then parcelBlocks c.sidx c.msg (c.data.map (BitVec.ofNat 8))
  else if c.msg = 0x11E then [BitVec.ofNat 64 (0x1E * 2 ^ 56)]
  else if c.msg = 0x14B then [amBlock c.data]
  else if c.msg = 0x155 then [trainBlock c.data]
  else if c.msg = 0x133 then
    [BitVec.ofNat 64 (0x33 * 2 ^ 56 + c.sidx % 65536 * 2 ^ 40 + c.data.getD 0 0 % 256 * 2 ^ 32)]
  else []

/-! What is received. -/

/-- The far end of a port may send a TC0 message (R189, R387). -/
def farSends (p : Port) (msg : Nat) : Bool :=
  if msg = 0x01 then true
  else if p.val < 16 then (0x07 ≤ msg && msg ≤ 0x09) || (0x10 ≤ msg && msg ≤ 0x12)
  else if p.val < 32 then msg == 0x06
  else if p.val = 32 then 0x30 ≤ msg && msg ≤ 0x32
  else p.val == 33 && 0x10 ≤ msg && msg ≤ 0x1F

/-- The number of blocks of a far end's cell, from its first block: an IMG_LINE names its width (R383). -/
def farBlocks (w : DWord) : Nat :=
  let msg := nfld w.toNat 63 58
  if msg = 0x08 then 1 + cdiv (8 * (nfld w.toNat 17 14 + 1) + 1) 4
  else if 0x10 ≤ msg ∧ msg ≤ 0x1F ∨ msg = 0x32 then 2
  else if msg = 0x30 then 3
  else 1

/-- A block is a FILL or an AM: it may stand between the blocks of a cell (R362, R370). -/
def rxColumn (b : RxBlk) : Bool := b.hdr == 2 && (nfld b.data.toNat 63 56 == 0x1E || nfld b.data.toNat 63 56 == 0x4B)

/-- A block has an invalid sync header (R360). -/
def rxBad (b : RxBlk) : Bool := b.hdr == 0 || b.hdr == 3

/-- The further `n` data blocks of a cell, or why it is dropped: an invalid sync header, or a control block other than
FILL and AM (R376). -/
def moreBlocks : Nat → List RxBlk → Except DropCause (List DWord)
  | 0, _ => .ok []
  | _ + 1, [] => .error .cut
  | n + 1, b :: rest =>
    if rxColumn b then moreBlocks (n + 1) rest
    else if b.hdr = 2 then .error .cut
    else if rxBad b then .error .header
    else (b.data :: ·) <$> moreBlocks n rest

/-- The control types of R362. -/
def knownType (t : Nat) : Bool := [0x1E, 0x4B, 0x55, 0x78, 0x2D, 0x87, 0x33].contains t

/-- Why a receiver drops the cell, or the unknown control block, that begins a list of blocks; none where it does not
(R362, R374 to R376). -/
def rxDrop (p : Port) (l : List RxBlk) : Option DropCause :=
  match l.dropWhile rxColumn with
  | [] => none
  | b :: rest =>
    let w := b.data
    if rxBad b then some .header
    else if b.hdr = 2 then (if knownType (nfld w.toNat 63 56) then none else some .unknown)
    else if (crc8 ((blockBytes w).take 7)).toNat ≠ nfld w.toNat 7 0 then some .crc
    else if !farSends p (nfld w.toNat 63 58) then some .unknown
    else match moreBlocks (farBlocks w - 1) rest with
      | .error c => some c
      | .ok [] => none
      | .ok more =>
        let c := crc16 (coveredBytes (w :: more))
        if c.toNat = ((more.getLast?).map fun z : DWord => nfld z.toNat 15 0).getD 0 then none else some .crc

namespace State

/-- The time of a block on a port, ps (R358). -/
def blockPs (s : State) (p : Nat) : Nat :=
  let r := s.rf (R.PORTp_CTL p) 17 16
  if p = 32 then 2560 else if r = 0 then 6400 else if r = 1 then 5120 else 2560

/-- The block slot in which tick `t` lies, from the begin of the port's training. -/
def blockSlot (s : State) (p : Port) (t : Nat) : Nat := (t - (s.port[p]).trainAt) * 1000 / s.blockPs p.val

/-! Block lock (R360). -/

/-- A lane loses block lock; a port in UP that uses it goes DOWN (R360, R388). -/
def lockLost (n : Nat) (s : State) : State :=
  let s := s.onLanes [n] fun x => { x with block := false, goodAt := none, bad := [] }
  match s.lanePort n with
  | some p => if (s.usedLanes p.val).contains n then s.portDown p else s
  | none => s

/-- A valid sync header on a lane: 64 in a row give block lock, counted from the first block that a command has brought since the
last invalid one (R360; DESIGN CHOICE, log entry 54). -/
def headerGood (n : Nat) (p : Port) (s : State) : State :=
  s.onLanes [n] fun x =>
    let t0 := x.goodAt.getD s.tick
    { x with signal := true, goodAt := some t0, block := x.block || decide (64 * s.blockPs p.val ≤ (s.tick - t0) * 1000) }

/-- An invalid sync header on a lane: counted, and the 16th within 64 blocks takes the block lock (R360, LANEn_CNT). -/
def headerBad (n : Nat) (p : Port) (s : State) : State :=
  let k := s.blockSlot p s.tick
  let s := (s.count (R.LANEn_CNT n) 31 16).onLanes [n] fun x => { x with goodAt := none, bad := (k :: x.bad).take 16 }
  let l := ((vget? s.lane n).map (·.bad)).getD []
  if 16 ≤ l.length ∧ k < l.getLastD k + 64 then s.lockLost n else s

/-- The sync headers of blocks, on their lanes (R360). -/
def countHeaders (p : Port) (l : List RxBlk) (s : State) : State :=
  s.each l fun b t =>
    match (t.usedLanes p.val)[b.pos.val]? with
    | some n => if rxBad b then t.headerBad n p else t.headerGood n p
    | none => t

/-! TRAIN blocks and FILL columns (R364, R370). -/

/-- The code of a lane state in a TRAIN block (R363). -/
def trainCode : LaneState → Nat
  | .lock => 1 | .eq => 2 | .eqDone => 3 | _ => 0

/-- A TRAIN block of this transmitter (R363). -/
def sendTrain (n : Lane) (p : Port) (s : State) : State :=
  let x := s.lane[n]
  s.send p.val 0x155 false 0 [trainCode x.st, (s.usedLanes p.val).idxOf n.val, x.myReq, x.resp, x.mySeq,
    x.farSeq.getD 0, x.pre, x.main_, x.post]

/-- The transmitter of a port runs: it trains or is up (R364). -/
def portSends (x : PortSt) : Bool := x.st == .train || x.st == .align_ || x.st == .ident || x.st == .up

/-- A lane is in LOCK or EQ. -/
def laneTrains (s : State) (n : Lane) : Bool := (s.lane[n]).st == .lock || (s.lane[n]).st == .eq

/-- What every port that sends does on its own: a TRAIN block in every 16th slot of a lane in LOCK or EQ, and a FILL column each
1,000 block slots, at least 2 in any 4,096 also where one waits for timing cells (R364, R370; log entry 95). -/
def fillTick (s : State) : State :=
  s.each ((List.finRange 35).filter fun p => portSends s.port[p]) fun p t =>
    let on_ (k : Nat) : Bool := t.blockSlot p (t.tick - 1) / k < t.blockSlot p t.tick / k
    let l := (List.finRange 64).filter fun n => (t.usedLanes p.val).contains n.val && t.laneTrains n
    let t := t.ifc (on_ 1000) (send p.val 0x11E false 0 [])
    t.ifc (on_ 16) fun t => t.each l fun n u => u.sendTrain n p

/-- The FILL columns that a receiver deletes and inserts where its elastic buffer of `depth` ps would hold `level`, and what it
holds then (R370). -/
def fillAdjust (bt depth : Nat) (level : Int) : Nat × Nat × Int :=
  let del := cdiv (level - depth).toNat bt
  let ins := cdiv (-level).toNat bt
  (del, ins, level - (del * bt : Nat) + (ins * bt : Nat))

/-- `k` columns on a count that saturates. -/
def countBy (a hi lo k : Nat) (s : State) : State := s.setF a hi lo (satN (hi + 1 - lo) (s.rf a hi lo + k))

/-- The blocks of a lane since its last marker against the time they took here: the elastic buffer takes the difference of the
two rates up, with FILL columns deleted and inserted (R369, R370). -/
def elasticAm (n : Lane) (p : Port) (gap : Nat) (s : State) : State :=
  let x := s.lane[n]
  let bt := s.blockPs p.val
  match x.amAt with
  | none => s.upLane n fun x => { x with amAt := some s.tick }
  | some t0 =>
    let (del, ins, level) := fillAdjust bt (Config.elasticDepth n.val * bt)
      (x.elastic + (gap * bt : Nat) - ((s.tick - t0) * 1000 : Nat))
    ((s.upLane n fun x => { x with amAt := some s.tick, elastic := level }).countBy (R.LANEn_CNT2 n.val) 31 16 del).countBy
      (R.LANEn_CNT2 n.val) 15 0 ins

end State

end Sys2Proof.Machine
end

