-- ==== Sys2Proof/Machine/Curve.lean ====
section
/-! DEFINITION. The power curve of a source and its linearisation (R351, R355). -/

namespace Sys2Proof.Machine

/-- The command of curve point `p` (R351). -/
def curveC (p : Nat) : Nat := min (p * 2048) 65535

/-- The command that delivers w / 65,535 of full scale under curve `wp` (R355): `P` is compared as w·FS over 65,535. -/
def linCmd (wp : Nat → Nat) (w : Nat) : Nat :=
  let fs := wp 32
  let n := w * fs
  if n ≤ wp 0 * 65535 then 0
  else if wp 32 * 65535 ≤ n then 65535
  else
    let p := (List.range 32).foldl (fun a i => if wp i * 65535 ≤ n then i else a) 0
    let d := wp (p + 1) - wp p
    curveC p + (rdiv ((n - wp p * 65535 : Nat) * (curveC (p + 1) - curveC p : Nat)) (65535 * d)).toNat

/-- The power fraction of a report on the scale of the commands (R355). -/
def linRpt (wp : Nat → Nat) (r : Nat) : Nat :=
  let fs := wp 32
  if r = 65535 then 65535
  else
    let p := (List.range 32).foldl (fun a i => if curveC i ≤ r then i else a) 0
    let dc := curveC (p + 1) - curveC p
    let num : Int := (wp p : Int) * dc + (r - curveC p : Nat) * ((wp (p + 1) : Int) - wp p)
    satN 16 (rdiv (num * 65535) (dc * fs)).toNat

namespace State

/-- The curve in service of source `b` (CAL_Pn_Wp). -/
def curveW (s : State) (b : Beam) (p : Nat) : Nat := (s.rd (R.CAL_Pn_Wp b.val p)).toNat

/-- A power word as LDn sends it (R355). -/
def linear (s : State) (b : Beam) (w : Nat) : Nat := if (s.cal.src[b]).lin then linCmd (s.curveW b) w else w

/-- A reported power as a power fraction (R355). -/
def delivered (s : State) (b : Beam) (r : Nat) : Nat := if (s.cal.src[b]).lin then linRpt (s.curveW b) r else r

/-- The command of a power-curve exposure of source `b` that runs at tick `t` (R352). -/
def exposed (s : State) (b : Beam) (t : Nat) : Option Nat :=
  match (s.cal.src[b]).expo with
  | some (p, t0, t1) => if t0 ≤ t ∧ t < t1 then some (curveC p) else none
  | none => none

end State

end Sys2Proof.Machine
end

