-- ==== Sys2Proof/Machine/Gate.lean ====
section
/-! DEFINITION. Cells to the transmitters, telemetry records, the gate of a beam and its edges (R118, R177, R178, R189,
R196, R198, R232, R374, R508, R518). -/

namespace Sys2Proof.Machine

namespace State

/-! Cells and telemetry. -/

/-- A TC0 cell with F the lead bit, on a port in UP; on TP F is 1 (R374, R391). -/
def cell (port msg sidx : Nat) (data : List Nat) (s : State) : State :=
  if s.portUp port then s.send port msg (s.cellF port) (sidx % 65536) data else s

/-- A TC0 cell that enters the transmit PHY boundary at tick `t` (R194). -/
def cellAt (t port msg sidx : Nat) (data : List Nat) (s : State) : State :=
  if s.portUp port then
    { s with sent := ⟨t, port, msg, s.cellF port, sidx % 65536, data⟩ :: s.sent }
  else s

/-- The telemetry port of beam `b` (PCUn_TEL.PORT). -/
def telPort (s : State) (b : Beam) : Fin 2 := if s.rb (R.PCUn_TEL b.val) 4 then 1 else 0

/-- Bytes of the records in the open datagram of an Ethernet port. -/
def telBytes (s : State) (e : Fin 2) : Nat := ((s.tel[e]).recs.map List.length).sum

/-- Bytes that wait in its egress queue. -/
def telHeld (s : State) (e : Fin 2) : Nat := s.telBytes e + ((s.tel[e]).egress.map fun x => x.2.length).sum

/-- A telemetry record; dropped and counted where the egress queue has no room (R232, R233). -/
def telRec (b : Beam) (r : List Byte) (s : State) : State :=
  let e := s.telPort b
  if !s.rb (R.ETHn_CTL e.val) 1 then s
  else if s.telHeld e + r.length ≤ Config.egressCap then
    s.upTel e fun t => { t with recs := t.recs ++ [r], openAt := if t.recs.isEmpty then s.tick else t.openAt }
  else
    s.upTel e fun t => { t with dropped := satN 32 (t.dropped + 1), dropFrc := if t.dropped = 0 then s.frc else t.dropFrc }

/-! Emission off and the gate. -/

/-- A cause of R518 holds on LPn. -/
def offCause (s : State) (b : Nat) : Bool := s.ldc.latch || s.ldc.kill || s.rb (R.LDn_CTL b) 12

/-- Channel `b` is enabled (R193). -/
def ldOn (s : State) (b : Nat) : Bool := s.beamOn b && s.rb (R.LDn_CTL b) 0

/-- EMIT_OFF with a STATE on LPn, launched now. -/
def sendEmitOff (b : Beam) (state : Nat) (s : State) : State := s.cell (16 + b.val) 0x04 s.sample [state]

/-- A power-curve exposure of source `b` runs at tick `t` (R352). -/
def exposing (s : State) (b : Beam) (t : Nat) : Bool := (s.exposed b t).isSome

/-- No condition of this device holds the gate of channel `b` low (R196). -/
def gateFree (s : State) (b : Beam) : Bool :=
  !s.offCause b.val && s.ldc.a && s.ldc.b && (s.dev.state == .run || (s.dev.state == .idle && s.exposing b s.tick))

/-- No condition but the gate intervals holds LGATEn low: the device also holds the lead bit (R196, R391). -/
def gateAllowed (s : State) (b : Beam) : Bool := s.gateFree b && s.twin.lead

/-- The carrier is high at tick `t` (R198). -/
def pwmHigh (s : State) (b : Beam) (t : Nat) : Bool :=
  match (s.ld[b]).pwm with
  | some (p, on) => decide (8 * (t : Int) < p + on)
  | none => false

/-- PWM gate mode, as sampled at S (R192, R197). -/
def pwmMode (s : State) (b : Beam) : Bool := bit (s.ld[b]).cfg[0] 8

/-- The level of LGATEn (R196, R199, R352). -/
def lgate (s : State) (b : Beam) : Bool :=
  s.gateAllowed b &&
    (if s.dev.state == .run then s.gateOpen b s.tick else s.exposing b s.tick) &&
    (!s.pwmMode b || s.pwmHigh b s.tick)

/-! The edges of LGATEn and their GATE_EVT cells (R189). -/

/-- The newest cell of a kind is taken back: it has not left yet. -/
def unsend (p : Sent → Bool) (s : State) : State := { s with sent := s.sent.eraseP p }

/-- LGATEn takes a level at `e` (125 ps of extended FRC): edges placed there or later do not occur, and an edge that does
sends GATE_EVT on its own tick with GEVT_EN 1 (R189). -/
def gateEdge (b : Beam) (e : Int) (rise : Bool) (s : State) : State :=
  let cut (x : Int × Bool) : Bool := decide (e ≤ x.1)
  let gone := (s.ld[b]).edges.takeWhile cut
  let kept := (s.ld[b]).edges.dropWhile cut
  let s := s.each gone fun x t => t.unsend fun y =>
    y.port == 16 + b.val && y.msg == 3 && y.at_ == (x.1 / 8).toNat && (y.data.head?.getD 0) % 8 == (x.1 % 8).toNat
  let was := (kept.head?.map (·.2)).getD false
  let s := s.upLd b fun l => { l with edges := (if was = rise then kept else (e, rise) :: kept).take 32 }
  if was = rise ∨ !s.rb (R.LDn_CTL b.val) 10 then s
  else
    let g := e + 8 * s.twin.ofs
    s.cellAt (e / 8).toNat (16 + b.val) 0x03 (g / 400).toNat [(g % 400).toNat, b2n rise]

/-- When LGATEn is high in the newest gate-open interval, as far as it is known: all through it, or in PWM mode while the
present pulse of the carrier lasts (R196, R199). -/
def gateSpan (s : State) (b : Beam) : Option (Int × Option Int) :=
  (s.be[b]).gates.head?.bind fun g =>
    if !s.pwmMode b then some (g.on_, g.off)
    else (s.ld[b]).pwm.bind fun (p, on) =>
      let lo := max p g.on_
      let hi := match g.off with
        | some o => min o (p + on)
        | none => p + on
      if lo < hi then some (lo, some hi) else none

/-- The edges of that span from an instant on. -/
def gateEdges (b : Beam) (from_ : Int) (s : State) : State :=
  match (if s.gateFree b then s.gateSpan b else none) with
  | none => s
  | some (lo, none) => s.gateEdge b (max lo from_) true
  | some (lo, some hi) =>
    if hi ≤ from_ then s.gateEdge b from_ false else (s.gateEdge b (max lo from_) true).gateEdge b hi false

/-- LGATEn after a change of what holds it low (R189, R196). -/
def gateSync (b : Beam) (s : State) : State :=
  if s.gateFree b then s.gateEdges b (8 * (s.tick : Int)) else s.gateEdge b (8 * (s.tick : Int)) false

/-- LGATEn goes low with the gate-off at `e` of the newest interval, or before it with the carrier's pulse; a high time below
2 ns never was (R199, R508). -/
def gateDown (b : Beam) (e : Int) (s : State) : State :=
  match (s.be[b]).gates.head? with
  | none => s
  | some g =>
    if e < g.on_ + 16 then s.gateEdge b g.on_ false
    else if !s.pwmMode b then s.gateEdge b e false
    else match (s.ld[b]).pwm with
      | some (p, on) => s.gateEdge b (min e (p + on)) false
      | none => s.gateEdge b e false

/-- Edges of LDn from `e` on that do not occur are no items of the checkpoint window (R406, R508). -/
def cutItems (b : Beam) (e : Int) (s : State) : State :=
  let g := e + 8 * s.twin.ofs
  if s.twin.winAt.isNone then s
  else s.upTwin fun t => { t with items := t.items.filter fun x =>
    !(x.ord == 2 && x.rank / 1000 == b.val && decide (g ≤ 400 * (x.k : Int) + (x.rank % 1000 : Nat))) }

/-- An edge that a beam engine or an exposure places, as an item of the checkpoint window: later ones do not occur, and one to
the level that LDn has is none (R406). -/
def gateItem (b : Beam) (e : Int) (rise : Bool) (s : State) : State :=
  let g := e + 8 * s.twin.ofs
  let was := (s.be[b]).gates.any fun x => decide (x.on_ < e) && (match x.off with
    | some o => decide (e ≤ o)
    | none => true)
  let s := s.cutItems b e
  if was = rise then s
  else s.digItem (g / 400).toNat 2 (b.val * 1000 + (g % 400).toNat)
    ([BitVec.ofNat 8 b.val] ++ toBytes 2 (g % 400).toNat ++ [BitVec.ofNat 8 (b2n rise)])

/-- After an action on channel `b` that held a cause of R518 or not (`before`): STATE 1 at once with its repeats, or the
three cells of STATE 0 on the change at which the last cause ends (R518). LGATEn follows (R196). -/
def emitChange (b : Beam) (before : Bool) (s : State) : State :=
  let now := s.offCause b.val
  if now && !before then
    ((if s.ldOn b.val then s.sendEmitOff b 1 else s).upLd b fun x =>
      { x with relLeft := 0, offNext := s.tick + 1000 }).gateSync b
  else if !now && before then
    ((if s.ldOn b.val then s.sendEmitOff b 0 else s).upLd b fun l =>
      { l with relLeft := if s.ldOn b.val then 2 else 0, offNext := s.tick + 1000 }).gateSync b
  else s

/-- A change of the causes common to all channels (R200, R205, R518). -/
def withEmit (f : State → State) (s : State) : State :=
  let t := f s
  t.each (List.finRange 16) fun b u => u.emitChange b (s.offCause b.val)

/-- LASER_KILL_N is asserted: its first cause is kept, and EMIT_OFF goes to every enabled port (R205, R518). -/
def kill (cause : Nat) (s : State) : State := s.withEmit (assertKill cause)

/-- A MUSTER cell of sample `m` on LPn, launched LDn_MUSTER_DLY ns into it; a barrier cell replaces a grid cell of the
same sample, and a grid cell does not follow another MUSTER cell of it (R194, R195). -/
def muster (b : Beam) (m kind id : Nat) (s : State) : State :=
  let t := s.sampleAt m + fld (s.ld[b]).cfg[2] 10 0
  let is_ (x : Sent) : Bool := x.port == 16 + b.val && x.msg == 5 && x.at_ == t
  if kind = 0 then
    if s.sent.any is_ then s else s.cellAt t (16 + b.val) 0x05 m [0, 0]
  else (s.unsend fun x => is_ x && x.data.head? == some 0).cellAt t (16 + b.val) 0x05 m [1, id]

/-! The lag term (R177, R178). -/

/-- LAG_MAX as sampled at S, ns (R186). -/
def lagMax (s : State) (b : Beam) : Nat := min (fld (s.be[b]).cfg[1] 19 0) 600000

/-- BEn_LAG_DEF, 125 ps. -/
def lagDef (s : State) (b : Beam) : Int := (8 * fld (s.be[b]).cfg[2] 19 0 : Nat)

/-- The latest instant, in ns, at which the command equalled the estimate `h`, and the bed coordinate commanded there, over
a history of instants, head units and bed coordinates, newest first; linear between entries. -/
def lagSearch (h : Int) : List (Nat × Int × Int) → Option (Q × Q)
  | (tn, hn, xn) :: (t0, ho, xo) :: l =>
    if (ho ≤ h ∧ h ≤ hn) ∨ (hn ≤ h ∧ h ≤ ho) then
      if hn = ho then some (Q.ofInt tn, Q.ofInt xn)
      else
        let f := Q.mk' ((h - ho) * (hn - ho)) ((hn - ho).natAbs * (hn - ho).natAbs)
        some ((Q.ofInt t0).add (f.mul (Q.ofInt ((tn : Int) - t0))), (Q.ofInt xo).add (f.mul (Q.ofInt (xn - xo))))
    else lagSearch h ((t0, ho, xo) :: l)
  | _ => none

/-- The commanded speed over a span of ns, in which the command went from one bed coordinate to another, is below VMIN; with
no span it is the speed `v` of that instant (R177). VMIN in mm/s is VMIN nm per 1000 ns. -/
def belowVmin (vmin : Nat) (v span from_ to_ : Q) : Bool :=
  if span.isZero then ((Q.ofInt 1000).mul v.abs).lt (Q.ofInt vmin)
  else ((Q.ofInt 1000).mul (to_.sub from_).abs).lt (span.mul (Q.ofInt vmin))

/-- The lag term of an edge scheduled at `e` (125 ps of extended FRC), before its limits, 125 ps (R177). Which axis is the
faster one, and VMIN, are judged on the command on the bed (DESIGN CHOICE, log entry 102). -/
def lagTerm (s : State) (b : Beam) (e : Int) : Int :=
  let g := s.be[b]
  if !s.rb (R.BEn_CTL b.val) 8 then s.lagDef b
  else
    match (g.obs[0]).find? fun o => 8 * (o.done : Int) + 4000 ≤ e with
    | none => s.lagDef b
    | some ox =>
      let (_, v) := s.posAt b (Q.ofInt ox.at_)
      let useY := v.x.abs.lt v.y.abs
      let o? := if useY then (g.obs[1]).find? fun o => 8 * (o.done : Int) + 4000 ≤ e else some ox
      match o? with
      | none => s.lagDef b
      | some o =>
        if !o.ok then s.lagDef b
        else
          let hs := (g.hist.filter fun c => c.at_ ≤ o.at_).map fun c =>
            if useY then (c.at_, c.hy, c.p.y) else (c.at_, c.hx, c.p.x)
          match lagSearch o.est hs, hs.head? with
          | some (t', x0), some (_, _, x1) =>
            let span := (Q.ofInt o.at_).sub t'
            if belowVmin (fld g.cfg[1] 31 20) (if useY then v.y else v.x) span x0 (Q.ofInt x1) then s.lagDef b
            else (span.mul (Q.ofInt 8)).round
          | _, _ => s.lagDef b

/-- The lag term within 0 to LAG_MAX, and whether the limit moved it (R178). -/
def lagLimited (s : State) (b : Beam) (e : Int) : Nat × Bool :=
  let t := s.lagTerm b e
  let u := max 0 (min t (8 * s.lagMax b : Nat))
  (u.toNat, u ≠ t)

/-- LAG_CLAMP advanced where a limit moved an edge, and LAG_LAST (R178). -/
def lagNote (b : Beam) (tau : Nat) (moved : Bool) (s : State) : State :=
  (s.wr (R.BEn_LAG_LAST b.val) (w32 tau)).ifc moved (count (R.BEn_CNT b.val) 31 16)

/-- A stroke of the FIFO replaced, by its key. -/
def setStroke (b : Beam) (k : Key) (f : Stroke → Stroke) (s : State) : State :=
  s.upBe b fun e => { e with fifo := e.fifo.map fun x => if x.key = k then f x else x }

/-- A gate-open interval added; a low time below 2 ns is closed up, and only recent intervals are kept (R508). -/
def openIv (b : Beam) (g : GateIv) (s : State) : State :=
  s.upBe b fun e =>
    { e with gates := (g :: (match e.gates with
        | h :: t => (match h.off with
          | some o => if g.on_ < o + 16 ∧ o < g.on_ then { h with off := some g.on_ } else h
          | none => h) :: t
        | [] => [])).take 64 }

/-- The newest interval gets its end; a high time below 2 ns is never output (R508). -/
def closeIv (b : Beam) (off : Int) (s : State) : State :=
  s.upBe b fun e =>
    { e with gates := match e.gates with
        | h :: t => if off < h.on_ + 16 then t else { h with off := some off } :: t
        | [] => [] }

/-- A stroke as a part of its chain's gate-open interval (R176). -/
def partOf (st : Stroke) : Nat × Nat × Nat × Nat × Bool := (st.pathEnd, st.power, st.profile, st.irefScale, st.fbHold)

/-- The parts of the interval that the gate-on of stroke `st` opens: it and the blended strokes after it that have begun
(R176 rule 3). -/
def chainParts (l : List Stroke) (st : Stroke) : List (Nat × Nat × Nat × Nat × Bool) :=
  let rest := (l.drop ((l.findIdx? fun x => x.key = st.key).getD 0)).drop 1
  (st :: rest.takeWhile fun x => x.blendIn && x.began).map partOf

/-- The gate-on edge of a stroke at scheduled instant `e`: its lag term, limits and interval (R177, R178). -/
def placeOn (b : Beam) (s0 : Nat) (st : Stroke) (e : Int) (s : State) : State :=
  let (tau, m1) := s.lagLimited b e
  let low : Int := 8 * (s0 + st.slotAt + st.tBr : Nat)
  let at_ := max (e + tau) low
  let s := (s.lagNote b tau (m1 || at_ ≠ e + tau)).setStroke b st.key fun x => { x with onDone := true, tau := tau }
  let old := (s.be[b]).gates.head?.bind (·.off)
  let s := s.openIv b ⟨at_, none, tau, chainParts (s.be[b]).fifo st⟩
  -- a low time below 2 ns is closed up
  let s := match old with
    | some o => if o < at_ ∧ at_ < o + 16 then (s.cutItems b o).gateEdge b o true else s
    | none => s
  (s.gateItem b at_ true).gateEdges b 0

/-- The gate-off edge of a stroke; a blended chain keeps the lag term of its gate-on (R178). A chain that an end-of-stroke
stop ends at its first stroke takes the lag term of its gate-off (DESIGN CHOICE, log entry 102). -/
def placeOff (b : Beam) (s0 : Nat) (st : Stroke) (e : Int) (s : State) : State :=
  let (tau, m1) := if st.blendIn then (((s.be[b]).gates.head?.map (·.tau)).getD 0, false) else s.lagLimited b e
  let high : Int := 8 * (s0 + st.slotEnd : Nat)
  let at_ := min (e + tau) high
  let s := (s.lagNote b tau (m1 || at_ ≠ e + tau)).setStroke b st.key fun x => { x with offDone := true }
  let end_ := match (s.be[b]).gates.head? with
    | some g => if at_ < g.on_ + 16 then g.on_ else at_
    | none => at_
  ((s.gateItem b end_ false).gateDown b at_).closeIv b at_

/-- The first stroke with an edge not yet placed: S, the stroke, and the edge in 125 ps of extended FRC, true for
gate-on. -/
def nextEdge (s : State) (b : Beam) : Option (Nat × Stroke × Int × Bool) :=
  -- after an at-once stop no edge is placed any more (R180)
  match (if ((s.be[b]).move.map (·.form)).getD 2 = 2 then s.running b else none) with
  | none => none
  | some s0 =>
    let on (st : Stroke) : Option (Nat × Stroke × Int × Bool) :=
      if st.onDone then none else st.gOn.map fun g => (s0, st, 8 * (s0 : Int) + g, true)
    let off (st : Stroke) : Option (Nat × Stroke × Int × Bool) :=
      if st.offDone then none else st.gOff.map fun g => (s0, st, 8 * (s0 : Int) + g, false)
    (s.be[b]).fifo.findSome? fun st => (on st).or (off st)

/-- A trigger of kind `mode` for the frame capture of beam `b`: it starts an armed capture of that mode and is ignored
otherwise (R231). -/
def capTrigger (b : Beam) (mode : Nat) (s : State) : State :=
  if (s.pcu[b]).capArmed && s.rf (R.PCUn_CAP_CTL b.val) 18 16 == mode then
    s.upPcu b fun p => { p with capArmed := false, capFrom := some s.tick, capOff := 0 }
  else s

end State

/-- GATE_EDGE: the beam's next edge is placed at its scheduled instant plus the lag term, within the limits. The engine
places it from 500 ns before the scheduled instant on (R177, R178). -/
def execGateEdge (b : Beam) (s : State) : Res :=
  match s.nextEdge b with
  | none => .next s
  | some (s0, st, e, on) =>
    if 8 * ((s.tick : Int) + 500) < e then .next s
    else .next (if on then s.placeOn b s0 st e else s.placeOff b s0 st e)

end Sys2Proof.Machine
end

