-- ==== Sys2Proof/Machine/Beam.lean ====
section
/-! DEFINITION. Events and stops of a beam engine (R93, R100, R106, R123, R135, R161, R179 to R183, R188, R270). -/

namespace Sys2Proof.Machine

namespace State

/-- PROMISE_MISS of beam `b` at scheduled JT `t`: the context of the first miss is kept until RESET (R25, R161). -/
def promiseMiss (kind : Nat) (b : Beam) (t : Nat) (s : State) : State :=
  let slot := match s.runSlot with
    | some n => n.val
    | none => 0
  let s := s.report 0x04 0 0
  let s := s.record 0x22 ([2, 0] ++ toBytes 2 b.val ++ toBytes 4 s.frc.toNat ++ toBytes 8 t)
  if s.rd R.JOB_MISS = 0 then
    (s.wr R.JOB_MISS (w32 (kind * 2 ^ 28 + b.val * 2 ^ 16 + slot))).wr R.JOB_MISS_JT (w32 t)
  else s

/-- The effect that a control instruction waiting for decode will have on the decode state; `l` holds the scratch words that
those before it write. None for a stroke, for HALT, and for an LGQ whose view is not final. -/
def ctlAhead (s : State) (b : Beam) (pr : Promise) (i : PInstr) (p : PState) (l : List (Nat × Word)) :
    Option (PState × List (Nat × Word)) :=
  let go (q : PState) : Option (PState × List (Nat × Word)) := some (q, l)
  match i with
  | .zacq set => go (p.zacqStep set.toNat (waitFor pr b p.key))
  | .zrel => go { p.pass with held := none }
  | .muster id _ _ => go (p.musterStep id.toNat (waitFor pr b p.key))
  | .waitt rel target => go (p.waittStep rel target)
  | .alu op a => go (p.alu op a)
  | .ld a =>
    let ad := scratchBase b + p.scratchOf a
    go (p.load a.rd (((l.find? (·.1 = ad)).map (·.2)).getD (s.rd32 ad)))
  | .st a => some (p.pass, (scratchBase b + p.scratchOf a, p.gr a.rb) :: l)
  | .rdp a => go (p.load a.rd (p.rdpVal a.imm32.toNat))
  | .loop creg rc bound body => go (p.loopStep (p.loopCount creg rc bound).1 body)
  | .endl _ => go p.endlStep
  | .br cond offset => go (p.brStep cond offset)
  | .lgq rd rx ry useP =>
    let t := p.count.time
    let q : Pt := if useP then ⟨p.px.toInt, p.py.toInt⟩ else ⟨(p.gr rx).toInt, (p.gr ry).toInt⟩
    if s.viewReady b t then go (p.lgqStep rd (s.viewRead q (s.viewTick b t) none)) else none
  | .pset reg rs sel imm32 => go (p.psetStep reg rs sel imm32)
  | .focus reg rel rs imm32 => go (p.focusStep (i32 (s.satZ b (p.focusVal reg rel rs imm32).toInt)))
  | .markev _ _ _ _ _ => go p.pass
  | .mark _ | .jump _ | .arc _ | .spot _ | .halt => none

/-- The stroke that beam `b` comes to next from a decode state, through at most `n` control instructions not decoded yet. -/
def strokeAhead (s : State) (b : Beam) (pr : Promise) : Nat → PState → List (Nat × Word) → Option Key
  | 0, _, _ => none
  | n + 1, p, l =>
    let p := merged pr b p
    match (pr.code.find? fun c => c.1 = b.val ∧ c.2.1 = p.pc).map (·.2.2) with
    | none => none
    | some i =>
      match i with
      | .mark _ | .jump _ | .arc _ | .spot _ => some p.key
      | i => match s.ctlAhead b pr i p l with
        | some (q, l) => strokeAhead s b pr n q l
        | none => none

/-- The scheduled begin of the slot of the stroke that beam `b` decodes next, with the scheduled JT that a miss reports: its
s (R161, R170). -/
def dueNext (s : State) (b : Beam) : Option (Nat × Nat) :=
  match s.promiseOf b with
  | none => none
  | some pr =>
    match strokeAhead s b pr 65536 (s.be[b]).dec [] with
    | none => none
    | some k =>
      let at_ (l : List (Nat × Key × Nat)) : Option Nat := (l.find? fun g => g.1 = b.val ∧ g.2.1 = k).map (·.2.2)
      match at_ pr.slots, at_ pr.begins with
      | some t, some j => some (t, j)
      | _, _ => none

/-- The first stroke of the blended chain of stroke `k`, while the FIFO holds it. -/
def chainHead (k : Key) (l : List Stroke) : Option Stroke :=
  let before := l.take (((l.findIdx? fun x => x.key = k).getD 0) + 1)
  before.reverse.find? fun x => !x.blendIn

/-- The chain's gate-on was placed. -/
def chainLit (e : BeamEng) (st : Stroke) : Bool := ((chainHead st.key e.fifo).map (·.onDone)).getD true

/-- A blended stroke that begins joins its chain's interval, once the chain's gate-on is placed (R176 rule 3). -/
def chainPart (b : Beam) (st : Stroke) (s : State) : State :=
  if st.blendIn && chainLit s.be[b] st then
    s.upBe b fun e => { e with gates := match e.gates with
      | g :: l => { g with parts := g.parts ++ [partOf st] } :: l
      | [] => [] }
  else s

/-! Stops. -/

/-- The end of the ramp or of the hold, as whole nm. -/
def stopEnd (m : StopMove) : Pt := ((stopAt m (Q.ofInt m.endAt)).1).round

/-- A stop that holds at once at a point. -/
def holdAt (form tick : Nat) (p : QPt) : StopMove :=
  { form := form, t0 := tick, dur := ⟨0, 1⟩, from_ := p, vx := ⟨0, 1⟩, vy := ⟨0, 1⟩, endAt := tick, done := true }

/-- The deceleration of an at-once stop: the larger of the profile's ACC and STOP_ACC, in m/s² (R180). -/
def stopAcc (e : BeamEng) (st : Option Stroke) : Nat :=
  max 1 (max ((st.map (·.acc)).getD 0) (min (fld e.cfg[3] 20 0) 2000000))

/-- The ramp of an at-once stop at tick `t` from a position and a velocity (R180). -/
def rampOf (form t acc : Nat) (p : QPt) (v : QPt) : StopMove :=
  let w := ((v.x.mul v.x).add (v.y.mul v.y)).sqrtDown 16
  if w.isZero then holdAt form t p
  else
    let d := w.div (accQ acc)
    { form := form, t0 := t, dur := d, from_ := p, vx := v.x, vy := v.y, endAt := t + d.ceil.toNat, done := false }

/-- The distance along the sharp path of a stroke to the point of it next to `c` (R183). -/
def project (st : Stroke) (c : QPt) : Q :=
  let g := st.geo
  let l := Q.ofInt g.len
  match st.kind with
  | .arc =>
    let r := QPt.smul (Q.ofInt 65536) (c.sub (QPt.ofPt st.cen))
    let a := angleOf r.x.round r.y.round
    let k := (if st.cw then g.a0 + 2 ^ 32 - a else a + 2 ^ 32 - g.a0) % 2 ^ 32
    if k ≤ g.th then Stroke.sweepLen g (Q.mk' k g.th) else if k - g.th < 2 ^ 32 - k then l else ⟨0, 1⟩
  | _ =>
    let dx := st.p1.x - st.p0.x
    let dy := st.p1.y - st.p0.y
    let r := c.sub (QPt.ofPt st.p0)
    let n := ((Q.ofInt dx).mul r.x).add ((Q.ofInt dy).mul r.y)
    ((n.div (Q.ofInt (dx.natAbs * dx.natAbs + dy.natAbs * dy.natAbs : Nat))).mul l).max ⟨0, 1⟩ |>.min l

/-- The lag term of the exposure in force for a stroke in its path phase, 125 ps; none before its chain's gate-on was placed
(R178, R183). -/
def tauOf (e : BeamEng) (st : Stroke) : Option Nat :=
  if !chainLit e st then none
  else if st.blendIn then e.gates.head?.map (·.tau)
  else if st.onDone then some st.tau else none

/-- The stop point of a stroke whose path phase contains JT `j`, and the path from there to P1: the command at `j` less the
lag term, projected onto the sharp path; P0 where that instant lies before s, or no exposure is in force (R183; log entry
89). -/
def partialAt (e : BeamEng) (prev next_ : Option Stroke) (st : Stroke) (j : Nat) : Pt × Nat :=
  match tauOf e st with
  | none => (st.p0, st.geo.len)
  | some τ =>
    let t := Q.mk' (8 * (j : Int) - τ) 8
    if t.le (Q.ofInt st.startAt) then (st.p0, st.geo.len)
    else
      let d := project st (st.kinAt prev next_ t).1
      let p := ((st.sharpAt d).1).round
      (p, if p = st.p1 then 0 else { st with p0 := p }.geo.len)

/-- What a stop finds: kind, pc, stop point, remainder, the kept decode state, the interrupted stroke, and the number of
strokes of the FIFO that stay decoded. -/
abbrev Found := Nat × Nat × Pt × Nat × PState × Option Stroke × Nat

/-- What a stop at JT `j` finds (R183). `hold` is where the mirror holds after the stop, and `light` says whether a stroke
in progress is interrupted. -/
def stopFind (e : BeamEng) (j : Nat) (light : Bool) (hold : Pt) : Found :=
  let l := e.fifo
  let inPath (st : Stroke) := light && st.light && st.startAt ≤ j && j < st.pathEnd
  match l.findIdx? inPath with
  | some i =>
    match l[i]? with
    | some st =>
      if st.kind = .spot then (3, st.snap.pc, st.p1, st.startAt + st.tPath - j, st.snap, some st, i)
      else
        let (p, r) := partialAt e (if i = 0 then none else l[i - 1]?) l[i + 1]? st j
        (2, st.snap.pc, p, r, st.snap, some st, i)
    | none => (4, e.dec.pc, hold, 0, e.dec, none, l.length)
  | none =>
    match l.findIdx? fun st => st.light && j ≤ st.startAt with
    | some i =>
      match l[i]? with
      | some st => (1, st.snap.pc, st.p0, st.geo.len, st.snap, some st, i)
      | none => (4, e.dec.pc, hold, 0, e.dec, none, l.length)
    | none =>
      if e.dec.halted then (4, e.dec.pc, hold, 0, e.dec, none, l.length)
      else (1, e.dec.pc, hold, 0, e.dec, none, l.length)

/-- What the remainder reruns first (R184): the interrupted stroke; a rerun stroke that had not begun, or that had not been
decoded, again. -/
def rerunSrc (old : Option StopRec) : Found → Option (Nat × Nat × Stroke)
  | (kind, _, _, rem, kept, some st, _) =>
    if kind = 2 ∨ kind = 3 then some (kind, rem, st) else if st.isRerun ∧ kept.rerun then some (1, rem, st) else none
  | (kind, _, _, _, kept, none, _) => if kind = 1 ∧ kept.rerun then old.bind (·.src) else none

/-- Gate edges at or after a tick do not occur; an open gate drops there (R179, R180). -/
def cutGates (t : Nat) (l : List GateIv) : List GateIv :=
  let e : Int := 8 * (t : Int)
  (l.filter fun g => g.on_ < e).map fun g =>
    match g.off with
    | some o => { g with off := some (min o e) }
    | none => { g with off := some e }

/-- LGATEn follows gate-open intervals that a stop has cut: from the end of the newest one it is low, and so do the items of
the checkpoint window (R189, R406). -/
def gateCut (b : Beam) (l : List GateIv) (s : State) : State :=
  let fall (e : Int) : State := (s.gateItem b e false).gateEdge b e false
  match l.head? with
  | none => fall (8 * (s.tick : Int))
  | some g =>
    match g.off with
    | none => s
    | some o => fall o

/-- The stop record and what the engine keeps (R106, R183): the decode state and the scratch return to what they were
just before the kept stroke was decoded; strokes whose slot had begun stay for the motion up to the stop, and what
the strokes between wrote stays restorable for a second stop. -/
def keepStop (b : Beam) (form j : Nat) (m : StopMove) (fifo : List Stroke) (gates : List GateIv) (r : Found)
    (s : State) : State :=
  let (kind, pc, pt, rem, kept, st, i) := r
  let between := undone ((fifo.take i).filter fun x => j < x.slotAt)
  let stay := ((fifo.take i).filter fun x => x.slotAt ≤ j) ++
    ((fifo.drop i).filter fun x => x.slotAt ≤ j).map fun x => { x with undo := [] }
  let stay := stay.dropLast ++ (stay.getLast?.map fun x => { x with undo := between ++ x.undo }).toList
  ((s.restore (undone (fifo.drop i))).gateCut b gates).upBe b fun e =>
    { e with
      fifo := stay, dec := { kept with halted := kind = 4 }, move := some m, stopReq := none, jtLast := j
      gates := gates, pendEv := e.pendEv.filter (·.time ≤ j), barrier := []
      stop := some { kind := kind, form := form, pc := pc, pt := pt, rem := if kind = 2 ∨ kind = 3 then rem else 0,
                     at_ := s.tick, kept := kept, stroke := st, src := rerunSrc e.stop r, setHeld := kept.held
                     slot := e.job.getD 0, ovl := s.rejoinOvl b, seen := fifo, front := e.dec
                     redo := (undone (fifo.drop i)).map fun w => (w.1, s.rd32 w.1) } }

/-- An at-once stop at JT `j` (R180). -/
def stopNow (b : Beam) (form j : Nat) (s : State) : State :=
  let e := s.be[b]
  let (p, v) := s.posAt b (Q.ofInt s.tick)
  let cur := (strokeAt e.fifo (Q.ofInt j)).map (·.2.1)
  let m := rampOf form s.tick (stopAcc e cur) p v
  (s.keepStop b form j m e.fifo (cutGates s.tick e.gates) (stopFind e j true (stopEnd m))).zoneStop b true j

/-- The motion that ends the stroke in progress under R181: its slot completes, or a blended end gets its run-out. Its fillet
is dropped at once, also on a tick inside it: the command goes on along the sharp path (log entry 85). -/
def endOfStroke (s0 tick : Nat) (x : Stroke) : Stroke × StopMove :=
  if x.blendOut then
    let y := { x with blendOut := false, filA := 0, filR := 0, q1 := along x.p1 x.geo.u1 x.runout }
    let vj := x.vOut
    let u := QPt.dir x.geo.u1
    let dur := if vj.isZero then ⟨0, 1⟩
      else if x.runout = 0 then vj.div x.a else (Q.ofInt (2 * x.runout)).div vj
    let t0 := s0 + x.pathEnd
    let y := { y with tRo := dur.ceil.toNat, gOff := some (8 * (x.pathEnd : Int) + x.loff), offDone := false }
    (y, { form := 2, t0 := t0, dur := dur, from_ := QPt.ofPt x.p1, vx := vj.mul u.x, vy := vj.mul u.y,
          endAt := max tick (t0 + dur.ceil.toNat), done := false })
  else
    let t0 := s0 + x.slotEnd
    (x, { form := 2, t0 := t0, dur := ⟨0, 1⟩, from_ := QPt.ofPt x.endPt, vx := ⟨0, 1⟩, vy := ⟨0, 1⟩, endAt := t0, done := false })

/-- The stroke in progress without its gate: its gate-on is scheduled at or after the stop tick (R179). -/
def darkStroke (x : Stroke) : Stroke := { x with gOn := none, gOff := none, onDone := false }

/-- An end-of-stroke stop at JT `j`: the stroke whose slot contains the tick ends as R181 says, and without light where its
gate-on was not due yet: then the record names it (R179, R183; log entry 84). Between slots, or in a wait, the stop takes
effect at once. -/
def stopAtEnd (b : Beam) (s0 j : Nat) (s : State) : State :=
  let e := s.be[b]
  match e.fifo.find? fun x => x.slotAt ≤ j && j < x.slotEnd with
  | none =>
    let m := holdAt 2 s.tick (s.posAt b (Q.ofInt s.tick)).1
    (s.keepStop b 2 j m e.fifo (cutGates s.tick e.gates) (stopFind e j false (stopEnd m))).zoneStop b true j
  | some x =>
    let dark := x.gOn.any fun g => 8 * (j : Int) ≤ g
    let (y, m) := endOfStroke s0 s.tick x
    let y := if dark then darkStroke y else y
    let fifo := e.fifo.map fun z => if z.key = x.key then y else z
    -- a stroke in progress is not interrupted: the record names what follows it, or the stroke left without light
    let after := e.fifo.map fun z =>
      if j < z.slotAt then z else if dark ∧ z.key = x.key then darkStroke z else { z with kind := StrokeKind.jump }
    let old := if dark ∧ x.onDone then e.gates.tail else e.gates
    let gates := old.filter fun g => g.on_ < 8 * ((s0 + y.slotEnd : Nat) : Int)
    (s.keepStop b 2 j m fifo gates (stopFind { e with fifo := after } j dark (stopEnd m))).zoneStop b false y.slotEnd

/-- The cause of a HOLD that waits for the last beam of its job takes effect once every named beam holds (R33, R181). -/
def holdDone (s : State) : State :=
  if s.dev.holdReq = 0 then s
  else
    match s.runSlot with
    | none => s.upDev fun d => { d with holdReq := 0 }
    | some n =>
      if (s.js n).named.all fun b => ((s.be[b]).move.map (·.done)) == some true then
        let c := s.dev.holdReq
        ((s.toHolding n).upDev fun d => { d with holdReq := 0 }).refresh c
      else s

/-- One stop accepted on this tick (R37, R179, R182). -/
def acceptStop (b : Beam) (atOnce : Bool) (s : State) : State :=
  let clear (s : State) : State := s.upBe b fun e => { e with stopReq := none }
  match s.beS b with
  | none => clear s
  | some s0 =>
    if s.tick < s0 then clear s
    else
      let j := s.tick - s0
      match (s.be[b]).move with
      | none => if atOnce then s.stopNow b 1 j else s.stopAtEnd b s0 j
      | some m =>
        if atOnce && m.form == 2 && !m.done then
          if (s.be[b]).fifo.any fun x => x.slotAt ≤ j && j < x.pathEnd then s.stopNow b 3 j
          else
            -- the stroke's path is complete: the at-once stop decides where the mirror holds (R179)
            let (p, v) := s.posAt b (Q.ofInt s.tick)
            let cur := (s.be[b]).fifo.getLast?
            let r := rampOf 3 s.tick (stopAcc (s.be[b]) cur) p v
            ((s.gateCut b (cutGates s.tick (s.be[b]).gates)).upBe b fun e =>
              { e with move := some r, stopReq := none, jtLast := j, gates := cutGates s.tick e.gates
                       stop := e.stop.map fun x =>
                         { x with form := 3, at_ := s.tick, pt := if x.stroke.isSome then x.pt else stopEnd r } }).zoneStop
              b true j
        else clear s

end State

/-- STROKE_START: on its scheduled tick a stroke begins; a later tick, or a stroke due with nothing decoded, is a miss
(R23, R25, R93, R161, R170). -/
def execStrokeStart (b : Beam) (s : State) : Res :=
  match s.running b with
  | none => .next s
  | some s0 =>
    if (s.be[b]).move.isSome || (s.be[b]).stopReq.isSome then .next s
    else
      let j := s.tick - s0
      match (s.be[b]).fifo.find? fun x => !x.began with
      | some st =>
        if j < st.slotAt then .next s
        else
          let t := (s.setStroke b st.key fun x => { x with began := true }).chainPart b st
          let t := t.upBe b fun e => { e with lastStart := st.startAt }
          let t := t.digItem (t.sampleOf (s0 + st.slotAt)) 4 b.val (BitVec.ofNat 8 b.val :: toBytes 3 st.key.pc)
          if st.slotAt < j then .next ((t.promiseMiss 1 b st.startAt).askStop b true) else .next t
      | none =>
        match s.dueNext b with
        | some (t, j0) =>
          if t ≤ j ∧ !(s.be[b]).dec.halted then .next ((s.promiseMiss 1 b j0).askStop b true) else .next s
        | none => .next s

/-- MARKEV_RELEASE: the physical JT has reached the event's program time: it enters the FIFO, the telemetry stream and,
with IRQ, raises its vector; it triggers a capture that waits for its CODE (R135, R188, R231). -/
def execMarkevRelease (b : Beam) (s : State) : Res :=
  let j? : Option Nat := match s.beS b with
    | some s0 =>
      if s0 ≤ s.tick then some (if (s.be[b]).move.isSome then (s.be[b]).jtLast else s.tick - s0) else none
    | none => none
  match j?, (s.be[b]).pendEv with
  | some j, v :: rest =>
    if j < v.time then .next s
    else
      let s := s.upBe b fun e => { e with pendEv := rest }
      let s := if (s.be[b]).events.length < 64 then s.upBe b fun e => { e with events := e.events ++ [v] }
        else s.count (R.BEn_EV_STATUS b.val) 23 16
      let s := if s.rb (R.BEn_CTL b.val) 1 then
          s.telRec b ([3, BitVec.ofNat 8 b.val] ++ toBytes 2 v.code ++ toBytes 6 v.time ++ [0, 0] ++ toBytes 4 v.value.toNat)
        else s
      let s := s.ifc v.irq (State.msix (6 + b.val))
      .next (s.ifc (v.code == s.rf (R.PCUn_CAP_CODE b.val) 15 0) (State.capTrigger b 2))
  | _, _ => .next s

/-- The barrier instance of an ID that the schedule of slot `n` releases first, of those not released yet: instance, mask,
CELL, release JT (R100). -/
def State.barrierOf (s : State) (n : Slot) (id : Nat) : Option (Nat × Nat × Bool × Nat) :=
  ((((s.js n).promise.map (·.bars)).getD []).filter (·.1 = id)).foldl (fun m x =>
    match m with
    | some y => if x.2.2.2.2 < y.2.2.2 then some x.2 else m
    | none => some x.2) none

/-- A barrier instance has been released: the schedule of slot `n` and its engines are done with it. -/
def State.barDone (n : Slot) (id inst : Nat) (s : State) : State :=
  let s := s.upSlot n fun j => { j with promise := j.promise.map fun p =>
    { p with bars := p.bars.filter fun x => !(x.1 == id && x.2.1 == inst) } }
  s.each (List.finRange 16) fun b t => t.upBe b fun e =>
    { e with barrier := e.barrier.filter fun x => !(x.1 == id && x.2.2.2.1 == inst) }

/-- A beam has arrived at a barrier instance: it has decoded it here, or passed it before the stop of a remainder (R106). -/
def State.arrived (s : State) (b : Beam) (id inst : Nat) : Bool := inst < (s.be[b]).dec.passedOf id

/-- MUSTER_RELEASE: at the release instant that admission scheduled every participant must have arrived; with CELL each gets a
barrier cell for the first sample at or after the release (R100, R125, R194). -/
def execMusterRelease (id : Byte) (s : State) : Res :=
  match s.runSlot with
  | none => .next s
  | some slot =>
    match s.barrierOf slot id.toNat, (s.js slot).s with
    | some (n, mask, cell, rel), some s0 =>
      if s.tick < s0 + rel then .next s
      else
        let who := (List.finRange 16).filter fun b => nbit mask b.val
        let m := s.sampleOf (s0 + rel + 49)
        let s1 := s.each who fun b t =>
          let t := if s.arrived b id.toNat n then t else (t.promiseMiss 3 b rel).askStop b true
          if cell && t.ldOn b.val then t.muster b m 1 id.toNat else t
        .next (s1.barDone slot id.toNat n)
    | _, _ => .next s

/-- ZACQ_WAIT_EXPIRY: the admitted wait of a ZACQ has elapsed without its grant (R123). -/
def execZacqWaitExpiry (b : Beam) (s : State) : Res :=
  match s.running b, (s.zone.beam[b]).reqs, s.promiseOf b with
  | some s0, q :: _, some pr =>
    let w := match pr.waits.find? fun x => x.1 = b.val ∧ x.2.1 = q.key with
      | some (_, _, n) => n
      | none => 0
    if s0 + q.time + w < s.tick then .next ((s.promiseMiss 4 b (q.time + w)).askStop b true) else .next s
  | _, _, _ => .next s

/-- BE_STOP: the engine accepts the stop requested of it, on this tick (R179). -/
def execBeStop (b : Beam) (s : State) : Res :=
  match (s.be[b]).stopReq with
  | none => .next s
  | some a => .next ((s.acceptStop b a).holdDone)

/-- STOP_COMPLETE: the ramp or the run-out has ended and the mirror holds; the last beam of a HOLD completes it (R180,
R181). -/
def execStopComplete (b : Beam) (s : State) : Res :=
  match (s.be[b]).move with
  | none => .next s
  | some m =>
    if s.tick < m.endAt ∨ m.done then .next s
    else .next ((s.upBe b fun e => { e with move := some { m with done := true } }).holdDone)

/-- BE_EV_POP: a read of BEn_EV_VALUE gives the head entry's value and pops it; 0 with the FIFO empty (R188). -/
def execBeEvPop (b : Beam) (s : State) : Res :=
  match (s.be[b]).events with
  | [] => .next (s.upHost fun h => { h with rdData := 0 })
  | v :: rest =>
    .next ((s.upBe b fun e => { e with events := rest }).upHost fun h => { h with rdData := v.value })

/-- EV_CLR: the event FIFO is emptied and OVF is 0 (R188). -/
def execEvClr (b : Beam) (s : State) : Res :=
  .next ((s.upBe b fun e => { e with events := [] }).wr (R.BEn_EV_STATUS b.val) 0)

/-- BE_CNT_CLR (R488). -/
def execBeCntClr (b : Beam) (s : State) : Res := .next (s.wr (R.BEn_CNT b.val) 0)

end Sys2Proof.Machine
end

