-- ==== Sys2Proof/Machine/Axis.lean ====
section
/-! DEFINITION. Machine axes: pitches, stops, homing and the machine program (R315 to R331). -/

namespace Sys2Proof.Machine

/-! Motion in counts and ns (R316). -/

/-- Counts/s as counts/ns. -/
def cntV (v : Nat) : Q := Q.mk' v 1000000000
/-- Counts/s² as counts/ns². -/
def cntA (a : Nat) : Q := Q.mk' a 1000000000000000000

/-- Pieces of one phase that starts at tick `t0`, from lists of exact lengths, speeds and accelerations along `sg`. -/
def phaseSegs (t0 : Nat) (sg : Int) (p : Q) (l : List (Q × Q × Q)) : List Seg :=
  let ex := l.foldl (fun e x => e.add x.1) ⟨0, 1⟩
  let dur := upNs ex
  let s := Q.ofInt sg
  (l.foldl (fun (acc : List Seg × Q × Q) x =>
    let (segs, off, p) := acc
    let (len, v, a) := x
    let seg : Seg := { t0 := t0, dur := dur, ex := ex, off := off, p := p, v := s.mul v, a := s.mul a }
    let way := (v.mul len).add ((Q.mk' 1 2).mul (a.mul (len.mul len)))
    (segs ++ [seg], off.add len, p.add (s.mul way))) ([], ⟨0, 1⟩, p)).1

/-- The sign of a distance. -/
def sgnQ (a : Q) : Int := if 0 < a.num then 1 else if a.num < 0 then -1 else 0

/-- The way `d` at the constant acceleration that takes speed `vi` to `vo` over it. -/
def evenSegs (t0 : Nat) (sg : Int) (p vi vo d : Q) : List Seg :=
  let two := Q.ofInt 2
  phaseSegs t0 sg p [((two.mul d).div (vi.add vo), vi, ((vo.mul vo).sub (vi.mul vi)).div (two.mul d))]

/-- A pitch from position `p` at speed `vi` along its direction to `tgt`, exit speed `vo`; where the rounded
peak of path() lies below them the speed changes evenly over the way (R316). -/
def pitchSegs (t0 : Nat) (p : Q) (vi vo : Q) (k : Pitch) : List Seg :=
  let d := (Q.ofInt k.tgt).sub p
  let a := cntA k.a
  if d.isZero then []
  else match pathPlan d.abs vi vo (cntV k.v) a with
    | none => evenSegs t0 (sgnQ d) p vi vo d.abs
    | some q => phaseSegs t0 (sgnQ d) p [(q.ta, vi, a), (q.tc, q.vp, ⟨0, 1⟩), (q.td, q.vp, a.neg)]

/-- A ramp at deceleration `a` from speed `v` along `sg` to rest. -/
def rampSegs (t0 : Nat) (sg : Int) (p v a : Q) : List Seg :=
  if v.isZero then [] else phaseSegs t0 sg p [(v.div a, v, a.neg)]

/-- The plan of R321 and R323 from speed `v` over distance `d` along `sg`, with whether the acceleration was clamped:
decelerate at A to V or speed up to it, cruise, stop at the target; or the ramp of A_req. -/
def replanSegs (t0 : Nat) (sg : Int) (p v d vl a : Q) : List Seg × Bool :=
  let two := Q.ofInt 2
  let brake := (v.mul v).div (two.mul a)
  if d.isZero then ([], false)
  else if d.le brake then
    (evenSegs t0 sg p v ⟨0, 1⟩ d, d.lt brake)
  else if vl.lt v then
    let d1 := ((v.mul v).sub (vl.mul vl)).div (two.mul a)
    let d3 := (vl.mul vl).div (two.mul a)
    (phaseSegs t0 sg p [((v.sub vl).div a, v, a.neg), (((d.sub d1).sub d3).div vl, vl, ⟨0, 1⟩), (vl.div a, vl, a.neg)],
      false)
  else match pathPlan d v ⟨0, 1⟩ vl a with
    | none => (evenSegs t0 sg p v ⟨0, 1⟩ d, false)
    | some q => (phaseSegs t0 sg p [(q.ta, v, a), (q.tc, q.vp, ⟨0, 1⟩), (q.td, q.vp, a.neg)], false)

/-- The end tick of a motion. -/
def segsEnd (t : Nat) (l : List Seg) : Nat := (l.getLast?.map fun g => g.t0 + g.dur).getD t

/-- The place in a phase: exact time at tick `t` (R116). -/
def segTime (g : Seg) (t : Nat) : Q :=
  if g.dur = 0 then g.ex else ((Q.ofInt ((t - g.t0 : Nat) : Int)).mul (g.ex.div (Q.ofInt g.dur))).min g.ex

/-- Position and signed speed on a piece at tick `t`. -/
def segAt (g : Seg) (t : Nat) : Q × Q :=
  let x := (segTime g t).sub g.off
  (((g.p.add (g.v.mul x)).add ((Q.mk' 1 2).mul (g.a.mul (x.mul x)))), g.v.add (g.a.mul x))

/-- The last piece in force at tick `t`. -/
def segFind (t : Nat) (l : List Seg) : Option Seg :=
  l.foldl (fun r g => if g.t0 ≤ t ∧ g.off.le (segTime g t) then some g else r) none

/-- Exit speed of pitch `k` from position `p` at entry speed `vi`, with `next` queued behind it (R319). -/
def exitSpeed (p vi : Q) (k : Pitch) (next : Option Pitch) : Q :=
  match next with
  | none => ⟨0, 1⟩
  | some n =>
    let d := (Q.ofInt k.tgt).sub p
    let d1 := Q.ofInt (n.tgt - k.tgt)
    if sgnQ d = 0 ∨ sgnQ d ≠ sgnQ d1 then ⟨0, 1⟩
    else
      let two := Q.ofInt 2
      let stop := ((two.mul (cntA n.a)).mul d1.abs).sqrtDown 16
      let reach := ((vi.mul vi).add ((two.mul (cntA k.a)).mul d.abs)).sqrtDown 16
      ((cntV k.v).min (cntV n.v)).min (stop.min reach)

/-- The end tick of a queue planned from tick `t`, position `p` and entry speed `vi`. -/
def queueEnd (t : Nat) (p vi : Q) : List Pitch → Nat
  | [] => t
  | k :: rest =>
    let vo := exitSpeed p vi k rest.head?
    queueEnd (segsEnd t (pitchSegs t p vi vo k)) (Q.ofInt k.tgt) vo rest

/-- The plan in force on tick `t` (R318). -/
def AxisSt.planAt (x : AxisSt) (t : Nat) : AxPlan :=
  (x.past.find? (t < ·.till)).getD { till := 0, segs := x.segs, pos := x.pos, vOut := x.vOut }

/-- The present plan is in force up to tick `t`; plans older than any update asks for are dropped. -/
def AxisSt.keepPlan (t : Nat) (x : AxisSt) : AxisSt :=
  let old := (x.past.filter (t < ·.till + 8192)).map fun p => { p with till := min p.till t }
  { x with past := old ++ [{ till := t, segs := x.segs, pos := x.pos, vOut := x.vOut }] }

/-- The pitch that a stop on this tick interrupts: the running one, or the one that begins on it (R319, R324). -/
def AxisSt.interrupted (x : AxisSt) : Option Pitch :=
  if x.st = .moving ∧ (x.running ∨ !x.vOut.isZero) then x.queue.head? else none

/-- An axis with something to run moves; one in FAULT stays there until CLEAR (R318). -/
def AxState.go (x : AxState) : AxState := if x = .fault then .fault else .moving

namespace State

/-- Commanded position of an axis at a tick. -/
def axPos (s : State) (n : Axis) (t : Nat) : Q :=
  let p := (s.ax[n]).planAt t
  match segFind t p.segs with
  | some g => (segAt g t).1
  | none => p.pos

/-- Commanded speed of an axis at a tick, signed counts/ns. -/
def axVel (s : State) (n : Axis) (t : Nat) : Q :=
  let p := (s.ax[n]).planAt t
  match segFind t p.segs with
  | some g => if t < g.t0 + g.dur then (segAt g t).2 else p.vOut.mul (Q.ofInt (sgnQ g.v))
  | none => ⟨0, 1⟩

/-- The motion of an axis changes from tick `t` on: what it commands before that tick stays (R318). -/
def axPlan (n : Axis) (t : Nat) (f : AxisSt → AxisSt) (s : State) : State := s.upAx n fun x => f (x.keepPlan t)

/-- KIND of an axis (R315). -/
def axKind (s : State) (n : Axis) : Nat := let k := s.rf (R.AXn_CFG n.val) 1 0; if k = 3 then 0 else k
/-- EL1 motion mode. -/
def axEl1 (s : State) (n : Axis) : Bool := s.rb (R.AXn_CFG n.val) 3
/-- DMAX of an axis. -/
def axDmax (s : State) (n : Axis) : Q := cntA (oneIfZero (s.rd (R.AXn_DMAX n.val)).toNat)
/-- V and A of a command, saturated to the axis's limits (R316). -/
def axV (s : State) (n : Axis) (v : Nat) : Nat := clampN 1 (oneIfZero (s.rd (R.AXn_VMAX n.val)).toNat) v
def axA (s : State) (n : Axis) (a : Nat) : Nat := clampN 1 (oneIfZero (s.rd (R.AXn_AMAX n.val)).toNat) a

/-- The axes that the MMOVEs from word `i` to the HALT name, as a mask; an MMOVE has two words (R329, R331). -/
def machAxesGo (s : State) (a n : Nat) : Nat → Nat → Nat → Nat
  | 0, _, m => m
  | k + 1, i, m =>
    let w := (s.imgWord a i).toNat
    if n ≤ i ∨ nfld w 63 56 = 0x7F then m
    else
      if nfld w 63 56 = 0x90 then machAxesGo s a n k (i + 2) (m ||| 2 ^ nfld w 55 52)
      else machAxesGo s a n k (i + 1) m

/-- The axes that the MMOVEs of a machine image at `a` name, as a mask (R331). -/
def machAxes (s : State) (a : Nat) : Nat := machAxesGo s a (s.imgCode a) (s.imgCode a) (s.imgEntry a) 0

/-- The axes of a slot's machine program. -/
def jobAxes (s : State) (n : Slot) : Nat :=
  let a := (s.js n).machAddr
  if a = 0 then 0 else s.machAxes a

/-- An axis is named by an MMOVE of a job ARMED, RUNNING or HOLDING (R331). -/
def axInUse (s : State) (n : Axis) : Bool :=
  (List.finRange 4).any fun k => (s.js k).busy && nbit (s.jobAxes k) n.val

/-- The first loop-engine slot of TYPE 1 and PORT n in a state that `p` accepts. -/
def axSlotIn (s : State) (n : Axis) (p : LeState → Bool) : Option (Engine × LSlot) :=
  (List.finRange 4).findSome? fun k => (List.finRange 16).findSome? fun l =>
    let c := R.LEk_SLOTl_CFG k.val l.val
    if s.leOn k.val && s.rb c 12 && s.rf c 3 0 = n.val && p (s.ls k l).st then some (k, l) else none

/-- The loop-engine slot of TYPE 1 and PORT n that a servo axis drives (R315): an enabled one, of which there is at most
one, else one in SAFE, else one that is LOADED, else one that is OFF (R286). -/
def axSlot (s : State) (n : Axis) : Option (Engine × LSlot) :=
  ((s.axSlotIn n fun x => x == .start || x == .ramp || x == .run).or (s.axSlotIn n (· == .safe))).or
    ((s.axSlotIn n (· == .loaded)).or (s.axSlotIn n (· == .off)))

/-- An axis is at rest with nothing to run. -/
def axIdle (s : State) (n : Axis) : Bool := (s.ax[n]).st == .idle && (s.ax[n]).queue.isEmpty

/-- A target lies within the soft limits, where they are in force (R326). -/
def axInLimits (s : State) (n : Axis) (t : Int) : Bool :=
  !(s.rb (R.AXn_CFG n.val) 5 && (s.ax[n]).homed) ||
    ((s.rd (R.AXn_SLIM_LO n.val)).toInt ≤ t && t ≤ (s.rd (R.AXn_SLIM_HI n.val)).toInt)

/-- The axis may not move for want of a reference (R326). -/
def axNotHomed (s : State) (n : Axis) : Bool := s.rb (R.AXn_CFG n.val) 5 && !(s.ax[n]).homed

/-- LIMPn, or LIMNn, is at the level that AXn_CFG.LIM_POL makes active (R327). -/
def limActive (s : State) (n : Axis) (pos : Bool) : Bool :=
  (if pos then (s.ax[n]).limP else (s.ax[n]).limN) == s.rb (R.AXn_CFG n.val) 8

/-- A move in direction `sg` goes towards an active limit (R327). -/
def axBlocked (s : State) (n : Axis) (sg : Int) : Bool :=
  (0 < sg && s.limActive n true) || (sg < 0 && s.limActive n false)

/-- The outputs of a STEP axis are driven; in RESET and BOOT they are low (R315, R507). -/
def stepDriven (s : State) (n : Axis) : Bool := s.axKind n == 1 && s.dev.state != .reset && s.dev.state != .boot

/-- AXn_STEP.WIDTH in ns; smaller values are taken as 40 (R317). -/
def stepWidth (s : State) (n : Axis) : Nat := max 40 (s.rf (R.AXn_STEP n.val) 15 0)

/-- Level of DIRn: high for the positive direction when DIR_POL is 0 (R317). -/
def dirLevel (s : State) (n : Axis) : Bool := s.stepDriven n && ((s.ax[n]).dirPos != s.rb (R.AXn_CFG n.val) 4)

/-- Level of STPn: high for WIDTH ns per step (R317). -/
def stpLevel (s : State) (n : Axis) : Bool :=
  s.stepDriven n && (s.ax[n]).stepAt.any fun t => decide (s.tick < t + s.stepWidth n)

/-- AXn_VMAX of a STEP axis at its limit (R317). -/
def vmaxFit (n : Axis) (s : State) : State :=
  let v := (s.rd (R.AXn_VMAX n.val)).toNat
  let top := min 8000000 (1000000000 / (2 * s.stepWidth n))
  if s.axKind n = 1 ∧ top < v then s.wr (R.AXn_VMAX n.val) (w32 top) else s

/-- AXn_RESULT posted. -/
def axResult (n : Axis) (code : Nat) (s : State) : State :=
  (s.advance (R.AXn_RESULT n.val) 31 24).setF (R.AXn_RESULT n.val) 3 0 code

/-- A host command on an axis: IN_USE while a job names it; an axis that is OFF accepts none, and one in FAULT none but
CLEAR (R315, R318, R331). -/
def axCommand (n : Axis) (inFault : Bool) (f : State → State × Nat) (s : State) : State :=
  if s.axInUse n then s.axResult n 1
  else if s.axKind n = 0 ∨ ((s.ax[n]).st = .fault ∧ !inFault) then s.axResult n 7
  else let (t, c) := f s; t.axResult n c

/-- The checks of a new target: reference, soft limits, limit inputs (R326, R327); 0 for none. -/
def axTarget (s : State) (n : Axis) (tgt : Int) (from_ : Q) : Nat :=
  if s.axNotHomed n then 8
  else if !s.axInLimits n tgt then 3
  else if s.axBlocked n (sgnQ ((Q.ofInt tgt).sub from_)) then 3
  else 0

/-- The command registers of an axis as a pitch. -/
def axCmdPitch (s : State) (n : Axis) : Pitch :=
  { tgt := (s.rd (R.AXn_CMD_TGT n.val)).toInt, v := s.axV n (s.rd (R.AXn_CMD_V n.val)).toNat
    a := s.axA n (s.rd (R.AXn_CMD_A n.val)).toNat }

/-- The position from which a pitch at the tail of the queue starts. -/
def axTail (s : State) (n : Axis) : Q := ((s.ax[n]).queue.getLast?.map fun k => Q.ofInt k.tgt).getD (s.axPos n s.tick)

/-- The state of an axis at rest: IDLE, or OFF by its KIND. -/
def axRest (s : State) (n : Axis) : AxState := if s.axKind n = 0 then .off else .idle

/-- What an axis carries on from after a stop: the pitch interrupted and those not begun; at a stop that takes over from an
end-of-stroke stop, those kept by it as well; what an earlier stop kept where no pitch runs (R324, R325). -/
def axKept (s : State) (n : Axis) : List Pitch :=
  let x := s.ax[n]
  if x.st ≠ .moving then x.kept
  else x.queue ++ (if s.axInUse n ∧ s.dev.holdReq ≠ 0 then x.kept else [])

/-- AXn_REM is the target of the interrupted pitch minus the stop position (R13, R324). -/
def axRem (n : Axis) (tgt : Option Int) (stop : Int) (s : State) : State :=
  let r := match tgt with
    | some t => satS 32 (t - stop)
    | none => 0
  (s.wr (R.AXn_REM n.val) (i32 r)).upAx n fun x => { x with rem := r }

/-- The target of the pitch that a stop interrupts, or that the stop in progress has interrupted (R324). -/
def axStopTgt (s : State) (n : Axis) : Option Int :=
  if (s.ax[n]).st = .stopping then (s.ax[n]).stopTgt else (s.ax[n]).interrupted.map (·.tgt)

/-- A stop of an axis: RAMP at DMAX, or HARD on this tick, after which a STEP axis stands at its step count; the remaining
distance is kept, and the queue with it where `keep` (R324). -/
def axHalt (n : Axis) (hard keep : Bool) (s : State) : State :=
  let x := s.ax[n]
  if x.st ≠ .moving ∧ x.st ≠ .homing ∧ !(x.st = .stopping ∧ hard) then s
  else
    let p := s.axPos n s.tick
    let v := s.axVel n s.tick
    let d := s.axDmax n
    let segs := if hard then [] else rampSegs s.tick (sgnQ v) p v.abs d
    let rest := if hard then (if s.axKind n = 1 then Q.ofInt x.steps else p)
      else p.add ((Q.ofInt (sgnQ v)).mul ((v.mul v).div ((Q.ofInt 2).mul d)))
    let q := if keep then s.axKept n else []
    let tgt := s.axStopTgt n
    (s.axRem n tgt rest.round).axPlan n s.tick fun x =>
      { x with
        st := if segs.isEmpty then s.axRest n else .stopping, segs := segs, pos := rest, running := false, queue := []
        vOut := ⟨0, 1⟩, stopTgt := tgt, kept := q, remValid := !q.isEmpty, homing := 0
        hard := hard, schedEnd := none }

/-- A SERVO axis whose slot enters SAFE: FAULT, at the slot's last accepted FP; what an earlier stop kept stays, its remaining
distance with it (R318, R324). -/
def axSafe (n : Axis) (fp : Int) (s : State) : State :=
  let q := s.axKept n
  let moves := (s.ax[n]).st = .moving ∨ (s.ax[n]).st = .stopping
  (if moves then s.axRem n (s.axStopTgt n) fp else s).axPlan n s.tick fun x =>
    { x with st := .fault, segs := [], pos := Q.ofInt fp, running := false, queue := [], vOut := ⟨0, 1⟩, stopTgt := none
             kept := q, remValid := !q.isEmpty, homing := 0, schedEnd := none }

/-- An end-of-stroke stop: the running pitch completes at rest, so that no distance remains, and the pitches not begun are
kept (R324). -/
def axFinish (n : Axis) (s : State) : State :=
  let x := s.ax[n]
  if x.st ≠ .moving then s
  else
    let keep (q : List Pitch) (x : AxisSt) : AxisSt :=
      { x with kept := q, remValid := !q.isEmpty, vOut := ⟨0, 1⟩, schedEnd := none }
    let s := s.axRem n none 0
    match x.interrupted with
    | none => s.upAx n fun y => { keep x.queue y with st := s.axRest n, queue := [] }
    | some k =>
      if x.vOut.isZero then s.upAx n fun y => { keep (x.queue.drop 1) y with queue := [k] }
      else
        let p := s.axPos n s.tick
        let d := (Q.ofInt k.tgt).sub p
        let segs := (replanSegs s.tick (sgnQ d) p (s.axVel n s.tick).abs d.abs (cntV k.v) (cntA k.a)).1
        s.axPlan n s.tick fun y => { keep (x.queue.drop 1) y with segs := segs, pos := p, queue := [k], running := true }

/-- Every axis that a job names is at rest, with an empty queue, and not in FAULT (R331). -/
def axReady (s : State) (a : Axis) : Bool :=
  let x := s.ax[a]
  x.queue.isEmpty && (x.st == .idle || x.st == .off)
def axesRest (s : State) (n : Slot) : Bool := (List.finRange 16).all fun a => !nbit (s.jobAxes n) a.val || s.axReady a

/-- The axes of a job stop: at once in the form of AXn_CFG.STOP, or with their running pitches complete (R324). -/
def stopAxes (n : Slot) (atOnce : Bool) (s : State) : State :=
  s.each ((List.finRange 16).filter fun a => nbit (s.jobAxes n) a.val) fun a t =>
    if atOnce then t.axHalt a (t.rb (R.AXn_CFG a.val) 6) true else t.axFinish a

/-- The kept queue runs again from rest at the stop point (R325). -/
def axResumeQueue (n : Axis) (s : State) : State :=
  s.upAx n fun x => { x with queue := x.kept ++ x.queue, kept := [], remValid := false, hard := false, stopTgt := none
                             st := if x.kept.isEmpty && x.queue.isEmpty then x.st else x.st.go }

/-- One step towards the commanded position on a STEP axis. DIRn turns DIR_SU before the step, and a further step waits until
STP has been high and low for WIDTH each (R317). -/
def axStep (n : Axis) (s : State) : State :=
  let x := s.ax[n]
  let goal := (s.axPos n s.tick).round
  if s.axKind n ≠ 1 ∨ goal = x.steps then s
  else
    let up := decide (x.steps < goal)
    let at_ := if up ≠ x.dirPos then s.tick else x.dirAt
    let go : Bool := at_ + s.rf (R.AXn_STEP n.val) 31 16 ≤ s.tick &&
      x.stepAt.all fun t => decide (t + 2 * s.stepWidth n ≤ s.tick)
    let next := if up then x.steps + 1 else x.steps - 1
    s.upAx n fun x => { x with dirPos := up, dirAt := at_, steps := if go then next else x.steps
                               stepAt := if go then some s.tick else x.stepAt }

/-- The pitches of an axis end: at the target, at rest or into the next pitch. -/
def pitchDone (n : Axis) (s : State) : State :=
  match (s.ax[n]).queue with
  | [] => s
  | k :: rest =>
    s.axPlan n s.tick fun x =>
      { x with
        queue := rest, running := false, pos := Q.ofInt k.tgt, schedEnd := none
        segs := if x.vOut.isZero then [] else x.segs
        st := if rest.isEmpty then s.axRest n else .moving }

/-- A limit is active in the direction of motion: the axis stops in the form of LIM_STOP, its queue is discarded and
AX_LIMIT is raised (R324, R327). -/
def axLimitStop (n : Axis) (s : State) : State :=
  ((s.axHalt n (s.rb (R.AXn_CFG n.val) 7) false).setB (R.AXn_STATUS n.val) 5).report 0x38 0 (w32 n.val)

/-- A motion that has begun towards an active limit stops (R327). -/
def axLimit (n : Axis) (s : State) : State :=
  let st := (s.ax[n]).st
  if (st = .moving ∨ st = .homing) ∧ s.axBlocked n (sgnQ (s.axVel n s.tick)) then s.axLimitStop n else s

/-- A miss on machine axis `n` at scheduled tick `t`: an ANOMALY record, and every beam of the job stops. JOB_MISS has no KIND for
it (R330, R438; log entry 105). -/
def axMiss (n : Axis) (t : Nat) (s : State) : State :=
  let s0 := (s.runSlot.bind fun k => (s.js k).s).getD 0
  let s := (s.report 0x04 0 0).record 0x22 ([2, 0] ++ toBytes 2 n.val ++ toBytes 4 s.frc.toNat ++ toBytes 8 (t - s0))
  match s.runSlot with
  | some n => s.each (s.js n).named fun b t => t.askStop b true
  | none => s

end State

/-! Host commands. -/

/-- AX APPEND (R320). -/
def execAxAppend (n : Axis) (s : State) : Res :=
  .next (s.axCommand n false fun s =>
    let x := s.ax[n]
    let k := s.axCmdPitch n
    if s.axEl1 n then (s, 6)
    else if x.st ≠ .idle ∧ x.st ≠ .moving then (s, 7)
    else if 16 ≤ x.queue.length then (s, 2)
    else
      let c := s.axTarget n k.tgt (s.axTail n)
      if c ≠ 0 then (s, c)
      else (s.upAx n fun x => { x with queue := x.queue ++ [k], st := .moving, lastTgt := k.tgt }, 0))

/-- AX REPLACE (R321). -/
def execAxReplace (n : Axis) (s : State) : Res :=
  .next (s.axCommand n false fun s =>
    let x := s.ax[n]
    let k := s.axCmdPitch n
    let p := s.axPos n s.tick
    let v := s.axVel n s.tick
    let d := (Q.ofInt k.tgt).sub p
    let sg := sgnQ v
    if s.axEl1 n then (s, 6)
    else if x.st ≠ .idle ∧ x.st ≠ .moving then (s, 7)
    else
      let c := s.axTarget n k.tgt p
      if c ≠ 0 then (s, c)
      else
        let two := Q.ofInt 2
        let ahead := v.isZero || (sgnQ d = sg && ((v.mul v).div (two.mul (cntA k.a))).le d.abs)
        let run (segs : List Seg) : State :=
          s.axPlan n s.tick fun x => { x with queue := [k], running := true, st := .moving, segs := segs, pos := p
                                              vOut := ⟨0, 1⟩, schedEnd := none, lastTgt := k.tgt }
        if ahead then (run (replanSegs s.tick (sgnQ d) p v.abs d.abs (cntV k.v) (cntA k.a)).1, 0)
        else
          let dm := s.axDmax n
          let ps := p.add ((Q.ofInt sg).mul ((v.mul v).div (two.mul dm)))
          if !(s.axInLimits n ps.floor && s.axInLimits n ps.ceil) then (s, 4)
          else
            let r := rampSegs s.tick sg p v.abs dm
            (run (r ++ pitchSegs (segsEnd s.tick r) ps ⟨0, 1⟩ ⟨0, 1⟩ k), 0))

/-- AX STOP, in the form of AXn_CFG.STOP (R324). -/
def execAxStop (n : Axis) (s : State) : Res :=
  .next (s.axCommand n false fun s => (s.axHalt n (s.rb (R.AXn_CFG n.val) 6) true, 0))

/-- AX RESUME: the kept queue continues from the stop point, where its targets are within the limits (R325 to R327). -/
def execAxResume (n : Axis) (s : State) : Res :=
  .next (s.axCommand n false fun s =>
    let x := s.ax[n]
    let codes := (x.kept.take 1).map (fun k => s.axTarget n k.tgt (s.axPos n s.tick)) ++
      (x.kept.drop 1).map fun k => if s.axInLimits n k.tgt then 0 else 3
    if !x.remValid ∨ x.st ≠ .idle then (s, 7)
    else match codes.find? (· ≠ 0) with
      | some c => (s, c)
      | none => (s.axResumeQueue n, 0))

/-- AX HOME: a move in the direction of AXn_HOME.DIR until the edge of HOMEn (R328). -/
def execAxHome (n : Axis) (s : State) : Res :=
  .next (s.axCommand n false fun s =>
    let h := s.rd (R.AXn_HOME n.val)
    let sg : Int := if bit h 31 then 1 else -1
    let v := cntV (s.axV n (fld h 30 0))
    let a := s.axDmax n
    if !s.axIdle n then (s, 7)
    else if s.axBlocked n sg then (s, 3)
    else
      let long := Q.ofInt (2 ^ 60)
      (s.axPlan n s.tick fun x =>
        { x with st := .homing, homing := 1, homed := false
                 segs := phaseSegs s.tick sg (s.axPos n s.tick) [(v.div a, ⟨0, 1⟩, a), (long, v, ⟨0, 1⟩)] }, 0))

/-- AX SET_POS (R328). -/
def execSetPos (n : Axis) (s : State) : Res :=
  .next (s.axCommand n false fun s =>
    if !s.axIdle n then (s, 7)
    else
      let p := (s.rd (R.AXn_CMD_TGT n.val)).toInt
      (s.axPlan n s.tick fun x => { x with pos := Q.ofInt p, segs := [], steps := p, homed := false }, 0))

/-- AX EL1_MOVE: a move from rest (R322). -/
def execEl1Move (n : Axis) (s : State) : Res :=
  .next (s.axCommand n false fun s =>
    let k := s.axCmdPitch n
    if !s.axEl1 n then (s, 6)
    else if !s.axIdle n then (s, 5)
    else
      let p := s.axPos n s.tick
      let c := s.axTarget n k.tgt p
      if c ≠ 0 then (s, c)
      else
        (s.axPlan n s.tick fun x => { x with queue := [k], running := true, st := .moving, vOut := ⟨0, 1⟩, pos := p
                                             lastTgt := k.tgt
                                             segs := pitchSegs s.tick p ⟨0, 1⟩ ⟨0, 1⟩ k }, 0))

/-- AX EL1_SET: new V and A in the move in progress, from the next tick on (R323). -/
def execEl1Set (n : Axis) (s : State) : Res :=
  .next (s.axCommand n false fun s =>
    let x := s.ax[n]
    match (if x.st = .moving && x.running then x.queue.head? else none) with
    | none => (s, if s.axEl1 n then 7 else 6)
    | some k =>
      if !s.axEl1 n then (s, 6)
      else
        let c := s.axCmdPitch n
        let t := s.tick + 1
        let p := s.axPos n t
        let d := (Q.ofInt k.tgt).sub p
        let (segs, clamped) := replanSegs t (sgnQ d) p (s.axVel n t).abs d.abs (cntV c.v) (cntA c.a)
        ((s.ifc clamped (State.setB (R.AXn_STATUS n.val) 6)).axPlan n t fun x =>
          { x with segs := segs, pos := p, queue := [{ k with v := c.v, a := c.a }] }, 0))

/-- AX CLEAR: the kept queue and AXn_REM are discarded; FAULT is left once the slot has left SAFE (R318, R325). -/
def execAxClear (n : Axis) (s : State) : Res :=
  .next (s.axCommand n true fun s =>
    let safe : Bool := match s.axSlot n with
      | some (k, l) => (s.ls k l).st == .safe
      | none => false
    if (s.ax[n]).st = .fault ∧ safe then (s, 7)
    else
      ((s.wr (R.AXn_REM n.val) 0).upAx n fun x =>
        { x with kept := [], rem := 0, remValid := false, st := if x.st = .fault then s.axRest n else x.st }, 0))

/-! Events. -/

/-- The admitted end of the next pitch of an axis that the job in slot `n` has not begun yet, JT (R330). -/
def State.admittedEnd (s : State) (n : Slot) (a : Axis) : Option Nat :=
  ((s.js n).promise.bind fun p => p.axEnds.find? (·.1 = a.val)).map (·.2)

/-- That pitch has begun. -/
def State.pitchBegun (n : Slot) (a : Axis) (s : State) : State :=
  s.upSlot n fun j => { j with promise := j.promise.map fun p => { p with axEnds := p.axEnds.eraseP (·.1 = a.val) } }

/-- PITCH_START: the first pitch of the queue begins and its exit speed is fixed; of a job's, its end is the admitted one
(R319, R330). -/
def execPitchStart (n : Axis) (s : State) : Res :=
  let x := s.ax[n]
  match x.queue with
  | [] => .next s
  | k :: rest =>
    if x.running ∨ (x.st ≠ .idle ∧ x.st ≠ .moving) then .next s
    else
      let vi := x.vOut
      let t0 := if vi.isZero then s.tick else segsEnd s.tick x.segs
      let vo := exitSpeed x.pos vi k rest.head?
      let segs := pitchSegs t0 x.pos vi vo k
      let job := s.mach.job.filter fun j => nbit (s.jobAxes j) n.val
      let due := job.bind fun j => (s.js j).s.bind fun s0 => (s.admittedEnd j n).map fun e => s0 + e
      let u := match job with
        | some j => s.pitchBegun j n
        | none => s
      .next (u.axPlan n t0 fun x =>
        { x with running := true, st := .moving, vOut := vo, segs := segs, schedEnd := due })

/-- PITCH_END: the running pitch is at its end; one of a job that is not at rest at its scheduled end is a miss
(R330). -/
def execPitchEnd (n : Axis) (s : State) : Res :=
  let x := s.ax[n]
  if !x.running ∨ s.tick < segsEnd s.tick x.segs then .next s
  else
    let t := s.pitchDone n
    .next (match x.schedEnd with
      | some e => if e < s.tick then t.axMiss n e else t
      | none => t)

/-- LIMIT_INPUT: a filtered limit input takes a level; one that is active in the direction of motion stops the axis and
raises AX_LIMIT (R327). -/
def execLimitInput (n : Axis) (pos level : Bool) (s : State) : Res :=
  let t := s.upAx n fun x => if pos then { x with limP := level } else { x with limN := level }
  let dir := sgnQ (t.axVel n t.tick)
  .next (if t.limActive n pos ∧ (if pos then 0 < dir else dir < 0) then t.axLimitStop n else t)

/-- HOME_EDGE: the active edge of HOMEn during HOME is stamped, less the 10 µs of its filter (R510); the axis stops at DMAX and moves back to it (R328). -/
def execHomeEdge (n : Axis) (active : Bool) (s : State) : Res :=
  let t := s.upAx n fun x => { x with home := active }
  if active ∧ (s.ax[n]).st = .homing ∧ (s.ax[n]).homing = 1 then
    let h := s.axPos n s.tick
    let v := s.axVel n s.tick
    let a := s.axDmax n
    let r := rampSegs s.tick (sgnQ v) h v.abs a
    let t1 := segsEnd s.tick r
    let d := (v.mul v).div ((Q.ofInt 2).mul a)
    let ps := h.add ((Q.ofInt (sgnQ v)).mul d)
    let vh := cntV (s.axV n (s.rf (R.AXn_HOME n.val) 30 0))
    let back := if d.isZero then [] else (replanSegs t1 (-(sgnQ v)) ps ⟨0, 1⟩ d vh a).1
    .next ((t.wr (R.AXn_HOME_FRC n.val) (s.frc - w32 10000)).axPlan n s.tick fun x => { x with homing := 3, homeAt := h, segs := r ++ back })
  else .next t

/-- AX_AT_REST: a RAMP stop or the return move of HOME has ended (R324, R328). -/
def execAxAtRest (n : Axis) (s : State) : Res :=
  let x := s.ax[n]
  if s.tick < segsEnd s.tick x.segs then .next s
  else if x.st = .stopping then .next (s.axPlan n s.tick fun x => { x with st := s.axRest n, segs := [], stopTgt := none })
  else if x.st = .homing ∧ x.homing = 3 then
    let p := (s.rd (R.AXn_HOME_POS n.val)).toInt
    .next (s.axPlan n s.tick fun x =>
      { x with st := s.axRest n, segs := [], homing := 0, homed := true, pos := Q.ofInt p, steps := p })
  else .next s

/-! The machine program (R329). -/

/-- The machine program's next words are these, and its program time has come: the program's tick S. It issues nothing once an
end-of-stroke stop is under way (R324). -/
def State.machDue (s : State) (w : List DWord) : Option Nat :=
  match s.mach.job with
  | none => none
  | some n =>
    let a := (s.js n).machAddr
    let here := (List.range w.length).map fun i => s.imgWord a (s.mach.pc + i)
    match (s.js n).s with
    | none => none
    | some s0 =>
      if (s.js n).st = .running ∧ s.dev.holdReq = 0 ∧ !s.mach.halted ∧ a ≠ 0 ∧ s0 + s.mach.time ≤ s.tick ∧ here = w then some s0 else none

/-- The words of a machine instruction. -/
def mmoveWords (axis : Fin 16) (rel : Bool) (v a : BitVec 24) (tgt : Word) : List DWord :=
  [BitVec.ofNat 64 (0x90 * 2 ^ 56 + axis.val * 2 ^ 52 + b2n rel 51 + v.toNat * 2 ^ 24 + a.toNat),
   BitVec.ofNat 64 (tgt.toNat * 2 ^ 32)]

/-- The program counter after a machine instruction. -/
def State.machNext (n : Nat) (s : State) : State := { s with mach := { s.mach with pc := s.mach.pc + n } }

/-- MMOVE: one pitch is appended at its program time (R329). -/
def execMmove (axis : Fin 16) (rel : Bool) (v a : BitVec 24) (tgt : Word) (s : State) : Res :=
  match s.machDue (mmoveWords axis rel v a tgt) with
  | none => .next s
  | some _ =>
    let t := if rel then (s.ax[axis]).lastTgt + tgt.toInt else tgt.toInt
    let k : Pitch := { tgt := t, v := s.axV axis v.toNat, a := s.axA axis (16 * a.toNat) }
    let u := (s.machNext 2).upAx axis fun x => { x with queue := x.queue ++ [k], lastTgt := t, st := x.st.go }
    .next { u with mach := { u.mach with resumePc := u.mach.pc } }

/-- MWAIT: program time goes to the scheduled end of the last pitch of every axis in the mask (R329). -/
def execMwait (mask : BitVec 16) (s : State) : Res :=
  match s.machDue [BitVec.ofNat 64 (0x91 * 2 ^ 56 + mask.toNat)] with
  | none => .next s
  | some s0 =>
    let ends := (onesOf 16 mask.toNat).map fun i =>
      match vget? s.ax i with
      | none => 0
      | some x =>
        if x.running then
          queueEnd (segsEnd s.tick x.segs) (Q.ofInt ((x.queue.head?.map (·.tgt)).getD 0)) x.vOut (x.queue.drop 1) - s0
        else queueEnd (s0 + s.mach.time) x.pos x.vOut x.queue - s0
    let t := s.machNext 1
    .next { t with mach := { t.mach with time := ends.foldl max t.mach.time } }

/-- MDWELL (R329). -/
def execMdwell (ns : BitVec 48) (s : State) : Res :=
  match s.machDue [BitVec.ofNat 64 (0x92 * 2 ^ 56 + ns.toNat)] with
  | none => .next s
  | some _ => let t := s.machNext 1; .next { t with mach := { t.mach with time := t.mach.time + ns.toNat } }

/-- HALT of the machine program (R329). -/
def execMachHalt (s : State) : Res :=
  match s.machDue [BitVec.ofNat 64 (0x7F * 2 ^ 56)] with
  | none => .next s
  | some _ => .next { s with mach := { s.mach with halted := true } }

end Sys2Proof.Machine
end

