-- ==== Sys2Proof/Machine/Hold.lean ====
section
/-! DEFINITION. The RUNNING job is held: at once, or at the end of each stroke in progress (R33, R34, R37). -/

namespace Sys2Proof.Machine

namespace State

/-- RUN ends in HOLD on this tick: every beam of the job and every axis of its machine program stops at once, the job is
HOLDING and the device state follows (R33, R34). Causes: 1 host, 2 fault, 3 thermal level, 4 thermal rise, 5 interlock. -/
def holdNow (cause : Nat) (s : State) : State :=
  match s.runSlot with
  | none => s
  | some n =>
    let s := s.each (s.js n).named fun b t => t.askStop b true
    let s := (s.stopAxes n true).upDev fun d => { d with holdReq := 0 }
    (s.toHolding n).refresh cause

/-- A HOLD at the end of each stroke in progress: the job is HOLDING once the last of its beams holds, and not before the next
tick (R33, R168, R181). Of a host
HOLD and a thermal HOLD on one tick, HOLD_CAUSE names the host's (R463). -/
def holdAtEnd (cause : Nat) (s : State) : State :=
  match s.runSlot with
  | none => s
  | some n =>
    if s.dev.holdReq ≠ 0 then
      if cause = 1 ∧ s.dev.holdAt = s.tick then s.upDev fun d => { d with holdReq := 1 } else s
    else
      let s := s.each (s.js n).named fun b t => t.askStop b false
      (s.stopAxes n false).upDev fun d => { d with holdReq := cause, holdAt := s.tick }

end State

end Sys2Proof.Machine
end

