-- ==== Sys2Proof/Machine/Laser.lean ====
section
/-! DEFINITION. Light drive: power reports and source diagnosis, the PWM carrier, MUSTER grid cells, the interlock,
emission off and the kill output (R189 to R210, R509, R518). -/

namespace Sys2Proof.Machine

namespace State

/-- The full sample index that a 16-bit SIDX stands for (R372). -/
def extSidx (s : State) (sidx : Nat) : Int :=
  let lo : Int := (s.sample : Int) - 49152
  lo + ((sidx : Int) - lo) % 65536

/-! Reports (R206). -/

/-- RPT_WIN of a channel. -/
def rptWin (s : State) (b : Beam) : Nat := oneIfZero (s.rf (R.LDn_RPT_CFG b.val) 3 0)

/-- The samples with index `k` of the visits of beam `b`, changed (R243). -/
def visitSample (b : Beam) (k : Nat) (f : VSample → VSample) (s : State) : State :=
  let g1 (v : Visit) : Visit := { v with samples := v.samples.map fun x => if x.k = k then f x else x }
  s.upLdg fun g => { g with visits := vupd g.visits b (List.map g1) }

/-- Samples counted in their order: a lost one lengthens the run, which raises RPT_LOSS once, on the first lost sample by which
it exceeds LOSS_MAX; a received one ends it. What lies more than 32 samples back is passed over (R206). -/
def rptRun (b : Beam) : Nat → State → State
  | 0, s => s
  | n + 1, s =>
    let l := s.ld[b]
    match sget l.next l.seen with
    | none => s
    | some false => rptRun b n (s.upLd b fun l => { l with next := l.next + 1, lost := 0, lossUp := false })
    | some true =>
      let overrun := s.rf (R.LDn_RPT_CFG b.val) 31 16 < l.lost + 1
      let t := s.upLd b fun l => { l with next := l.next + 1, lost := l.lost + 1, lossUp := l.lossUp || overrun }
      rptRun b n (t.ifc (overrun && !l.lossUp) (State.report 0x1A b.val 0))

/-- Sample `k` has its report, or has lost it (R206). -/
def rptSeen (b : Beam) (k : Nat) (lost : Bool) (s : State) : State :=
  rptRun b 32 (s.upLd b fun l =>
    { l with seen := ((k, lost) :: l.seen).take 32
             lost := if l.next + 32 ≤ k then 0 else l.lost, lossUp := l.lossUp && decide (k < l.next + 32)
             next := if l.next + 32 ≤ k then k - 31 else l.next
             lastLost := if l.seen.all (·.1 < k) then lost else l.lastLost })

/-- Sample `k` has been received or declared lost. -/
def rptHas (s : State) (b : Beam) (k : Nat) : Bool := (s.ld[b]).seen.any (·.1 == k)

/-- The report of sample `k` is lost: counted, full scale in the ledger, and part of a run of lost samples (R206). -/
def rptLost (b : Beam) (k : Nat) (s : State) : State :=
  ((s.rptSeen b k true).count (R.LDn_CNT b.val) 31 16).visitSample b k fun x => { x with lost := true }

/-! Source diagnosis (R207 to R210). -/

/-- The edges of sample `k` in 125 ps of extended FRC. -/
def sampleSpan (s : State) (k : Nat) : Int × Int := (8 * (s.sampleAt k : Int), 8 * (s.sampleAt (k + 1) : Int))

/-- The gate-open interval, of a job or an exposure, that holds the whole of sample `k` (R207, R352). -/
def ivOf (s : State) (b : Beam) (k : Nat) : Option GateIv :=
  let (t0, t1) := s.sampleSpan k
  (s.be[b]).gates.find? fun g => g.on_ ≤ t0 && (match g.off with
    | some o => t1 ≤ o
    | none => true)

/-- Sample `k` is off: outside every gate-open interval and more than TAIL samples after the last gate-off (R209). -/
def isOff (s : State) (b : Beam) (k : Nat) : Bool :=
  let (t0, t1) := s.sampleSpan k
  (s.be[b]).gates.all fun g => t1 ≤ g.on_ || (match g.off with
    | some o => o ≤ t0 && s.sampleOf (o / 8).toNat + fld (s.ld[b]).diag[1] 15 8 < k
    | none => false)

/-- EMIT_OPEN (R207, R208). -/
def emitOpen (b : Beam) (s : State) : State := (s.setB (R.LDn_DIAG_STATUS b.val) 4).report 0x19 b.val 0

/-- DIAG_MIN in force, ns. -/
def diagMin (s : State) (b : Beam) : Nat := max 100 (fld (s.ld[b]).diag[0] 15 0)

/-- The interval counted so far has ended: an on-time of DIAG_MIN or more is checked alone, a shorter one is added into
the window (R207). -/
def ivEnd (b : Beam) (s : State) : State :=
  let l := s.ld[b]
  let t := s.upLd b fun l => { l with ivLen := 0, ivEmit := false, ivOn := none }
  if l.ivOn.isNone then s
  else if s.diagMin b ≤ 50 * l.ivLen then
    if l.ivEmit then t.upLd b fun l => { l with alone := true }
    else (t.upLd b fun l => { l with failed := true }).emitOpen b
  else t.upLd b fun x => { x with acc := satN 16 (x.acc + l.ivLen), accEmit := x.accEmit || l.ivEmit }

/-- The open checks on a received report of sample `k` (R207). -/
def openCheck (b : Beam) (k : Nat) (emission : Bool) (s : State) : State :=
  if !s.rb (R.LDn_CTL b.val) 13 then s.upLd b fun l => { l with ivLen := 0, ivEmit := false, ivOn := none }
  else
    let iv := s.ivOf b k
    let on := iv.map (·.on_)
    let s := if (s.ld[b]).ivOn ≠ on then s.ivEnd b else s
    match iv with
    | none => s
    | some g =>
      -- the first whole sample of the interval
      let first := s.sampleOf (cdiv g.on_.toNat 8 + 49)
      let word := ((s.ld[b]).words.find? (·.1 = k)).map (·.2)
      let bright : Bool := match word with
        | some w => fld (s.ld[b]).diag[2] 15 0 ≤ w
        | none => false
      if first + fld (s.ld[b]).diag[1] 7 0 ≤ k && bright then
        s.upLd b fun l => { l with ivOn := on, ivLen := l.ivLen + 1, ivEmit := l.ivEmit || emission }
      else s.upLd b fun l => { l with ivOn := on }

/-- The stuck check on a received report of sample `k`; a run raises EMIT_STUCK once (R209). -/
def stuckCheck (b : Beam) (k : Nat) (emission : Bool) (s : State) : State :=
  if s.dev.state = .reset ∨ s.dev.state = .boot then s
  else if s.isOff b k && emission then
    let n := (s.ld[b]).stuck + 1
    if 256 < n then s
    else if oneIfZero (fld (s.ld[b]).diag[1] 23 16) ≤ n then
      (((s.upLd b fun l => { l with stuck := 256 }).setB (R.LDn_DIAG_STATUS b.val) 5).report 0x18 b.val 0).kill 2
    else s.upLd b fun l => { l with stuck := n }
  else s.upLd b fun l => { l with stuck := 0 }

/-- The window length in samples. -/
def diagWin (s : State) (b : Beam) : Nat := 200 * max 10 (fld (s.ld[b]).diag[0] 31 16)

/-- The diagnosis settings written (R210). -/
def diagRegs (s : State) (b : Beam) : Vector Word 3 :=
  #v[s.rd (R.LDn_DIAG_TIME b.val), s.rd (R.LDn_DIAG_CFG b.val), s.rd (R.LDn_DIAG_THR b.val)]

/-- LAST and STARVE of a window's result: VERIFIED first, then OPEN, UNVERIFIED and NEUTRAL (R208). -/
def winResult (b : Beam) (s : State) : State :=
  let l := s.ld[b]
  let r := R.LDn_DIAG_STATUS b.val
  let long := s.diagMin b ≤ 50 * l.acc && l.acc ≠ 0
  if l.alone || (long && l.accEmit) then (s.setF r 31 24 0).setF r 1 0 1
  else if long then ((s.setF r 31 24 0).setF r 1 0 1).emitOpen b
  else if l.failed then s.setF r 1 0 1
  else if l.acc ≠ 0 then
    let n := s.rf r 31 24 + 1
    let s := s.setF r 1 0 2
    if oneIfZero (fld l.diag[1] 31 24) ≤ n then (s.setF r 31 24 0).report 0x1B b.val 0 else s.setF r 31 24 n
  else s.setF r 1 0 0

/-! The PWM carrier (R197 to R199). -/

/-- PERIOD in force, ns. -/
def pwmPeriod (s : State) (b : Beam) : Nat := clampN 1000 1000000 (fld (s.ld[b]).cfg[1] 19 0)

/-- The duty bits of a period (R197). -/
def pwmBits (p : Nat) : Nat :=
  if p < 2000 then 8 else if p < 4000 then 9 else if p < 8000 then 10 else if p < 16000 then 11
  else if p < 32000 then 12 else if p < 64000 then 13 else if p < 128000 then 14 else if p < 256000 then 15 else 16

/-- The on-time of a carrier period for power word `w`, in 125 ps, and whether it is suppressed (R198). -/
def pwmOn (p w : Nat) : Nat × Bool :=
  let n := pwmBits p
  let d := w / 2 ^ (16 - n)
  let on := (rdiv (d * p * 8 : Nat) (2 ^ n - 1)).toNat
  if on < 16 then (0, true) else if 8 * p - on < 16 then (8 * p, false) else (on, false)

/-- The start of the carrier period that contains the present tick, 125 ps (R199). -/
def pwmStart (s : State) (b : Beam) : Option Int :=
  let now : Int := 8 * (s.tick : Int)
  let from_ (t0 : Int) : Int := t0 + (now - t0) / (8 * (s.pwmPeriod b : Int)) * (8 * (s.pwmPeriod b : Int))
  if bit (s.ld[b]).cfg[0] 9 && (s.running b).isSome then (s.running b).map fun s0 => from_ (8 * (s0 : Int))
  else
    ((s.be[b]).gates.find? fun g => g.on_ ≤ now && (match g.off with
      | some o => decide (now < o)
      | none => true)).map fun g => from_ g.on_

/-- The command, as sent, of the sample that contains an instant in 125 ps (R198, R352, R355). -/
def cmdAt (s : State) (b : Beam) (t : Int) : Nat :=
  let k := s.sampleOf (t / 8).toNat
  match s.exposed b s.tick with
  | some c => c
  | none => s.linear b (match (s.ld[b]).words.find? (·.1 = k) with
    | some (_, w) => w
    | none => (s.pcu[b]).word)

/-- The interlock inputs changed: the discrepancy timer runs while they differ, and the gates follow (R203, R509). -/
def ilkLevels (a b : Bool) (s : State) : State :=
  let t := s.upLdc fun l =>
    { l with a := a, b := b, diffAt := if a = b then none else some (l.diffAt.getD s.tick)
             diffRaised := l.diffRaised && a != b }
  t.each (List.finRange 16) fun n u => u.gateSync n

/-- The newest word of a channel carries 0 where it has not yet reached the transmit PHY boundary (R200, R213). -/
def wordOff (b : Beam) (s : State) : State :=
  let is_ (x : Sent) : Bool := x.port == 16 + b.val && x.msg == 2
  if (s.ld[b]).words.isEmpty then s
  else match s.sent.find? is_ with
    | some x => if x.at_ ≤ s.tick then s else { s with sent := { x with data := 0 :: x.data.tail } :: s.sent.eraseP is_ }
    | none => s

/-- Every word that has not yet left carries 0. -/
def wordsOff (s : State) : State := s.each (List.finRange 16) wordOff

/-- The interlock latch is set: TRIPS, EMIT_OFF on every enabled port, POWER_WORD 0 (R200). -/
def ilkSet (s : State) : State :=
  ((s.withEmit fun t => t.upLdc fun l => { l with latch := true }).wordsOff).count R.LD_ILK_STATUS 15 8

/-- A trip of the interlock: the latch is set, and RUN goes to HOLD at once (R200). -/
def ilkLatch (s : State) : State := if s.ldc.latch then s else s.ilkSet.holdNow 5

end State

/-! The commands. -/

/-- PWR_REPORT: in time it is the report of its sample; late, repeated or of a sample not yet begun it is discarded, and F
at 0 is a lost report (R206, R355, R383). -/
def execPwrReport (b : Beam) (f : Bool) (sidx pwr : BitVec 16) (emit _ready _fault : Bool) (s : State) : Res :=
  if !(s.ldOn b.val && s.portUp (16 + b.val)) then .next s
  else
    let j := s.extSidx sidx.toNat
    if j < 0 ∨ (s.sample : Int) < j then .next s
    else
      let k := j.toNat
      if s.sampleAt (k + s.rptWin b + 1) ≤ s.tick ∨ s.rptHas b k then .next s
      else if !f then .next (s.rptLost b k)
      else
        let p := s.delivered b pwr.toNat
        let emission := emit || fld (s.ld[b]).diag[2] 31 16 ≤ p
        let s := ((s.wr (R.LDn_LAST_RPT b.val) (w32 (k % 65536 * 65536 + p))).upLd b fun l =>
          { l with lastEmit := emission }).rptSeen b k false
        let s := s.visitSample b k fun x => { x with pwr := some p }
        .next ((s.openCheck b k emission).stuckCheck b k emission)

/-- REPORT_LOST: on the first tick after its window a report not received is lost (R206). -/
def execReportLost (b : Beam) (s : State) : Res :=
  let w := s.rptWin b + 1
  if !s.ldOn b.val ∨ s.sample < w ∨ s.rptHas b (s.sample - w) then .next s
  else .next (s.rptLost b (s.sample - w))

/-- DIAG_WINDOW_END: the window takes its result, and new settings enter force (R208, R210). -/
def execDiagWindowEnd (b : Beam) (s : State) : Res :=
  let n := s.diagWin b
  let end_ := ((s.ld[b]).winAt / n + 1) * n
  if !s.ldOn b.val ∨ s.sample < end_ then .next s
  else
    let s := if s.rb (R.LDn_CTL b.val) 13 then s.winResult b else s
    .next (s.upLd b fun l =>
      { l with winAt := end_, acc := 0, accEmit := false, alone := false, failed := false, diag := s.diagRegs b })

/-- PWM_PERIOD_START: a carrier period begins and its on-time is formed (R198, R199). -/
def execPwmPeriodStart (b : Beam) (s : State) : Res :=
  if !s.pwmMode b ∨ ((s.running b).isNone ∧ !s.exposing b s.tick) then .next s
  else match s.pwmStart b with
    | none => .next s
    | some t =>
      if (s.ld[b]).pwm.map (·.1) = some t then .next s
      else
        let (on, none_) := State.pwmOn (s.pwmPeriod b) (s.cmdAt b t)
        .next (((s.upLd b fun l => { l with pwm := some (t, (on : Int)) }).gateEdges b 0).ifc none_
          (State.count (R.LDn_CNT b.val) 15 0))

/-- MUSTER_GRID: a grid cell in a sample whose index is a multiple of PERIOD (R194). -/
def execMusterGrid (b : Beam) (s : State) : Res :=
  let p := clampN 1000 65535 (s.rf R.LD_MUSTER_CFG 15 0)
  if s.rb R.LD_MUSTER_CFG 16 && s.ldOn b.val && s.sample % p == 0 then .next (s.muster b s.sample 0 0) else .next s

/-- INTERLOCK_TRIP: inputs go low for `widthPs`. From 3 ns on the latch is set, below 1 ns it never is, and between the
two that is open; below 1 ns it is open whether the pulse reaches the gates. In RESET the level alone counts, at its release
(R200, R509). -/
def execInterlockTrip (a b : Bool) (widthPs : Nat) (s : State) : Res :=
  if !a && !b then .next s
  else
    let low (t : State) : State := t.ilkLevels (t.ldc.a && !a) (t.ldc.b && !b)
    if s.dev.state = .reset then .next (low s)
    else if 3000 ≤ widthPs then .next (low s).ilkLatch
    else
      let (v, t) := s.fresh
      if 1000 ≤ widthPs then .next (if v.getLsbD 0 then (low t).ilkLatch else low t)
      else .next (if v.getLsbD 0 then low t else t)

/-- ILK_INPUT_RISE: an input returns high (R202, R203, R509). -/
def execIlkInputRise (b : Bool) (s : State) : Res :=
  if (if b then s.ldc.b else s.ldc.a) then .next s
  else .next ((s.ilkLevels (s.ldc.a || !b) (s.ldc.b || b)).upLdc fun l => { l with highAt := s.tick })

/-- ILK_DISCREP: inputs that differ for more than 10 ms raise it once (R203). -/
def execIlkDiscrep (s : State) : Res :=
  match s.ldc.diffAt with
  | none => .next s
  | some t =>
    if s.ldc.diffRaised ∨ s.tick ≤ t + 10000000 then .next s
    else .next ((s.upLdc fun l => { l with diffRaised := true }).report 0x1C 0 0)

/-- REARM: with both inputs high for REL_MS the latch clears, else REARM_ERR; nothing with the latch clear (R202). -/
def execRearm (s : State) : Res :=
  if !s.ldc.latch then .next s
  else if s.ldc.a && s.ldc.b && s.ldc.highAt + oneIfZero (s.rf R.LD_ILK_CTL 15 8) * 1000000 ≤ s.tick then
    .next (s.withEmit fun t => t.upLdc fun l => { l with latch := false })
  else .next (s.setB R.LD_ILK_STATUS 4)

/-- EMIT_OFF_REPEAT: every 1 µs, STATE 1 while a cause holds, and the rest of the three cells of STATE 0 after it
(R518). -/
def execEmitOffRepeat (b : Beam) (s : State) : Res :=
  if !s.ldOn b.val ∨ s.tick < (s.ld[b]).offNext then .next s
  else if s.offCause b.val then .next ((s.sendEmitOff b 1).upLd b fun l => { l with offNext := s.tick + 1000 })
  else if (s.ld[b]).relLeft = 0 then .next s
  else .next ((s.sendEmitOff b 0).upLd b fun l => { l with relLeft := l.relLeft - 1, offNext := s.tick + 1000 })

/-- EMIT_OFF_WRITE: a write of LDn_CTL.EMIT_OFF; a change is refused while beam n runs (R204, R518). -/
def execEmitOffWrite (b : Beam) (v : Bool) (s : State) : Res :=
  if !s.beamOn b.val ∨ v = s.rb (R.LDn_CTL b.val) 12 then .next s
  else if s.naming b fun j => j.st = .running then .next (s.setB (R.LDn_STATUS b.val) 5)
  else .next ((s.setF (R.LDn_CTL b.val) 12 12 (b2n v)).emitChange b (s.offCause b.val))

/-- LD_ENABLE: a write of LDn_CTL.EN. Setting it trains LPn and starts diagnosis; clearing it is refused while a job
ARMED, RUNNING or HOLDING names the beam (R193, R208). -/
def execLdEnable (b : Beam) (v : Bool) (s : State) : Res :=
  let p : Port := ⟨16 + b.val, by omega⟩
  if !s.beamOn b.val ∨ v = s.rb (R.LDn_CTL b.val) 0 then .next s
  else if v then
    let t := (s.setB (R.LDn_CTL b.val) 0).upLd b fun l =>
      { l with winAt := s.sample, acc := 0, accEmit := false, alone := false, failed := false, stuck := 0, lost := 0, lossUp := false
               seen := [], next := s.sample, relLeft := 0, diag := s.diagRegs b }
    .next (if (t.port[p]).st = .off then t.portTrain p true else t)
  else if s.naming b JobSlot.busy then .next (s.setB (R.LDn_STATUS b.val) 6)
  else
    let t := s.clrB (R.LDn_CTL b.val) 0
    .next (if t.portEn p.val then t else t.portOff p)

/-- KILL_FORCE (R205). -/
def execKillForce (s : State) : Res := .next (s.kill 5)

/-- LD_CNT_CLR (R488). -/
def execLdCntClr (b : Beam) (s : State) : Res := .next (s.wr (R.LDn_CNT b.val) 0)

end Sys2Proof.Machine
end

