-- ==== Sys2Proof/Machine/PellinL.lean ====
section
/-! DEFINITION. Pellin-L: the words of a law, its operands, and each instruction on the working values of a slot (R293 to
R297). -/

namespace Sys2Proof.Machine

/-- A Pellin-L instruction (R295). -/
inductive LInstr where
  | clr (acc : Fin 4)
  | lda (acc : Fin 4) (sh : Fin 32) (sa : Byte)
  | mac (acc : Fin 4) (sa : Byte) (k : Fin 64)
  | msu (acc : Fin 4) (sa : Byte) (k : Fin 64)
  | ada (acc : Fin 4) (neg : Bool) (sh : Fin 32) (sa : Byte)
  | sta (acc : Fin 4) (sh : Fin 32) (dst : Byte)
  | clp (dst sa : Byte) (k : Fin 64)
  | sel (dst sa sb sc : Byte)
  | mov (dst sa : Byte)
  | halt
  deriving DecidableEq, Repr

/-- The instruction of a law word; none for an undefined opcode or a set bit in a field that must be 0 (R294, R295). -/
def lawInstr (w : Nat) : Option LInstr :=
  let acc : Fin 4 := Fin.ofNat 4 (nfld w 55 54)
  let neg := nbit w 53
  let sh : Fin 32 := Fin.ofNat 32 (nfld w 52 48)
  let dst : Byte := BitVec.ofNat 8 (nfld w 47 40)
  let sa : Byte := BitVec.ofNat 8 (nfld w 39 32)
  let sb : Byte := BitVec.ofNat 8 (nfld w 31 24)
  let sc : Byte := BitVec.ofNat 8 (nfld w 23 16)
  let k : Fin 64 := Fin.ofNat 64 (nfld w 5 0)
  -- the bits of the word outside the fields that the opcode uses
  let only (used : Nat) : Bool := (w % 2 ^ 56) &&& (2 ^ 56 - 1 - used) == 0
  let fAcc := 0xC0000000000000
  let fNeg := 0x20000000000000
  let fSh := 0x1F000000000000
  let fDst := 0xFF0000000000
  let fSa := 0xFF00000000
  let fSb := 0xFF000000
  let fSc := 0xFF0000
  let fK := 0x3F
  let take (used : Nat) (i : LInstr) : Option LInstr := if only used then some i else none
  match nfld w 63 56 with
  | 0x80 => take fAcc (.clr acc)
  | 0x81 => take (fAcc + fSh + fSa) (.lda acc sh sa)
  | 0x82 => take (fAcc + fSa + fK) (.mac acc sa k)
  | 0x83 => take (fAcc + fSa + fK) (.msu acc sa k)
  | 0x84 => take (fAcc + fNeg + fSh + fSa) (.ada acc neg sh sa)
  | 0x85 => take (fAcc + fSh + fDst) (.sta acc sh dst)
  | 0x86 => take (fDst + fSa + fK) (.clp dst sa k)
  | 0x87 => take (fDst + fSa + fSb + fSc) (.sel dst sa sb sc)
  | 0x88 => take (fDst + fSa) (.mov dst sa)
  | 0x7F => take 0 .halt
  | _ => none

/-- V indices that can be written, and read (R293). -/
def vWritable (v : Byte) : Bool :=
  let n := v.toNat
  n < 0x28 || (0x40 ≤ n && n < 0x48)
def vReadable (v : Byte) : Bool := vWritable v || (0x30 ≤ v.toNat && v.toNat < 0x38)

/-- The operands of an instruction are valid for an image with `ncoef` coefficients (R293, R295, R299). -/
def LInstr.operandsOk (ncoef : Nat) : LInstr → Bool
  | .clr _ => true
  | .lda _ _ sa => vReadable sa
  | .mac _ sa k => vReadable sa && k.val < ncoef
  | .msu _ sa k => vReadable sa && k.val < ncoef
  | .ada _ _ _ sa => vReadable sa
  | .sta _ _ dst => vWritable dst
  | .clp dst sa k => vWritable dst && vReadable sa && k.val + 1 < ncoef
  | .sel dst sa sb sc => vWritable dst && vReadable sa && vReadable sb && vReadable sc
  | .mov dst sa => vWritable dst && vReadable sa
  | .halt => true

/-- The issue cycle of the next instruction, with the last writes of the four accumulators (R296). -/
def issueStep (i : LInstr) (c : Nat) (w : Vector Nat 4) : Nat × Vector Nat 4 :=
  match i with
  | .sta a _ _ => (max (c + 1) (if w[a] = 0 then 0 else w[a] + 3), w)
  | .clr a => (c + 1, w.set a.val (c + 1))
  | .lda a _ _ => (c + 1, w.set a.val (c + 1))
  | .mac a _ _ => (c + 1, w.set a.val (c + 1))
  | .msu a _ _ => (c + 1, w.set a.val (c + 1))
  | .ada a _ _ _ => (c + 1, w.set a.val (c + 1))
  | _ => (c + 1, w)

/-- The issue cycle of each instruction (R296). -/
def issueCycles : List LInstr → Nat → Vector Nat 4 → List Nat
  | [], _, _ => []
  | i :: l, c, w =>
    let (n, w) := issueStep i c w
    n :: issueCycles l n w

/-- The law cycle count: the issue cycle of HALT, the last word (R296). -/
def lawCycles (l : List LInstr) : Nat := ((issueCycles l 0 (Vector.replicate 4 0)).getLast?).getD 0

namespace LawCtx

/-- V[n] (R293). -/
def get (c : LawCtx) (v : Byte) : Int :=
  let n := v.toNat
  if n < 0x20 then (vget? c.s n).getD 0
  else if n < 0x28 then (vget? c.t (n - 0x20)).getD 0
  else if 0x30 ≤ n ∧ n < 0x38 then (vget? c.inp (n - 0x30)).getD 0
  else if 0x40 ≤ n ∧ n < 0x48 then (vget? c.o (n - 0x40)).getD 0
  else 0

/-- V[n] written (R293). -/
def set (v : Byte) (x : Int) (c : LawCtx) : LawCtx :=
  let n := v.toNat
  if n < 0x20 then { c with s := vupdN c.s n fun _ => x }
  else if n < 0x28 then { c with t := vupdN c.t (n - 0x20) fun _ => x }
  else if 0x40 ≤ n ∧ n < 0x48 then { c with o := vupdN c.o (n - 0x40) fun _ => x }
  else c

/-- An accumulator written. -/
def setAcc (a : Fin 4) (x : Int) (c : LawCtx) : LawCtx := { c with acc := c.acc.set a.val x }

/-- One instruction on the working values; `k` gives a coefficient's value and shift (R295). Nothing follows HALT. -/
def run (k : Nat → Int × Nat) (i : LInstr) (c : LawCtx) : LawCtx :=
  if c.done then c
  else match i with
    | .clr a => c.setAcc a 0
    | .lda a sh sa => c.setAcc a (c.get sa * 2 ^ sh.val)
    | .mac a sa n => c.setAcc a (satS 64 (c.acc[a] + rshr (c.get sa * (k n.val).1) (k n.val).2))
    | .msu a sa n => c.setAcc a (satS 64 (c.acc[a] - rshr (c.get sa * (k n.val).1) (k n.val).2))
    | .ada a neg sh sa =>
      let x := c.get sa * 2 ^ sh.val
      c.setAcc a (satS 64 (if neg then c.acc[a] - x else c.acc[a] + x))
    | .sta a sh dst => c.set dst (satS 32 (rshr c.acc[a] sh.val))
    | .clp dst sa n => c.set dst (min (k n.val).1 (max (k (n.val + 1)).1 (c.get sa)))
    | .sel dst sa sb sc => c.set dst (if c.get sc ≠ 0 then c.get sa else c.get sb)
    | .mov dst sa => c.set dst (c.get sa)
    | .halt => { c with done := true }

/-- The working values at the start of an update: S from the committed state, the rest zeros (R293). -/
def start (st : Vector Int 32) (inp : Vector Int 8) : LawCtx :=
  { acc := Vector.replicate 4 0, s := st, t := Vector.replicate 8 0, inp := inp, o := Vector.replicate 8 0, done := false }

end LawCtx

namespace State

/-- The region of a slot in the engine's local SRAM, with its parts (R298). -/
def lawBase (k l : Nat) : Nat := 0x1000000 + k * 0x40000 + l * 0x4000
def lawCoef (k l : Nat) : Nat := lawBase k l + 0x2000
def lawShadow (k l : Nat) : Nat := lawBase k l + 0x2200
def lawState (k l : Nat) : Nat := lawBase k l + 0x2400

/-- A coefficient entry at an address: value and shift (R298). -/
def coefAt (s : State) (a i : Nat) : Int × Nat := (sext 32 (s.rdN (a + 8 * i) 4), s.rdN (a + 8 * i + 4) 1 % 32)

/-- The active coefficients of a slot. -/
def coef (s : State) (k : Engine) (l : LSlot) (i : Nat) : Int × Nat := s.coefAt (lawCoef k.val l.val) i

/-- The committed S0 to S31 of a slot. -/
def lawS (s : State) (k : Engine) (l : LSlot) : Vector Int 32 :=
  Vector.ofFn fun i => sext 32 (s.rdN (lawState k.val l.val + 4 * i.val) 4)

/-- The law of a slot, as its local code reads. -/
def law (s : State) (k : Engine) (l : LSlot) : List LInstr :=
  (List.range (s.ls k l).words).filterMap fun i => lawInstr (s.rdN (lawBase k.val l.val + 8 * i) 8)

/-- One instruction of the law of a slot that runs its law: in RAMP and in RUN, with operands that a loaded law can hold
(R295, R299, R302). -/
def lawStep (k : Engine) (l : LSlot) (i : LInstr) (s : State) : State :=
  let x := s.ls k l
  if s.leOn k.val && (x.st == .ramp || x.st == .run) && i.operandsOk x.ncoef then
    s.upLs k l fun y => { y with ctx := y.ctx.run (s.coef k l) i }
  else s

end State

/-! The commands: one per instruction. -/

/-- CLR (R295). -/
def execClr (k : Engine) (l : LSlot) (acc : Fin 4) (s : State) : Res := .next (s.lawStep k l (.clr acc))

/-- LDA (R295). -/
def execLda (k : Engine) (l : LSlot) (acc : Fin 4) (sh : Fin 32) (sa : Byte) (s : State) : Res :=
  .next (s.lawStep k l (.lda acc sh sa))

/-- MAC (R295). -/
def execMac (k : Engine) (l : LSlot) (acc : Fin 4) (sa : Byte) (kk : Fin 64) (s : State) : Res :=
  .next (s.lawStep k l (.mac acc sa kk))

/-- MSU (R295). -/
def execMsu (k : Engine) (l : LSlot) (acc : Fin 4) (sa : Byte) (kk : Fin 64) (s : State) : Res :=
  .next (s.lawStep k l (.msu acc sa kk))

/-- ADA (R295). -/
def execAda (k : Engine) (l : LSlot) (acc : Fin 4) (neg : Bool) (sh : Fin 32) (sa : Byte) (s : State) : Res :=
  .next (s.lawStep k l (.ada acc neg sh sa))

/-- STA (R295). -/
def execSta (k : Engine) (l : LSlot) (acc : Fin 4) (sh : Fin 32) (dst : Byte) (s : State) : Res :=
  .next (s.lawStep k l (.sta acc sh dst))

/-- CLP (R295). -/
def execClp (k : Engine) (l : LSlot) (dst sa : Byte) (kk : Fin 64) (s : State) : Res :=
  .next (s.lawStep k l (.clp dst sa kk))

/-- SEL (R295). -/
def execSel (k : Engine) (l : LSlot) (dst sa sb sc : Byte) (s : State) : Res := .next (s.lawStep k l (.sel dst sa sb sc))

/-- MOV (R295). -/
def execLawMov (k : Engine) (l : LSlot) (dst sa : Byte) (s : State) : Res := .next (s.lawStep k l (.mov dst sa))

/-- HALT of a law (R295). -/
def execLawHalt (k : Engine) (l : LSlot) (s : State) : Res := .next (s.lawStep k l .halt)

end Sys2Proof.Machine
end

