-- ==== Sys2Proof/Machine/Loop.lean ====
section
/-! DEFINITION. Loop engines: slots and their commands, the update, supervision, the image check and trace (R285 to
R314). -/

namespace Sys2Proof.Machine

/-- The code of a slot state (LEk_SLOTl_STATUS.STATE). -/
def leCode : LeState → Nat
  | .off => 0 | .loaded => 1 | .start => 2 | .ramp => 3 | .run => 4 | .safe => 5

/-- CYC_TOTAL (R289). -/
def LeSlot.total (x : LeSlot) : Nat := x.cycles + 6

namespace State

/-! The binding and the schedule of a slot (R285 to R289). -/

def leCfg (s : State) (k : Engine) (l : LSlot) (hi lo : Nat) : Nat := s.rf (R.LEk_SLOTl_CFG k.val l.val) hi lo
def leMach (s : State) (k : Engine) (l : LSlot) : Bool := s.rb (R.LEk_SLOTl_CFG k.val l.val) 12
def lePort (s : State) (k : Engine) (l : LSlot) : Fin 16 := Fin.ofNat 16 (s.leCfg k l 3 0)
def leAxis (s : State) (k : Engine) (l : LSlot) : Nat := s.leCfg k l 5 4
def leOfs (s : State) (k : Engine) (l : LSlot) : Nat := s.leCfg k l 31 20
def lePhase (s : State) (k : Engine) (l : LSlot) : Nat := s.leCfg k l 19 16
def leDiv (s : State) (k : Engine) (l : LSlot) : Nat := s.leCfg k l 15 13
def leLag (s : State) (k : Engine) (l : LSlot) : Nat := min 49 (s.leCfg k l 11 6)

/-- The frame in progress, and the tick on which a frame begins (R287). -/
def leFrame (s : State) : Nat := s.sample / 50
def leFrameAt (s : State) (f : Nat) : Nat := s.sampleAt (50 * f)

/-- The slot runs in frame `f` (R288). -/
def leRuns (s : State) (k : Engine) (l : LSlot) (f : Nat) : Bool :=
  s.leDiv k l ≤ 4 && f % 2 ^ s.leDiv k l == s.lePhase k l

/-- DIV, PHASE and TYPE agree with R288. -/
def leRateOk (s : State) (k : Engine) (l : LSlot) : Bool :=
  s.leDiv k l ≤ 4 && (!s.leMach k l || 3 ≤ s.leDiv k l) && s.lePhase k l < 2 ^ s.leDiv k l

/-- Two slots of an engine use a cycle in common in some frame (R289). -/
def leClash (s : State) (k : Engine) (l m : LSlot) : Bool :=
  let g := 2 ^ min (s.leDiv k l) (s.leDiv k m)
  let a := s.leOfs k l
  let b := s.leOfs k m
  s.lePhase k l % g == s.lePhase k m % g && a < b + (s.ls k m).total && b < a + (s.ls k l).total

/-- ENABLE accepts the slot's schedule (R289). -/
def leSchedOk (s : State) (k : Engine) (l : LSlot) : Bool :=
  s.leOfs k l + (s.ls k l).total ≤ 2400 && s.leRateOk k l &&
    (List.finRange 16).all fun m => m == l || !(s.ls k m).enabled || !s.leClash k l m

/-- Another enabled slot is bound to the same axis (R286). -/
def leTwice (s : State) (k : Engine) (l : LSlot) : Bool :=
  (List.finRange 4).any fun i => (List.finRange 16).any fun m =>
    !(i == k && m == l) && s.leOn i.val && (s.ls i m).enabled && s.leMach i m == s.leMach k l &&
      s.lePort i m == s.lePort k l && (s.leMach k l || s.leAxis i m == s.leAxis k l)

/-- The largest number of occupied cycles in any frame of the enabled schedule (R289). -/
def leBusyMax (s : State) (k : Engine) : Nat :=
  ((List.range 16).map fun f =>
    ((List.finRange 16).map fun l => if (s.ls k l).enabled && s.leRuns k l f then (s.ls k l).total else 0).sum).foldl max 0

/-- The slot is bound to a beam or machine axis of a job ARMED, RUNNING or HOLDING (R300). -/
def leInUse (s : State) (k : Engine) (l : LSlot) : Bool :=
  if s.leMach k l then s.axInUse (s.lePort k l) else s.naming (s.lePort k l) JobSlot.busy

/-- The beams whose BEn_AXES in force names the slot. -/
def leBeams (s : State) (k : Engine) (l : LSlot) : List Beam :=
  (List.finRange 16).filter fun b =>
    let w := (s.be[b]).cfg[0]
    let n := 16 * k.val + l.val
    s.beamOn b.val && (fld w 7 0 == n || fld w 15 8 == n || fld w 23 16 == n)

/-- LEk_SLOTl_STATUS as it reads: the latched bits of the register and the live fields. -/
def leStatus (s : State) (k : Engine) (l : LSlot) : Word :=
  let x := s.ls k l
  w32 (leCode x.st * 2 ^ 28 + x.cause * 2 ^ 24 + satN 8 x.lossRun * 2 ^ 16 + satN 8 x.feRun * 2 ^ 8 +
    s.rf (R.LEk_SLOTl_STATUS k.val l.val) 7 3 * 8 + b2n x.obsValid 2 + b2n x.fbNew 1)

/-! Trace (R312, R313). -/

/-- Every enabled channel has stopped after the trigger: DONE (R313). -/
def traceDone (k : Engine) (s : State) : State :=
  let e := s.le[k]
  if e.armed && e.trig && (List.finRange 4).all fun c => !(e.tr[c]).on_ then
    ((s.upLe k fun e => { e with armed := false }).setB (R.LEk_TR_STATUS k.val) 2).irq (R.LEk_IRQ_STATUS k.val)
      (R.LEk_IRQ_EN k.val) (22 + k.val) 16
  else s

/-- The trigger of a mode, where the engine is armed for it (R313). -/
def traceTrigger (k : Engine) (mode : Nat) (s : State) : State :=
  let e := s.le[k]
  if e.armed && !e.trig && s.rf (R.LEk_TR_CTL k.val) 6 4 == mode then
    (s.upLe k fun e => { e with trig := true }).traceDone k
  else s

/-- One entry of a channel, with what follows after the trigger (R312, R313). -/
def traceWrite (k : Engine) (c : Fin 4) (f : Nat) (v : Int) (s : State) : State :=
  let x := (s.le[k]).tr[c]
  let s := s.wrN (0x4000000 + k.val * 0x100000 + c.val * 0x40000 + 4 * x.next) 4 (i32 v).toNat
  let idx := R.LEk_TRc_IDX k.val c.val
  let first := (s.le[k]).trig && x.left.isNone
  let left := if first then some (s.rf (R.LEk_TR_CTL k.val) 31 16) else x.left.map (· - 1)
  let s := if first then (s.setF idx 31 16 x.next).wr (R.LEk_TRc_TFRM k.val c.val) (w32 f) else s
  let nx := (x.next + 1) % 65536
  let s := (s.setF idx 15 0 nx).upLe k fun e => { e with tr := vupd e.tr c fun x =>
    { x with next := nx, left := left, prev := some v, on_ := left != some 0 } }
  s.traceDone k

/-- A level trigger on a channel 0 sample (R313). -/
def traceLevel (k : Engine) (v : Int) (s : State) : State :=
  let thr := (s.rd (R.LEk_TR_THR k.val)).toInt
  match ((s.le[k]).tr[(0 : Fin 4)]).prev with
  | none => s
  | some p =>
    let s := s.ifc (p < thr && thr ≤ v) (traceTrigger k 2)
    s.ifc (thr ≤ p && v < thr) (traceTrigger k 3)

/-- The end of an update as the channels see it: every channel on this slot counts it, and takes its sample (R312). -/
def traceUpdate (k : Engine) (l : LSlot) (f : Nat) (value : Byte → State → Int) (s : State) : State :=
  s.each (List.finRange 4) fun c s =>
    let x := (s.le[k]).tr[c]
    let sel := s.rd (R.LEk_TRc_SEL k.val c.val)
    if x.on_ && fld sel 19 16 == l.val then
      let d := x.div + 1
      if d < 2 ^ fld sel 11 8 then s.upLe k fun e => { e with tr := vupd e.tr c fun x => { x with div := d } }
      else
        let s := s.upLe k fun e => { e with tr := vupd e.tr c fun x => { x with div := 0 } }
        let v := value (BitVec.ofNat 8 (fld sel 7 0)) s
        (s.ifc (c = 0) (traceLevel k v)).traceWrite k c f v
    else s

/-! SAFE (R309). -/

/-- A slot is no longer one that entered SAFE from a consequential report (R430). -/
def ownSafe (k : Engine) (l : LSlot) (s : State) : State :=
  s.upHub fun h => { h with conseqSafe := h.conseqSafe.filter (· ≠ (k.val, l.val)) }

/-- A slot enters SAFE: the beams that it serves stop at once, a machine axis goes to FAULT, and SAFE triggers a trace
(R309, R313, R318). -/
def leSafe (k : Engine) (l : LSlot) (cause : Nat) (s : State) : State :=
  if (s.ls k l).st = .ramp ∨ (s.ls k l).st = .run then
    let fp := (s.ls k l).pos
    let s := (s.ownSafe k l).upLs k l fun x => { x with st := .safe, cause := cause, obsValid := false }
    let s := s.irq (R.LEk_IRQ_STATUS k.val) (R.LEk_IRQ_EN k.val) (22 + k.val) l.val
    let s := (s.each (s.leBeams k l) fun b t => t.acceptStop b true).holdDone
    let s := s.ifc (s.leMach k l && s.axKind (s.lePort k l) == 2) (State.axSafe (s.lePort k l) fp)
    s.traceTrigger k 4
  else s

/-! The update (R290 to R308). -/

/-- The begin of the drift allotment of the preparation that beam `b` is in (R149). -/
def prepDrift (s : State) (b : Beam) : Nat :=
  match (s.be[b]).job with
  | some n => (s.js n).driftAt
  | none => 0

/-- The head units commanded of beam `b` at tick `t`: the field-corrected position and focus of its program, or during a
drift check the reference point being visited (R171 to R174, R346). -/
def headCmd (s : State) (b : Beam) (t : Nat) : Int × Int × Int :=
  let (x, y, z) := s.headUnits b (s.posAt b (Q.ofInt t)).1 (s.focusQ b t)
  match (s.cal.head[b]).check.filter fun c => !c.inPrep || decide (s.prepDrift b ≤ t) with
  | some c =>
    let k := c.got.length % 4
    ((s.rd (R.CAL_Hn_REFk_X b.val k)).toInt, (s.rd (R.CAL_Hn_REFk_Y b.val k)).toInt, z)
  | none => (x, y, z)

/-- The source's setpoint at an instant (R171, R292, R318); AXIS 3 is reserved and gives a free value. -/
def leSource (s : State) (k : Engine) (l : LSlot) (t : Nat) : Int × State :=
  let n := s.lePort k l
  if s.leMach k l then ((s.axPos n t).round, s)
  else
    let (x, y, z) := s.headCmd n t
    match s.leAxis k l with
    | 0 => (x, s)
    | 1 => (y, s)
    | 2 => (z, s)
    | _ => let (v, s) := s.fresh; (sext 32 v.toNat, s)

/-- The feedback of an update with index `j`: the accepted cell, or LOST (R291). -/
def leFeedback (k : Engine) (l : LSlot) (j : Nat) (s : State) : State :=
  let x := s.ls k l
  let keep (y : LeSlot) : LeSlot :=
    { y with inbox := y.inbox.filter (j < ·.1), lateIdx := y.lateIdx.filter (j < ·) }
  match x.inbox.find? (·.1 = j) with
  | some (_, p, c, a) =>
    s.upLs k l fun y => keep { y with pos := p, cur := c, aux := a, fbNew := true, lossRun := 0 }
  | none =>
    let s := if x.lateIdx.contains j then s else s.count (R.LEk_SLOTl_CNT k.val l.val) 31 16
    s.upLs k l fun y => keep { y with fbNew := false, lossRun := min 256 (y.lossRun + 1) }

/-- The soft start: R for this update, and whether it reached the source (R303). -/
def leRamp (s : State) (k : Engine) (l : LSlot) (h : Int) : Int × Bool :=
  let r := (s.ls k l).ramp
  let n : Int := oneIfZero (s.rf (R.LEk_SLOTl_RAMP k.val l.val) 30 0)
  if (h - r).natAbs ≤ n.natAbs then (h, true) else (if r < h then r + n else r - n, false)

/-- The freeze run after an update (R306). -/
def leFreeze (s : State) (k : Engine) (l : LSlot) (sv : Int) : Nat × Int :=
  let x := s.ls k l
  if !x.fbNew then (x.frzRun, x.frzVal)
  else if s.rf (R.LEk_SLOTl_FREEZE_I k.val l.val) 15 0 < x.cur.natAbs && sv != 0 then
    if x.frzRun ≠ 0 ∧ x.frzVal = x.pos then (min 65536 (x.frzRun + 1), x.pos) else (1, x.pos)
  else (0, 0)

/-- An overrun: counted, recorded as an anomaly, and LE_OVERRUN_REP at the limit; a forced one has had its report
(R30, R310, R424). -/
def leOverrun (k : Engine) (l : LSlot) (reported forced : Bool) (s : State) : State :=
  let n := 16 * k.val + l.val
  let s := (s.count (R.LEk_SLOTl_OVR k.val l.val) 15 0).setB (R.LEk_SLOTl_STATUS k.val l.val) 6
  let s := s.record 0x22 ([1, BitVec.ofNat 8 k.val] ++ toBytes 2 n ++ toBytes 4 s.frc.toNat ++ toBytes 8 (s.jt.getD 0))
  let s := s.ifc (!reported && !forced) (State.report 0x33 k.val (w32 n))
  let win := oneIfZero (s.rf (R.LEk_OVR_CFG k.val) 31 16) * 1000
  let recent := s.tick :: (s.ls k l).overs.filter fun t => s.tick < t + win
  let s := s.upLs k l fun x => { x with overs := recent }
  let s := s.ifc (oneIfZero (s.rf (R.LEk_OVR_CFG k.val) 7 0) ≤ recent.length && !reported) (State.report 0x34 k.val (w32 n))
  s.traceTrigger k 5

/-- The marks of the three checks in LEk_SLOTl_STATUS. -/
def leMarks (k : Engine) (l : LSlot) (loss frz foll : Bool) (s : State) : State :=
  let st := R.LEk_SLOTl_STATUS k.val l.val
  ((s.ifc loss (State.setB st 3)).ifc frz (State.setB st 4)).ifc foll (State.setB st 5)

/-- The report of the first check that fails and its SAFE. -/
def leReact (k : Engine) (l : LSlot) (loss frz foll : Bool) (s : State) : State :=
  let n := w32 (16 * k.val + l.val)
  if loss then (s.report 0x30 k.val n).leSafe k l 1
  else if frz then (s.report 0x31 k.val n).leSafe k l 2
  else if foll then
    let s := s.report 0x32 k.val n
    if bit (s.rd (R.LEk_SLOTl_FE k.val l.val)) 31 then s.leSafe k l 3 else s
  else s

/-- Supervision of an update with setpoint `sp`, velocity `sv` and `over_` for an overrun: checks in order, the first one
found is reported (R305 to R310). -/
def leSupervise (k : Engine) (l : LSlot) (sp sv : Int) (over_ : Bool) (s : State) : State :=
  let sup := s.rd (R.LEk_SLOTl_SUP k.val l.val)
  let fe := s.rd (R.LEk_SLOTl_FE k.val l.val)
  let x := s.ls k l
  let loss := oneIfZero (fld sup 31 24) < x.lossRun
  let (run, val) := s.leFreeze k l sv
  let frz := x.fbNew && max 2 (fld sup 15 0) ≤ run && x.frzRun < run
  let ef := (sp - x.pos).natAbs
  let far := x.fbNew && fld fe 30 0 ≠ 0 && fld fe 30 0 < ef
  let feRun := if !x.fbNew then x.feRun else if far then min 256 (x.feRun + 1) else 0
  let foll := far && feRun == oneIfZero (fld sup 23 16)
  let s := s.upLs k l fun x => { x with frzRun := run, frzVal := val, feRun := feRun }
  let s := if x.fbNew then s.wmod (R.LEk_SLOTl_FE_PEAK k.val l.val) fun w => w32 (satN 32 (max w.toNat ef)) else s
  let s := (s.leMarks k l loss frz foll).leReact k l loss frz foll
  if over_ then s.leOverrun k l (loss || frz || foll) x.forceOver else s

/-- The law of an update: with `retry` cycles lost the instructions that had issued in time ran, and HALT was not
reached (R290, R296, R310). -/
def leLaw (s : State) (k : Engine) (l : LSlot) (retry : Nat) (inp : Vector Int 8) : LawCtx :=
  let code := s.law k l
  let n := (s.ls k l).cycles
  let ran := ((code.zip (issueCycles code 0 (Vector.replicate 4 0))).filter fun x => x.2 + retry ≤ n).map (·.1)
  ran.foldl (fun c i => c.run (s.coef k l) i) (LawCtx.start (s.lawS k l) inp)

/-- What the beam engines keep of an update at `t`: the commanded position of the head, on its X slot, and the observer
estimate of the X and of the Y slot (R177, R304). -/
def leHistory (k : Engine) (l : LSlot) (t done : Nat) (est : Int) (ok : Bool) (s : State) : State :=
  if s.leMach k l then s
  else
    let b := s.lePort k l
    let w := (s.be[b]).cfg[0]
    let n := 16 * k.val + l.val
    let p := (s.posAt b (Q.ofInt t)).1
    let (x, y, _) := s.headCmd b t
    let o : ObsPt := { at_ := t, done := done, est := est, ok := ok }
    if fld w 7 0 = n then
      s.upBe b fun e => { e with hist := ({ at_ := t, hx := x, hy := y, p := p.round } :: e.hist).take 256
                                 obs := vupd e.obs 0 fun q => (o :: q).take 256 }
    else if fld w 15 8 = n then s.upBe b fun e => { e with obs := vupd e.obs 1 fun q => (o :: q).take 256 }
    else s

/-- AXIS_CMD of a slot; an HP port sends none of axis 3 (R290, R291, R302, R387). -/
def leSend (k : Engine) (l : LSlot) (f : Nat) (v : Int) (s : State) : State :=
  let x := s.ls k l
  let on_ := x.st = .ramp ∨ x.st = .run
  let v := if on_ then v else 0
  let port := if s.leMach k l then 33 else (s.lePort k l).val
  let a := if s.leMach k l then (s.lePort k l).val else s.leAxis k l
  let s := (s.wr (R.LEk_SLOTl_CMD k.val l.val) (i32 v)).upLs k l fun x => { x with pcmd := v }
  if a = 3 ∧ port < 16 then s else s.cell port (0x20 + a) (50 * f) [(i32 v).toNat, b2n on_, b2n (x.st = .safe)]

/-- The law, the supervision and the commit of an update in RAMP or RUN, with its command value (R290, R292, R297,
R303, R304, R310). `entered` says that this update entered RAMP. -/
def leRunLaw (k : Engine) (l : LSlot) (retry : Nat) (entered : Bool) (h : Int) (s : State) : Int × Int × State :=
  let x := s.ls k l
  let ramping := x.st == .ramp
  let (r, there) := if entered then (x.pos, false) else s.leRamp k l h
  let sp := if ramping then r else h
  let sv := if ramping then 0 else satS 32 (h - x.h1)
  let sa := if ramping then 0 else satS 32 (h - 2 * x.h1 + x.h2)
  let flags : Int := (b2n x.fbNew + b2n ramping 1 + b2n x.first 2 : Nat)
  let c := s.leLaw k l (if x.forceOver then x.cycles + 1 else retry) #v[sp, sv, sa, x.pos, x.cur, x.aux, x.pcmd, flags]
  let s := if c.done then s.wrBytes (lawState k.val l.val) (c.s.toList.flatMap fun v => toBytes 4 (i32 v).toNat) else s
  let out := if c.done then c.o[0] else x.pcmd
  let valid := x.st == .run && c.done && c.o[2] != 0
  let s := s.upLs k l fun y =>
    { y with ctx := c, ramp := if ramping then r else y.ramp, first := false, h2 := if entered then h else y.h1, h1 := h
             obsValid := valid }
  let s := ((s.wr (R.LEk_SLOTl_SP k.val l.val) (i32 sp)).wr (R.LEk_SLOTl_FP k.val l.val) (i32 x.pos)).wr
    (R.LEk_SLOTl_OBS k.val l.val) (i32 c.o[1])
  let s := (s.leSupervise k l sp sv (!c.done)).upLs k l fun y => { y with forceOver := false }
  let s := if ramping && there && (s.ls k l).st == .ramp then s.upLs k l fun y => { y with st := .run } else s
  (out, sp - x.pos, s)

/-- The trace value of a source after an update (R312). -/
def leTraceValue (k : Engine) (l : LSlot) (ef : Int) (src : Byte) (s : State) : Int :=
  if src.toNat = 0x50 then satS 32 ef
  else if src.toNat = 0x51 then (s.leStatus k l).toInt
  else if src.toNat < 0x20 then sext 32 (s.rdN (lawState k.val l.val + 4 * src.toNat) 4)
  else (s.ls k l).ctx.get src

/-- A slot's update in frame `f` (R290 to R312). -/
def leUpdate (k : Engine) (l : LSlot) (f retry : Nat) (s : State) : State :=
  let t := s.leFrameAt f
  let j := 50 * f - s.leLag k l
  let x0 := (s.ls k l).st
  let live := x0 == .start || x0 == .ramp || x0 == .run
  let s := s.upLs k l fun x => { x with ran := some f, ctx := LawCtx.start (s.lawS k l) x.ctx.inp }
  let s := if live then s.leFeedback k l j else s
  let (h, s) := s.leSource k l t
  let enter := x0 == .start && (s.ls k l).fbNew
  let s := if enter then s.upLs k l fun x => { x with st := .ramp, ramp := x.pos, h1 := h, h2 := h, lossRun := 0 } else s
  let runs := enter || x0 == .ramp || x0 == .run
  let (out, ef, s) := if runs then s.leRunLaw k l retry enter h else (0, 0, s)
  let x := s.ls k l
  let valid := x.obsValid && runs
  let s := s.leHistory k l t s.tick x.ctx.o[1] valid
  let v := if x.st = .ramp ∨ x.st = .run then out else 0
  let s := s.digItem (50 * f) 3 (16 * k.val + l.val)
    (toBytes 4 (i32 v).toNat ++ toBytes 4 (if valid then (i32 x.ctx.o[1]).toNat else 0x80000000))
  let s := s.leSend k l f out
  let s := s.traceUpdate k l f fun src t => State.leTraceValue k l ef src t
  s.upLs k l fun x => { x with ctx := LawCtx.start (s.lawS k l) x.ctx.inp }

/-! Slot commands. -/

/-- LEk_CMD_RESULT posted, with CMD_DONE (R299). -/
def leResult (k : Engine) (l : LSlot) (code load : Nat) (s : State) : State :=
  let a := R.LEk_CMD_RESULT k.val
  let s := s.wr a (w32 ((s.rf a 31 24 + 1) % 256 * 2 ^ 24 + l.val * 2 ^ 16 + load * 2 ^ 8 + code))
  s.irq (R.LEk_IRQ_STATUS k.val) (R.LEk_IRQ_EN k.val) (22 + k.val) 17

/-- A slot command where the engine is bonded; an unbonded one ignores it (R4, R285). -/
def leCommand (k : Engine) (l : LSlot) (f : State → State × Nat × Nat) (s : State) : State :=
  if s.leOn k.val then
    let (t, c, d) := f s
    t.leResult k l c d
  else s

/-- The first failure of a law image at an address, by LOAD_CODE; 0 when it passes (R298, R299). -/
def lawCheck (s : State) (a : Nat) : Nat :=
  if a % 64 ≠ 0 ∨ !s.inDdr a 64 then 7
  else
    let words := s.rdN (a + 8) 4
    let ncoef := s.rdN (a + 12) 2
    let nstate := s.rdN (a + 14) 1
    let hdr : Bool := s.rdN a 4 == 0x314C4C50 && s.rdN (a + 4) 2 == 1 && s.rdN (a + 6) 1 == 2 && s.rdN (a + 7) 1 == 0 &&
      1 ≤ words && words ≤ 1024 && ncoef ≤ 64 && nstate ≤ 32 && s.rdN (a + 15) 1 == 0 && s.rdN (a + 28) 4 == 0 &&
      s.rdN (a + 36) 24 == 0 && s.rd32 (a + 60) == crc32 (s.rdBytes a 60)
    if !hdr then 1
    else
      let body := 8 * words + 8 * ncoef + 4 * nstate
      if !s.inDdr a (64 + body) then 7
      else if s.rd32 (a + 32) ≠ crc32 (s.rdBytes (a + 64) body) then 2
      else
        let code := (List.range words).map fun i => lawInstr (s.rdN (a + 64 + 8 * i) 8)
        let cf (i : Nat) := s.rdN (a + 64 + 8 * words + 8 * i + 4) 4
        if code.any Option.isNone then 3
        else
          let law := code.filterMap id
          if (law.any fun i => !i.operandsOk ncoef) ∨ ((List.range ncoef).any fun i => 31 < cf i) then 4
          else if law.getLast? ≠ some .halt ∨ law.dropLast.contains .halt then 5
          else if lawCycles law ≠ s.rdN (a + 24) 4 then 6
          else 0

/-- An accepted image in the slot's region: code, both coefficient areas, the state (R297 to R299). -/
def lawLoad (k : Engine) (l : LSlot) (a : Nat) (s : State) : State :=
  let words := s.rdN (a + 8) 4
  let ncoef := s.rdN (a + 12) 2
  let nstate := s.rdN (a + 14) 1
  let pad (n : Nat) (b : List Byte) : List Byte := b ++ List.replicate (n - b.length) 0
  let code := pad 0x2000 (s.rdBytes (a + 64) (8 * words))
  let coef := pad 0x200 (s.rdBytes (a + 64 + 8 * words) (8 * ncoef))
  let st := pad 0x80 (s.rdBytes (a + 64 + 8 * words + 8 * ncoef) (4 * nstate))
  let base := lawBase k.val l.val
  let cyc := s.rdN (a + 24) 4
  let s := (((s.wrBytes base code).wrBytes (lawCoef k.val l.val) coef).wrBytes (lawShadow k.val l.val) coef).wrBytes
    (lawState k.val l.val) st
  let s := s.upLs k l fun x =>
    { x with st := .loaded, cause := 0, cycles := cyc, words := words, ncoef := ncoef, master := a, pcmd := 0 }
  let s := s.upLs k l fun x => { x with ctx := LawCtx.start (s.lawS k l) x.ctx.inp }
  s.wr (R.LEk_SLOTl_CYC k.val l.val) (w32 ((cyc + 6) * 2 ^ 16 + cyc))

end State

/-- LE_UPDATE: the slot's update completes in its frame on tick OFS + CYC_TOTAL; `retry` is the number of cycles that a
local-SRAM correction cost it (R287 to R310). -/
def execLeUpdate (k : Engine) (l : LSlot) (retry : Nat) (s : State) : Res :=
  let f := s.leFrame
  let x := s.ls k l
  if s.leOn k.val ∧ x.st ≠ .off ∧ s.leRuns k l f ∧ x.ran ≠ some f ∧ s.leFrameAt f + s.leOfs k l + x.total ≤ s.tick then
    .next (s.leUpdate k l f retry)
  else .next s

/-- AXIS_FB: a cell waits for the update of its index, or is late, invalid or of no update; one that the port may not receive is
dropped and counted (R291, R372, R376, R383, R387). -/
def execAxisFb (p : Port) (axis : Fin 16) (f : Bool) (sidx : BitVec 16) (pos : Word) (cur : BitVec 16) (aux : Word)
    (s : State) : Res :=
  let j := s.extSidx sidx.toNat
  if !s.portUp p.val then .next s
  else if !farSends p (0x10 + axis.val) then .next (s.count (R.PORTp_TC0 p.val) 15 0)
  else if j < 0 then .next s
  else
    let j := j.toNat
    .next (s.each (List.finRange 4) fun k s => s.each (List.finRange 16) fun l s =>
      let x := s.ls k l
      let bound : Bool := if s.leMach k l then p.val == 33 && s.lePort k l == axis
        else p.val == (s.lePort k l).val && s.leAxis k l == axis.val
      let live := x.st == .start || x.st == .ramp || x.st == .run
      let fr := (j + s.leLag k l) / 50
      if s.leOn k.val && bound && live && f && (j + s.leLag k l) % 50 == 0 && s.leRuns k l fr then
        if s.tick ≤ s.leFrameAt fr + s.leOfs k l then
          s.upLs k l fun y => { y with inbox := (j, pos.toInt, cur.toInt, aux.toInt) :: y.inbox.filter (·.1 ≠ j) }
        else
          let cnt := R.LEk_SLOTl_CNT k.val l.val
          let s := s.count cnt 15 0
          -- the update that ran without it had counted it as lost
          match x.ran with
          | some r =>
            if fr < r ∨ (fr = r ∧ !x.fbNew) then s.setF cnt 31 16 (s.rf cnt 31 16 - 1)
            else if r < fr then s.upLs k l fun y => { y with lateIdx := j :: y.lateIdx }
            else s
          | none => s.upLs k l fun y => { y with lateIdx := j :: y.lateIdx }
      else s)

/-- A slot starts: START, with the counts of its supervision and its inbox empty (R302, R303). -/
def State.leStart (k : Engine) (l : LSlot) (s : State) : State :=
  s.upLs k l fun x =>
    { x with st := .start, cause := 0, first := true, fbNew := false, lossRun := 0, frzRun := 0, feRun := 0
             inbox := [], lateIdx := [], ran := none, obsValid := false }

/-- A slot that was enabled or in SAFE is LOADED again (R302). -/
def State.leOff (k : Engine) (l : LSlot) (s : State) : State :=
  (s.ownSafe k l).upLs k l fun x => { x with st := .loaded, cause := 0, obsValid := false, fbNew := false }

/-- LOAD (R298, R299, R300, R302). -/
def execLoad (k : Engine) (l : LSlot) (s : State) : Res :=
  .next (s.leCommand k l fun s =>
    let st := (s.ls k l).st
    if s.leInUse k l then (s, 4, 0)
    else if st ≠ .off ∧ st ≠ .loaded then (s, 1, 0)
    else
      let a := (s.rd (R.LEk_IMG_HI k.val)).toNat * 2 ^ 32 + (s.rd (R.LEk_IMG_LO k.val)).toNat
      match s.lawCheck a with
      | 0 => (s.lawLoad k l a, 0, 0)
      | c => (s, 2, c))

/-- ENABLE (R286, R289, R302). -/
def execEnable (k : Engine) (l : LSlot) (s : State) : Res :=
  .next (s.leCommand k l fun s =>
    if (s.ls k l).st ≠ .loaded then (s, 1, 0)
    else if !s.leSchedOk k l then (s, 3, 0)
    else if s.leTwice k l then (s, 5, 0)
    else (s.leStart k l, 0, 0))

/-- DISABLE (R302). -/
def execDisable (k : Engine) (l : LSlot) (s : State) : Res :=
  .next (s.leCommand k l fun s =>
    let st := (s.ls k l).st
    if st = .safe then (s.leOff k l, 0, 0)
    else if st = .start ∨ st = .ramp ∨ st = .run then
      if s.leInUse k l then (s, 4, 0) else (s.leOff k l, 0, 0)
    else (s, 1, 0))

/-- COEF_SWAP: the shadow coefficients enter service between two updates (R300). -/
def execCoefSwap (k : Engine) (l : LSlot) (s : State) : Res :=
  .next (s.leCommand k l fun s =>
    let sh := State.lawShadow k.val l.val
    if s.leInUse k l then (s, 4, 0)
    else if (List.range 64).any fun i => 31 < s.rdN (sh + 8 * i + 4) 4 then (s, 6, 0)
    else (s.wrBytes (State.lawCoef k.val l.val) (s.rdBytes sh 512), 0, 0))

/-- LE_IMG_CHECK: with IMG_CHECK at 1, once in a fabric round, the engine compares the next 64 bytes of a loaded slot's code
with the master copy; a
mismatch raises LE_IMAGE and the slot enters SAFE (R301). -/
def execLeImgCheck (k : Engine) (s : State) : Res :=
  if !s.leReads k.val then .next s
  else
    let e := s.le[k]
    let holds (i : Nat) : Bool := (vget? e.slot (i / 128)).any fun x => x.st != .off && i % 128 * 8 < x.words
    match ((List.range 2048).map fun i => (e.check + i) % 2048).find? holds with
    | none => .next s
    | some i =>
      let l : LSlot := Fin.ofNat 16 (i / 128)
      let x := s.ls k l
      let n := min 64 (8 * x.words - 64 * (i % 128))
      let s := s.upLe k fun e => { e with check := (i + 1) % 2048, checkRound := some (s.tick / 4096) }
      if s.rdBytes (State.lawBase k.val l.val + 64 * (i % 128)) n = s.rdBytes (x.master + 64 + 64 * (i % 128)) n then .next s
      else .next ((s.report 0x35 k.val (w32 (16 * k.val + l.val))).leSafe k l 4)

/-- TR_ARM: every enabled channel writes from here on, and the engine waits for its trigger; MODE OFF ignores it (R313). -/
def execTrArm (k : Engine) (s : State) : Res :=
  let mode := s.rf (R.LEk_TR_CTL k.val) 6 4
  if !s.leOn k.val ∨ mode = 0 ∨ mode = 7 then .next s
  else
    let en (c : Fin 4) : Bool := s.rb (R.LEk_TRc_SEL k.val c.val) 31
    .next ((s.clrB (R.LEk_TR_STATUS k.val) 2).upLe k fun e =>
      { e with armed := true, trig := false
               tr := Vector.ofFn fun c => { e.tr[c] with on_ := en c, div := 0, left := none, prev := none } })

/-- TR_TRIG (R313). -/
def execTrTrig (k : Engine) (s : State) : Res := .next (s.traceTrigger k 1)

/-- LE_CNT_CLR: the slot counters and FE_PEAK of an engine (R488). -/
def execLeCntClr (k : Engine) (s : State) : Res :=
  .next (s.each (List.range 16) fun l t =>
    ((t.wr (R.LEk_SLOTl_CNT k.val l) 0).wr (R.LEk_SLOTl_OVR k.val l) 0).wr (R.LEk_SLOTl_FE_PEAK k.val l) 0)

end Sys2Proof.Machine
end

