-- ==== Sys2Proof/Machine/Calib.lean ====
section
/-! DEFINITION. Calibration: the time reference, delay lines, field-correction sets, drift checks and power curves (R332
to R356). -/

namespace Sys2Proof.Machine

/-! Delay lines (R333 to R335). -/

/-- The delays of taps 1 to 64 less that of tap 0, for a selection of 80 elements: selected elements and bypassed ones in
chain order (R333, R334). -/
def tapDelays (sel : Nat) (elem bypass : List Int) : List Int :=
  ((List.range 80).foldl (fun (acc : Int × List Int) j =>
    if nbit sel j then
      let d := acc.1 + (elem[j]?).getD 0
      (d, acc.2 ++ [d])
    else (acc.1 + (bypass[j]?).getD 0, acc.2)) (0, [])).2

/-- The largest magnitude of a list. -/
def maxAbs (l : List Int) : Nat := (l.map Int.natAbs).foldl max 0

/-- The scale of a delay counted by REFCLK: REFCLK is fast by `ppm` units of 0.001 ppm, so a count of d ps is
d * 10^9 / (10^9 + ppm) ps of CAL_REF (R332; DEDUCED, log entry 51). -/
def refScale (ppm : Int) : Nat := max 1 (1000000000 + ppm).toNat

/-- The error of tap `k` at a counted delay `d`, in ps over `refScale` (R332, R334). -/
def tapError (sc k : Nat) (d : Int) : Nat := (d * 1000000000 - 125 * (k : Int) * sc).natAbs

/-- The largest tap error, in ps over `refScale` (R334). -/
def lineError (sc : Nat) (d : List Int) : Nat := (d.zipIdx.map fun x => tapError sc (x.2 + 1) x.1).foldl max 0

/-- A choice over the first elements of a line: the delay so far, its largest tap error, and the elements selected. -/
structure LineSel where
  sum : Int
  err : Nat
  sel : Nat
  deriving DecidableEq, Repr

/-- Of choices in order of their delays, the best of each delay: what follows depends on the delay alone. -/
def LineSel.best (x : LineSel) : List LineSel → List LineSel
  | [] => [x]
  | y :: l => if x.sum = y.sum then LineSel.best (if y.err < x.err then y else x) l else x :: LineSel.best y l

/-- Choices over one element more: `old` holds them by the number of elements bypassed. -/
def LineSel.extend (sc j : Nat) (e b : Int) (old : List (List LineSel)) : List (List LineSel) :=
  (List.range 17).map fun n =>
    let take := ((old[n]?).getD []).map fun x : LineSel =>
      { sum := x.sum + e, err := max x.err (tapError sc (j + 1 - n) (x.sum + e)), sel := x.sel + 2 ^ j : LineSel }
    let skip := (if n = 0 then [] else (old[n - 1]?).getD []).map fun x : LineSel => { x with sum := x.sum + b }
    match List.merge take skip fun x y => x.sum ≤ y.sum with
    | [] => []
    | x :: l => LineSel.best x l

/-- The selection of 64 of 80 elements whose largest tap error is least (R334). -/
def lineBest (sc : Nat) (elem bypass : List Int) : LineSel :=
  let l := (List.range 80).foldl (fun old j => LineSel.extend sc j ((elem[j]?).getD 0) ((bypass[j]?).getD 0) old)
    [[⟨0, 0, 0⟩]]
  ((l[16]?).getD []).foldl (fun x y => if y.err < x.err ∨ x.sel = 0 then y else x) ⟨0, 0, 0⟩

/-- The selection that the Shepherd takes: one whose largest tap error is least; which of several such the operand says
(R334; DESIGN CHOICE, log entry 51). -/
def lineChoice (sc : Nat) (x : LineMeas) : Nat :=
  let b := lineBest sc x.elem1 x.bypass1
  let w := x.sel.toNat
  if popcount 80 w = 64 ∧ lineError sc (tapDelays w x.elem1 x.bypass1) = b.err then w else b.sel

/-! The drift fit (R347). -/

/-- A fitted map m = A r + b: a00, a01, a10, a11, bx, by. -/
structure Fit where
  a00 : Q
  a01 : Q
  a10 : Q
  a11 : Q
  bx  : Q
  by_ : Q
  deriving DecidableEq, Repr

/-- The sum of a list of rationals. -/
def Q.sum (l : List Q) : Q := l.foldl Q.add ⟨0, 1⟩

/-- The least-squares map from points `r` to readings `m`; none where the points do not span the plane. -/
def fitOf (r m : List (Int × Int)) : Option Fit :=
  let n := r.length
  let mean (l : List Int) : Q := Q.mk' (l.foldl (· + ·) 0) n
  let rx := mean (r.map (·.1))
  let ry := mean (r.map (·.2))
  let mx := mean (m.map (·.1))
  let my := mean (m.map (·.2))
  let cross (u v : List Int) (um vm : Q) : Q :=
    Q.sum ((u.zip v).map fun x => ((Q.ofInt x.1).sub um).mul ((Q.ofInt x.2).sub vm))
  let u := r.map (·.1)
  let v := r.map (·.2)
  let sxx := cross u u rx rx
  let sxy := cross u v rx ry
  let syy := cross v v ry ry
  let det := (sxx.mul syy).sub (sxy.mul sxy)
  if det.isZero then none
  else
    let row (w : List Int) (wm : Q) : Q × Q :=
      let cx := cross u w rx wm
      let cy := cross v w ry wm
      (((cx.mul syy).sub (cy.mul sxy)).div det, ((cy.mul sxx).sub (cx.mul sxy)).div det)
    let (a, b) := row (m.map (·.1)) mx
    let (c, d) := row (m.map (·.2)) my
    some { a00 := a, a01 := b, a10 := c, a11 := d, bx := mx.sub ((a.mul rx).add (b.mul ry))
           by_ := my.sub ((c.mul rx).add (d.mul ry)) }

namespace Fit

/-- The map at a point. -/
def image (f : Fit) (r : Int × Int) : Q × Q :=
  (((f.a00.mul (Q.ofInt r.1)).add (f.a01.mul (Q.ofInt r.2))).add f.bx,
   ((f.a10.mul (Q.ofInt r.1)).add (f.a11.mul (Q.ofInt r.2))).add f.by_)

def det (f : Fit) : Q := (f.a00.mul f.a11).sub (f.a01.mul f.a10)
/-- gx², gy² and s of the form of R347. -/
def gx2 (f : Fit) : Q := (f.a00.mul f.a00).add (f.a10.mul f.a10)
def gy2 (f : Fit) : Q := (f.det.mul f.det).div f.gx2
def skew (f : Fit) : Q := ((f.a00.mul f.a01).add (f.a10.mul f.a11)).div f.det

/-- The tangent of 0.01 rad, to 20 digits. -/
def tanLimit : Q := ⟨1000033334666720637, 100000000000000000000⟩

/-- Gains, rotation, skew and offsets lie within the limits (R347). -/
def ok (f : Fit) : Bool :=
  let lim := Q.ofInt (2 ^ 26)
  (⟨0, 1⟩ : Q).lt f.a00 && (⟨0, 1⟩ : Q).lt f.det && (⟨81, 100⟩ : Q).le f.gx2 && f.gx2.le ⟨121, 100⟩ &&
    (⟨81, 100⟩ : Q).le f.gy2 && f.gy2.le ⟨121, 100⟩ && (f.a10.div f.a00).abs.lt tanLimit &&
    f.skew.abs.lt ⟨1, 100⟩ && f.bx.abs.lt lim && f.by_.abs.lt lim

/-- A rational as sQ1.30 (R13). -/
def q30 (a : Q) : Int := satS 32 ((a.mul (Q.ofInt (2 ^ 30))).round)

/-- M00, M01, M10, M11, OX, OY: the inverse of A, and -M b with M as rounded (R347). -/
def correction (f : Fit) : Vector Int 6 :=
  let m00 := q30 (f.a11.div f.det)
  let m01 := q30 (f.a01.neg.div f.det)
  let m10 := q30 (f.a10.neg.div f.det)
  let m11 := q30 (f.a00.div f.det)
  let o (p q : Int) : Int :=
    satS 32 ((((Q.mk' p (2 ^ 30)).mul f.bx).add ((Q.mk' q (2 ^ 30)).mul f.by_)).neg.round)
  #v[m00, m01, m10, m11, o m00 m01, o m10 m11]

/-- The six parameters as CAL_Hn shows them: offsets, gains, rotation, skew. -/
def params (f : Fit) : Vector Int 6 :=
  let rot := angleOf (f.a00.num * f.a10.den) (f.a10.num * f.a00.den)
  #v[satS 32 f.bx.round, satS 32 f.by_.round, q30 (f.gx2.sqrtDown 48), q30 (f.gy2.sqrtDown 48), sext 32 rot, q30 f.skew]

end Fit

namespace State

/-! CAL_CMD (registers of 13). -/

/-- CAL_RESULT posted, with CMD_DONE. -/
def calResult (code set : Nat) (s : State) : State :=
  let a := R.CAL_RESULT
  (s.wr a (w32 ((s.rf a 31 24 + 1) % 256 * 2 ^ 24 + set * 2 ^ 8 + code))).irq R.CAL_IRQ_STATUS R.CAL_IRQ_EN 27 5

/-- A CAL record: kind, unit, result, and CAL_DL_BAD or CAL_Hn_DRIFT_T (R438; log entry 105). -/
def calRecord (kind unit result : Nat) (word : Word) (s : State) : State :=
  s.record 0x41 ([BitVec.ofNat 8 kind, BitVec.ofNat 8 unit, BitVec.ofNat 8 result, 0] ++ toBytes 4 word.toNat)

/-- A drift check of the CAL_CMD operation runs: CAL_RESULT.BUSY. -/
def calBusy (s : State) : Bool :=
  (List.finRange 16).any fun b => ((s.cal.head[b]).check.map (·.inPrep)) == some false

/-- A CAL_CMD operation, ignored while BUSY; `f` answers its result code and SET_CODE. -/
def calCommand (f : State → State × Nat × Nat) (s : State) : State :=
  if s.calBusy ∨ s.dev.shpHalt then s
  else
    let (t, c, d) := f s
    t.calResult c d

/-- The beam that an ARG names; none for an absent unit. -/
def argBeam (s : State) (n : Nat) : Option Beam := if h : n < 16 then (if s.beamOn n then some ⟨n, h⟩ else none) else none

/-! Delay lines. -/

/-- A run starts, or is due while REF_OK is 0 and waits, which STALE shows (R337). -/
def dlStart : State → State := shp fun s =>
  s.upCal fun c =>
    if c.refOk then { c with running := true, refHeld := true, due := true } else { c with due := true, waited := true }

/-- A trigger for a run: during one, one more follows it (R337). -/
def dlTrigger (s : State) : State :=
  if s.cal.running then s.upCal fun c => { c with again := true } else s.dlStart

/-- REF_OK returns to 0 (R332). -/
def refLost (s : State) : State :=
  let was := s.cal.refOk
  (s.upCal fun c => { c with refOk := false, refGood := 0, refHeld := false }).ifc was (State.report 0x58 0 0)

/-- One pair's double run judged (R335). -/
def dlPair (m : Nat) (x : LineMeas) (s : State) : State :=
  if !s.beamOn (m % 16) then s
  else
    let sc := refScale (s.rd R.CAL_REF_PPM).toInt
    let sel := lineChoice sc x
    let d1 := tapDelays sel x.elem1 x.bypass1
    let d2 := tapDelays sel x.elem2 x.bypass2
    let tol := oneIfZero (s.rf R.CAL_DL_CFG 7 0)
    let err := lineError sc d2
    let inl := (rdiv (err : Nat) sc).toNat
    let ok : Bool := maxAbs ((d1.zip d2).map fun y => y.1 - y.2) * 1000000000 ≤ tol * sc && err ≤ 20 * sc && s.cal.refHeld
    if ok then
      let s := (s.clrB R.CAL_DL_BAD m).count R.CAL_DL_CNT 15 0
      s.upCal fun c => { c with pair := vupdN c.pair m fun y =>
        if y.line then { y with selA := BitVec.ofNat 80 sel, inlA := inl, swap := true }
        else { y with selB := BitVec.ofNat 80 sel, inlB := inl, swap := true } }
    else
      let s := (s.setB R.CAL_DL_BAD m).count R.CAL_DL_CNT 31 16
      s.upCal fun c => { c with pair := vupdN c.pair m fun y => { y with swap := false } }

/-! Sets. -/

/-- The set slots that a job has drawn on are locked, until it is DONE, ABORTED or REJECTED or its slot is released (R341). -/
def setLocked (s : State) (q : Nat) : Bool :=
  (List.finRange 4).any fun n =>
    let j := s.js n
    j.locks.any (· == q) && !(j.st = .empty || j.st = .done || j.st = .aborted || j.st = .rejected)

/-- The VALID sets of a head. -/
def validSets (s : State) (n : Nat) : List Nat := (s.headSlots n).filter s.setValid

/-- RECAL_DUE of a head (R345). -/
def recalOf (s : State) (n : Beam) : Bool :=
  let t := (s.cal.head[n]).temp
  let d : Int := sext 16 (s.rf R.CAL_HEAD_CFG 15 0)
  if s.small then
    match (s.validSets n.val).map s.setTemp with
    | [] => false
    | x :: l => t < l.foldl min x - d || l.foldl max x + d < t
  else
    let q := 2 * n.val + (s.cal.head[n]).active
    s.setValid q && d < (t - s.setTemp q).natAbs

/-- RECAL_DUE evaluated; a change from 0 to 1 sets its interrupt (R345). -/
def recalUpdate (n : Beam) (s : State) : State :=
  let r := s.recalOf n
  let was := (s.cal.head[n]).recal
  (s.upHead n fun h => { h with recal := r }).ifc (r && !was) (State.irq R.CAL_IRQ_STATUS R.CAL_IRQ_EN 27 2)

/-- RECAL_DUE of the head that owns a slot. -/
def recalSlot (q : Nat) (s : State) : State :=
  match (s.slotHead q).bind s.argBeam with
  | some n => s.recalUpdate n
  | none => s

/-- VALID of a slot set or cleared. -/
def setValidity (q : Nat) (v : Bool) (s : State) : State :=
  (s.upCal fun c => { c with valid := vupdN c.valid q fun _ => v }).recalSlot q

/-- The geometry of two sets agrees in the fields of R340, GEOM. -/
def sameGeom (s : State) (q r : Nat) (zGain : Bool) : Bool :=
  s.setI32 q 8 == s.setI32 r 8 && s.setI32 q 12 == s.setI32 r 12 && s.setI32 q 16 == s.setI32 r 16 &&
    (!zGain || s.setI32 q 24 == s.setI32 r 24) && s.setI32 q 28 == s.setI32 r 28 && s.setI32 q 32 == s.setI32 r 32

/-- The first failure of a set, by SET_CODE; 0 when it passes (R338, R340). -/
def setCheck (s : State) (q h : Nat) : Nat :=
  let a := setBase q
  let pitch := s.rdN (a + 16) 4
  let hdr : Bool := s.rdN a 4 == 0x31434650 && s.rdN (a + 4) 2 == 1 && s.rdN (a + 6) 1 == 3 &&
    s.rd32 (a + 60) == crc32 (s.rdBytes a 60) && s.rdN (a + 7) 1 < 16 && 1000 ≤ pitch && pitch ≤ 8000000 &&
    s.rdN (a + 22) 2 == 0 && s.setI32 q 28 ≤ s.setI32 q 32 && s.rdN (a + 36) 4 == 0 && s.rdN (a + 52) 8 == 0
  let others := (s.validSets h).filter (· ≠ q)
  if !hdr then 1
  else if s.rd32 (a + 48) ≠ crc32 (s.rdBytes (a + 64) (setBytes - 64)) then 2
  else if s.rdN (a + 7) 1 ≠ h then 3
  else if s.small ∧ others.any fun r => !s.sameGeom q r true then 4
  else if s.small ∧ others.any fun r => s.setTemp q == s.setTemp r then 5
  else if s.setLocked q then 6
  else 0

/-- A pending promotion takes effect (R343). -/
def promoteNow (n : Beam) (s : State) : State :=
  if (s.cal.head[n]).promote then (s.upHead n fun h => { h with active := 1 - h.active, promote := false }).recalUpdate n
  else s

/-! Drift checks. -/

/-- M00 to OY of a head as its registers hold them. -/
def driftRegs (n : Nat) : List Nat :=
  [R.CAL_Hn_M00 n, R.CAL_Hn_M01 n, R.CAL_Hn_M10 n, R.CAL_Hn_M11 n, R.CAL_Hn_OX n, R.CAL_Hn_OY n]

/-- A head whose check is due (R348). -/
def driftDue (s : State) (n : Beam) : Bool :=
  let h := s.cal.head[n]
  sext 16 (s.rf R.CAL_HEAD_CFG 31 16) < (h.temp - sext 16 (s.rf (R.CAL_Hn_DRIFT_T n.val) 15 0)).natAbs || h.stale ||
    !h.checked

/-- The correction in the registers reaches the beam engine (R173). -/
def driftLoad (n : Beam) (s : State) : State :=
  s.upHead n fun h =>
    { h with eng := #v[s.rd (R.CAL_Hn_M00 n.val), s.rd (R.CAL_Hn_M01 n.val), s.rd (R.CAL_Hn_M10 n.val),
                       s.rd (R.CAL_Hn_M11 n.val), s.rd (R.CAL_Hn_OX n.val), s.rd (R.CAL_Hn_OY n.val)] }

/-- The LEAD of a pair forwards a head's M and O (R399, R416). -/
def driftSend (n : Beam) (s : State) : State :=
  if s.twin.role = 1 ∧ s.twin.pair ≠ 0 then
    s.parcel tp 0x92 ([6, 0, 0, 0, BitVec.ofNat 8 n.val, 0, 0, 0] ++
      (driftRegs n.val).flatMap fun a => toBytes 4 (s.rd a).toNat)
  else s

/-- A check that ends bad keeps the correction in force (R347). -/
def driftBad (n : Beam) (s : State) : State := (s.setB (R.CAL_Hn_STATUS n.val) 6).report 0x5A 0 0

/-- A good fit in the registers (R347). -/
def driftGood (n : Beam) (f : Fit) (s : State) : State :=
  let i := n.val
  let p := f.params
  let s := s.each ((driftRegs i).zip f.correction.toList) fun x t => t.wr x.1 (i32 x.2)
  let s := s.each ([R.CAL_Hn_D_BX i, R.CAL_Hn_D_BY i, R.CAL_Hn_D_GX i, R.CAL_Hn_D_GY i, R.CAL_Hn_D_ROT i,
    R.CAL_Hn_D_SKEW i].zip p.toList) fun x t => t.wr x.1 (i32 x.2)
  let s := s.wr (R.CAL_Hn_DRIFT_T i) (w32 ((s.cal.head[n]).temp % 65536).toNat)
  (s.upHead n fun h => { h with checked := true }).driftSend n

/-- The reference points of a head. -/
def refPoints (s : State) (n : Beam) : List (Int × Int) :=
  (List.range 4).map fun k => ((s.rd (R.CAL_Hn_REFk_X n.val k)).toInt, (s.rd (R.CAL_Hn_REFk_Y n.val k)).toInt)

/-- Eight readings judged: the passes agree and the fit lies within its limits, else the result code (R347). -/
def driftJudge (s : State) (n : Beam) (got : List (Int × Int)) : Nat × Option Fit :=
  let r := s.refPoints n
  let tol := Q.ofInt (s.rf R.CAL_DRIFT_TOL 23 0)
  match fitOf r (got.take 4), fitOf r (got.drop 4), fitOf (r ++ r) got with
  | some f, some g, some h =>
    let near (p : Int × Int) : Bool :=
      (((f.image p).1.sub (g.image p).1).abs.le tol) && (((f.image p).2.sub (g.image p).2).abs.le tol)
    if !r.all near then (5, none) else if !h.ok then (6, none) else (0, some h)
  | _, _, _ => (6, none)

/-- The end of a check with eight readings. -/
def driftEnd (n : Beam) (c : DriftCheck) (s : State) : State :=
  let (code, f) := s.driftJudge n c.got
  let s := s.upHead n fun h => { h with check := none }
  let s := match f with
    | some f => s.driftGood n f
    | none => s.driftBad n
  let s := (s.irq R.CAL_IRQ_STATUS R.CAL_IRQ_EN 27 3).calRecord 2 n.val code (s.rd (R.CAL_Hn_DRIFT_T n.val))
  if c.inPrep then s.driftLoad n else s.calResult code 0

/-- The drift allotment of the preparation of head `n` has begun: its mirror has settled (R149, R348). -/
def checkOpen (s : State) (n : Beam) : Bool := decide (s.prepDrift n ≤ s.tick)

/-- A check in preparation has used up its allotment, or could no longer bring the mirror back and settle by S (R152,
R349). -/
def checkLate (s : State) (n : Beam) (c : DriftCheck) : Bool :=
  match (s.be[n]).job with
  | some k =>
    let j := s.js k
    let end_ := j.s.getD ((j.prepAt.getD 0) + j.tPrep)
    let way := Config.refTravel n.val (c.got.length % 4) (s.be[n]).m
    let back := moveNs way (posV j.prepCfg[0]) (posA j.prepCfg[0]) + fld j.prepCfg[1] 15 0 * 1000
    decide (j.driftAt + fld j.prepCfg[2] 31 16 * 1000 < s.tick) || decide (end_ < s.tick + back)
  | none => false

/-- The mirror has come to the present reference point and rested there for CAL_DRIFT_TOL.SETTLE_US (R346). -/
def checkRests (s : State) (n : Beam) (c : DriftCheck) : Bool :=
  let k := c.got.length % 4
  let way := if c.got.isEmpty then Config.refTravel n.val k (s.be[n]).m else Config.refLeg n.val ((k + 3) % 4) k
  let pos := match c.inPrep, (s.be[n]).job with
    | true, some j => (s.js j).prepCfg[0]
    | _, _ => s.rd R.JOB_POS
  decide (c.legAt + moveNs way (posV pos) (posA pos) + oneIfZero (s.rf R.CAL_DRIFT_TOL 31 24) * 1000 ≤ s.tick)

/-- A check that is cut off: the correction stays, DRIFT_LATE (R349). -/
def checkCut (n : Beam) (s : State) : State :=
  ((s.upHead n fun h => { h with check := none }).setB (R.CAL_Hn_STATUS n.val) 5).report 0x5B 0 0

/-! Power-curve exposures. -/

/-- The interval of an exposure ends at tick `t`. -/
def expoClose (b : Beam) (t : Nat) (s : State) : State :=
  s.upBe b fun e => { e with gates := e.gates.map fun g =>
    if g.parts.isEmpty then { g with off := some (match g.off with
      | some o => min o (8 * (t : Int))
      | none => 8 * (t : Int)) } else g }

/-- An exposure ends early and counts for nothing (R352). -/
def expoAbort (b : Beam) (s : State) : State :=
  match (s.cal.src[b]).expo with
  | none => s
  | some _ =>
    let s := ((s.gateItem b (8 * (s.tick : Int)) false).expoClose b s.tick).gateEdge b (8 * (s.tick : Int)) false
    let s := s.upSrc b fun c => { c with expo := none, done := none }
    (s.setB (R.CAL_Pn_STATUS b.val) 3).irq R.CAL_IRQ_STATUS R.CAL_IRQ_EN 27 4

/-- Entries held of a point, and the value beside them (CAL_Pn_ACCp). -/
def accHeld (s : State) (b : Beam) (p : Nat) : Nat := s.rf (R.CAL_Pn_ACCp b.val p) 31 30
def accVal (s : State) (b : Beam) (p : Nat) : Nat := s.rf (R.CAL_Pn_ACCp b.val p) 29 0

/-- CAL_Pn_ACCp written. -/
def accPut (b : Beam) (p held v : Nat) (s : State) : State :=
  s.wr (R.CAL_Pn_ACCp b.val p) (w32 (held * 2 ^ 30 + satN 30 v))

/-- The two entries of a point agree (R353). -/
def accAgree (s : State) (r1 r2 : Nat) : Bool :=
  let d := (r1 - r2) + (r2 - r1)
  1000 * d ≤ 1000 * s.rf R.CAL_PCAL_CFG 31 16 + s.rf R.CAL_PCAL_CFG 15 8 * max r1 r2

/-- The accepted points form a curve (R351). -/
def curveOk (s : State) (b : Beam) : Bool :=
  let w (p : Nat) := s.accVal b p
  (List.range 33).all (fun p => s.accHeld b p == 2) && w 0 ≤ w 1 &&
    (List.range 31).all (fun p => w (p + 1) < w (p + 2)) && 1 ≤ w 32

/-- Points and first entries of a source discarded (R354). -/
def accClear (b : Beam) (s : State) : State :=
  (s.each (List.range 33) fun p t => t.wr (R.CAL_Pn_ACCp b.val p) 0).upSrc b fun c => { c with more := [] }

end State

/-! The commands. -/

/-- CAL_REF_EDGE: a period of CAL_REF was measured, `dev` its deviation in 0.001 ppm; three good ones in a row give
REF_OK, and a run that waits starts (R332, R337). -/
def execCalRefEdge (dev : Int) (s : State) : Res :=
  let sel := s.rf R.CAL_CTL 1 0
  if sel = 0 ∨ sel = 3 then .next s
  else
    let first := s.cal.refAt.isNone
    let s := s.upCal fun c => { c with refAt := some s.tick }
    if first then .next s
    else
      let s := s.wr R.CAL_REF_PPM (i32 (satS 32 dev))
      if 50000 < dev.natAbs then .next s.refLost
      else
        let s := s.upCal fun c => { c with refGood := min 3 (c.refGood + 1), refOk := c.refOk || 2 ≤ c.refGood }
        if s.cal.refOk && s.cal.due && !s.cal.running then .next s.dlStart else .next s

/-- CAL_REF_LOSS: no edge within 1.5 nominal periods (R332). -/
def execCalRefLoss (s : State) : Res :=
  let sel := s.rf R.CAL_CTL 1 0
  let late : Bool := match s.cal.refAt with
    | some t => sel == 0 || sel == 3 || t + (if sel = 1 then 1500000000 else 150) < s.tick
    | none => true
  if s.cal.refOk && late then .next (s.refLost.upCal fun c => { c with refAt := none }) else .next s

/-- DL_RUN (R337). -/
def execDlRun (s : State) : Res :=
  .next (s.calCommand fun s =>
    let code := if s.cal.refOk || s.cal.running then 0 else 4
    (s.dlTrigger, code, 0))

/-- DL_RUN_COMPLETE: the double run of every pair is judged (R335, R337). -/
def execDlRunComplete (m : List LineMeas) (s : State) : Res :=
  if !s.cal.running ∨ s.dev.shpHalt then .next s
  else
    let more := s.cal.again
    let s := s.each m.zipIdx fun x t => t.dlPair x.2 x.1
    let pairs := (List.range 32).filter fun i => s.beamOn (i % 16)
    let allGood := pairs.all fun i => !s.rb R.CAL_DL_BAD i
    let s := s.calRecord 1 0 (if allGood then 0 else 1) (s.rd R.CAL_DL_BAD)
    let s := s.upCal fun c => { c with running := false, due := false, waited := false, again := false }
    let s := s.irq R.CAL_IRQ_STATUS R.CAL_IRQ_EN 27 0
    let s := if allGood then s.wr R.CAL_DL_LAST (w32 ((satS 16 (rshr ((s.pwr.hist.head?).getD 0) 9)) % 65536).toNat)
      else (s.irq R.CAL_IRQ_STATUS R.CAL_IRQ_EN 27 1).report 0x59 0 0
    .next (s.ifc more State.dlStart)

/-- DL_SWAP: the idle line of a good pair enters service on a tick at which its point is quiet, and the selections are
stored (R336, R337). -/
def execDlSwap (m : Fin 32) (s : State) : Res :=
  let b : Beam := Fin.ofNat 16 m.val
  let t : Int := 8 * (s.tick : Int)
  let quiet : Bool :=
    if m.val < 16 then
      !s.lgate b && !s.gateOpen b s.tick && (s.be[b]).gates.all fun g => !(t ≤ g.on_ && g.on_ ≤ t + 128)
    else
      s.sampleAt s.sample == s.tick && !s.sent.any fun x => x.port == 16 + b.val && x.msg == 5 && s.tick ≤ x.at_
  if (s.cal.pair[m]).swap && quiet then
    let s := s.upCal fun c => { c with pair := vupd c.pair m fun x => { x with line := !x.line, swap := false } }
    .next (s.upMram fun r => { r with lines := s.cal.pair.toList.map fun x => { x with swap := false } })
  else .next s

/-- VALIDATE (R340). -/
def execValidate (q : BitVec 16) (s : State) : Res :=
  .next (s.calCommand fun s =>
    match (if q.toNat < 32 then s.slotHead q.toNat else none) with
    | none => (s, 10, 0)
    | some h => match s.setCheck q.toNat h with
      | 0 => (s.setValidity q.toNat true, 0, 0)
      | c => (s, 3, c))

/-- INVALIDATE; a locked slot is IN_USE (R341). -/
def execInvalidate (q : BitVec 16) (s : State) : Res :=
  .next (s.calCommand fun s =>
    match (if q.toNat < 32 then s.slotHead q.toNat else none) with
    | none => (s, 10, 0)
    | some _ => if s.setLocked q.toNat then (s, 2, 0) else (s.setValidity q.toNat false, 0, 0))

/-- PROMOTE (R343). -/
def execPromote (n : BitVec 16) (s : State) : Res :=
  .next (s.calCommand fun s =>
    if s.small then (s, 1, 0)
    else match s.argBeam n.toNat with
      | none => (s, 10, 0)
      | some b =>
        let act := 2 * b.val + (s.cal.head[b]).active
        let stage := 2 * b.val + (1 - (s.cal.head[b]).active)
        let live := s.naming b JobSlot.live
        if !s.setValid stage then (s, 3, 1)
        else if live && !s.sameGeom act stage false then (s, 2, 0)
        else
          let s := s.upHead b fun h => { h with promote := true }
          (if live then s else s.promoteNow b, 0, 0))

/-- DRIFT: a check of one head outside jobs; its result is posted at its end. The SECOND of a pair runs none, and a mirror that
an exposure holds at rest does not move (R346, R350, R352). -/
def execDrift (n : BitVec 16) (s : State) : Res :=
  if s.calBusy then .next s
  else match s.argBeam n.toNat with
    | none => .next (s.calResult 10 0)
    | some b =>
      if s.naming b JobSlot.busy then .next (s.calResult 2 0)
      else if (s.twin.role = 2 ∧ s.twin.pair ≠ 0) ∨ (s.cal.src[b]).expo.isSome then .next (s.calResult 1 0)
      else .next (s.upHead b fun h =>
        { h with check := some { got := [], inPrep := false, asked := none, legAt := s.tick } })

/-- REF_REQ: the mirror has settled at the reference point, and the head is asked for its reading (R346). A check in
preparation visits its points after settling, and not past its cutoff (R149, R349). -/
def execRefReq (b : Beam) (s : State) : Res :=
  match (s.cal.head[b]).check with
  | none => .next s
  | some c =>
    if c.asked.isSome ∨ !s.checkRests b c ∨ (c.inPrep ∧ (!s.checkOpen b ∨ s.checkLate b c)) then .next s
    else
      let p : Port := ⟨b.val, by omega⟩
      let tag := (s.port[p]).tag
      let s := s.upPort p fun x => { x with tag := (x.tag + 1) % 65536 }
      let s := s.parcel p 0x83 (toBytes 2 tag ++ [BitVec.ofNat 8 (c.got.length % 4), 0])
      .next (s.upHead b fun h => { h with check := some { c with asked := some tag } })

/-- REF_MEAS: a reading of the point asked for is taken; after eight the check is judged (R346, R347). -/
def execRefMeas (b : Beam) (seq tag : BitVec 16) (point : Fin 4) (signal : Bool) (mx my : Word) (s : State) : Res :=
  .next (s.rxParcel ⟨b.val, by omega⟩ seq.toNat <| State.shp fun s =>
    match (s.cal.head[b]).check with
    | none => s
    | some c =>
      if c.asked ≠ some tag.toNat ∨ point.val ≠ c.got.length % 4 ∨ (c.inPrep ∧ s.checkLate b c) then s
      else
        let got := if signal then c.got ++ [(mx.toInt, my.toInt)] else c.got
        let c : DriftCheck := { c with got := got, asked := none, legAt := if signal then s.tick else c.legAt }
        let s := s.upHead b fun h => { h with check := some c }
        if 8 ≤ got.length then s.driftEnd b c else s)

/-- DRIFT_CUTOFF: a check in preparation that is at its cutoff ends, and the correction stays (R152, R349). -/
def execDriftCutoff (head : Beam) (s : State) : Res :=
  match (s.cal.head[head]).check with
  | some c => .next (if c.inPrep ∧ s.checkLate head c then s.checkCut head else s)
  | none => .next s

/-- HEAD_TEMP (R342, R345, R383). -/
def execHeadTemp (b : Beam) (f : Bool) (temp : BitVec 16) (s : State) : Res :=
  if f && s.portUp b.val then
    .next ((s.upHead b fun h => { h with temp := temp.toInt, tempAt := some s.tick, stale := false }).recalUpdate b)
  else .next s

/-- HEAD_TEMP_STALE: no temperature for 10 ms (R348). -/
def execHeadTempStale (b : Beam) (s : State) : Res :=
  if s.beamOn b.val ∧ ((s.cal.head[b]).tempAt.getD 0) + 10000000 ≤ s.tick then
    .next (s.upHead b fun h => { h with stale := true })
  else .next s

/-- PCAL_POINT: a source exposes point p of its curve for ON_MS ms with the mirror at rest (R352). -/
def execPcalPoint (arg : BitVec 16) (s : State) : Res :=
  .next (s.calCommand fun s =>
    let p := nfld arg.toNat 15 8
    match s.argBeam (nfld arg.toNat 3 0) with
    | none => (s, 10, 0)
    | some b =>
      if 32 < p then (s, 10, 0)
      else if s.ldc.latch then (s, 7, 0)
      else if s.dev.state ≠ .idle ∨ !s.armedSlots.isEmpty ∨ !s.rb (R.LDn_CTL b.val) 0 ∨ !s.portUp (16 + b.val) ∨
          s.rb (R.LDn_CTL b.val) 12 ∨ s.ldc.kill ∨ (s.cal.src[b]).expo.isSome then (s, 1, 0)
      else
        let t1 := s.tick + oneIfZero (s.rf R.CAL_PCAL_ON 15 0) * 1000000
        let s := s.upSrc b fun c => { c with expo := some (p, s.tick, t1), done := none }
        let s := s.upBe b fun e =>
          { e with gates := { on_ := 8 * (s.tick : Int), off := some (8 * (t1 : Int)), tau := 0, parts := [] } :: e.gates }
        ((s.gateItem b (8 * (s.tick : Int)) true).gateEdges b 0, 0, 0))

/-- PCAL_EXPOSURE_END: an exposure ends after ON_MS, or early on the latch, on LASER_KILL_N or on an ARM (R352). -/
def execPcalExposureEnd (b : Beam) (s : State) : Res :=
  match (s.cal.src[b]).expo with
  | none => .next s
  | some (p, _, t1) =>
    if s.ldc.latch ∨ s.ldc.kill ∨ !s.armedSlots.isEmpty then .next ((s.expoAbort b).calResult 8 0)
    else if s.tick < t1 then .next s
    else
      let s := s.gateItem b (8 * (t1 : Int)) false
      let s := s.upSrc b fun c => { c with expo := none, done := some p }
      .next (s.irq R.CAL_IRQ_STATUS R.CAL_IRQ_EN 27 4)

/-- PCAL_ENTER: a meter reading of the point just exposed; two that agree give the point (R353). -/
def execPcalEnter (arg : BitVec 16) (s : State) : Res :=
  .next (s.calCommand fun s =>
    let p := nfld arg.toNat 15 8
    match s.argBeam (nfld arg.toNat 3 0) with
    | none => (s, 10, 0)
    | some b =>
      if 32 < p then (s, 10, 0)
      else if (s.cal.src[b]).done ≠ some p then (s, 1, 0)
      else
        let v := (s.rd R.CAL_PCAL_READ).toNat
        let s := s.upSrc b fun c => { c with done := none }
        let mean (r : Nat) : Nat := (rdiv (r + v : Nat) 2).toNat
        match s.accHeld b p with
        | 0 => (s.accPut b p 1 v, 0, 0)
        | 1 =>
          if s.accAgree (s.accVal b p) v then (s.accPut b p 2 (mean (s.accVal b p)), 0, 0)
          else (s.accPut b p 0 0, 5, 0)
        | _ => match sget p (s.cal.src[b]).more with
          | none => (s.upSrc b fun c => { c with more := sput p v c.more }, 0, 0)
          | some r =>
            let s := s.upSrc b fun c => { c with more := sdel p c.more }
            if s.accAgree r v then (s.accPut b p 2 (mean r), 0, 0) else (s, 5, 0))

/-- PCAL_COMMIT: the accepted points become the curve in service (R351, R354). -/
def execPcalCommit (n : BitVec 16) (s : State) : Res :=
  .next (s.calCommand fun s =>
    match s.argBeam n.toNat with
    | none => (s, 10, 0)
    | some b =>
      if s.naming b JobSlot.live then (s, 2, 0)
      else if !s.curveOk b then (s, 9, 0)
      else
        let w := (List.range 33).map (s.accVal b)
        let s := s.each w.zipIdx fun x t => t.wr (R.CAL_Pn_Wp b.val x.2) (w32 x.1)
        let s := s.wr (R.CAL_Pn_FS b.val) (w32 ((w[32]?).getD 0))
        let s := (s.upSrc b fun c => { c with valid := true }).upMram fun m => { m with curves := sput b.val w m.curves }
        ((s.accClear b).calRecord 3 b.val 0 (s.rd R.CAL_DL_BAD), 0, 0))

/-- PCAL_CLEAR: the accepted points are discarded and an exposure ends (R352, R354). -/
def execPcalClear (n : BitVec 16) (s : State) : Res :=
  .next (s.calCommand fun s =>
    match s.argBeam n.toNat with
    | none => (s, 10, 0)
    | some b => ((s.expoAbort b).accClear b, 0, 0))

/-- CAL_CNT_CLR (R488). -/
def execCalCntClr (s : State) : Res := .next (s.wr R.CAL_DL_CNT 0)

end Sys2Proof.Machine
end

