-- ==== Sys2Proof/Machine/Wire.lean ====
section
/-! DEFINITION. What a port's transmitter puts on its lanes, as it follows from what was handed to it: the order of cells,
parcels, markers, FILL and TRAIN blocks in block slots, the places of blocks on lanes, the parity of a marker, and the
scrambler (R360, R361, R364, R369, R370, R377, R379; log entry 54). -/

namespace Sys2Proof.Machine

/-! The scrambler (R360). -/

/-- One bit of 1 + x^39 + x^58 over the last 58 scrambled bits, the newest at bit 0. -/
def scrambleBit (s : BitVec 58) (b : Bool) : Bool := (b ^^ s.getLsbD 38) ^^ s.getLsbD 57

/-- A payload scrambled, bit 0 first: the bits on the lane, and the register after them. -/
def scramble (s : BitVec 58) (w : DWord) : DWord × BitVec 58 :=
  (List.range 64).foldl (fun x i =>
    let c := scrambleBit x.2 (w.getLsbD i)
    (x.1 ||| BitVec.ofNat 64 (b2n c i), (x.2 <<< 1) ||| BitVec.ofNat 58 (b2n c))) (0, s)

/-- What a receiver makes of scrambled bits: the same register takes the bits as received. -/
def descramble (s : BitVec 58) (w : DWord) : DWord × BitVec 58 :=
  (List.range 64).foldl (fun x i =>
    let c := w.getLsbD i
    (x.1 ||| BitVec.ofNat 64 (b2n (scrambleBit x.2 c) i), (x.2 <<< 1) ||| BitVec.ofNat 58 (b2n c))) (0, s)

/-! The stream (R361, R377). -/

/-- Blocks that follow each other on the stream: a TC0 cell, or one block of TC1; with the tick and the block slot of its
launch. -/
structure TxRun where
  at_    : Nat
  slot   : Nat
  rank   : Nat
  ctl    : Bool
  blocks : List DWord
  deriving DecidableEq, Repr

/-- The order of cells of one tick: the timing cells, MUSTER first, then POWER_WORD, AXIS_CMD, EMIT_OFF, GATE_EVT and the twin
cells (R377). -/
def cellRank (msg : Nat) : Nat :=
  if msg = 5 then 0 else if msg = 1 then 1 else if msg = 2 then 2 else if 0x20 ≤ msg ∧ msg < 0x30 then 3
  else if msg = 4 then 4 else if msg = 3 then 5 else 6

/-- A timing cell (R377). -/
def TxRun.timing (x : TxRun) : Bool := x.rank ≤ 1

/-- A run put behind those that go before it. -/
def TxRun.insert (x : TxRun) : List TxRun → List TxRun
  | [] => [x]
  | y :: l => if x.at_ < y.at_ ∨ (x.at_ = y.at_ ∧ x.rank < y.rank) then x :: y :: l else y :: TxRun.insert x l

/-- What a transmitter holds: TC0 cells, TC1 blocks, the columns that wait with the block of each lane, the TRAIN blocks with
their slot and lane, and what is left of the cell in progress. -/
structure Tx where
  tc0  : List TxRun
  tc1  : List TxRun
  cols : List (Nat × List DWord)
  tr   : List (Nat × Nat × DWord)
  cur  : List DWord
  deriving DecidableEq, Repr

/-- The FILL block (R362). -/
def fillBlock : DWord := BitVec.ofNat 64 (0x1E * 2 ^ 56)

namespace Tx

/-- No timing cell is launched in the slots of a run of `n` blocks that begins in slot `j` on `w` lanes, nor in the one behind
them (R377). -/
def clear (x : Tx) (w j n : Nat) : Bool :=
  x.tc0.all fun y => !(y.timing && decide (j < y.slot ∧ y.slot ≤ j + (n + w - 1) / max 1 w))

/-- The block of the stream that begins on a lane in slot `j`, with its sync header; FILL where nothing waits (R361, R364,
R370, R377). -/
def pick (w j : Nat) (x : Tx) : (Bool × DWord) × Tx :=
  match x.cur with
  | b :: rest => ((false, b), { x with cur := rest })
  | [] =>
    match x.tc0.find? fun y => y.slot ≤ j && (y.timing || x.clear w j y.blocks.length) with
    | some y => ((y.ctl, y.blocks.headD fillBlock), { x with tc0 := x.tc0.erase y, cur := y.blocks.tail })
    | none => match x.tc1 with
      | y :: rest =>
        if y.slot ≤ j && x.clear w j 1 then ((true, y.blocks.headD fillBlock), { x with tc1 := rest })
        else ((true, fillBlock), x)
      | [] => ((true, fillBlock), x)

/-- The blocks of one slot, in lane order: a column that is due goes on every lane, unless a timing cell waits, which defers it;
else each lane takes its TRAIN block or the next block of the stream (R361, R364, R369, R377). -/
def slotOf (w j : Nat) (x : Tx) : List (Bool × DWord) × Tx :=
  let now := x.tc0.any fun y => y.timing && y.slot ≤ j
  match x.cols with
  | (k, l) :: rest =>
    if k ≤ j && !now then (l.map fun b => (true, b), { x with cols := rest })
    else (List.range w).foldl (fun a _ => let (b, y) := a.2.pick w j; (a.1 ++ [b], y)) ([], x)
  | [] => (List.range w).foldl (fun a i =>
      match a.2.tr.find? fun t => t.1 == j && t.2.1 == i with
      | some (_, _, b) => (a.1 ++ [(true, b)], a.2)
      | none => let (b, y) := a.2.pick w j; (a.1 ++ [b], y)) ([], x)

/-- The blocks of `n` slots from slot `j` on. -/
def run (w : Nat) : Nat → Nat → Tx → List (List (Bool × DWord))
  | 0, _, _ => []
  | n + 1, j, x => let (l, y) := x.slotOf w j; l :: run w n (j + 1) y

end Tx

namespace State

/-- The block slot of a launch: the first that begins at or after its tick. -/
def launchSlot (s : State) (p : Port) (t : Nat) : Nat := cdiv ((t - (s.port[p]).trainAt) * 1000) (s.blockPs p.val)

/-- What has been handed to the transmitter of a port in its present training, oldest first. -/
def handed (s : State) (p : Port) : List Sent :=
  (s.sent.filter fun x => x.port == p.val && (s.port[p]).trainAt ≤ x.at_).reverse

/-- The transmitter of a port at the begin of its training. -/
def txOf (s : State) (p : Port) : Tx :=
  let l := s.handed p
  let w := (s.usedLanes p.val).length
  let run (x : Sent) (rank : Nat) (ctl : Bool) (b : List DWord) : TxRun :=
    { at_ := x.at_, slot := s.launchSlot p x.at_, rank := rank, ctl := ctl, blocks := b }
  let am (t : Nat) (i : Nat) : DWord :=
    ((l.find? fun y => y.msg == 0x14B && y.at_ == t && y.data.getD 1 0 == i).bind fun y => y.blocks.head?).getD fillBlock
  let cols := (l.filter fun x => x.msg == 0x11E || (x.msg == 0x14B && x.data.getD 1 0 == 0)).map fun x =>
    (s.launchSlot p x.at_, (List.range w).map fun i => if x.msg = 0x11E then fillBlock else am x.at_ i)
  { tc0 := (l.filter (·.msg < 0x40)).foldl (fun a x => (run x (cellRank x.msg) false x.blocks).insert a) []
    tc1 := (l.filter fun x => (0x40 ≤ x.msg ∧ x.msg < 0x100) ∨ x.msg = 0x133).flatMap fun x =>
      x.blocks.map fun b => run x 7 true [b]
    cols := cols
    tr := (l.filter (·.msg = 0x155)).map fun x =>
      (s.launchSlot p x.at_, x.data.getD 1 0, (x.blocks.head?).getD fillBlock)
    cur := [] }

/-- The blocks that a port puts on its lanes in its first `n` block slots. -/
def wire (s : State) (p : Port) (n : Nat) : List (List (Bool × DWord)) :=
  (s.txOf p).run (s.usedLanes p.val).length n 0

/-- The bits of lane `i` of a port in those slots: sync headers and scrambled payloads; the register begins with a free value,
and TX_INV inverts the pair (R360, LANEn_CTL). -/
def laneWire (s : State) (p : Port) (i n : Nat) : List (Fin 4 × DWord) :=
  let inv := s.rb (R.LANEn_CTL ((s.usedLanes p.val).getD i 0)) 1
  (((s.wire p n).map fun l => l.getD i (true, fillBlock)).foldl (fun a x =>
    let (c, r) := scramble a.2 x.2
    let h : Fin 4 := if x.1 != inv then 2 else 1
    (a.1 ++ [(h, if inv then ~~~c else c)], r)) ([], BitVec.ofNat 58 (Config.freeValue (s.port[p]).trainAt).toNat)).1

/-- BIP8: bit i is the parity of bits i, i + 8 and so on of payloads (R369). -/
def bip8 (l : List DWord) : Byte := (l.flatMap (toBytes 8 ·.toNat)).foldl (· ^^^ ·) 0

/-- The BIP8 of a marker on lane `i` in slot `n`: over the payloads of the slots behind the previous one, in slot `from_`
(R369). -/
def bipOf (s : State) (p : Port) (i from_ n : Nat) : Byte :=
  bip8 (((s.wire p n).drop (from_ + 1)).map fun l => (l.getD i (true, fillBlock)).2)

end State

end Sys2Proof.Machine
end

