-- ==== Sys2Proof/Machine/Link.lean ====
section
/-! DEFINITION. The Yawell link: training, alignment, identification, loss of a port, parcels, configuration accesses and
the aux ring (R357 to R389, R471). -/

namespace Sys2Proof.Machine

/-! Taps of a transmitter (R363). -/

/-- One step of a tap: the lane and the RESP. -/
def tapStep (x : LaneSt) (v lo hi : Nat) (up : Bool) (put : Nat → LaneSt) : LaneSt × Nat :=
  if up then
    if hi ≤ v then (x, 2) else if 63 ≤ x.pre + x.main_ + x.post then (x, 3) else (put (v + 1), 0)
  else if v ≤ lo then (x, 1) else (put (v - 1), 0)

/-- A request of the partner applied to this transmitter: the lane and the RESP. -/
def tapReq (x : LaneSt) (req : Nat) : LaneSt × Nat :=
  if req = 1 ∨ req = 2 then tapStep x x.pre 0 7 (req == 1) fun v => { x with pre := v }
  else if req = 3 ∨ req = 4 then tapStep x x.main_ 24 63 (req == 3) fun v => { x with main_ := v }
  else if req = 5 ∨ req = 6 then tapStep x x.post 0 15 (req == 5) fun v => { x with post := v }
  else if req = 7 then ({ x with pre := 0, main_ := 48, post := 4 }, 0)
  else if req = 8 then ({ x with doneRx := true }, 0)
  else (x, 3)

namespace State

/-- Some lane of a list has a property. -/
def laneIs (s : State) (n : Nat) (f : LaneSt → Bool) : Bool := ((vget? s.lane n).map f).getD false

/-- A port is wired to the wrong far end (R365, R366). -/
def miswired (p : Port) (s : State) : State :=
  ((s.setB (R.PORTp_STATUS p.val) 2).report 0x42 p.val 0).portTrain p false

/-- A CFG parcel: TAG, ADDR, COUNT and the data words (R384). -/
def cfgBytes (tag addr count : Nat) (data : List Word) : List Byte :=
  toBytes 2 tag ++ toBytes 4 addr ++ [BitVec.ofNat 8 count, 0] ++ data.flatMap fun w => toBytes 4 w.toNat

/-- A CFG request of the block, with the next TAG (R385). -/
def cfgStart (p : Port) (msg addr count : Nat) (data : List Word) (ident : Bool) (s : State) : State :=
  let t := (s.port[p]).tag
  let d := cfgBytes t addr count data
  (s.upPort p fun x =>
    { x with tag := (t + 1) % 65536
             cfg := some { tag := t, msg := msg, data := d, repeats := 0, at_ := s.tick, ident := ident } }).parcel p msg d

/-- The port is at step 3 with every lane it uses: it goes to ALIGN (R364). -/
def eqEnd (p : Port) (s : State) : State :=
  let l := s.usedLanes p.val
  if (s.port[p]).st = .train ∧ l ≠ [] ∧ l.all fun n => s.laneIs n (·.st == .eqDone) then
    (s.onLanes l fun x => { x with ams := 0 }).upPort p fun x => { x with st := .align_ }
  else s

/-- What this receiver asks for next in EQ (R365): failure of the lane at the 257th request, DONE where the eye passes, and a
request of a kind that the spec leaves open otherwise. DONE is a request and is counted. -/
def eqAsk (n : Lane) (s : State) : State :=
  let x := s.lane[n]
  if x.waiting || x.doneTx then s
  else if 256 ≤ x.reqs then (s.upLane n fun x => { x with st := .failed }).report 0x41 n.val 0
  else if s.rf (R.LANEn_EQ_CFG n.val) 7 0 ≤ x.eye then
    s.upLane n fun x =>
      { x with mySeq := (x.mySeq + 1) % 256, myReq := 8, waiting := true, doneTx := true, reqs := x.reqs + 1 }
  else
    let (v, s) := s.fresh
    s.upLane n fun x =>
      { x with mySeq := (x.mySeq + 1) % 256, myReq := v.toNat % 7 + 1, waiting := true, reqs := x.reqs + 1 }

/-- A TRAIN block's request, answer and effect on a lane in EQ (R363, R365). -/
def eqBlock (n : Lane) (blk : TrainBlk) (s : State) : State :=
  let s := s.upLane n fun x =>
    let x := if x.waiting && blk.ackSeq.toNat = x.mySeq then { x with waiting := false } else x
    if blk.req.val ≠ 0 ∧ x.farSeq ≠ some blk.reqSeq.toNat then
      let (y, r) := tapReq x blk.req.val
      { y with farSeq := some blk.reqSeq.toNat, resp := r }
    else x
  let s := s.eqAsk n
  s.upLane n fun x => if x.st = .eq && x.doneTx && x.doneRx then { x with st := .eqDone } else x

end State

/-- TRAIN: a TRAIN block of the partner: block lock and with it LOCK's end, the partner's request applied, this receiver's own
requests, and the end of EQ; the answer goes out with the next TRAIN block (R360, R363 to R365). -/
def execTrain (n : Lane) (blk : TrainBlk) (eye : Byte) (s : State) : Res :=
  match s.lanePort n.val with
  | none => .next s
  | some p =>
    if (s.port[p]).st ≠ .train then .next s
    else
      let s := (s.headerGood n.val p).upLane n fun x =>
        { x with eye := eye.toNat, st := if x.st = .lock ∧ x.block then .eq else x.st }
      if (s.lane[n]).st = .eq then .next ((s.eqBlock n blk).eqEnd p) else .next s

namespace State

/-- R365 over all lanes of a port in ALIGN. -/
def alignCheck (p : Port) (s : State) : State :=
  let l := s.usedLanes p.val
  let xs := l.filterMap fun n => vget? s.lane n
  if xs.any fun x => x.ams == 2 && x.portId != p.val then s.miswired p
  else if xs.all (·.ams == 2) && xs.all (·.skew ≤ 80) &&
      (List.range l.length).all fun i => xs.any (·.pos == i) then
    ((s.onLanes l fun x => { x with st := .inPort, amBad := 0 }).upPort p fun x =>
      { x with st := .ident, width := l.length, rxNext := 0, txSeq := 0 }).cfgStart p 0x80 0 3 [] true
  else s

end State

/-- AM: an alignment marker, or its absence where one is expected: BIP8, the elastic buffer, alignment, and its loss in UP.
A marker that does not stand 16,380 to 16,388 blocks behind the previous one is not the expected one (R365, R369, R370,
R388). -/
def execAm (n : Lane) (blk : AmBlk) (s : State) : Res :=
  match s.lanePort n.val with
  | none => .next s
  | some p =>
    let s := s.ifc (blk.present && !blk.bipOk) (State.count (R.LANEn_CNT n.val) 15 0)
    let near : Bool := 16380 ≤ blk.gap.toNat && blk.gap.toNat ≤ 16388
    let s := s.ifc (blk.present && (near || (s.lane[n]).amAt.isNone)) (State.elasticAm n p blk.gap.toNat)
    match (s.port[p]).st with
    | .align_ =>
      let s := s.upLane n fun x =>
        if !blk.present then { x with ams := 0 }
        else
          let agree := x.pos == blk.lane.val && x.portId == blk.portId.toNat
          { x with ams := if agree && near && 1 ≤ x.ams then 2 else 1, pos := blk.lane.val, portId := blk.portId.toNat
                   skew := blk.delay.toNat }
      .next (s.alignCheck p)
    | .up =>
      let x := s.lane[n]
      if !blk.present || !near || blk.lane.val ≠ x.pos || blk.portId.toNat ≠ p.val then
        let s := s.upLane n fun x => { x with amBad := x.amBad + 1 }
        if 1 ≤ x.amBad then .next (s.portDown p) else .next s
      else .next (s.upLane n fun x => { x with amBad := 0, skew := blk.delay.toNat })
    | _ => .next s

/-- AM_SEND: an AM column on the lanes of a port whose lanes have ended EQ, in the slot for which it is due or within the 4
behind it, with the parity since the previous one; that of the first is a free value (R364, R369; log entry 54). -/
def execAmSend (p : Port) (s : State) : Res :=
  let l := s.usedLanes p.val
  let w := if l.length = 8 then 3 else if l.length = 4 then 2 else if l.length = 2 then 1 else 0
  let k := s.blockSlot p s.tick
  let ready := l.filter fun n => s.laneIs n fun x => x.st == .eqDone || x.st == .inPort
  let go (bip : Nat → Byte) (due : Nat) (s : State) : State :=
    (s.each ready fun n t => t.send p.val 0x14B false 0 [p.val, l.idxOf n, w, (bip (l.idxOf n)).toNat]).upPort p fun x =>
      { x with amNext := some (due + 16384, k) }
  if ready.isEmpty then .next s
  else match (s.port[p]).amNext with
    | some (due, last) => if k < due then .next s else .next (go (fun i => s.bipOf p i last k) due s)
    | none =>
      let (v, s) := s.fresh
      .next (go (fun i => BitVec.ofNat 8 (v.toNat / 256 ^ i)) k s)

/-- TRAIN_TIMEOUT: a port that has not reached UP within 20 ms restarts at step 1, at half width where DEGRADE_EN allows
it and enough lanes are good (R367, R368). -/
def execTrainTimeout (p : Port) (s : State) : Res :=
  let x := s.port[p]
  if !((x.st = .train ∨ x.st = .align_ ∨ x.st = .ident) ∧ x.trainAt + 20000000 ≤ s.tick) then .next s
  else
    let s := (s.count (R.PORTp_UPCNT p.val) 31 16).setB (R.PORTp_STATUS p.val) 3
    let l := s.portLanes p.val
    let good := l.filter fun n => s.laneIs n fun y => y.st == .eqDone || y.st == .inPort
    let h := l.length / 2
    if 2 ≤ l.length && s.rb (R.PORTp_CTL p.val) 5 && !x.degraded && h ≤ good.length && good.length < l.length then
      let drop := l.filter fun n => !(good.take h).contains n
      .next (((s.onLanes drop fun y => { State.laneLock y with st := .off }).upPort p fun y =>
        { y with degraded := true, half := good.take h }).portTrain p false)
    else .next (s.portTrain p false)

/-- LANE_LOCK_LOSS: a lane loses block lock on 16 invalid sync headers, and its port in UP goes DOWN (R360, R388). -/
def execLaneLockLoss (n : Lane) (s : State) : Res :=
  .next ((s.countBy (R.LANEn_CNT n.val) 31 16 16).lockLost n.val)

/-- HB_LOSS: HB_LOSS_N intervals have passed without a heartbeat; TP is judged by R409 instead (R388). -/
def execHbLoss (p : Port) (s : State) : Res :=
  if p.val ≠ 32 ∧ oneIfZero (s.rf (R.PORTp_CTL p.val) 31 24) ≤ (s.port[p]).hbMiss then .next (s.portDown p) else .next s

/-- HEARTBEAT: on tick 0 of a sample whose index is a multiple of 20, a port in UP or IDENT sends a heartbeat with the
device's role; the interval that ends is judged (R373, R377, R383, R388). -/
def execHeartbeat (p : Port) (s : State) : Res :=
  let k := s.sample
  if s.portTalks p ∧ k % 20 = 0 ∧ s.sampleAt k = s.tick then
    let s := s.upPort p fun x =>
      { x with hbMiss := if x.hbSeen || x.st != .up then 0 else satN 8 (x.hbMiss + 1), hbSeen := false
               hbSent := (k, s.tick) :: x.hbSent.take 3276 }
    let good := p.val = 32 ∧ s.twin.hbLast.any fun j => k ≤ j + 20
    let s := if good then s.upTwin fun t => { t with hbMiss := 0, hbGood := min 3 (t.hbGood + 1) } else s
    .next (s.send p.val 1 (s.cellF p.val) (k % 65536) [s.twin.role])
  else .next s

namespace State

/-- The partner's heartbeat: its ROLE, and the heartbeat of its SIDX has come. Before a pair is formed the two grids differ, and it
counts for the present interval (R397, R409). -/
def twinHeard (sidx : BitVec 16) (role : Nat) (s : State) : State :=
  s.upTwin fun t =>
    { t with farRole := some role, hbLast := some (if t.pair = 2 then s.sampleNear sidx else 20 * (s.sample / 20)) }

end State

/-- FAR_HEARTBEAT: a far end's heartbeat: its interval is good, and RTT is formed where TURN is below 65,535; the one of a
twin carries its role (R373, R383, R409). -/
def execFarHeartbeat (p : Port) (_f : Bool) (sidx echo turn : BitVec 16) (role : Fin 4) (s : State) : Res :=
  if !s.portTalks p then .next s
  else
    let s := s.upPort p fun x => { x with hbSeen := true }
    if p.val = 32 then
      .next (s.twinHeard sidx role.val)
    else if turn.toNat = 65535 then .next s
    else
      match (s.port[p]).hbSent.find? fun x => x.1 % 65536 = echo.toNat with
      | none => .next s
      | some (_, t0) =>
        let r := satN 16 (s.tick - t0 - turn.toNat)
        .next (s.upPort p fun x => { x with rtt := r, rttMax := max x.rttMax r })

/-- CELL_DROP: the blocks of a TC0 cell, or an unknown control block, as they were received: what the checks of R376 drop is
counted, CRC failures and everything else as UNKNOWN, and invalid sync headers on their lanes (R360, R362, R375). A port that
trains or aligns takes no cells, and still counts an unknown control block. Blocks that pass are no drop. -/
def execCellDrop (p : Port) (blocks : List RxBlk) (s : State) : Res :=
  if !State.portSends s.port[p] then .next s
  else
    let t := s.countHeaders p blocks
    let ctl := (blocks.dropWhile rxColumn).head?.any fun b => b.hdr == 2
    match rxDrop p blocks with
    | none => .next t
    | some .crc => .next (t.ifc (s.portTalks p) (State.count (R.PORTp_TC0 p.val) 31 16))
    | some .header | some .unknown | some .cut =>
      .next (t.ifc (s.portTalks p || ctl) (State.count (R.PORTp_TC0 p.val) 15 0))

/-- PARCEL_BAD: a parcel with a bad CRC or ahead of NEXT is discarded, with one NAK until NEXT advances; one behind it is
a duplicate (R380). -/
def execParcelBad (p : Port) (crcBad : Bool) (seq : BitVec 16) (s : State) : Res :=
  if !s.portTalks p then .next s
  else if crcBad then .next (s.sendNak p)
  else if seq.toNat = (s.port[p]).rxNext then .next s
  else if State.seqBefore seq.toNat (s.port[p]).rxNext then .next (s.count (R.PORTp_TC1 p.val) 31 24)
  else .next (s.sendNak p)


/-- ACK (R381). -/
def execAck (p : Port) (next : BitVec 16) (s : State) : Res :=
  if s.portTalks p then .next (s.ackTo p next.toNat) else .next s

/-- NAK: parcels before its NEXT are released and the rest is sent again (R381). -/
def execNak (p : Port) (next : BitVec 16) (s : State) : Res :=
  if s.portTalks p then .next ((s.ackTo p next.toNat).replay p) else .next s

/-- ACK_SEND: NEXT is acknowledged after at most 16 parcels or 1 µs (R380). -/
def execAckSend (p : Port) (s : State) : Res :=
  if s.portTalks p ∧ 1 ≤ (s.port[p]).ackDue then
    .next ((s.sendAck p false).upPort p fun x => { x with ackDue := 0 })
  else .next s

/-- REPLAY_TIMEOUT: REPLAY_US without a releasing ACK (R381). -/
def execReplayTimeout (p : Port) (s : State) : Res :=
  let x := s.port[p]
  if s.portTalks p ∧ x.unacked ≠ [] ∧ x.replayAt + 1000 * oneIfZero (s.rf (R.PORTp_TC1_CFG p.val) 15 8) ≤ s.tick then
    .next (s.replay p)
  else .next s

namespace State

/-- The far end of a port may send CFG requests (R189, R387). -/
def cfgPort (p : Port) : Bool := 16 ≤ p.val

/-- A word of the device's own configuration space on a port (R386). -/
def cfgOwn (s : State) (p : Port) (a : Nat) : Option Word :=
  if a = 0 then some Config.linkIdent
  else if a = 4 then some 5
  else if a = 8 then some 0
  else if a = 0xC then some (s.port[p]).gridOfs
  else none

/-- An answer to the partner's request, kept for the last 16 tags (R385). -/
def cfgAnswer (p : Port) (tag status : Nat) (data : List Word) (s : State) : State :=
  let d := toBytes 2 tag ++ [BitVec.ofNat 8 status, BitVec.ofNat 8 data.length] ++
    data.flatMap fun w => toBytes 4 w.toNat
  (s.upPort p fun x => { x with answers := (tag, d) :: x.answers.take 15 }).parcel p 0x82 d

/-- A request of the partner: one whose tag is kept gets the same answer again without an effect (R385). -/
def cfgServe (p : Port) (tag : Nat) (f : State → State) (s : State) : State :=
  if !cfgPort p then s
  else match (s.port[p]).answers.find? (·.1 = tag) with
    | some (_, d) => s.parcel p 0x82 d
    | none => f s

end State

/-- CFG_RD of the partner: the words of this device's own space, BAD_ADDR where one is not there (R385, R386). -/
def execCfgRd (p : Port) (seq tag : BitVec 16) (addr : Word) (count : Byte) (s : State) : Res :=
  .next (s.rxParcel p seq.toNat (State.cfgServe p tag.toNat fun s =>
    let l := (List.range count.toNat).map fun i => s.cfgOwn p (addr.toNat + 4 * i)
    if l.all (·.isSome) then s.cfgAnswer p tag.toNat 0 (l.filterMap id) else s.cfgAnswer p tag.toNat 1 []))

/-- CFG_WR of the partner: GRID_OFS takes the word; a read-only word refuses, and a missing one is BAD_ADDR, with
nothing written (R385, R386). -/
def execCfgWr (p : Port) (seq tag : BitVec 16) (addr : Word) (data : List Word) (s : State) : Res :=
  .next (s.rxParcel p seq.toNat (State.cfgServe p tag.toNat fun s =>
    let as_ := (List.range data.length).map fun i => addr.toNat + 4 * i
    if !(as_.all fun a => (s.cfgOwn p a).isSome) then s.cfgAnswer p tag.toNat 1 []
    else if !(as_.all fun a => a = 0xC) then s.cfgAnswer p tag.toNat 3 []
    else
      (s.upPort p fun x => { x with gridOfs := data.getLast?.getD x.gridOfs }).cfgAnswer p tag.toNat 0 []))

namespace State

/-- The PROFILE that fits a port (R387). -/
def portProfile (p : Port) : Nat :=
  if p.val < 16 then 1 else if p.val < 32 then 2 else if p.val = 32 then 5 else if p.val = 33 then 3 else 4

/-- The reply to the IDENT read: UP, or MISWIRED (R366). -/
def identReply (p : Port) (status : Nat) (data : List Word) (s : State) : State :=
  match data with
  | [id_, prof, caps] =>
    if status = 0 ∧ fld prof 7 0 = portProfile p then
      (s.upPort p fun x =>
        { x with cfg := none, st := .up, farId := id_, farProf := w32 (fld caps 7 0 * 256 + fld prof 7 0)
                 rxNext := 0, txSeq := 0, unacked := [], replays := 0, nakOut := false, hbMiss := 0 }).count
        (R.PORTp_UPCNT p.val) 15 0
    else s.miswired p
  | _ => s.miswired p

end State

/-- CFG_RSP: it ends the access whose TAG it carries: the IDENT read of training, or a host access (R366, R385). -/
def execCfgRsp (p : Port) (seq tag : BitVec 16) (status : Byte) (data : List Word) (s : State) : Res :=
  .next (s.rxParcel p seq.toNat fun s =>
    match (s.port[p]).cfg with
    | none => s
    | some q =>
      if q.tag ≠ tag.toNat ∨ 3 < status.toNat then s
      else if q.ident then s.identReply p status.toNat data
      else
        let s := if status = 0 ∧ q.msg = 0x80 then s.wr (R.PORTp_CFG_RDATA p.val) (data.head?.getD 0) else s
        s.cfgPost p status.toNat)

/-- CFG_TIMEOUT: no answer within TMO: the same request again, three times, then TIMEOUT (R385). -/
def execCfgTimeout (p : Port) (s : State) : Res :=
  match (s.port[p]).cfg with
  | none => .next s
  | some q =>
    if s.tick < q.at_ + 1000 * oneIfZero (s.rf (R.PORTp_CFG_CMD p.val) 31 16) then .next s
    else if q.repeats < 3 then
      .next ((s.upPort p fun x =>
        { x with cfg := some { q with repeats := q.repeats + 1, at_ := s.tick } }).parcel p q.msg q.data)
    else .next (s.cfgPost p 4)

namespace State

/-- A host access: ignored while one is in progress, PORT_DOWN where the port is not UP (R385, PORTp_CFG_RESULT). -/
def cfgHost (p : Port) (msg : Nat) (data : List Word) (s : State) : State :=
  if (s.port[p]).cfg.isSome then s
  else if (s.port[p]).st ≠ .up then
    (s.advance (R.PORTp_CFG_RESULT p.val) 31 24).setF (R.PORTp_CFG_RESULT p.val) 7 0 5
  else s.cfgStart p msg (s.rd (R.PORTp_CFG_ADDR p.val)).toNat 1 data false

/-- A job with a property names the port: its beam's head or source, or for DP a servo axis of its machine program
(R388, R389, PORTp_CTL). -/
def portNamed (s : State) (p : Port) (f : JobSlot → Bool) : Bool :=
  (List.finRange 16).any fun b =>
    if p.val < 32 then p.val % 16 == b.val && s.naming b f
    else p.val == 33 && s.axKind b == 2 && (List.finRange 4).any fun n => f (s.js n) && nbit (s.jobAxes n) b.val

end State

/-- CFG_READ: the port command READ (R385). -/
def execCfgRead (p : Port) (s : State) : Res := .next (s.cfgHost p 0x80 [])

/-- CFG_WRITE: the port command WRITE (R385). -/
def execCfgWrite (p : Port) (s : State) : Res := .next (s.cfgHost p 0x81 [s.rd (R.PORTp_CFG_WDATA p.val)])

/-- RETRAIN: the port goes DOWN and trains from step 1 at full width; refused while a job that is ARMED, RUNNING or
HOLDING names it (R368, R388). -/
def execRetrain (p : Port) (s : State) : Res :=
  if s.portNamed p JobSlot.busy then .next (s.setB (R.PORTp_STATUS p.val) 4)
  else .next ((s.portDown p).portTrain p true)

/-- PORT_CNT_CLR (R488). -/
def execPortCntClr (p : Port) (s : State) : Res :=
  .next (((s.wr (R.PORTp_TC0 p.val) 0).wr (R.PORTp_TC1 p.val) 0).upPort p fun x => { x with rttMax := 0 })

/-- LANE_CNT_CLR (R488). -/
def execLaneCntClr (n : Lane) (s : State) : Res :=
  .next ((s.wr (R.LANEn_CNT n.val) 0).wr (R.LANEn_CNT2 n.val) 0)

/-- Where an aux entry of `len` bytes goes in a ring of `size` bytes, and the HEAD after it; none where it does not fit
between HEAD and TAIL (R471). -/
def auxPlace (size head tail len : Nat) : Option (Nat × Nat) :=
  let nxt := if head + len = size then 0 else head + len
  if head < tail then (if head + len < tail then some (head, head + len) else none)
  else if head + len ≤ size then
    if nxt ≠ tail then some (head, nxt) else none
  else if len < tail then some (0, len) else none

/-- AUX_DATA: an entry in the host's aux ring, or a drop that is counted (R471). -/
def execAuxData (seq stream : BitVec 16) (sidx : Word) (data : List Byte) (s : State) : Res :=
  .next (s.rxParcel 34 seq.toNat fun s =>
    if !s.rb R.HOST_AUX_CTL 0 then s
    else
      let len := cdiv (16 + data.length) 16 * 16
      match auxPlace (s.rf R.HOST_AUX_SIZE 24 0) s.host.auxHead (s.rf R.HOST_AUX_TAIL 23 0) len with
      | none => (s.count R.HOST_AUX_DROP 31 0).upHost fun h => { h with auxDrop := satN 32 (h.auxDrop + 1) }
      | some (o, nxt) =>
        let e := toBytes 2 len ++ toBytes 2 stream.toNat ++ toBytes 4 sidx.toNat ++ toBytes 4 s.frc.toNat ++
          toBytes 4 s.host.auxDrop ++ data
        let e := e ++ List.replicate (len - e.length) 0
        let base := (s.rd R.HOST_AUX_BASE_HI).toNat * 2 ^ 32 + s.rf R.HOST_AUX_BASE_LO 31 12 * 4096
        (s.upHost fun h => { h with toHost := (base + o, e) :: h.toHost, auxHead := nxt, auxDrop := 0 }).assigned 5)

end Sys2Proof.Machine
end

