-- ==== Sys2Proof/Machine/TwinOps.lean ====
section
/-! DEFINITION. What a rope pair shares: roles, the pair grid, TWIN_CTL parcels, forwarded objects and the configuration
digest (R390, R395, R398, R400, R405, R416). -/

namespace Sys2Proof.Machine

namespace State

/-- A paired LEAD. -/
def pairLead (s : State) : Bool := s.twin.role == 1 && s.twin.pair == 2
/-- A paired SECOND. -/
def pairSecond (s : State) : Bool := s.twin.role == 2 && s.twin.pair == 2

/-- The offset of the pair grid: a SECOND that is joining has measured it already (R394, R395). -/
def pairOfs (s : State) : Int := if s.twin.role = 2 ∧ s.twin.pair = 1 then s.twin.timeRef else s.twin.ofs
/-- A tick on the pair grid (R395). -/
def toPair (s : State) (t : Nat) : Nat := ((t : Int) + s.pairOfs).toNat
/-- The tick of a pair-grid tick. -/
def ofPair (s : State) (g : Nat) : Nat := ((g : Int) - s.pairOfs).toNat

/-- A TWIN_CTL parcel: operands from byte 4 (R416). -/
def ctl (op : Nat) (bytes : List Byte) : State → State := shp fun s =>
  s.parcel tp 0x92 ([BitVec.ofNat 8 op, 0, 0, 0] ++ bytes)

/-- CMD: a job command, or divergence, with its effective tick, 0 when not timed (R400, R408, R416). -/
def ctlCmd (op slot at_ : Nat) (s : State) : State :=
  s.ctl 1 ([BitVec.ofNat 8 op, BitVec.ofNat 8 slot, 0, 0] ++ toBytes 8 at_)

/-- The parts of an object of `len` bytes, 60 bytes each (R384). -/
def fwdParts (len : Nat) : List (Nat × Nat) := (List.range (cdiv len 60)).map fun i => (60 * i, min 60 (len - 60 * i))

/-- An object sent to the same address on the SECOND: OBJ, then TWIN_FWD parcels (R400, R416). -/
def fwdObject (addr len : Nat) (s : State) : State :=
  let s := s.ctl 2 (toBytes 8 addr ++ toBytes 4 len ++ toBytes 4 (crc32 (s.rdBytes addr len)).toNat)
  s.each (fwdParts len) fun p t => t.parcel tp 0x90 (toBytes 4 p.1 ++ t.rdBytes (addr + p.1) p.2)

/-- The bytes of a program image (R80). -/
def imgLen (s : State) (a : Nat) : Nat := 64 + 8 * s.imgCode a + s.imgConst a

/-- The bytes of a profile table (R88). -/
def profLen (s : State) (a : Nat) : Nat := 64 + 512 * ((List.range 16).map fun b => s.rdN (a + 8 + 2 * b) 2).sum

/-- The bytes of a paddock map (R259, R260). -/
def mapLen (s : State) (a : Nat) : Nat :=
  64 + 8 * cdiv (s.rdN (a + 8) 2 * s.rdN (a + 10) 2) 64 + 8 * s.rdN (a + 12) 2 + 8 * s.rdN (a + 14) 2

/-- The objects that a descriptor names (R83, R84). -/
def objectsOf (s : State) (j : JobSlot) : List (Nat × Nat) :=
  (j.named.map fun b => (j.image b.val, s.imgLen (j.image b.val))) ++
  (if j.machAddr = 0 then [] else [(j.machAddr, s.imgLen j.machAddr)]) ++
  (if j.profTable = 0 then [] else [(j.profTable, s.profLen j.profTable)]) ++
  (if j.zoneMap = 0 then [] else [(j.zoneMap, s.mapLen j.zoneMap)])

/-- The descriptor address of a slot (R144). -/
def descAddr (s : State) (n : Slot) : Nat :=
  (s.rd (R.JOB_SLOTn_DADDR_HI n.val)).toNat * 2 ^ 32 + (s.rd (R.JOB_SLOTn_DADDR_LO n.val)).toNat

/-- Every object of a job, and its descriptor as the last one (R400). -/
def fwdJob (n : Slot) (s : State) : State :=
  (s.each (s.objectsOf (s.js n)) fun o t => t.fwdObject o.1 o.2).fwdObject (s.descAddr n) 128

/-! The configuration digest (R398): pairs of a register offset and the value that the pair must share. -/

/-- A register under a mask. -/
def cfgReg (s : State) (m : Nat) (a : Nat) : Nat × Nat := (a, (s.rd a &&& w32 m).toNat)

/-- The registers of R186, R192, R224, R355 of beam `n`. -/
def cfgBeam (s : State) (n : Nat) : List (Nat × Nat) :=
  let f := 0xFFFFFFFF
  ([R.BEn_AXES n, R.BEn_LAG_CFG n, R.BEn_LAG_DEF n, R.BEn_STOP_CFG n, R.BEn_REJOIN n, R.BEn_REJOIN_EMAX n,
    R.BEn_PWR_CFG n, R.LDn_PWM n, R.LDn_MUSTER_DLY n, R.PCUn_PD_CFG n, R.PCUn_FREEZE n, R.PCUn_EYE_CFG n,
    R.PCUn_EYE_THR n, R.PCUn_EYE_LOOP n, R.CAL_Pn_FS n].map (s.cfgReg f)) ++
  [s.cfgReg 0x372 (R.LDn_CTL n), s.cfgReg 6 (R.PCUn_CTL n), s.cfgReg f (R.CAL_Pn_CTL n)] ++
  (List.range 33).map fun p => s.cfgReg f (R.CAL_Pn_Wp n p)

/-- A loop-engine slot: its words, and CYCLES and BODY_CRC of its image. -/
def cfgLe (s : State) (k : Engine) (l : LSlot) : List (Nat × Nat) :=
  let x := s.ls k l
  ([R.LEk_SLOTl_CFG k.val l.val, R.LEk_SLOTl_RAMP k.val l.val, R.LEk_SLOTl_FE k.val l.val, R.LEk_SLOTl_SUP k.val l.val,
    R.LEk_SLOTl_FREEZE_I k.val l.val].map (s.cfgReg 0xFFFFFFFF)) ++
  (if x.st = .off then [] else
    [(R.LEk_SLOTl_CYC k.val l.val, x.cycles * 2 ^ 32 + s.rdN (x.master + 32) 4)])

/-- Everything that R398 names, by register offset. A value that is no register stands at the register that reports it:
BODY_CRC of a set at CAL_Hn_SETT0, the slot table at FAB_SLOT_LIVE0. -/
def cfgItems (s : State) : List (Nat × Nat) :=
  let f := 0xFFFFFFFF
  ((List.range s.beams).flatMap s.cfgBeam) ++
  ((List.finRange 4).flatMap fun k => if s.leOn k.val then (List.finRange 16).flatMap (s.cfgLe k) else []) ++
  ((List.range 32).flatMap fun q => match s.slotHead q with
    | some h => if s.setValid q then [(R.CAL_Hn_SETT0 h, s.rdN (setBase q + 48) 4)] else []
    | none => []) ++
  (s.fab.live.toList.map fun e => (R.FAB_SLOT_LIVEk 0, e.toNat)) ++
  ([R.LDG_RISE, R.LDG_RISE_REP, R.ZONE_SEP, R.ZONE_LEE, R.ZONE_QUOTA, R.TWIN_CHECK, R.TWIN_CMD_DLY, R.LDG_CFG].map
    (s.cfgReg f)) ++
  [(R.LDG_GRID, s.ldg.geo[0].toNat), (R.LDG_CFG, s.ldg.geo[1].toNat), (R.LDG_ORG_X, s.ldg.geo[4].toNat),
   (R.LDG_ORG_Y, s.ldg.geo[5].toNat)] ++
  (List.range 16).flatMap fun n =>
    [R.AXn_CFG n, R.AXn_VMAX n, R.AXn_AMAX n, R.AXn_DMAX n, R.AXn_SLIM_LO n, R.AXn_SLIM_HI n, R.AXn_STEP n].map
      (s.cfgReg f)

/-- The configuration digest: CRC-64 over the values in ascending register offset (R398, R405). -/
def cfgDigest (s : State) : DWord :=
  crc64 ((s.cfgItems.mergeSort fun a b => a.1 ≤ b.1).flatMap fun x => toBytes 8 x.2)

/-- The digest as TWIN_CFGDIG reports it. -/
def putCfgDigest (s : State) : State :=
  let d := s.cfgDigest.toNat
  (s.wr R.TWIN_CFGDIG_LO (w32 d)).wr R.TWIN_CFGDIG_HI (w32 (d / 2 ^ 32))

/-- CFG: this device's digest (R398, R416). -/
def sendCfg (s : State) : State := s.ctl 10 ([0, 0, 0, 0] ++ toBytes 8 s.cfgDigest.toNat)

/-- ADM: what a walk of the SECOND found, or its answer to an ARM (R401, R416; log entry 61). -/
def sendAdm (n : Slot) (code fin : Nat) (digest : DWord) (s : State) : State :=
  s.ctl 3 ([BitVec.ofNat 8 n.val, BitVec.ofNat 8 code, 0, 0] ++ toBytes 8 fin ++ toBytes 8 digest.toNat)

/-- The LEAD asks the SECOND to arm a slot too: its digest, then CMD (R398, R400, R401). -/
def askArm (n : Slot) (auto : Bool) (s : State) : State :=
  (((s.putCfgDigest).upTwin fun t => { t with timed := t.timed ++ [⟨2, n.val, s.tick, auto⟩] }).sendCfg).ctlCmd 2 n.val 0

/-- STOP: a beam's stop record (R404, R416). -/
def sendStop (b : Beam) (s : State) : State :=
  match (s.be[b]).stop with
  | none => s
  | some r =>
    s.ctl 5 ([BitVec.ofNat 8 b.val, BitVec.ofNat 8 (r.kind + r.form * 16), 0, 0] ++ toBytes 4 r.pc ++
      toBytes 4 (i32 r.pt.x).toNat ++ toBytes 4 (i32 r.pt.y).toNat ++ toBytes 4 r.rem ++ toBytes 8 (s.toPair r.at_))

/-- A run of ledger cells, by their 8-byte place in the region (R399, R404). -/
def sendCells (l : List Nat) (s : State) : State :=
  s.each l fun c t => t.parcel tp 0x91 (toBytes 4 c ++ toBytes 8 (t.cellWord c).toNat)

end State

end Sys2Proof.Machine
end

