-- ==== Sys2Proof/Machine/JobStart.lean ====
section
/-! DEFINITION. Where a job starts from: the points and the focus of its heads, its preparation time and its decode states
(R77, R82, R106, R149, R150, R166). -/

namespace Sys2Proof.Machine

namespace State

/-! Where a job starts from. -/

/-- The point to which positioning brings beam `b` for slot `n` (R82, R166): of a remainder the start of its rerun stroke, or
Q0 of a stroke that starts whole, or the stop point. -/
def startPoint (s : State) (n : Slot) (b : Beam) : Pt :=
  if (s.js n).remainder then
    match (s.be[b]).stop with
    | none => s.pos b
    | some r => match r.rerunAt, r.stroke with
      | some p, _ => p
      | none, some st => if st.kind.isPath then st.q0 else r.pt
      | none, none => r.pt
  else s.imgStart ((s.js n).image b.val)

/-- The focus to which it brings it: START_Z, or the focus kept. -/
def startFocus (s : State) (n : Slot) (b : Beam) : Int :=
  if (s.js n).remainder then
    match (s.be[b]).stop with
    | none => s.focusAt b s.tick
    | some r => match r.stroke with
      | some st => st.z1.toInt
      | none => r.kept.pz.toInt
  else (s.imgStartZ ((s.js n).image b.val)).toInt

/-- Where head `b` stands when the preparation of an ARMED job begins: now, or where the program of the RUNNING job leaves
it, its focus too (R149, R150). -/
def headFrom (s : State) (b : Beam) : Pt × Int :=
  let here := (s.pos b, s.focusAt b s.tick)
  match s.runSlot with
  | some r => match (s.js r).promise with
    | some p => ((p.last.find? (·.1 = b.val)).map (·.2)).getD here
    | none => here
  | none => here

/-- The positioning time of a beam: its travel, or its focus move where that is longer (R149). -/
def travelNs (s : State) (n : Slot) (b : Beam) : Nat :=
  let w := (s.js n).prepCfg[0]
  let (p, z) := s.headFrom b
  max (moveNs (dist p (s.startPoint n b)) (posV w) (posA w)) (moveNs (s.startFocus n b - z).natAbs (posV w) (posA w))

/-- Positioning and settling, up to the drift allotment (R149). -/
def settleNs (s : State) (n : Slot) : Nat :=
  let j := s.js n
  cdiv ((j.named.map (s.travelNs n)).foldl max 0) 1000 * 1000 + fld j.prepCfg[1] 15 0 * 1000

/-- t_prep (R149). -/
def prepNs (s : State) (n : Slot) : Nat :=
  let j := s.js n
  max 16384 (s.settleNs n + (if j.driftAllot then fld j.prepCfg[2] 31 16 * 1000 else 0))

/-- The decode state at the preparation begin (R77); a remainder's is the kept one, with program time from 0. -/
def startDec (s : State) (n : Slot) (b : Beam) : PState :=
  let j := s.js n
  if j.remainder then
    match (s.be[b]).stop with
    | none => { resetPState with halted := true }
    | some r => { r.kept with progEnd := 0, lastEnd := 0, window := 0, waits := 0, halted := r.kind = 4
                              rerun := r.src.isSome }
  else
    let a := j.image b.val
    let p := s.imgStart a
    { resetPState with px := i32 p.x, py := i32 p.y, pz := s.imgStartZ a, pc := s.imgEntry a }

/-- Scratch at the job start: the constants of the image, then zeros (R77). -/
def startScratch (n : Slot) (b : Beam) (s : State) : State :=
  if (s.js n).remainder then s
  else
    let a := (s.js n).image b.val
    let lo := scratchBase b
    let s := { s with mem := s.mem.filter fun c => c.1 < lo || lo + 65536 ≤ c.1 }
    s.wrBytes lo (s.rdBytes (a + 64 + 8 * s.imgCode a) (min 65536 (s.imgConst a)))

/-- The present hotspot as sQ8.7. -/
def hotNow (s : State) : Int := rshr ((s.pwr.hist.head?).getD 0) 9

/-- The OWNER code of a stream (R279). -/
def needOwner (stream i : Nat) : Nat :=
  if stream = 0 then i else if stream = 1 then 0x10 + i else if stream = 2 then 0x20 + i else 0x30 + i

end State

end Sys2Proof.Machine
end

