-- ==== Sys2Proof/Machine/Objects.lean ====
section
/-! DEFINITION. Phases 1 and 2 of an analysis: the objects of a job and the readiness of its units (R83 to R90, R153, R160,
R235, R258 to R261). -/

namespace Sys2Proof.Machine

/-- Nothing where the condition holds, else the violation. -/
def need (c : Bool) (v : Viol) : Except Viol Unit := if c then .ok () else .error v

/-- The claims made so far on device memory: begin and end of each object. -/
abbrev Extents := List (Nat × Nat)

namespace State

/-- A violation of the descriptor at a byte offset. -/
def descViol (code off : Nat) : Viol := { code := code, obj := 0, beam := if 32 ≤ off ∧ off < 96 then (off - 32) / 4 else 0,
                                          off := off, time := 0 }

/-- An object must end in populated DDR5 (R83). -/
def needDdr (s : State) (a n off : Nat) : Except Viol Unit := need (s.inDdr a n) (descViol 0x22 off)

/-- An object takes its place: it overlaps no other and not the ledger region (R85, R235). -/
def claim (e : Extents) (a n off : Nat) : Except Viol Extents :=
  if e.any fun x => a < x.2 && x.1 < a + n then .error (descViol 0x21 off) else .ok ((a, a + n) :: e)

/-- The fields of the descriptor (R84 to R86, R151). -/
def checkDesc (s : State) (j : JobSlot) : Except Viol Unit := do
  let bad (c : Bool) (off : Nat) := need c (descViol 0x21 off)
  need ((crc32 (toBytes 124 (j.dN 0 124))).toNat == j.dN 124 4) (descViol 0x20 124)
  bad (j.mode ≤ 3) 4
  bad (j.dN 5 1 / 4 == 0) 5
  bad (j.mode == 1 || (if j.mode = 3 then j.param ≤ 8 else j.param == 0)) 8
  bad (j.dN 22 2 == 0) 16
  for b in List.range 16 do
    bad (j.names b == (j.dN (32 + 4 * b) 4 != 0)) (32 + 4 * b)
  bad (j.mask == 0 || j.dN 28 4 != 0) 28
  bad (j.dN 103 1 == 0 && j.tau != 0) 100
  need (j.mask < 2 ^ s.beams) (descViol 0x36 6)
  let k := ((List.range 9).map j.kern).sum
  need (65536 ≤ k && k ≤ 65544) (descViol 0x27 106)
  for off in [24, 28] ++ (List.range 16).map (fun b => 32 + 4 * b) ++ [96] do
    let p := j.dN off 4
    need (p == 0 || (0x100000 ≤ p && s.inDdr (p * 4096) 1)) (descViol 0x22 off)

/-- A program image of a KIND at address `a`, named by the pointer at `off` (R80, R81, R85). -/
def checkImage (s : State) (a kind obj beam off : Nat) (e : Extents) : Except Viol Extents := do
  let hdr (c : Bool) := need c { code := 0x23, obj := obj, beam := beam, off := 0, time := 0 }
  s.needDdr a 64 off
  hdr (s.rdN a 4 == 0x314E4C50 && s.rdN (a + 4) 2 == 1 && s.rdN (a + 6) 1 == kind)
  hdr ((crc32 (s.rdBytes a 60)).toNat == s.rdN (a + 60) 4)
  hdr (s.rdN (a + 7) 1 == 0 && s.rdN (a + 21) 3 == 0 && s.rdN (a + 36) 4 == 0 && s.rdN (a + 52) 8 == 0)
  let n := s.imgCode a
  let c := s.imgConst a
  hdr (1 ≤ n && n ≤ 8388608 && c ≤ 65536 && c % 8 == 0 && s.imgEntry a < n && s.imgDepth a ≤ 8)
  hdr (kind == 0 || s.rdN (a + 40) 12 == 0)
  s.needDdr a (s.imgLen a) off
  let e ← claim e a (s.imgLen a) off
  need ((crc32 (s.rdBytes (a + 64) (8 * n + c))).toNat == s.rdN (a + 32) 4)
    { code := 0x24, obj := obj, beam := beam, off := 0, time := 0 }
  .ok e

/-- A profile of beam `b` at address `a`, byte `o` of the table (R5, R6, R89, R90, R225). -/
def checkProfile (s : State) (a b o : Nat) : Except Viol Unit := do
  let bad (c : Bool) (k : Nat) := need c { code := 0x25, obj := 3, beam := b, off := o + k, time := 0 }
  let f := s.profAt a
  let dly (x : Int) : Bool := -80000 ≤ x && x ≤ 80000
  bad (1 ≤ f.acc && f.acc ≤ 2000000) 0
  bad (f.runup ≤ 20000000) 4
  bad (f.runout ≤ 20000000) 8
  bad (f.tol ≤ 1000000) 12
  bad (dly f.lon) 16
  bad (dly f.loff) 20
  bad (f.pMin ≤ f.pMax) 26
  bad (1 ≤ f.slew) 28
  bad (f.mode < 8) 30
  bad (s.rdN (a + 31) 1 == 0) 31
  bad (nbit f.mode 1 || f.iRef < 65536) 32
  bad (s.rdN (a + 44) 1 ≤ 31) 44
  bad (s.rdN (a + 45) 1 ≤ 31) 45
  for k in List.range 202 do
    bad (s.rdN (a + 54 + k) 1 == 0) (54 + k)
  for i in List.range 63 do
    bad (s.rdN (a + 258 + 4 * i) 2 < s.rdN (a + 262 + 4 * i) 2) (260 + 4 * i)
  let size (n : Nat) : Bool := 8 ≤ n && n ≤ 128 && n % 8 == 0
  let eye := s.rd (R.PCUn_EYE_CFG b)
  need (!nbit f.mode 2 || (s.hasEye && size (fld eye 23 16) && size (fld eye 31 24)))
    { code := 0x36, obj := 3, beam := b, off := o + 30, time := 0 }

/-- The profile table (R88). -/
def checkTable (s : State) (j : JobSlot) (e : Extents) : Except Viol Extents := do
  let a := j.profTable
  let bad (c : Bool) (k b : Nat) := need c { code := 0x25, obj := 3, beam := b, off := k, time := 0 }
  if a = 0 then .ok e
  else
    s.needDdr a 64 28
    bad (s.rdN a 4 == 0x31465050) 0 0
    bad (s.rdN (a + 4) 2 == 1) 4 0
    bad (s.rdN (a + 6) 2 == 0) 6 0
    bad ((crc32 (s.rdBytes a 60)).toNat == s.rdN (a + 60) 4) 60 0
    for k in List.range 16 do
      bad (s.rdN (a + 44 + k) 1 == 0) (44 + k) 0
    let cnt (b : Nat) := s.rdN (a + 8 + 2 * b) 2
    for b in List.range 16 do
      bad (cnt b ≤ 256 && (cnt b == 0 || j.names b)) (8 + 2 * b) b
    s.needDdr a (s.profLen a) 28
    let e ← claim e a (s.profLen a) 28
    bad ((crc32 (s.rdBytes (a + 64) (s.profLen a - 64))).toNat == s.rdN (a + 40) 4) 40 0
    for b in List.range 16 do
      for i in List.range (cnt b) do
        let p := s.profAddr a b i
        s.checkProfile p b (p - a)
    .ok e

/-- The paddock map (R258 to R261). -/
def checkMap (s : State) (j : JobSlot) (e : Extents) : Except Viol Extents := do
  let a := j.zoneMap
  let bad (c : Bool) (k : Nat) := need c { code := 0x45, obj := 4, beam := 0, off := k, time := 0 }
  if a = 0 then .ok e
  else
    s.needDdr a 64 96
    bad (s.rdN a 4 == 0x314D5A50) 0
    bad ((crc32 (s.rdBytes a 60)).toNat == s.rdN (a + 60) 4) 60
    bad (s.rdN (a + 4) 2 == 1) 4
    let ps := s.rdN (a + 6) 1
    bad (4 ≤ ps && ps ≤ 10) 6
    bad (s.rdN (a + 7) 1 == 0) 7
    let gx := s.rdN (a + 8) 2
    let gy := s.rdN (a + 10) 2
    bad (gx == cdiv s.ldgNx (2 ^ ps)) 8
    bad (gy == cdiv s.ldgNy (2 ^ ps)) 10
    let ns := s.rdN (a + 12) 2
    let np := s.rdN (a + 14) 2
    bad (1 ≤ ns && ns ≤ 4096) 12
    bad (np ≤ 256) 14
    for b in List.range 16 do
      let v := s.rdN (a + 16 + b) 1
      bad (v < 8 && (v == 0 || j.names b)) (16 + b)
    for k in List.range 24 do
      bad (s.rdN (a + 36 + k) 1 == 0) (36 + k)
    s.needDdr a (s.mapLen a) 96
    let e ← claim e a (s.mapLen a) 96
    bad ((crc32 (s.rdBytes (a + 64) (s.mapLen a - 64))).toNat == s.rdN (a + 32) 4) 32
    let bm := 8 * cdiv (gx * gy) 64
    bad (s.rdN (a + 64) bm < 2 ^ (gx * gy)) 64
    for k in List.range ns do
      let o := 64 + bm + 8 * k
      let w (i : Nat) := s.rdN (a + o + 2 * i) 2
      bad (w 0 ≤ w 1 && w 1 < gx && w 2 ≤ w 3 && w 3 < gy) o
    for k in List.range np do
      let o := 64 + bm + 8 * ns + 8 * k
      let b := s.rdN (a + o + 6) 1
      bad (b < 16 && s.rdN (a + o + 7) 1 < 8 && j.names b) o
      bad (k == 0 || s.rdN (a + o - 8) 6 ≤ s.rdN (a + o) 6) o
    .ok e

/-- Phase 1: descriptor, images, profile table, paddock map (R107, R153). -/
def checkObjects (s : State) (j : JobSlot) : Except Viol Unit := do
  s.checkDesc j
  let _ ← claim [(s.ldgBase, s.ldgBase + 8 * (s.ldgNx * s.ldgNy))] j.descAt 128 0
  let mut e : Extents := [(s.ldgBase, s.ldgBase + 8 * (s.ldgNx * s.ldgNy))]
  for b in j.named do
    e ← s.checkImage (j.image b.val) 0 1 b.val (32 + 4 * b.val) e
  if j.machAddr ≠ 0 then
    e ← s.checkImage j.machAddr 1 2 0 24 e
  e ← s.checkTable j e
  let _ ← s.checkMap j e
  .ok ()

/-- A violation of a device item (R162). -/
def devViol (code b item : Nat) : Viol := { code := code, obj := 5, beam := b, off := item, time := 0 }

/-- A port is trained, free of link fault and, at half width, allowed so (R153, R368). -/
def portReady (s : State) (p : Nat) : Bool :=
  s.portUp p && (!((vget? s.port p).map (·.degraded)).getD false || s.rb (R.PORTp_CTL p) 6)

/-- A local slot, 16·k + l, is bound to an axis of a head and in RUN (R286, R303). -/
def headSlotReady (s : State) (b : Beam) (axis slot : Nat) : Bool :=
  let k : Engine := ⟨slot / 16 % 4, Nat.mod_lt _ (by decide)⟩
  let l : LSlot := ⟨slot % 16, Nat.mod_lt _ (by decide)⟩
  s.leOn k.val && !s.leMach k l && s.lePort k l == b && s.leAxis k l == axis && (s.ls k l).st == .run

/-- Phase 2: ports, axis slots, sets and power curves of the named beams, then the servo machine axes (R153, R193, R344,
R351). -/
def checkReady (s : State) (j : JobSlot) : Except Viol Unit := do
  for b in j.named do
    need (s.portReady b.val) (devViol 0x40 b.val b.val)
    need (s.portReady (16 + b.val) && s.rb (R.LDn_CTL b.val) 0) (devViol 0x40 b.val (16 + b.val))
    let w := s.rd (R.BEn_AXES b.val)
    for i in List.range 3 do
      let slot := fld w (8 * i + 5) (8 * i)
      need (s.headSlotReady b i slot) (devViol 0x42 b.val slot)
    need (s.hasSet b && (s.cal.src[b]).valid) (devViol 0x41 b.val 0)
  if j.machAddr ≠ 0 then
    for n in List.finRange 16 do
      if nbit (s.machAxes j.machAddr) n.val && s.axKind n == 2 then
        need (s.portReady 33) (devViol 0x40 0 33)
        match s.axSlot n with
        | some (k, l) => need ((s.ls k l).st == .run) (devViol 0x42 0 (16 * k.val + l.val))
        | none => need false (devViol 0x42 0 0)

end State

end Sys2Proof.Machine
end

