-- ==== Sys2Proof/Machine/Sweep.lean ====
section
/-! DEFINITION. The swept path of a stroke (R104, R114, R118, R121, R122, R175): a chain of points joined by straight
segments, and the squares of a grid that such a chain meets. -/

namespace Sys2Proof.Machine

/-- A grid of squares: its origin and the side of a square, nm. -/
structure Squares where
  x : Int
  y : Int
  side : Nat

/-- A point in units of the squares. -/
def Squares.of (g : Squares) (p : QPt) : QPt :=
  ⟨(p.x.sub (Q.ofInt g.x)).div (Q.ofInt g.side), (p.y.sub (Q.ofInt g.y)).div (Q.ofInt g.side)⟩

/-- The square of a point, as column and row that may lie outside (R234). -/
def Squares.at (g : Squares) (p : QPt) : Int × Int := ((g.of p).x.floor, (g.of p).y.floor)

/-- A fraction put into a rising list. -/
def Q.insert (a : Q) : List Q → List Q
  | [] => [a]
  | b :: l => if a.le b then a :: b :: l else b :: Q.insert a l

/-- Where a coordinate that runs from `u` to `v` crosses whole numbers, as fractions of the way. -/
def crossings (u v : Q) : List Q :=
  let lo := min u.floor v.floor
  (List.range ((max u.floor v.floor) - lo).toNat).map fun k => ((Q.ofInt (lo + 1 + (k : Nat))).sub u).div (v.sub u)

/-- The squares that a straight segment meets: the square is constant between two crossings. -/
def Squares.segment (g : Squares) (p q : QPt) : List (Int × Int) :=
  let a := g.of p
  let d := (g.of q).sub a
  let ts := (Q.ofInt 0 :: Q.ofInt 1 :: (crossings a.x (g.of q).x ++ crossings a.y (g.of q).y)).foldr Q.insert []
  let mids := (ts.zip ts.tail).map fun t => (t.1.add t.2).div (Q.ofInt 2)
  ((ts ++ mids).map fun t =>
    let c := a.add (QPt.smul t d)
    (c.x.floor, c.y.floor)).dedup

/-- The squares that a chain of segments meets. -/
def Squares.chain (g : Squares) : List QPt → List (Int × Int)
  | [] => []
  | [p] => [g.at p]
  | p :: q :: l => g.segment p q ++ Squares.chain g (q :: l)

/-- Every point within `r` of `p` along each axis lies in the square of `p` and on its side of every edge of the box. -/
def Squares.roomy (g : Squares) (box : List Int × List Int) (p : QPt) (r : Q) : Bool :=
  let lo : QPt := ⟨p.x.sub r, p.y.sub r⟩
  let hi : QPt := ⟨p.x.add r, p.y.add r⟩
  let clear (u v : Q) (e : Int) : Bool := (Q.ofInt e).lt u || v.lt (Q.ofInt e)
  g.at lo == g.at hi && box.1.all (clear lo.x hi.x) && box.2.all (clear lo.y hi.y)

/-- Points of a curve that meet the same squares, and the same side of the box, as all its points `f k` to `f (k + 2^n)`
joined by segments: a part that stays within `reach` of its first point in one square is its first point alone. -/
def curvePts (g : Squares) (box : List Int × List Int) (f : Nat → QPt) (reach : Nat → Q) : Nat → Nat → List QPt
  | 0, k => [f k, f (k + 1)]
  | n + 1, k =>
    if g.roomy box (f k) (reach (2 ^ (n + 1))) then [f k]
    else curvePts g box f reach n k ++ curvePts g box f reach n (k + 2 ^ n)

namespace Stroke

/-- The path phase is one straight segment: a MARK without a fillet at either end. -/
def straight (y : Stroke) (prev : Option Stroke) : Bool :=
  y.kind != .arc && !(y.blendOut && y.filA != 0) && !(y.blendIn && prev.any (·.filA != 0))

/-- The points of the path phase: of a straight one its ends; of another one those 2^-16 nm of path apart (log entry 12). -/
def pathPts (g : Squares) (box : List Int × List Int) (y : Stroke) (prev next_ : Option Stroke) : List QPt :=
  if y.straight prev then [QPt.ofPt y.p0, QPt.ofPt y.p1]
  else
    let n := y.geo.len * 65536
    let at_ (k : Nat) : QPt := (y.pathAt prev next_ (Q.mk' (min k n : Nat) 65536) (Q.ofInt 1)).1
    let wide := max (max y.geo.r0 y.geo.r1) (max y.filR (prev.elim 0 (·.filR)))
    let reach (k : Nat) : Q := (Q.mk' (4 * k) 65536).add (Q.mk' wide (2 ^ 28))
    curvePts g box at_ reach (Nat.log2 n + 1) 0

/-- The swept path of a stroke over its whole slot: bridge or move, run-up, path with its fillets, and run-out. -/
def sweep (g : Squares) (box : List Int × List Int) (y : Stroke) (prev next_ : Option Stroke) : List QPt :=
  match y.kind with
  | .jump => [QPt.ofPt y.m0, QPt.ofPt y.q0]
  | .spot => [QPt.ofPt y.m0, QPt.ofPt y.p1]
  | _ =>
    (if y.blendIn then [] else [QPt.ofPt y.m0, QPt.ofPt y.q0]) ++ y.pathPts g box prev next_ ++
      (if y.blendOut then [] else [QPt.ofPt y.q1])

end Stroke

end Sys2Proof.Machine
end

