-- ==== Sys2Proof/Machine/Words.lean ====
section
/-! DEFINITION. From the words of a program image to its instructions (R109 to R112, R129 to R136). -/

namespace Sys2Proof.Machine

/-- The words of an instruction by the opcode of its first word (R109). -/
def wordsOf (w : DWord) : Nat :=
  let op := w.toNat / 2 ^ 56
  if op = 0x12 then 3 else if 0x10 ≤ op ∧ op ≤ 0x13 then 2 else 1

/-- A bit range of a word is 0. -/
def zeroBits (w : DWord) (hi lo : Nat) : Bool := nfld w.toNat hi lo == 0

/-- The fields of a stroke and its operand words. -/
def strokeArgs (w w1 w2 : DWord) : StrokeArgs :=
  let n := w.toNat
  { flags := BitVec.ofNat 8 (n / 2 ^ 48), speed := BitVec.ofNat 24 (n / 2 ^ 24), power := BitVec.ofNat 16 (n / 2 ^ 8)
    profile := BitVec.ofNat 8 n, w1 := w1, w2 := w2 }

/-- The fields that the forms of a stroke require to be 0 (R111, R112). -/
def strokeZeros (op : Nat) (w : DWord) (a : StrokeArgs) : Bool :=
  let f := a.flags.toNat
  let banned := if op = 0x10 then 0x07 else if op = 0x11 then 0x1F else if op = 0x12 then 0x03 else 0x0F
  let regWord (x : DWord) : Bool := zeroBits x 63 36 && zeroBits x 31 4
  f &&& banned == 0 && (!fRegSpd a.flags || zeroBits w 47 28) && (!fRegPwr a.flags || zeroBits w 23 12) &&
    (op != 0x11 || zeroBits w 23 8) && (!fRegXY a.flags || (regWord a.w1 && (op != 0x12 || regWord a.w2)))

/-- The fields of the integer format. -/
def intArgs (w : DWord) : IntArgs :=
  let n := w.toNat
  { rd := Fin.ofNat 16 (n / 2 ^ 52), ra := Fin.ofNat 16 (n / 2 ^ 48), rb := Fin.ofNat 16 (n / 2 ^ 44), imm := nbit n 43
    imm32 := BitVec.ofNat 32 n }

/-- The operation of an integer opcode. -/
def aluOf (op : Nat) : AluOp :=
  match op with
  | 0x40 => .mov | 0x41 => .add | 0x42 => .sub | 0x43 => .mul | 0x44 => .band | 0x45 => .bor | 0x46 => .bxor
  | 0x47 => .shl | 0x48 => .shr | 0x49 => .sar | 0x4A => .cmp | _ => .mulh

/-- The code of a word that no instruction has, or whose fields lie outside their ranges; OPCODE comes before OPERAND
(R109). -/
abbrev Coded := Except Nat PInstr

/-- Reserved and zero fields, then ranges, then the instruction. -/
def coded (zeros ranges : Bool) (i : PInstr) : Coded :=
  if !zeros then .error 0x28 else if !ranges then .error 0x29 else .ok i

/-- The integer group (R127, R128). -/
def decodeInt (op : Nat) (w : DWord) : Coded :=
  let a := intArgs w
  let z := zeroBits w 42 32
  if op = 0x4C then coded (z && !a.imm) true (.ld a)
  else if op = 0x4D then coded (z && !a.imm && a.rd == 0) true (.st a)
  else if op = 0x4E then coded (z && !a.imm && a.ra == 0) (a.imm32.toNat < 5) (.rdp a)
  else coded (z && (op != 0x40 || a.ra == 0) && (op != 0x4A || a.rd == 0)) true (.alu (aluOf op) a)

/-- Bounded flow (R129 to R131). A LOOP or ENDL of a body below 2 words breaks the loop's form, a BR offset of 0 is not
forward. -/
def decodeFlow (op : Nat) (w : DWord) : Coded :=
  let n := w.toNat
  let r : Fin 16 := Fin.ofNat 16 (n / 2 ^ 52)
  let low : BitVec 24 := BitVec.ofNat 24 n
  if op = 0x50 then
    if !zeroBits w 50 48 then .error 0x28
    else if zeroBits w 47 24 then .error 0x29
    else if low.toNat < 2 then .error 0x2C
    else .ok (.loop (nbit n 51) r (BitVec.ofNat 24 (n / 2 ^ 24)) low)
  else if op = 0x51 then
    if !zeroBits w 55 24 then .error 0x28 else if low.toNat < 2 then .error 0x2C else .ok (.endl low)
  else
    if !zeroBits w 51 24 then .error 0x28
    else if r = 15 then .error 0x29
    else if low = 0 then .error 0x2D
    else .ok (.br r low)

/-- The process group, telemetry and end (R132 to R136). -/
def decodeRest (op : Nat) (w : DWord) : Coded :=
  let n := w.toNat
  let r : Fin 16 := Fin.ofNat 16 (n / 2 ^ 52)
  let x : Fin 16 := Fin.ofNat 16 (n / 2 ^ 48)
  let y : Fin 16 := Fin.ofNat 16 (n / 2 ^ 44)
  let v : Word := BitVec.ofNat 32 n
  if op = 0x60 then
    coded (zeroBits w 42 0 && (!nbit n 43 || (x == 0 && y == 0))) true (.lgq r x y (nbit n 43))
  else if op = 0x61 then
    coded (zeroBits w 50 48 && zeroBits w 43 32 && (nbit n 51 || zeroBits w 31 16)) (y.val < 3) (.pset (nbit n 51) r y v)
  else if op = 0x62 then coded (zeroBits w 49 32) true (.focus (nbit n 51) (nbit n 50) r v)
  else if op = 0x70 then
    coded (zeroBits w 49 48) true (.markev (nbit n 51) (nbit n 50) r (BitVec.ofNat 16 (n / 2 ^ 32)) v)
  else coded (zeroBits w 55 0) true .halt

/-- The instruction of a first word and the two words after it (R109). -/
def pDecode (w w1 w2 : DWord) : Coded :=
  let n := w.toNat
  let op := n / 2 ^ 56
  if 0x10 ≤ op ∧ op ≤ 0x13 then
    let a := strokeArgs w w1 (if op = 0x12 then w2 else 0)
    let i : PInstr := match op with
      | 0x10 => .mark a
      | 0x11 => .jump a
      | 0x12 => .arc a
      | _ => .spot a
    coded (strokeZeros op w a) (fRegSpd a.flags || a.speed != 0) i
  else if op = 0x20 then coded (zeroBits w 55 16) true (.zacq (BitVec.ofNat 16 n))
  else if op = 0x21 then coded (zeroBits w 55 0) true .zrel
  else if op = 0x30 then
    coded (zeroBits w 46 16) true (.muster (BitVec.ofNat 8 (n / 2 ^ 48)) (nbit n 47) (BitVec.ofNat 16 n))
  else if op = 0x31 then coded (zeroBits w 54 48) true (.waitt (nbit n 55) (BitVec.ofNat 48 n))
  else if 0x40 ≤ op ∧ op ≤ 0x4E then decodeInt op w
  else if 0x50 ≤ op ∧ op ≤ 0x52 then decodeFlow op w
  else if op = 0x60 ∨ op = 0x61 ∨ op = 0x62 ∨ op = 0x70 ∨ op = 0x7F then decodeRest op w
  else .error 0x28

end Sys2Proof.Machine
end

