-- ==== Sys2Proof/Machine/WalkPath.lean ====
section
/-! DEFINITION. A path of the walk of a beam program: what admission knows of its values (R96), and the control
instructions (R98, R99, R104, R126 to R136). -/

namespace Sys2Proof.Machine

/-- What the walk is about: the machine as analysis finds it, and the job's slot. -/
structure WEnv where
  s : State
  n : Slot

/-- The values on a path and what is unknown of them (R96), with the points at which the mirror may stand. -/
structure WVals where
  p : PState
  /-- General registers whose value is unknown, as a mask. -/
  unk : Nat
  ux : Bool
  uy : Bool
  uz : Bool
  /-- Flags unknown, as a mask: Z, N, C, V. -/
  uf : Nat
  /-- P_SCALE is unknown. -/
  ups : Bool
  /-- Scratch words stored on the walk: word place, value, known. -/
  scr : List (Nat × Word × Bool)
  scrUnk : Bool
  ms : List Pt
  deriving DecidableEq, Repr

/-- An open loop as the walk sees it. -/
structure WLoop where
  endl : Nat
  creg : Bool
  /-- The count is unknown: walked at its bound. -/
  unk : Bool
  /-- A set was held at entry; none for a loop that a remainder starts in. -/
  held : Option Bool
  /-- The values with which the loop may be left so far. -/
  acc : WVals
  deriving DecidableEq, Repr

/-- An unresolved branch on a path: the side taken, none where both meet on it already. -/
structure Fork where
  id : Nat
  pc : Nat
  side : Option Bool
  n : Nat
  held : Bool
  deriving DecidableEq, Repr

/-- A path of a beam program. -/
structure WPath where
  v : WVals
  lx : List WLoop
  forks : List Fork
  /-- The last stroke, closed, and the stroke blended into it. -/
  last : Option Stroke
  prev : Option Stroke
  /-- The stroke with which the last one is taken to blend; the path is tentative until it is reached. -/
  next_ : Option Stroke
  /-- The last stroke is still to be checked. -/
  chk : Bool
  /-- A JUMP whose next stroke an unresolved branch decides. -/
  openJ : Option (Stroke × List Pt)
  /-- Decode clock, JT (R140). -/
  dc : Int
  /-- Bytes fetched (R519). -/
  fb : Nat
  /-- Slot ends of the last 64 strokes, newest first. -/
  ends : List Nat
  /-- Place of a FOCUS that waits for its stroke. -/
  fpc : Option Nat
  ns : Nat
  /-- Profile of the last exposure. -/
  exp : Option Nat
  /-- Power fraction of the last stroke for the heat bound, and whether its profile is new. -/
  pow : Nat
  chg : Bool
  /-- The ZACQ of the set held. -/
  zkey : Option Key
  /-- The release of the set held was handed to the arbiter ahead of its ZREL. -/
  relDone : Bool
  deriving DecidableEq, Repr

/-- Bit `i` of a mask set to `v`. -/
def putBit (m i : Nat) (v : Bool) : Nat := if nbit m i == v then m else if v then m + 2 ^ i else m - 2 ^ i

namespace WVals

/-- A general register is known. -/
def knows (x : WVals) (r : Fin 16) : Bool := !nbit x.unk r.val
/-- The register whose number is in the low 4 bits of a field is known. -/
def knowsN (x : WVals) (n : Nat) : Bool := !nbit x.unk (n % 16)

/-- Knowledge of a register and of flags. -/
def know (r : Fin 16) (k : Bool) (x : WVals) : WVals := { x with unk := putBit x.unk r.val (!k) }
def knowF (l : List Nat) (k : Bool) (x : WVals) : WVals := { x with uf := l.foldl (fun m i => putBit m i (!k)) x.uf }

/-- Scratch of two paths: a word is known where both know it and agree; `d` is what it held at the start. -/
def joinScr (d : Nat → Word) (a b : List (Nat × Word × Bool)) : List (Nat × Word × Bool) :=
  ((a ++ b).map (·.1)).dedup.map fun k =>
    let x := (sget k a).getD (d k, true)
    let y := (sget k b).getD (d k, true)
    (k, x.1, x.2 && y.2 && x.1 == y.1)

/-- The values of `a` where another path brings those of `b` to the same point (R96, R99). -/
def join (d : Nat → Word) (a b : WVals) : WVals :=
  let p := a.p
  let q := b.p
  let g := ((List.finRange 16).filter fun r => p.gr r != q.gr r).map (·.val)
  let f := b2n (p.z != q.z) 0 + b2n (p.n != q.n) 1 + b2n (p.c != q.c) 2 + b2n (p.v != q.v) 3
  { a with
    unk := a.unk ||| b.unk ||| maskOf g, ux := a.ux || b.ux || p.px != q.px, uy := a.uy || b.uy || p.py != q.py
    uz := a.uz || b.uz || p.pz != q.pz, uf := a.uf ||| b.uf ||| f, ups := a.ups || b.ups || p.pScale != q.pScale
    scr := joinScr d a.scr b.scr, scrUnk := a.scrUnk || b.scrUnk, ms := (a.ms ++ b.ms).dedup }

end WVals

namespace WEnv

def j (E : WEnv) : JobSlot := E.s.js E.n
def img (E : WEnv) (b : Beam) : Nat := E.j.image b.val
def codeN (E : WEnv) (b : Beam) : Nat := E.s.imgCode (E.img b)
/-- Profiles of a beam (R88). -/
def count (E : WEnv) (b : Beam) : Nat := E.s.rdN (E.j.profTable + 8 + 2 * b.val) 2
def prof (E : WEnv) (b : Beam) (i : Nat) : Prof := E.s.profAt (E.s.profAddr E.j.profTable b.val i)
/-- Sets of the paddock map; 0 without one (R123). -/
def nsets (E : WEnv) : Nat := if E.j.zoneMap = 0 then 0 else E.s.rdN (E.j.zoneMap + 12) 2
/-- The walk limit (R158). -/
def limit (E : WEnv) : Nat := E.s.rf R.JOB_WALK_MAX 23 0 * 2 ^ 20

/-- A scratch word at the start: the image's constants, or for a remainder what the engine kept (R77, R106). -/
def scr0 (E : WEnv) (b : Beam) (i : Nat) : Word :=
  if E.j.remainder then E.s.rd32 (State.scratchBase b + 4 * i)
  else if 4 * i < E.s.imgConst (E.img b) then E.s.rd32 (E.img b + 64 + 8 * E.codeN b + 4 * i) else 0

/-- The instruction at a place, with its words; NO_HALT past the last code word (R107). -/
def instr (E : WEnv) (b : Beam) (pc : Nat) : Except Nat (PInstr × Nat) :=
  let w (i : Nat) := E.s.imgWord (E.img b) (pc + i)
  if E.codeN b < pc + wordsOf (w 0) ∨ E.codeN b ≤ pc then .error 0x2F
  else match pDecode (w 0) (w 1) (w 2) with
    | .ok i => .ok (i, wordsOf (w 0))
    | .error c => .error c

/-- The word at a place is the ENDL of a loop of that body (R129). -/
def endlAt (E : WEnv) (b : Beam) (pc body : Nat) : Bool :=
  pc < E.codeN b && (E.s.imgWord (E.img b) pc).toNat == 0x51 * 2 ^ 56 + body

end WEnv

namespace WPath

/-- The program time so far. -/
def time (x : WPath) : Nat := x.v.p.time

/-- A path with its values changed. -/
def upV (f : WVals → WVals) (x : WPath) : WPath := { x with v := f x.v }

end WPath

/-- An instruction that only computes: its values and what is known of them (R96, R97). An LGQ leaves Z unknown, and N, C
and V, which it always clears, known (DESIGN CHOICE, log entry 100). -/
def dataVals (E : WEnv) (b : Beam) (i : PInstr) (x : WVals) : WVals :=
  let p := x.p
  let next : PState := p.pass
  match i with
  | .alu op a =>
    let k := (op == .mov || x.knows a.ra) && (a.imm || x.knows a.rb)
    let r := aluRes op (p.gr a.ra) (p.src a)
    let y := ({ x with p := p.alu op a }).knowF (if r.c.isNone then [0, 1] else [0, 1, 2, 3]) k
    if r.write then y.know a.rd k else y
  | .ld a =>
    let w := p.scratchOf a / 4
    let e := (sget w x.scr).getD (E.scr0 b w, true)
    let k := x.knows a.ra && !x.scrUnk && e.2
    (({ x with p := p.load a.rd e.1 }).know a.rd k).knowF [0, 1] k
  | .st a =>
    let w := p.scratchOf a / 4
    let old := ((sget w x.scr).map (·.2)).getD true
    if x.knows a.ra then { x with p := next, scr := sput w (p.gr a.rb, old && x.knows a.rb) x.scr }
    else { x with p := next, scrUnk := true }
  | .rdp a =>
    let n := a.imm32.toNat
    let k := if n = 0 then !x.ux else if n = 1 then !x.uy else if n = 2 then !x.uz else true
    (({ x with p := p.load a.rd (p.rdpVal n) }).know a.rd k).knowF [0, 1] k
  | .lgq rd _ _ _ => ((({ x with p := p.lgqStep rd 0 }).know rd false).knowF [0] false).knowF [1, 2, 3] true
  | .pset reg rs sel imm32 =>
    let y := { x with p := p.psetStep reg rs sel imm32 }
    if sel.val = 0 then { y with ups := reg && !x.knows rs } else y
  | .focus reg rel rs imm32 =>
    { x with p := p.focusStep (i32 (E.s.satZ b (p.focusVal reg rel rs imm32).toInt))
             uz := (reg && !x.knows rs) || (rel && x.uz) }
  | .waitt rel target => { x with p := p.waittStep rel target }
  | _ => { x with p := next }

/-- A known operand of FOCUS lies outside the Z range of the head's focus grid (R134). -/
def focusOut (E : WEnv) (b : Beam) (reg rel : Bool) (rs : Fin 16) (imm32 : Word) (x : WVals) : Bool :=
  let q := E.s.fieldSlot b
  let z := (x.p.focusVal reg rel rs imm32).toInt
  (!reg || x.knows rs) && (!rel || !x.uz) && !(E.s.setI32 q 28 ≤ z && z ≤ E.s.setI32 q 32)

/-- LOOP (R98, R129). -/
def loopPath (E : WEnv) (b : Beam) (creg : Bool) (rc : Fin 16) (bound body : BitVec 24) (x : WPath) :
    Except Nat (List WPath) :=
  let p := x.v.p
  let endl := p.pc + body.toNat
  let unk := creg && !x.v.knows rc
  if min 8 (E.s.imgDepth (E.img b)) ≤ p.loops.length then .error 0x2B
  else if !E.endlAt b endl body.toNat || x.lx.head?.any (fun l => l.endl ≤ endl) then .error 0x2C
  else
    let n := if unk then bound.toNat else (p.loopCount creg rc bound).1
    let y := x.upV fun v => { v with p := p.loopStep n body }
    if n = 0 then .ok [y]
    else .ok [{ y with lx := { endl := endl, creg := creg, unk := unk, held := some p.held.isSome, acc := x.v } :: x.lx }]

/-- ENDL: an iteration more, or out of the loop; a loop of unknown count is left with what any count may leave (R96, R104,
R130, R139). -/
def endlPath (E : WEnv) (b : Beam) (back : BitVec 24) (x : WPath) : Except Nat (List WPath) :=
  let p := x.v.p
  match x.lx, p.loops with
  | l :: rest, e :: _ =>
    if l.endl ≠ p.pc ∨ p.pc + 1 ≠ e.start + back.toNat then .error 0x2C
    else if l.held.any (· != p.held.isSome) then .error 0x32
    else
      let q := p.endlStep
      let y := x.upV fun v => { v with p := q }
      let acc := if l.unk then l.acc.join (E.scr0 b) x.v else l.acc
      if q.loops.length < p.loops.length then
        if l.unk then .ok [{ y with v := y.v.join (E.scr0 b) acc, lx := rest }] else .ok [{ y with lx := rest }]
      else .ok [{ y with lx := { l with acc := acc } :: rest }]
  | _, _ => .error 0x2C

/-- BR: the path taken, or both where the flags are unknown (R98, R99, R131). -/
def brPath (fid : Nat) (cond : Fin 16) (offset : BitVec 24) (x : WPath) : Except Nat (List WPath) :=
  let p := x.v.p
  let tgt := p.pc + offset.toNat
  if x.lx.head?.any (fun l => l.endl < tgt) then .error 0x2C
  else if (condReads cond.val).all fun i => !nbit x.v.uf i then
    .ok [x.upV fun v => { v with p := p.brStep cond offset }]
  else
    let side (s : Bool) (pc : Nat) : WPath :=
      { (x.upV fun v => { v with p := { p.count with pc := pc } }) with
        forks := { id := fid, pc := p.pc, side := some s, n := 0, held := p.held.isSome } :: x.forks }
    .ok [side false (p.pc + 1), side true tgt]

/-- A control instruction on a path, with the wait `w` of a ZACQ or MUSTER: the paths that follow, or its violation. -/
def ctlPath (E : WEnv) (b : Beam) (fid : Nat) (i : PInstr) (w : Nat) (x : WPath) : Except Nat (List WPath) :=
  let p := x.v.p
  match i with
  | .loop creg rc bound body => loopPath E b creg rc bound body x
  | .endl back => endlPath E b back x
  | .br cond offset => brPath fid cond offset x
  | .halt =>
    if x.lx ≠ [] then .error 0x2C else if p.held.isSome then .error 0x32
    else if x.fpc.isSome then .error 0x29 else .ok []
  | .zacq set =>
    if E.nsets ≤ set.toNat then .error 0x29
    else if p.held.isSome then .error 0x32
    else .ok [x.upV fun v => { v with p := p.zacqStep set.toNat w }]
  | .zrel =>
    if p.held.isNone then .error 0x32
    else .ok [{ (x.upV fun v => { v with p := { p.pass with held := none } }) with relDone := false }]
  | .muster id _ mask =>
    if !nbit mask.toNat b.val || mask.toNat ||| E.j.mask ≠ E.j.mask || x.forks ≠ [] || x.lx.any (·.creg) then .error 0x33
    else .ok [x.upV fun v => { v with p := p.musterStep id.toNat w }]
  | .focus reg rel rs imm32 =>
    if focusOut E b reg rel rs imm32 x.v then .error 0x35
    else .ok [{ (x.upV (dataVals E b i)) with fpc := some p.pc }]
  | _ => .ok [x.upV (dataVals E b i)]

/-- The stroke that an instruction is. -/
def strokeOf : PInstr → Option (StrokeKind × StrokeArgs)
  | .mark a => some (.mark, a)
  | .jump a => some (.jump, a)
  | .arc a => some (.arc, a)
  | .spot a => some (.spot, a)
  | _ => none

/-- A stroke that may come next: the path at it; whether nothing that breaks a joint lies before it (R516); the places
passed on the way. -/
structure Peek where
  x : WPath
  kind : StrokeKind
  a : StrokeArgs
  clean : Bool
  seen : List Key
  deriving DecidableEq, Repr

/-- What may come next on a path, with waits taken as 0: a stroke, or none where it halts first. -/
def peek (E : WEnv) (b : Beam) : Nat → Bool → List Key → WPath → List (Option Peek)
  | 0, _, _, _ => []
  | k + 1, clean, seen, x =>
    let p := x.v.p
    match E.instr b p.pc with
    | .error _ => []
    | .ok (i, _) =>
      match strokeOf i with
      | some (kind, a) => [some { x := x, kind := kind, a := a, clean := clean, seen := p.key :: seen }]
      | none =>
        let soft : Bool := match i with
          | .loop true rc _ _ => !x.v.knows rc
          | .endl _ => x.lx.head?.any (·.unk)
          | _ => false
        match ctlPath E b 0 i 0 x with
        | .error _ => []
        | .ok [] => [none]
        | .ok l => l.flatMap fun y => peek E b k (clean && !soft && l.length == 1) (p.key :: seen) y

/-- A place in the order of the program: begin and iteration of each open loop, outermost first, and the word. -/
def placeOf (p : PState) : List Nat := (p.loops.reverse.flatMap fun e => [e.start, e.iter]) ++ [p.pc]

/-- The order of places. -/
def placeLt : List Nat → List Nat → Bool
  | a :: l, b :: m => a < b || (a == b && placeLt l m)
  | _, _ => false

/-- The places that a path can come to up to the place `lim` (R516). -/
def reach (E : WEnv) (b : Beam) (lim : List Nat) : Nat → WPath → List Key
  | 0, _ => []
  | k + 1, x =>
    let p := x.v.p
    if placeLt lim (placeOf p) then []
    else
      match E.instr b p.pc with
      | .error _ => [p.key]
      | .ok (i, n) =>
        match strokeOf i with
        | some (_, a) =>
          let o := p.strokeOps a
          p.key :: reach E b lim k (x.upV fun v => { v with p :=
            { p with px := i32 o.p1.x, py := i32 o.p1.y, pc := p.pc + n, window := 0, waits := 0 } })
        | none =>
          match ctlPath E b 0 i 0 x with
          | .error _ => [p.key]
          | .ok l => p.key :: l.flatMap (reach E b lim k)

/-- A ZREL comes before the next stroke on a path (R124). -/
def relAhead (E : WEnv) (b : Beam) : Nat → WPath → Bool
  | 0, _ => false
  | k + 1, x =>
    match E.instr b x.v.p.pc with
    | .error _ => false
    | .ok (.zrel, _) => true
    | .ok (i, _) =>
      if (strokeOf i).isSome then false
      else match ctlPath E b 0 i 0 x with
        | .ok [y] => relAhead E b k y
        | _ => false

end Sys2Proof.Machine
end

