-- ==== Sys2Proof/Machine/WalkStep.lean ====
section
/-! DEFINITION. The walk of one beam program: strokes with their joints, checks and decode lead, and the meeting of paths
(R94, R99, R101, R104, R110 to R118, R140, R154, R516, R519). -/

namespace Sys2Proof.Machine

/-- A zone bracket as the walk meets it (R273, R274). -/
structure Bracket where
  key : Key
  set : Nat
  /-- Request and release, JT. -/
  p : Nat
  rel : Nat
  /-- It lies on an unresolved branch or in a loop of unknown count. -/
  gen : Bool
  /-- It is treated as uncertain. -/
  unc : Bool
  open_ : Bool
  deriving DecidableEq, Repr

/-- The sides of unresolved branches on which something lies: branch, side. -/
abbrev Tags := List (Nat × Bool)

/-- A stroke that places light, for the fabric and heat checks (R156, R157). -/
structure Lit where
  beam : Nat
  st : Stroke
  prev : Option Stroke
  next_ : Option Stroke
  pow : Nat
  chg : Bool
  tags : Tags
  deriving DecidableEq, Repr

/-- What the walk of a beam has found. Lists are newest first. -/
structure WOut where
  begins : List (Key × Nat)
  ends : List (Key × Nat)
  slots : List (Key × Nat)
  blends : List Key
  waits : List (Key × Nat)
  merges : List (Key × Merge)
  code : List (Nat × PInstr)
  /-- Branches walked with their targets, LOOPs with their ENDLs, words 1 and 2 of strokes (R98, R110). -/
  brs : List (Nat × Nat)
  lps : List (Nat × Nat)
  mid : List Nat
  /-- End of the slot of the last exposure (R154). -/
  gEnd : Nat
  lits : List Lit
  /-- LGQs: program time. -/
  lgqs : List (Nat × Tags)
  brks : List Bracket
  /-- Releases not yet handed to the arbiter, oldest first. -/
  rels : List Nat
  /-- Finishes with the strokes of their paths, and where they leave the head and its focus. -/
  fins : List (Nat × Nat)
  rest : List (Nat × Pt × Int)
  deriving DecidableEq, Repr

namespace WPath

/-- The sides of branches on which the path lies. -/
def tags (b : Beam) (x : WPath) : Tags := x.forks.filterMap fun f => f.side.map fun s => (16 * f.id + b.val, s)

/-- The key of its next instruction. -/
def key (x : WPath) : Key := x.v.p.key

/-- The schedule at this point as a merge gives it (R99). -/
def merge (x : WPath) : Merge :=
  { base := x.v.p.progEnd + x.v.p.waits, count := x.v.p.window, rel := x.v.p.lastEnd }

/-- Another branch of the job may end here: a bracket opened here is uncertain (R273). -/
def loose (x : WPath) : Bool := x.forks != [] || x.lx.any (·.unk)

end WPath

/-! Strokes. -/

/-- An ARC that R121 allows; one whose length rounds to 0 is none (`rawStroke`; DESIGN CHOICE, log entry 100). -/
def arcOk (y : Stroke) : Bool :=
  let g := y.geo
  let r := min g.r0 g.r1
  1000 ≤ r && max g.r0 g.r1 ≤ r + 1000 && ((y.v.mul y.v).div (Q.ofInt r)).le y.a

/-- The stroke of an instruction with everything that does not depend on its neighbours, and its power fraction for the heat
bound (R88, R97, R112, R114, R119, R121, R133, R184). -/
def rawStroke (E : WEnv) (b : Beam) (kind : StrokeKind) (a : StrokeArgs) (x : WPath) : Except Nat (Stroke × Nat) :=
  let p := x.v.p
  let pair (w : DWord) : Bool := !fRegXY a.flags || (x.v.knowsN (w.toNat / 2 ^ 32) && x.v.knowsN w.toNat)
  let known := pair a.w1 && (kind != .arc || pair a.w2) && (!fRegSpd a.flags || x.v.knowsN a.speed.toNat) &&
    (!fRegPwr a.flags || x.v.knowsN a.power.toNat) && !((x.v.ux || x.v.uy) && (fRel a.flags || kind.isPath))
  let spd := if fRegSpd a.flags then (p.grN a.speed.toNat).toNat else a.speed.toNat
  let pwr := if fRegPwr a.flags then (p.grN a.power.toNat).toNat else a.power.toNat
  if E.count b ≤ a.profile.toNat then .error 0x26
  else if !known then .error 0x2A
  else if spd = 0 ∨ 2 ^ 24 ≤ spd ∨ 2 ^ 16 ≤ pwr then .error 0x29
  else
    let o := p.strokeOps a
    let f := E.prof b o.profile
    let p0 : Pt := ⟨p.px.toInt, p.py.toInt⟩
    let w := Stroke.raw kind a o f p p0 ⟨0, 0⟩
    let rejoin := if p.rerun then (E.s.be[b]).stop.bind StopRec.rejoin else none
    let y := match rejoin with
      | some r => rerunOf r kind a o f p p0 ⟨0, 0⟩
      | none => w
    if kind.isPath ∧ (w.geo.len = 0 ∨ (kind = .arc ∧ !arcOk w) ∨ !rampOk f.runup w.v w.a ∨ !rampOk f.runout w.v w.a) then
      .error 0x29
    else .ok (y, if x.v.ups then min (scaled16 pwr 0xFFFF) f.pMax else o.power)

/-- The origin and the extent of the field-correction grid of the head (R118). -/
def fieldBox (E : WEnv) (b : Beam) : Int × Int × Int :=
  let q := E.s.fieldSlot b
  (E.s.setI32 q 8, E.s.setI32 q 12, 256 * E.s.setPitch q)

/-- A point lies in a field-correction grid (R118). -/
def inBox (f : Int × Int × Int) (p : QPt) : Bool :=
  let on (c : Q) (lo : Int) : Bool := (Q.ofInt lo).le c && c.le (Q.ofInt (lo + f.2.2))
  on p.x f.1 && on p.y f.2.1

/-- The grid of the ledger cells (R234). -/
def cellGrid (s : State) : Squares :=
  { x := (s.ldg.geo[4]).toInt, y := (s.ldg.geo[5]).toInt, side := s.ldgPitch }

/-- The swept path of a stroke on the bed (R104, R118). -/
def sweepOn (E : WEnv) (b : Beam) (y : Stroke) (prev next_ : Option Stroke) : List QPt :=
  let f := fieldBox E b
  y.sweep (cellGrid E.s) ([f.1, f.1 + f.2.2], [f.2.1, f.2.1 + f.2.2]) prev next_

/-- The cells that the kernel reaches from a cell. -/
def around (c : Int × Int) : List (Int × Int) :=
  (List.range 9).map fun k => (c.1 + (k % 3 : Nat) - 1, c.2 + (k / 3 : Nat) - 1)

/-- The paddock of a cell; none outside every square (R258). -/
def padAt (E : WEnv) (c : Int × Int) : Option (Nat × Nat) :=
  let a := E.j.zoneMap
  let side : Int := 2 ^ E.s.rdN (a + 6) 1
  let i := c.1 / side
  let j := c.2 / side
  if 0 ≤ i ∧ i < E.s.rdN (a + 8) 2 ∧ 0 ≤ j ∧ j < E.s.rdN (a + 10) 2 then some (i.toNat, j.toNat) else none

/-- A paddock is shared (R260). -/
def padShared (E : WEnv) (p : Nat × Nat) : Bool :=
  let a := E.j.zoneMap
  let k := p.2 * E.s.rdN (a + 8) 2 + p.1
  nbit (E.s.rdByte (a + 64 + k / 8)).toNat (k % 8)

/-- Set `k` of the map (R260). -/
def mapSet (E : WEnv) (k : Nat) : PadSet :=
  let a := E.j.zoneMap
  let o := a + 64 + 8 * cdiv (E.s.rdN (a + 8) 2 * E.s.rdN (a + 10) 2) 64 + 8 * k
  (E.s.rdN o 2, E.s.rdN (o + 2) 2, E.s.rdN (o + 4) 2, E.s.rdN (o + 6) 2)

/-- The zone rule for a stroke that places light, over its whole slot with the bridge or the move of a SPOT: 0,
ZONE_UNBRACKETED or ZONE_OUTSIDE (R104, R118). -/
def zoneRule (E : WEnv) (b : Beam) (y : Stroke) (prev next_ : Option Stroke) : Nat :=
  if E.j.zoneMap = 0 then 0
  else
    let cells := ((cellGrid E.s).chain (sweepOn E b y prev next_)).dedup
    let pads := ((cells.flatMap around).map (padAt E)).dedup
    if !(pads.any fun p => p.any (padShared E)) then 0
    else match y.snap.held with
      | none => 0x30
      | some k =>
        let (i0, i1, j0, j1) := mapSet E k
        if pads.all fun p => p.any fun q => i0 ≤ q.1 && q.1 ≤ i1 && j0 ≤ q.2 && q.2 ≤ j1 then 0 else 0x31

/-- The gate rule of R118. -/
def gateRule (y : Stroke) : Bool :=
  y.gOn.all (fun g => decide (8 * ((y.slotAt + y.tBr : Nat) : Int) ≤ g)) &&
    y.gOff.all fun g => decide (g ≤ 8 * (y.slotEnd : Int))

/-- The checks of a stroke that is closed: 0, or the code (R104, R115, R118, R175). -/
def strokeRule (E : WEnv) (b : Beam) (y : Stroke) (prev next_ : Option Stroke) : Nat :=
  let plan := !y.kind.isPath || (pathPlan (Q.ofInt y.geo.len) y.vIn y.vOut y.v y.a).isSome
  let joint := !y.blendOut || next_.all fun z => (Stroke.joint y z).ok
  if !plan || !joint || !gateRule y then 0x29
  else if !(sweepOn E b y prev next_).all (inBox (fieldBox E b)) then 0x35
  else if y.light then zoneRule E b y prev next_ else 0

/-- A violation of a beam program. -/
def progViol (b : Beam) (code pc time : Nat) : Viol := { code := code, obj := 1, beam := b.val, off := pc, time := time }

/-- The last stroke of a path is checked and, where it places light, kept for the heat check. -/
def settleLast (E : WEnv) (b : Beam) (next_ : Option Stroke) (x : WPath) (o : WOut) : Except Viol WOut :=
  match x.last with
  | none => .ok o
  | some y =>
    let c := strokeRule E b y x.prev next_
    if c ≠ 0 then .error (progViol b c y.key.pc y.slotAt)
    else if y.light then
      .ok { o with lits := ⟨b.val, y, x.prev, next_, x.pow, x.chg, x.tags b⟩ :: o.lits, gEnd := max o.gEnd y.slotEnd }
    else .ok o

/-- The stroke of a list that ends last. -/
def longest (y : Stroke) (l : List Stroke) : Stroke := l.foldl (fun a z => if a.slotEnd < z.slotEnd then z else a) y

/-- A stroke that nothing is blended into. -/
def closeAlone (y : Stroke) : Stroke := { y.withGates with fixed := true }

/-- A JUMP before what follows it: the stroke `z`, or a HALT, before which it ends at its coded P1 (R115). -/
def jumpTo (w : Stroke) : Option Stroke → Stroke
  | some z => Stroke.closeWith w z false
  | none => closeAlone w

/-- The JUMP `y` from each mirror point towards each stroke, or HALT, that may come next on `x`, and whether its targets
differ (R115). -/
def jumpEnds (E : WEnv) (b : Beam) (y : Stroke) (ms : List Pt) (x : WPath) : List Stroke × Bool :=
  let next_ : List (Option Stroke) := (peek E b E.limit true [] x).filterMap fun q => match q with
    | none => some none
    | some q => match rawStroke E b q.kind q.a q.x with
      | .ok r => some (some r.1)
      | .error _ => none
  let next_ := if next_.isEmpty then [none] else next_
  let from_ := ms.map fun m => y.timed y.slotAt m none
  (from_.flatMap fun w => next_.map (jumpTo w), 1 < (next_.map fun z => (jumpTo y z).q0).dedup.length)

/-- A path after its stroke `y`. -/
def afterPlace (x : WPath) (y : Stroke) (words : Nat) (blend : Bool) (dc : Int) (pow : Nat) (ms : List Pt) : WPath :=
  { x with
    v := { x.v with p := x.v.p.afterStroke y words y.slotEnd, ux := false, uy := false, ms := ms }
    last := some y, prev := if blend then x.last else none, next_ := none, chk := false, openJ := none, dc := dc
    ends := (y.slotEnd :: x.ends).take 64, fpc := none, ns := x.ns + 1, pow := pow
    chg := y.light && x.exp.any (· != y.profile), exp := if y.light then some y.profile else x.exp }

/-- A stroke in the record of the walk. -/
def WOut.stroke (y : Stroke) (blend : Bool) (o : WOut) : WOut :=
  { o with begins := (y.key, y.startAt) :: o.begins, ends := (y.key, y.slotEnd) :: o.ends
           slots := (y.key, y.slotAt) :: o.slots
           blends := if blend then y.key :: o.blends else o.blends }

/-- The path after a step, and the one to return to where a blended joint does not come about. -/
structure Placed where
  x : WPath
  o : WOut
  back : Option (WPath × WOut)

/-- Another path of the program may come to a place that this one passes: a meeting point may lie there (R516). -/
def mayMeet (E : WEnv) (b : Beam) (others : List WPath) (q : Peek) : Bool :=
  others.any fun o =>
    (reach E b (placeOf q.x.v.p) E.limit o).any fun k => q.seen.contains k

/-- The one stroke that surely comes next on a path, with zero idle time and wait where `exact` (R94, R516). -/
def sureNext (E : WEnv) (b : Beam) (others : List WPath) (exact : Bool) (x : WPath) : Option Stroke :=
  match peek E b E.limit true [] x with
  | [some q] =>
    if !q.clean || mayMeet E b others q || (exact && (q.x.v.p.idle != 0 || q.x.v.p.waits != 0)) then none
    else match rawStroke E b q.kind q.a q.x with
      | .ok r => some r.1
      | .error _ => none
  | _ => none

/-- MARK or ARC `y` on a path: blended with the stroke that surely comes next, tentatively, or closed alone (R94, R117). -/
def placePath (E : WEnv) (b : Beam) (others : List WPath) (after : Stroke → WPath) (rec_ : Stroke → WOut) (y : Stroke) :
    Except Viol Placed :=
  let y1 := closeAlone y
  let x1 := after y1
  let alone : Except Viol Placed := match settleLast E b none x1 (rec_ y1) with
    | .ok o => .ok ⟨x1, o, none⟩
    | .error e => .error e
  match sureNext E b others false x1 with
  | none => alone
  | some z =>
    if !Stroke.mayBlend y z then alone
    else
      let y2 := Stroke.closeWith y z true
      let x2 := { after y2 with next_ := some z }
      match sureNext E b others true x2 with
      | none => alone
      | some z2 =>
        if z2 = { z with snap := z2.snap } then .ok ⟨x2, rec_ y2, some ({ x1 with chk := true }, rec_ y1)⟩ else alone

/-- A stroke on a path, at its slot's begin (R78, R113 to R122, R134, R140). Where paths that met left the mirror at
different points, its bridge is timed with the longest slot over these, and after a JUMP whose next stroke an unresolved
branch decides, program time up to that branch runs from the longest of its slots (DESIGN CHOICE, log entry 100). -/
def placeStroke (E : WEnv) (b : Beam) (others : List WPath) (kind : StrokeKind) (a : StrokeArgs) (x : WPath) (o : WOut) :
    Except Viol Placed := do
  let p := x.v.p
  let t := p.time
  let (y0, pow) ← match rawStroke E b kind a x with
    | .ok r => .ok r
    | .error c => .error (progViol b c p.pc t)
  need (!kind.isPath || x.fpc.isNone) (progViol b 0x29 (x.fpc.getD 0) t)
  let blend := x.next_.isSome
  let o ← if blend then settleLast E b (some y0) x o else .ok o
  let j := if blend then x.last.map fun l => Stroke.joint l y0 else none
  let ts := x.v.ms.map fun m => y0.timed t m j
  let y := longest (y0.timed t (x.v.ms.headD ⟨0, 0⟩) j) ts
  let d := x.dc + (if kind = .arc then 12 else 4)
  need (d + 1024 ≤ (t : Int)) (progViol b 0x43 p.pc t)
  let x0 := if blend then { x with prev := none } else x
  match kind with
  | .spot =>
    let y := closeAlone y
    let x' := afterPlace x0 y kind.words blend d pow [y.endPt]
    let o ← settleLast E b none x' (o.stroke y false)
    .ok ⟨x', o, none⟩
  | .jump =>
    let l := jumpEnds E b y x.v.ms (afterPlace x0 y kind.words blend d pow [])
    for z in l.1 do
      let c := strokeRule E b z none none
      need (c == 0) (progViol b c p.pc t)
    let z := longest (l.1.headD y) l.1
    let x' := afterPlace x0 z kind.words blend d pow ((l.1.map Stroke.endPt).dedup)
    .ok ⟨{ x' with openJ := if l.2 then some (y, x.v.ms) else none }, o.stroke z false, none⟩
  | _ =>
    placePath E b others (fun z => afterPlace x z kind.words blend d pow [z.endPt]) (fun z => o.stroke z blend) y

/-! Control instructions. -/

/-- A path whose open JUMP is timed anew for the strokes that may follow on it, with its schedule (R115). -/
def retime (E : WEnv) (b : Beam) (x : WPath) : WPath :=
  match x.openJ with
  | none => x
  | some (y, ms) =>
    let l := jumpEnds E b y ms x
    let z := longest (l.1.headD y) l.1
    let e := z.slotEnd
    { (x.upV fun v => { v with p := { v.p with progEnd := e, lastEnd := e }, ms := (l.1.map Stroke.endPt).dedup }) with
      ends := e :: x.ends.drop 1, openJ := if l.2 then x.openJ else none }

/-- What a step asks of the other programs. -/
inductive Ask where
  | none
  | zacq (set p : Nat)
  | muster (id mask : Nat) (cell : Bool) (p inst : Nat)
  deriving DecidableEq, Repr

/-- The outcome of a step on a path. -/
structure WStep where
  paths : List WPath
  o : WOut
  back : Option (WPath × WOut)
  ask : Ask

/-- Where fetch has delivered `bytes` to decode, JT; no limit without a reserved slot (R519). -/
def fetchAt (E : WEnv) (b : Beam) (bytes : Nat) : Int :=
  let r := (E.s.fab.live.toList.filter fun e => nbit e.toNat 7 && e.toNat % 64 == b.val).length
  if r = 0 then -16384 else 4096 * ((cdiv bytes (256 * r - 64) : Nat) - 4) + 512

/-- Where the FIFO has room for decode to go on, JT: it holds the last 64 strokes until the oldest of them ends (R140). -/
def fifoAt (ends : List Nat) : Int := if 64 ≤ ends.length then ((ends.getD 63 0 : Nat) : Int) else -16384

/-- A BR against the LOOPs and strokes walked (R98, R110): its code, or 0. -/
def brRule (o : WOut) (pc tgt : Nat) : Nat :=
  if o.mid.contains tgt then 0x29
  else if o.lps.any fun l => pc < l.1 && l.1 < tgt && tgt ≤ l.2 then 0x2C else 0

/-- A BR or LOOP against what was walked before (R98, R110). -/
def jumpRule (b : Beam) (i : PInstr) (pc t : Nat) (o : WOut) : Except Viol Unit :=
  match i with
  | .br _ off => need (brRule o pc (pc + off.toNat) == 0) (progViol b (brRule o pc (pc + off.toNat)) pc t)
  | .loop _ _ _ body =>
    match o.brs.find? fun r => r.1 < pc && pc < r.2 && r.2 ≤ pc + body.toNat with
    | some r => .error (progViol b 0x2C r.1 t)
    | none => .ok ()
  | _ => .ok ()

/-- A HALT against what its path has open: a FOCUS with no stroke after it (R134), and an unresolved branch that a set was
held at (R104). -/
def haltRule (b : Beam) (i : PInstr) (x : WPath) : Except Viol Unit :=
  let t := x.v.p.count.time
  if i ≠ .halt then .ok ()
  else match x.fpc, x.forks.find? fun (f : Fork) => f.held with
    | some pc, _ => .error (progViol b 0x29 pc t)
    | none, some f => .error (progViol b 0x32 f.pc t)
    | none, none => .ok ()

/-- The bracket of a ZACQ that was granted after `w`. -/
def openBracket (x : WPath) (set w : Nat) (cert : Bool) (o : WOut) : WOut :=
  { o with
    waits := (x.key, w) :: o.waits
    brks := { key := x.key, set := set, p := x.v.p.count.time, rel := x.v.p.count.time, gen := x.loose, unc := !cert
              open_ := true } :: o.brks }

/-- The bracket of a ZREL ends with the slot before it; a certain one is released in the arbiter (R105, R124). -/
def closeBracket (x : WPath) (o : WOut) : WOut :=
  let t := x.v.p.lastEnd
  let mine (k : Bracket) : Bool := k.open_ && some k.key == x.zkey
  let unc := (o.brks.find? mine).any (·.unc)
  { o with
    brks := o.brks.map fun k => if mine k then { k with rel := max k.p t, open_ := false } else k
    rels := if unc || x.relDone then o.rels else o.rels ++ [t] }

/-- What a control instruction leaves in the record of the walk. -/
def ctlOut (b : Beam) (i : PInstr) (w : Nat) (cert : Bool) (x : WPath) (l : List WPath) (o : WOut) : WOut :=
  let p := x.v.p
  let t := p.count.time
  match i with
  | .zacq set => openBracket x set.toNat w cert o
  | .zrel => closeBracket x o
  | .muster _ _ _ => { o with waits := (x.key, w) :: o.waits }
  | .lgq _ _ _ _ => { o with lgqs := (t, x.tags b) :: o.lgqs }
  | .halt => { o with fins := (t, x.ns) :: o.fins, rest := (t, x.v.ms.headD ⟨0, 0⟩, p.pz.toInt) :: o.rest }
  | .br _ off => if o.brs.any (·.1 = p.pc) then o else { o with brs := (p.pc, p.pc + off.toNat) :: o.brs }
  | .loop _ _ _ body => if o.lps.any (·.1 = p.pc) then o else { o with lps := (p.pc, p.pc + body.toNat) :: o.lps }
  | .endl _ =>
    if x.lx.head?.any (·.unk) then
      { o with merges := (l.filter fun y => y.lx.length < x.lx.length).map (fun y => (y.key, y.merge)) ++ o.merges }
    else o
  | _ => o

/-- One control instruction on a path, its decode tick counted (R99, R102, R140). -/
def stepCtl (E : WEnv) (b : Beam) (fid : Nat) (i : PInstr) (w : Nat) (cert : Bool) (x : WPath) (o : WOut) :
    Except Viol WStep := do
  let p := x.v.p
  let t := p.count.time
  let fail (c pc : Nat) : Viol := progViol b c pc t
  let x := match i with
    | .lgq _ _ _ _ => { x with dc := max x.dc ((t : Int) - 3072) + 1 }
    | _ => { x with dc := x.dc + 1 }
  jumpRule b i p.pc t o
  haltRule b i x
  match ctlPath E b fid i w x with
  | .error c => .error (fail c p.pc)
  | .ok l =>
    let o := ctlOut b i w cert x l o
    let l : List WPath := match i with
      | .zacq _ => l.map fun y => { y with zkey := some x.key }
      | .zrel => l.map fun y => { y with zkey := none }
      | _ => l
    if 2 ≤ l.length then
      need (l.all fun y => y.forks.length ≤ 8) (fail 0x2E p.pc)
      let l' := if x.openJ.isSome then l.map (retime E b) else l
      let o := if x.openJ.isSome then { o with merges := l'.map (fun y => (y.key, y.merge)) ++ o.merges } else o
      .ok ⟨l', o, none, Ask.none⟩
    else .ok ⟨l, o, none, Ask.none⟩

/-- One instruction on a path; `w` is the wait of a ZACQ or MUSTER once the other programs have given it. -/
def stepPath (E : WEnv) (b : Beam) (others : List WPath) (fid : Nat) (w : Option Nat) (cert : Bool) (x : WPath) (o : WOut) :
    Except Viol WStep := do
  let o ← if x.chk && x.next_.isNone then settleLast E b none x o else .ok o
  let x := if x.next_.isNone then { x with chk := false } else x
  let p := x.v.p
  let (i, nw) ← match E.instr b p.pc with
    | .ok r => .ok r
    | .error c => .error (progViol b c p.pc x.time)
  let form (q : Ask) : Except Viol WStep := match ctlPath E b fid i 0 x with
    | .ok _ => .ok ⟨[x], o, none, q⟩
    | .error c => .error (progViol b c p.pc p.count.time)
  match w, i with
  | none, .zacq set => form (.zacq set.toNat p.count.time)
  | none, .muster id cell mask => form (.muster id.toNat mask.toNat cell p.count.time (p.passedOf id.toNat))
  | _, _ =>
    let x : WPath := { x with forks := x.forks.map (fun (f : Fork) => { f with n := f.n + 1 }), fb := x.fb + 8 * nw }
    need (x.forks.all fun f => f.n ≤ 4096) (progViol b 0x2E p.pc x.time)
    let x := { x with dc := max (max x.dc (fetchAt E b x.fb)) (fifoAt x.ends) }
    let o := if o.code.any (·.1 = p.pc) then o else { o with code := (p.pc, i) :: o.code }
    match strokeOf i with
    | some (kind, a) =>
      let mids := (List.range (nw - 1)).map fun k => p.pc + 1 + k
      match o.brs.find? fun r => mids.contains r.2 with
      | some r => .error (progViol b 0x29 r.1 x.time)
      | none =>
        let o := if o.mid.contains (p.pc + 1) then o else { o with mid := mids ++ o.mid }
        let r ← placeStroke E b others kind a x o
        .ok ⟨[r.x], r.o, r.back, Ask.none⟩
    | none => stepCtl E b fid i (w.getD 0) cert x o

/-! A beam. -/

/-- What a beam's walk waits for. -/
inductive WBlk where
  | run
  | ask (q : Ask)
  | fin
  deriving DecidableEq, Repr

/-- The walk of a beam program. -/
structure WBeam where
  b : Beam
  paths : List WPath
  /-- The branches of each path that reached HALT. -/
  halted : List (List Nat)
  nf : Nat
  o : WOut
  blk : WBlk
  deriving DecidableEq, Repr

/-- The path that moves next: a tentative one, else the one at the lowest place. -/
def pickPath (l : List WPath) : Option (WPath × List WPath) :=
  let best := match l.findIdx? (·.next_.isSome) with
    | some i => some i
    | none => (l.zipIdx.foldl (fun (a : Option (Nat × Nat)) y => match a with
        | none => some (y.1.v.p.pc, y.2)
        | some m => if y.1.v.p.pc < m.1 then some (y.1.v.p.pc, y.2) else a) none).map (·.2)
  match best with
  | some i => (l[i]?).map fun x => (x, l.eraseIdx i)
  | none => none

/-- Two paths that meet: the larger of each quantity of the schedule, and what both know (R96, R99). -/
def meetPaths (d : Nat → Word) (x y : WPath) : WPath :=
  let n := max x.v.p.window y.v.p.window
  let t := max x.time y.time
  let late := if x.time < y.time then y else x
  let ids (z : WPath) := z.forks.map (·.id)
  let both := x.forks.map fun f => match y.forks.find? (·.id = f.id) with
    | some g => { f with n := max f.n g.n, side := if f.side = g.side then f.side else none }
    | none => f
  { x with
    v := let v := x.v.join d y.v
         { v with p := { v.p with progEnd := t - 2 * (n - 48), window := n, waits := 0
                                  lastEnd := max x.v.p.lastEnd y.v.p.lastEnd
                                  focusPend := x.v.p.focusPend || y.v.p.focusPend } }
    lx := (x.lx.zip y.lx).map fun l => { l.1 with acc := l.1.acc.join d l.2.acc }
    forks := both ++ y.forks.filter fun f => !(ids x).contains f.id
    last := none, prev := none, next_ := none, chk := false, openJ := none, dc := max x.dc y.dc, fb := max x.fb y.fb
    ends := (x.ends.zip y.ends).map (fun e => max e.1 e.2) ++ (late.ends.drop (min x.ends.length y.ends.length))
    fpc := if x.fpc.isSome then x.fpc else y.fpc, ns := late.ns, exp := if x.exp = y.exp then x.exp else some 256 }

namespace WBeam

/-- A path put among the others; at a place where another one stands they meet (R99, R104). -/
def put (E : WEnv) (y : WPath) (x : WBeam) : Except Viol WBeam :=
  match x.paths.find? fun z => z.key = y.key with
  | none => .ok { x with paths := y :: x.paths }
  | some z =>
    if z.v.p.held ≠ y.v.p.held then .error (progViol x.b 0x32 ((y.forks.head?.map (·.pc)).getD y.v.p.pc) y.time)
    else
      let m := meetPaths (E.scr0 x.b) z y
      .ok { x with paths := m :: x.paths.filter fun w => w.key ≠ y.key
                   o := { x.o with merges := (m.key, m.merge) :: x.o.merges } }

/-- The branches that no other path has any more are resolved; each must leave brackets as it found them (R99, R104). -/
def resolve (x : WBeam) : Except Viol WBeam :=
  let openId (y : WPath) (k : Nat) : Bool :=
    x.halted.any (fun (h : List Nat) => h.contains k) ||
      x.paths.any fun (z : WPath) => decide (z.key ≠ y.key) && z.forks.any fun (f : Fork) => f.id == k
  match x.paths.findSome? fun y => y.forks.find? fun (f : Fork) => !openId y f.id && f.held != y.v.p.held.isSome with
  | some f => .error (progViol x.b 0x32 f.pc ((x.paths.map WPath.time).foldl max 0))
  | none => .ok { x with paths := x.paths.map fun y => { y with forks := y.forks.filter fun (f : Fork) => openId y f.id } }

/-- One instruction of the beam, with the beam to return to where it becomes tentative. -/
def step (E : WEnv) (w : Option Nat) (cert : Bool) (x : WBeam) : Except Viol (WBeam × Option WBeam) := do
  match pickPath x.paths with
  | none => .ok ({ x with blk := .fin }, none)
  | some (y, others) =>
    let r ← stepPath E x.b others x.nf w cert y x.o
    if r.ask ≠ Ask.none then .ok ({ x with paths := r.paths ++ others, o := r.o, blk := .ask r.ask }, none)
    else
      let z := { x with paths := others, o := r.o, nf := x.nf + 1, blk := .run
                        halted := if r.paths.isEmpty then y.forks.map (fun (f : Fork) => f.id) :: x.halted else x.halted }
      let z ← r.paths.foldlM (fun a p => a.put E p) z
      let z ← z.resolve
      .ok (z, r.back.map fun k => { x with paths := k.1 :: others, o := k.2, nf := x.nf + 1, blk := .run })

/-- A path is tentative. -/
def tentative (x : WBeam) : Bool := x.paths.any (·.next_.isSome)

/-- No event of the beam that the others see comes before this program time. -/
def bound (x : WBeam) : Nat :=
  match x.paths.map fun y => if y.v.p.held.isSome || y.next_.isSome then y.v.p.lastEnd else y.time with
  | [] => 0
  | t :: l => l.foldl min t

/-- Where the program leaves the head and its focus on its latest path (R149). -/
def rest (x : WBeam) : Option (Pt × Int) :=
  (x.o.rest.foldl (fun (a : Option (Nat × Pt × Int)) f => match a with
    | some m => if m.1 ≤ f.1 then some f else some m
    | none => some f) none).map (·.2)

/-- The beam's finish and the strokes of its latest path (R138, R154, R164). -/
def finish (x : WBeam) : Nat × Nat := x.o.fins.foldl (fun a f => if a.1 ≤ f.1 then f else a) (0, 0)

/-- The latest program time walked (R164). -/
def reached (x : WBeam) : Nat := (x.paths.map WPath.time).foldl max x.finish.1

end WBeam

end Sys2Proof.Machine
end

