-- ==== Sys2Proof/Machine/WalkMach.lean ====
section
/-! DEFINITION. The walk of a machine program: every pitch planned as it is issued (R316, R319, R325, R326, R329, R330). -/

namespace Sys2Proof.Machine

/-- An axis as the walk plans it: where it stands, the last target issued, its pitches with the JT of their issue, oldest
first. -/
structure WAxis where
  p0   : Q
  last : Int
  list : List (Pitch × Nat)
  deriving DecidableEq, Repr

/-- The ends of pitches that follow each other from JT `t`, position `p` and entry speed `vi`; a pitch not yet issued when the
one before it begins is entered from rest (R319). -/
def planEnds (t : Nat) (p vi : Q) : List (Pitch × Nat) → List Nat
  | [] => []
  | (k, issued) :: rest =>
    let b := if vi.isZero then max t issued else t
    let next_ := match rest with
      | (n, i) :: _ => if i ≤ b then some n else none
      | [] => none
    let vo := exitSpeed p vi k next_
    let e := segsEnd b (pitchSegs b p vi vo k)
    e :: planEnds e (Q.ofInt k.tgt) vo rest

/-- The scheduled ends of an axis's pitches. -/
def WAxis.ends (x : WAxis) : List Nat := planEnds 0 x.p0 ⟨0, 1⟩ x.list

/-- The scheduled end of its last pitch; 0 with none. -/
def WAxis.finish (x : WAxis) : Nat := (x.ends.getLast?).getD 0

/-- The walk of a machine program. -/
structure WMach where
  pc    : Nat
  time  : Nat
  axis  : List (Nat × WAxis)
  count : Nat
  fin   : Bool
  deriving DecidableEq, Repr

/-- An axis at the start, with the last target issued on it: for an AFTER_PREV job behind one that names it too, at that one's
final target; a remainder first runs the pitches kept (R150, R325, R329, R331). -/
def WEnv.axis0 (E : WEnv) (a : Axis) : WAxis :=
  let x := E.s.ax[a]
  let p := E.s.axPos a E.s.tick
  if E.j.remainder then { p0 := p, last := x.lastTgt, list := x.kept.map fun k => (k, 0) }
  else
    let t : Option Int := match E.s.runSlot with
      | some r => if E.j.mode = 2 ∧ nbit (E.s.jobAxes r) a.val then
          (E.s.js r).promise.bind fun p => sget a.val p.axLast
        else none
      | none => none
    { p0 := (t.map Q.ofInt).getD p, last := t.getD x.lastTgt, list := [] }

/-- The machine program at its start (R329); a remainder's goes on after the last MMOVE issued, once the kept pitches have
run (R325). -/
def WEnv.mach0 (E : WEnv) : WMach :=
  let axes := ((List.finRange 16).filter fun x => nbit (E.s.jobAxes E.n) x.val).map fun x => (x.val, E.axis0 x)
  { pc := if E.j.remainder then E.s.mach.resumePc else E.s.imgEntry E.j.machAddr
    time := (axes.map fun x => x.2.finish).foldl max 0, count := 0, fin := false, axis := axes }

namespace WMach

/-- An axis takes no move of a job: it is OFF, in EL1 motion mode or wants its reference (R322, R326, R329). -/
def axisBarred (s : State) (a : Axis) : Bool := s.axKind a == 0 || s.axEl1 a || s.axNotHomed a

/-- A target is outside the soft limits or the range of a position (R315, R326). -/
def tgtBarred (s : State) (a : Axis) (t : Int) : Bool := !s.axInLimits a t || decide (t ≠ satS 32 t)

/-- The violation of the pitches that a remainder runs first, checked before its first instruction (R325, R326). -/
def keptViol (E : WEnv) (m : WMach) : Option Nat :=
  m.axis.findSome? fun x =>
    let a : Axis := Fin.ofNat 16 x.1
    if m.count ≠ 0 ∨ x.2.list.isEmpty then none
    else if axisBarred E.s a then some 0x52
    else if x.2.list.any fun k => tgtBarred E.s a k.1.tgt then some 0x51
    else none

/-- MMOVE: the pitch, or its violation (R316, R326, R329). -/
def move (E : WEnv) (w w1 : Nat) (m : WMach) : Except Nat WMach :=
  let a : Axis := Fin.ofNat 16 (nfld w 55 52)
  let v := nfld w 47 24
  let acc := 16 * nfld w 23 0
  if nfld w 50 48 ≠ 0 ∨ nfld w1 31 0 ≠ 0 ∨ v = 0 ∨ acc = 0 then .error 0x50
  else if axisBarred E.s a then .error 0x52
  else
    let x := (sget a.val m.axis).getD (E.axis0 a)
    let d := sext 32 (nfld w1 63 32)
    let t := if nbit w 51 then x.last + d else d
    let k : Pitch := { tgt := t, v := E.s.axV a v, a := E.s.axA a acc }
    let y : WAxis := { x with last := t, list := x.list ++ [(k, m.time)] }
    if tgtBarred E.s a t then .error 0x51
    else if 16 < 1 + (x.ends.filter fun e => m.time < e).length then .error 0x50
    else .ok { m with pc := m.pc + 2, axis := sput a.val y m.axis }

/-- The axes of an MWAIT at their scheduled ends. -/
def wait (mask : Nat) (m : WMach) : Nat :=
  (m.axis.filter fun x => nbit mask x.1).foldl (fun t x => max t x.2.finish) m.time

/-- One instruction, or its violation (R329, R330). -/
def step (E : WEnv) (m : WMach) : Except Nat WMach :=
  let img := E.j.machAddr
  let n := E.s.imgCode img
  let w := (E.s.imgWord img m.pc).toNat
  let op := nfld w 63 56
  let kept := m.keptViol E
  let m := { m with count := m.count + 1 }
  if let some c := kept then .error c
  else if n < m.pc + (if op = 0x90 then 2 else 1) then .error 0x50
  else if op = 0x90 then m.move E w (E.s.imgWord img (m.pc + 1)).toNat
  else if op = 0x91 ∧ nfld w 55 16 = 0 then .ok { m with pc := m.pc + 1, time := m.wait (nfld w 15 0) }
  else if op = 0x92 ∧ nfld w 55 48 = 0 then .ok { m with pc := m.pc + 1, time := m.time + nfld w 47 0 }
  else if op = 0x7F ∧ nfld w 55 0 = 0 then .ok { m with fin := true }
  else .error 0x50

/-- F_m: the HALT's program time, or the end of the last pitch of any axis where that is later (R330). -/
def finish (m : WMach) : Nat := m.axis.foldl (fun t x => max t x.2.finish) m.time

end WMach

end Sys2Proof.Machine
end

