-- ==== Sys2Proof/Machine/WalkAll.lean ====
section
/-! DEFINITION. Phase 3 of an analysis: all programs of a job walked together in program time, with the grants, releases and
barriers between them (R100, R123 to R125, R153, R158, R271 to R275). -/

namespace Sys2Proof.Machine

/-- The walk of a beam program among the others. -/
structure WAgent where
  cur   : WBeam
  /-- Instructions walked. -/
  count : Nat
  /-- The beam and its count to return to where a joint taken to blend does not come about. -/
  back  : Option (WBeam × Nat)
  /-- It waits for the set held at the stop point, before its remainder (R106). -/
  redo  : Bool
  deriving DecidableEq, Repr

/-- The walk of a job. -/
structure Walk where
  ag   : List WAgent
  mach : Option WMach
  zone : Zone
  /-- The brackets that an earlier walk of the job found (R274). -/
  old  : List (Nat × Bracket)
  /-- Barrier instances: ID, instance, mask, CELL, release JT (R100). -/
  bars : List (Nat × Nat × Nat × Bool × Nat)
  deriving DecidableEq, Repr

/-- A walk that a violation ended. -/
structure WFail where
  v : Viol
  w : Walk

/-! The start. -/

/-- The open loops with which a remainder starts, innermost first (R106). -/
def WEnv.loops0 (E : WEnv) (b : Beam) (v : WVals) : List WLoop :=
  v.p.loops.map fun e => match E.instr b (e.start - 1) with
    | .ok (.loop creg _ _ body, _) =>
      { endl := e.start - 1 + body.toNat, creg := creg, unk := false, held := none, acc := v }
    | _ => { endl := e.start - 1, creg := false, unk := false, held := none, acc := v }

/-- The first path of a beam program (R77, R82, R106, R166, R519). What a stop kept is known to the walk of its remainder
(log entry 87). -/
def WEnv.path0 (E : WEnv) (b : Beam) : WPath :=
  let p := E.s.startDec E.n b
  let v : WVals := { p := p, unk := 0, ux := false, uy := false, uz := false, uf := 0, ups := false, scr := [], scrUnk := false
                     ms := [E.s.startPoint E.n b] }
  { v := v, lx := E.loops0 b v, forks := [], last := none, prev := none, next_ := none, chk := false, openJ := none
    dc := -16384, fb := 0, ends := [], fpc := if p.focusPend then some p.pc else none, ns := 0, exp := none, pow := 0
    chg := false, zkey := none, relDone := false }

/-- Nothing found yet. -/
def WOut.none_ : WOut :=
  { begins := [], ends := [], slots := [], rest := [], blends := [], waits := [], merges := [], code := [], brs := [], lps := [], mid := []
    gEnd := 0, lits := [], lgqs := [], brks := [], rels := [], fins := [] }

/-- A beam at its start; a remainder first asks again for the set held at its stop (R106, R166). -/
def WEnv.agent0 (E : WEnv) (b : Beam) : WAgent :=
  let p := E.s.startDec E.n b
  let cur : WBeam := { b := b, paths := [E.path0 b], halted := [], nf := 0, o := WOut.none_, blk := .run }
  if p.halted then
    { cur := { cur with paths := [], o := { WOut.none_ with fins := [(0, 0)] }, blk := .fin }, count := 0, back := none
      redo := false }
  else
    match (if E.j.remainder then p.held else none) with
    | some k => { cur := { cur with blk := .ask (.zacq k 0) }, count := 0, back := none, redo := true }
    | none => { cur := cur, count := 0, back := none, redo := false }

/-- The arbiter as it starts at S (R264, R268, R271). -/
def WEnv.zone0 (E : WEnv) : Zone := E.s.zoneJob E.n

/-- The walk at its start. -/
def WEnv.walk0 (E : WEnv) (old : List (Nat × Bracket)) : Walk :=
  { ag := E.j.named.map E.agent0, mach := if E.j.machAddr = 0 then none else some E.mach0, zone := E.zone0, old := old, bars := [] }

/-! What the agents know of each other. -/

namespace WAgent

/-- The path that asks. -/
def front (x : WAgent) : Option WPath := x.cur.paths.head?

/-- The beam runs. -/
def runs (x : WAgent) : Bool := x.cur.blk == .run

/-- Its bracket asked for is not on every path: it is uncertain (R273). -/
def loose (x : WAgent) : Bool := x.front.any WPath.loose || 1 < x.cur.paths.length

/-- The beam goes back to where it was before a joint taken to blend. -/
def revert (x : WAgent) : WAgent :=
  match x.back with
  | some (y, n) => { x with cur := { y with blk := .run }, count := n, back := none }
  | none => x

end WAgent

namespace Walk

/-- An agent replaced. -/
def put (x : WAgent) (w : Walk) : Walk :=
  { w with ag := w.ag.map fun y => if y.cur.b = x.cur.b then x else y }

/-- Instructions walked (R158). -/
def total (w : Walk) : Nat := w.ag.foldl (fun n x => n + x.count) ((w.mach.map (·.count)).getD 0)

/-- A beam waits for a grant that was asked of the arbiter. -/
def posted (w : Walk) (b : Beam) : Bool := !(w.zone.beam[b]).reqs.isEmpty

/-- The first tick on which a beam may still act. -/
def least (w : Walk) (x : WAgent) : Nat := if w.posted x.cur.b then max x.cur.bound (256 * w.zone.round) else x.cur.bound

/-- The latest program time walked. -/
def reached (w : Walk) : Nat := w.ag.foldl (fun t x => max t x.cur.reached) 0

/-! Quota beams (R274). -/

/-- The base of a beam reaches 6 or 7 in the course of the job. -/
def quotaBeam (z : Zone) (b : Beam) : Bool := 6 ≤ (z.beam[b]).base || z.prio.any fun e => e.2.1 == b.val && 6 ≤ e.2.2

/-- The windows that a span of job time meets, first and last. -/
def winsOf (c : ZoneCfg) (p r : Nat) : Nat × Nat := (p / (c.win * 1000), r / (c.win * 1000))

/-- A bracket of a quota beam asked for at `p` that an earlier walk of the job treated as uncertain, or that lies in a
window with an uncertain one, or in the window after. -/
def quotaUnsure (E : WEnv) (w : Walk) (b : Beam) (k : Key) (p : Nat) : Bool :=
  let c := E.s.zoneCfg
  let old := (w.old.find? fun x => x.1 = b.val ∧ x.2.key = k).map (·.2)
  let (lo, hi) := winsOf c p (max p ((old.map (·.rel)).getD p))
  quotaBeam E.zone0 b && (old.any (·.unc) || w.old.any fun x =>
    let (l, h) := winsOf c x.2.p x.2.rel
    x.1 = b.val && x.2.gen && l ≤ hi && lo ≤ h + 1)

/-- The first round at or after JT `t` in which a quota beam is not taken to be masked, in so many windows. -/
def quotaFree (E : WEnv) (w : Walk) (b : Beam) (k : Key) : Nat → Nat → Nat
  | 0, t => 256 * cdiv t 256
  | f + 1, t =>
    let c := E.s.zoneCfg
    let t := 256 * cdiv t 256
    let n := t / (c.win * 1000)
    let used := (w.old.filter fun x =>
      let (l, h) := winsOf c x.2.p x.2.rel
      x.1 = b.val && x.2.key != k && l ≤ n && n ≤ h && x.2.p < t).length
    if c.quota ≤ used then quotaFree E w b k f ((n + 1) * (c.win * 1000)) else t

/-- As many windows as the brackets of the walk before meet, and one more: no beam is masked after these. -/
def windowsMet (E : WEnv) (w : Walk) : Nat := (w.old.map fun x => (winsOf E.s.zoneCfg x.2.p x.2.rel).2).foldl max 0 + 2

/-- The wait of an uncertain bracket asked for at `p` (R274). -/
def looseWait (E : WEnv) (w : Walk) (b : Beam) (k : Key) (p : Nat) : Nat :=
  if quotaBeam E.zone0 b then w.quotaFree E b k (w.windowsMet E) p - p else 256 * cdiv p 256 - p

/-! One instruction. -/

/-- Where the walk counts one instruction more, its limit (R158). -/
def countRule (E : WEnv) (obj beam pc time : Nat) (w : Walk) : Except Viol Unit :=
  need (w.total ≤ E.limit) { code := 0x4C, obj := obj, beam := beam, off := pc, time := time }

/-- The releases of a beam that nothing can take back go to the arbiter. -/
def flush (x : WAgent) (w : Walk) : Walk :=
  if x.cur.tentative then w.put x
  else
    let w := { w with zone := { w.zone with
      beam := vupd w.zone.beam x.cur.b fun z => { z with rels := z.rels ++ x.cur.o.rels } } }
    w.put { x with back := none, cur := { x.cur with o := { x.cur.o with rels := [] } } }

/-- One instruction of a beam, with the wait given to it. -/
def stepBeam (E : WEnv) (x : WAgent) (wait : Option Nat) (cert : Bool) (w : Walk) : Except WFail Walk :=
  let pc := ((pickPath x.cur.paths).map (·.1.v.p.pc)).getD 0
  let t := ((pickPath x.cur.paths).map (·.1.time)).getD 0
  let done (y : WBeam) : Nat := match y.blk with
    | .ask _ => 0
    | _ => if x.cur.paths.isEmpty then 0 else 1
  let w1 := w.put { x with count := x.count + 1 }
  match x.cur.step E wait cert with
  | .error v =>
    match countRule E 1 x.cur.b.val pc t w1 with
    | .ok _ => .error ⟨v, w1⟩
    | .error u => .error ⟨u, w1⟩
  | .ok (y, back) =>
    let n := x.count + done y
    let back := match back with
      | some k => some (k, n)
      | none => x.back
    let z : WAgent := { x with cur := y, count := n, back := back, redo := false }
    match countRule E 1 x.cur.b.val pc t (w.put z) with
    | .ok _ => .ok (w.flush z)
    | .error u => .error ⟨u, w.put z⟩

/-- One instruction of the machine program. -/
def stepMach (E : WEnv) (m : WMach) (w : Walk) : Except WFail Walk :=
  let w1 := { w with mach := some { m with count := m.count + 1 } }
  match countRule E 2 0 m.pc m.time w1 with
  | .error u => .error ⟨u, w1⟩
  | .ok _ => match m.step E with
    | .error c => .error ⟨{ code := c, obj := 2, beam := 0, off := m.pc, time := m.time }, w1⟩
    | .ok m => .ok { w with mach := some m }

/-- The grant of a remainder's first set: its schedule begins after the wait (R106, R166). -/
def redoGrant (set wait : Nat) (x : WAgent) : WAgent :=
  let y := x.cur
  match y.paths with
  | q :: rest =>
    let k := q.key
    let q' := { (q.upV fun v => { v with p := { v.p with window := 1, waits := wait } }) with zkey := some k }
    let br : Bracket := { key := k, set := set, p := 0, rel := 0, gen := false, unc := false, open_ := true }
    let o := { y.o with waits := (k, wait) :: y.o.waits, merges := (k, q'.merge) :: y.o.merges, brks := br :: y.o.brks }
    { x with cur := { y with paths := q' :: rest, blk := .run, o := o }, redo := false }
  | [] => x

/-- A beam goes on with the wait of its ZACQ or MUSTER; a wait breaks a joint taken to blend (R94). -/
def resume (E : WEnv) (x : WAgent) (wait : Nat) (cert : Bool) (w : Walk) : Except WFail Walk :=
  if wait ≠ 0 ∧ x.cur.tentative then .ok (w.put x.revert)
  else if x.redo then
    match x.cur.blk with
    | .ask (.zacq set _) => .ok (w.put (redoGrant set wait x))
    | _ => .ok w
  else w.stepBeam E x (some wait) cert

/-! Grants. -/

/-- A violation at the instruction that a beam asks with. -/
def askViol (x : WAgent) (code time : Nat) : Viol := progViol x.cur.b code ((x.front.map (·.v.p.pc)).getD 0) time

/-- A beam asks for a set: an uncertain bracket has its wait at once, a certain one goes to the arbiter; a joint taken to
blend before a round tick that is not the request's is broken (R94, R273, R274). -/
def askSet (E : WEnv) (x : WAgent) (set p : Nat) (w : Walk) : Except WFail Walk :=
  let k := ((x.front.map WPath.key).getD { pc := 0, iters := [] })
  if x.loose || w.quotaUnsure E x.cur.b k p then w.resume E x (w.looseWait E x.cur.b k p) false
  else if x.cur.tentative && p % 256 ≠ 0 then .ok (w.put x.revert)
  else
    let q : ZReq := { set := set, time := p, lost := 0, key := k }
    .ok { w with zone := { w.zone with beam := vupd w.zone.beam x.cur.b fun z => { z with reqs := [q] } } }

/-- The next round in which a request takes part. -/
def nextRound (w : Walk) : Option Nat :=
  let ps := w.ag.filterMap fun x => ((w.zone.beam[x.cur.b]).reqs.head?).map (·.time)
  match ps with
  | [] => none
  | p :: l => some (max w.zone.round (cdiv (l.foldl min p) 256))

/-- One round, with the grants; a joint taken to blend whose request is not granted at once is broken first, and the round
is not run (R94, R265, R273, R275). -/
def doRound (E : WEnv) (r : Nat) (w : Walk) : Except WFail Walk :=
  let (z, g) := { w.zone with round := r }.runRound E.s.zoneCfg
  let t := 256 * r
  match w.ag.find? fun x => x.cur.tentative && w.posted x.cur.b && !(g.any fun k => k.1 = x.cur.b) with
  | some x =>
    let w := { w with zone := { w.zone with beam := vupd w.zone.beam x.cur.b fun y => { y with reqs := [] } } }
    .ok (w.put x.revert)
  | none =>
    let w := { w with zone := z }
    match w.ag.find? fun x => (z.beam[x.cur.b]).reqs.any fun q => q.time + 4294967295 < t + 256 with
    | some x => .error ⟨askViol x 0x46 (((z.beam[x.cur.b]).reqs.head?.map (·.time)).getD t), w⟩
    | none => g.foldlM (fun w k => match w.ag.find? fun x => x.cur.b = k.1 with
        | some x => w.resume E x k.2.2 true
        | none => .ok w) w

/-! Barriers. -/

/-- A beam has passed an instance before its stop (R106, R166). -/
def passedBefore (E : WEnv) (b : Beam) (id inst : Nat) : Bool :=
  E.j.remainder && inst < (E.s.startDec E.n b).passedOf id

/-- A beam that waits at a MUSTER hands the release that comes before its next stroke to the arbiter (R105, R124). -/
def releaseAhead (E : WEnv) (x : WAgent) (w : Walk) : Option Walk :=
  match x.front with
  | some q =>
    if q.v.p.held.isSome && q.zkey.isSome && !q.relDone && !x.cur.tentative && !x.loose &&
        (x.cur.o.brks.any fun k => k.open_ && some k.key == q.zkey && !k.unc) && relAhead E x.cur.b E.limit q then
      let w := w.put { x with cur := { x.cur with paths := { q with relDone := true } :: x.cur.paths.drop 1 } }
      some { w with zone := { w.zone with
        beam := vupd w.zone.beam x.cur.b fun z => { z with rels := z.rels ++ [q.v.p.lastEnd] } } }
    else none
  | none => none

/-- The agents at a MUSTER: all at the instance; one that waits with a joint taken to blend and must break it; a violation;
or nothing yet (R100, R101, R125). -/
inductive Bar where
  | wait
  | go (t : Nat)
  | breakJoint (x : WAgent)
  | bad (code : Nat) (x : WAgent)

/-- The state of the instance that an agent waits at. -/
def barrier (E : WEnv) (x : WAgent) (id mask : Nat) (cell : Bool) (p inst : Nat) (w : Walk) : Bar :=
  let mem := w.ag.filter fun y => nbit mask y.cur.b.val && !passedBefore E y.cur.b id inst
  let here (y : WAgent) : Option (Nat × Bool × Nat) := match y.cur.blk with
    | .ask (.muster i m c q n) => if i = id ∧ n = inst then some (m, c, q) else none
    | _ => none
  let early (y : WAgent) : Bool := match here y with
    | some (_, _, q) => p < q
    | none => p < w.least y
  let last := (mem.filter fun y => (here y).isSome).foldl (fun (r : WAgent × Nat) y => match here y with
    | some (_, _, q) => if r.2 ≤ q then (y, q) else r
    | none => r) (x, p)
  if mem.any fun y => (here y).any fun h => h.1 != mask || h.2.1 != cell then .bad 0x33 last.1
  else if mem.any fun y => y.cur.blk == .fin then .bad 0x34 x
  else if x.cur.tentative && mem.any early then .breakJoint x
  else if mem.all fun y => (here y).isSome then
    let t := (mem.filterMap here).foldl (fun t h => max t h.2.2) 0
    match mem.find? fun y => y.cur.tentative && (here y).any fun h => h.2.2 < t with
    | some y => .breakJoint y
    | none => .go t
  else .wait

/-- The first agent at a MUSTER whose instance is decided goes on; nothing where none is (R100). -/
def doBarrier (E : WEnv) (w : Walk) : List WAgent → Option (Except WFail Walk)
  | [] => none
  | x :: l =>
    match x.cur.blk with
    | .ask (.muster id mask cell p inst) =>
      match w.barrier E x id mask cell p inst with
      | .bad c y => match y.cur.blk with
        | .ask (.muster _ _ _ q _) => some (.error ⟨askViol y c q, w⟩)
        | _ => some (.error ⟨askViol y c p, w⟩)
      | .breakJoint y => some (.ok (w.put y.revert))
      | .go t => some (release id inst t { w with bars := (id, inst, mask, cell, t) :: w.bars })
      | .wait => match w.releaseAhead E x with
        | some w => some (.ok w)
        | none => doBarrier E w l
    | _ => doBarrier E w l
where
  /-- Every agent at the instance goes on at the release instant `t`. -/
  release (id inst t : Nat) (w : Walk) : Except WFail Walk :=
    w.ag.foldlM (fun w y => match y.cur.blk with
      | .ask (.muster i _ _ q n) => if i = id ∧ n = inst then w.resume E y (t - q) true else .ok w
      | _ => .ok w) w

/-! The walk. -/

/-- The running beam that acts first: least program time, then lower beam. -/
def first (w : Walk) : Option WAgent :=
  (w.ag.filter WAgent.runs).foldl (fun (r : Option WAgent) x => match r with
    | none => some x
    | some y => if x.cur.bound < y.cur.bound then some x else some y) none

/-- A beam that asks for a set and has not been heard. -/
def asking (w : Walk) : Option (WAgent × Nat × Nat) :=
  w.ag.findSome? fun x => match x.cur.blk with
    | .ask (.zacq set p) => if w.posted x.cur.b then none else some (x, set, p)
    | _ => none

/-- One move of the walk; nothing once every program has ended. -/
def move (E : WEnv) (w : Walk) : Option (Except WFail Walk) :=
  match w.asking with
  | some (x, set, p) => some (w.askSet E x set p)
  | none =>
    match w.doBarrier E w.ag with
    | some r => some r
    | none =>
      let m := w.mach.filter fun m => !m.fin
      let low := w.first
      let due (t : Nat) : Bool := low.all fun x => t < x.cur.bound
      match (w.nextRound.filter fun r => due (256 * r)), low, m with
      | some r, _, _ => some (w.doRound E r)
      | none, some x, none => some (w.stepBeam E x none true)
      | none, some x, some m => some (if m.time < x.cur.bound then w.stepMach E m else w.stepBeam E x none true)
      | none, none, some m => some (w.stepMach E m)
      | none, none, none =>
        (w.ag.find? fun x => x.cur.blk != .fin).map fun x => .error ⟨askViol x 0x34 x.cur.bound, w⟩

/-- The walk to its end, or to its violation. -/
def run (E : WEnv) : Nat → Walk → Except WFail Walk
  | 0, w => .ok w
  | k + 1, w => match w.move E with
    | none => .ok w
    | some (.ok w) => run E k w
    | some (.error e) => .error e

/-- The brackets found, with their beams. -/
def brackets (w : Walk) : List (Nat × Bracket) := w.ag.flatMap fun x => x.cur.o.brks.map fun k => (x.cur.b.val, k)

/-- An uncertain bracket meets a conflicting set of another beam: it has no bound (R274). -/
def unbounded (E : WEnv) (w : Walk) : Option (Nat × Bracket) :=
  let l := w.brackets
  let clash (a c : Nat × Bracket) : Bool :=
    a.1 != c.1 && a.2.p ≤ c.2.rel && c.2.p ≤ a.2.rel &&
      padConflict E.s.zoneCfg (mapSet E a.2.set) (mapSet E c.2.set)
  (l.filter fun a => l.any fun c => (a.2.unc || c.2.unc) && clash a c).foldl
    (fun (r : Option (Nat × Bracket)) a => match r with
      | none => some a
      | some x => if a.2.p < x.2.p then some a else some x) none

/-- Enough moves for every walk within the largest limit. -/
def moves : Nat := 2 ^ 64

/-- ZONE_BOUND at a bracket (R274). -/
def boundFail (w : Walk) (x : Nat × Bracket) : WFail :=
  ⟨{ code := 0x46, obj := 1, beam := x.1, off := x.2.key.pc, time := x.2.p }, w⟩

/-- An uncertain bracket of a quota beam (R274). -/
def quotaGen (E : WEnv) (w : Walk) : Option (Nat × Bracket) :=
  w.brackets.find? fun x => x.2.gen && (E.j.named.any fun b => b.val == x.1 && quotaBeam E.zone0 b)

/-- The brackets of a walk, those treated as uncertain before still so (R274). -/
def nextOld (w : Walk) : List (Nat × Bracket) :=
  w.brackets.map fun x =>
    (x.1, { x.2 with unc := x.2.unc || w.old.any fun y => y.1 == x.1 && y.2.key == x.2.key && y.2.unc })

/-- The whole of phase 3: where a quota beam has uncertain brackets, the walk is repeated with what it found, until that is
the same (R274). A bracket once uncertain stays so, and each wait depends on earlier brackets alone, so this comes about
within far fewer repeats than are allowed; no repeat of its own rejects (R275). -/
def phase3 (E : WEnv) : Nat → List (Nat × Bracket) → Except WFail Walk
  | k, old =>
    match (E.walk0 old).run E moves with
    | .error e => .error e
    | .ok w =>
      match (if w.nextOld = old then none else w.quotaGen E), k with
      | some _, k + 1 => phase3 E k w.nextOld
      | _, _ => match w.unbounded E with
        | some x => .error (w.boundFail x)
        | none => .ok w

/-- The walk up to its `n`-th instruction, its end or its violation, in at most so many moves (R163). -/
def soFar (E : WEnv) (n : Nat) : Nat → Walk → Walk
  | 0, w => w
  | k + 1, w =>
    if n ≤ w.total then w
    else match w.move E with
      | none => w
      | some (.ok w) => soFar E n k w
      | some (.error e) => e.w

end Walk

end Sys2Proof.Machine
end

