-- ==== Sys2Proof/Machine/Heat.lean ====
section
/-! DEFINITION. Phases 4 and 5 of an analysis: the fabric, die and bed checks over what the walk found (R156, R157, R250,
R301, R465). -/

namespace Sys2Proof.Machine

/-! The sides of unresolved branches: each combination of sides is a run, checked on its own. -/

/-- The items of a run that takes side `s` of branch `id`. -/
def takeSide {α : Type} (tags : α → Tags) (untag : Tags → α → α) (id : Nat) (s : Bool) (l : List α) : List α :=
  (l.filter fun x => !(tags x).contains (id, !s)).map fun x => untag ((tags x).filter fun t => t.1 != id) x

/-- The earlier of two violations. -/
def earlier (a c : Option Viol) : Option Viol :=
  match a, c with
  | some x, some y => if y.time < x.time then c else a
  | some _, none => a
  | none, _ => c

/-- A check over every run: its earliest violation. -/
def overRuns {α : Type} (tags : α → Tags) (untag : Tags → α → α) (f : List α → Option Viol) : Nat → List α → Option Viol
  | 0, l => f l
  | k + 1, l =>
    match l.findSome? fun x => (tags x).head? with
    | none => f l
    | some (id, _) =>
      earlier (overRuns tags untag f k (takeSide tags untag id false l)) (overRuns tags untag f k (takeSide tags untag id true l))

/-- A measure over every run: its largest value. -/
def mostRuns {α : Type} (tags : α → Tags) (untag : Tags → α → α) (f : List α → Nat) : Nat → List α → Nat
  | 0, l => f l
  | k + 1, l =>
    match l.findSome? fun x => (tags x).head? with
    | none => f l
    | some (id, _) =>
      max (mostRuns tags untag f k (takeSide tags untag id false l)) (mostRuns tags untag f k (takeSide tags untag id true l))

/-! Visits of the spot (R243). -/

/-- A nominal visit: its spot cell, its span in JT, and power fraction times ns. -/
structure WVisit where
  beam : Nat
  pc   : Nat
  cell : Int × Int
  t0   : Nat
  t1   : Nat
  e    : Nat
  deriving DecidableEq, Repr

/-- A piece of a visit behind those before it, newest first: the same visit where it goes on in the same cell. -/
def addVisit (l : List WVisit) (v : WVisit) : List WVisit :=
  match l with
  | x :: rest => if x.cell = v.cell ∧ x.t1 = v.t0 then { x with t1 := v.t1, e := x.e + v.e, pc := v.pc } :: rest else v :: l
  | [] => [v]

/-- The path of a stroke in its order, ns by ns, behind the visits before it. -/
def litVisits (s : State) (l : List WVisit) (x : Lit) : List WVisit :=
  let y := x.st
  (List.range (y.pathEnd - y.startAt)).foldl (fun l k =>
    let t := y.startAt + k
    let c := (cellGrid s).at (y.kinAt x.prev x.next_ (Q.ofInt t)).1
    addVisit l { beam := x.beam, pc := y.key.pc, cell := c, t0 := t, t1 := t + 1, e := x.pow }) l

/-- An item put into an ascending list, after its equals. -/
def insertBy {α : Type} (f : α → Nat) (x : α) : List α → List α
  | [] => [x]
  | y :: l => if f x < f y then x :: y :: l else y :: insertBy f x l

/-- A list in ascending order of a measure. -/
def sortBy {α : Type} (f : α → Nat) (l : List α) : List α := l.foldl (fun r x => insertBy f x r) []

/-- The visits of a beam's strokes, oldest first. -/
def visitsOf (s : State) (l : List Lit) : List WVisit :=
  ((sortBy (fun x => x.st.slotAt) l).foldl (litVisits s) []).reverse

/-! Phase 4. -/

/-- The ledger cells that the kernel reaches from a visit's cell. -/
def visitCells (s : State) (v : WVisit) : List Nat := (s.kernelCells v.cell.1 v.cell.2).filterMap (·.2)

/-- A cell in a beam's reserve of the window cache, with its last deposit: the reserve, and whether the cell entered it; a
full one gives up the cell with the oldest last deposit (R250), of several the first listed (DESIGN CHOICE, log entry
101). -/
def reserveAdd (c last : Nat) (r : List (Nat × Nat)) : List (Nat × Nat) × Bool :=
  if r.any fun x => x.1 = c then (r.map fun x => if x.1 = c then (c, last) else x, false)
  else if r.length < 65536 then (r ++ [(c, last)], true)
  else
    let old := r.foldl (fun (m : Nat × Nat) x => if x.2 < m.2 then x else m) (r.headD (0, 0))
    (r.filter (fun x => x.1 != old.1) ++ [(c, last)], true)

/-- The demand of a beam's ledger stream: round and bytes of every cell that enters the reserve (R156, R250). -/
def cellDemand (s : State) (l : List WVisit) : List (Nat × Nat) :=
  (l.foldl (fun (a : List (Nat × Nat) × List (Nat × Nat)) v =>
    (visitCells s v).foldl (fun a c =>
      let (r, new) := reserveAdd c v.t1 a.1
      (r, if new then (v.t0 / 4096, 16) :: a.2 else a.2)) a) ([], [])).2

/-- The bytes of a round. -/
def roundBytes (l : List (Nat × Nat)) (r : Nat) : Nat := ((l.filter fun x => x.1 = r).map (·.2)).sum

/-- The largest demand of a round. -/
def roundMax (l : List (Nat × Nat)) : Nat := (l.map fun x => roundBytes l x.1).foldl max 0

/-- The reserved slots of a stream (R279). -/
def reserved (s : State) (stream i : Nat) : Nat :=
  (s.fab.live.toList.filter fun e => nbit e.toNat 7 && e.toNat % 64 == State.needOwner stream i).length

/-- FAB_BW of a stream that asks for more than its reserved slots move, in its first failing round (R156). -/
def fabViol (s : State) (stream i : Nat) (l : List (Nat × Nat)) : Option Viol :=
  let cap := 256 * reserved s stream i
  ((l.filter fun x => cap < roundBytes l x.1).map (·.1)).foldl (fun (v : Option Viol) r =>
    earlier v (some { code := 0x44, obj := 5, beam := i, off := stream, time := 4096 * r })) none

/-- What asks for the ledger stream of a beam: a stroke, or an LGQ at a program time. -/
inductive LedgerUse where
  | lit (x : Lit)
  | lgq (t : Nat) (tags : Tags)
  deriving DecidableEq, Repr

namespace LedgerUse

def tags : LedgerUse → Tags
  | lit x => x.tags
  | lgq _ t => t

def untag (t : Tags) : LedgerUse → LedgerUse
  | lit x => lit { x with tags := t }
  | lgq at_ _ => lgq at_ t

/-- The demand of a run. -/
def demand (s : State) (l : List LedgerUse) : List (Nat × Nat) :=
  cellDemand s (visitsOf s (l.filterMap fun x => match x with
    | lit y => some y
    | lgq _ _ => none)) ++
  l.filterMap fun x => match x with
    | lit _ => none
    | lgq t _ => some (t / 4096, 16)

end LedgerUse

/-- A Lit with other tags. -/
def Lit.untag (t : Tags) (x : Lit) : Lit := { x with tags := t }

/-- The demand of a beam's profile reads (R156). -/
def profDemand (l : List Lit) : List (Nat × Nat) :=
  (l.filter (·.chg)).map fun x => (x.st.slotAt / 4096, 512)

/-- What the walk of a beam gives the ledger stream, and how many branch sides it has. -/
def WAgent.uses (x : WAgent) : List LedgerUse :=
  x.cur.o.lits.map LedgerUse.lit ++ x.cur.o.lgqs.map fun q => LedgerUse.lgq q.1 q.2

/-- A bound on the branches of a list of uses. -/
def sideBound (l : List LedgerUse) : Nat := (l.map fun x => x.tags.length).sum

/-- The engines whose image check reads their table stream (R301). -/
def tableEngines (s : State) : List Nat :=
  (List.range 4).filter fun k => s.leOn k && s.rb (R.LEk_CTL k) 0

/-- Phase 4: FAB_BW in the earliest failing round, there of the lower stream, then of the lower unit (R156). -/
def phase4 (E : WEnv) (w : Walk) : Option Viol :=
  let s := E.s
  let fetch := w.ag.map fun x => fabViol s 0 x.cur.b.val [(0, if reserved s 0 x.cur.b.val = 0 then 64 else 0)]
  let ledger := w.ag.map fun x =>
    overRuns LedgerUse.tags LedgerUse.untag (fun l => fabViol s 1 x.cur.b.val (LedgerUse.demand s l)) (sideBound x.uses) x.uses
  let prof := w.ag.map fun x =>
    overRuns Lit.tags Lit.untag (fun l => fabViol s 2 x.cur.b.val (profDemand l)) (sideBound x.uses) x.cur.o.lits
  let tables := (tableEngines s).map fun k => fabViol s 3 k [(0, 64)]
  (fetch ++ ledger ++ prof ++ tables).foldl earlier none

/-- The slots that the streams of a job need (R148, R156): the least that its demand takes, and for fetch the reservation that
the decode model ran on (log entry 88). -/
def slotNeeds (E : WEnv) (w : Walk) : List (Nat × Nat × Nat) :=
  let s := E.s
  let up (n : Nat) : Nat := cdiv n 256
  w.ag.map (fun x => (0, x.cur.b.val, reserved s 0 x.cur.b.val)) ++
  w.ag.map (fun x => (1, x.cur.b.val,
    up (mostRuns LedgerUse.tags LedgerUse.untag (fun l => roundMax (LedgerUse.demand s l)) (sideBound x.uses) x.uses))) ++
  w.ag.map (fun x => (2, x.cur.b.val,
    up (mostRuns Lit.tags Lit.untag (fun l => roundMax (profDemand l)) (sideBound x.uses) x.cur.o.lits))) ++
  (tableEngines s).map fun k => (3, k, 1)

/-! Phase 5: the bed. -/

/-- A nominal deposit: cell, ledger unit of job time, energy, and the stroke it comes from. -/
structure WDep where
  cell : Nat
  unit : Nat
  e    : Nat
  beam : Nat
  pc   : Nat
  time : Nat
  deriving DecidableEq, Repr

/-- The deposits of a visit, in the unit that contains its end (R157, R237, R243). -/
def visitDeps (E : WEnv) (v : WVisit) : List WDep :=
  let fs := (E.s.rd (R.CAL_Pn_FS v.beam)).toNat
  (E.s.kernelCells v.cell.1 v.cell.2).filterMap fun k => k.2.map fun c =>
    { cell := c, unit := v.t1 / 64000, e := v.e * fs * E.j.kern k.1, beam := v.beam, pc := v.pc, time := v.t1 }

/-- The deposit with which a cell passes LDG_RISE.MAX in the run of units that begins at `u`, earliest first (R157). -/
def bedOver (E : WEnv) (l : List WDep) (u : Nat) : Option WDep :=
  let win := oneIfZero (E.s.rf R.LDG_RISE 31 24)
  let lim := E.s.rf R.LDG_RISE 23 0 * 65535 * 65536 * E.s.ldgEu
  let inRun := l.filter fun d => u ≤ d.unit && d.unit < u + win
  inRun.find? fun d => lim < ((inRun.filter fun x => x.cell = d.cell && x.time ≤ d.time).map (·.e)).sum

/-- The bed check of a run: BED_RISE of the earliest failing run of units (R157). -/
def bedRun (E : WEnv) (l : List Lit) : Option Viol :=
  let vs := E.j.named.flatMap fun b => visitsOf E.s (l.filter fun x => x.beam = b.val)
  let deps := sortBy (fun d => d.time) (vs.flatMap (visitDeps E))
  let win := oneIfZero (E.s.rf R.LDG_RISE 31 24)
  (deps.map fun d => d.unit + 1 - win).dedup.foldl (fun (v : Option Viol) u =>
    earlier v ((bedOver E deps u).map fun d =>
      { code := 0x49, obj := 1, beam := d.beam, off := d.pc, time := 64000 * u })) none

/-- The bed check (R157). -/
def bedCheck (E : WEnv) (w : Walk) : Option Viol :=
  let l := w.ag.flatMap fun x => x.cur.o.lits
  overRuns Lit.tags Lit.untag (bedRun E) (sideBound (l.map LedgerUse.lit)) l

end Sys2Proof.Machine
end

