-- ==== Sys2Proof/Machine/Analysis.lean ====
section
/-! DEFINITION. The analysis of a job: its phases in order, and the promise or the violation (R153 to R160, R164, R401). -/

namespace Sys2Proof.Machine

/-- The words of a slot for the beams of a walk that is not accepted (R164). -/
def walkBeams (w : Walk) : List (Nat × Nat × Nat) := w.ag.map fun x => (x.cur.b.val, x.cur.reached, x.cur.o.begins.length)

/-- The latest beam finish. -/
def walkFin (w : Walk) : Nat := w.ag.foldl (fun t x => max t x.cur.finish.1) 0

/-- A rejection before the walk. -/
def rejectEarly (v : Viol) : Analysis := { viol := some v, promise := none, walked := 0, fin := 0, beams := [], hotspot := 0 }

/-- A rejection in or after the walk. -/
def rejectWalk (v : Viol) (w : Walk) (fin : Nat) (hot : Int) : Analysis :=
  { viol := some v, promise := none, walked := w.total, fin := fin, beams := walkBeams w, hotspot := hot }

/-- F_m of R154; 0 without a machine program. -/
def machFin (w : Walk) : Nat := (w.mach.map WMach.finish).getD 0

/-- JT_FIN (R154). A beam without an exposure has no term for its last one (DESIGN CHOICE, log entry 101). -/
def jtFinOf (w : Walk) : Nat :=
  w.ag.foldl (fun t x => max t (max x.cur.finish.1 (if x.cur.o.gEnd = 0 then 0 else x.cur.o.gEnd + 16384))) (machFin w)

/-- A list of a beam's walk, with the beam. -/
def tagged {α β : Type} (f : WOut → List (α × β)) (w : Walk) : List (Nat × α × β) :=
  w.ag.flatMap fun x => (f x.cur.o).map fun y => (x.cur.b.val, y.1, y.2)

/-- The schedule digest: the configuration digest, the scheduled JT of every stroke in beam and program order, JT_FIN
(R401, R405). -/
def schedDigest (s : State) (w : Walk) (fin : Nat) : DWord :=
  crc64 (toBytes 8 s.cfgDigest.toNat ++ (w.ag.flatMap fun x => x.cur.o.begins.reverse.flatMap fun y => toBytes 8 y.2) ++
    toBytes 8 fin)

/-- The promise of a walk that passes every check (R159). -/
def promiseMk (E : WEnv) (w : Walk) (fin : Nat) (peak : Int) : Promise :=
  { jtFin := fin, finish := w.ag.map fun x => (x.cur.b.val, x.cur.finish.1)
    begins := tagged (·.begins) w, ends := tagged (·.ends) w, slots := tagged (·.slots) w
    blends := w.ag.flatMap fun x => x.cur.o.blends.map fun k => (x.cur.b.val, k)
    waits := tagged (·.waits) w, merges := tagged (·.merges) w, code := tagged (·.code) w
    needs := slotNeeds E w, peak := rshr peak 9, start := E.s.hotNow, digest := schedDigest E.s w fin
    strokes := w.ag.map fun x => (x.cur.b.val, x.cur.finish.2), machFin := machFin w
    last := w.ag.filterMap fun x => x.cur.rest.map fun r => (x.cur.b.val, r.1, r.2)
    bars := w.bars.reverse
    axEnds := (w.mach.map fun m => m.axis.flatMap fun x => x.2.ends.map fun e => (x.1, e)).getD []
    axLast := (w.mach.map fun m => m.axis.map fun x => (x.1, x.2.last)).getD [] }

/-- Phases 4 to 6 (R155 to R157). -/
def settleJob (E : WEnv) (w : Walk) : Analysis :=
  let fin := jtFinOf w
  let f := walkFin w
  match phase4 E w with
  | some v => rejectWalk v w f 0
  | none =>
    match E.s.dieCheck E.n (w.ag.map fun x => (x.cur.b.val, x.cur.finish.1)) (machFin w) fin with
    | .error (c, t) => rejectWalk { code := c, obj := 5, beam := 0, off := 0, time := t } w f 0
    | .ok peak =>
      let hot := rshr peak 9
      let last (code : Nat) : Viol := { code := code, obj := 5, beam := 0, off := 0, time := fin }
      match bedCheck E w with
      | some v => rejectWalk v w f hot
      | none =>
        if 2 ^ 48 ≤ fin then rejectWalk (last 0x4B) w fin hot
        else if !E.j.remainder && E.j.deadline != 0 && decide (E.j.deadline < fin) then rejectWalk (last 0x4A) w fin hot
        else
          let p := promiseMk E w fin peak
          { viol := none, promise := some p, walked := w.total, fin := fin, hotspot := hot
            beams := w.ag.map fun x => (x.cur.b.val, x.cur.finish.1, x.cur.finish.2) }

/-- The analysis of the job in slot `n`, from the state of the machine (R42, R153). -/
def analyse (s : State) (n : Slot) : Analysis :=
  let E : WEnv := { s := s, n := n }
  match s.checkObjects E.j with
  | .error v => rejectEarly v
  | .ok _ => match s.checkReady E.j with
    | .error v => rejectEarly v
    | .ok _ => match Walk.phase3 E Walk.moves [] with
      | .error e => rejectWalk e.v e.w (walkFin e.w) 0
      | .ok w => settleJob E w

/-- JOB_SLOTn_LOC of a violation (R160). -/
def Viol.loc (v : Viol) : Word := w32 (v.obj * 2 ^ 28 + v.beam % 16 * 2 ^ 24 + v.off % 2 ^ 24)

end Sys2Proof.Machine
end

