-- ==== Sys2Proof/Machine/JobOps.lean ====
section
/-! DEFINITION. The job commands and the life of a job from ARM to its end (R21, R39 to R42, R141 to R152, R163, R166 to
R168, R331). Each command's effect is one function, used by the host's path, by a pair's partner and by auto-arm. -/

namespace Sys2Proof.Machine

namespace JobSlot

/-- The start mode in force: a remainder starts as IMMEDIATE, and so does an AFTER_PREV job with no predecessor
(R150, R166). -/
def startMode (j : JobSlot) : Nat :=
  if j.remainder then 0 else if j.mode = 2 ∧ j.predSlot.isNone then 0 else j.mode

end JobSlot

/-- A tick that is fixed has a property. -/
def beforeOpt (o : Option Nat) (f : Nat → Bool) : Bool := (o.map f).getD false

namespace State

/-- Posts a job result, which ends BUSY (R141, R143). -/
def jobPost (op slot code : Nat) (s : State) : State :=
  ((((s.advance R.JOB_RESULT 31 24).clrB R.JOB_RESULT 23).setF R.JOB_RESULT 19 16 op).setF R.JOB_RESULT 13 12 slot).setF
    R.JOB_RESULT 7 0 code

/-- A result that was posted on this tick gives way to those that take its place. -/
def unpost (s : State) : State := s.setF R.JOB_RESULT 31 24 ((s.rf R.JOB_RESULT 31 24 + 255) % 256)

/-! The start tick. -/

/-- DT at tick `now + x` with the parameters in force, not reduced modulo 2^32 (R51, R56, R57). -/
def dtAhead (s : State) (x : Nat) : Int :=
  let d := s.bell
  let c := s.corr d s.frc + s.rate d * (x : Int)
  let r := s.time.slew
  let m : Int := min r.natAbs (x * s.slewStep)
  (x : Int) + rshr c 40 - rdiv (if 0 ≤ r then r - m else r + m) slewUnit

/-- The least `x` from `lo` on, below `lo + 2^k`, at which DT has advanced by `d`. -/
def dtSearch (s : State) (d : Int) : Nat → Nat → Nat
  | 0, lo => lo
  | k + 1, lo => if s.dtAhead (lo + 2 ^ k - 1) - s.dtAhead 0 < d then dtSearch s d k (lo + 2 ^ k) else dtSearch s d k lo

/-- The tick at which DT reaches a value ahead of it; none where it lies behind (R150). -/
def tickOfDt (s : State) (v : Word) : Option Nat :=
  let d := diff32 v s.dt
  if d < 0 then none else some (s.tick + s.dtSearch d 33 0)

/-- S is fixed, with DT_START and DT_FIN at the rate then in force (R24, R150, R159). DT_START reports DT of S, of `bound`
where the promised start is one, or `dt`. The LEAD of a pair sends S (R402). -/
def fixS (n : Slot) (at_ : Nat) (bound : Option Nat) (dt : Option Word) (s : State) : State :=
  let fin := ((s.js n).promise.map (·.jtFin)).getD 0
  let from_ := bound.getD at_
  let s := (s.upSlot n fun j =>
    { j with s := some at_, startAt := from_, dtStart := dt.getD (s.dtAt (w32 from_)), dtFin := s.dtAt (w32 (at_ + fin)) }).showSlot n
  if s.pairLead then s.ctl 4 ([BitVec.ofNat 8 n.val, 0, 0, 0] ++ toBytes 8 (s.toPair at_)) else s

/-- The device times reported of a slot at the rate in force now; those that have passed stay, and so do its other words (R24,
R163; log entry 86). -/
def redateSlot (n : Slot) (s : State) : State :=
  let j := s.js n
  match (if j.st = .armed ∨ j.st = .running then j.s else none) with
  | none => s
  | some s0 =>
    let fin := s0 + (j.promise.map (·.jtFin)).getD 0
    let a := if s.tick < j.startAt then s.dtAt (w32 j.startAt) else j.dtStart
    let f := if s.tick < fin then s.dtAt (w32 fin) else j.dtFin
    if a = j.dtStart ∧ f = j.dtFin then s else (s.upSlot n fun j => { j with dtStart := a, dtFin := f }).showSlot n

/-- A change of the bellwether's rate moves the device times reported (R24). -/
def redate (s : State) : State := s.each (List.finRange 4) redateSlot

/-! The checks of ARM (R148, R150, R151, R331). -/

/-- Every axis that a job names is ready, but for those that an AFTER_PREV job shares with its RUNNING predecessor. -/
def axesReady (s : State) (n : Slot) : Bool :=
  let mine := s.jobAxes n
  let skip : Nat := match s.runSlot with
    | some r => if (s.js n).mode = 2 ∧ !(s.js n).remainder then s.jobAxes r else 0
    | none => 0
  (List.finRange 16).all fun a => !nbit mine a.val || nbit skip a.val || s.axReady a

/-- The slot table in service still reserves what the analysis proved (R148, R156). -/
def fabOk (s : State) (n : Slot) : Bool :=
  match (s.js n).promise with
  | some p => p.needs.all fun x =>
    x.2.2 ≤ (s.fab.live.toList.filter fun e => nbit e.toNat 7 && e.toNat % 64 == needOwner x.1 x.2.1).length
  | none => false

/-- The earliest preparation begin: now, or the promised commit of the RUNNING job (R149, R150). -/
def prepEarliest (s : State) : Nat :=
  match s.runSlot with
  | some r => max s.tick ((s.js r).s.getD s.tick + ((s.js r).promise.map (·.jtFin)).getD 0)
  | none => s.tick

/-- Another slot meets a condition. -/
def otherSlot (s : State) (n : Slot) (f : JobSlot → Bool) : Bool := (List.finRange 4).any fun k => k != n && f (s.js k)

/-- What the ARM of an ACCEPTED job with its promise returns but for ARM_BUSY; 0 when every check passes. -/
def armRest (s : State) (n : Slot) : Nat :=
  let j := s.js n
  let mode := if j.remainder then 0 else j.mode
  if s.otherSlot n fun k => k.st = .holding || (k.remainder && (k.st = .analysing || k.st = .accepted)) then 8
  else if !s.thermOk n then 9
  else if !s.fabOk n then 0x0E
  else if mode = 3 ∧ j.param % 16 < 8 ∧ s.rf (R.TIME_TCn_CTL (j.param % 16)) 1 0 = 0 then 0x10
  else if !s.axesReady n then 2
  else if s.pairSecond ∧ s.twin.farCfg ≠ some s.cfgDigest then 2
  else if mode = 1 then
    match s.tickOfDt (w32 j.param) with
    | none => 7
    | some t =>
      let u := s.upSlot n fun j => { j with prepCfg := #v[s.rd R.JOB_POS, s.rd R.JOB_SETTLE, s.rd R.JOB_PREP] }
      if t < s.prepEarliest + u.prepNs n then 7 else 0
  else 0

/-- What it returns: another ARMED slot comes first (R148). -/
def armCheck (s : State) (n : Slot) : Nat := if s.otherSlot n fun k => k.st = .armed then 0x0F else s.armRest n

/-- A job becomes ARMED: the parameters of its preparation are fixed, a running exposure ends, and an
AT_DT job's S is fixed (R142, R149, R150). -/
def armJob (n : Slot) (s : State) : State :=
  let j := s.js n
  let s := if s.twin.pair = 2 then s.putCfgDigest else s
  let s := s.each (List.finRange 16) State.expoAbort
  let s := s.jobChange n fun j =>
    { j with st := .armed, ready := false, early := 0, s := none, dtStart := 0, dtFin := 0, prepAt := none, started := false
             armAt := s.tick, prepCfg := #v[s.rd R.JOB_POS, s.rd R.JOB_SETTLE, s.rd R.JOB_PREP]
             predSlot := if j.mode = 2 && !j.remainder then s.runSlot else none, autoWait := false }
  let s := if (s.js n).startMode = 1 ∧ !s.pairSecond then
      match s.tickOfDt (w32 j.param) with
      | some t => s.fixS n t none (some (w32 j.param))
      | none => s
    else s
  s.refresh

/-! The end of a job. -/

/-- The registers that the units of a beam sample at S (R186, R192, R224, R355). -/
def beCfgRegs (n : Nat) : Vector Nat 7 :=
  #v[R.BEn_AXES n, R.BEn_LAG_CFG n, R.BEn_LAG_DEF n, R.BEn_STOP_CFG n, R.BEn_REJOIN n, R.BEn_REJOIN_EMAX n,
     R.BEn_PWR_CFG n]
def ldCfgRegs (n : Nat) : Vector Nat 3 := #v[R.LDn_CTL n, R.LDn_PWM n, R.LDn_MUSTER_DLY n]
def pcuCfgRegs (n : Nat) : Vector Nat 6 :=
  #v[R.PCUn_CTL n, R.PCUn_PD_CFG n, R.PCUn_FREEZE n, R.PCUn_EYE_CFG n, R.PCUn_EYE_THR n, R.PCUn_EYE_LOOP n]

/-- The units of a beam take those of the registers that `p` picks. -/
def sampleOnly (p : Nat → Bool) (b : Beam) (s : State) : State :=
  let n := b.val
  let take {k : Nat} (r : Vector Nat k) (v : Vector Word k) : Vector Word k :=
    Vector.ofFn fun i => if p r[i] then s.rd r[i] else v[i]
  let t := s.upBe b fun e => { e with cfg := take (beCfgRegs n) e.cfg }
  let t := t.upLd b fun l => { l with cfg := take (ldCfgRegs n) l.cfg }
  let t := t.upPcu b fun x => { x with cfg := take (pcuCfgRegs n) x.cfg }
  if p (R.CAL_Pn_CTL n) then t.upSrc b fun x => { x with lin := s.rb (R.CAL_Pn_CTL n) 0 } else t

/-- The units of a beam take all of them. -/
def sampleBeam (b : Beam) (s : State) : State := s.sampleOnly (fun _ => true) b

/-- The heads of a job's beams: a check in preparation ends, and with `all` the sets that the job drew on are let go. -/
def endHeads (n : Slot) (all : Bool) (s : State) : State :=
  s.each (List.finRange 16) fun b t =>
    if (t.be[b]).job = some n then
      t.upHead b fun h =>
        { h with drawn := if all then none else h.drawn
                 check := h.check.filter fun c => !c.inPrep }
    else t

/-- Fallback that FB_STICKY has held ends with the job or remainder (R222). -/
def fallbackEnd (b : Beam) (s : State) : State :=
  s.upPcu b fun p => { p with fallback := p.fallback && !bit p.cfg[0] 2 }

/-- What the end of a job that ran takes with it: fallback, the heads' sets and checks, the machine program, the engines, and
the arbiter where it runs for no other job (R264, R271). -/
def endJob (n : Slot) (s : State) : State :=
  let s := s.endHeads n true
  let s := if s.mach.job = some n then { s with mach := State.resetMach } else s
  let l := (List.finRange 16).filter fun b => (s.be[b]).job = some n
  let s := s.each l fallbackEnd
  (if s.runSlot.any (· != n) then s else s.zoneHalt).freeBeams n

/-- DEP_TAIL in force (R242). -/
def depTail (s : State) : Nat := fld s.ldgCfg 5 0

/-- The job has reached its commit point: every beam has decoded its last stroke, whose last gate-off has occurred and whose
deposits are written back, and the machine program is complete (R40, R330). -/
def commitReady (s : State) (n : Slot) : Bool :=
  let j := s.js n
  match j.s with
  | none => false
  | some s0 =>
    j.st = .running && s0 ≤ s.tick &&
    (j.named.all fun b =>
      let e := s.be[b]
      e.job == some n && e.dec.halted && e.move.isNone && e.stopReq.isNone &&
      (e.fifo.all fun x => x.gOff.isNone || x.offDone) &&
      (e.gates.all fun g => match g.off with
        | some o => o ≤ 8 * (s.tick : Int)
        | none => false) &&
      (s.ldg.visits[b]).isEmpty &&
      (match (s.pcu[b]).lastOpen with
       | some (k, _) => k + s.depTail < s.sample
       | none => true)) &&
    (j.machAddr == 0 || (s.mach.job == some n && s.mach.halted && s.axesRest n))

/-- The JT_FIN of a RUNNING job that has passed without its commit (R25, R161). -/
def missedFin (s : State) (n : Slot) : Option Nat :=
  let j := s.js n
  match j.s, j.promise with
  | some s0, some p => if s0 + p.jtFin < s.tick then some p.jtFin else none
  | _, _ => none

/-- Commands of a pair that wait for an effective tick past the commit of slot `n` are late: the LEAD posts it now (R41, R168,
R403). -/
def lateCmds (n : Slot) (s : State) : State :=
  let late (c : TimedCmd) : Bool := c.op == 0 || (c.op == 4 && c.slot == n.val)
  let l := s.twin.timed.filter late
  let s := s.upTwin fun t => { t with timed := t.timed.filter fun c => !late c }
  if s.rb R.JOB_RESULT 23 then s.each l fun c t => t.jobPost c.op c.slot (if c.op = 0 then 0x0C else 4) else s

/-- The job commits (R39, R40): DONE. -/
def commitJob (n : Slot) (s : State) : State :=
  let s := s.upTwin fun t => { t with winEnd := if t.winAt.isSome then some s.sample else none }
  let s := s.each (s.js n).named fun b t => t.upBe b fun e => { e with jtLast := s.beJt b }
  let s := s.jobChange n fun j => { j with st := .done, promise := none, commitAt := some s.tick }
  (((s.endJob n).upJob fun q => { q with left := some n }).lateCmds n).refresh

/-- The promise of an ARMED job that can no longer be kept after the RUNNING job of slot `n` was aborted (R150). -/
def withdrawBehind (n : Slot) (s : State) : State :=
  s.each s.armedSlots fun k t =>
    let j := t.js k
    if j.predSlot = some n then t.withdraw k
    else if j.startMode = 1 ∧ beforeOpt j.s fun at_ => at_ < t.tick + t.prepNs k then t.withdraw k
    else t

/-! Preparation and start. -/

/-- The set slots that a job draws on for a head are locked (R341). -/
def lockSets (n : Slot) (b : Beam) (s : State) : State :=
  let (lo, hi, _) := s.chooseSets b
  s.upSlot n fun j => { j with locks := j.locks ++ [s.setSlot b.val lo, s.setSlot b.val hi] }

/-- A check outside jobs that still runs when a preparation takes its head ends early (R350; DESIGN CHOICE, log entry 53). -/
def checkGone (b : Beam) (s : State) : State :=
  match (s.cal.head[b]).check with
  | some c => if c.inPrep then s else (s.upHead b fun h => { h with check := none }).calResult 8 0
  | none => s

/-- The beams of a job are taken by it: they decode from the start state, and each head begins its move (R77, R82, R140,
R149, R341 to R343). -/
def prepBeam (n : Slot) (b : Beam) (s : State) : State :=
  let p := s.startPoint n b
  let z := s.startFocus n b
  let d := s.startDec n b
  let w := (s.js n).prepCfg[0]
  let from_ := s.pos b
  let z0 := s.focusAt b s.tick
  let t := moveNs (dist from_ p) (posV w) (posA w)
  let r := (s.js n).remainder
  let e := s.be[b]
  let done := e.fifo.filter fun x => !((e.stop.bind (·.stroke)).map (·.key) == some x.key)
  let s := ((s.promoteNow b).startScratch n b).zonePrep n b
  let s := ((s.upHead b fun h => { h with drawn := some (s.chooseSets b) }).driftLoad b).checkGone b
  let s := s.lockSets n b
  let check := (s.js n).driftAllot && s.driftDue b && !s.pairSecond
  let s := if check then s.upHead b fun h => { h with check := some { got := [], inPrep := true, asked := none, legAt := (s.js n).driftAt } } else s
  s.upBe b fun e =>
    { e with job := some n, dec := d, fifo := [], strokesDone := if r then e.strokesDone + done.length else 0
             lastStart := if r then e.lastStart else 0, m := p, mz := i32 z, posFrom := some (s.tick, from_)
             zStart := i32 z0, posEnd := s.tick + t, past := e.past.map fun c => { c with until_ := min c.until_ s.tick }, move := none, stopReq := none, barrier := []
             pendEv := [], skip := false, fetched := true, ring := [], read := 0, undo := [], holdTo := 0 }

/-- Another job is RUNNING or HOLDING. -/
def otherRuns (s : State) (n : Slot) : Bool := s.otherSlot n fun k => k.st = .running || k.st = .holding

/-- The ledger at S: period restart, parameters of the job, sampled words and full scales (R237, R238, R243, R256). -/
def ledgerStart (n : Slot) (s0 : Nat) (s : State) : State :=
  let j := s.js n
  let lt := s.ltAtTick s0
  s.upLdg fun g =>
    { g with ltBase := lt, ltAt := s0, ltPrev := (g.ltBase, g.ltAt), rises := Vector.replicate 16 [], tau := some j.tau, kl := some j.kl, layer := j.layer % 256
             kernel := (List.range 9).map j.kern, cfg := s.ldgRegs
             fs := Vector.ofFn fun b : Fin 16 => (s.rd (R.CAL_Pn_FS b.val)).toNat }

/-- The checkpoint windows of a pair run from the first pair-grid sample at or after S (R406). -/
def twinStartWin (s0 : Nat) (s : State) : State :=
  if s.twin.pair = 2 then
    s.upTwin fun t => { t with winAt := some (s.sampleOf (s0 + 49)), winEnd := none, winNo := 0, items := [] }
  else s

/-- The job starts at S: JT is 0 on every named beam (R21, R39). -/
def startJob (n : Slot) (s0 : Nat) (s : State) : State :=
  let j := s.js n
  let s := s.each j.named fun b t => (t.sampleBeam b).upPcu b fun p =>
    { p with acc := 0, fallback := false, expo := none, expoProf := none, trim := 0, trimQ := [], epoch := p.epoch + 1
             eyeFrom := none, eyeLost := false, hold := false }
  let s := s.each j.named fun b t =>
    let t := if ((t.cal.head[b]).check.map (·.inPrep)) = some true then t.checkCut b else t
    (t.upBe b fun e => { e with posFrom := none, jtLast := 0, events := [], stop := if j.remainder then e.stop else none }).wr (R.BEn_EV_STATUS b.val) 0
  let s := (s.ledgerStart n s0).zoneLoad n
  let a := j.machAddr
  let s := if a = 0 then s
    else if j.remainder then
      let axes := (List.finRange 16).filter fun x => nbit (s.jobAxes n) x.val
      let time := (axes.map fun x => queueEnd s0 (s.axPos x s0) ⟨0, 1⟩ (s.ax[x]).kept - s0).foldl max 0
      let u := { s with mach := { s.mach with job := some n, pc := s.mach.resumePc, time := time, halted := false } }
      u.each axes State.axResumeQueue
    else
      let u := { s with mach := { job := some n, pc := s.imgEntry a, time := 0, halted := false, resumePc := s.imgEntry a } }
      u.each ((List.finRange 16).filter fun x => nbit (u.jobAxes n) x.val) fun x t =>
        t.upAx x fun y => { y with kept := [], remValid := false }
  let s := s.twinStartWin s0
  let s := s.each ((List.finRange 4).filter fun k => s.leOn k.val) fun k t => t.traceTrigger k 6
  let s := s.jobChange n fun j => { j with st := .running, loc := 0, locAux := 0 }
  (s.upJob fun q => { q with left := none }).refresh

/-- The promise of a job with an axis that is not ready is withdrawn, with BAD_STATE (R331). -/
def axesBar (n : Slot) (s : State) : State := ((s.upSlot n fun j => { j with locAux := 2 }).withdraw n).refresh

/-- The start of an ARMED job whose S has come; one in BELAY holds at once, and none starts on an axis that is not ready (R21,
R33, R34, R331). -/
def startRun (n : Slot) (s0 : Nat) (s : State) : State :=
  if !s.axesRest n then s.axesBar n
  else
    let t := s.startJob n s0
    if t.dev.inBelay then t.holdNow 2 else t

/-- An ARMED job whose preparation has begun, and whose S has come, runs (R147). -/
def startDue (s : State) : State :=
  match s.armedSlots with
  | n :: _ =>
    match (s.js n).s with
    | some s0 => if s.tick < s0 ∨ (s.js n).prepAt.isNone ∨ s.otherRuns n then s else s.startRun n s0
    | none => s
  | [] => s

/-! The commands' effects: each answers the state, the result code and the slot to report. -/

/-- SUBMIT (R142 to R146). -/
def opSubmit (n : Slot) (s : State) : State × Nat × Nat :=
  let a := s.descAddr n
  if s.dev.inBelay then (s, 3, n.val)
  else if (s.js n).st ≠ .empty then (s, 1, n.val)
  else if a % 128 ≠ 0 ∨ !s.inDdr a 128 then (s, 0x0D, n.val)
  else
    let desc : BitVec 1024 := BitVec.ofNat 1024 (s.rdN a 128)
    let j : JobSlot := { resetSlot with desc := desc, descAt := a, seq := (s.js n).seq }
    let s := s.upPwr fun p => { p with armDie := p.armDie.set n.val none }
    let same := (List.finRange 4).find? fun k => (s.js k).st ≠ .empty ∧ (s.js k).jobId = j.jobId
    let twin := (List.finRange 4).find? fun k =>
      (s.js k).st ≠ .empty ∧ (s.js k).jobId = j.jobId ∧ (s.js k).dN 124 4 = j.dN 124 4
    match twin, same with
    | some k, _ => (s, 5, k.val)
    | none, some _ => (s, 6, n.val)
    | none, none =>
      ((s.jobChange n fun _ => { j with st := .analysing }).upJob fun q => { q with queue := q.queue ++ [n] }, 0, n.val)

/-- No time and no stroke of a beam walked yet. -/
def noBeams (j : JobSlot) : JobSlot := { j with bTime := Vector.replicate 16 0, bStrokes := Vector.replicate 16 0 }

/-- ARM of a slot in ACCEPTED whose promise was withdrawn: a new analysis, whose outcome follows from the device, the ledger
and the die as they stand now (R39, R42). -/
def reAnalyse (n : Slot) (s : State) : State :=
  let s := s.upPwr fun p => { p with armDie := p.armDie.set n.val (some (p.quad, p.hist)) }
  let a := analyse s n
  let s := s.jobChange n fun j =>
    { noBeams j with st := .analysing, phase := 0, withdrawn := false, code := 0, loc := 0, locAux := 0, walked := 0
                     fin := 0, twinAns := none, decided := some a }
  (s.upJob fun q => { q with queue := if (s.js n).remainder then n :: q.queue else q.queue ++ [n] }).refresh

/-- What the ARM of a slot returns as things stand (R142, R148). -/
def armCode (s : State) (n : Slot) : Nat :=
  if s.dev.inBelay then 3
  else if (s.js n).st ≠ .accepted ∨ s.twin.confirm then 2
  else if (s.js n).promise.isNone then 0
  else s.armCheck n

/-- ARM (R142, R148). -/
def opArm (n : Slot) (s : State) : State × Nat × Nat :=
  let c := s.armCode n
  (if c ≠ 0 then s else if (s.js n).promise.isNone then s.reAnalyse n else s.armJob n, c, n.val)

/-- DISARM (R142). -/
def opDisarm (n : Slot) (s : State) : State × Nat × Nat :=
  if (s.js n).st ≠ .armed then (s, 2, n.val)
  else (((s.endHeads n (!(s.js n).remainder)).withdraw n).refresh, 0, n.val)

/-- The kept pitches of a job's axes are discarded (R41). -/
def dropKept (n : Slot) (s : State) : State :=
  s.each ((List.finRange 16).filter fun a => nbit (s.jobAxes n) a.val) fun a t =>
    t.upAx a fun x => { x with kept := [], rem := 0, remValid := false }

/-- ABORT (R41, R142, R147, R150). -/
def opAbort (n : Slot) (s : State) : State × Nat × Nat :=
  let gone (s : State) : State :=
    ((s.dropStops n).jobChange n fun j =>
      { j with st := .aborted, promise := none, ready := false, prepAt := none, decided := none }).refresh
  match (s.js n).st with
  | .analysing =>
    let s := s.upJob fun q =>
      { q with queue := q.queue.filter (· != n), walking := if q.walking = some n then none else q.walking }
    (gone (if (s.js n).remainder then (s.dropKept n).endJob n else s), 0, n.val)
  | .armed => (gone (if (s.js n).remainder then (s.dropKept n).endJob n else (s.endHeads n true).freeBeams n), 0, n.val)
  | .running =>
    if s.commitReady n then (s, 4, n.val)
    else
      let s := s.each (s.js n).named fun b t => t.acceptStop b true
      let s := (s.stopAxes n true).dropKept n
      let s := s.upTwin fun t => { t with winAt := none, winEnd := none, items := [] }
      let s := s.upDev fun d => { d with holdReq := 0 }
      let s := s.jobChange n fun j => { j with st := .aborted, promise := none }
      ((((s.endJob n).dropStops n).withdrawBehind n).refresh, 0, n.val)
  | .holding => (gone ((s.dropKept n).endJob n), 0, n.val)
  | .done => (s, 4, n.val)
  | _ => (s, 2, n.val)

/-- RESUME (R142, R166): the remainder is walked next. -/
def opResume (n : Slot) (s : State) : State × Nat × Nat :=
  if s.dev.inBelay then (s, 3, n.val)
  else if (s.js n).st ≠ .holding then (s, 2, n.val)
  else
    let s := s.each (s.js n).named fun b t => t.keepCourse b t.tick
    let s := s.upPwr fun p => { p with armDie := p.armDie.set n.val none }
    let s := s.jobChange n fun j =>
      { noBeams j with
        st := .analysing, phase := 0, remainder := true, code := 0, walked := 0, fin := 0, s := none, dtStart := 0
        dtFin := 0, ready := false, prepAt := none, early := 0, twinAns := none }
    ((s.upJob fun q => { q with queue := n :: q.queue }).refresh, 0, n.val)

/-- RELEASE (R142, R167). -/
def opRelease (n : Slot) (s : State) : State × Nat × Nat :=
  let j := s.js n
  if j.st = .accepted ∨ j.st = .rejected ∨ j.st = .done ∨ j.st = .aborted then
    let s := if j.remainder ∧ (j.st = .accepted ∨ j.st = .rejected) then (s.dropKept n).endJob n else s.freeBeams n
    (((s.dropStops n).jobChange n fun j => { resetSlot with seq := j.seq }).refresh, 0, n.val)
  else (s, 2, n.val)

/-- A start event of an ARMED AT_MUSTER job: taken once READY, else counted (R150, R151). -/
def startEvent (n : Slot) (stamp : Nat) (s : State) : State :=
  let j := s.js n
  if j.started then s
  else if !j.ready then (s.upSlot n fun j => { j with early := satN 4 (j.early + 1) }).showSlot n
  else (s.upSlot n fun j => { j with started := true }).fixS n (stamp + 4096) none none

/-- GO (R142, R151). -/
def opGo (n : Slot) (s : State) : State × Nat × Nat :=
  let j := s.js n
  if j.st = .armed ∧ j.startMode = 3 ∧ j.param % 16 = 8 then
    (if s.pairSecond then s else s.startEvent n s.tick, 0, n.val)
  else (s, 2, n.val)

/-- The job that left RUNNING last has committed, and shows DONE (R168). -/
def committed (s : State) : Bool :=
  match s.job.left with
  | some k => (s.js k).st = .done
  | none => false

/-- A HOLD request (R33, R168). -/
def opHold (n : Slot) (s : State) : State × Nat × Nat :=
  match s.runSlot with
  | none =>
    if s.committed then (s, 0x0C, n.val)
    else if s.dev.state = .hold ∧ s.dev.holdAt = s.tick ∧ 3 ≤ s.dev.holdCause ∧ s.dev.holdCause ≤ 4 then
      (s.upDev fun d => { d with holdCause := 1 }, 0, n.val)
    else (s, 0x0B, n.val)
  | some r => if s.commitReady r then (s, 0x0C, n.val) else (s.holdAtEnd 1, 0, n.val)

/-- A job command by its OP; 0 is a HOLD request (R142, JOB_RESULT.OP). A start that is due comes first (R147). -/
def jobDo (op : Nat) (n : Slot) (s : State) : State × Nat × Nat :=
  let s := s.startDue
  match op with
  | 0 => s.opHold n
  | 1 => s.opSubmit n
  | 2 => s.opArm n
  | 3 => s.opDisarm n
  | 4 => s.opAbort n
  | 5 => s.opResume n
  | 6 => s.opRelease n
  | 7 => s.opGo n
  | _ => (s, 0x0A, n.val)

/-- The ledger cells that either device committed at or after the earlier of the two stops of a held job, as TWIN_LDG. The
SECOND's stop tick and its commits reach the LEAD by no parcel and are free (R404; log entry 61). -/
def cellsSince (n : Slot) (s : State) : State :=
  let t := ((s.js n).named.filterMap fun b => (s.be[b]).stop.map (·.at_)).foldl min (min s.tick (Config.farStop s.free))
  let own := (s.ldg.changes.filter fun c => t ≤ c.at_).flatMap fun c => match c with
    | .visit c => c.deps.map (·.cell)
    | .sweep _ _ _ => []
  let far := (Config.farCells s.free).filter fun c => c < s.ldgNx * s.ldgNy
  ({ s with free := s.free + 1 } : State).sendCells (own ++ far).dedup

/-- A command on the LEAD of a pair: forwarded; one that acts on a RUNNING job waits for its effective tick, and an ARM for
the SECOND's own checks (R400, R401, R403, R404). -/
def jobPair (op : Nat) (n : Slot) (s : State) : State :=
  let due := s.tick + clampN 1000 3000 (s.rf R.TWIN_CMD_DLY 11 0)
  if (op = 0 ∧ s.runSlot.isSome) ∨ (op = 4 ∧ (s.js n).st = .running) ∨ (op = 7 ∧ (s.js n).st = .armed) then
    ((s.upTwin fun t => { t with timed := t.timed ++ [⟨op, n.val, due, false⟩] }).setB R.JOB_RESULT 23).ctlCmd op n.val
      (s.toPair due)
  else if op = 2 ∧ (s.js n).promise.isSome ∧ s.armCode n = 0 then (s.setB R.JOB_RESULT 23).askArm n false
  else
    let (t, c, m) := s.jobDo op n
    if c ≠ 0 then t.jobPost op m c
    else
      let t := if op = 1 then t.fwdJob n
        else if op = 5 then (t.each (t.js n).named sendStop).cellsSince n
        else t
      (t.ctlCmd op n.val 0).jobPost op m c

/-- A HOLD of the job in slot `n` was accepted on this very tick: an ABORT is taken before it, and the HOLD then finds no
RUNNING job, so that its result is replaced (R168). -/
def heldNow (s : State) (n : Slot) : Bool :=
  s.dev.holdAt == s.tick && s.rd R.JOB_RESULT_FRC == s.frc && s.rf R.JOB_RESULT 19 16 == 0 && s.rf R.JOB_RESULT 7 0 == 0 &&
    (((s.js n).st = .running && s.dev.holdReq == 1) || ((s.js n).st = .holding && s.dev.holdCause == 1))

/-- A job command of the host: ignored while BUSY or on a SECOND that is joining or paired, BAD_STATE on a LEAD that is
joining, forwarded by a paired LEAD (R141, R390). -/
def jobIssue (op : Nat) (n : Slot) (s : State) : State :=
  if s.rb R.JOB_RESULT 23 then s
  else if s.twin.role = 2 ∧ (s.twin.pair = 1 ∨ s.twin.pair = 2) then s.setB R.TWIN_STATUS 5
  else
    let s := s.wr R.JOB_RESULT_FRC s.frc
    if s.twin.pair = 1 then s.jobPost op n.val 2
    else if s.pairLead then s.jobPair op n
    else
      let held := op = 4 ∧ s.heldNow n
      let m0 := s.rf R.JOB_RESULT 13 12
      let (t, c, m) := s.jobDo op n
      let t := if held ∧ c = 0 then t.unpost else t
      let t := t.jobPost op m c
      if held ∧ c = 0 then t.jobPost 0 m0 0x0B else t

end State

/-- SUBMIT (R145). -/
def execSubmit (slot : Slot) (s : State) : Res := .next (s.jobIssue 1 slot)
/-- ARM (R148). -/
def execArm (slot : Slot) (s : State) : Res := .next (s.jobIssue 2 slot)
/-- DISARM (R142). -/
def execDisarm (slot : Slot) (s : State) : Res := .next (s.jobIssue 3 slot)
/-- ABORT (R41). -/
def execAbort (slot : Slot) (s : State) : Res := .next (s.jobIssue 4 slot)
/-- RESUME (R166). -/
def execResume (slot : Slot) (s : State) : Res := .next (s.jobIssue 5 slot)
/-- RELEASE (R142). -/
def execRelease (slot : Slot) (s : State) : Res := .next (s.jobIssue 6 slot)
/-- GO (R151). -/
def execGo (slot : Slot) (s : State) : Res := .next (s.jobIssue 7 slot)
/-- JOB_HOLD: JOB_CTL.HOLD, with the slot that JOB_CTL.SLOT holds (R141, R168). -/
def execJobHold (s : State) : Res :=
  .next (s.jobIssue 0 ⟨s.rf R.JOB_CTL 5 4, Nat.mod_lt _ (by decide)⟩)

/-- AUTO_ARM is cancelled by an obstacle (R148). -/
def State.autoFails (slot : Slot) (code : Nat) (s : State) : State :=
  (s.upSlot slot fun j => { j with autoWait := false, autoFail := true, locAux := w32 code }).showSlot slot

/-- An ACCEPTED job with AUTO_ARM is armed, on the LEAD of a pair once the SECOND has armed it; where only another ARMED slot
stands in its way it waits, and any other obstacle cancels it (R148, R401). -/
def State.autoArm (slot : Slot) (s : State) : State :=
  let (t, c, _) := s.opArm slot
  let c := if c = 0x0F ∧ s.armRest slot ≠ 0 then s.armRest slot else c
  if c = 0 then
    (if !s.pairLead then t
     else if (s.js slot).promise.isNone then t.ctlCmd 2 slot.val 0
     else (s.upSlot slot fun j => { j with autoWait := false }).askArm slot true)
  else if c = 0x0F then s.upSlot slot fun j => { j with autoWait := true }
  else s.autoFails slot c

/-- AUTO_ARM: an ACCEPTED job with AUTO_ARM is armed once no other slot is ARMED; any other obstacle cancels it (R148). -/
def execAutoArm (slot : Slot) (s : State) : Res :=
  let j := s.js slot
  if !j.autoWait ∨ j.st ≠ .accepted ∨ s.armedSlots ≠ [] then .next s
  else
    .next (s.autoArm slot)

/-- PREPARATION_BEGIN: at the ARM, or at the end of the job ahead of it, an ARMED job's preparation begins; an axis that is
not ready withdraws the promise (R149, R150, R331). -/
def execPreparationBegin (slot : Slot) (s : State) : Res :=
  let j := s.js slot
  if j.st ≠ .armed ∨ j.prepAt.isSome ∨ s.otherRuns slot then .next s
  else if !s.axesRest slot then .next (s.axesBar slot)
  else
    let tp := s.prepNs slot
    let end_ := s.tick + tp
    let drift := s.tick + s.settleNs slot
    let s := s.upSlot slot fun j => { j with prepAt := some s.tick, tPrep := tp, driftAt := drift }
    let s := s.each j.named (State.prepBeam slot)
    if s.pairSecond then .next s
    else if j.startMode = 0 then .next (s.fixS slot end_ none none)
    else if j.startMode = 2 then
      let bound := match j.predSlot with
        | some k => (s.js k).s.map fun s0 => s0 + (s.js k).fin + tp
        | none => none
      .next (s.fixS slot end_ bound none)
    else .next s

/-- PREPARATION_END: READY, and start events are taken from now on; an IMMEDIATE start reports DT of S as it is now (R149 to
R151). -/
def execPreparationEnd (slot : Slot) (s : State) : Res :=
  let j := s.js slot
  match j.prepAt with
  | some t =>
    if j.st = .armed ∧ !j.ready ∧ t + j.tPrep ≤ s.tick then
      .next ((s.upSlot slot fun j =>
        { j with ready := true
                 dtStart := match (if j.startMode = 0 then j.s else none) with
                   | some s0 => s.dtAt (w32 s0)
                   | none => j.dtStart }).showSlot slot)
    else .next s
  | none => .next s

/-- JOB_START: S arrives. A start whose preparation could not begin withdraws the promise; one in BELAY holds at once
(R21, R33, R34, R150). -/
def execJobStart (slot : Slot) (s : State) : Res :=
  let j := s.js slot
  match j.s with
  | none => .next s
  | some s0 =>
    if j.st ≠ .armed ∨ s.tick < s0 then .next s
    else if j.prepAt.isNone ∨ s.otherRuns slot then .next ((s.withdraw slot).refresh)
    else .next (s.startRun slot s0)

/-- JOB_COMMIT: the running job has reached its commit point; past S + JT_FIN that is a miss, and never a late DONE (R25, R40,
R161). -/
def execJobCommit (s : State) : Res :=
  match s.runSlot with
  | none => .next s
  | some n =>
    match s.missedFin n with
    | some fin => if s.dev.holdReq = 0 then .next (s.promiseMiss 2 0 fin) else .next s
    | none => if s.commitReady n then .next (s.commitJob n) else .next s

end Sys2Proof.Machine
end

