-- ==== Sys2Proof/Machine/Admission.lean ====
section
/-! DEFINITION. What an analysis leaves: acceptance or rejection, alone or on a pair, and the commands of the walk (R142,
R146, R148, R159, R160, R163, R164, R166, R167, R401). -/

namespace Sys2Proof.Machine

namespace State

/-- The walk of slot `n` has ended, with the words that an analysis leaves in every case (R164). -/
def leaveWalk (n : Slot) (a : Analysis) (s : State) : State :=
  (s.upJob fun q => { q with walking := none }).upSlot n fun j =>
    { j with
      decided := none, walked := a.walked % 2 ^ 48, fin := a.fin % 2 ^ 48, hotspot := a.hotspot
      bTime := a.beams.foldl (fun v x => vupdN v x.1 fun _ => x.2.1) (Vector.replicate 16 0)
      bStrokes := a.beams.foldl (fun v x => vupdN v x.1 fun _ => x.2.2) (Vector.replicate 16 0) }

/-- A rejection (R160, R167). -/
def reject (n : Slot) (a : Analysis) (code : Nat) (loc : Word) (time : Nat) (s : State) : State :=
  let t := (s.leaveWalk n a).jobChange n fun j =>
    { j with st := .rejected, phase := 0, promise := none, locks := [], withdrawn := false, code := code, loc := loc
             locAux := w32 (time / 1000) }
  t.refresh

/-- An acceptance, with AUTO_ARM where the job asks for it (R142, R148, R159). -/
def accept (n : Slot) (a : Analysis) (s : State) : State :=
  let t := ((s.leaveWalk n a).jobChange n fun j =>
    { j with st := .accepted, phase := 0, promise := a.promise, withdrawn := false, code := 0, loc := 0, locAux := 0
             autoFail := false, autoWait := false, s := none, dtStart := 0, dtFin := 0 }).refresh
  if !(t.js n).autoArm || t.pairSecond then t else t.autoArm n

/-- The outcome of an analysis that found no violation: alone, or beside the other device's (R401). A LEAD without the
SECOND's answer stays in phase 6; where the SECOND rejected, it shows the SECOND's code. A rejection of the LEAD's own reaches the
SECOND as CMD DISARM (log entry 90). -/
def finishWalk (n : Slot) (a : Analysis) (p : Promise) (s : State) : State :=
  if s.pairLead then
    match (s.js n).twinAns with
    | none => (s.upSlot n fun j => { j with phase := 6 }).showSlot n
    | some (code, fin, digest) =>
      if code = 0 ∧ fin = p.jtFin ∧ digest = p.digest then s.accept n a
      else if code ≠ 0 then s.reject n a code 0x50000000 p.jtFin
      else (s.reject n a 0x53 0x50000000 p.jtFin).ctlCmd 3 n.val 0
  else if s.pairSecond then
    let t := s.sendAdm n 0 p.jtFin p.digest
    if (t.js n).twinAns.isSome then t.reject n a 0x53 0x50000000 p.jtFin else t.accept n a
  else s.accept n a

/-- The end of the walk of slot `n`. -/
def endWalk (n : Slot) (a : Analysis) (s : State) : State :=
  match a.viol, a.promise with
  | some v, _ =>
    let t := s.reject n a v.code v.loc v.time
    if t.pairSecond then t.sendAdm n v.code a.fin 0
    else if t.pairLead then t.ctlCmd 3 n.val 0
    else t
  | none, some p => s.finishWalk n a p
  | none, none => s

/-- The slot in the walk. -/
def walkSlot (s : State) : Option Slot := s.job.walking.filter fun n => (s.js n).st = .analysing

end State

/-- A beam of slot `n` is still stopping: its stop point, from which a remainder is walked, does not exist yet (R166). -/
def State.stopping (n : Slot) (s : State) : Bool :=
  (s.js n).named.any fun b =>
    (s.be[b]).stopReq.isSome || ((s.be[b]).move.map fun m => !m.done).getD false

/-- WALK_START: the next queued job is walked, once the walk in progress has ended; not while a ledger operation that changes
the geometry or the cells runs (R146, R253). -/
def execWalkStart (s : State) : Res :=
  match s.job.queue with
  | [] => .next s
  | n :: rest =>
    if s.job.walking.isSome ∨ 2 ≤ s.ldg.op ∨ s.stopping n then .next s
    else .next (((s.upJob fun q => { q with queue := rest, walking := some n }).upSlot n fun j =>
      { j with phase := 1 }).showSlot n)

/-- The words of a slot with the walk so far: FIN, and each beam's time and strokes (R164). -/
def walkShown (w : Walk) (j : JobSlot) : JobSlot :=
  let l := walkBeams w
  { j with
    walked := w.total % 2 ^ 48, fin := l.foldl (fun t x => max t x.2.1) 0 % 2 ^ 48
    bTime := l.foldl (fun v x => vupdN v x.1 fun _ => x.2.1) (Vector.replicate 16 0)
    bStrokes := l.foldl (fun v x => vupdN v x.1 fun _ => x.2.2) (Vector.replicate 16 0) }

/-- The outcome of a check has no violation. -/
def okB {α ε : Type} (r : Except ε α) : Bool := match r with
  | .ok _ => true
  | .error _ => false

/-- The settled walk of a job gives none of the codes, or the walk has not come to settle. -/
def settledFree (E : WEnv) (codes : List Nat) : Bool := match Walk.phase3 E Walk.moves [] with
  | .ok w => (settleJob E w).viol.all fun v => !codes.contains v.code
  | .error _ => false

/-- The walk of slot `n` once 65,536 instructions more are walked, where there are so many (R163). -/
def State.walkPart (s : State) (n : Slot) : Option Walk :=
  let E : WEnv := { s := s, n := n }
  let k := (s.js n).walked + 65536
  let w := (E.walk0 []).soFar E k Walk.moves
  if k ≤ w.total then some w else none

/-- The phase in which the analysis of slot `n` stands has passed (R153). -/
def State.phasePassed (s : State) (n : Slot) : Bool :=
  let E : WEnv := { s := s, n := n }
  match (s.js n).phase with
  | 1 => okB (s.checkObjects (s.js n))
  | 2 => okB (s.checkReady (s.js n))
  | 3 => okB (Walk.phase3 E Walk.moves [])
  | 4 => settledFree E [0x44]
  | 5 => settledFree E [0x47, 0x48, 0x49]
  | _ => false

/-- The analysis of slot `n` goes on: in phase 3 the words of the slot are published after each 65,536 instructions walked, and
a phase that has passed gives way to the next (R153, R163, R164; log entry 9). -/
def State.walkOn (n : Slot) (s : State) : State :=
  match (if (s.js n).phase = 3 then s.walkPart n else none) with
  | some w => (s.upSlot n (walkShown w)).publish n
  | none => if s.phasePassed n then (s.upSlot n fun j => { j with phase := j.phase + 1 }).showSlot n else s

/-- STATUS_PUBLISH: the walk in progress goes on, or a job that runs or holds publishes once per housekeeping round of 1 ms
(R163). -/
def execStatusPublish (slot : Slot) (s : State) : Res :=
  let j := s.js slot
  if s.walkSlot = some slot then .next (s.walkOn slot)
  else if (j.st = .running ∨ j.st = .holding) ∧ j.pubRound ≠ s.tick / 1000000 then
    .next ((s.upSlot slot fun j => { j with pubRound := s.tick / 1000000 }).publish slot)
  else .next s

/-- What the analysis of slot `n` comes to: from the state at the ARM that asked for it, else from the state now (R42, R153;
log entry 9). -/
def State.analysisOf (s : State) (n : Slot) : Analysis := (s.js n).decided.getD (analyse s n)

/-- ANALYSIS_END: the walk ends with a promise or with its first violation (R153, R159, R160). -/
def execAnalysisEnd (s : State) : Res :=
  match s.walkSlot with
  | none => .next s
  | some n => .next (s.shp fun s => s.endWalk n (s.analysisOf n))

/-- WALK_LIMIT: a walk whose count passes its limit is rejected (R158). -/
def execWalkLimit (s : State) : Res :=
  match s.walkSlot with
  | none => .next s
  | some n =>
    let a := s.analysisOf n
    .next (if a.viol.any fun v => v.code = 0x4C then s.shp (State.endWalk n a) else s)

end Sys2Proof.Machine
end

