-- ==== Sys2Proof/Machine/Pcu.lean ====
section
/-! DEFINITION. The pool correction unit: photodiode intake, the correction law, and the word of every sample (R211 to
R224), with the deposit samples of the ledger (R242, R243). -/

namespace Sys2Proof.Machine

/-- Settings of a pool correction unit in force (R224). -/
def pdLag (p : Pcu) : Nat := oneIfZero (fld p.cfg[1] 3 0)
def pdLossMax (p : Pcu) : Nat := oneIfZero (fld p.cfg[1] 15 8)
def pdRecover (p : Pcu) : Nat := oneIfZero (fld p.cfg[1] 31 24)
def frzN (p : Pcu) : Nat := max 2 (fld p.cfg[2] 31 16)
def frzP (p : Pcu) : Nat := fld p.cfg[2] 15 0

/-- FB_EN, SIG and EYE_EN of a profile (R89). -/
def Prof.fbEn (f : Prof) : Bool := nbit f.mode 0
def Prof.sig (f : Prof) : Bool := nbit f.mode 1
def Prof.eyeEn (f : Prof) : Bool := nbit f.mode 2

/-- The factor of a derate curve of 64 points (E_HI, F) at a ledger energy (R90). -/
def derate (pts : List (Nat × Nat)) (e : Nat) : Nat :=
  match pts with
  | [] => 0x8000
  | (e0, f0) :: rest =>
    if e ≤ 256 * e0 then f0
    else
      match rest.foldl (fun (a : Option Nat × Nat × Nat) q =>
          let (r, ea, fa) := a
          match r with
          | some v => (some v, ea, fa)
          | none =>
            if e ≤ 256 * q.1 then
              let w := 256 * (q.1 - ea)
              (some (rdiv ((fa * w : Nat) + ((q.2 : Int) - fa) * ((e - 256 * ea : Nat) : Int)) w).toNat, ea, fa)
            else (none, q.1, q.2)) (none, e0, f0) with
      | (some v, _, _) => v
      | (none, _, f) => f

/-- The signal s of R214, unsigned Q16.16. -/
def pcuSig (f : Prof) (a b : Nat) : Nat :=
  if f.sig then (if b = 0 then 0xFFFFFFFF else satN 32 (rdiv (a * 65536 : Nat) b).toNat) else satN 32 (a * 65536)

/-- The reference r of R214 with its scale, and with TRIM where the eye trims it. -/
def pcuRef (f : Prof) (scale : Nat) (trim : Option Int) : Nat :=
  let base := if f.sig then f.iRef else f.iRef % 65536 * 65536
  let r := satN 32 (rdiv (base * scale : Nat) 0x8000).toNat
  match trim with
  | some t => satN 32 (rdiv ((r : Int) * (65536 + t)) 65536).toNat
  | none => r

/-- What a sample's clamp and slew limit make of u (R218): the word, CLAMP_HI, CLAMP_LO, and the direction in which the slew
limit restrains. -/
def pcuLimit (f : Prof) (u : Int) (prev : Option Nat) : Nat × Bool × Bool × Int :=
  let w := (max (f.pMin : Int) (min (f.pMax : Int) u)).toNat
  let hi := decide ((f.pMax : Int) < u)
  let lo := decide (u < f.pMin)
  match prev with
  | none => (w, hi, lo, 0)
  | some p =>
    if p + f.slew < w then (p + f.slew, hi, lo, 1)
    else if w + f.slew < p then (p - f.slew, hi, lo, -1)
    else (w, hi, lo, 0)

/-- The outcome of the law on one OPEN sample. -/
structure LawOut where
  word : Nat
  hi   : Bool
  lo   : Bool
  slew : Int
  acc  : Int
  deriving DecidableEq, Repr

/-- The law of one OPEN sample (R216, R218, R219): `e` is the error where feedback is active. -/
def pcuLaw (f : Prof) (acc pff : Int) (e : Option Int) (prev : Option Nat) : LawOut :=
  match e with
  | none =>
    let (w, hi, lo, d) := pcuLimit f pff prev
    ⟨w, hi, lo, d, acc⟩
  | some e =>
    let lim : Int := (f.intClamp : Int) * 2 ^ f.kiSh
    let p := rshr (satS 64 (f.kp * e)) f.kpSh
    let acc' := max (-lim) (min lim (satS 64 (acc + satS 64 (f.ki * e))))
    let (w, hi, lo, d) := pcuLimit f (pff + p + rshr acc' f.kiSh) prev
    if (hi && 0 < e) || (lo && e < 0) || 0 < d * e then
      let (w, hi, lo, d) := pcuLimit f (pff + p + rshr acc f.kiSh) prev
      ⟨w, hi, lo, d, acc⟩
    else ⟨w, hi, lo, d, acc'⟩

/-- What the beam engine gives for a sample (R176): OPEN with the interval that supplies NOM, NOM, PROF, IREF_SCALE and
FB_HOLD. -/
structure Nominal where
  iv     : Option GateIv
  nom    : Nat
  prof   : Nat
  scale  : Nat
  hold   : Bool
  deriving DecidableEq, Repr

namespace State

/-- The part of a gate-open interval that supplies NOM at the start of a sample: of a chain the stroke whose path phase,
shifted by the lag term, contains it (R176 rules 2 and 3). -/
def partAt (s0 : Nat) (t0 : Int) (g : GateIv) : Option (Nat × Nat × Nat × Nat × Bool) :=
  match g.parts.find? fun x => decide (t0 < 8 * ((s0 + x.1 : Nat) : Int) + g.tau) with
  | some x => some x
  | none => g.parts.getLast?

/-- The next gate-on after sample `k`: its instant, and the exposure that it begins. An edge not yet placed is taken at
its scheduled instant with the present lag term. -/
def nextOn (s : State) (b : Beam) (t1 : Int) : Option (Int × Nat × Nat × Nat × Bool) :=
  let placed := ((s.be[b]).gates.filter fun g => t1 ≤ g.on_ && !g.parts.isEmpty).getLast?
  match placed with
  | some g => (g.parts.head?).map fun (_, x) => (g.on_, x)
  | none =>
    match s.running b with
    | none => none
    | some s0 =>
      match (s.be[b]).fifo.find? fun st => !st.onDone && st.gOn.isSome with
      | some st =>
        match st.gOn with
        | some g =>
          let e := 8 * (s0 : Int) + g
          some (e + (s.lagLimited b e).1, st.power, st.profile, st.irefScale, st.fbHold)
        | none => none
      | none => none

/-- NOM, OPEN and PROF of sample `k` (R176). -/
def nominal (s : State) (b : Beam) (k : Nat) : Nominal :=
  let (t0, t1) := s.sampleSpan k
  let s0 := (s.beS b).getD 0
  let met := (s.be[b]).gates.filter fun g => !g.parts.isEmpty && g.on_ < t1 && (match g.off with
    | some o => decide (t0 < o)
    | none => true)
  match met with
  | g :: rest =>
    let x := if rest.isEmpty then partAt s0 t0 g else g.parts.head?
    match x with
    | some (_, p, i, c, h) => ⟨some g, p, i, c, h⟩
    | none => ⟨some g, 0, 0, 0x8000, false⟩
  | [] =>
    let idle : Nominal :=
      match (s.be[b]).fifo.getLast? with
      | some st => ⟨none, fld (s.be[b]).cfg[6] 31 16, st.profile, st.irefScale, st.fbHold⟩
      | none => ⟨none, fld (s.be[b]).cfg[6] 31 16, (s.pcu[b]).prof, 0x8000, (s.pcu[b]).holdFb⟩
    match s.nextOn b t1 with
    | some (e, p, i, c, h) =>
      if s.sampleOf (e / 8).toNat ≤ k + fld (s.be[b]).cfg[6] 11 8 then ⟨none, p, i, c, h⟩ else idle
    | none => idle

/-- The device address of the profile that governs a sample of beam `b`; none while its engine has no job. -/
def profBase (s : State) (b : Beam) (i : Nat) : Option Nat :=
  (s.be[b]).job.map fun n => s.profAddr (s.js n).profTable b.val i

/-- The derate curve of the profile at `a` (R90). -/
def derateAt (s : State) (a : Nat) : List (Nat × Nat) :=
  (List.range 64).map fun i =>
    let w := s.rdN (a + 256 + 4 * i) 4
    (w / 65536, w % 65536)

/-- The spot of sample `k`: the command at its midpoint less the lag term (R242). -/
def spotOf (s : State) (b : Beam) (k tau : Nat) : Pt :=
  ((s.posAt b (Q.mk' (8 * ((s.sampleAt k + 25 : Nat) : Int) - tau) 8)).1).round

/-- P_ff of sample `k` (R215, R249): the derate factor at the energy of the feed-forward view (R241). -/
def feedForward (s : State) (b : Beam) (k tau nom a : Nat) : Nat :=
  let self := if bit s.ldgCfg 6 then none else some b
  let e := fld (s.viewRead (s.spotOf b k tau) (s.sampleAt k - 4096) self) 23 0
  satN 16 (rdiv (nom * derate (s.derateAt a) e : Nat) 0x8000).toNat

/-! Intake, loss and freeze (R211, R221, R222). -/

/-- The intake of word `k`: the cell of index k - PD_LAG replaces the held values, or counts LOST (R211, R212). -/
def pcuIntake (b : Beam) (k : Nat) (running : Bool) (s : State) : State × Bool :=
  let p := s.pcu[b]
  let j : Int := (k : Int) - pdLag p
  let hit := p.inbox.find? fun c => (c.1 : Int) = j
  let inbox := p.inbox.filter fun c => j < c.1
  match hit with
  | some (_, some (x, y)) =>
    (s.upPcu b fun p =>
      { p with inbox := inbox, ah := x, bh := y, lossRun := 0, okRun := p.okRun + 1
               okVals := (x :: (if p.okRun = 0 then [p.ah] else p.okVals)).take 256 }, true)
  | _ =>
    ((s.upPcu b fun p =>
      { p with inbox := inbox, okRun := 0, okVals := [p.ah]
               lossRun := if running then p.lossRun + 1 else 0 }).count (R.PCUn_CNT_PD b.val) 31 16, false)

/-- Fallback on this evaluation (R222), reported as `id`, shown in bit `i` of PCUn_STATUS; it triggers a capture of
MODE 4. -/
def enterFallback (b : Beam) (id i : Nat) (s : State) : State :=
  let was := (s.pcu[b]).fallback
  let s := ((s.setB (R.PCUn_STATUS b.val) i).report id b.val 0).upPcu b fun p => { p with fallback := true, acc := 0 }
  if was then s else (s.count (R.PCUn_CNT_FB b.val) 15 0).capTrigger b 4

/-- Loss and freeze detection on a sample (R221): `live` says that the sample is OPEN with feedback active as it stands
before the stroke's own FB_HOLD is taken. -/
def pcuDetect (b : Beam) (ok live running : Bool) (s : State) : State :=
  let p := s.pcu[b]
  let s := if running && p.lossRun == pdLossMax p + 1 then s.enterFallback b 0x20 7 else s
  if !live || (s.pcu[b]).fallback || p.word < frzP p then s.upPcu b fun p => { p with frzRun := 0 }
  else if !ok then s
  else
    let run := if p.frzRun ≠ 0 ∧ p.frzVal = p.ah then p.frzRun + 1 else 1
    if frzN p ≤ run then (s.upPcu b fun p => { p with frzRun := 0 }).enterFallback b 0x21 8
    else s.upPcu b fun p => { p with frzRun := run, frzVal := p.ah }

/-- Fallback ends at the first gate-on of a later exposure, where the samples before it allow (R222): `p` is the unit as
it stood before the intake of this sample. -/
def pcuRecovers (p : Pcu) : Bool :=
  let n := pdRecover p
  let l := p.okVals.take (n + 1)
  p.fallback && !bit p.cfg[0] 2 && n ≤ p.okRun && l.any (· ≠ l.headD 0)

/-! Deposit samples (R242, R243). -/

/-- The lag term of the exposure that lights sample `k`: of one whose edge is placed, or of a stroke of the FIFO at its scheduled
edges with the present lag term. -/
def tauAhead (s : State) (b : Beam) (k : Nat) : Option Nat :=
  match (s.nominal b k).iv, s.beS b with
  | some g, _ => some g.tau
  | none, none => none
  | none, some s0 =>
    let (t0, t1) := s.sampleSpan k
    (s.be[b]).fifo.findSome? fun st => match st.gOn, st.gOff with
      | some on_, some off =>
        let tau := (s.lagLimited b (8 * (s0 : Int) + on_)).1
        if !st.onDone ∧ 8 * (s0 : Int) + on_ + tau < t1 ∧ t0 < 8 * (s0 : Int) + off + tau then some tau else none
      | _, _ => none

/-- The cells that the kernel of a deposit sample reaches 83 samples (4,150 ns) from sample `k` are fetched: before that sample
can deposit, and by the instant of the view that its feed-forward reads (R215, R242, R250). -/
def fetchAhead (b : Beam) (k : Nat) (s : State) : State :=
  match (List.range (fld s.ldgCfg 5 0 + 1)).findSome? fun d => s.tauAhead b (k + 83 - d) with
  | some tau =>
    let (i, j) := s.ldgIJ (s.spotOf b (k + 83) tau)
    s.kernelFetch b.val i j
  | none => s

/-- Sample `k` joins a visit, or ends the one that is open and begins another, whose cells are in the cache (R243, R250). -/
def deposit (b : Beam) (k tau : Nat) (opn : Bool) (s : State) : State :=
  let (i, j) := s.ldgIJ (s.spotOf b k tau)
  let l := s.ldg.visits[b]
  let x : VSample := { k := k, opn := opn, pwr := none, lost := false }
  let shut (v : Visit) : Visit := { v with open_ := false }
  let new : List Visit := l.map shut ++ [{ i := i, j := j, samples := [x], open_ := true, susp := false, rise := false }]
  let join : Option (List Visit) := l.getLast?.bind fun v =>
    if v.open_ && v.i == i && v.j == j && (v.samples.head?.map (·.k + 1)) == some k then
      some (l.dropLast ++ [{ v with samples := x :: v.samples }])
    else none
  let s := if join.isSome then s else s.kernelFetch b.val i j
  s.upLdg fun g => { g with visits := vupd g.visits b fun _ => join.getD new }

/-- Sample `k` is no deposit sample: the open visit has ended (R243). -/
def noDeposit (b : Beam) (s : State) : State :=
  let shut (v : Visit) : Visit := { v with open_ := false }
  s.upLdg fun g => { g with visits := vupd g.visits b (List.map shut) }

/-! The word (R212 to R220). -/

/-- What a sample made of the law (R218, R219). -/
structure PcuOut where
  word   : Nat
  hi     : Bool
  lo     : Bool
  slew   : Int
  active : Bool
  deriving DecidableEq, Repr

/-- The first OPEN sample of an exposure resets the integrator and TRIM, unless they carry; in a chain a change of PROF
clamps the integrator (R217, R229). -/
def pcuExposure (b : Beam) (first : Bool) (prof : Nat) (f : Prof) (s : State) : State :=
  let p := s.pcu[b]
  let same := p.expoProf == some prof
  let s :=
    if first then
      let s := if bit p.cfg[0] 1 && same then s else s.upPcu b fun p => { p with acc := 0 }
      if same then s else s.upPcu b fun p => { p with trim := 0, epoch := p.epoch + 1 }
    else if same then s
    else
      let lim : Int := (f.intClamp : Int) * 2 ^ f.kiSh
      s.upPcu b fun p => { p with acc := max (-lim) (min lim p.acc) }
  s.upPcu b fun p => { p with expoProf := some prof }

/-- The law on sample `k` once intake and detection are done (R223 steps 3 to 6). -/
def pcuForm (b : Beam) (k : Nat) (m : Nominal) (first cont running : Bool) (s : State) : State × PcuOut :=
  match s.profBase b m.prof with
  | none => (s, ⟨m.nom, false, false, 0, false⟩)
  | some a =>
    let f := s.profAt a
    let s := if f.eyeEn then s else s.upPcu b fun p => { p with trim := 0, epoch := p.epoch + 1 }
    match m.iv with
    | none => (s, ⟨min m.nom f.pMax, decide (f.pMax < m.nom), false, 0, false⟩)
    | some g =>
      let prev := if cont then some (s.pcu[b]).word else none
      let s := s.pcuExposure b first m.prof f
      let p := s.pcu[b]
      let active := f.fbEn && !m.hold && !p.fallback
      let trim := if f.eyeEn && s.hasEye then some p.trim else none
      let e : Option Int :=
        if active then some ((pcuRef f m.scale trim : Int) - pcuSig f p.ah p.bh) else none
      let o := pcuLaw f p.acc (s.feedForward b k g.tau m.nom a) e prev
      let s := s.upPcu b fun p => { p with acc := o.acc }
      let s := if p.fallback && f.fbEn && !m.hold && running then
          match (s.be[b]).job with
          | some n => s.upSlot n fun j => { j with bFF := vupd j.bFF b (· + 1) }
          | none => s
        else s
      (s, ⟨o.word, o.hi, o.lo, o.slew, active⟩)

/-- The POWER_WORD cell of sample `k`: 0 while the interlock latch is set, the command of an exposure, which is then the power
word that the open checks see, or the linearised word; and its item of the checkpoint window. It enters the transmit PHY boundary 32 ticks after its evaluation (R191, R200,
R212, R213, R220, R352, R355, R406). -/
def powerWord (b : Beam) (k w : Nat) (opn : Bool) (s : State) : State :=
  let expo := s.exposed b (s.sampleAt k)
  let w := if s.ldc.latch then 0 else expo.getD w
  let c := if expo.isSome then w else s.linear b w
  let s := s.upLd b fun l => { l with words := ((k, w) :: l.words).take 32 }
  let s := match (s.be[b]).job with
    | some _ => s.digItem k 1 b.val (toBytes 2 c ++ [BitVec.ofNat 8 (b2n opn)])
    | none => s
  if s.ldOn b.val then
    let ctl := (s.ld[b]).cfg[0]
    s.cellAt (s.tick + 32) (16 + b.val) 0x02 k [c, fld ctl 1 1, oneIfZero (fld ctl 6 4)]
  else s

/-- A SAMPLE record (R232, R233). -/
def sampleRec (b : Beam) (k : Nat) (ok : Bool) (s : State) : State :=
  let p := s.pcu[b]
  let fl := b2n p.opn 0 + b2n p.fallback 1 + b2n (!ok) 2 + b2n p.clampHi 3 + b2n p.clampLo 4 + b2n p.slewed 5 +
    b2n p.fbActive 6 + b2n s.twin.lead 7
  if s.rb (R.PCUn_TEL b.val) 0 && k % 2 ^ s.rf (R.PCUn_TEL b.val) 11 8 == 0 then
    s.telRec b ([1, BitVec.ofNat 8 b.val] ++ toBytes 2 fl ++ toBytes 4 k ++ toBytes 2 p.word ++ toBytes 2 p.nom ++
      toBytes 2 p.ah ++ toBytes 2 p.bh)
  else s

/-- The deposit of sample `k`: open, within the tail after the `last` open sample, or none (R204). -/
def pcuDeposit (b : Beam) (k : Nat) (m : Nominal) (last : Option (Nat × Nat)) (s : State) : State :=
  let tail : Bool := match last with
    | some (j, _) => decide (k ≤ j + fld s.ldgCfg 5 0)
    | none => false
  match m.iv, last with
    | some g, _ => s.deposit b k g.tau true
    | none, some (_, t) => if tail then s.deposit b k t false else s.noDeposit b
    | none, none => s.noDeposit b

/-- What a sample leaves for the next ones: the word, the flags of the word, the exposure and its counters. -/
def pcuStore (b : Beam) (k : Nat) (m : Nominal) (o : PcuOut) (s : State) : State :=
  let opn := m.iv.isSome
  let eye : Bool := match s.profBase b m.prof with
    | some a => opn && (s.profAt a).eyeEn && s.hasEye
    | none => false
  let s := s.upPcu b fun p =>
    { p with
      next := k + 1, word := o.word, nom := m.nom, opn := opn, fbActive := o.active, clampHi := o.hi, clampLo := o.lo
      slewed := o.slew ≠ 0, prof := m.prof, holdFb := m.hold, expo := if opn then m.iv.map (·.on_) else p.expo
      lastOpen := match m.iv with
        | some g => some (k, g.tau)
        | none => p.lastOpen
      hist := ((k, opn && o.active, m.prof, p.epoch) :: p.hist).take 65536
      eyeFrom := if eye && p.eyeFrom.isNone then some s.tick else p.eyeFrom }
  ((s.ifc o.hi (count (R.PCUn_CNT_CLAMP b.val) 31 16)).ifc o.lo (count (R.PCUn_CNT_CLAMP b.val) 15 0)).ifc
    (o.slew ≠ 0) (count (R.PCUn_CNT_FB b.val) 31 16)

/-- The whole of sample `k` (R223). -/
def pcuSample (b : Beam) (k : Nat) (s : State) : State :=
  let running := (s.running b).isSome
  let before := s.pcu[b]
  let (s, ok) := s.pcuIntake b k running
  let m := s.nominal b k
  let opn := m.iv.isSome
  let id := m.iv.map (·.on_)
  let cont := before.opn && before.next == k && before.expo == id
  let first := opn && !cont && before.expo != id
  let s := if first && pcuRecovers before then s.upPcu b fun p => { p with fallback := false } else s
  let fb : Bool := match s.profBase b m.prof with
    | some a => (s.profAt a).fbEn
    | none => false
  let s := s.pcuDetect b ok (opn && fb && !before.holdFb) running
  let (s, o) := (s.fetchAhead b k).pcuForm b k m first cont running
  let s := (s.pcuDeposit b k m before.lastOpen).pcuStore b k m o
  let s := s.powerWord b k o.word opn
  if running then s.sampleRec b k ok else s

end State

/-! The commands. -/

/-- PD_SAMPLE: a cell in time waits for its word; a late one counts LATE in place of LOST, a repeated or older index is
discarded (R211, R212). -/
def execPdSample (b : Beam) (f : Bool) (sidx pdA pdB : BitVec 16) (s : State) : Res :=
  if !s.beamOn b.val ∨ !s.portUp b.val then .next s
  else
    let p := s.pcu[b]
    let j := s.extSidx sidx.toNat
    let k := j + pdLag p
    if j < 0 then .next s
    else if (match p.lastIdx with
        | some i => decide (j ≤ i)
        | none => false) || p.inbox.any (fun c => (c.1 : Int) = j) then .next s
    else if s.sampleAt k.toNat + 17 < s.tick ∨ k < p.next then
      -- the index was taken for one with no cell
      if !f then .next s
      else
        let r := R.PCUn_CNT_PD b.val
        let n := s.rf r 31 16
        .next ((if n = 0 ∨ n = 65535 then s else s.setF r 31 16 (n - 1)).count r 15 0)
    else .next (s.upPcu b fun p =>
      { p with inbox := (j.toNat, if f then some (pdA.toNat, pdB.toNat) else none) :: p.inbox
               lastIdx := if f then some j.toNat else p.lastIdx })

/-- PCU_WORD: the word of the present sample, once its cell has arrived or its deadline has come (R212). -/
def execPcuWord (b : Beam) (s : State) : Res :=
  let p := s.pcu[b]
  let k := s.sample
  let here := p.inbox.any fun c => c.1 + pdLag p = k
  if !s.beamOn b.val ∨ s.dev.state = .reset ∨ s.dev.state = .boot ∨ k < p.next then .next s
  else if here ∨ s.sampleAt k + 17 ≤ s.tick then .next (s.pcuSample b k)
  else .next s

/-- PCU_CNT_CLR (R488). -/
def execPcuCntClr (b : Beam) (s : State) : Res :=
  .next ((((s.wr (R.PCUn_CNT_PD b.val) 0).wr (R.PCUn_CNT_CLAMP b.val) 0).wr (R.PCUn_CNT_FB b.val) 0).wr
    (R.PCUn_EYE_CNT b.val) 0)

end Sys2Proof.Machine
end

