-- ==== Sys2Proof/Machine/Eye.lean ====
section
/-! DEFINITION. The pool eye, frame capture and the telemetry datagrams (R225 to R233). -/

namespace Sys2Proof.Machine

/-! Features (R226). -/

/-- The moment sums over the pixels at or above a threshold: count, Σp, Σpx, Σpy, Σpx², Σpy², Σpxy. -/
structure Moments where
  n   : Nat
  p   : Nat
  x   : Nat
  y   : Nat
  xx  : Nat
  yy  : Nat
  xy  : Nat
  deriving DecidableEq, Repr

/-- The sums of one frame in rows of `w` pixels. -/
def momentsOf (t1 w : Nat) : List Nat → Nat → Moments → Moments
  | [], _, m => m
  | p :: l, i, m =>
    let x := i % w
    let y := i / w
    momentsOf t1 w l (i + 1) <|
      if t1 ≤ p then ⟨m.n + 1, m.p + p, m.x + p * x, m.y + p * y, m.xx + p * x * x, m.yy + p * y * y, m.xy + p * x * y⟩
      else m

/-- 1024 · √(num/den), to nearest. -/
def root1024 (num den : Nat) : Nat := if den = 0 then 0 else (isqrt (num * 2 ^ 22 / den) + 1) / 2

/-- The features of a frame whose pixels are on the 12-bit scale (R226). The moment matrix is taken over SUM²: A = SUM·Σpx² -
(Σpx)², B and C alike; the root of its discriminant is taken to 2^-32. -/
def featuresOf (t1 w : Nat) (pix : List Nat) : Features :=
  let m := momentsOf t1 w pix 0 ⟨0, 0, 0, 0, 0, 0, 0⟩
  let peak := pix.foldl max 0
  if m.p = 0 then ⟨m.n, 0, peak, 0, 0, 0, 0, 0, false⟩
  else
    let a : Int := (m.p * m.xx : Nat) - (m.x * m.x : Nat)
    let b : Int := (m.p * m.yy : Nat) - (m.y * m.y : Nat)
    let c : Int := (m.p * m.xy : Nat) - (m.x * m.y : Nat)
    let root : Int := isqrt ((((a - b) * (a - b) + 4 * c * c) * 2 ^ 64).toNat)
    let l1 := ((a + b) * 2 ^ 32 + root).toNat
    let l2 := ((a + b) * 2 ^ 32 - root).toNat
    let den := m.p * m.p * 2 ^ 33
    let ang := angleOf (a - b) (2 * c)
    let sg : Int := if 2 ^ 31 < ang then (ang : Int) - 2 ^ 32 else ang
    { area := satN 16 m.n, sum := satN 32 m.p, peak := peak
      cx := satN 16 (rdiv (256 * m.x : Nat) m.p).toNat, cy := satN 16 (rdiv (256 * m.y : Nat) m.p).toNat
      len := satN 16 (root1024 l1 den), wid := satN 16 (root1024 l2 den), orient := satS 16 (rdiv sg 65536)
      valid := true }

namespace State

/-- A setting of the eye in force (R224). -/
def eyeOn (s : State) (b : Beam) : Bool := s.hasEye && bit (s.pcu[b]).cfg[3] 0
def trimLag (p : Pcu) : Nat := oneIfZero (fld p.cfg[5] 11 0)
def lossUs (p : Pcu) : Nat := oneIfZero (fld p.cfg[5] 31 16)

/-- A frame is dropped (R225). -/
def dropFrame (b : Beam) (s : State) : State :=
  (s.upPcu b fun p => { p with frame := none }).count (R.PCUn_EYE_CNT b.val) 31 16

/-- A new TRIM from a frame's area (R228). -/
def trimStep (f : Prof) (trim : Int) (area : Nat) : Int :=
  let t := trim + rdiv (f.gain * ((f.areaRef : Int) - area)) 32768
  max (-(f.trimMax : Int)) (min f.trimMax t)

/-- The trims due at sample `k` of the present epoch, in order, on a start value (R229). -/
def trimFold (s : State) (b : Beam) (l : List TrimReq) (trim : Int) : Int :=
  l.foldl (fun t q => match s.profBase b q.prof with
    | some a => trimStep (s.profAt a) t q.area
    | none => t) trim

/-! Frame capture (R231). -/

/-- The capture buffer of a beam. -/
def capBase (b : Beam) : Nat := 0x5000000 + b.val * 0x10000

/-- The length of a frame's record. -/
def capLen (f : Frame) : Nat := cdiv (16 + 2 * (f.w * f.h)) 16 * 16

/-- The capture stops: DONE, and its vector where IRQ is 1. -/
def capStop (b : Beam) (s : State) : State :=
  ((s.upPcu b fun p => { p with capFrom := none }).setB (R.PCUn_CAP_STATUS b.val) 1).ifc
    (s.rb (R.PCUn_CAP_CTL b.val) 4) (msix (6 + b.val))

/-- A frame stored as a record at the next offset. -/
def capStore (b : Beam) (f : Frame) (valid : Bool) (s : State) : State :=
  let n := capLen f
  let o := (s.pcu[b]).capOff
  if 65536 < o + n then s.capStop b
  else
    let head := toBytes 4 f.num ++ toBytes 4 f.mid ++ toBytes 1 f.w ++ toBytes 1 f.h ++ toBytes 1 f.depth ++
      toBytes 1 (b2n valid) ++ toBytes 4 f.frc.toNat
    let body := head ++ f.pix.flatMap (toBytes 2)
    let s := s.wrBytes (capBase b + o) (body ++ List.replicate (n - body.length) 0)
    let s := (s.upPcu b fun p => { p with capOff := o + n }).count (R.PCUn_CAP_STATUS b.val) 11 8
    let want := s.rf (R.PCUn_CAP_CTL b.val) 11 8
    if (want ≠ 0 ∧ want ≤ s.rf (R.PCUn_CAP_STATUS b.val) 11 8) ∨ 65536 < o + n + n then s.capStop b else s

/-- A published frame meets the capture: MODE 3 triggers on its features, and a running capture stores it (R231). -/
def capFrame (b : Beam) (f : Frame) (x : Features) (s : State) : State :=
  let thr := s.rd (R.PCUn_CAP_THR b.val)
  let p := s.pcu[b]
  let hit := p.capArmed && s.rf (R.PCUn_CAP_CTL b.val) 18 16 == 3 && (fld thr 31 16 ≤ x.area || fld thr 11 0 ≤ x.peak)
  if hit then
    (s.upPcu b fun p => { p with capArmed := false, capFrom := some s.tick, capOff := 0 }).capStore b f x.valid
  else match p.capFrom with
    | some t => if t < f.firstAt then s.capStore b f x.valid else s
    | none => s

/-! Publication (R227, R228). -/

/-- The feature words of a frame, written together; FSEQ advances. -/
def featureRegs (b : Beam) (f : Frame) (x : Features) (s : State) : State :=
  let n := b.val
  let s := (((s.wr (R.PCUn_EYE_F0 n) (w32 (x.area * 65536 + x.peak))).wr (R.PCUn_EYE_F1 n) (w32 x.sum)).wr
    (R.PCUn_EYE_F2 n) (w32 (x.cx * 65536 + x.cy))).wr (R.PCUn_EYE_F3 n) (w32 (x.len * 65536 + x.wid))
  let s := (s.wr (R.PCUn_EYE_F4 n) (w32 ((x.orient % 65536).toNat * 65536 + f.num % 65536))).wr (R.PCUn_EYE_F5 n)
    (w32 f.mid)
  (s.advance (R.PCUn_EYE_STATUS n) 31 24).setF (R.PCUn_EYE_STATUS n) 0 0 (b2n x.valid)

/-- A FEATURE record (R232, R233). -/
def featureRec (b : Beam) (f : Frame) (x : Features) (used late : Bool) (trim : Int) (s : State) : State :=
  if s.rb (R.PCUn_TEL b.val) 1 then
    s.telRec b ([2, BitVec.ofNat 8 b.val] ++ toBytes 2 (b2n x.valid 0 + b2n used 1 + b2n late 2) ++ toBytes 4 f.mid ++
      toBytes 2 x.area ++ toBytes 2 x.peak ++ toBytes 4 x.sum ++ toBytes 2 x.cx ++ toBytes 2 x.cy ++ toBytes 2 x.len ++
      toBytes 2 x.wid ++ toBytes 2 (x.orient % 65536).toNat ++ toBytes 2 f.num ++ toBytes 4 (i32 trim).toNat)
  else s

/-- A complete frame is published: features, the outer loop's use of it, capture and telemetry (R227, R228). -/
def publishFrame (b : Beam) (f : Frame) (s : State) : State :=
  let scale := if f.depth = 10 then 4 else 1
  let x := featuresOf (fld (s.pcu[b]).cfg[4] 11 0) f.w (f.pix.map (· * scale))
  let s := (s.upPcu b fun p => { p with full := none }).featureRegs b f x
  let p := s.pcu[b]
  let mid := p.hist.find? fun h => h.1 = f.mid
  let fits : Bool := match mid with
    | some (_, live, prof, _) => x.valid && live && (match s.profBase b prof with
      | some a => (s.profAt a).eyeEn
      | none => false)
    | none => false
  let app := f.mid + trimLag p
  let late := fits && app < s.sample
  let used := fits && !late
  let s := match mid with
    | some (_, _, prof, ep) =>
      if used then
        s.upPcu b fun p => { p with trimQ := p.trimQ ++ [TrimReq.mk app x.area prof ep], hold := false }
      else s
    | none => s
  let s := s.ifc late (count (R.PCUn_EYE_CNT b.val) 15 0)
  let p := s.pcu[b]
  let s := s.featureRec b f x used late (s.trimFold b (p.trimQ.filter fun q => q.epoch = p.epoch) p.trim)
  s.capFrame b f x

/-- The first line of a frame that arrives is the first line of a frame (`line` 0), or the frame has lost it and is dropped; a
frame begun before it is dropped too (R225). -/
def imgBegin (b : Beam) (num : Nat) (s : State) : State × Nat :=
  let no := ((s.pcu[b]).frameNo).getD 0
  let full := no / 65536 * 65536 + num + (if num < no % 65536 then 65536 else 0)
  let s := if (s.pcu[b]).frame.isSome then s.dropFrame b else s
  (s.upPcu b fun p => { p with frameNo := some full }, full)

/-- A line of a frame from the imager (R225, R383). -/
def imgLine (b : Beam) (f : Bool) (mid num line w h depth : Nat) (pix : List Nat) (s : State) : State :=
  let cfg := (s.pcu[b]).cfg[3]
  let good := f && w == fld cfg 23 16 && h == fld cfg 31 24 && (depth == 12) == bit cfg 8 && pix.length == w
  if line = 0 then
    let (s, full) := s.imgBegin b num
    if good && (s.pcu[b]).full.isNone then
      s.upPcu b fun p => { p with frame := some { num := full, mid := mid, w := w, h := h, depth := depth, pix := pix,
                                                  lines := 1, frc := s.frc, firstAt := s.tick } }
    else s.dropFrame b
  else if ((s.pcu[b]).frameNo.map (· % 65536)) ≠ some num then (s.imgBegin b num).1.dropFrame b
  else match (s.pcu[b]).frame with
    | none => s
    | some g =>
      if good && line == g.lines && g.mid == mid then
        let g := { g with pix := g.pix ++ pix, lines := g.lines + 1, frc := s.frc }
        if g.lines = g.h then s.upPcu b fun p => { p with frame := none, full := some g, eyeFrom := none, eyeLost := false }
        else s.upPcu b fun p => { p with frame := some g }
      else s.dropFrame b

/-- The present profile of beam `b` wants the eye (R89, R230). -/
def eyeWanted (s : State) (b : Beam) : Bool :=
  match s.profBase b (s.pcu[b]).prof with
  | some a => (s.profAt a).eyeEn && s.hasEye
  | none => false

end State

/-! The commands. -/

/-- IMG_LINE: on parts without the eye it is counted and discarded (R6, R225). -/
def execImgLine (b : Beam) (f : Bool) (sidx frame : BitVec 16) (line : Fin 128) (w8 h8 : Fin 16) (depth12 : Bool)
    (pix : List (BitVec 16)) (s : State) : Res :=
  if !s.beamOn b.val ∨ !s.portUp b.val then .next s
  else if !s.hasEye then .next (s.count (R.PORTp_TC0 b.val) 15 0)
  else if !s.eyeOn b then .next s
  else
    .next (s.imgLine b f (s.extSidx sidx.toNat).toNat frame.toNat line.val (8 * (w8.val + 1)) (8 * (h8.val + 1))
      (if depth12 then 12 else 10) (pix.map BitVec.toNat))

/-- FEATURE_PUBLISH (R227). -/
def execFeaturePublish (b : Beam) (s : State) : Res :=
  match (s.pcu[b]).full with
  | some f => .next (s.publishFrame b f)
  | none => .next s

/-- TRIM_APPLY: the trims whose application sample has come; those of an earlier epoch, and all during an eye loss, are
discarded (R228 to R230). -/
def execTrimApply (b : Beam) (s : State) : Res :=
  let p := s.pcu[b]
  let due := p.trimQ.filter fun q => q.at_ ≤ s.sample
  let keep := p.trimQ.filter fun q => s.sample < q.at_
  let t := s.trimFold b (due.filter fun q => !p.hold && q.epoch == p.epoch) p.trim
  .next (s.upPcu b fun p => { p with trim := t, trimQ := keep })

/-- EYE_LOSS: LOSS_US without an accepted frame while OPEN samples want one, once until a frame is accepted (R230). -/
def execEyeLoss (b : Beam) (s : State) : Res :=
  let p := s.pcu[b]
  match p.eyeFrom with
  | none => .next s
  | some t =>
    if p.eyeLost ∨ !p.opn ∨ !s.eyeWanted b ∨ s.tick < t + State.lossUs p * 1000 then .next s
    else
      .next (((s.upPcu b fun p => { p with hold := true, eyeLost := true }).setB (R.PCUn_EYE_STATUS b.val) 2).report 0x22 b.val 0)

/-- PCU_CAP_ARM: the capture starts anew, with the trigger of MODE; MODE 0 and the reserved modes ignore it (R231). -/
def execPcuCapArm (b : Beam) (s : State) : Res :=
  let mode := s.rf (R.PCUn_CAP_CTL b.val) 18 16
  if !s.beamOn b.val ∨ !s.hasEye ∨ mode = 0 ∨ 4 < mode then .next s
  else
    .next ((s.setF (R.PCUn_CAP_STATUS b.val) 11 8 0).upPcu b fun p =>
      { p with capOff := 0, capArmed := decide (mode ≠ 1), capFrom := if mode = 1 then some s.tick else none })

/-- The records of a datagram: as many as 1,408 bytes hold. -/
def State.takeRecs : Nat → List (List Byte) → List (List Byte) × List (List Byte)
  | _, [] => ([], [])
  | n, r :: l =>
    if r.length ≤ n then
      let (a, b) := takeRecs (n - r.length) l
      (r :: a, b)
    else ([], r :: l)

/-- DATAGRAM_SEND: 1,408 bytes of records, or a first record that is 20 µs old; a DROP record leads where records were
dropped. The datagram goes out at the next frame boundary that no earlier frame takes (R70, R232, R233). -/
def execDatagramSend (eth : Fin 2) (s : State) : Res :=
  let t := s.tel[eth]
  if t.recs.isEmpty ∨ (s.telBytes eth < 1408 ∧ s.tick < t.openAt + 20000) then .next s
  else
    let drop : List (List Byte) :=
      if t.dropped = 0 then [] else [[4, 0, 0, 0] ++ toBytes 4 t.dropped ++ toBytes 4 t.dropFrc.toNat ++ [0, 0, 0, 0]]
    let (now, rest) := State.takeRecs 1408 (drop ++ t.recs)
    let head := toBytes 2 1 ++ toBytes 1 now.length ++ toBytes 1 s.twin.role ++ toBytes 4 t.seq ++
      toBytes 4 s.frc.toNat ++ toBytes 4 s.dt.toNat
    .next ((s.upTel eth fun x =>
      { x with
        recs := rest, openAt := s.tick, seq := (x.seq + 1) % 2 ^ 32, dropped := 0
        egress := x.egress ++ [(t.seq % 65536, (head ++ now.flatten).map BitVec.toNat)] }).ethNext eth)

end Sys2Proof.Machine
end

