-- ==== Sys2Proof/Machine/Fabric.lean ====
section
/-! DEFINITION. The memory fabric: the slot table, best-effort arbitration, level 0, and table swaps (R276 to R284,
R482). -/

namespace Sys2Proof.Machine

/-- The RES bit and the OWNER of a slot-table entry (R279). -/
def entRes (e : Byte) : Bool := nbit e.toNat 7
def entOwner (e : Byte) : Nat := e.toNat % 64

/-- The stream that an OWNER code names; none for a code that is invalid (R279). -/
def ownerKind (o : Nat) : Option XferKind :=
  if o < 0x10 then some (.fetch o) else if o < 0x20 then some (.ledger (o - 0x10))
  else if o < 0x30 then some (.profile (o - 0x20)) else if o < 0x34 then some (.table (o - 0x30)) else none

namespace State

/-- The unit of a stream is present on the variant (R279). -/
def streamOn (s : State) : XferKind → Bool
  | .fetch b => s.beamOn b
  | .ledger b => s.beamOn b
  | .profile b => s.beamOn b
  | .table k => s.leOn k && k < 4
  | .bestEffort _ => true

/-- The stream that entry `e` reserves a slot for (R279). -/
def entStream (s : State) (e : Byte) : Option XferKind :=
  if entRes e then (ownerKind (entOwner e)).filter s.streamOn else none

/-- Beam `b` belongs to a job that is ARMED, RUNNING or HOLDING. -/
def beamBusy (s : State) (b : Nat) : Bool :=
  match vget? s.be b with
  | some e => match e.job with
    | some n => (s.js n).busy
    | none => false
  | none => false

/-- The stream's unit has work that can ask for data: it is a free value whether a transfer pends in a given slot, since
the spec leaves the units' fetch ahead open. -/
def streamBusy (s : State) : XferKind → Bool
  | .fetch b => s.beamBusy b
  | .ledger b => s.beamBusy b
  | .profile b => s.beamBusy b
  | .table k => match vget? s.le k with
    | some e => s.leReads k && (List.finRange 16).any fun l => (e.slot[l]).st != .off
    | none => false
  | .bestEffort r =>
    if r < 4 then s.rb (R.HOST_DMAc_STATUS r) 0
    else if r = 5 then !(s.tel[0]).recs.isEmpty || !(s.tel[1]).recs.isEmpty
    else if r = 7 then !s.recd.queue.isEmpty || s.recd.cur.isSome
    else if r = 9 then s.ldg.op != 0 || s.ldg.qry
    else if r = 10 then s.job.walking.isSome
    else r ≤ 12

/-- The bytes that the ledger stream of a beam has yet to carry. -/
def ledgerOwed (s : State) (b : Nat) : Nat := (vget? s.ldg.owed b).getD 0

/-- A free bit where the condition holds, else false. -/
def freeBit (c : Bool) (s : State) : Bool × State :=
  if c then
    let (v, s) := s.fresh
    (v.getLsbD 0, s)
  else (false, s)

/-- A stream has a transfer pending at the start of its slot: what the ledger owes is pending for certain, and the table stream
of an engine has its 64 bytes once in a round; else it is a free value (R250, R280, R301). -/
def streamAsks (k : XferKind) (s : State) : Bool × State :=
  match k with
  | .ledger b => (s.ledgerOwed b ≠ 0, s)
  | .table n => (s.streamBusy k && ((vget? s.fab.tabAt n).getD none) != some (s.tick / 4096), s)
  | _ => s.freeBit (s.streamBusy k)

/-- Entries of the shadow and base priorities as the registers hold them (R282, R283). -/
def shadow (s : State) : Vector Byte 64 :=
  Vector.ofFn fun k => BitVec.ofNat 8 (s.rf (R.FAB_SLOT_SHDWk (k.val / 4)) (8 * (k.val % 4) + 7) (8 * (k.val % 4)))
def fabBase (s : State) (r : Nat) : Nat :=
  if r < 8 then s.rf R.FAB_PRIO (4 * r + 2) (4 * r) else s.rf R.FAB_PRIO2 (4 * (r - 8) + 2) (4 * (r - 8))

/-- Whether requester `r` has a transfer in progress at level 0. -/
def inFlight (s : State) (r : Nat) : Bool := s.fab.flight.any fun x => x.kind == .bestEffort r

/-- The outstanding best-effort transfers are cancelled: each requester waits again, with what it has lost (R281). -/
def cancelBest (s : State) : State :=
  let out := s.fab.flight.filterMap fun x => match x.kind with
    | .bestEffort r => some r
    | _ => none
  s.upFab fun f =>
    { f with
      flight := f.flight.filter fun x => match x.kind with
        | .bestEffort _ => false
        | _ => true
      be := out.foldl (fun v r => vupdN v r fun x => { x with pend := some s.tick, again := true }) f.be }

/-- A transfer is issued to level 0. One of a ledger stream carries up to 256 bytes of what it owes, one of a table stream what
its engine reads in this round (R250, R301). -/
def issue (k : XferKind) (s : State) : State :=
  let s := s.upFab fun f => { f with flight := f.flight ++ [{ kind := k, at_ := s.tick }] }
  match k with
  | .ledger n => s.upLdg fun g => { g with owed := vupdN g.owed n (· - 256) }
  | .table n => s.upFab fun f => { f with tabAt := vupdN f.tabAt n fun _ => some (s.tick / 4096) }
  | _ => s

/-- A requester asks, where it has work, no transfer pends and none is in progress (R282). -/
def bestAsk (r : Fin 16) (s : State) : State :=
  if s.inFlight r.val then s
  else
    let x := s.fab.be[r]
    let (ask, s) := s.freeBit (x.pend.isNone && s.streamBusy (.bestEffort r.val) && r.val < 13)
    s.upFab fun f => { f with be := vupd f.be r fun x =>
      { x with pend := if ask then some s.tick else x.pend } }

/-- A write of a base priority applies from the next arbitration, or when the transfer in progress completes; one that was
cancelled is none in progress (R281, R282). -/
def fabRebase (s : State) : State :=
  s.each (List.finRange 16) fun r t =>
    if t.inFlight r.val then t else t.upFab fun f => { f with be := vupd f.be r fun x => { x with base := t.fabBase r.val } }

/-- The requester of two that wins: the higher effective priority, then the longer wait, then the lower ID (R282). -/
def bestOf (s : State) (a b : Fin 16) : Fin 16 :=
  let x := s.fab.be[a]
  let y := s.fab.be[b]
  let ex := min 15 (x.base + x.lost)
  let ey := min 15 (y.base + y.lost)
  if ey < ex then a else if ex < ey then b
  else if (x.pend.getD 0) ≤ (y.pend.getD 0) then a else b

/-- A requester is masked: its base is 6 or 7, and its wins in the window have reached the quota (R282). -/
def fabMasked (x : BestEffort) : Bool := x.masked && 6 ≤ x.base

/-- One best-effort arbitration; a winner whose transfer was cancelled restarts it, which is counted (R281, R282). -/
def arbitrate (s : State) : State :=
  let s := s.each (List.finRange 16) State.bestAsk
  let cand := (List.finRange 16).filter fun r => (s.fab.be[r]).pend.isSome && !fabMasked s.fab.be[r]
  match cand with
  | [] => s
  | r :: l =>
    let w := l.foldl s.bestOf r
    let again := (s.fab.be[w]).again
    let n := oneIfZero (s.rf R.FAB_QUOTA 7 0)
    let s := s.upFab fun f =>
      { f with be := cand.foldl (fun v r => vupd v r fun x => { x with lost := x.lost + 1 }) f.be }
    let s := s.upFab fun f => { f with be := vupd f.be w fun x =>
      let k := if 6 ≤ x.base then min 255 (x.wins + 1) else x.wins
      { x with pend := none, lost := 0, again := false, wins := k, masked := x.masked || n ≤ k } }
    (s.ifc again (count R.FAB_CNT 31 16)).issue (.bestEffort w.val)

/-- Quota windows of the fabric, back to back on FRC, that have ended by now (R282). -/
def fabWindows (s : State) : State :=
  let n := s.tick / (oneIfZero (s.rf R.FAB_QUOTA 31 16) * 1000)
  if s.fab.window ≠ n then
    s.upFab fun f => { f with window := n, be := f.be.map fun x => { x with wins := 0, masked := false } }
  else s

/-- A write of the shadow: what stood there before the writes of this tick is kept (R283). -/
def shadowKeep (s : State) : State :=
  if s.fab.shAt = s.tick then s else s.upFab fun f => { f with shAt := s.tick, shOld := s.shadow }

/-- The shadow with the writes accepted before this tick (R283). -/
def shadowIn (s : State) : Vector Byte 64 := if s.fab.shAt = s.tick then s.fab.shOld else s.shadow

/-- A swap is due: this is a round boundary after the tick of its write (R283). -/
def swapDue (s : State) : Bool := s.fab.swapPend && s.fab.swapAt < s.tick && s.tick % 4096 == 0

/-- The check of R284 and, where it passes, the copy into service (R283). -/
def swapDo (s : State) : State :=
  let sh := s.shadowIn
  let bad : Bool := sh.toList.any fun e => entRes e && (ownerKind (entOwner e)).isNone
  let cnt (v : Vector Byte 64) (o : Nat) : Nat := (v.toList.filter fun e => entRes e && entOwner e == o).length
  let held : Bool := (List.finRange 4).any fun n => (s.js n).st = .armed || (s.js n).st = .running
  let fewer : Bool := (List.range 0x34).any fun o =>
    (match ownerKind o with
     | some k => s.streamOn k
     | none => false) && cnt sh o < cnt s.fab.live o
  let s := s.upFab fun f => { f with swapPend := false }
  if bad then (s.setB R.FAB_STATUS 3).setB R.FAB_STATUS 2
  else if held && fewer then s.setB R.FAB_STATUS 2
  else (s.upFab fun f => { f with live := sh }).setB R.FAB_STATUS 1

end State

/-- FAB_SLOT: on the first tick of a 64 ns slot its owner's transfer is issued, which cancels best-effort bursts, or the
slot is lent; a lent or unreserved slot is one best-effort arbitration. Slot 0 follows a table swapped in on its tick (R278 to
R283). -/
def execFabSlot (s : State) : Res :=
  if s.tick % 64 ≠ 0 ∨ s.fab.slotAt = some s.tick ∨ s.dev.state = .reset then .next s
  else
    let s := ((s.ifc s.swapDue State.swapDo).upFab fun f => { f with slotAt := some s.tick }).fabWindows
    let e : Byte := (vget? s.fab.live (s.tick / 64 % 64)).getD 0
    match s.entStream e with
    | none => .next s.arbitrate
    | some k =>
      let (ask, s) := s.streamAsks k
      if ask then .next (s.cancelBest.issue k) else .next (s.count R.FAB_CNT 15 0).arbitrate

/-- FAB_QUOTA_WINDOW_END (R282). -/
def execFabQuotaWindowEnd (s : State) : Res := .next s.fabWindows

/-- CROOK_PREEMPT: refresh, or while debug access is unlocked the debug port, at most one burst in any 1 µs per channel
(R276). -/
def execCrookPreempt (chan : Fin 2) (debug : Bool) (s : State) : Res :=
  if s.ddrChans ≤ chan.val then .next s
  else
    let late : Bool := match s.fab.dbgAt[chan] with
      | some t => t + 1000 ≤ s.tick
      | none => true
    if debug && !(s.host.dbgOpen && late) then .next s
    else
      let s := s.ifc debug (State.upFab fun f => { f with dbgAt := vupd f.dbgAt chan fun _ => some s.tick })
      .next (s.count R.FAB_L0_CNT (16 * chan.val + 15) (16 * chan.val))

/-- TRANSFER_COMPLETE: the oldest transfer at level 0 ends. A reserved one updates FAB_L0_MAX; a DDR5 error is counted, and an
uncorrectable one in program fetch raises BE_FETCH (R108, R277, R482). -/
def execTransferComplete (e : XferEnd) (s : State) : Res :=
  match s.fab.flight with
  | [] => .next s
  | x :: rest =>
    let s := s.upFab fun f => { f with flight := rest }
    let s := match x.kind with
      | .bestEffort r => s.upFab fun f => { f with be := vupdN f.be r fun y => { y with base := s.fabBase r } }
      | _ => s.wmod R.FAB_L0_MAX fun w => w32 (satN 16 (max w.toNat (s.tick - x.at_)))
    match e with
    | .corrected => .next (s.count R.DDR_ECC 15 0)
    | .uncorrectable =>
      let s := s.count R.DDR_ECC 31 16
      match x.kind with
      | .fetch n =>
        if h : n < 16 then .next ((s.report 0x11 n 0).upBe ⟨n, h⟩ fun b => { b with stopReq := some true }) else .next s
      | _ => .next s
    | _ => .next s

/-- SWAP: a swap is requested; one that is pending already has no further effect (R283). -/
def execSwap (s : State) : Res :=
  if s.fab.swapPend then .next s else .next (s.upFab fun f => { f with swapPend := true, swapAt := s.tick })

/-- SWAP_APPLY: at the first round boundary after the write, the shadow is checked and put into service or the swap is
refused (R283, R284). -/
def execSwapApply (s : State) : Res :=
  if s.swapDue then .next s.swapDo else .next s

/-- FAB_CNT_CLR (R488). -/
def execFabCntClr (s : State) : Res := .next (((s.wr R.FAB_CNT 0).wr R.FAB_L0_CNT 0).wr R.FAB_L0_MAX 0)

end Sys2Proof.Machine
end

