-- ==== Sys2Proof/Machine/Recorder.lean ====
section
/-! DEFINITION. The event recorder (R436 to R448). -/

namespace Sys2Proof.Machine

/-- Device address of the ring area (R436). -/
def ringBase : Nat := 0x10900000
/-- Its size, 7 MiB. -/
def ringSize : Nat := 0x700000
/-- Device address of the CAIRN area (R436). -/
def cairnBase : Nat := 0x10800000
/-- Its size, 1 MiB. -/
def cairnSize : Nat := 0x100000

namespace State

/-- The bytes of a record as they stand after commit: header, payload padded with zeros, and in CRC mode the CRC in the
last 4 bytes (R437). A PAD of 16 bytes has no room for a CRC beside its header (log entry 20). -/
def recBytes (crc held cairn : Bool) (len type pcc opMs : Nat) (payload : List Byte) : List Byte :=
  let head := toBytes 2 len ++ toBytes 1 type ++ toBytes 1 (b2n crc 0 + b2n held 1 + b2n cairn 2) ++ toBytes 4 pcc ++
    toBytes 4 (opMs / 1000) ++ toBytes 2 (opMs % 1000) ++ toBytes 2 (if crc then 0xC3C3 else 0xA55A)
  let body := (head ++ payload ++ List.replicate (len - 16 - payload.length) 0).take len
  if crc && 20 ≤ len then
    let b := body.take (len - 4)
    b ++ toBytes 4 (crc32 b).toNat
  else body

/-- The LENGTH field at ring offset `o`. -/
def ringLen (s : State) (o : Nat) : Nat := s.rdN (ringBase + o) 2

/-- TAIL moved over whole records until more than `n` bytes lie free from HEAD (R441); HEAD equals TAIL only when the
ring is empty. -/
def freeTail (n : Nat) : Nat → State → State
  | 0, s => s
  | k + 1, s =>
    let q := s.recd
    if q.head = q.tail ∨ n < (q.tail + ringSize - q.head) % ringSize then s
    else
      let len := s.ringLen q.tail
      let pad := s.rdByte (ringBase + q.tail + 2) = 1
      let t := s.upRec fun q => { q with tail := (q.tail + max len 16) % ringSize }
      freeTail n k (if pad then t else t.count R.REC_CNT 31 16)

/-- The control block written: one copy after the other, with the next sequence (R436, R440, R443). -/
def saveCb (s : State) : State :=
  let q := s.recd
  let n := (q.cbSeq + 1) % 2 ^ 32
  let c : CtlBlk := ⟨q.head, q.tail, q.cairn, q.cairnFull, q.pcc, q.warm, q.opMs, n⟩
  (s.upRec fun q => { q with cbSeq := n }).upMram fun m => if n % 2 = 1 then { m with cbA := some c } else { m with cbB := some c }

/-- The operating time that the control block holds (R443). -/
def savedMs (s : State) : Nat := ((if s.recd.cbSeq % 2 = 1 then s.mram.cbA else s.mram.cbB).map (·.opMs)).getD 0

/-- The LOST record takes its payload as its writing begins (R438, R445). -/
def lostFill (s : State) (r : Rec) : Rec :=
  if r.type = 3 then { r with payload := toBytes 4 s.recd.ovf ++ toBytes 4 s.recd.ovfFrc.toNat } else r

/-- Step 1 of R440: TAIL advances, a PAD record fills an end that is too short, and the control block is written (R441). -/
def recBegin (r : Rec) (s : State) : State :=
  let r := s.lostFill r
  let crc := s.crcMode
  let len := recLen crc r.payload.length
  let room := ringSize - s.recd.head
  let pad := if room < len then room else 0
  let s := freeTail (len + pad) 524288 s
  let s := if pad = 0 then s
    else s.wrBytes (ringBase + s.recd.head) (recBytes crc false false pad 1 s.recd.pcc r.opMs [])
  let at_ := if pad = 0 then s.recd.head else 0
  (s.saveCb).upRec fun q => { q with cur := some ⟨r, crc, at_, len, 2⟩ }

/-- One part of a record at a device address: 0 the header, whose MARK is 0x0000 in valid-mark mode, 1 the payload with the CRC,
2 the MARK (R437, R440). -/
def recPart (x : RecRun) (cairn : Bool) (at_ part : Nat) (s : State) : State :=
  let l := recBytes x.crc x.rec_.held cairn x.len x.rec_.type s.recd.pcc x.rec_.opMs x.rec_.payload
  if part = 0 then s.wrBytes at_ (l.take 14 ++ if x.crc then (l.drop 14).take 2 else [0, 0])
  else if part = 1 then s.wrBytes (at_ + 16) (l.drop 16)
  else s.wrBytes (at_ + 14) ((l.drop 14).take 2)

/-- The areas are frozen from now on: what waits passes through the holding buffer (R437, R445). -/
def freezeNow (s : State) : State :=
  s.upRec fun q => { q with frozen := true, frzAt := s.tick, queue := q.queue.map fun r => { r with held := true } }

/-- The next part of the record being written (R440 to R442, R445): it is committed with its MARK, or in CRC mode with its
CRC; then comes the CAIRN copy while it fits, and last HEAD in the control block. A freeze that was asked for begins then. -/
def recStep : State → State := shp fun s =>
  match s.recd.cur with
  | none => s
  | some x =>
    let go (n : Nat) (s : State) : State := s.upRec fun q => { q with cur := some { x with part := n } }
    let done (s : State) : State := go 5 (if x.rec_.type = 3 then s.upRec fun q => { q with ovf := 0 } else s)
    let c := cairnBase + s.recd.cairn
    if x.part ≤ 2 then go 3 (s.recPart x false (ringBase + x.at_) 0)
    else if x.part = 3 then
      let t := s.recPart x false (ringBase + x.at_) 1
      if x.crc then done t else go 4 t
    else if x.part = 4 then done (s.recPart x false (ringBase + x.at_) 2)
    else if x.part = 5 then
      if s.recd.cairnFull then go 8 s
      else if s.recd.cairn + x.len ≤ cairnSize then go 6 (s.recPart x true c 0)
      else go 8 ((s.upRec fun q => { q with cairnFull := true }).irq R.REC_IRQ_STATUS R.REC_IRQ_EN 5 0)
    else if x.part = 6 then
      let t := s.recPart x true c 1
      if x.crc then go 8 (t.upRec fun q => { q with cairn := q.cairn + x.len }) else go 7 t
    else if x.part = 7 then go 8 ((s.recPart x true c 2).upRec fun q => { q with cairn := q.cairn + x.len })
    else
      let t := (s.upRec fun q => { q with head := (x.at_ + x.len) % ringSize, cur := none }).saveCb
      if t.rb R.REC_CTL 0 && !t.recd.frozen then t.freezeNow else t

/-- The record being written, written to its end. -/
def recFinish (s : State) : State := recStep (recStep (recStep (recStep (recStep (recStep (recStep s))))))

/-- One record committed in both areas at once, behind the one being written. -/
def commitRecord (r : Rec) : State → State := shp fun s => ((s.recFinish).recBegin r).recFinish

/-- Every record that waits is committed, before a RESET that the ladder makes (R431). -/
def flushRecords (s : State) : State :=
  let t := (s.recFinish).upRec fun q => { q with queue := [] }
  s.recd.queue.foldl (fun t r => commitRecord r t) t

/-- The records from ring offset `o` to `e`, PAD not counted. -/
def ringCount (s : State) (e : Nat) : Nat → Nat → Nat
  | 0, _ => 0
  | k + 1, o =>
    if o = e then 0
    else (if s.rdByte (ringBase + o + 2) = 1 then 0 else 1) + ringCount s e k ((o + max (s.ringLen o) 16) % ringSize)

/-- The records of the CAIRN area from offset `o` to `e`. -/
def cairnCount (s : State) (e : Nat) : Nat → Nat → Nat
  | 0, _ => 0
  | k + 1, o => if e ≤ o then 0 else 1 + cairnCount s e k (o + max (s.rdN (cairnBase + o) 2) 16)

/-- The end of a freeze: the held records follow, then one LOST record where any were discarded (R445). -/
def unfreeze (s : State) : State :=
  (s.setF R.REC_CTL 0 0 0).upRec fun q =>
    { q with
      frozen := false
      queue := if q.ovf ≠ 0 ∧ !q.queue.any (·.type = 3) then
        q.queue ++ [{ type := 3, payload := [], opMs := q.opMs, held := true }] else q.queue }

/-- The record at HEAD is committed: MARK by valid mark, or by CRC with a good CRC (R444). -/
def committedAt (s : State) (base o : Nat) : Bool :=
  let len := s.rdN (base + o) 2
  let mark := s.rdN (base + o + 14) 2
  16 ≤ len && len ≤ 4096 && len % 16 == 0 &&
    (mark == 0xA55A ||
      (mark == 0xC3C3 && (len == 16 || (crc32 (s.rdBytes (base + o) (len - 4))).toNat == s.rdN (base + o + len - 4) 4)))

/-- Step 1 of R444 on the ring. -/
def recoverRing : Nat → State → State
  | 0, s => s
  | k + 1, s =>
    let h := s.recd.head
    if h < ringSize ∧ s.committedAt ringBase h ∧ (h + s.ringLen h ≤ ringSize) then
      recoverRing k (s.upRec fun q => { q with head := (q.head + s.ringLen h) % ringSize })
    else s

/-- Step 1 of R444 on the CAIRN area. -/
def recoverCairn : Nat → State → State
  | 0, s => s
  | k + 1, s =>
    let h := s.recd.cairn
    let len := s.rdN (cairnBase + h) 2
    if !s.recd.cairnFull ∧ h < cairnSize ∧ s.committedAt cairnBase h ∧ h + len ≤ cairnSize then
      recoverCairn k (s.upRec fun q => { q with cairn := h + len })
    else s

/-- A torn record at the end of an area becomes a PAD, and a TORN record names it (R444 steps 2 and 3). -/
def recoverTorn (cairn : Bool) (s : State) : State :=
  let base := if cairn then cairnBase else ringBase
  let size := if cairn then cairnSize else ringSize
  let h := if cairn then s.recd.cairn else s.recd.head
  let len := s.rdN (base + h) 2
  if 16 ≤ len ∧ len ≤ 4096 ∧ len % 16 = 0 ∧ h + len ≤ size ∧ !(cairn && s.recd.cairnFull) then
    let t := s.wrBytes (base + h) (recBytes true false cairn len 1 s.recd.pcc s.recd.opMs [])
    let t := t.upRec fun q => if cairn then { q with cairn := h + len } else { q with head := (h + len) % ringSize }
    let t := (t.count R.REC_CNT 15 0).irq R.REC_IRQ_STATUS R.REC_IRQ_EN 5 3
    t.record 0x04 (toBytes 4 h ++ [BitVec.ofNat 8 (b2n cairn)])
  else s

/-- The copy of the control block that BOOT uses: of those with a good CRC the one with the higher sequence (R436). -/
def goodCb (s : State) : Option CtlBlk :=
  match s.mram.cbA, s.mram.cbB with
  | some a, some b => some (if b.seq < a.seq then a else b)
  | some a, none => some a
  | none, b => b

/-- The offsets, the counts and the operating time come from the control block. Where neither copy is good the areas start again and
CAIRN is full; the counts and the operating time are then free values (R436, R444 step 4; DESIGN CHOICE, log entry 66). -/
def loadCb (s : State) : State :=
  match s.goodCb with
  | some c => s.upRec fun q =>
      { q with head := c.head, tail := c.tail, cairn := c.fill, cairnFull := c.full, pcc := c.pcc, warm := c.warm, opMs := c.opMs
               cbSeq := c.seq }
  | none =>
    let (x, s) := s.fresh
    let (y, s) := s.fresh
    let n := x.toNat
    let s := s.upRec fun q =>
      { q with head := 0, tail := 0, cairn := 0, cairnFull := true, pcc := n % 2 ^ 32, warm := n / 2 ^ 32, opMs := y.toNat, cbSeq := 0 }
    (s.setB R.REC_STATUS 6).record 2 ([0, 0, 0, 0] ++ toBytes 4 0xFFFFFFFF)

/-- MRAM recovery (R444), before any record of the boot. -/
def recoverMram (s : State) : State :=
  if s.goodCb.isNone then s else ((recoverCairn 65536 (recoverRing 524288 s)).recoverTorn false).recoverTorn true

end State

/-- RECORD_WRITE: the writing of the record at the front of the queue begins with step 1 of R440, unless another is being written
or the areas are frozen or are to be; the engine ticks that follow write and commit it part by part (R440, R445; log entry 66). -/
def execRecordWrite (s : State) : Res :=
  match s.recd.queue with
  | [] => .next s
  | r :: q =>
    if s.recd.frozen ∨ s.recd.cur.isSome ∨ s.dev.shpHalt then .next s
    else .next ((s.upRec fun x => { x with queue := q }).recBegin r)

/-- OPTIME_SAVE: operating time goes into the control block (R443). -/
def execOptimeSave (s : State) : Res := .next (s.shp State.saveCb)

/-- CRC_MODE_END: 10 ms above VWARN without a break end the CRC mode of a dip (R439). -/
def execCrcModeEnd (s : State) : Res :=
  match s.recd.aboveAt with
  | some t =>
    if t + 10000000 ≤ s.tick ∧ !s.dev.belowVwarn then
      .next (s.upRec fun q => { q with warnCrc := false, aboveAt := none })
    else .next s
  | none => .next s

/-- FREEZE: a write of REC_CTL.FREEZE starts a freeze, once the record being written has ended, or ends one (R445). -/
def execFreeze (p : Path) (on : Bool) (s : State) : Res :=
  let t := s.upRec fun q => { q with frzSrc := decide (p = .i2c) }
  if on then
    if s.recd.frozen then .next t
    else
      let t := t.setB R.REC_CTL 0
      .next (if t.recd.cur.isSome then t else t.freezeNow)
  else if s.recd.frozen then .next t.unfreeze
  else .next (t.clrB R.REC_CTL 0)

/-- FREEZE_TIMEOUT: a freeze that has lasted TMO seconds ends by itself (R446). -/
def execFreezeTimeout (s : State) : Res :=
  if s.recd.frozen ∧ s.recd.frzAt + oneIfZero (s.rf R.REC_FREEZE_CFG 7 0) * 1000000000 ≤ s.tick then
    .next ((s.unfreeze.setB R.REC_STATUS 4).irq R.REC_IRQ_STATUS R.REC_IRQ_EN 5 2)
  else .next s

/-- REC_RD_DATA: 4 bytes of the recorder area at REC_RD_OFS, which then advances, wrapping at 8 MiB (R447). -/
def execRecRdData (_p : Path) (s : State) : Res :=
  let o := s.rf R.REC_RD_OFS 22 0
  let t := s.upHost fun h => { h with rdData := s.rd32 (cairnBase + o) }
  .next (t.wr R.REC_RD_OFS (w32 ((o + 4) % 0x800000)))

/-- REC_CLR_KEY: the key from one path enables a clear from that path; any other word discards it (R448). -/
def execRecClrKey (p : Path) (key : BitVec 16) (s : State) : Res :=
  .next (s.upRec fun q => { q with clrKey := if key = 0x7A3C then some (p, s.tick) else none })

/-- The key was written on this path within 1 ms (R448). -/
def State.clrAllowed (s : State) (p : Path) : Bool :=
  match s.recd.clrKey with
  | some (q, t) => q == p && s.tick ≤ t + 1000000
  | none => false

/-- The CLEARED record: area, path, records discarded (R438). -/
def clearedRec (area : Nat) (p : Path) (n opMs : Nat) : Rec :=
  { type := 2, payload := toBytes 1 area ++ toBytes 1 (if p = .i2c then 1 else 0) ++ [0, 0] ++ toBytes 4 n,
    opMs := opMs, held := false }

/-- CLR_RING with its key: TAIL becomes HEAD and a CLEARED record follows; else CLR_REFUSED (R448). -/
def execClrRing (p : Path) (s : State) : Res :=
  if s.clrAllowed p then
    let n := s.recFinish.ringCount s.recFinish.recd.head 524288 s.recFinish.recd.tail
    let t := (s.recFinish).upRec fun q => { q with tail := q.head, clrKey := none }
    .next (t.commitRecord (clearedRec 0 p n s.recd.opMs))
  else .next (s.setB R.REC_STATUS 5)

/-- CLR_CAIRN with its key: fill and CAIRN_FULL become 0 and a CLEARED record follows; else CLR_REFUSED (R448). -/
def execClrCairn (p : Path) (s : State) : Res :=
  if s.clrAllowed p then
    let n := s.recFinish.cairnCount s.recFinish.recd.cairn 65536 0
    let t := (s.recFinish).upRec fun q => { q with cairn := 0, cairnFull := false, clrKey := none }
    .next (t.commitRecord (clearedRec 1 p n s.recd.opMs))
  else .next (s.setB R.REC_STATUS 5)

/-- REC_CNT_CLR (R488). -/
def execRecCntClr (s : State) : Res := .next (s.wr R.REC_CNT 0)

end Sys2Proof.Machine
end

