-- ==== Sys2Proof/Machine/Twin.lean ====
section
/-! DEFINITION. Twin operation: forming a pair, the pair grid, job commands of a pair, checkpoints, heartbeats and takeover
(R390 to R416). -/

namespace Sys2Proof.Machine

namespace State

/-- Cells listed ahead of their launch take F from the lead bit of the present (R391). -/
def reF (s : State) : State :=
  { s with sent := s.sent.map fun x => if s.tick < x.at_ ∧ x.port < 35 ∧ x.msg < 0x40 then { x with f := s.cellF x.port } else x }

/-- The role and the pairing change, which sets bit 0 of TWIN_IRQ_STATUS (R390). -/
def setPair (role pair : Nat) (lead : Bool) (s : State) : State :=
  let same := s.twin.role = role ∧ s.twin.pair = pair
  let t := s.withEmit fun s => (s.upTwin fun t => { t with role := role, pair := pair, lead := lead }).reF
  if same then t else t.irq R.TWIN_IRQ_STATUS R.TWIN_IRQ_EN 3 0

/-- Posts the result of a TWIN_CMD (TWIN_RESULT). -/
def twinPost (code : Nat) (s : State) : State :=
  (((s.advance R.TWIN_RESULT 31 24).clrB R.TWIN_RESULT 23).setF R.TWIN_RESULT 7 0 code).irq
    R.TWIN_IRQ_STATUS R.TWIN_IRQ_EN 3 2

/-- An unpaired device runs its own sample grid, from the end of the jobs that run on the pair grid (R395; log entry 104). -/
def gridHome (s : State) : State :=
  if s.twin.ofs ≠ 0 ∧ s.twin.pair = 0 ∧ s.runSlot.isNone ∧ s.armedSlots = [] then s.upTwin fun t => { t with ofs := 0 } else s

/-- An ARM that waited for the SECOND is decided by this device alone (R148). -/
def armAlone (c : TimedCmd) (s : State) : State :=
  let n : Slot := ⟨c.slot % 4, Nat.mod_lt _ (by decide)⟩
  let (t, r, m) := s.opArm n
  if c.auto then (if r = 0 then t else s.autoFails n r) else t.jobPost 2 m r

/-- What a pair shares ends: windows and comparisons, and an ARM that waits for the SECOND; commands that wait for their tick
keep it. -/
def twinClear (s : State) : State :=
  let l := s.twin.timed.filter (·.op = 2)
  let s := s.upTwin fun t => { t with winAt := none, winEnd := none, items := [], mine := [], theirs := [], agreed := none, step := 0
                                      deltas := [], decideAt := none, decided := none, obj := none
                                      timed := t.timed.filter (·.op ≠ 2) }
  (s.each l armAlone).gridHome

/-- A failed ROPE_UP: both devices are UNPAIRED in the role of their ROLE_CFG. The SECOND tells the LEAD with LEAVE; the LEAD's
heartbeats tell the SECOND (R397; log entry 61). -/
def joinFail (code : Nat) (s : State) : State :=
  if s.twin.pair ≠ 1 then s
  else if s.twin.role = 2 then ((s.ctl 9 [1]).setPair 2 0 false).twinClear
  else ((s.setPair 0 0 true).twinClear).twinPost code

/-- The result of a ROPE_UP that the SECOND has ended, by the step it is in (R397). -/
def leaveCode (s : State) : Nat := [1, 1, 4, 5].getD s.twin.step 6

/-- The pair is formed. The SECOND runs on the pair grid from now on (R395, R397). -/
def joined (s : State) : State :=
  let s := if s.twin.role = 2 then (s.setPair 2 2 false).upTwin fun t => { t with ofs := t.timeRef } else s.setPair 1 2 true
  s.upTwin fun t => { t with step := 0, farCfg := none, hbLast := some (20 * (s.sample / 20)), hbMiss := 0, skewAt := some s.tick }

/-- The device may join: IDLE, with no live slot (R397). -/
def joinOk (s : State) : Bool := s.dev.state == .idle && s.slotsQuiet

/-- The pair dissolves: the LEAD becomes SOLO, the SECOND an unpaired SECOND (R408). -/
def dissolve (s : State) : State :=
  if s.twin.role = 2 then (s.setPair 2 0 false).twinClear else (s.setPair 0 0 true).twinClear

/-- TWIN_DIVERGE on this device: U-class, counted; `tell` is set where the partner is to be told (R408). -/
def diverge (tell : Bool) (s : State) : State :=
  let s := (s.report 0x48 0 0).count R.TWIN_CNT 23 16 |>.irq R.TWIN_IRQ_STATUS R.TWIN_IRQ_EN 3 1
  (if tell then s.ctlCmd 16 0 (s.toPair s.tick) else s).dissolve

/-! Forming a pair. -/

/-- The device enables a port that the variant has. -/
def portUsed (s : State) (p : Nat) : Bool := s.portOn p && s.portEn p

/-- RTT: PORTp_RTT of every port that this device enables, TP last, which ends the list (R396, R416; log entry 61). -/
def sendRtts (s : State) : State :=
  let l := (List.finRange 35).filter fun p => p.val != 32 && s.portUsed p.val
  let s := s.each (l ++ [tp]) fun p t => t.ctl 12 ([BitVec.ofNat 8 p.val, 1, 0, 0] ++ toBytes 2 (t.port[p]).rtt)
  s.upTwin fun t => { t with skewAt := some s.tick }

/-- The partner's list of RTTs is complete. -/
def rttsIn (s : State) : Bool := (sget 32 s.twin.farRtt).isSome

/-- The largest skew over the ports that both devices enable, with its port (R13, R396). -/
def skewMax (s : State) : Nat × Nat :=
  (List.finRange 35).foldl (fun m p =>
    match sget p.val s.twin.farRtt with
    | some r =>
      let own := (s.port[p]).rtt
      let d := (rdiv ((own : Int) - r) 2).natAbs
      if s.portUsed p.val && m.1 < d then (d, p.val) else m
    | none => m) (0, 0)

/-- TWIN_SKEW written from a comparison. -/
def putSkew (x : Nat × Nat) (s : State) : State := s.wr R.TWIN_SKEW (w32 (x.2 * 2 ^ 24 + satN 16 x.1))

/-- The cells of the ledger region that hold something, ascending. -/
def usedCells (s : State) : List Nat :=
  let base := s.ldgBase
  ((s.mem.filterMap fun c =>
    if base ≤ c.1 && c.1 < base + 8 * (s.ldgNx * s.ldgNy) then some ((c.1 - base) / 8) else none).dedup)

/-- A run of consecutive members at the front of a rising list, at most `n` long, and the rest. -/
def runOf : Nat → List Nat → List Nat × List Nat
  | 0, l => ([], l)
  | _, [] => ([], [])
  | n + 1, c :: l =>
    match l with
    | d :: _ => if d = c + 1 then let (a, b) := runOf n l; (c :: a, b) else ([c], l)
    | [] => ([c], [])

/-- The ledger copy from cell `pos` on: zero runs as ZERO, other cells as TWIN_LDG of up to 7 (R399). -/
def copyGo (total : Nat) : Nat → Nat → List Nat → State → State
  | 0, _, _, s => s
  | _, pos, [], s =>
    if pos < total then s.ctl 7 (toBytes 4 pos ++ toBytes 4 (total - pos)) else s
  | k + 1, pos, c :: l, s =>
    let s := if pos < c then s.ctl 7 (toBytes 4 pos ++ toBytes 4 (c - pos)) else s
    let (run, rest) := runOf 7 (c :: l)
    let s := s.parcel tp 0x91 (toBytes 4 c ++ run.flatMap fun i => toBytes 8 (s.cellWord i).toNat)
    copyGo total k (c + run.length) rest (s.upTwin fun t => { t with copied := t.copied + run.length })

/-- STATE: LT and its period start, layer, τ and K_L (R397, R416). -/
def sendState (s : State) : State :=
  let at_ := s.tick - (s.tick - s.ldg.ltAt) % 64000
  s.ctl 8 (toBytes 4 (s.ltAtTick at_) ++ toBytes 8 (s.toPair at_) ++ [BitVec.ofNat 8 s.ldg.layer, 0, 0, 0] ++
    toBytes 4 s.ldgTau ++ toBytes 2 s.ldgKl)

/-- Step 4 of ROPE_UP on the LEAD: flush and ledger copy (R397, R399). -/
def joinCopy (s : State) : State :=
  let s := (s.flushCache).upTwin fun t => { t with copied := 0, step := 4 }
  let l := s.usedCells
  let s := copyGo (s.ldgNx * s.ldgNy) (l.length + 1) 0 l s
  s.wr R.TWIN_COPY (w32 (s.twin.copied / 256))

/-- Steps 5 and 6, once the SECOND has acknowledged the copy: STATE, DRIFT of every head, JOINED (R397, R399). -/
def joinEnd (s : State) : State :=
  let x := s.port[tp]
  if s.twin.role ≠ 1 ∨ s.twin.pair ≠ 1 ∨ s.twin.step ≠ 4 ∨ x.unacked ≠ [] ∨ x.waiting ≠ [] then s
  else
    let s := (s.sendState).each ((List.finRange 16).filter fun b => s.beamOn b.val) driftSend
    ((s.ctl 11 []).joined).twinPost 0

/-- Step 3 of ROPE_UP with the partner's RTTs: the skew is judged, and the LEAD goes on (R396, R397). -/
def joinSkew (s : State) : State :=
  if s.twin.step ≠ 3 ∨ !s.rttsIn then s
  else
    let x := s.skewMax
    let s := s.putSkew x
    if 400 ≤ x.1 then s.joinFail 5
    else if s.twin.role = 2 then s.upTwin fun t => { t with step := 4 }
    else s.joinCopy

/-- TWIN_OFS as the SECOND of a pair holds it. -/
def putOfs (m : Int) (s : State) : State := (s.wr R.TWIN_OFS_LO (i32 m)).wr R.TWIN_OFS_HI (i32 (m / 2 ^ 32))

/-- Step 2 of ROPE_UP with 16 values: they lie within 2 ns, and the SECOND takes their mean, rounded once (R13, R394). The values
are held doubled. -/
def joinTime (s : State) : State :=
  let l := s.twin.deltas
  if l.length < 16 then s
  else
    let hi := l.foldl max (l.headD 0)
    let lo := l.foldl min (l.headD 0)
    if 4 < hi - lo then s.joinFail 4
    else
      let m := rdiv l.sum 32
      let s := s.upTwin fun t => { t with timeRef := m, timeOk := true, timeGood := 3, timeBad := 0, step := 3, deltas := [] }
      ((if s.twin.role = 2 then s.putOfs m else s).sendRtts).joinSkew

/-- A heartbeat of a LEAD whose ROPE_UP has failed carries ROLE SOLO: the SECOND goes back too (R397; log entry 61). -/
def joinGone (s : State) : State := if s.twin.pair = 1 ∧ s.twin.role = 2 ∧ s.twin.farRole = some 0 then s.joinFail 6 else s

end State

/-- ROPE_UP: checked and begun with the exchange of digests (R397, R398). A part without the twin port ignores it, as it
does the other commands of TWIN_CMD (R7). -/
def execRopeUp (s : State) : Res :=
  if !s.hasTwin ∨ s.rb R.TWIN_RESULT 23 then .next s
  else if s.rf R.TWIN_CTL 1 0 = 2 ∨ s.twin.pair ≠ 0 ∨ !s.joinOk then .next (s.twinPost 1)
  else if !s.portUp 32 ∨ (s.port[State.tp]).farProf.toNat % 256 ≠ 5 ∨ s.twin.farRole ≠ some 2 then .next (s.twinPost 2)
  else
    let s := ((s.setF R.TWIN_CTL 1 0 1).setPair 1 1 true).upTwin fun t =>
      { t with step := 1, deltas := [], farCfg := none, farRtt := [] }
    .next (((s.setB R.TWIN_RESULT 23).putCfgDigest).sendCfg)

namespace State

/-- TWIN_TAKE sent by a LEAD, which clears its lead bit at the next sample (R410, R414). -/
def takeSend (cause : Nat) (s : State) : State :=
  (s.cell 32 0x31 s.sample [cause]).upTwin fun t =>
    { t with leadAt := some (t.leadAt.getD (s.sampleAt (s.sample + 1), false)), sentCause := cause }

/-- The roles have swapped: the pair grid is the new LEAD's own (R395, R414; log entry 104). -/
def swapGrid (s : State) : State :=
  let s := s.upTwin fun x => { x with timeRef := -x.timeRef, ofs := if x.role = 2 then -x.timeRef else 0 }
  (if s.twin.role = 2 then s.putOfs s.twin.ofs else s).upTwin fun x => { x with hbLast := some (20 * (s.sample / 20)) }

/-- The lead bit changes on its tick: after HANDOVER the roles swap, after another TAKE the LEAD is an unpaired SECOND
(R410, R414). -/
def leadStep (s : State) : State :=
  match s.twin.leadAt with
  | none => s
  | some (t, v) =>
    if s.tick < t then s
    else
      let s := s.upTwin fun x => { x with leadAt := none }
      if v then (((s.setPair 1 2 true).upTwin fun x => { x with took := 3 }).swapGrid).setF R.TWIN_CTL 1 0 1
      else if s.twin.sentCause = 0 then ((s.setPair 2 2 false).swapGrid).setF R.TWIN_CTL 1 0 2
      else (((s.setPair 2 0 false).twinClear).setF R.TWIN_CTL 1 0 2)

/-- The condition of R412 for keeping the beams exposing (READY). -/
def takeReady (s : State) : Bool :=
  s.twin.timeOk && (match s.twin.agreed with
    | some k => s.tick ≤ s.sampleAt (k + 1) +
        1000 * (2 * clampN 10 1000 (s.rf R.TWIN_CHECK 15 0) + clampN 5 255 (s.rf R.TWIN_CHECK 23 16))
    | none => false)

/-- On the decision tick of a takeover it is fixed whether the device may lead and whether the beams go on (R411, R412). -/
def decideStep (s : State) : State :=
  if s.twin.decided.isNone ∧ s.twin.decideAt.any (· ≤ s.tick) then
    s.upTwin fun t => { t with decided := some (!s.dev.inBelay, s.takeReady) }
  else s

end State

/-- HANDOVER: a paired LEAD that is IDLE gives the lead away (R414). -/
def execHandover (s : State) : Res :=
  if !s.hasTwin ∨ s.rb R.TWIN_RESULT 23 then .next s
  else if s.pairLead && s.dev.state == .idle then .next ((s.takeSend 0).twinPost 0)
  else .next (s.twinPost 1)

/-- CONFIRM_SOLO: a BROKEN lead is SOLO and UNPAIRED (R413). -/
def execConfirmSolo (s : State) : Res :=
  if !s.hasTwin ∨ s.rb R.TWIN_RESULT 23 then .next s
  else if s.twin.pair = 3 then
    .next (((((s.setPair 0 0 true).gridHome).upTwin fun t => { t with confirm := false }).setF R.TWIN_CTL 1 0 1).twinPost 0)
  else .next (s.twinPost 1)

/-- RELEASE_LEAD: with no job RUNNING, a BROKEN device is an unpaired SECOND without the lead bit (R413). -/
def execReleaseLead (s : State) : Res :=
  if !s.hasTwin ∨ s.rb R.TWIN_RESULT 23 then .next s
  else if s.twin.pair = 3 ∧ s.runSlot.isNone then
    .next (((((s.setPair 2 0 false).gridHome).upTwin fun t => { t with confirm := false }).setF R.TWIN_CTL 1 0 2).twinPost 0)
  else .next (s.twinPost 1)

/-- ROLE_CFG_WRITE: the role of an unpaired device with no live slot; refused otherwise (R390). A part without the twin
port ignores the write (R7). -/
def execRoleCfgWrite (v : Fin 4) (s : State) : Res :=
  if !s.hasTwin then .next s
  else if s.twin.pair ≠ 0 ∨ !s.slotsQuiet then .next (s.setB R.TWIN_STATUS 6)
  else
    let t := s.setF R.TWIN_CTL 1 0 v.val
    .next (if v.val = 2 then t.setPair 2 0 false else t.setPair 0 0 true)

/-- TWIN_TIME_SEND: every 1 ms, and every 10 µs during ROPE_UP, the launch stamp and the arrival of the partner's last cell; 0
before the first has come (R393; log entry 61). -/
def execTwinTimeSend (s : State) : Res :=
  let gap := if s.twin.pair = 1 then 10000 else 1000000
  if s.portTalks State.tp ∧ s.twin.txAt.head?.all fun t => t + gap ≤ s.tick then
    let last := match s.twin.rxAt with
      | some t => (w32 t).toNat
      | none => 0
    .next ((s.cell 32 0x32 s.sample [s.frc.toNat, last]).upTwin fun t => { t with txAt := (s.tick :: t.txAt).take 8 })
  else .next s

namespace State

/-- Twice delta and twice delay of an exchange, from the partner's two stamps, both extended under R50. The own launch is the last
one at or before the arrival here less the time that the partner held the cell; none where there is none (R393). -/
def exchange (s : State) (far : Nat) (lastArr : Word) : Option (Int × Int) :=
  let arr : Int := (far : Int) + diff32 lastArr (w32 far)
  let held := (far : Int) - arr
  let own := if held < 0 then none else s.twin.txAt.find? fun t : Nat => decide ((t : Int) ≤ (s.tick : Int) - held)
  own.map fun t =>
    let x := arr - (t : Int)
    let y := (s.tick : Int) - (far : Int)
    (x - y, x + y)

/-- A measurement of a formed pair against TWIN_OFS, from twice the value: three beyond 2 ns and three within it (R394). -/
def timeJudge (d2 delay2 : Int) (s : State) : State :=
  let e2 := d2 - 2 * s.twin.timeRef
  let s := s.wr R.TWIN_TIME_ERR (w32 (satN 16 (rdiv delay2 2).toNat * 65536 + (satS 16 (rdiv e2 2) % 65536).toNat))
  let bad := 4 < e2.natAbs
  let s := s.upTwin fun t =>
    { t with timeBad := if bad then min 3 (t.timeBad + 1) else 0, timeGood := if bad then 0 else min 3 (t.timeGood + 1) }
  if s.twin.timeBad = 3 ∧ s.twin.timeOk then
    let s := s.upTwin fun t => { t with timeOk := false }
    if s.twin.role = 2 then s.report 0x4B 0 0 else s
  else if s.twin.timeGood = 3 then s.upTwin fun t => { t with timeOk := true }
  else s

end State

/-- TWIN_TIME: the pair offset from the two directions; in ROPE_UP one of the 16 values, in a pair the error against
TWIN_OFS (R393, R394). -/
def execTwinTime (launch lastArr : Word) (s : State) : Res :=
  let far := s.twin.farExt + (launch - w32 s.twin.farExt).toNat
  let first := s.twin.rxAt.isNone
  let t := s.upTwin fun t => { t with rxAt := some s.tick, farExt := far }
  match (if first then none else s.exchange far lastArr) with
  | none => .next t
  | some (x, y) =>
    let d := if s.twin.role = 2 then x else -x
    if s.twin.pair = 1 ∧ s.twin.step = 2 then .next ((t.upTwin fun t => { t with deltas := t.deltas ++ [d] }).joinTime)
    else if s.twin.pair = 2 ∨ s.twin.pair = 3 then .next (t.timeJudge d y)
    else .next t

/-- The skew of a formed pair, judged (R396). -/
def State.judgeSkew (s : State) : State :=
  let x := s.skewMax
  let bad := 400 ≤ x.1
  let t := (s.putSkew x).upTwin fun t => { t with skewBad := bad }
  if bad && !s.twin.skewBad then t.report 0x4C 0 0 else t

/-- TWIN_SKEW_CHECK: once per ms the RTTs go to the partner, and the skew is judged from its last ones (R396). -/
def execTwinSkewCheck (s : State) : Res :=
  if s.twin.pair ≠ 2 ∨ s.twin.skewAt.any fun t => s.tick < t + 1000000 then .next s
  else .next (if s.rttsIn then (s.sendRtts).judgeSkew else s.sendRtts)

namespace State

/-- The last sample of the open window: its length, or the commit sample (R406). -/
def winLast (s : State) (k0 : Nat) : Nat :=
  let e := k0 + 20 * clampN 10 1000 (s.rf R.TWIN_CHECK 15 0) - 1
  match s.twin.winEnd with
  | some c => min e c
  | none => e

/-- Two digests of one window are compared (R407). -/
def compareDigests (no last : Nat) (own far : DWord) (s : State) : State :=
  let s := ((s.wr R.TWIN_CP (w32 no)).wr R.TWIN_CP_END (w32 last)).wr R.TWIN_DIG_LO (w32 own.toNat)
  let s := (s.wr R.TWIN_DIG_HI (w32 (own.toNat / 2 ^ 32))).wr R.TWIN_PDIG_LO (w32 far.toNat)
  let s := s.wr R.TWIN_PDIG_HI (w32 (far.toNat / 2 ^ 32))
  let s := s.upTwin fun t => { t with mine := t.mine.filter (·.1 ≠ no), theirs := t.theirs.filter (·.1 ≠ no)
                                      agreed := if own = far then some last else none }
  if own = far then s else s.diverge true

/-- The order of two items of a window (R406). -/
def digLe (a b : DigItem) : Bool := a.k < b.k || (a.k == b.k && (a.ord < b.ord || (a.ord == b.ord && a.rank ≤ b.rank)))

end State

/-- CHECKPOINT_DIGEST: at tick 0 of the twentieth sample after the window's last one, its digest is sent, and compared with
the partner's where that has come (R406, R407). -/
def execCheckpointDigest (s : State) : Res :=
  match s.twin.winAt with
  | none => .next s
  | some k0 =>
    let last := s.winLast k0
    if s.twin.pair ≠ 2 ∨ s.sample < last + 20 then .next s
    else
      let no := s.twin.winNo
      let l := (s.twin.items.filter fun x => k0 ≤ x.k && x.k ≤ last).reverse.mergeSort State.digLe
      let d := crc64 (l.flatMap (·.bytes))
      let over_ : Bool := match s.twin.winEnd with
        | some c => c ≤ last
        | none => false
      let s := s.cell 32 0x30 (last + 1) [no % 2 ^ 32, d.toNat]
      let s := s.upTwin fun t =>
        { t with winAt := if over_ then none else some (last + 1), winEnd := if over_ then none else t.winEnd
                 winNo := no + 1, items := if over_ then [] else t.items.filter fun x => last < x.k
                 mine := (no, last, d) :: t.mine }
      match s.twin.theirs.find? (·.1 = no) with
      | some (_, f) => .next (s.compareDigests no last d f)
      | none => .next s

/-- TWIN_DIGEST: the partner's digest, compared at once or when the own one is formed (R407). -/
def execTwinDigest (num : Word) (digest : DWord) (s : State) : Res :=
  if s.twin.pair ≠ 2 then .next s
  else match s.twin.mine.find? (·.1 = num.toNat) with
    | some (no, last, d) => .next (s.compareDigests no last d digest)
    | none => .next (s.upTwin fun t => { t with theirs := t.theirs ++ [(num.toNat, digest)] })

/-- DIGEST_TIMEOUT: the partner's digest of a window is missing at CHECK_TMO while its heartbeats arrive (R407). -/
def execDigestTimeout (s : State) : Res :=
  let tmo := 20 * clampN 5 255 (s.rf R.TWIN_CHECK 23 16)
  if s.twin.pair = 2 ∧ (s.twin.mine.any fun x => x.2.1 + tmo ≤ s.sample) ∧ 3 ≤ s.twin.hbGood then .next (s.diverge true)
  else .next s

/-- TWIN_HB_MISSING: at tick 0 of a heartbeat sample, the partner's heartbeat of the sample 20 before has not arrived; the third
in a row decides a takeover on the SECOND and breaks the pair on the LEAD (R409, R411, R413). -/
def execTwinHbMissing (s : State) : Res :=
  let k := s.sample
  if s.twin.pair ≠ 2 ∨ k % 20 ≠ 0 ∨ s.sampleAt k ≠ s.tick ∨ (s.twin.hbLast.any fun j => k ≤ j + 20) then .next s
  else
    let s := (s.count R.TWIN_CNT 15 0).upTwin fun t => { t with hbMiss := min 3 (t.hbMiss + 1), hbGood := 0 }
    if s.twin.hbMiss < 3 then .next s
    else if s.twin.role = 2 then
      if s.rb R.TWIN_CTL 2 ∧ s.twin.decideAt.isNone then
        .next ((s.upTwin fun t => { t with decideAt := some s.tick, hbTake := true }).decideStep)
      else .next s
    else .next ((((s.setPair 1 3 true).twinClear).upTwin fun t => { t with confirm := true }).report 0x4A 32 0)

/-- TWIN_TAKE: on a SECOND the cell is received; on a LEAD in BELAY the cell is sent (R410, R411, R414). -/
def execTwinTake (m : TakeMsg) (s : State) : Res :=
  let cause := m.cause.val
  if s.pairSecond then
    let s := s.upTwin fun t => { t with takeCause := cause }
    if cause = 0 then .next (s.upTwin fun t => { t with leadAt := some (s.sampleAt (s.sampleNear m.sidx + 2), true) })
    else if cause ≤ 2 then
      .next (s.upTwin fun t => { t with leadAt := none, decideAt := some (s.tick + 500), decided := none, hbTake := false })
    else .next s
  else if s.pairLead && cause = 1 && s.dev.inBelay then .next (s.takeSend 1)
  else .next s

/-- TAKEOVER: on the first sample after the decision tick the SECOND takes the lead, unless it was in BELAY on that tick; the
beams go on exposing under R412, or stop at the end of their strokes (R411 to R413). -/
def execTakeover (s : State) : Res :=
  match s.twin.decideAt with
  | none => .next s
  | some d =>
    if s.tick < s.sampleAt (s.sampleOf d + 1) then .next s
    else
      let (may, ready) := s.twin.decided.getD (!s.dev.inBelay, s.takeReady)
      if !may ∨ !s.pairSecond then .next (s.upTwin fun t => { t with decideAt := none, decided := none })
      else
        let lost := s.twin.hbTake
        let s := if lost then (s.setPair 1 3 true).upTwin fun t => { t with confirm := true, took := 1 }
          else (s.setPair 0 0 true).upTwin fun t => { t with took := 2 }
        let s := ((s.twinClear).count R.TWIN_CNT 31 24).report 0x49 0 0
        let s := s.setF R.TWIN_CTL 1 0 1
        if ready ∨ s.runSlot.isNone then .next s else .next ((s.holdAtEnd 1).setB R.TWIN_STATUS 7)

/-- TWIN_CMD_EFFECTIVE: a command of a pair has reached its effective tick; the LEAD posts its result (R403). -/
def execTwinCmdEffective (s : State) : Res :=
  match s.twin.timed with
  | [] => .next s
  | c :: rest =>
    if c.op = 2 ∨ s.tick < c.at_ then .next s
    else
      let n : Slot := ⟨c.slot % 4, Nat.mod_lt _ (by decide)⟩
      let s := s.upTwin fun t => { t with timed := rest }
      let (t, r, m) := s.jobDo c.op n
      .next (if s.rb R.JOB_RESULT 23 then t.jobPost c.op m r else t)

namespace State

/-- The LEAD's phase 6 rejected the job: a slot whose walk ended well goes to REJECTED too, at the end of its walk where that still
runs (R401; log entry 90). -/
def leadRejects (n : Slot) (s : State) : State :=
  if (s.js n).st = .analysing then s.upSlot n fun j => { j with twinAns := some (0x53, 0, 0) }
  else if (s.js n).st = .accepted ∧ (s.js n).promise.isSome then
    (s.jobChange n fun j => { j with st := .rejected, promise := none, locks := [], code := 0x53, loc := 0x50000000 }).refresh
  else s

/-- A CMD parcel on the SECOND (R400, R401, R403). -/
def cmdSecond (op : Nat) (n : Slot) (at_ : Nat) (s : State) : State :=
  if at_ ≠ 0 then
    let t := s.ofPair at_
    if t < s.tick then s.diverge true
    else s.upTwin fun x => { x with timed := x.timed ++ [⟨op, n.val, t, false⟩] }
  else if op = 1 then
    match s.twin.obj with
    | some (a, _, _) =>
      let s := (s.wr (R.JOB_SLOTn_DADDR_LO n.val) (w32 a)).wr (R.JOB_SLOTn_DADDR_HI n.val) (w32 (a / 2 ^ 32))
      (s.opSubmit n).1
    | none => s
  else if op = 2 then
    -- with the LEAD's digest ahead of it, the ARM of an ACCEPTED job with its promise; else of one without (R398, R401)
    if s.twin.farCfg.isNone then (if (s.js n).st = .accepted then s.reAnalyse n else s)
    else
      let (t, c) := if (s.js n).promise.isNone then (s, 2) else
        let (t, c, _) := s.opArm n
        (t, c)
      ((t.upTwin fun x => { x with farCfg := none }).sendCfg).sendAdm n c (t.js n).fin 0
  else if op = 3 ∧ (s.js n).st ≠ .armed then s.leadRejects n
  else (s.jobDo op n).1

/-- The SECOND's answer to an ARM: both are ARMED, or both slots stay ACCEPTED and the LEAD posts the first failing result; one
that the SECOND alone has armed goes back (R148, R401). -/
def armAnswer (c : TimedCmd) (n : Slot) (code : Nat) (s : State) : State :=
  let s := s.upTwin fun t => { t with timed := t.timed.erase c }
  let own := if (s.js n).promise.isNone then 2 else s.armCode n
  let r := if code ≠ 0 then code else own
  let s := if r = 0 then s.armJob n else if code = 0 then s.ctlCmd 3 n.val 0 else s
  if !c.auto then s.jobPost 2 n.val r else if r = 0 then s else s.autoFails n r

/-- A parcel of the twin port. -/
def rxTwin (seq : BitVec 16) (f : State → State) (s : State) : State := s.rxParcel tp seq.toNat (shp f)

end State

/-- TWIN_CTL CMD: a job command of the LEAD, or divergence (R400, R403, R408, R416). -/
def execTwinCtlCmd (seq : BitVec 16) (op slot : Byte) (at_ : BitVec 64) (s : State) : Res :=
  .next (s.rxTwin seq fun s =>
    let n : Slot := ⟨slot.toNat % 4, Nat.mod_lt _ (by decide)⟩
    if s.twin.pair ≠ 2 then s
    else if op.toNat = 16 then s.diverge false
    else if s.twin.role = 2 then s.cmdSecond op.toNat n at_.toNat
    else s)

/-- TWIN_CTL OBJ: the object whose bytes follow (R400, R416). -/
def execTwinObj (seq : BitVec 16) (addr : BitVec 64) (len crc : Word) (s : State) : Res :=
  .next (s.rxTwin seq fun s =>
    if s.twin.role = 2 then s.upTwin fun t => { t with obj := some (addr.toNat, len.toNat, crc) } else s)

/-- TWIN_FWD: bytes of the object announced, written at their offset from its address (R384, R400). -/
def execTwinFwd (seq : BitVec 16) (ofs : Word) (data : List Byte) (s : State) : Res :=
  .next (s.rxTwin seq fun s =>
    match s.twin.obj with
    | some (a, _, _) => if s.inDdr (a + ofs.toNat) data.length then s.wrBytes (a + ofs.toNat) data else s
    | none => s)

/-- TWIN_LDG: whole cells of the LEAD's region at the same offsets (R399, R404). -/
def execTwinLdg (seq : BitVec 16) (ofs : Word) (cells : List DWord) (s : State) : Res :=
  .next (s.rxTwin seq fun s =>
    if s.twin.role = 2 ∧ s.twin.pair ≠ 0 then s.each cells.zipIdx fun c t => t.cellWrite (ofs.toNat + c.2) c.1 else s)

/-- TWIN_CTL ADM: the SECOND's answer to an ARM that waits for it, or its result for the LEAD's phase 6 (R401). -/
def execTwinAdm (seq : BitVec 16) (slot code : Byte) (jtFin digest : BitVec 64) (s : State) : Res :=
  .next (s.rxTwin seq fun s =>
    let n : Slot := ⟨slot.toNat % 4, Nat.mod_lt _ (by decide)⟩
    if !s.pairLead then s
    else match s.twin.timed.find? fun c => c.op = 2 ∧ c.slot = n.val with
      | some c => s.armAnswer c n code.toNat
      | none => s.upSlot n fun j => { j with twinAns := some (code.toNat, jtFin.toNat, digest) })

/-- TWIN_CTL START: S of the LEAD fixes S here; one that comes after it is a divergence (R402). -/
def execTwinStart (seq : BitVec 16) (slot : Byte) (at_ : BitVec 64) (s : State) : Res :=
  .next (s.rxTwin seq fun s =>
    let n : Slot := ⟨slot.toNat % 4, Nat.mod_lt _ (by decide)⟩
    let t := s.ofPair at_.toNat
    if !s.pairSecond ∨ (s.js n).st ≠ .armed then s
    else if t < s.tick then s.diverge true
    else s.fixS n t none none)

namespace State

/-- The stroke of a list that a stop at JT `j` on program counter `pc` finds, by its place: the first that has not ended, else
the last. -/
def strokeOn (l : List Stroke) (pc j : Nat) : Option Nat :=
  (l.findIdx? fun x => x.snap.pc = pc && j < x.slotEnd).or
    ((List.range l.length).reverse.find? fun i => (l[i]?.map (·.snap.pc)) == some pc)

/-- The stop record that a beam of a pair holds, or what it holds of one where it has not stopped. -/
def ownStop (s : State) (b : Beam) : StopRec :=
  let e := s.be[b]
  e.stop.getD { kind := 0, form := 0, pc := e.dec.pc, pt := s.pos b, rem := 0, at_ := s.tick, kept := e.dec, stroke := none
                src := none, setHeld := e.dec.held, slot := e.job.getD 0, ovl := s.rejoinOvl b, seen := e.fifo, front := e.dec
                redo := [] }

/-- The LEAD's stop record of a beam is adopted, with the decode state and the scratch of its stop, which this device has decoded
as well (R106, R404; log entry 61). -/
def adoptStop (m : StopMsg) (s : State) : State :=
  let b := m.beam
  let r := s.ownStop b
  let at_ := s.ofPair m.at_.toNat
  let kind := m.kindForm.toNat % 16
  let j := at_ - (s.beS b).getD 0
  let i := if kind = 4 then none else strokeOn r.seen m.pc.toNat j
  let st := i.bind fun i => r.seen[i]?
  let kept := match st with
    | some x => x.snap
    | none => if r.front.pc = m.pc.toNat then r.front else { r.kept with pc := m.pc.toNat }
  let s := match i with
    | some i => (s.restore r.redo).restore (undone (r.seen.drop i))
    | none => if r.front.pc = m.pc.toNat then s.restore r.redo else s
  let pt : Pt := ⟨m.x.toInt, m.y.toInt⟩
  s.upBe b fun e =>
    { e with
      dec := { kept with halted := kind = 4 }
      stop := some { r with kind := kind, form := m.kindForm.toNat / 16 % 4, pc := m.pc.toNat, pt := pt, rem := m.rem.toNat, at_ := at_,
                            kept := kept, stroke := st, setHeld := kept.held
                            src := rerunSrc e.stop (kind, m.pc.toNat, pt, m.rem.toNat, kept, st, 0) } }

end State

/-- TWIN_CTL STOP: the LEAD's stop record of a beam is adopted (R404). -/
def execTwinStop (seq : BitVec 16) (m : StopMsg) (s : State) : Res :=
  .next (s.rxTwin seq fun s => if s.pairSecond then s.adoptStop m else s)

/-- TWIN_CTL DRIFT: a head's correction from the LEAD, in its engine where its job prepares (R350, R404). -/
def execTwinDrift (seq : BitVec 16) (head : Byte) (m00 m01 m10 m11 ox oy : Word) (s : State) : Res :=
  .next (s.rxTwin seq fun s =>
    if h : head.toNat < 16 then
      let b : Beam := ⟨head.toNat, h⟩
      if s.twin.role = 2 ∧ s.twin.pair ≠ 0 then
        let s := s.each ((State.driftRegs b.val).zip [m00, m01, m10, m11, ox, oy]) fun x t => t.wr x.1 x.2
        let s := s.upHead b fun h => { h with checked := true }
        if (s.be[b]).job.isSome then s.driftLoad b else s
      else s
    else s)

/-- TWIN_CTL ZERO: a run of ledger cells is zero (R399). -/
def execTwinZero (seq : BitVec 16) (first count : Word) (s : State) : Res :=
  .next (s.rxTwin seq fun s =>
    if s.twin.role = 2 ∧ s.twin.pair ≠ 0 then
      let lo := s.ldgBase + 8 * first.toNat
      let hi := lo + 8 * count.toNat
      let s := { s with mem := s.mem.filter fun c => c.1 < lo || hi ≤ c.1 }
      s.upLdg fun g => { g with cache := g.cache.filter fun c =>
        c.cell < first.toNat || first.toNat + count.toNat ≤ c.cell }
    else s)

/-- TWIN_CTL STATE: the LEAD's ledger time with its period, layer, τ and K_L (R397). -/
def execTwinState (seq : BitVec 16) (m : StateMsg) (s : State) : Res :=
  .next (s.rxTwin seq fun s =>
    if s.twin.role = 2 ∧ s.twin.pair ≠ 0 then
      s.upLdg fun g => { g with ltBase := m.lt.toNat % 2 ^ 24, ltAt := s.ofPair m.at_.toNat,
                                ltPrev := (m.lt.toNat % 2 ^ 24, s.ofPair m.at_.toNat), layer := m.layer.toNat,
                                tau := some (m.tau.toNat % 2 ^ 24), kl := some m.kl.toNat }
    else s)

/-- TWIN_CTL LEAVE: the SECOND has left; the LEAD is SOLO and runs on, or its ROPE_UP fails with the result of its step
(R397, R413). -/
def execTwinLeave (seq : BitVec 16) (_cause : Byte) (s : State) : Res :=
  .next (s.rxTwin seq fun s =>
    if s.twin.role = 1 ∧ s.twin.pair = 1 then s.joinFail s.leaveCode
    else if s.pairLead then (s.setPair 0 0 true).twinClear
    else s)

/-- TWIN_CTL CFG: the partner's digest. On the LEAD it ends step 1 of ROPE_UP; an unpaired SECOND that may join is JOINING and
answers with its own, and one that may not sends LEAVE. In a pair it goes ahead of an ARM (R397, R398). -/
def execTwinCfg (seq : BitVec 16) (digest : DWord) (s : State) : Res :=
  .next (s.rxTwin seq fun s =>
    let s := s.upTwin fun t => { t with farCfg := some digest }
    let step2 (s : State) : State := if digest = s.cfgDigest then s.upTwin fun t => { t with step := 2, deltas := [] } else s.joinFail 3
    if s.twin.role = 1 ∧ s.twin.pair = 1 ∧ s.twin.step = 1 then step2 s
    else if s.twin.role = 2 ∧ s.twin.pair = 0 then
      if !s.joinOk then s.ctl 9 [1]
      else step2 (((s.putCfgDigest).sendCfg).setPair 2 1 false |>.upTwin fun t => { t with step := 1, farRtt := [], farRole := some 1 })
    else s)

/-- TWIN_CTL JOINED: both devices are PAIRED (R397). -/
def execTwinJoined (seq : BitVec 16) (s : State) : Res :=
  .next (s.rxTwin seq fun s => if s.twin.role = 2 ∧ s.twin.pair = 1 then s.joined else s)

/-- TWIN_CTL RTT: the partner's RTTs; with the last of them step 3 of ROPE_UP, or the skew of a pair, is judged (R396, R397). -/
def execTwinRtt (seq : BitVec 16) (first : Byte) (rtts : List (BitVec 16)) (s : State) : Res :=
  .next (s.rxTwin seq fun s =>
    let old := if s.rttsIn then [] else s.twin.farRtt
    let s := s.upTwin fun t =>
      { t with farRtt := rtts.zipIdx.foldl (fun l x => sput (first.toNat + x.2) x.1.toNat l) old }
    if !s.rttsIn then s else if s.twin.pair = 2 then s.judgeSkew else s.joinSkew)

end Sys2Proof.Machine
end

