-- ==== Sys2Proof/Machine/Boot.lean ====
section
/-! DEFINITION. RESET, what outlasts it, and the work of BOOT (R33, R38, R443, R444, R476 to R481, R491). -/

namespace Sys2Proof.Machine

namespace State

/-- The registers that no RESET changes: FLT_PRE_RESET, those of the backup domain, and on a warm reset CLK_LOSS (R491). -/
def keptRegs (warm : Bool) (a : Nat) : Bool :=
  a == R.FLT_PRE_RESET || (R.TIME_RTC_STATUS ≤ a && a ≤ R.TIME_RTC_TRIM) || (warm && a == R.CLK_LOSS)

/-- The block in RESET (R31 row 1): everything but the MRAM, the backup domain, the levels of the input pins and what left
the block is as reset has it; gates are low and LASER_KILL_N is asserted with CAUSE 1 (R33, R205, R431, R491). A power cycle
takes VDDIO_33 away, so that the 2 s of R48 begin again (R452), and completes ladder step 4, which clears the exit record (R429).
Causes of the
RESET: 0 power-on, 1 warm reset, 2 power cycle. FRC stands until BOOT. A calendar set that waits for its edge is dropped
(R74; DESIGN CHOICE, log entry 81). -/
def enterReset (cause : Nat) (s : State) : State :=
  let r := State.reset
  let prev := if s.dev.state = .reset then s.dev.prev else s.dev.state
  { r with
    pending := s.pending
    tick := s.tick
    free := s.free
    dev := { r.dev with
      state := .reset, prev := prev, stateFrc := s.frc, variant := s.dev.variant, rstLow := s.dev.rstLow
      belowVreset := s.dev.belowVreset, belowVstop := s.dev.belowVstop, belowVwarn := s.dev.belowVwarn
      rstCause := cause }
    regs := s.regs.filter fun x => keptRegs (cause == 1) x.1
    mem := s.mem.filter fun c => 0x10000000 ≤ c.1 && c.1 < 0x11000000
    time := { r.time with
      rtc := { s.time.rtc with
        monCyc := 0, setPend := none
        supplyNs := if cause = 2 then 0 else s.time.rtc.supplyNs
        started := if cause = 2 then s.time.rtc.oscRun else s.time.rtc.started }
      a := { r.time.a with lockedOnce := cause == 1 && s.time.a.lockedOnce }
      b := { r.time.b with lockedOnce := cause == 1 && s.time.b.lockedOnce } }
    ldc := { r.ldc with a := s.ldc.a, b := s.ldc.b, latch := false }
    ax := Vector.ofFn fun n : Fin 16 =>
      { resetAxis with home := (s.ax[n]).home, limP := (s.ax[n]).limP, limN := (s.ax[n]).limN }
    sent := s.sent
    hub := { resetHub with exits := if cause = 2 ∧ s.hub.pwrCyc.isSome then [] else s.hub.exits }
    recd := { resetRec with
      head := s.recd.head, tail := s.recd.tail, cairn := s.recd.cairn, cairnFull := s.recd.cairnFull
      pcc := s.recd.pcc, warm := s.recd.warm, opMs := s.recd.opMs, cbSeq := s.recd.cbSeq, warnCrc := s.recd.warnCrc }
    host := { resetHost with toHost := s.host.toHost, rdData := s.host.rdData, tap := s.host.tap }
    mram := s.mram }

/-- The BOOT record (R438). -/
def bootRecord (cause : Nat) (s : State) : State :=
  s.record 0x10 ([BitVec.ofNat 8 cause, BitVec.ofNat 8 s.dev.variant, 0xC1, BitVec.ofNat 8 (s.rf R.FLT_PRE_RESET 23 16)] ++
    toBytes 4 s.recd.warm ++ toBytes 4 s.mram.patch)

/-- Delay-line selections and power curves come back from the MRAM (R337, R351, R491). -/
def restoreCal (s : State) : State :=
  let s := s.upCal fun c => { c with pair := s.mram.lines.zipIdx.foldl (fun v x => vupdN v x.2 fun _ => x.1) c.pair }
  s.each s.mram.curves fun x t =>
    let t := t.each x.2.zipIdx fun y u => u.wr (R.CAL_Pn_Wp x.1 y.2) (w32 y.1)
    let t := t.wr (R.CAL_Pn_FS x.1) (w32 ((x.2[32]?).getD 0))
    t.upCal fun c => { c with src := vupdN c.src x.1 fun y => { y with valid := true } }

/-- A patch image against the level that must be reached: 0 good, 1 signature bad, 2 format bad, 3 level too low
(R478, R479). -/
def patchCheck (img : List Byte) (low : Nat) : Nat :=
  let f (o n : Nat) : Nat := ofBytes ((img.drop o).take n)
  let body := f 12 4
  let fmt := 160 ≤ img.length && f 0 4 == 0x31435450 && f 4 2 == 1 && f 6 1 == 4 && f 7 1 == 0xC1 && 1 ≤ f 8 4 &&
    16 ≤ body && body ≤ 1048320 && body % 16 == 0 && f 16 16 == 0 && f 32 16 == 0 && f 48 16 == 0 &&
    img.length == 160 + body
  if !fmt then 2
  else if !Config.patchSigOk (img.take (64 + body)) (img.drop (64 + body)) then 1
  else if f 8 4 < low then 3
  else 0

/-- The pending patch bank is verified again: it becomes active, or is discarded (R479). -/
def patchBoot (s : State) : State :=
  if s.mram.pend = 0 then s
  else
    let c := patchCheck s.mram.pendImg 0
    let level := if c = 0 then s.mram.pend else s.mram.patch
    let s := s.upMram fun m => { m with patch := level, pend := 0, pendImg := [] }
    s.record 0x31 ([BitVec.ofNat 8 c, 0, 0, 0] ++ toBytes 4 level)

/-- The capacity per channel in GiB of a DDR5 configuration, 0 outside R480 (R481). -/
def ddrCap (s : State) (cfg : BitVec 64) : Nat :=
  let f (o n : Nat) : Nat := cfg.toNat / 2 ^ (8 * o) % 2 ^ (8 * n)
  let ch := f 0 1
  let ranks := f 1 1
  let width := f 2 1
  let dens := f 3 1
  let rate := f 4 2
  let scrub := f 6 2
  let cap := 2 * (32 / max width 1) * dens * ranks / 8
  if 1 ≤ ch ∧ ch ≤ s.ddrChans ∧ (ranks = 1 ∨ ranks = 2) ∧ (width = 8 ∨ width = 16) ∧ (dens = 16 ∨ dens = 24 ∨ dens = 32) ∧
      3200 ≤ rate ∧ rate ≤ 6400 ∧ rate % 400 = 0 ∧ 1 ≤ scrub ∧ scrub ≤ 168 ∧ cap ≤ 32 then cap
  else 0

/-- DDR5 trained under the saved configuration (R476 step 5, R481). -/
def ddrBoot (s : State) : State :=
  match s.mram.ddrCfg with
  | none => s
  | some cfg =>
    let ch := cfg.toNat % 256
    let s := (s.wr R.DDR_CFG_LO (w32 cfg.toNat)).wr R.DDR_CFG_HI (w32 (cfg.toNat / 2 ^ 32))
    (s.wr R.DDR_STATUS (w32 (ch * s.ddrCap cfg * 65536 + ch))).upTime fun t => { t with ddrLock := true }

/-- The fields of PORTp_CTL that BOOT_CFG_SAVE keeps: RATE, DEGRADE_EN, DEGRADE_OK, AUTO and EN (R474). -/
def portKept (v : Word) : Word := v &&& 0x00030071#32

/-- The ports saved by BOOT_CFG_SAVE take their settings and train (R476 step 5). -/
def portsBoot (s : State) : State :=
  s.each s.mram.ports fun x t =>
    let t := t.wr (R.PORTp_CTL x.1) (x.2 ||| 0x08000000#32)
    if h : x.1 < 35 then t.portTrain ⟨x.1, h⟩ true else t

/-- BOOT is entered (R476): FRC starts from 0, an interlock input that is low sets the latch (R200, R202, R203), the counts of
R443 advance, and the work of steps 1 to 6 is done that this model shows: recovery of the recorder from its control block, the
BOOT record and the STATE record, what the MRAM restores, the pending patch, DDR5 and the saved ports. -/
def enterBoot (s : State) : State :=
  let cause := s.dev.rstCause
  let s := { s with tick := 0 }
  let s := s.upDev fun d => { d with state := .boot, prev := .reset, stateFrc := 0 }
  let s := s.upLdc fun l =>
    { l with latch := false, highAt := 0, diffAt := if l.a = l.b then none else some 0, diffRaised := false }
  let s := s.ifc (!(s.ldc.a && s.ldc.b)) ilkSet
  let s := s.loadCb
  let s := s.upRec fun r => if cause = 1 then { r with warm := satN 32 (r.warm + 1) } else { r with pcc := satN 32 (r.pcc + 1) }
  let s := s.upRec fun r => { r with aboveAt := if r.warnCrc && !s.dev.belowVwarn then some 0 else none }
  let s := (((recoverMram s).bootRecord cause).record 0x11 [1, 0, 0, 0, 0, 0, 0, 0])
  (((s.restoreCal).patchBoot).ddrBoot).portsBoot

/-- The step of R476 in progress: the first one whose time has not come (SYS_BOOT). -/
def bootStepNow (s : State) : Nat :=
  let t := s.tick
  if t < 2000000 then 2 else if t < 30000000 then 3 else if t < 80000000 then 4 else if t < 140000000 then 5
  else if t < 200000000 then 6 else 7

/-- RESET ends where neither RST_N nor VDD_CORE holds it any longer (R33, R453). -/
def leaveReset (s : State) : State :=
  if s.dev.state = .reset ∧ !s.dev.rstLow ∧ !s.dev.belowVreset then s.enterBoot else s

/-- A warm reset (R431): every record waiting is written, then RESET and, with nothing holding it, BOOT. -/
def warmReset (cause : Nat) (s : State) : State :=
  (s.flushRecords.enterReset cause).leaveReset

end State

end Sys2Proof.Machine
end

