-- ==== Sys2Proof/Machine/Time.lean ====
section
/-! DEFINITION. The commands of the clocks, of the time domains with their PTP instances, of the pulse and capture pins, of
the Ethernet ports and of the calendar (R46 to R76). -/

namespace Sys2Proof.Machine

namespace State

/-! Time domains (R51 to R59). -/

/-- DETAIL and reaction of a lost clock: gates low, LASER_KILL_N asserted, its CLK_LOSS bit set, the report made (R47). -/
def clockLost (which : Nat) (s : State) : State :=
  if s.dev.state = .reset then s
  else ((s.kill 4).setB R.CLK_LOSS which).report 0x02 0 0

/-- TIME_STATUS.EVT and vector 4, and the TIME_MARK of the first lock of the bellwether since power-up (R68, R69, R76). The
mark is made where the state of the domain that is the bellwether becomes LOCKED; a switch of the bellwether to a domain
already LOCKED makes none (DESIGN CHOICE, log entry 78). -/
def setDomSt (d : Dom) (st : Nat) (s : State) : State :=
  if (s.dom d).st = st then s
  else
    let s := ((s.upDom d fun x => { x with st := st }).setB R.TIME_STATUS 16).msix 4
    if st = 3 ∧ d = s.bell then
      let first := !s.time.a.lockedOnce && !s.time.b.lockedOnce
      (s.upDom d fun x => { x with lockedOnce := true }).ifc first (State.timeMark 2)
    else s

/-- MODE of a domain, with 3 taken as FREE (R67). -/
def servoMode (s : State) (d : Dom) : Nat :=
  let m := s.rf (R.TIME_AB_SERVO (domIx d)) 1 0
  if m = 3 then 0 else m

/-- The Ethernet port of a domain's instance. -/
def ptpPort (s : State) (d : Dom) : Fin 2 := if s.rb (R.TIME_AB_SERVO (domIx d)) 19 then 1 else 0

/-- The instance of domain `d` runs, in the Shepherd, on Ethernet port `e`, which is enabled. -/
def ptpOn (s : State) (d : Dom) (e : Fin 2) : Bool :=
  !s.dev.shpHalt && s.servoMode d != 0 && s.ptpPort d == e && s.rb (R.ETHn_CTL e) 0

/-- The transport of a domain's instance: EtherType 0x88F7, or UDP with the event or the general port (R66). -/
def ptpVia (s : State) (d : Dom) (event : Bool) : PtpVia :=
  if s.rb (R.TIME_AB_SERVO (domIx d)) 18 then .udp (if event then 319 else 320) else .ether

/-- The EtherType or the UDP port of a transport, as `sent` shows it. -/
def viaCode : PtpVia → Nat
  | .ether => 0x88F7
  | .udp p => p.toNat

/-- The instance starts again: LISTENING where its MODE runs one, else FREE. `integ` and the servo outputs stay: the spec
does not say that they are cleared (DESIGN CHOICE, log entry 76). -/
def ptpRestart (d : Dom) (s : State) : State :=
  (s.upDom d fun x =>
    { x with
      masters := [], parent := none, lastSync := none, syncAt := s.tick, syncLog := 1, reqSent := none
      pathDelay := 0, good := 0, bad := 0 }).setDomSt d
    (if s.servoMode d = 0 then 0 else 1)

/-- An arrival stamp at the reference plane of a port, as t_d (R71). -/
def rxStamp (s : State) (d : Dom) (e : Fin 2) : Word := s.tOf d (s.frc + i32 (sext 16 (s.rf (R.ETHn_LAT e) 15 0)))

/-- A transmit stamp of a frame that leaves now, at the reference plane of a port, as t_d (R71). -/
def txStamp (s : State) (d : Dom) (e : Fin 2) : Word :=
  s.tOf d (w32 (max s.tick (s.tel[e]).wireEnd) + i32 (sext 16 (s.rf (R.ETHn_LAT e) 31 16)))

/-- A message that the instance does not use is counted (R66). -/
def ptpDiscard (d : Dom) (s : State) : State := s.count (R.TIME_AB_PCNT (domIx d)) 23 16

/-- The sync interval in ns. -/
def syncNs (logInt : Int) : Q :=
  if 0 ≤ logInt then Q.ofInt (10 ^ 9 * 2 ^ logInt.toNat) else Q.mk' (10 ^ 9) (2 ^ (-logInt).toNat)

/-- A message interval of 2^`logInt` s in whole ns. -/
def intervalNs (logInt : Int) : Nat :=
  if 0 ≤ logInt then 10 ^ 9 * 2 ^ logInt.toNat else 10 ^ 9 / 2 ^ (-logInt).toNat

/-- The announce timeout of a master has not passed: ANN_TMO of its announce intervals (R66, R69). -/
def masterFresh (s : State) (d : Dom) (m : PtpMaster) : Bool :=
  s.tick < m.heardAt + s.rf (R.TIME_AB_SERVO (domIx d)) 11 8 * intervalNs m.logInt

/-- The parent is lost: its announce timeout has passed, or no Sync has come within 4 of its intervals. Before the first
Sync of a parent the longest interval accepted counts, from its selection (R69; DESIGN CHOICE, log entry 77). -/
def parentLost (s : State) (d : Dom) : Bool :=
  match (s.dom d).parent with
  | none => false
  | some m => !s.masterFresh d m || decide ((s.dom d).syncAt + 4 * intervalNs (s.dom d).syncLog ≤ s.tick)

/-- A new value of RATE; that of the bellwether moves the device times reported of the jobs (R24, R52). -/
def rateTo (d : Dom) (v : Word) (s : State) : State :=
  let t := s.setRate d v
  if d = s.bell then t.redate else t

/-- The servo's update for offset `o` and sync interval `q` (R68). -/
def servoRun (d : Dom) (o : Int) (q : Q) (s : State) : State :=
  let par := R.TIME_AB_SPAR (domIx d)
  let kp := s.rf par 7 4
  let ki := s.rf par 3 0
  let x := s.dom d
  if o.natAbs > s.rf par 31 16 ∧ s.rb (R.TIME_AB_SERVO (domIx d)) 16 then
    let s := (s.wr (R.TIME_AB_STEP (domIx d)) (i32 (-o))).stepDom d (-o)
    (s.upDom d fun x => { x with integ := ⟨0, 1⟩ }).count (R.TIME_AB_PCNT (domIx d)) 31 24
  else
    let f := (Q.ofInt (o * 2 ^ 40)).div q
    let lim := Q.ofInt (2 ^ 31)
    let integ := ((x.integ.add (f.mul (Q.mk' 1 (2 ^ ki)))).min lim).max lim.neg
    let r := satS 32 (integ.add (f.mul (Q.mk' 1 (2 ^ kp)))).round
    (s.upDom d fun x => { x with integ := integ, outputs := (r :: x.outputs).take 16 }).rateTo d (i32 r)

/-- The lock criterion after an update with offset `o` (R68). -/
def servoLock (d : Dom) (o : Int) (s : State) : State :=
  let lock := oneIfZero (s.rf (R.TIME_AB_SPAR (domIx d)) 15 8)
  let x := s.dom d
  let good := if o.natAbs < lock then min 16 (x.good + 1) else 0
  let bad := if 4 * lock ≤ o.natAbs then min 4 (x.bad + 1) else 0
  let s := s.upDom d fun x => { x with good := good, bad := bad }
  if x.st = 2 ∧ good = 16 then (s.upDom d fun x => { x with bad := 0 }).setDomSt d 3
  else if x.st = 3 ∧ bad = 4 then (s.upDom d fun x => { x with good := 0 }).setDomSt d 2
  else s

/-- HOLDOVER: RATE becomes the mean of the last 16 servo outputs (R69). Where there have been fewer, it is the mean of
those there are, and with none RATE stays (DESIGN CHOICE, log entry 23). -/
def holdover (d : Dom) (s : State) : State :=
  let l := (s.dom d).outputs
  let s := s.setDomSt d 4
  if l.isEmpty then s else s.rateTo d (i32 (rdiv (l.foldl (· + ·) 0) l.length))

/-- The order of R66's best master clock algorithm among Announce messages: lower is better. -/
def PtpRank (m : PtpMaster) : List Nat := [m.prio1, m.quality, m.prio2, m.gmId, m.steps, m.srcId]

/-- Lexicographic order of equally long lists. -/
def lexLt : List Nat → List Nat → Bool
  | a :: l, b :: m => if a = b then lexLt l m else a < b
  | _, _ => false

/-- The best of some masters. -/
def bestMaster : List PtpMaster → Option PtpMaster
  | [] => none
  | m :: l => match bestMaster l with
    | none => some m
    | some b => if lexLt (PtpRank b) (PtpRank m) then some b else some m

/-- The next edge of the calendar applies a waiting date (R74). -/
def applySet (s : State) : State :=
  match s.time.rtc.setPend with
  | none => s
  | some v =>
    (s.upTime fun t =>
      { t with rtc := { t.rtc with secs := v, sub := 0, valid := true, stopped := false, setPend := none } }).timeMark 1

end State

/-- R46 to R48: the checks of REFCLK against the RTC oscillator and of that oscillator are armed once it runs. -/
def execClkLoss (which : Fin 8) (s : State) : Res :=
  .next (if (which = 0 ∨ which = 7) ∧ !s.time.rtc.oscRun then s
    else if which = 7 ∧ s.dev.state ≠ .reset then
      (s.upTime fun t => { t with rtc := { t.rtc with oscRun := false } }).clockLost 7
    else s.clockLost which.val)

/-- R48: the oscillator has not started within 2 s of its supply. -/
def execRtcStartTimeout (s : State) : Res :=
  .next (if s.time.rtc.started ∨ s.time.rtc.supplyNs < startNs then s else s.clockLost 7)

/-- R48. -/
def execRtcOscStart (s : State) : Res :=
  .next (s.upTime fun t => { t with rtc := { t.rtc with oscRun := true, started := true } })

/-- R52. -/
def execTimeFold (s : State) : Res := .next (if s.tick % 2 ^ 30 = 0 then (s.fold .a).fold .b else s)

/-- R52, R53. -/
def execTimeRateWrite (d : Dom) (v : Word) (s : State) : Res := .next (s.rateTo d v)

/-- R53, R59. -/
def execTimeOfsWrite (d : Dom) (v : Word) (s : State) : Res :=
  .next (s.stepDom d (diff32 v (s.rd (R.TIME_AB_OFS (domIx d)))))

/-- R53, R59. -/
def execTimeStepWrite (d : Dom) (v : Word) (s : State) : Res :=
  .next ((s.wr (R.TIME_AB_STEP (domIx d)) v).stepDom d v.toInt)

/-- R57: D takes on the difference of the two domains, so that DT is continuous, with a residual in force too (log entry
22); the rate of the new bellwether moves the device times reported of the jobs (R24). -/
def execBellwetherWrite (b : Bool) (s : State) : Res :=
  .next (if s.rb R.TIME_CTL 0 = b then s
    else
      let old := s.tOf s.bell s.frc
      let t := s.setF R.TIME_CTL 0 0 (b2n b)
      (t.upTime fun x => { x with slew := x.slew + diff32 (t.tOf t.bell t.frc) old * State.slewUnit }).redate)

/-- R57: the residual reaches 0. -/
def execSlewEnd (s : State) : Res :=
  .next (if s.time.slew.natAbs ≤ s.slewStep then s.upTime fun t => { t with slew := 0 } else s)

/-- R54. -/
def execTimeSnap (s : State) : Res :=
  .next ((((s.wr R.TIME_SNAP_FRC s.frc).wr R.TIME_SNAP_A (s.tOf .a s.frc)).wr R.TIME_SNAP_B (s.tOf .b s.frc)).wr
    R.TIME_SNAP_DT s.dt)

/-! Pulse outputs (R61 to R63). -/

/-- The selected time of a pulse output. -/
def State.tpTime (s : State) (n : Fin 8) : Word := s.selTime (s.rf (R.TIME_TPn_CTL n) 3 2) s.frc

/-- MODE of a pulse output, with 3 taken as OFF. -/
def State.tpMode (s : State) (n : Fin 8) : Nat :=
  let m := s.rf (R.TIME_TPn_CTL n) 1 0
  if m = 3 then 0 else m

/-- A pulse output changed. -/
def State.upTp (n : Fin 8) (f : PulseOut → PulseOut) (s : State) : State :=
  s.upTime fun t => { t with tp := vupd t.tp n f }

/-- R62, R63: a target in the past sets MISSED in every MODE, OFF included, since R62 names no mode (DEDUCED, log entry 99). -/
def execTpArm (n : Fin 8) (s : State) : Res :=
  let period := max 100 (s.rd (R.TIME_TPn_PERIOD n)).toNat
  let width := clampN 8 (period - 8) (s.rd (R.TIME_TPn_WIDTH n)).toNat
  let tgt := s.rd (R.TIME_TPn_TGT n)
  let v := s.tpTime n
  let m := s.tpMode n
  let past : Bool := 2 ^ 31 ≤ (tgt - v).toNat
  let skip := if past ∧ m = 2 then ((v - tgt).toNat / period + 1) * period else 0
  let t := s.upTp n fun p =>
    { p with armed := m == 2 || (m == 1 && !past), tgt := tgt + w32 skip, period := w32 period, width := w32 width }
  .next (t.ifc past (State.setB (R.TIME_TPn_STATUS n) 0))

/-- R61, R63. -/
def execTpulseFire (n : Fin 8) (s : State) : Res :=
  let p := s.time.tp[n]
  let v := s.tpTime n
  let m := s.tpMode n
  let late := (v - p.tgt).toNat
  .next (if p.armed ∧ m ≠ 0 ∧ late < 2 ^ 31 then
    let k := if m = 2 then late / p.period.toNat else 0
    let t := s.upTp n fun p =>
      { p with
        armed := m == 2, active := true, endAt := v + p.width, curWidth := p.width
        tgt := if m = 2 then p.tgt + w32 ((k + 1) * p.period.toNat) else p.tgt }
    t.count (R.TIME_TPn_STATUS n) 15 8 k
  else s)

/-- The level of TPULSEn: active is high when POL is 0 (R61). -/
def State.tpLevel (s : State) (n : Fin 8) : Bool := (s.time.tp[n]).active != s.rb (R.TIME_TPn_CTL n) 4

/-- The WIDTH ns of a pulse have passed at `v`: the sign of the difference tells, and for a WIDTH above 2^31 the time since the
start (R61). -/
def PulseOut.over (p : PulseOut) (v : Word) : Bool :=
  if p.curWidth.toNat ≤ 2 ^ 31 then decide ((v - p.endAt).toNat < 2 ^ 31)
  else decide (p.curWidth.toNat ≤ (v - (p.endAt - p.curWidth)).toNat)

/-- R61. The end is an instant of the time that DOM selects now: where DOM changed during the pulse, the instant noted in
the old time is compared with the new one (DESIGN CHOICE, log entry 79). -/
def execTpulseEnd (n : Fin 8) (s : State) : Res :=
  let p := s.time.tp[n]
  .next (if p.active ∧ p.over (s.tpTime n) then s.upTp n fun p => { p with active := false } else s)

/-! Capture inputs (R64, R65, R150). -/

/-- The filter time of a capture input in ns (R64). -/
def State.tcFilt (s : State) (n : Fin 8) : Nat :=
  match s.rf (R.TIME_TCn_CTL n) 5 4 with
  | 0 => 0
  | 1 => 16
  | 2 => 64
  | _ => 256

/-- The stamp of an edge at the capture input enters its FIFO and starts the jobs that wait for it. -/
def State.tcTake (n : Fin 8) (rising : Bool) (stamp : Nat) (s : State) : State :=
  let l := s.time.tc[n]
  let s := if l.length < 16 then s.upTime fun t => { t with tc := vupd t.tc n (· ++ [(w32 stamp, rising)]) }
    else s.count (R.TIME_TCn_STATUS n) 23 16
  let s := s.ifc (s.rb (R.TIME_TCn_CTL n) 6) (State.msix 4)
  s.each (List.finRange 4) fun i t =>
    let j := t.js i
    if j.st = .armed ∧ j.startMode = 3 ∧ j.param % 16 = n.val ∧ !t.pairSecond then t.startEvent i stamp else t

/-- R64: a pulse of `width` ns; `err` - 1 is the stamp's error within ±1 ns. Without a filter, whether a pulse shorter than
4 ns is seen is a free value. -/
def execTcapEdge (n : Fin 8) (rising : Bool) (width : Nat) (err : Fin 3) (s : State) : Res :=
  let edge := s.rf (R.TIME_TCn_CTL n) 1 0
  let filt := s.tcFilt n
  let selected := edge = 3 ∨ (edge = 1 ∧ rising) ∨ (edge = 2 ∧ !rising)
  .next (if !selected ∨ width < filt then s
    else if filt = 0 ∧ width < 4 then
      let (x, t) := s.fresh
      if x.toNat % 2 = 1 then t.tcTake n rising (t.tick + err.val - 1) else t
    else s.tcTake n rising (s.tick + err.val - 1))

/-- R65. -/
def execTcRawPop (n : Fin 8) (s : State) : Res :=
  .next (match s.time.tc[n] with
    | [] => s.upHost fun h => { h with rdData := 0 }
    | (f, _) :: l =>
      let t := s.upTime fun t => { t with tc := vupd t.tc n fun _ => l }
      (t.wr (R.TIME_TCn_CONV n) (s.selTime (s.rf (R.TIME_TCn_CTL n) 3 2) f)).upHost fun h => { h with rdData := f })

/-! PTP instances (R66 to R69). -/

/-- R68: a Sync of the selected parent is used; others on the instance's port are discarded and counted. -/
def execPtpSync (d : Dom) (m : SyncMsg) (s : State) : Res :=
  let x := s.dom d
  .next (if !s.ptpOn d m.eth then s
    else if x.parent.any (fun p => p.srcId == m.srcId.toNat) ∧ m.dom.toNat = s.rf (R.TIME_AB_SERVO (domIx d)) 31 24 ∧
        m.via = s.ptpVia d true ∧ -4 ≤ m.logInt ∧ m.logInt ≤ 1 then
      let t2 := s.rxStamp d m.eth
      let o := diff32 t2 m.t1 - x.pathDelay
      let s := (s.upDom d fun x => { x with
        lastSync := some (m.t1.toNat, t2.toNat), syncAt := s.tick, syncLog := m.logInt }).count (R.TIME_AB_PCNT (domIx d)) 15 0
      let s := s.wr (R.TIME_AB_PTPO (domIx d)) (i32 (satS 32 o))
      if s.servoMode d = 1 then (s.servoRun d o (State.syncNs m.logInt)).servoLock d o else s
    else s.ptpDiscard d)

/-- R66, R67, R69: the best master among those heard becomes the parent; those whose announce timeout has passed no longer
take part. A change of parent in LOCKED or UNCALIBRATED keeps the state and the counts of its criterion (DESIGN CHOICE, log
entry 80). -/
def execPtpAnnounce (d : Dom) (m : AnnounceMsg) (s : State) : Res :=
  let x := s.dom d
  .next (if !s.ptpOn d m.eth then s
    else if m.dom.toNat = s.rf (R.TIME_AB_SERVO (domIx d)) 31 24 ∧ m.via = s.ptpVia d false then
      let n : PtpMaster :=
        ⟨m.prio1.toNat, m.quality.toNat, m.prio2.toNat, m.gmId.toNat, m.steps.toNat, m.srcId.toNat, m.logInt, s.tick⟩
      let l := n :: x.masters.filter fun y => y.srcId ≠ n.srcId ∧ s.masterFresh d y
      let best := State.bestMaster l
      let same := best.map (·.srcId) = x.parent.map (·.srcId)
      let s := s.upDom d fun x =>
        { x with
          masters := l, parent := best
          lastSync := if same then x.lastSync else none, reqSent := if same then x.reqSent else none
          syncAt := if same then x.syncAt else s.tick, syncLog := if same then x.syncLog else 1 }
      if x.st = 1 ∨ x.st = 4 then
        (s.upDom d fun x => { x with good := 0, bad := 0 }).setDomSt d (if s.servoMode d = 1 then 2 else 5)
      else s
    else s.ptpDiscard d)

/-- R66, R70: an own event message leaves at the next frame boundary with its hardware stamp; Pdelay_Resp is followed by
Pdelay_Resp_Follow_Up. -/
def execPtpEventSend (d : Dom) (e : PtpEvent) (s : State) : Res :=
  let n := s.ptpPort d
  let p2p := s.rb (R.TIME_AB_SERVO (domIx d)) 17
  let dom := s.rf (R.TIME_AB_SERVO (domIx d)) 31 24
  let t := (s.txStamp d n).toNat
  let ev := State.viaCode (s.ptpVia d true)
  .next (if !s.ptpOn d n then s
    else match e with
      | .delayReq =>
        if !p2p ∧ (s.dom d).parent.isSome then
          (s.ethOut n 0x210 0 72 [ev, dom]).upDom d fun x => { x with reqSent := some t }
        else s
      | .pdelayReq =>
        if p2p then (s.ethOut n 0x211 0 82 [ev, dom]).upDom d fun x => { x with reqSent := some t } else s
      | .pdelayResp =>
        if p2p then
          (s.ethOut n 0x212 0 82 [ev, dom]).ethOut n 0x213 0 82 [State.viaCode (s.ptpVia d false), dom, t]
        else s)

/-- A new meanPathDelay (R66, TIME_d_PTPD). -/
def State.setPath (d : Dom) (v : Int) (s : State) : State :=
  (s.upDom d fun x => { x with pathDelay := v, reqSent := none }).wr (R.TIME_AB_PTPD (domIx d)) (i32 v)

/-- R66, R68: meanPathDelay from a Delay_Resp whose interval is accepted, or from a Pdelay_Resp with its follow-up. -/
def execPtpResponse (d : Dom) (r : PtpResp) (s : State) : Res :=
  let x := s.dom d
  let p2p := s.rb (R.TIME_AB_SERVO (domIx d)) 17
  let e : Fin 2 := match r with
    | .delayResp e _ _ _ => e
    | .pdelayResp e _ _ => e
  .next (if !s.ptpOn d e then s
    else match r, x.lastSync, x.reqSent with
      | .delayResp _ via lg t4, some (t1, t2), some t3 =>
        if !p2p ∧ via = s.ptpVia d false ∧ -4 ≤ lg ∧ lg ≤ 1 then s.setPath d (rdiv (diff32 (i32 t2) (i32 t1) + diff32 t4 (i32 t3)) 2) else s.ptpDiscard d
      | .pdelayResp _ via turn, _, some t1 =>
        if p2p ∧ via = s.ptpVia d true then s.setPath d (rdiv (diff32 (s.rxStamp d e) (i32 t1) - turn.toNat) 2) else s.ptpDiscard d
      | _, _, _ => s.ptpDiscard d)

/-- R69. -/
def execPtpParentLoss (d : Dom) (s : State) : Res :=
  let x := s.dom d
  .next (match x.parent with
    | none => s
    | some p =>
      if !s.parentLost d then s
      else
      let s := s.upDom d fun x =>
        { x with parent := none, masters := x.masters.filter (·.srcId ≠ p.srcId), lastSync := none, reqSent := none }
      if x.st = 2 ∨ x.st = 3 then (s.holdover d).report 0x50 (domIx d) 0
      else if x.st = 5 then s.setDomSt d 1
      else s)

/-- R67: MODE and the parameters of the instance; a change of PORT, TRANSPORT, DELAY_MECH or PTP_DOMAIN restarts it. -/
def execTimeServoWrite (d : Dom) (v : Word) (s : State) : Res :=
  let a := R.TIME_AB_SERVO (domIx d)
  let old := s.rd a
  let new := setFld (v &&& 0xFF0F0F03#32) 11 8 (clampN 2 10 (fld v 11 8))
  let was := s.servoMode d
  let t := s.wr a new
  let is := t.servoMode d
  let inst (w : Word) : Word := w &&& 0xFF0E0000#32
  .next (if inst old ≠ inst new ∨ (was = 0) ≠ (is = 0) then t.ptpRestart d
    else if was = is then t
    else if (t.dom d).parent.isSome then
      (t.upDom d fun x => { x with good := 0, bad := 0 }).setDomSt d (if is = 1 then 2 else 5)
    else t.setDomSt d 1)

/-! Ethernet ports (R70). -/

/-- R70. -/
def execArpRequest (eth : Fin 2) (ip : Word) (who : ArpSender) (s : State) : Res :=
  .next (if s.rb (R.ETHn_CTL eth) 0 ∧ ip = s.rd (R.ETHn_IP eth) then
    s.ethOut eth 0x201 0 46 [who.mac.toNat, ip.toNat, who.ip.toNat]
  else s)

/-- R70, ETHn_STATUS. -/
def execEthLink (n : Fin 2) (blockLock up : Bool) (s : State) : Res :=
  .next (s.upTime fun t => { t with eth := vupd t.eth n fun _ => BitVec.ofNat 2 (b2n blockLock 1 + b2n up) })

/-- R66, R70: a frame with bad FCS, one above 2048 bytes or with more than one tag, a message that a PTP instance does not
support, or any other frame. -/
def execEthFrameDiscard (n : Fin 2) (badFcs : Bool) (f : EthFrame) (s : State) : Res :=
  .next (if !s.rb (R.ETHn_CTL n) 0 then s
    else if badFcs then s.count (R.ETHn_CNT n) 15 0
    else if 2048 < f.len ∨ 1 < f.tags.val then s.count (R.ETHn_CNT n) 31 16
    else match f.ptp with
      | some d => if s.ptpOn d n then s.ptpDiscard d else s
      | none => s.count (R.ETHn_CNT n) 31 16)

/-! The calendar (R72 to R75). -/

/-- R74: a possible date waits for the next 1/32768 s edge. -/
def execRtcSet (s : State) : Res :=
  let d := s.rd R.TIME_RTC_SET_DATE
  let t := s.rd R.TIME_RTC_SET_TOD
  .next (match secsOf (2000 + fld d 23 16) (fld d 15 8) (fld d 7 0) (fld t 23 16) (fld t 15 8) (fld t 7 0) with
    | none => s.setB R.TIME_RTC_STATUS 4
    | some v => s.upTime fun x => { x with rtc := { x.rtc with setPend := some v } })

/-- R74. -/
def execRtcSnap (s : State) : Res :=
  let r := s.time.rtc
  .next (((s.wr R.TIME_RTC_DATE (dateWord r.secs)).wr R.TIME_RTC_TOD (todWord r.secs)).wr R.TIME_RTC_SUB (w32 r.sub))

/-- The trim in force, -127 to +127 (R75). -/
def State.rtcTrim (s : State) : Int := max (-127) (sext 8 (s.rf R.TIME_RTC_TRIM 7 0))

/-- R75. A trim that would carry the calendar past its end stops it there, and one that would carry it below 2000-01-01
leaves it at its begin (DESIGN CHOICE, log entry 82). -/
def execRtcTrimStep (s : State) : Res :=
  let r := s.time.rtc
  let n := ((r.secs * 32768 + r.sub : Nat) + s.rtcTrim).toNat
  let last := calendarEnd * 32768 + 32767
  .next (if r.trimCyc < 2 ^ 20 then s
    else s.upTime fun t =>
      { t with rtc := { t.rtc with
          trimCyc := r.trimCyc - 2 ^ 20
          secs := if r.stopped then r.secs else min n last / 32768
          sub := if r.stopped then r.sub else min n last % 32768
          stopped := r.stopped || decide (last < n) } })

/-- R72. -/
def execCalendarEnd (s : State) : Res :=
  .next (if s.time.rtc.stopped then s.upTime fun t => { t with rtc := { t.rtc with valid := false } } else s)

/-- R73: the backup domain's supply falls below 1.8 V. -/
def execBackupBrownout (s : State) : Res :=
  let s := { s with regs := s.regs.filter fun x => !(R.TIME_RTC_STATUS ≤ x.1 && x.1 ≤ R.TIME_RTC_TRIM) }
  .next ((s.upTime fun t =>
    { t with rtc := { t.rtc with secs := 0, sub := 0, trimCyc := 0, valid := false, stopped := false, setPend := none } }).setB R.TIME_RTC_STATUS 3)

end Sys2Proof.Machine
end

