-- ==== Sys2Proof/Machine/Ladder.lean ====
section
/-! DEFINITION. The operations of the recovery ladder (R430 to R435) and the tally of R429. -/

namespace Sys2Proof.Machine

namespace State

/-- The quiet period starts again (R428). -/
def quietRestart (s : State) : State := s.upHub fun h => { h with quietAt := s.tick }

/-- The automatic exits of the last 3,600 s of operating time (R429). -/
def tally (s : State) : Nat := (s.hub.exits.filter fun t => s.recd.opMs < t + 3600000).length

/-- TALLY as it reads (FLT_STATUS, R429). -/
def tallyRead (s : State) : Nat :=
  if s.hub.stickyCause = 1 then oneIfZero (s.rf R.FLT_TALLY_CFG 3 0) else satN 4 s.tally

/-- The unit of a function is present on the variant (R434). -/
def unitThere (s : State) (func unit : Nat) : Bool :=
  match func with
  | 1 => s.beamOn unit
  | 2 => s.beamOn unit
  | 3 => unit < 4 && s.leOn unit
  | 4 => s.portOn unit
  | 5 => s.laneOn unit
  | 6 => s.hasEye && s.beamOn unit
  | 8 => unit < 2
  | _ => unit == 0

/-- Beam `n` is named by a job in one of some states. -/
def beamIn (s : State) (n : Nat) (l : List JobState) : Bool :=
  if h : n < 16 then s.naming ⟨n, h⟩ fun j => l.contains j.st else false

/-- Port `n` is named by a job ARMED or RUNNING. -/
def portIn (s : State) (n : Nat) : Bool :=
  if h : n < 35 then s.portNamed ⟨n, h⟩ fun j => j.st = .armed || j.st = .running else false

/-- The slots of an engine that hold an image. -/
def leLive (s : State) (k : Engine) : List LSlot := (List.finRange 16).filter fun l => (s.ls k l).st ≠ .off

/-- The slot is bound to a beam or machine axis of a job ARMED or RUNNING. -/
def leBound (s : State) (k : Engine) (l : LSlot) : Bool :=
  let on_ (j : JobSlot) : Bool := j.st = .armed || j.st = .running
  if s.leMach k l then (List.finRange 4).any fun n => on_ (s.js n) && nbit (s.jobAxes n) (s.lePort k l).val
  else s.naming (s.lePort k l) on_

/-- The refusal column of R430. -/
def stepInUse (s : State) (func unit step : Nat) : Bool :=
  match func with
  | 1 => s.beamIn unit (if step = 1 then [.running] else [.armed, .running])
  | 2 => s.beamIn unit [.running]
  | 3 => step == 2 && (s.leLive (Fin.ofNat 4 unit)).any fun l => s.leBound (Fin.ofNat 4 unit) l
  | 4 => s.portIn unit
  | 5 => (s.lanePort unit).any fun p => s.portIn p.val
  | 6 => s.beamIn unit [.running]
  | 7 => s.runSlot.isSome
  | _ => false

/-- The LADDER record of a result (R438). -/
def ladderRecord (func unit step code : Nat) (auto : Bool) (s : State) : State :=
  s.record 0x21 ([func, unit, step, code, b2n auto, s.tallyRead, s.hub.stickyCause, 0].map (BitVec.ofNat 8) ++
    toBytes 4 s.frc.toNat)

/-- A result in SYS_LADDER_RESULT and SYS_LADDER_CODE, and its LADDER record (R434, R438). -/
def ladderPost (func unit step code : Nat) (auto : Bool) (s : State) : State :=
  ((((s.advance R.SYS_LADDER_RESULT 31 24).setF R.SYS_LADDER_RESULT 11 8 func).setF R.SYS_LADDER_RESULT 2 0 step).setF
    R.SYS_LADDER_CODE 7 0 code).ladderRecord func unit step code auto

/-! What steps 1 and 2 do (R430). -/

/-- Beam engine: the prefetch ring is filled again; in step 2 decode, FIFO and ring are reset and stop records kept. -/
def stepBeam (b : Beam) (step : Nat) (s : State) : State :=
  if step = 1 then s.upBe b fun e => { e with fetched := e.job.isSome }
  else s.upBe b fun e => { e with dec := resetPState, fifo := [], pendEv := [], barrier := [], fetched := false }

/-- PCU: fallback left, integrator 0; in step 2 law and telemetry state reset. -/
def stepPcu (b : Beam) (step : Nat) (s : State) : State :=
  if step = 1 then s.upPcu b fun p => { p with fallback := false, acc := 0 }
  else s.upPcu b fun p =>
    { p with
      fallback := false, acc := 0, ah := 0, bh := 0, lastIdx := none, inbox := [], lossRun := 0, frzRun := 0, frzVal := 0
      okRun := 0, okVals := [], word := 0, nom := 0, opn := false, fbActive := false, clampHi := false, clampLo := false
      slewed := false, expo := none, expoProf := none, trim := 0, trimQ := [], epoch := p.epoch + 1 }

/-- Loop engine: the slots in SAFE, or in step 2 every slot that was enabled, start again with the soft start of R303. -/
def stepLe (k : Engine) (step : Nat) (s : State) : State :=
  let l := (List.finRange 16).filter fun l =>
    if step = 1 then (s.ls k l).st == .safe else (s.ls k l).enabled
  let s := s.ifc (step = 2) fun s => s.each (s.leLive k) fun l => State.leOff k l
  let s := s.each l fun l t => (t.leOff k l).leStart k l
  s.upHub fun h =>
    { h with reEnable := h.reEnable.filter (fun x => x.1 ≠ k.val) ++ l.map fun l => (k.val, l.val) }

/-- Port: RETRAIN; in step 2 the PHY and link layer are reset first. -/
def stepPort (p : Port) (step : Nat) (s : State) : State :=
  if step = 1 then (s.portDown p).portTrain p true else ((s.portDown p).portOff p).portTrain p true

/-- Lane: it trains from LOCK; in step 2 its PLL and CDR are reset and its port retrains. -/
def stepLane (n step : Nat) (s : State) : State :=
  match s.lanePort n with
  | none => s
  | some p =>
    if step = 1 then
      let s := s.portDown p
      let s := if s.portEn p.val && s.rateOk p.val then s.onLanes [n] laneLock else s
      if (s.port[p]).st == .down then s.upPort p fun x => { x with st := .train, trainAt := s.tick } else s
    else ((s.portDown p).onLanes [n] laneLock).portTrain p true

/-- Pool eye: the frame in progress is dropped and HOLD cleared; in step 2 the eye and any capture are reset. -/
def stepEye (b : Beam) (step : Nat) (s : State) : State :=
  let s := if (s.pcu[b]).frame.isSome then s.dropFrame b else s
  let s := s.upPcu b fun p => { p with hold := false }
  if step = 1 then s
  else s.upPcu b fun p =>
    { p with full := none, eyeFrom := none, eyeLost := false, capArmed := false, capFrom := none, trim := 0, trimQ := [], epoch := p.epoch + 1 }

/-- Ledger: failing cells are read again and the sweep pass starts again; in step 2 the cache is written back and emptied. -/
def stepLedger (step : Nat) (s : State) : State :=
  if step = 1 then (s.failedAgain).upLdg fun g => { g with sweep := 0, sweepFrom := s.tick, sweepLate := false }
  else (s.flushCache).upLdg fun g => { g with cache := [] }

/-- Time domain: the PTP instance starts again; in step 2 the integrator and HOLDOVER are cleared. -/
def stepTime (d : Dom) (step : Nat) (s : State) : State :=
  if step = 1 then s.ptpRestart d
  else
    let s := s.upDom d fun x => { x with integ := ⟨0, 1⟩ }
    if (s.dom d).st = 4 then s.setDomSt d 1 else s

/-- The action of step 1 or 2. -/
def stepAct (func unit step : Nat) (s : State) : State :=
  match func with
  | 1 => s.stepBeam (Fin.ofNat 16 unit) step
  | 2 => s.stepPcu (Fin.ofNat 16 unit) step
  | 3 => s.stepLe (Fin.ofNat 4 unit) step
  | 4 => s.stepPort (Fin.ofNat 35 unit) step
  | 5 => s.stepLane unit step
  | 6 => s.stepEye (Fin.ofNat 16 unit) step
  | 7 => s.stepLedger step
  | 8 => s.stepTime (if unit = 0 then .a else .b) step
  | _ => s

/-- Step 1 or 2 begins: it stops the quiet period (R428, R430). -/
def stepBegin (func unit step : Nat) (auto : Bool) (s : State) : State :=
  let s := s.upHub fun h =>
    { h with ladder := h.ladder ++ [{ func := func, unit := unit, step := step, at_ := s.tick, auto := auto }] }
  (s.stepAct func unit step).quietRestart

/-- FLT_PRE_RESET before step 3 or 4: the first report latched in class F, else in class U (R431). -/
def preReset (step : Nat) (s : State) : State :=
  let f := s.hub.latch[2]
  let u := s.hub.latch[1]
  let v := if f.seq ≠ 0 then f.id * 65536 + 3 * 256 else if u.seq ≠ 0 then u.id * 65536 + 2 * 256 else 0
  s.wr R.FLT_PRE_RESET (w32 (v + (step - 2)))

/-- Step 3, a warm reset, or step 4, the pulse of PWR_CYC_N after every record is written (R431). Step 3 completes here, so that
the exit record is cleared; step 4 completes with the supplies, and posts no result before (R429, R434). -/
def stepWhole (step : Nat) (s : State) : State :=
  let s := s.preReset step
  if step = 3 then ((s.upHub fun h => { h with exits := [] }).ladderPost 9 0 3 0 false).warmReset 1
  else
    (s.ladderRecord 9 0 4 0 false).flushRecords.upHub fun h =>
      { h with pwrCyc := some (s.tick + 1000000 * clampN 10 1000 (s.rf R.SYS_PWR_CYC 9 0)) }

/-- The result that refuses a request, in the order of R434. -/
def stepRefused (s : State) (func unit step : Nat) : Option Nat :=
  if step = 0 ∨ 5 ≤ step ∨ func = 0 ∨ 10 ≤ func ∨ (func = 9 ∧ step ≤ 2) ∨ (func < 9 ∧ 3 ≤ step) then some 1
  else if !s.unitThere func unit then some 5
  else if step ≤ 2 ∧ s.dev.sticky then some 3
  else if 3 ≤ step ∧ !(s.hub.key = 2 ∧ s.tick ≤ s.hub.keyAt + 1000000) then some 4
  else if 3 ≤ step ∧ s.dev.state = .run then some 6
  else if s.stepInUse func unit step then some 2
  else none

/-- A request (R434): steps 3 and 4 of the LEAD of a pair begin 1 µs after its TWIN_TAKE (R431). -/
def stepRequest (func unit step : Nat) (auto : Bool) (s : State) : State :=
  match s.stepRefused func unit step with
  | some c => s.ladderPost func unit step c auto
  | none =>
    if step ≤ 2 then s.stepBegin func unit step auto
    else
      let s := s.upHub fun h => { h with key := 0 }
      let run (t : Nat) (s : State) : State := s.upHub fun h =>
        { h with ladder := h.ladder ++ [{ func := 9, unit := 0, step := step, at_ := t, auto := false }] }
      if s.pairLead then run (s.tick + 1000) (s.takeSend 2) else (run s.tick s).stepWhole step

/-- Step 3 or 4 whose time has come begins (R431). -/
def stepDue (s : State) : State :=
  match s.hub.ladder.find? fun x => x.func == 9 && x.at_ ≤ s.tick with
  | some x => if s.hub.pwrCyc.isSome then s else s.stepWhole x.step
  | none => s

/-- The step that the hint names is requested where AUTO_LEVEL allows it; one on a function whose step is in progress is
not (R433). -/
def stepAuto : State → State := shp fun s =>
  let h := s.rd R.SYS_LADDER_HINT
  let step := fld h 2 0
  let func := fld h 11 8
  let unit := fld h 21 16
  if 1 ≤ step ∧ step ≤ min 2 (s.rf R.FLT_CTL 1 0) ∧ 1 ≤ func ∧ func ≤ 8 ∧
      !s.hub.ladder.any (fun x => x.func == 9 || (x.func == func && x.unit == unit)) then
    s.stepRequest func unit step true
  else s

/-! The end of a step (R430). -/

/-- The result with which a step ends now: `ok` tells it where R430 gives no test. -/
def stepResult (s : State) (x : LadderRun) (ok : Bool) : Option Nat :=
  let told := some (if ok then 0 else 7)
  let port (p : Option Port) : Option Nat :=
    if p.any fun p => s.portUp p.val then some 0 else if x.at_ + 100000000 ≤ s.tick then some 7 else none
  match x.func with
  | 3 =>
    let l := s.hub.reEnable.filter fun y => y.1 == x.unit
    if l.all fun y => let st := (s.ls (Fin.ofNat 4 y.1) (Fin.ofNat 16 y.2)).st; st == .ramp || st == .run then some 0
    else if x.at_ + 10000000 ≤ s.tick then some 7
    else none
  | 4 => port (some (Fin.ofNat 35 x.unit))
  | 5 => port (s.lanePort x.unit)
  | 9 => none
  | _ => told

/-- A slot that serves a port's head or drive (R430). -/
def leServes (s : State) (p : Nat) (k : Engine) (l : LSlot) : Bool :=
  if s.leMach k l then p == 33 else p == (s.lePort k l).val

/-- The follow-on of engine `k`: step 1, which waits while a step is in progress there (R430). -/
def followOn (k : Nat) (s : State) : State :=
  if s.hub.ladder.any fun x => x.func == 3 && x.unit == k then s.upHub fun h => { h with follow := k :: h.follow.filter (· ≠ k) }
  else s.stepBegin 3 k 1 true

/-- After a port step with the port UP, step 1 of every engine with a slot of the port's head or drive that entered SAFE
from a consequential report (R430). -/
def stepFollow (p : Nat) : State → State := shp fun s =>
  let mine (x : Nat × Nat) : Bool := s.leServes p (Fin.ofNat 4 x.1) (Fin.ofNat 16 x.2)
  let l := s.hub.conseqSafe.filter mine
  s.each (List.range 4) fun k t => if l.any fun x => x.1 == k then t.followOn k else t

/-- The follow-on that has waited for the step of engine `k`, where a slot is still in SAFE from a consequential report. -/
def followDone (k : Nat) (s : State) : State :=
  if s.hub.follow.contains k then
    let s := s.upHub fun h => { h with follow := h.follow.filter (· ≠ k) }
    if s.hub.conseqSafe.any fun x => x.1 == k then s.stepBegin 3 k 1 true else s
  else s

/-- A step ends with a result. -/
def stepEnd (x : LadderRun) (code : Nat) (s : State) : State :=
  let s := s.upHub fun h =>
    { h with
      ladder := h.ladder.filter fun y => y ≠ x
      steps := (x.func, x.unit, x.step, s.tick) :: h.steps.filter fun y => !(y.1 == x.func && y.2.1 == x.unit) }
  let s := (s.ladderPost x.func x.unit x.step code x.auto).quietRestart
  if x.func = 4 ∧ code = 0 then s.stepFollow x.unit else if x.func = 3 then s.shp (followDone x.unit) else s

end State

/-- LADDER_REQUEST: a write to SYS_LADDER with GO at 1, ignored while a step is in progress (R434). -/
def execLadderRequest (func : Fin 16) (unit : Fin 64) (step : Fin 8) (s : State) : Res :=
  if !s.hub.ladder.isEmpty then .next s
  else
    let v := s.rd R.SYS_LADDER
    let v := setFld (setFld (setFld v 21 16 unit.val) 11 8 func.val) 2 0 step.val
    .next ((s.wr R.SYS_LADDER v).stepRequest func.val unit.val step.val false)

/-- LADDER_KEY (R435). -/
def execLadderKey (key : BitVec 16) (s : State) : Res :=
  .next (s.upHub fun h =>
    if key = 0xC1A5#16 then { h with key := 1, keyAt := s.tick }
    else if key = 0x3E5A#16 ∧ h.key = 1 ∧ s.tick ≤ h.keyAt + 1000000 then { h with key := 2, keyAt := s.tick }
    else { h with key := 0 })

/-- LADDER_STEP_DONE: the step in progress on a function ends, where R430 lets it end. -/
def execLadderStepDone (func : Fin 16) (unit : Fin 64) (ok : Bool) (s : State) : Res :=
  match s.hub.ladder.find? fun x => x.func == func.val && x.unit == unit.val with
  | none => .next s
  | some x => match s.stepResult x ok with
    | none => .next s
    | some c => .next (s.stepEnd x c)

/-- PWR_CYC_END: the pulse of PWR_CYC_N ends with VDD_CORE still above VRESET: CYC_FAIL and step 3 (R431). -/
def execPwrCycEnd (s : State) : Res :=
  match s.hub.pwrCyc with
  | none => .next s
  | some t =>
    if s.tick < t ∨ s.dev.state = .reset then .next s
    else .next (((s.setB R.FLT_PRE_RESET 4).upHub fun h => { h with pwrCyc := none, exits := [] }).warmReset 1)

end Sys2Proof.Machine
end

