-- ==== Sys2Proof/Machine/Faults.lean ====
section
/-! DEFINITION. The fault hub: classes, order on a tick, latches, shadows, BELAY and the hint (R417 to R429, R432). -/

namespace Sys2Proof.Machine

/-- The sources of R418 with their class (0 C, 1 U, 2 F) and hint. YW_PORT_DOWN is listed as C; see `State.fltClass`. -/
def fltTable : List (Nat × Nat × Nat) :=
  [(0x01, 2, 3), (0x02, 2, 4), (0x03, 2, 4), (0x04, 2, 3), (0x05, 1, 2), (0x06, 0, 0), (0x10, 1, 2), (0x11, 1, 1),
   (0x12, 0, 0), (0x18, 2, 3), (0x19, 1, 1), (0x1A, 0, 1), (0x1B, 0, 0), (0x1C, 1, 0), (0x20, 0, 1), (0x21, 0, 1),
   (0x22, 0, 1), (0x28, 0, 0), (0x29, 0, 0), (0x2A, 1, 0), (0x2B, 0, 1), (0x2C, 0, 2), (0x30, 1, 1), (0x31, 1, 1),
   (0x32, 1, 1), (0x33, 0, 0), (0x34, 1, 2), (0x35, 1, 2), (0x38, 1, 0), (0x40, 0, 1), (0x41, 0, 2), (0x42, 0, 0),
   (0x48, 1, 0), (0x49, 0, 0), (0x4A, 0, 1), (0x4B, 0, 0), (0x4C, 0, 0), (0x50, 0, 1), (0x58, 0, 0), (0x59, 0, 0),
   (0x5A, 0, 0), (0x5B, 0, 0), (0x60, 0, 0), (0x61, 1, 0), (0x62, 1, 0), (0x63, 0, 0)]

/-- A source of R418. -/
def fltKnown (id : Nat) : Bool := fltTable.any (·.1 == id)

/-- The hint of a source (R418). -/
def fltHint (id : Nat) : Nat := ((fltTable.find? (·.1 == id)).map (·.2.2)).getD 0

/-- An SRAM source. -/
def fltSram (id : Nat) : Bool := id == 0x05 || id == 0x06

/-- The function of a source, 0 for none, in the codes of R430 (R418, R432). -/
def fltFunc (id : Nat) (detail : Word) : Nat :=
  if fltSram id then fld detail 3 0
  else if 0x10 ≤ id ∧ id ≤ 0x12 then 1
  else if id = 0x20 ∨ id = 0x21 then 2
  else if 0x30 ≤ id ∧ id ≤ 0x35 then 3
  else if id = 0x19 ∨ id = 0x1A ∨ id = 0x40 ∨ id = 0x42 ∨ id = 0x4A then 4
  else if id = 0x41 then 5
  else if id = 0x22 then 6
  else if 0x28 ≤ id ∧ id ≤ 0x2C then 7
  else if id = 0x50 then 8
  else if (0x01 ≤ id ∧ id ≤ 0x04) ∨ id = 0x18 ∨ id = 0x1C ∨ id = 0x48 then 9
  else 0

/-- The unit on which the ladder acts for a report: for EMIT_OPEN and RPT_LOSS of beam n the port LPn (R418, R432). -/
def fltUnit (id unit : Nat) (detail : Word) : Nat :=
  let f := fltFunc id detail
  if fltSram id then unit else if f = 0 ∨ f = 7 ∨ f = 9 then 0
  else if id = 0x19 ∨ id = 0x1A then 16 + unit % 16 else unit

namespace State

/-- The class of a report: YW_PORT_DOWN is U where the port serves a beam or axis of a job RUNNING or HOLDING (R389). -/
def fltClass (s : State) (r : Report) : Nat :=
  if r.id = 0x40 then
    (if h : r.unit < 35 then b2n (s.portNamed ⟨r.unit, h⟩ fun j => j.st = .running || j.st = .holding) else 0)
  else ((fltTable.find? (·.1 == r.id)).map (·.2.1)).getD 0

/-- Reports of one tick in the order of R420: F, U, C; then ID; then unit. -/
def fltLe (a b : Nat × Report) : Bool :=
  b.1 < a.1 || (a.1 == b.1 && (a.2.id < b.2.id || (a.2.id == b.2.id && a.2.unit ≤ b.2.unit)))

/-! The reaction shadow (R427). -/

/-- The loop-engine slot that a DETAIL names. -/
def fltSlot (d : Word) : Engine × LSlot := (Fin.ofNat 4 (fld d 5 4), Fin.ofNat 16 (fld d 3 0))

/-- A report of AX_FB_LOSS, AX_FREEZE or AX_FOLLOW. -/
def isAx (r : Report) : Bool := r.id == 0x30 || r.id == 0x31 || r.id == 0x32

/-- The slot of a report is a scan slot of head `n`. -/
def ofHead (s : State) (r : Report) (n : Nat) : Bool :=
  let (k, l) := fltSlot r.detail
  !s.leMach k l && (s.lePort k l).val == n

/-- The slot of a report is a scan slot. -/
def ofScan (s : State) (r : Report) : Bool :=
  let (k, l) := fltSlot r.detail
  !s.leMach k l

/-- The reports that the row of a port names (R427). -/
def portRow (s : State) (p : Nat) (r : Report) : Bool :=
  if p < 16 then
    (isAx r && s.ofHead r p) || ((r.id == 0x20 || r.id == 0x21 || r.id == 0x22) && r.unit == p) || r.id == 0x5A || r.id == 0x5B
  else if p < 32 then ((r.id == 0x19 || r.id == 0x1A) && r.unit + 16 == p) || r.id == 0x28
  else if p = 32 then r.id == 0x4A || r.id == 0x4B || r.id == 0x4C
  else if p = 33 then (isAx r && !s.ofScan r) || r.id == 0x38
  else false

/-- The beams that the owner of an SRAM serves, by FUNC and unit (R418, R419). -/
def servedBy (s : State) (func unit : Nat) : List Beam :=
  (List.finRange 16).filter fun b =>
    s.beamOn b.val &&
      (if func = 1 ∨ func = 2 ∨ func = 6 then b.val == unit
       else if func = 3 then
         let w := (s.be[b]).cfg[0]
         [fld w 7 0, fld w 15 8, fld w 23 16].any fun n => n / 16 == unit
       else if func = 4 then unit < 32 && unit % 16 == b.val
       else if func = 5 then (s.lanePort unit).any fun p => p.val < 32 && p.val % 16 == b.val
       else func == 7 || func == 9)

/-- The beams that a report stops at once as its first reaction. -/
def stoppedBy (s : State) (id unit : Nat) (detail : Word) : List Beam :=
  if id = 0x10 ∨ id = 0x11 then s.servedBy 1 unit
  else if id = 0x05 then s.servedBy (fld detail 3 0) unit
  else []

/-- The slot of a report serves one of some beams. -/
def ofBeams (s : State) (r : Report) (l : List Beam) : Bool :=
  l.any fun b =>
    let w := (s.be[b]).cfg[0]
    let n := fld r.detail 7 0
    fld w 7 0 == n || fld w 15 8 == n || fld w 23 16 == n

/-- An open shadow names a report of class C or U (R427). -/
def shadowNames (s : State) (h : Shadow) (r : Report) : Bool :=
  let d := w32 h.detail
  let (k, l) := fltSlot d
  s.tick < h.until_ &&
    ((h.id == 0x40 && s.portRow h.unit r) ||
     (h.id == 0x41 && (s.lanePort h.unit).any fun p => (r.id == 0x40 && r.unit == p.val) || s.portRow p.val r) ||
     ((h.id == 0x30 || h.id == 0x31 || h.id == 0x32 || h.id == 0x35) && !s.leMach k l &&
       (((r.id == 0x31 || r.id == 0x32) && r.detail != d && s.ofHead r (s.lePort k l).val) ||
        (r.id == 0x21 && r.unit == (s.lePort k l).val))) ||
     (r.id == 0x32 && s.ofBeams r (s.stoppedBy h.id h.unit d)) ||
     (h.uf && r.id == 0x32 && s.ofScan r) ||
     h.id == 0x61 || h.id == 0x62)

/-- The source has a row of its own in R427. -/
def hasRow (id : Nat) : Bool :=
  [0x40, 0x41, 0x30, 0x31, 0x32, 0x35, 0x10, 0x11, 0x05, 0x61, 0x62].contains id

/-! BELAY (R33, R426, R428). -/

/-- BELAY becomes sticky, the first cause kept (R35). -/
def setSticky (cause : Nat) (s : State) : State :=
  if s.dev.sticky then s
  else ((s.upDev fun d => { d with sticky := true }).upHub fun h => { h with stickyCause := cause }).irq
    R.FLT_IRQ_STATUS R.FLT_IRQ_EN 0 6

/-- What BELAY means for a pair: a LEAD sends TWIN_TAKE, unless the cause is TWIN_DIVERGE, which has already dissolved the
pair; a SECOND leaves (R408, R410, R413). -/
def belayTwin (s : State) : State :=
  if s.pairLead then s.takeSend 1
  else if s.pairSecond then ((s.ctl 9 [0]).setPair 2 0 false).twinClear
  else s

/-- BELAY is entered: every beam of the running job stops at once, its job is HOLDING, and HOLD_CAUSE reads FAULT
(R33, R34, R37, R426). -/
def belayEnter (s : State) : State :=
  if s.dev.inBelay then s
  else
    let s := s.upDev fun d => { d with inBelay := true }
    let s := (s.upHub fun h => { h with quietAt := s.tick, quietF := false }).irq R.FLT_IRQ_STATUS R.FLT_IRQ_EN 0 4
    ((s.holdNow 2).belayTwin).refresh 2

/-- The reaction of a class on a report latched or escalated there: 0 C, 1 U, 2 F (R417, R426, R428). -/
def classReact (c : Nat) (s : State) : State :=
  if c = 0 then s
  else
    let s := s.ifc (c = 2) (State.kill 3)
    let s := (s.belayEnter).quietRestart
    s.ifc (c = 2) (State.upHub fun h => { h with quietF := true })

/-! Latches. -/

/-- Bits [31:0] of the physical JT of the job RUNNING or HOLDING, 0 when there is none (R421). -/
def faultJt (s : State) : Word :=
  w32 (match s.heldSlot with
    | some n => if (s.js n).st = .running then s.jt.getD 0
        else if (s.js n).st = .holding then ((s.js n).named.map s.beJt).foldl max 0
        else 0
    | none => 0)

/-- A FAULT record (R438). Handling: 0 latched as first, 1 consequential, 2 overflow or escalation of a VALID latch,
3 discarded in BOOT. -/
def fltRecord (r : Report) (cls handling flags reached : Nat) (s : State) : State :=
  s.record 0x20 ([BitVec.ofNat 8 r.id, BitVec.ofNat 8 r.unit, BitVec.ofNat 8 (cls + 1), BitVec.ofNat 8 handling,
    BitVec.ofNat 8 flags, BitVec.ofNat 8 (reached + 1)] ++ toBytes 2 r.detail.toNat ++ toBytes 4 (w32 r.at_).toNat ++
    toBytes 4 s.faultJt.toNat)

/-- The quiet period in ns (R428). -/
def quietNs (s : State) (f : Bool) : Nat :=
  1000000 * oneIfZero (if f then s.rf R.FLT_QUIET 31 16 else s.rf R.FLT_QUIET 15 0)

/-- The step that a report latched in class `c` recommends: n + 1 within a quiet period after step n on its function, where the
source had been latched before that step; a step 3 acts on every function (R432). -/
def hintStep (s : State) (r : Report) (c : Nat) : Nat :=
  let f := fltFunc r.id r.detail
  let base := if fltSram r.id ∧ f = 9 then (if r.id = 0x05 then 3 else 0) else if f = 0 then 0 else fltHint r.id
  let u := fltUnit r.id r.unit r.detail
  let again := s.hub.steps.findSome? fun x =>
    if x.1 = f ∧ x.2.1 = u ∧ s.tick ≤ x.2.2.2 + s.quietNs (c == 2) ∧
        s.hub.seen.any (fun y => y.1 == r.id && y.2.1 == r.unit && y.2.2 ≤ x.2.2.2) then some (min 4 (x.2.2.1 + 1)) else none
  let whole := s.hub.whole.bind fun x => if x.1 = r.id ∧ s.tick ≤ x.2 + s.quietNs (c == 2) then some 4 else none
  let step := if f = 0 then base else (whole.orElse fun _ => again).getD base
  if c = 2 then max 3 step else step

/-- SYS_LADDER_HINT on a latch as first (R432). -/
def setHint (r : Report) (c : Nat) (s : State) : State :=
  (s.wr R.SYS_LADDER_HINT (w32 (r.id * 2 ^ 24 + fltUnit r.id r.unit r.detail % 64 * 2 ^ 16 +
    fltFunc r.id r.detail % 16 * 2 ^ 8 + s.hintStep r c))).upHub fun h =>
      if h.seen.any fun y => y.1 == r.id && y.2.1 == r.unit then h else { h with seen := (r.id, r.unit, s.tick) :: h.seen }

/-- Places of the latch of a class. -/
def clsIx (c : Nat) : Fin 3 := if c = 0 then 0 else if c = 1 then 1 else 2

/-- A latch changed. -/
def upLatch (c : Nat) (f : Latch → Latch) (s : State) : State := s.upHub fun h => { h with latch := vupd h.latch (clsIx c) f }

/-- A report of class `cls` latched as first in class `c`: context, shadow, hint, interrupt and reaction
(R420, R421, R426, R427). -/
def latchFirst (r : Report) (cls c : Nat) (s : State) : State :=
  let esc := cls ≠ c
  let st := stCode s.dev.state
  let jt := s.faultJt
  let s := s.upLatch c fun l =>
    { l with seq := (l.seq + 1) % 256, id := r.id, unit := r.unit, orig := cls + 1, valid := true, ovf := false
             esc := esc, forced := r.forced, dbl := false, state := st, frc := w32 r.at_, jt := jt, rep := 0
             detail := fld r.detail 15 0 }
  let s := if hasRow r.id || 1 ≤ c then
      s.upHub fun h => { h with shadows := { id := r.id, unit := r.unit, detail := fld r.detail 15 0, uf := 1 ≤ c
                                             until_ := s.tick + 1000 * oneIfZero (s.rf R.FLT_SHADOW 15 0) } :: h.shadows }
    else s
  let s := (s.setHint r c).irq R.FLT_IRQ_STATUS R.FLT_IRQ_EN 0 c
  let s := s.fltRecord r cls 0 (b2n esc 0 + b2n r.forced 1) c
  let s := s.ifc (r.id = 0x01) (State.setSticky 3)
  (s.classReact c).stepAuto

/-- A report that reaches a VALID latch of class `c` from class `cls`: OVERFLOW, and in class F DOUBLE with sticky BELAY
(R35, R420, R422). -/
def latchOver (r : Report) (cls c : Nat) (s : State) : State :=
  let s := s.upLatch c fun l => { l with ovf := true, dbl := l.dbl || c == 2 }
  let s := s.fltRecord r cls 2 (b2n (cls ≠ c) 0 + b2n r.forced 1 + b2n (c == 2) 2 + 8) c
  if c = 2 then
    (((s.setSticky 2).belayEnter).quietRestart).upHub fun h => { h with quietF := true }
  else if s.dev.inBelay then s.quietRestart else s

/-- The SAFE_CAUSE that a report of a loop engine gives its slot. -/
def safeCause (id : Nat) : Nat := if id = 0x30 then 1 else if id = 0x31 then 2 else if id = 0x32 then 3 else 4

/-- One report handled by the first rule of R420 that applies. -/
def fltHandle (x : Nat × Report) (s : State) : State :=
  let (c, r) := x
  let s := s.setB (R.FLT_SEENk (r.id / 32)) (r.id % 32)
  if s.dev.state = .boot ∧ !(r.id = 0x01 ∨ r.id = 0x02 ∨ r.id = 0x03) then s.fltRecord r c 3 (b2n r.forced 1) c
  else if c < 2 ∧ s.hub.shadows.any fun h => s.shadowNames h r then
    let s := (s.fltRecord r c 1 (b2n r.forced 1) c).count R.FLT_CNT 31 16
    let (k, l) := fltSlot r.detail
    if (isAx r || r.id == 0x35) && (s.ls k l).st == .safe && (s.ls k l).cause == safeCause r.id then
      s.upHub fun h => { h with conseqSafe := (k.val, l.val) :: h.conseqSafe.filter (· ≠ (k.val, l.val)) }
    else s
  else
    let l := s.hub.latch[clsIx c]
    if l.valid ∧ l.id = r.id ∧ l.unit = r.unit then s.upLatch c fun l => { l with rep := satN 16 (l.rep + 1) }
    else if !l.valid then s.latchFirst r c c
    else if c = 2 then s.latchOver r 2 2
    else
      let s := ((s.upLatch c fun l => { l with ovf := true }).count R.FLT_CNT 15 0).irq R.FLT_IRQ_STATUS R.FLT_IRQ_EN 0 3
      if (s.hub.latch[clsIx (c + 1)]).valid then s.latchOver r c (c + 1) else s.latchFirst r c (c + 1)

/-- The reports of the present tick are taken in order (R420, R456), after which a boot that has failed is in BELAY (R33); in
RESET there is no hub to take them. -/
def hubTake (s : State) : State :=
  let l := s.hub.pending
  let t := s.upHub fun h => { h with pending := [] }
  if l.isEmpty ∨ s.dev.state = .reset then t
  else (t.each ((l.map fun r => (s.fltClass r, r)).mergeSort fltLe) fltHandle).refresh 2

/-! Leaving BELAY (R428, R429). -/

/-- The tick at which the quiet period ends, where it runs (R428). -/
def quietEnd (s : State) : Option Nat :=
  if s.dev.inBelay && s.hub.ladder.isEmpty then some (s.hub.quietAt + s.quietNs s.hub.quietF) else none

end State

end Sys2Proof.Machine
end

