-- ==== Sys2Proof/Machine/Power.lean ====
section
/-! DEFINITION. Supplies, the housekeeping round and the die thermal model (R449 to R465). -/

namespace Sys2Proof.Machine

/-! Channels (R457, R458). -/

/-- Nominal rail voltages in mV, channels 0 to 7 (R449). -/
def railNom : List Nat := [750, 800, 900, 1200, 1100, 1800, 1800, 3300]

/-- Rail tolerances in per cent (R449). -/
def railTol : List Nat := [3, 3, 3, 5, 3, 5, 5, 5]

/-- Full scales of channels 8 to 15 in mA. -/
def railFull : List Nat := [80000, 8000, 12000, 4000, 6000, 500, 2000, 500]

/-- The window of a voltage channel and what it reads as when implausible: low, high, maximum. -/
def voltWin (nom : Nat) : Int × Int × Option Int := (nom / 2, nom + nom / 2, some ((nom * 11 / 10 : Nat) : Int))

/-- The window of a current channel. -/
def ampWin (full : Nat) : Int × Int × Option Int := (-(full / 50 : Nat), full, some (full : Int))

/-- The plausible window of a channel with its "Read as maximum" value, none where it has none (R457). -/
def chWin (k : Nat) : Int × Int × Option Int :=
  if k < 8 then voltWin ((railNom[k]?).getD 0)
  else if k < 16 then ampWin ((railFull[k - 8]?).getD 0)
  else if k < 20 then ampWin 24000
  else if k < 24 then (-50 * 128, 150 * 128, some (150 * 128))
  else if k = 24 then (0, 4000, some 4000)
  else if k < 29 then voltWin 750
  else if k < 33 then ampWin 3000
  else if k < 37 then ampWin 1000
  else if k < 39 then ampWin 3000
  else if k = 39 then (-(Config.adcFull / 200 : Nat), (Config.adcFull / 200 : Nat), none)
  else ((Config.adcFull : Int) - (Config.adcFull / 200 : Nat), (Config.adcFull : Int) + (Config.adcFull / 200 : Nat), none)

/-- Channels that read 0 and count as plausible: the reserved ones, and on package S those of absent units (R457). -/
def chFixed (large : Bool) (k : Nat) : Bool := 41 ≤ k || (!large && (k == 31 || k == 32 || k == 35 || k == 36 || k == 38))

/-- A channel's reading is implausible in a round, from all readings of the round (R458). -/
def chBad (large : Bool) (v : Nat → Int) (k : Nat) : Bool :=
  let out (k : Nat) : Bool := v k < (chWin k).1 || (chWin k).2.1 < v k
  let i := v 8 - (v 16 + v 17 + v 18 + v 19)
  !chFixed large k &&
    (out k || (k ≤ 38 && (out 39 || out 40)) ||
     ((k == 8 || (16 ≤ k && k ≤ 19)) && decide (20000 + v 8 < 20 * (i.natAbs : Int))))

/-- A temperature of 2^-16 °C as sQ8.7. -/
def tempWord (t : Int) : Nat := (satS 16 (rshr t 9) % 65536).toNat

namespace State

/-- The quadrant power in µW from the channel values in use (R460). -/
def quadPower (v : Nat → Int) (q : Nat) : Q :=
  (Q.ofInt (v (25 + q) * v (16 + q) + v 2 * v (29 + q) + v 3 * v (33 + q))).add
    (Q.mk' (v 1 * v 9 + v 4 * v 12 + v 5 * v 13 + v 6 * v 14 + v 7 * v 15) 4)

/-- The beams of every job stop at once, as a supply or thermal detector asks (R453, R462). -/
def stopAll (s : State) : State :=
  match s.runSlot with
  | some n => s.each (s.js n).named fun b t => t.askStop b true
  | none => s

/-- The validity of channel `k` in a round with the values `v`, and its value in use, saturated to 16 bits (R13, R458). -/
def roundChannel (v : Nat → Int) (k : Fin 48) (s : State) : State :=
  let bad := chBad s.pkgL v k.val
  let was := s.pwr.bad[k]
  let now := if bad then 16 else was - 1
  let use := if now = 0 then v k.val else ((chWin k.val).2.2).getD (v k.val)
  let s := s.upPwr fun p => { p with bad := p.bad.set k.val now, val := p.val.set k.val use }
  let s := s.wr (R.PWR_CHk k.val) (w32 (b2n (now ≠ 0) 31 + (max (-32768) (min 65535 use) % 65536).toNat))
  if bad ∧ was = 0 then (s.report 0x63 0 (w32 k.val)).irq R.PWR_IRQ_STATUS R.PWR_IRQ_EN 26 6 else s

/-- The rails against their tolerances: the run of bad rounds and RAIL_OOR. -/
def roundRails (s : State) : State :=
  let oor := (List.range 8).any fun k =>
    let nom : Int := (railNom[k]?).getD 0
    let x := (vget? s.pwr.val k).getD 0
    (vget? s.pwr.bad k).getD 0 == 0 && decide (nom * ((railTol[k]?).getD 0 : Nat) < 100 * ((x - nom).natAbs : Int))
  let n := if oor then min 3 (s.pwr.oor + 1) else 0
  let was := s.pwr.railOor
  let s := s.upPwr fun p => { p with oor := n, railOor := n == 3 }
  let s := s.upTime fun t => { t with rtc := { t.rtc with vbatLow := (s.pwr.val[24]) < 2000 } }
  if n = 3 then
    let s := s.count R.PWR_OOR_CNT 15 0
    if was then s else s.irq R.PWR_IRQ_STATUS R.PWR_IRQ_EN 26 7
  else s

/-- Step 1 of a round: the plausibility rules give every channel its value in use (R458, R459). -/
def roundChannels (ch : List Int) (s : State) : State :=
  let large := s.pkgL
  let v (k : Nat) : Int := if chFixed large k then 0 else (ch[k]?).getD 0
  let s := s.each (List.finRange 48) fun k t => t.roundChannel v k
  let m := maskOf ((List.range 48).filter fun k => ((vget? s.pwr.bad k).getD 0) ≠ 0)
  let s := (s.wr R.PWR_CH_BAD_LO (w32 m)).wr R.PWR_CH_BAD_HI (w32 (m / 2 ^ 32))
  s.roundRails

/-- Step 2 of a round: the die model advances, or in the first round starts from the diodes (R460, R461). -/
def roundModel (s : State) : State :=
  let v (k : Nat) : Int := (vget? s.pwr.val k).getD 0
  let first := !s.pwr.valid
  let s := s.each (List.finRange 4) fun q t =>
    let p := quadPower v q.val
    let d := v (20 + q.val)
    let (x, e) := if first then (⟨d * 512, d * 512, d * 512, d * 512, d * 512⟩, 0) else (t.pwr.quad[q]).advance p (some d)
    let mw := (p.div (Q.ofInt 1000)).round.toNat
    t.upPwr fun w => { w with quad := w.quad.set q.val x, err := w.err.set q.val e, pq := w.pq.set q.val mw }
  let hs := (List.range 4).map fun q => ((vget? s.pwr.quad q).map (·.t0)).getD 0
  let h := hs.foldl max (hs.headD 0)
  s.upPwr fun w => { w with valid := true, hist := if first then List.replicate 1001 h else (h :: w.hist).take 1001 }

/-- The hotspot H. -/
def hot (s : State) : Int := s.pwr.hist.headD 0

/-- A bit that is set at a level and cleared below a lower one (R462). -/
def hyst (was : Bool) (v set clear : Int) : Bool := if set ≤ v then true else if v < clear then false else was

/-- Step 3 of a round: the levels of R462, resolved as R463 says. -/
def roundLevels (s : State) : State :=
  let h := s.hot
  let c (n : Int) : Int := n * 65536
  let win := s.riseWin
  let num := (h - (s.pwr.hist[win]?).getD h) * 1000
  let lim := s.riseLimit
  let old := s.pwr
  let s := s.upPwr fun p =>
    { p with
      hotWarn := hyst old.hotWarn h (c 95) (c 93), hotHold := hyst old.hotHold h (c 102) (c 100)
      hotBelay := hyst old.hotBelay h (c 108) (c 106)
      riseOver := hyst old.riseOver num (lim * 512 * win) (((lim : Int) - 64) * 512 * win)
      rate := rdiv num win }
  let p := s.pwr
  let s := if p.hotWarn && !old.hotWarn then s.irq R.PWR_IRQ_STATUS R.PWR_IRQ_EN 26 3 else s
  let s := match s.runSlot with
    | some n => if s.dev.state = .run ∧ (s.js n).hotspot * 512 < h then s.irq R.PWR_IRQ_STATUS R.PWR_IRQ_EN 26 8 else s
    | none => s
  if p.hotBelay && !old.hotBelay then
    ((s.stopAll).report 0x62 0 0).irq R.PWR_IRQ_STATUS R.PWR_IRQ_EN 26 5
  else if s.dev.state = .run ∧ (p.hotHold || p.riseOver) then
    (s.irq R.PWR_IRQ_STATUS R.PWR_IRQ_EN 26 4).holdAtEnd (if p.hotHold then 3 else 4)
  else s

/-- Step 4 of a round: the readings are published together (R457). -/
def roundPublish (s : State) : State :=
  let p := s.pwr
  let h := s.hot
  let hw := tempWord h
  let s := s.wr R.PWR_HOT (w32 (tempWord p.rate * 65536 + hw))
  let q := ((List.range 4).find? fun q => ((vget? p.quad q).map (·.t0)).getD 0 == h).getD 0
  let s := s.wr R.PWR_HOT_Q (w32 q)
  let s := if sext 16 (s.rf R.PWR_PEAK 15 0) < sext 16 hw then s.wr R.PWR_PEAK (w32 hw) else s
  let s := s.wr R.PWR_TOTAL (w32 p.pq.toList.sum)
  s.each (List.finRange 4) fun q t =>
    let x := p.quad[q]
    let t := (t.wr (R.PWR_Qq_T01 q.val) (w32 (tempWord x.t1 * 65536 + tempWord x.t0))).wr (R.PWR_Qq_T23 q.val)
      (w32 (tempWord x.t3 * 65536 + tempWord x.t2))
    (t.wr (R.PWR_Qq_TB q.val) (w32 (tempWord p.err[q] * 65536 + tempWord x.tb))).wr (R.PWR_Qq_P q.val) (w32 p.pq[q])

/-! Dips (R453, R454). -/

/-- A POWER record at a rising crossing, for a falling crossing at `at_`, or for one before the last RESET, whose FRC and
duration the block no longer holds: free values (R438, R454). -/
def powerRecord (level low : Nat) (at_ : Option Nat) (s : State) : State :=
  let put (frc us : Nat) (s : State) : State :=
    s.record 0x40 ([BitVec.ofNat 8 level, 0] ++ toBytes 2 low ++ toBytes 4 frc ++ toBytes 4 us)
  match at_ with
  | some t => put (w32 t).toNat (satN 32 (cdiv (s.tick - t) 1000)) s
  | none =>
    let (x, s) := s.fresh
    put (x.toNat % 2 ^ 32) (x.toNat / 2 ^ 32) s

end State

/-- VWARN_FALL (R453). -/
def execVwarnFall (s : State) : Res :=
  if s.dev.belowVwarn then .next s
  else
    let s := s.upDev fun d => { d with belowVwarn := true }
    if s.dev.state = .reset then .next s
    else
      let s := (s.upPwr fun p => { p with warnAt := some s.tick, low := 0 }).count R.PWR_DIP_CNT 15 0
      let s := (s.upRec fun q => { q with warnCrc := true, aboveAt := none }).irq R.PWR_IRQ_STATUS R.PWR_IRQ_EN 26 0
      .next (s.report 0x60 0 0)

/-- VWARN_RISE: `low` is the lowest voltage of the dip sampler (R454). -/
def execVwarnRise (low : BitVec 16) (s : State) : Res :=
  if !s.dev.belowVwarn then .next s
  else
    let s := s.upDev fun d => { d with belowVwarn := false }
    if s.dev.state = .reset then .next s
    else
      let t := s.pwr.warnAt
      let us := match t with
        | some t => satN 16 (cdiv (s.tick - t) 1000)
        | none => 0
      let s := s.powerRecord 1 low.toNat t
      let s := if t.isSome then s.wr R.PWR_DIP_LAST (w32 (us * 65536 + low.toNat)) else s
      let s := (s.upPwr fun p => { p with warnAt := none, low := low.toNat }).irq R.PWR_IRQ_STATUS R.PWR_IRQ_EN 26 2
      .next (s.upRec fun q => { q with aboveAt := some s.tick })

/-- VSTOP_FALL (R453). -/
def execVstopFall (s : State) : Res :=
  if s.dev.belowVstop then .next s
  else
    let s := s.upDev fun d => { d with belowVstop := true }
    if s.dev.state = .reset then .next s
    else
      let s := (s.upPwr fun p => { p with stopAt := some s.tick }).count R.PWR_DIP_CNT 31 16
      .next (((s.stopAll).irq R.PWR_IRQ_STATUS R.PWR_IRQ_EN 26 1).report 0x61 0 0)

/-- VSTOP_RISE (R453, R454, R455). -/
def execVstopRise (low : BitVec 16) (s : State) : Res :=
  if !s.dev.belowVstop then .next s
  else
    let s := s.upDev fun d => { d with belowVstop := false }
    if s.dev.state = .reset then .next s
    else .next ((s.powerRecord 2 low.toNat s.pwr.stopAt).upPwr fun p => { p with stopAt := none, low := low.toNat })

/-- VRESET_FALL: RESET, the gates low through the unclocked path; in the pulse of PWR_CYC_N it is the power cycle of step 4
(R431, R453). -/
def execVresetFall (s : State) : Res :=
  let s' := s.upDev fun d => { d with belowVreset := true }
  .next (s'.enterReset (if s.hub.pwrCyc.isSome then 2 else if s.dev.state = .reset ∧ s.dev.rstCause = 2 then 2 else 0))

/-- VRESET_RISE: RESET ends under R33 and BOOT follows. -/
def execVresetRise (s : State) : Res := .next (s.upDev fun d => { d with belowVreset := false }).leaveReset

/-- The hotspot has moved by more than CAL_DT since the last run in which every pair was good: a run is triggered, where none
runs or waits already (R337; DESIGN CHOICE, log entry 53). -/
def State.dlAuto (s : State) : State :=
  let last : Int := sext 16 (s.rf R.CAL_DL_LAST 15 0)
  let dt : Int := sext 16 (s.rf R.CAL_DL_CFG 31 16)
  let moved : Bool := decide (dt < (s.hotNow - last).natAbs)
  s.ifc (s.dev.booted && s.dev.state != .boot && s.rb R.CAL_CTL 4 && !s.cal.due && moved) State.dlTrigger

/-- HK_ROUND: the round that ends on this tick, with the 48 readings of R457. -/
def execHkRound (ch : List Int) (s : State) : Res :=
  let r := s.tick / 1000000
  if s.dev.state = .reset ∨ s.tick % 1000000 ≠ 0 ∨ r ≤ (s.rd R.PWR_ROUND).toNat then .next s
  else
    let s := ((((s.roundChannels ch).roundModel).roundLevels).roundPublish).dlAuto
    .next (s.wr R.PWR_ROUND (w32 r))

/-- PWR_CNT_CLR. -/
def execPwrCntClr (s : State) : Res :=
  .next (((s.wr R.PWR_DIP_CNT 0).wr R.PWR_OOR_CNT 0).wr R.PWR_PEAK (w32 (tempWord (if s.pwr.valid then s.hot else 0))))

end Sys2Proof.Machine
end

