-- ==== Sys2Proof/Machine/Hub.lean ====
section
/-! DEFINITION. The commands of the fault hub, and RESET and BOOT as commands (R33, R418 to R429, R476). -/

namespace Sys2Proof.Machine

namespace State

/-! Forced reports (R424). -/

/-- `f` with every report it makes marked as forced; where it makes none of source `id`, one with this unit and DETAIL is
added. -/
def asForced (id unit : Nat) (detail : Word) (f : State → State) (s : State) : State :=
  let old := s.hub.pending
  let t := f (s.upHub fun h => { h with pending := [] })
  let t := if t.hub.pending.any (·.id == id) then t else t.report id unit detail
  t.upHub fun h => { h with pending := old ++ h.pending.map fun r => { r with forced := true } }

/-- The unit of FLT_FORCE_UNIT is one that source `id` can report on this variant (R419, R424). -/
def forceUnit (s : State) (id u : Nat) : Bool :=
  if (0x10 ≤ id ∧ id ≤ 0x12) ∨ id = 0x18 ∨ id = 0x1B ∨ id = 0x20 ∨ id = 0x21 ∨ (0x28 ≤ id ∧ id ≤ 0x2B) then s.beamOn u
  else if id = 0x19 ∨ id = 0x1A then s.beamOn u
  else if id = 0x22 then s.hasEye && s.beamOn u
  else if 0x30 ≤ id ∧ id ≤ 0x35 then u < 4 && s.leOn u
  else if id = 0x40 ∨ id = 0x42 then s.portOn u
  else if id = 0x41 then s.laneOn u
  else if id = 0x4A then u == 32 && s.hasTwin
  else if id = 0x48 ∨ id = 0x49 ∨ id = 0x4B ∨ id = 0x4C then u == 0 && s.hasTwin
  else if id = 0x50 then u < 2
  else u == 0

/-- At-once stops of some beams. -/
def stopBeams (l : List Beam) (s : State) : State := s.each l fun b t => t.askStop b true

/-- The visit of a beam that is still open, changed. -/
def openVisit (b : Beam) (f : Visit → Visit) (s : State) : State :=
  s.upLdg fun g => { g with visits := vupd g.visits b (List.map fun v => if v.open_ then f v else v) }

/-- The first reaction of a forced source on its unit, with the report: the report that the channel awaits next is lost
(R206), the open visit is marked (R245, R247), the next update is abandoned (R310). What a forced report names beside its unit (a
ledger cell, the slot of an engine, a machine axis, a channel, the owner of an SRAM) is a free value (log entry 63). -/
def forceMore (id u : Nat) (s : State) : State :=
  let eng : Engine := Fin.ofNat 4 u
  let port : Port := Fin.ofNat 35 u
  let go (f : State → State) (s : State) : State := s.asForced id u 0 f
  match id with
  | 0x38 =>
    let (x, s) := s.fresh
    let n : Axis := Fin.ofNat 16 x.toNat
    s.asForced id u (w32 n.val) fun s => (s.axHalt n (s.rb (R.AXn_CFG n.val) 7) false).setB (R.AXn_STATUS n.val) 5
  | 0x1A => go (fun s => s.rptLost (Fin.ofNat 16 u) (s.ld[Fin.ofNat 16 u]).next) s
  | 0x28 => go (State.openVisit (Fin.ofNat 16 u) fun v => { v with susp := true }) s
  | 0x29 => go (State.openVisit (Fin.ofNat 16 u) fun v => { v with rise := true }) s
  | 0x2B =>
    let (x, s) := s.fresh
    go (State.cellFull u (x.toNat % max 1 (s.ldgNx * s.ldgNy))) s
  | 0x40 => go (State.portDown port) s
  | 0x41 => go (State.onLanes [u] fun x => { x with st := .failed }) s
  | 0x42 => go (State.miswired port) s
  | 0x48 => go (fun s => if s.twin.pair = 0 then s else s.diverge true) s
  | 0x49 => go (fun s => if s.pairSecond && s.twin.decideAt.isNone then
      s.upTwin fun t => { t with decideAt := some s.tick, hbTake := true } else s) s
  | 0x4A => go (fun s => if s.pairLead then
      ((s.setPair 1 3 true).twinClear).upTwin fun t => { t with confirm := true } else s) s
  | 0x4B => go (State.upTwin fun t => { t with timeOk := false }) s
  | 0x50 => go (fun s =>
      let d : Dom := if u = 0 then .a else .b
      if (s.dom d).st = 2 ∨ (s.dom d).st = 3 then s.holdover d else s) s
  | 0x58 => go State.refLost s
  | 0x60 => go (State.upRec fun q => { q with warnCrc := true, aboveAt := if s.dev.belowVwarn then none else some s.tick }) s
  | 0x61 => go stopAll s
  | 0x62 => go stopAll s
  | 0x63 =>
    let (x, s) := s.fresh
    let k := x.toNat % 48
    s.asForced id u (w32 k) (State.upPwr fun p => { p with bad := vupdN p.bad k fun _ => 16 })
  | _ =>
    if 0x30 ≤ id ∧ id ≤ 0x35 then
      let (x, s) := s.fresh
      let l : LSlot := Fin.ofNat 16 x.toNat
      let safe := id = 0x30 ∨ id = 0x31 ∨ id = 0x35 ∨ (id = 0x32 ∧ s.rb (R.LEk_SLOTl_FE u l.val) 31)
      s.asForced id u (w32 (16 * u + l.val)) fun s =>
        if safe then s.leSafe eng l (safeCause id)
        else if id = 0x33 then s.upLs eng l fun x => { x with forceOver := true }
        else s
    else go id' s
where
  /-- No first reaction that leaves a trace in the state. -/
  id' (s : State) : State := s

/-- A step of BOOT fails, once: BOOT_FAIL is reported and BELAY will be sticky (R33, R35, R476). -/
def bootBreak (step : Nat) (s : State) : State :=
  if s.dev.state ≠ .boot ∨ s.dev.bootFailed then s
  else
    let s := s.upDev fun d => { d with bootFailed := true, bootStep := step }
    let s := if step ≤ 5 then s.wr R.DDR_STATUS 0 else s
    ((s.setSticky (if step = 3 then 3 else 4)).ifc (step = 3) State.shpStop).report 0x03 0 (w32 step)

/-- The first reaction of a forced report: the emission, the beams and the PCU here, the others by `forceMore`. -/
def forceOne (id u : Nat) (s : State) : State :=
  let beam : Beam := Fin.ofNat 16 u
  let go (f : State → State) (s : State) : State := s.asForced id u 0 f
  match id with
  | 0x01 => go (fun s => (s.bootBreak 3).shpStop) s
  | 0x02 => go (State.kill 4) s
  | 0x04 => go stopAll s
  | 0x10 => go (State.stopBeams [beam]) s
  | 0x11 => go (State.stopBeams [beam]) s
  | 0x18 => go (State.kill 2) s
  | 0x20 => go (State.enterFallback beam 0x20 7) s
  | 0x21 => go (State.enterFallback beam 0x21 8) s
  | 0x22 => go (fun s => (s.upPcu beam fun p => { p with hold := true }).setB (R.PCUn_EYE_STATUS u) 2) s
  | _ => s.forceMore id u

/-- A forced SRAM report: which of the functions with this unit owns the SRAM is a free value. -/
def forceSram (id u : Nat) (s : State) : State :=
  let (x, s) := s.fresh
  let l := (List.range 10).filter fun f => f ≠ 0 && s.unitThere f u
  match l[x.toNat % max 1 l.length]? with
  | some f => s.asForced id u (w32 f) fun s => if id = 0x05 then s.stopBeams (s.servedBy f u) else s
  | none => s

/-- Bit `b` of FLT_FORCEk written with 1 (R424). -/
def forceBit (id : Nat) (s : State) : State :=
  let u := s.rf R.FLT_FORCE_UNIT 5 0
  if !fltKnown id then s
  else if fltSram id then s.forceSram id u
  else if s.forceUnit id u then s.forceOne id u
  else s

/-! Boot. -/

/-- BOOT ends with the failure of a step: BOOT_FAIL and what R476 adds; the hub takes the reports at the end of the tick, into
sticky BELAY (R35, R476). -/
def bootFail (step : Nat) (s : State) : State :=
  ((s.bootBreak step).ifc (step = 2) (State.report 0x02 0 0)).ifc (step = 3) (State.report 0x01 0 0)

/-- Step 7 of BOOT (R476): the block reaches IDLE, and a ladder step that made the RESET is noted for R432. PLL locks and the link's width and rate are free values. -/
def bootDone (s : State) : State :=
  let ch := s.rf R.DDR_STATUS 1 0
  let s := s.wr R.SYS_BOOT (w32 (s.tick / 100000 * 65536 + ch * 16))
  let (x, s) := s.fresh
  let n := x.toNat
  let sd := if s.pkgL then n % 16 else n % 4
  let width := if n / 32 % 3 = 0 then 1 else if n / 32 % 3 = 1 then 4 else 8
  let s := s.upTime fun t =>
    { t with rootLock := true, sdLock := BitVec.ofNat 4 sd, pcieLock := nbit n 4 }
  let s := s.upHost fun h => { h with linkUp := nbit n 4, link := width * 16 + 1 + n / 128 % 5 }
  let s := (s.timeMark 0).ifc s.cal.refOk State.dlStart
  let s := if s.hub.latch[2].seq = 0 then s.withEmit fun t => t.upLdc fun l => { l with kill := false, cause := 0 } else s
  let v := s.rd R.FLT_PRE_RESET
  let s := s.ifc (fld v 1 0 ≠ 0 ∧ s.dev.rstCause ≠ 0) (State.upHub fun h => { h with whole := some (fld v 23 16, s.tick) })
  (s.upDev fun d => { d with booted := true }).refresh

end State

/-- RST_N_ASSERT (R31, R33). -/
def execRstNAssert (s : State) : Res :=
  .next ((s.upDev fun d => { d with rstLow := true }).enterReset (if s.dev.state = .reset then s.dev.rstCause else 0))

/-- RST_N_RELEASE (R33, R444, R476). -/
def execRstNRelease (s : State) : Res := .next (s.upDev fun d => { d with rstLow := false }).leaveReset

/-- BOOT_STEP_TIMEOUT: a step of BOOT failed or has not completed by its time (R476). -/
def execBootStepTimeout (step : Fin 8) (s : State) : Res :=
  .next (if s.dev.state = .boot ∧ !s.dev.bootFailed ∧ step.val ≠ 0 then s.bootFail step.val else s)

/-- BOOT_COMPLETE: step 7 of R476, which fails where it comes later than 240 ms. -/
def execBootComplete (s : State) : Res :=
  .next (if s.dev.state ≠ .boot ∨ s.dev.bootFailed then s
    else if s.tick ≤ 240000000 then s.bootDone
    else s.bootFail 7)

/-- FAULT_REPORT: a detector without a command of its own reports; the hub handles it with every other report of the tick, when
the tick's commands are done (R420, R423). A lockstep mismatch halts the Shepherd pair, and in BOOT is the failure of its step 3
(R33, R418, R476). -/
def execFaultReport (id unit : Byte) (detail : BitVec 16) (s : State) : Res :=
  let d : Word := detail.zeroExtend 32
  let u := unit.toNat % 64
  if fltKnown id.toNat ∧ s.dev.state ≠ .reset then
    let s := if id = 0x05 then s.stopBeams (s.servedBy (fld d 3 0) u) else s
    let s := s.ifc (id = 0x01) fun s => (s.bootBreak 3).shpStop
    .next (s.report id.toNat u d)
  else .next s

/-- FLT_ACK (R423). -/
def execFltAck (cls : Fin 4) (seq : Byte) (s : State) : Res :=
  let s := s.wr R.FLT_ACK (w32 (seq.toNat * 256 + cls.val))
  if cls.val = 0 then .next s
  else
    let l := s.hub.latch[State.clsIx (cls.val - 1)]
    if l.valid ∧ l.seq = seq.toNat then
      .next (s.upLatch (cls.val - 1) fun l => { l with valid := false, ovf := false, dbl := false, rep := 0 })
    else .next (s.setB R.FLT_STATUS 5)

/-- FLT_FORCE: a write to FLT_FORCEk while FORCE_EN is 1 (R424). -/
def execFltForce (k : Fin 8) (bits : Word) (s : State) : Res :=
  if !s.rb R.FLT_CTL 4 then .next s
  else .next (s.each (onesOf 32 bits.toNat) fun b t => t.forceBit (32 * k.val + b))

/-- SHADOW_CLOSE (R427). -/
def execShadowClose (s : State) : Res :=
  .next (s.upHub fun h => { h with shadows := h.shadows.filter fun x => s.tick < x.until_ })

/-- QUIET_PERIOD_END: BELAY is left, or becomes sticky where the exit would bring TALLY to TALLY_MAX (R428, R429). -/
def execQuietPeriodEnd (s : State) : Res :=
  match s.quietEnd with
  | none => .next s
  | some t =>
    if s.tick < t ∨ s.dev.sticky then .next s
    else if oneIfZero (s.rf R.FLT_TALLY_CFG 3 0) ≤ s.tally + 1 then .next (s.setSticky 1)
    else
      let s := s.upHub fun h => { h with exits := (s.recd.opMs :: h.exits).take 15, quietF := false }
      .next (((s.upDev fun d => { d with inBelay := false }).irq R.FLT_IRQ_STATUS R.FLT_IRQ_EN 0 5).refresh)

/-- FLT_CNT_CLR (R488). -/
def execFltCntClr (s : State) : Res := .next (s.wr R.FLT_CNT 0)

end Sys2Proof.Machine
end

