-- ==== Sys2Proof/Machine/RegRead.lean ====
section
/-! DEFINITION. What a register reads as (R487): the word it holds, or the present value of what it shows; 0 for a register
of a unit that the variant lacks (R4), and for an offset that names no register. -/

namespace Sys2Proof.Machine

/-- A word of fields: value and lowest bit. -/
def pack (l : List (Nat × Nat)) : Word := w32 (l.map fun x => x.1 * 2 ^ x.2).sum

/-- `a` with its bits outside `m` cleared, and the fields of `l` added. -/
def packOn (a : Word) (m : Nat) (l : List (Nat × Nat)) : Word := (a &&& w32 m) ||| pack l

namespace State

/-- The unit that a BAR0 offset belongs to is fused in and bonded (R4). -/
def unitOn (s : State) (a : Nat) : Bool :=
  match blkOf a with
  | none => false
  | some (b, i, r) =>
    match b with
    | .be => s.beamOn i
    | .pcu => s.beamOn i && (r < 0x100 || s.hasEye)
    | .le => s.leOn i
    | .lane => s.laneOn (r / 0x1000)
    | .port => r < 0x1000 || s.portOn ((r - 0x1000) / 0x100)
    | .ld => r < 0x1000 || s.beamOn ((r - 0x1000) / 0x100)
    | .zone => r < 0x40 || s.beamOn ((r % 0x40) / 4)
    | .cal =>
      if 0x1000 ≤ r ∧ r < 0x2000 then s.beamOn ((r - 0x1000) / 0x100)
      else if 0x2000 ≤ r then s.beamOn ((r - 0x2000) / 0x200)
      else true
    | .twin => s.hasTwin
    | _ => true

/-- SYS. -/
def readSys (s : State) (a r : Nat) : Word :=
  if r = 0x00 then pack [(0xC1, 8), (s.dev.variant, 0)]
  else if r = 0x04 then pack [(b2n s.host.dbgOpen, 1), (b2n s.dev.lock, 0)]
  else if r = 0x08 then
    packOn (s.rd a) 0xFFFF00F0 [(if s.dev.bootFailed then s.dev.bootStep else if s.dev.state = .boot then s.bootStepNow
      else 0, 0)]
  else if r = 0x10 then
    pack [(b2n s.heldSlot.isSome, 18), ((s.heldSlot.map (·.val)).getD 0, 16), (s.dev.holdCause, 12),
      (stCode s.dev.prev, 8), (b2n s.dev.sticky, 3), (stCode s.dev.state, 0)]
  else if r = 0x14 then s.dev.stateFrc
  else if r = 0x18 then w32 Config.uid.toNat
  else if r = 0x1C then w32 (Config.uid.toNat / 2 ^ 32)
  else if r = 0x2C then packOn (s.rd a) 0xFF7FFFFF [(b2n (!s.hub.ladder.isEmpty), 23)]
  else if r = 0x38 then w32 s.mram.patch
  else if r = 0x3C then w32 s.mram.pend
  else s.rd a

/-- CLK. -/
def readClk (s : State) (a r : Nat) : Word :=
  if r = 0x00 then
    pack [(b2n s.time.rtc.oscRun, 9), (b2n s.time.rtc.oscRun, 8), (s.time.sdLock.toNat, 4), (b2n s.time.pcieLock, 3),
      (b2n s.time.ddrLock, 2), (b2n s.time.rootLock, 1)]
  else s.rd a

/-- TIME. -/
def readTime (s : State) (a r : Nat) : Word :=
  if r = 0x04 then
    packOn (s.rd a) 0x10000 [(s.time.b.st, 12), (s.time.a.st, 8), (b2n (s.time.slew != 0), 4)]
  else if r = 0x0C then i32 (satS 32 s.resid)
  else if r = 0x10 then s.frc
  else if r = 0x14 then s.dt
  else if r = 0x104 then w32 (s.time.a.frac / 256)
  else if r = 0x204 then w32 (s.time.b.frac / 256)
  else if r = 0x10C then s.time.a.anchor
  else if r = 0x20C then s.time.b.anchor
  else if 0x400 ≤ r ∧ r < 0x500 ∧ r % 0x20 = 0x10 then
    packOn (s.rd a) 0xFF01 [(b2n (((vget? s.time.tp ((r - 0x400) / 0x20)).map (·.active)).getD false), 1)]
  else if 0x600 ≤ r ∧ r < 0x700 then
    let q := (vget? s.time.tc ((r - 0x600) / 0x20)).getD []
    if r % 0x20 = 4 then
      packOn (s.rd a) 0xFF0000 [(b2n ((q.head?.map (·.2)).getD false), 8), (q.length, 0)]
    else if r % 0x20 = 8 then (q.head?.map (·.1)).getD 0
    else s.rd a
  else if r = 0x804 then
    packOn (s.rd a) 0x18 [(b2n s.time.rtc.vbatLow, 2), (b2n s.time.rtc.oscRun, 1), (b2n s.time.rtc.valid, 0)]
  else s.rd a

/-- MBX. -/
def readMbx (s : State) (a r : Nat) : Word :=
  if r = 0x08 then packOn (s.rd a) 0xFF7FFFFF [(b2n s.host.mbx.isSome, 23)]
  else if 0x100 ≤ r then
    match s.host.hist[(r - 0x100) / 8]? with
    | none => 0
    | some h => if r % 8 = 0 then pack [(h.tag, 16), (h.cmd, 8), (h.code, 0)] else h.digest
  else s.rd a

/-- PHASE of BEn_STATUS. -/
def bePhase (s : State) (b : Beam) : Nat :=
  let e := s.be[b]
  if !s.naming b JobSlot.busy then 0
  else if s.naming b (fun j => j.st = .armed) && !s.naming b (fun j => j.st = .running || j.st = .holding) then 1
  else
    match e.move with
    | some m => if m.done then 10 else if m.t0 ≤ s.tick then 9 else 8
    | none =>
      if e.stop.isSome && (s.running b).isNone then 10
      else
        match s.running b with
        | none => 8
        | some s0 =>
          let t := s.tick - s0
          let fin := ((s.promiseOf b).bind fun p => sget b.val p.finish).getD 0
          if e.dec.halted ∧ fin ≤ t then 11
          else
            match strokeAt e.fifo (Q.ofInt t) with
            | none => 8
            | some (_, st, _) =>
              if st.slotEnd ≤ t then 8
              else
                match st.kind with
                | .jump => 6
                | .spot => if t < st.slotAt + st.tBr then 6 else 7
                | _ =>
                  if t < st.slotAt + st.tBr then 2
                  else if t < st.slotAt + st.tBr + st.tRu then 3
                  else if t < st.slotAt + st.tBr + st.tRu + st.tPath then 4
                  else 5

/-- A field of the stop record, 0 while none is kept. -/
def stopField (s : State) (b : Beam) (f : StopRec → Word) : Word := ((s.be[b]).stop.map f).getD 0

/-- BEn. -/
def readBe (s : State) (b : Beam) (a r : Nat) : Word :=
  let e := s.be[b]
  let ev (f : PEvent → Word) : Word := (e.events.head?.map f).getD 0
  if r = 0x04 then
    pack [(s.fifoLevel b, 16), (e.dec.loops.length, 8), (b2n ((s.zoneHeld b).isSome), 6),
      (b2n (s.gateOpen b s.tick), 5), (s.bePhase b, 0)]
  else if r = 0x08 then w32 (s.beJt b)
  else if r = 0x0C then w32 (s.beJt b / 2 ^ 32 % 65536)
  else if r = 0x10 then w32 e.dec.pc
  else if r = 0x40 then s.stopField b fun x => pack [(b2n x.setHeld.isSome, 8), (x.form, 4), (x.kind, 0)]
  else if r = 0x44 then s.stopField b fun x => w32 x.pc
  else if r = 0x48 then s.stopField b fun x => i32 x.pt.x
  else if r = 0x4C then s.stopField b fun x => i32 x.pt.y
  else if r = 0x50 then s.stopField b fun x => w32 x.rem
  else if r = 0x54 then s.stopField b fun x => w32 x.at_
  else if r = 0x60 then packOn (s.rd a) 0xFF0000 [(e.events.length, 0)]
  else if r = 0x64 then ev fun x => pack [(x.code, 16), (x.time / 2 ^ 32 % 65536, 0)]
  else if r = 0x68 then ev fun x => w32 x.time
  else if r = 0x6C then ev fun x => x.value
  else s.rd a

/-- PCUn and its eye. -/
def readPcu (s : State) (b : Beam) (a r : Nat) : Word :=
  let p := s.pcu[b]
  if r = 0x04 then
    packOn (s.rd a) 0x180 [(p.prof, 16), (b2n p.slewed, 5), (b2n p.clampLo, 4), (b2n p.clampHi, 3), (b2n p.fbActive, 2),
      (b2n p.fallback, 1), (b2n p.opn, 0)]
  else if r = 0x10 then pack [(p.word, 16), (p.nom, 0)]
  else if r = 0x14 then pack [(p.ah, 16), (p.bh, 0)]
  else if r = 0x18 then i32 p.acc
  else if r = 0x1C then i32 (p.acc / 2 ^ 32)
  else if r = 0x10C then packOn (s.rd a) 0xFF000005 [(b2n p.hold, 1)]
  else if r = 0x128 then i32 p.trim
  else if r = 0x14C then packOn (s.rd a) 0xF02 [(b2n p.capFrom.isSome, 0)]
  else s.rd a

/-- LEk. -/
def readLe (s : State) (k : Engine) (a r : Nat) : Word :=
  let e := s.le[k]
  let bits (f : LeState → Bool) : Nat := maskOf (((List.finRange 16).filter fun l => f (s.ls k l).st).map (·.val))
  if r = 0x04 then
    pack [(bits fun x => x = .start || x = .ramp || x = .run, 16), (bits fun x => x = .safe, 0)]
  else if r = 0x1C then w32 s.leFrame
  else if r = 0x20 then w32 (s.leBusyMax k)
  else if r = 0x104 then packOn (s.rd a) 4 [(b2n e.trig, 1), (b2n e.armed, 0)]
  else if 0x110 ≤ r ∧ r < 0x150 ∧ r % 0x10 = 4 then
    packOn (s.rd a) 0xFFFF0000 [(((vget? e.tr ((r - 0x110) / 0x10)).map (·.next)).getD 0, 0)]
  else if 0x1000 ≤ r ∧ r < 0x2000 ∧ r % 0x100 = 4 then s.leStatus k (Fin.ofNat 16 ((r - 0x1000) / 0x100))
  else s.rd a

/-- The code of an axis state (AXn_STATUS). -/
def axCode : AxState → Nat
  | .off => 0 | .idle => 1 | .moving => 2 | .stopping => 3 | .homing => 4 | .fault => 5

/-- AX. -/
def readAx (s : State) (a r : Nat) : Word :=
  if r = 0 then
    let bits (f : Axis → Bool) : Nat := maskOf (((List.finRange 16).filter f).map (·.val))
    pack [(bits s.axInUse, 16),
      (bits fun n => let x := (s.ax[n]).st; x = .moving || x = .stopping || x = .homing, 0)]
  else if r < 0x1000 then s.rd a
  else
    let n : Axis := Fin.ofNat 16 ((r - 0x1000) / 0x100)
    let x := s.ax[n]
    if r % 0x100 = 4 then
      packOn (s.rd a) 0x60 [(axCode x.st, 28), (x.queue.length, 16), (b2n x.remValid, 4), (b2n x.home, 3), (b2n (s.limActive n false), 2),
        (b2n (s.limActive n true), 1), (b2n x.homed, 0)]
    else if r % 0x100 = 8 then i32 (satS 32 (s.axPos n s.tick).round)
    else s.rd a

/-- LDG. -/
def readLdg (s : State) (a r : Nat) : Word :=
  if r = 0x04 then packOn (s.rd a) 0x70 [(s.ldg.op, 1), (b2n (s.ldg.op != 0), 0)]
  else if r = 0x30 then w32 s.lt
  else if r = 0x34 then w32 s.ldg.layer
  else if r = 0x38 then w32 s.ldgTau
  else if r = 0x3C then w32 s.ldgKl
  else if r = 0x48 then packOn (s.rd a) 0xFFFF0000 [(s.ldg.sweep / max s.ldgNx 1, 0)]
  else s.rd a

/-- ZONE_Bb_STATE. -/
def zoneWord (s : State) (b : Beam) : Word :=
  let x := s.zoneNow b
  let q := s.zoneWaits b
  let held := x.held
  let st := if held.isSome then 2 else if x.masked then 3 else if q.isSome then 1 else 0
  pack [(st, 30), (if st = 1 then (q.map fun y => x.eff y).getD 0 else 0, 24), (x.base, 20),
    (satN 8 ((q.map (·.lost)).getD 0), 12),
    ((match held with
      | some h => h
      | none => (q.map (·.set)).getD 0) % 4096, 0)]

/-- ZONE. -/
def readZone (s : State) (a r : Nat) : Word :=
  let bits (f : Beam → Bool) : Nat := maskOf (((List.finRange 16).filter f).map (·.val))
  if r = 0x04 then packOn (s.rd a) 4 [(b2n s.zone.active, 1), (b2n s.zone.map, 0)]
  else if r = 0x14 then w32 s.zone.round
  else if r = 0x18 then
    pack [(bits fun b => (s.zoneWaits b).isSome, 16),
      (bits fun b => (s.zoneHeld b).isSome, 0)]
  else if r = 0x1C then w32 (bits fun b => (s.zone.beam[b]).masked)
  else if 0x40 ≤ r ∧ r < 0x80 then s.zoneWord (Fin.ofNat 16 ((r - 0x40) / 4))
  else s.rd a

/-- FAB. -/
def readFab (s : State) (a r : Nat) : Word :=
  if r = 0x04 then
    packOn (s.rd a) 0xE [((s.tick / 64 % 64), 8), (b2n s.fab.swapPend, 0)]
  else if 0x140 ≤ r ∧ r < 0x180 then
    let k := (r - 0x140) / 4
    w32 (ofBytes ((List.range 4).map fun m => (vget? s.fab.live (4 * k + m)).getD 0))
  else s.rd a

/-- DDR. -/
def readDdr (s : State) (a r : Nat) : Word :=
  if r = 0 then packOn (s.rd a) 0xFFFF0003 [(b2n (s.rf R.DDR_CFG_LO 7 0 == 0), 2)] else s.rd a

/-- The code of a lane state (LANEn_STATUS). -/
def laneCode : LaneState → Nat
  | .off => 0 | .lock => 1 | .eq => 2 | .eqDone => 3 | .inPort => 4 | .failed => 5

/-- LANEn. -/
def readLane (s : State) (n : Lane) (a r : Nat) : Word :=
  let x := s.lane[n]
  if r = 0x04 then
    pack [(laneCode x.st, 28), (x.pos, 24), (x.portId, 16), (b2n (x.st == .inPort || 2 ≤ x.ams), 2), (b2n x.block, 1),
      (b2n x.signal, 0)]
  else if r = 0x08 then pack [(x.pre, 20), (x.main_, 14), (x.post, 10), (x.eye, 0)]
  else if r = 0x0C then packOn (s.rd a) 0xFF [(x.reqs, 8)]
  else if r = 0x18 then w32 x.skew
  else s.rd a

/-- The code of a port state (PORTp_STATUS). -/
def portCode : PortState → Nat
  | .off => 0 | .train => 1 | .align_ => 2 | .ident => 3 | .up => 4 | .down => 5

/-- PORT. -/
def readPort (s : State) (a r : Nat) : Word :=
  if r = 0 then w32 s.sample
  else if r = 4 then w32 (s.sample / 2 ^ 32 % 65536)
  else
    match vget? s.port ((r - 0x1000) / 0x100) with
    | none => 0
    | some x =>
      let o := r % 0x100
      if o = 0x04 then
        packOn (s.rd a) 0x1C [(portCode x.st, 28), (x.width, 24), (b2n x.degraded, 1), (b2n (s.cellF ((r - 0x1000) / 0x100)), 0)]
      else if o = 0x08 then pack [(x.rttMax, 16), (x.rtt, 0)]
      else if o = 0x18 then x.farId
      else if o = 0x1C then x.farProf
      else if o = 0x30 then packOn (s.rd a) 0xFF0000FF [(b2n ((x.cfg.map (!·.ident)).getD false), 23)]
      else s.rd a

/-- LD. -/
def readLd (s : State) (a r : Nat) : Word :=
  if r = 0x04 then
    packOn (s.rd a) 0xFF10 [(b2n (s.ldc.a != s.ldc.b), 3), (b2n s.ldc.latch, 2), (b2n s.ldc.b, 1), (b2n s.ldc.a, 0)]
  else if r = 0x08 then pack [(s.ldc.cause, 4), (b2n s.ldc.kill, 1)]
  else if r < 0x1000 then s.rd a
  else
    let b : Beam := Fin.ofNat 16 ((r - 0x1000) / 0x100)
    let x := s.ld[b]
    if r % 0x100 = 0x04 then
      packOn (s.rd a) 0x60 [(if s.pwmMode b then satN 4 (pwmBits (s.pwmPeriod b)) else 0, 16), (b2n (s.offCause b.val && s.ldOn b.val), 4),
        (b2n x.lastLost, 3), (b2n x.lastEmit, 2), (b2n (s.lgate b), 1), (b2n (s.portUp (16 + b.val)), 0)]
    else if r % 0x100 = 0x1C then packOn (s.rd a) 0xFF000033 [(satN 16 x.acc, 8)]
    else s.rd a

/-- CAL. -/
def readCal (s : State) (a r : Nat) : Word :=
  if r = 0x04 then
    packOn (s.rd a) 8 [(maskOf (((List.finRange 16).filter fun n => (s.cal.head[n]).recal).map (·.val)), 16),
      (b2n s.cal.running, 2), (b2n s.cal.refOk, 1), (b2n s.cal.waited, 0)]
  else if r = 0x0C then packOn (s.rd a) 0xFF00FFFF [(b2n s.calBusy, 23)]
  else if 0x100 ≤ r ∧ r < 0x180 then
    match vget? s.cal.pair ((r - 0x100) / 4) with
    | none => 0
    | some p =>
      pack [(b2n (s.rb R.CAL_DL_BAD ((r - 0x100) / 4)), 31), (b2n p.line, 30), (if p.line then p.inlB else p.inlA, 0)]
  else if 0x1000 ≤ r ∧ r < 0x2000 then
    let n : Beam := Fin.ofNat 16 ((r - 0x1000) / 0x100)
    let h := s.cal.head[n]
    let temp (k : Nat) : Nat :=
      match (s.headSlots n.val)[k]? with
      | some q => if s.setValid q then s.rdN (setBase q + 20) 2 else 0
      | none => 0
    let o := r % 0x100
    if o = 0x00 then
      packOn (s.rd a) 0x60 [(h.active, 20),
        (((s.headSlots n.val).zipIdx.map fun x => b2n (s.setValid x.1) x.2).sum, 16), (b2n h.promote, 4), (b2n h.stale, 3),
        (b2n (s.driftDue n), 2), (b2n h.recal, 1), (b2n (s.hasSet n), 0)]
    else if o = 0x04 then pack [((h.temp % 65536).toNat, 0)]
    else if o = 0x08 then pack [(temp 1, 16), (temp 0, 0)]
    else if o = 0x0C then pack [(temp 3, 16), (temp 2, 0)]
    else if o = 0x10 then
      let x := s.setsOf n
      pack [(x.2.1, 28), (x.1, 24), (x.2.2, 0)]
    else s.rd a
  else if 0x2000 ≤ r then
    let b : Beam := Fin.ofNat 16 ((r - 0x2000) / 0x200)
    let x := s.cal.src[b]
    if r % 0x200 = 4 then
      packOn (s.rd a) 8 [(((List.range 33).filter fun p => s.accHeld b p = 2).length, 8), (b2n x.expo.isSome, 2),
        (b2n x.valid, 0)]
    else s.rd a
  else s.rd a

/-- TWIN. -/
def readTwin (s : State) (a r : Nat) : Word :=
  let t := s.twin
  if r = 0x04 then
    packOn (s.rd a) 0xE0 [(t.role, 30), (t.pair, 28), (t.takeCause, 24), (t.took, 22), (b2n t.confirm, 8), (b2n t.timeOk, 4),
      (b2n s.takeReady, 3), (b2n (3 ≤ t.hbGood), 2), (b2n t.lead, 1)]
  else s.rd a

/-- A latch register of the hub. -/
def latchWord (x : Latch) (o : Nat) : Word :=
  if o = 0 then
    pack [(x.seq, 24), (x.id, 16), (x.unit, 10), (x.orig, 8), (b2n x.valid, 7), (b2n x.ovf, 6), (b2n x.esc, 5),
      (b2n x.forced, 4), (b2n x.dbl, 3), (x.state, 0)]
  else if o = 4 then x.frc
  else if o = 8 then x.jt
  else pack [(x.rep, 16), (x.detail, 0)]

/-- The quiet period left, in ms rounded up; the whole of it while a ladder step holds it (R428). -/
def quietLeft (s : State) : Nat :=
  if !s.dev.inBelay then 0
  else match s.quietEnd with
    | some t => cdiv (t - s.tick) 1000000
    | none => cdiv (s.quietNs s.hub.quietF) 1000000

/-- FLT. -/
def readFlt (s : State) (a r : Nat) : Word :=
  if r = 0x04 then
    packOn (s.rd a) 0x20 [(s.tallyRead, 12), (s.hub.stickyCause, 8), (b2n (s.dev.inBelay && s.hub.quietF), 4),
      (b2n ((s.quietEnd.map fun t => decide (s.tick < t)).getD false), 3), (b2n (!s.hub.ladder.isEmpty), 2),
      (b2n s.dev.sticky, 1), (b2n s.dev.inBelay, 0)]
  else if r = 0x1C then w32 (satN 16 s.quietLeft)
  else if 0x40 ≤ r ∧ r < 0x70 then
    match vget? s.hub.latch ((r - 0x40) / 0x10) with
    | some x => latchWord x (r % 0x10)
    | none => 0
  else s.rd a

/-- The words of the recorder area from its begin (R447). -/
def recWord (s : State) (o : Nat) : Word := s.rd32 (0x10800000 + o % 0x800000)

/-- REC. -/
def readRec (s : State) (a r : Nat) : Word :=
  let q := s.recd
  if r = 0x04 then
    packOn (s.rd a) 0x70 [(b2n q.frzSrc, 7), (b2n s.crcMode, 3), (b2n (!q.queue.isEmpty), 2), (b2n q.frozen, 1), (b2n q.cur.isSome, 0)]
  else if r = 0x08 then w32 q.head
  else if r = 0x0C then w32 q.tail
  else if r = 0x10 then pack [(b2n q.cairnFull, 31), (q.cairn, 0)]
  else if r = 0x14 then w32 q.pcc
  else if r = 0x18 then w32 (q.opMs / 1000)
  else if r = 0x1C then w32 (q.opMs % 1000)
  else if r = 0x24 then pack [(q.ovf, 20), (s.recHeld, 0)]
  else if r = 0x34 then s.recWord (s.rf R.REC_RD_OFS 22 0)
  else s.rd a

/-- PWR. -/
def readPwr (s : State) (a r : Nat) : Word :=
  if r = 0x04 then
    let p := s.pwr
    packOn (s.rd a) 0x800 [(b2n p.riseOver, 10), (b2n p.hotBelay, 9), (b2n p.hotHold, 8), (b2n p.hotWarn, 7),
      (b2n (p.bad.toList.any fun x => x != 0), 6), (b2n p.valid, 5), (b2n p.railOor, 3), (b2n s.dev.belowVstop, 2),
      (b2n s.dev.belowVwarn, 1)]
  else if 0x200 ≤ r then Config.pwrModel ((r - 0x200) / 4)
  else s.rd a

/-- ETH. -/
def readEth (s : State) (a r : Nat) : Word :=
  if r % 0x100 = 4 then w32 (((vget? s.time.eth (r / 0x100)).map (·.toNat)).getD 0) else s.rd a

/-- HOST. -/
def readHost (s : State) (a r : Nat) : Word :=
  if r = 0x00 then pack [(0xE200 + s.dev.variant, 16), (Config.vendorId.toNat, 0)]
  else if r = 0x04 then pack [(b2n s.host.linkUp, 8), (if s.host.linkUp then s.host.link else 0, 0)]
  else if r = 0x20C then w32 s.host.auxHead
  else s.rd a

/-- What the register at BAR0 offset `a` reads as. Reading changes nothing here: what a read does is its own command's. -/
def readReg (s : State) (a : Nat) : Word :=
  match blkOf a with
  | none => 0
  | some (b, i, r) =>
    if (rowAt a).isNone || !s.unitOn a then 0
    else
      match b with
      | .sys => s.readSys a r
      | .clk => s.readClk a r
      | .time => s.readTime a r
      | .job => s.rd a
      | .mbx => s.readMbx a r
      | .be => s.readBe (Fin.ofNat 16 i) a r
      | .pcu => s.readPcu (Fin.ofNat 16 i) a r
      | .le => s.readLe (Fin.ofNat 4 i) a r
      | .ax => s.readAx a r
      | .ldg => s.readLdg a r
      | .zone => s.readZone a r
      | .fab => s.readFab a r
      | .ddr => s.readDdr a r
      | .lane => s.readLane (Fin.ofNat 64 (r / 0x1000)) a (r % 0x1000)
      | .port => s.readPort a r
      | .ld => s.readLd a r
      | .cal => s.readCal a r
      | .twin => s.readTwin a r
      | .flt => s.readFlt a r
      | .rec_ => s.readRec a r
      | .pwr => s.readPwr a r
      | .eth => s.readEth a r
      | .host => s.readHost a r

end State

end Sys2Proof.Machine
end

