-- ==== Sys2Proof/Machine/Host.lean ====
section
/-! DEFINITION. The host interface (R466 to R475, R479, R481, R484 to R486, R489, R490, R492): DMA, BAR2, the mailbox, the
debug lock, and reads of registers. -/

namespace Sys2Proof.Machine

namespace State

/-! Device memory as the host reaches it (R4, R468). -/

/-- Host writes to the local SRAM of a beam engine are ignored (R169). -/
def sramBusy (s : State) (b : Nat) : Bool :=
  ((vget? s.be b).map (·.job.isSome)).getD false || s.dev.state == .run || s.dev.state == .hold

/-- What a device address is to the host. -/
inductive Region where
  /-- A region of a unit that the variant lacks (R4). -/
  | absent
  /-- Local SRAM of a beam engine. -/
  | beSram (b : Nat)
  /-- Local SRAM of a loop engine, slot l, offset within the slot. -/
  | leSram (k l o : Nat)
  /-- Table RAM, set slot q. -/
  | table (q : Nat)
  /-- Trace RAM and eye buffers. -/
  | buffer
  /-- The copies of the control block. -/
  | ctlBlock
  /-- The recorder areas. -/
  | recorder
  /-- The rest of the MRAM. -/
  | mramRest
  /-- Populated DDR5. -/
  | ddr
  /-- Anything else. -/
  | nothing
  deriving DecidableEq, Repr

/-- The region of a device address. -/
def region (s : State) (a : Nat) : Region :=
  if a < 0x800000 then if s.beamOn (a / 0x80000) then .beSram (a / 0x80000) else .absent
  else if 0x1000000 ≤ a ∧ a < 0x1100000 then
    let o := a - 0x1000000
    if s.leOn (o / 0x40000) then .leSram (o / 0x40000) (o % 0x40000 / 0x4000) (o % 0x4000) else .absent
  else if 0x2000000 ≤ a ∧ a < 0x3400000 then
    let q := (a - 0x2000000) / 0xA0000
    match s.slotHead q with
    | some n => if s.beamOn n then .table q else .absent
    | none => .absent
  else if 0x4000000 ≤ a ∧ a < 0x4400000 then if s.leOn ((a - 0x4000000) / 0x100000) then .buffer else .absent
  else if 0x5000000 ≤ a ∧ a < 0x5100000 then
    if s.beamOn ((a - 0x5000000) / 0x10000) && s.hasEye then .buffer else .absent
  else if 0x107FF000 ≤ a ∧ a < 0x107FF080 then .ctlBlock
  else if 0x10800000 ≤ a ∧ a < 0x11000000 then .recorder
  else if 0x10000000 ≤ a ∧ a < 0x11000000 then .mramRest
  else if 0x100000000 ≤ a ∧ a < s.ddrEnd then .ddr
  else .nothing

/-- A device address lies in the prefetch ring of a beam engine that a fetch has filled. -/
def ringed (s : State) (b : Beam) (a : Nat) : Bool := a % 0x80000 < 0x70000 && (s.be[b]).fetched

/-- A byte of a filled prefetch ring: what the host has put there since, else a free value, since the spec gives no layout;
while nothing refills the ring, that value stays. -/
def ringByte (b : Beam) (a : Nat) (s : State) : Byte × State :=
  match sget a (s.be[b]).ring with
  | some v => (v, s)
  | none =>
    let (x, t) := s.fresh
    let v := BitVec.ofNat 8 x.toNat
    (v, if s.sramBusy b.val then t else t.upBe b fun e => { e with ring := sput a v e.ring })

/-- A byte as the host reads it. The prefetch ring after a fetch is free, since the spec gives no layout; a byte of a control
block is an opaque function of what it holds, and free where its CRC is not good. -/
def hostByte (s : State) (a : Nat) : Byte × State :=
  match s.region a with
  | .beSram b => if s.ringed (Fin.ofNat 16 b) a then s.ringByte (Fin.ofNat 16 b) a else (s.rdByte a, s)
  | .leSram _ _ _ => (s.rdByte a, s)
  | .table _ => (s.rdByte a, s)
  | .buffer => (s.rdByte a, s)
  | .recorder => (s.rdByte a, s)
  | .ctlBlock =>
    match (if a < 0x107FF040 then s.mram.cbA else s.mram.cbB) with
    | some c => (Config.ctlByte [c.head, c.tail, c.fill, b2n c.full, c.pcc, c.warm, c.opMs, c.seq] (a % 64), s)
    | none =>
      let (x, s) := s.fresh
      (BitVec.ofNat 8 x.toNat, s)
  | .ddr => (s.rdByte a, s)
  | .absent => (0, s)
  | .mramRest => (0, s)
  | .nothing => (0, s)

/-- `n` bytes as the host reads them. -/
def hostBytes : Nat → Nat → State → List Byte × State
  | _, 0, s => ([], s)
  | a, n + 1, s =>
    let (v, s) := s.hostByte a
    let (l, s) := hostBytes (a + 1) n s
    (v :: l, s)

/-- A byte written by the host: table RAM clears VALID, or sets WR_REFUSED where the slot is locked (R339, R341). -/
def hostPut (a : Nat) (v : Byte) (s : State) : State :=
  match s.region a with
  | .beSram b =>
    if s.sramBusy b then s
    else if s.ringed (Fin.ofNat 16 b) a then s.upBe (Fin.ofNat 16 b) fun e => { e with ring := sput a v e.ring }
    else s.wrByte a v
  | .leSram _ _ o => if 0x2200 ≤ o ∧ o < 0x2400 then s.wrByte a v else s
  | .table q => if s.setLocked q then s.setB R.CAL_STATUS 3 else (s.wrByte a v).setValidity q false
  | .ddr => s.wrByte a v
  | _ => s

/-- The host reads the contents of this byte. -/
def hostReads (s : State) (a : Nat) : Bool :=
  match s.region a with
  | .absent => false
  | .mramRest => false
  | .nothing => false
  | _ => true

/-- The host's write of this byte is accepted. -/
def hostWrites (s : State) (a : Nat) : Bool :=
  match s.region a with
  | .beSram b => !s.sramBusy b
  | .leSram _ _ o => 0x2200 ≤ o && o < 0x2400
  | .table q => !s.setLocked q
  | .ddr => true
  | _ => false

/-- Bytes written by the host from an address on. -/
def hostPuts : Nat → List Byte → State → State
  | _, [], s => s
  | a, v :: l, s => hostPuts (a + 1) l (s.hostPut a v)

/-! Registers as a path reads them (R4, R477, R483, R489). -/

/-- A path reaches the block of a BAR0 offset: before IDLE only SYS, FLT, REC and PWR, from 20 ms after the entry to BOOT
over PCIe and from 2 ms over I2C, which reaches no other block; the TAP reaches none. -/
def pathOpen (s : State) (p : Path) (a : Nat) : Bool :=
  let four := a / 0x10000 == 0 || a / 0x10000 == 0x52 || a / 0x10000 == 0x53 || a / 0x10000 == 0x54
  s.dev.state != .reset && a % 4 == 0 &&
    (match p with
      | .pcie => s.dev.booted || (four && 20000000 ≤ s.tick)
      | .i2c => four && (s.dev.booted || 2000000 ≤ s.tick)
      | .tap => false)

/-- The pairs of read-only registers named _LO and _HI: the offset of the HI register of a LO register. -/
def loPair (a : Nat) : Option Nat :=
  match blkOf a with
  | none => none
  | some (b, _, r) =>
    let is : Bool :=
      match b with
      | .sys => r == 0x18
      | .job =>
        0x1000 ≤ r && (let o := r % 0x400
                       o == 0x10 || o == 0x20 || (0x100 ≤ o && o < 0x200 && o % 0x10 == 0))
      | .be => r == 0x08
      | .pcu => r == 0x18
      | .ldg => r == 0x70
      | .port => r == 0
      | .ddr => r == 4
      | .twin => r == 0x18 || r == 0x30 || r == 0x38 || r == 0x40
      | .pwr => r == 0x28
      | _ => false
    if is then some (a + 4) else none

/-- The word that a register read without side effect completes with, and the latches that are left (R489). -/
def latchRead (p : Path) (a : Nat) (s : State) : State :=
  let put (v : Word) (l : List (Path × Nat × Word)) : State := s.upHost fun h => { h with rdData := v, latched := l }
  let others (hi : Nat) : List (Path × Nat × Word) := s.host.latched.filter fun x => !(x.1 == p && x.2.1 == hi)
  match loPair a with
  | some hi => put (s.readReg a) ((p, hi, s.readReg hi) :: others hi)
  | none =>
    match s.host.latched.find? fun x => x.1 == p && x.2.1 == a with
    | some x => put x.2.2 (others a)
    | none => put (s.readReg a) s.host.latched

/-! The mailbox (R472 to R475). -/

/-- The words of a command that the host places: MBX_ARGi and MBX_CMD. -/
def mbxPlace (tag code : Nat) (payload : List Byte) (s : State) : State :=
  let s := s.each (List.range 16) fun i t =>
    if 4 * i < payload.length then t.wr (R.MBX_ARGi i) (w32 (ofBytes ((payload.drop (4 * i)).take 4))) else t
  s.wr R.MBX_CMD (w32 (tag * 65536 + payload.length * 256 + code))

/-- A result is posted: STATUS.CODE, DUP, MBX_RTAG, the result words and SEQ, with the interrupt of MBX_IRQ_EN (R472). -/
def mbxPost (tag code : Nat) (dup : Bool) (res : List Word) (s : State) : State :=
  let s := (((s.advance R.MBX_STATUS 31 24).setF R.MBX_STATUS 22 22 (b2n dup)).setF R.MBX_STATUS 7 0 code).wr R.MBX_RTAG (w32 tag)
  let s := s.each res.zipIdx fun x t => t.wr (R.MBX_RESi x.2) x.1
  s.ifc (s.rb R.MBX_IRQ_EN 0) (msix 2)

/-- A command that ran or was refused completes: it is posted and takes the place of the oldest entry (R473). -/
def mbxDone (tag : Nat) (dig : Word) (cmd code : Nat) (res : List Word) (s : State) : State :=
  (s.mbxPost tag code false res).upHost fun h =>
    { h with hist := (⟨tag, dig, cmd, code, res⟩ :: h.hist).take 32 }

/-- The job command of a JOB or HOLD, through JOB_CTL; a SUBMIT writes the descriptor address first, under R144 (R475). -/
def mbxJobIssue (x : MbxRun) (s : State) : State :=
  let n : Slot := Fin.ofNat 4 x.slot
  let s := s.ifc (x.cmd = 0x10) fun t => t.setF R.JOB_CTL 5 4 n.val
  let s := if x.cmd = 0x10 ∧ x.op = 1 ∧ (s.js n).st = .empty then
      (s.wr (R.JOB_SLOTn_DADDR_LO n.val) (w32 x.daddr)).wr (R.JOB_SLOTn_DADDR_HI n.val) (w32 (x.daddr / 2 ^ 32))
    else s
  if x.cmd = 0x11 then s.jobIssue 0 (Fin.ofNat 4 (s.rf R.JOB_CTL 5 4))
  else if x.op = 0 then s
  else s.jobIssue x.op n

/-- A JOB or HOLD of the mailbox completes with a JOB_RESULT (R475). -/
def mbxFinish (x : MbxRun) (r : Word) (s : State) : State :=
  (s.upHost fun h => { h with mbx := none }).mbxDone x.tag x.digest x.cmd 0 [r, s.rd R.JOB_RESULT_FRC]

/-- A JOB or HOLD of the mailbox goes on: it waits for JOB_RESULT.BUSY, is issued, and completes with its result (R475). A
HOLD that was accepted completes on the next tick, since an ABORT of this one comes before it (R168). -/
def mbxGo : State → State := shp fun s =>
  match s.host.mbx with
  | none => s
  | some x =>
    if s.rb R.JOB_RESULT 23 then s
    else if x.issued then
      s.mbxFinish x (match x.held with
        | some w => if s.rf R.JOB_RESULT 19 16 = 0 then s.rd R.JOB_RESULT else w
        | none => s.rd R.JOB_RESULT)
    else
      let put (h : Option Word) (s : State) : State := s.upHost fun q => { q with mbx := some { x with issued := true, held := h } }
      let s := (put none s).mbxJobIssue x
      let r := s.rd R.JOB_RESULT
      if s.rb R.JOB_RESULT 23 then s
      else if x.cmd = 0x11 ∧ fld r 7 0 = 0 then put (some r) s
      else s.mbxFinish x r

/-- The payload length of a command; none for an undefined CODE (R474). -/
def mbxLen (code : Nat) : Option Nat :=
  if code = 0x01 then some 0 else if code = 0x10 then some 12 else if code = 0x11 then some 0
  else if code = 0x20 then some 12 else if code = 0x30 then some 0 else if code = 0x31 then some 8
  else if code = 0x40 then some 0 else if code = 0x41 then some 8 else none

/-- A patch image is staged where it passes R478 and its level reaches SYS_PATCH.LEVEL: the result code (R479). -/
def patchStage (addr len : Nat) (s : State) : State × Nat :=
  if 1048480 < len then (s, 2)
  else
    let img := s.rdBytes addr len
    let c := patchCheck img s.mram.patch
    if c = 0 then (s.upMram fun m => { m with pend := ofBytes ((img.drop 8).take 4), pendImg := img }, 0) else (s, c)

/-- The token at an address unlocks debug access (R485). -/
def tokenGood (s : State) (addr : Nat) : Bool :=
  match s.host.nonce with
  | none => false
  | some n =>
    let t := s.rdBytes addr 120
    s.inDdr addr 120 && ofBytes (t.take 8) == Config.uid.toNat && ofBytes ((t.drop 8).take 8) == n.toNat &&
      ofBytes ((t.drop 16).take 8) == 0 && Config.debugSigOk (t.take 24) (t.drop 24)

/-- The commands PATCH_STAGE, BOOT_CFG_SAVE, DDR_CFG_SAVE, DEBUG_NONCE and DEBUG_TOKEN, once accepted (R479 to R483). -/
def mbxServe (tag : Nat) (dig : Word) (code : Nat) (p : List Byte) (s : State) : State :=
  let f (o n : Nat) : Nat := ofBytes ((p.drop o).take n)
  let done (res : List Word) (s : State) : State := s.mbxDone tag dig code 0 res
  if code = 0x20 then
    let (t, c) := s.patchStage (f 0 8) (f 8 4)
    done [w32 c] t
  else if code = 0x30 then
    let l := (List.range 35).filter s.portOn
    done [w32 l.length] (s.upMram fun m => { m with ports := l.map fun q => (q, portKept (s.rd (R.PORTp_CTL q))) })
  else if code = 0x31 then
    let cfg := BitVec.ofNat 64 (f 0 8)
    let c := s.ddrCap cfg
    done [w32 c] (if c = 0 then s else s.upMram fun m => { m with ddrCfg := some cfg })
  else if code = 0x40 then
    let (x, t) := s.fresh
    done [w32 x.toNat, w32 (x.toNat / 2 ^ 32)] (t.upHost fun h => { h with nonce := some x })
  else if s.tokenGood (f 0 8) then done [0] (s.upHost fun h => { h with dbgOpen := true })
  else done [1] (s.upHost fun h => { h with nonce := none })

/-- A command runs, or is refused with BAD_CMD, BAD_LEN or LOCKED (R474). -/
def mbxRun (tag : Nat) (dig : Word) (code : Nat) (p : List Byte) (s : State) : State :=
  let f (o n : Nat) : Nat := ofBytes ((p.drop o).take n)
  let done (res : List Word) (s : State) : State := s.mbxDone tag dig code 0 res
  let refuse (c : Nat) : State := s.mbxDone tag dig code c []
  match mbxLen code with
  | none => refuse 1
  | some n =>
    if n ≠ p.length then refuse 2
    else if (code = 0x20 ∧ s.dev.state = .boot) ∨ ((code = 0x40 ∨ code = 0x41) ∧ s.dev.lock) then refuse 5
    else if code = 0x01 then done [Config.romVersion, w32 s.mram.patch, s.readReg R.SYS_ID] s
    else if code = 0x10 ∨ code = 0x11 then
      (s.upHost fun h =>
        { h with mbx := some { tag := tag, digest := dig, cmd := code, op := f 0 1 % 16, slot := f 1 1 % 4, daddr := f 4 8
                               issued := false, held := none } }).mbxGo
    else s.mbxServe tag dig code p

/-- The doorbell (R472, R473). -/
def mbxRing : State → State := shp fun s =>
  if s.host.mbx.isSome then s.setB R.MBX_STATUS 21
  else
    let w := s.rd R.MBX_CMD
    let tag := fld w 31 16
    let code := fld w 7 0
    let len := fld w 14 8
    let p := ((List.range 16).flatMap fun i => toBytes 4 (s.rd (R.MBX_ARGi i)).toNat) ++ List.replicate 63 0
    let p := p.take len
    let dig := crc32 ([BitVec.ofNat 8 code, BitVec.ofNat 8 len] ++ p)
    if tag = 0 then s.mbxPost 0 3 false []
    else
      match s.host.hist.find? fun h => h.tag == tag with
      | some h => if h.digest = dig then s.mbxPost tag h.code true h.res else s.mbxPost tag 4 false []
      | none => s.mbxRun tag dig code p

/-- The host places a command and rings the doorbell. -/
def mbxSend (tag : BitVec 16) (code : Nat) (payload : List Byte) (s : State) : State :=
  (s.mbxPlace tag.toNat code payload).mbxRing

/-! DMA (R470). -/

/-- A channel's transfer ends: the STATUS bits, BUSY cleared, and the assigned vector where IRQ is 1 (R469, R470). -/
def dmaEnd (c : Fin 4) (code : Nat) (refused : Bool) (s : State) : State :=
  let a := R.HOST_DMAc_STATUS c.val
  let s := s.upHost fun h => { h with dma := vupd h.dma c fun _ => none }
  let s := ((s.clrB a 0).ifc refused (setB a 3)).setF a 11 8 code
  let s := if code = 0 then s.setB a 1 else s.setB a 2
  s.ifc (s.rb (R.HOST_DMAc_CTL c.val) 1) (assigned (c.val + 1))

end State

/-- DMA_GO: a channel that is not BUSY starts on what its registers hold (R470, R490). -/
def execDmaGo (c : Fin 4) (s : State) : Res :=
  let n := c.val
  if (s.host.dma[c]).isSome then .next s
  else
    let x : DmaRun :=
      { haddr := (s.rd (R.HOST_DMAc_HADDR_LO n)).toNat + (s.rd (R.HOST_DMAc_HADDR_HI n)).toNat * 2 ^ 32
        daddr := (s.rd (R.HOST_DMAc_DADDR_LO n)).toNat + (s.rd (R.HOST_DMAc_DADDR_HI n)).toNat * 2 ^ 32
        len := s.rf (R.HOST_DMAc_LEN n) 24 0
        toHost := s.rb (R.HOST_DMAc_CTL n) 0 }
    .next (((s.setB (R.HOST_DMAc_STATUS n) 0).setF (R.HOST_DMAc_STATUS n) 11 8 0).upHost fun h =>
      { h with dma := vupd h.dma c fun _ => some x })

/-- DMA_DONE: a transfer ends. Its bytes move here: all LEN of them, or as many as `host` holds where an error stops it
(R470, R482). From the host they are the bytes of `host`. -/
def execDmaDone (c : Fin 4) (e : XferEnd) (host : List Byte) (s : State) : Res :=
  match s.host.dma[c] with
  | none => .next s
  | some x =>
    let ok : Bool := e == .ok || e == .corrected
    let n := if ok then x.len else min host.length x.len
    let s := match e with
      | .corrected => s.count R.DDR_ECC 15 0
      | .uncorrectable => s.count R.DDR_ECC 31 16
      | _ => s
    let code := match e with
      | .pcieError => 1
      | .uncorrectable => 2
      | _ => 0
    let addrs := (List.range n).map (x.daddr + ·)
    if x.toHost then
      let refused := addrs.any fun a => !s.hostReads a
      let (l, s) := State.hostBytes x.daddr n s
      .next ((s.upHost fun h => { h with toHost := (x.haddr, l) :: h.toHost }).dmaEnd c code refused)
    else
      let refused := addrs.any fun a => !s.hostWrites a
      .next ((s.hostPuts x.daddr (host.take n)).dmaEnd c code refused)

/-- AUX_ENABLE: a write of HOST_AUX_CTL.EN; from 0 to 1 it sets HEAD and TAIL to 0 (R471). -/
def execAuxEnable (v : Bool) (s : State) : Res :=
  let t := s.wr R.HOST_AUX_CTL (w32 (b2n v))
  .next (if v && !s.rb R.HOST_AUX_CTL 0 then (t.wr R.HOST_AUX_TAIL 0).upHost fun h => { h with auxHead := 0 } else t)

/-- HOST_WIN_LO_WRITE: the window moves, with HOST_WIN_HI as last written (R490). -/
def execHostWinLoWrite (v : Word) (s : State) : Res :=
  let t := s.wr R.HOST_WIN_LO (v &&& 0xFFF00000#32)
  .next (t.upHost fun h =>
    { h with win := (t.rd R.HOST_WIN_LO).toNat + (t.rd R.HOST_WIN_HI).toNat * 2 ^ 32 })

/-- FLR, and PCIE_PERST_N: the registers of R492 are reset, and nothing else. -/
def execFlr (s : State) : Res :=
  let s := s.each [R.HOST_WIN_LO, R.HOST_WIN_HI, R.HOST_VEC0, R.HOST_VEC1, R.HOST_AUX_CTL, R.MBX_IRQ_EN] fun a t => t.wr a 0
  let s := s.each (List.range 4) fun c t => t.each (List.range 7) fun i u => u.wr (R.HOST_DMAc_HADDR_LO c + 4 * i) 0
  .next ((s.count R.HOST_STATUS 31 16).upHost fun h =>
    { h with win := 0, dma := Vector.replicate 4 none, msix := 0, table := [] })

/-- INFO (R474). -/
def execInfo (tag : BitVec 16) (s : State) : Res := .next (s.mbxSend tag 0x01 [])

/-- JOB of the mailbox (R474, R475). -/
def execMbxJob (tag : BitVec 16) (op slot : Byte) (daddr : BitVec 64) (s : State) : Res :=
  .next (s.mbxSend tag 0x10 ([op, slot, 0, 0] ++ toBytes 8 daddr.toNat))

/-- HOLD of the mailbox (R474, R475). -/
def execMbxHold (tag : BitVec 16) (s : State) : Res := .next (s.mbxSend tag 0x11 [])

/-- PATCH_LOAD (R479). -/
def execPatchLoad (tag : BitVec 16) (addr : BitVec 64) (len : Word) (s : State) : Res :=
  .next (s.mbxSend tag 0x20 (toBytes 8 addr.toNat ++ toBytes 4 len.toNat))

/-- BOOT_CFG_SAVE (R474). -/
def execBootCfgSave (tag : BitVec 16) (s : State) : Res := .next (s.mbxSend tag 0x30 [])

/-- DDR_CFG_SAVE (R481). -/
def execDdrCfgSave (tag : BitVec 16) (cfg : BitVec 64) (s : State) : Res :=
  .next (s.mbxSend tag 0x31 (toBytes 8 cfg.toNat))

/-- DBG_CHALLENGE (R485). -/
def execDbgChallenge (tag : BitVec 16) (s : State) : Res := .next (s.mbxSend tag 0x40 [])

/-- DBG_UNLOCK (R485). -/
def execDbgUnlock (tag : BitVec 16) (addr : BitVec 64) (s : State) : Res :=
  .next (s.mbxSend tag 0x41 (toBytes 8 addr.toNat))

/-- SYS_LOCK (R486). -/
def execSysLock (s : State) : Res := .next (s.upDev fun d => { d with lock := true })

/-- TAP_INSTRUCTION: one that takes the pins acts only in RESET and BOOT, and as BYPASS otherwise; IDCODE reads its
constant (R484). -/
def execTapInstruction (i : TapInstr) (s : State) : Res :=
  let code : TapInstr → Nat
    | .bypass => 0 | .idcode => 1 | .sample => 2 | .extest => 3 | .extestPulse => 4 | .extestTrain => 5 | .clamp => 6
    | .highz => 7
  let n := code i
  let n := if 3 ≤ n ∧ s.dev.state ≠ .reset ∧ s.dev.state ≠ .boot then 0 else n
  .next (s.upHost fun h => { h with tap := n, rdData := if n = 1 then 0xCE2A0B5F#32 else h.rdData })

/-- LO_READ_LATCH: a register is read over a path. A LO register latches its HI word for the path, which the next read of
the HI register returns; the registers whose read pops an entry do so (R65, R188, R447, R489). -/
def execLoReadLatch (path : Path) (addr : BitVec 24) (s : State) : Res :=
  let a := addr.toNat
  if !s.pathOpen path a then .next (s.upHost fun h => { h with rdData := 0 })
  else if !s.unitOn a then .next (s.latchRead path a)
  else
    match blkOf a with
    | some (.be, b, 0x6C) => execBeEvPop (Fin.ofNat 16 b) s
    | some (.rec_, _, 0x34) => execRecRdData path s
    | some (.time, _, r) =>
      if 0x600 ≤ r ∧ r < 0x700 ∧ r % 0x20 = 8 then execTcRawPop (Fin.ofNat 8 ((r - 0x600) / 0x20)) s
      else .next (s.latchRead path a)
    | _ => .next (s.latchRead path a)

/-- BAR2_ACCESS: an aligned word of device memory through the window (R468). An access that touches no region sets
WIN_ERR. In RESET no access arrives. -/
def execBar2Access (write : Bool) (ofs : BitVec 28) (data : Word) (be : BitVec 4) (s : State) : Res :=
  let a := s.host.win + ofs.toNat / 4 * 4
  if s.dev.state = .reset then .next s
  else
    let s := if s.region a = .nothing then s.setB R.HOST_STATUS 0 else s
    if write then
      .next (s.each (onesOf 4 be.toNat) fun i t => t.hostPut (a + i) (BitVec.ofNat 8 (data.toNat / 2 ^ (8 * i))))
    else
      let (l, s) := State.hostBytes a 4 s
      .next (s.upHost fun h => { h with rdData := w32 (ofBytes l) })

end Sys2Proof.Machine
end

