-- ==== Sys2Proof/Machine/RegWrite.lean ====
section
/-! DEFINITION. Writes of registers by their access type (R11, R12), with what each block's chapter gives a write: the
action of a W1T field, a saturation, or a refusal. -/

namespace Sys2Proof.Machine

namespace State

/-- The state that a meaning answers. -/
def run (f : State → Res) (s : State) : State :=
  match f s with
  | .next t => t
  | _ => s

/-- A write by access type alone: RW bits take the value, W1C bits written 1 clear (R11, R12). -/
def store (a : Nat) (v : Word) (s : State) : State :=
  match rowAt a with
  | none => s
  | some w => s.wmod a fun x => ((x &&& ~~~(w32 w.rw)) ||| (v &&& w32 w.rw)) &&& ~~~(v &&& w32 w.w1c)

/-- A slot is ANALYSING, ACCEPTED, ARMED, RUNNING or HOLDING, which holds the writes that R256, R263 and R464 refuse. -/
def cfgHeld (s : State) : Bool := !s.slotsQuiet

/-- A slot field of a register. -/
def slotOf (v : Word) : Slot := Fin.ofNat 4 (fld v 5 4)

/-- SYS. -/
def writeSys (a r : Nat) (v : Word) (s : State) : State :=
  if r = 0x04 then s.ifc (bit v 0) (run execSysLock)
  else if r = 0x24 then
    if !s.hub.ladder.isEmpty then s
    else
      (s.store a v).ifc (bit v 31)
        (run (execLadderRequest (Fin.ofNat 16 (fld v 11 8)) (Fin.ofNat 64 (fld v 21 16)) (Fin.ofNat 8 (fld v 2 0))))
  else if r = 0x28 then s.run (execLadderKey (BitVec.ofNat 16 v.toNat))
  else if r = 0x34 then s.store a (w32 (clampN 10 1000 (fld v 9 0)))
  else s.store a v

/-- TIME. -/
def writeTime (a r : Nat) (v : Word) (s : State) : State :=
  let d : Dom := if r < 0x200 then .a else .b
  if r = 0 then
    (((s.setF a 2 2 (fld v 2 2)).run (execBellwetherWrite (bit v 0)))).ifc (bit v 8) (run execTimeSnap)
  else if r = 0x100 ∨ r = 0x200 then s.run (execTimeOfsWrite d v)
  else if r = 0x108 ∨ r = 0x208 then s.run (execTimeRateWrite d v)
  else if r = 0x110 ∨ r = 0x210 then s.run (execTimeStepWrite d v)
  else if r = 0x114 ∨ r = 0x214 then s.run (execTimeServoWrite d v)
  else if 0x400 ≤ r ∧ r < 0x500 ∧ r % 0x20 = 0 then
    (s.store a v).ifc (bit v 8) (run (execTpArm (Fin.ofNat 8 ((r - 0x400) / 0x20))))
  else if 0x600 ≤ r ∧ r < 0x700 ∧ r % 0x20 = 0 then
    let t := s.store a v
    t.ifc (bit v 6 && !(t.time.tc[(Fin.ofNat 8 ((r - 0x600) / 0x20) : Fin 8)]).isEmpty) (msix 4)
  else if r = 0x800 then (s.ifc (bit v 0) (run execRtcSet)).ifc (bit v 1) (run execRtcSnap)
  else s.store a v

/-- JOB. JOB_CTL is ignored while BUSY; OP with HOLD in one write is BAD_OP (R141 to R144). -/
def writeJob (a r : Nat) (v : Word) (s : State) : State :=
  if r = 0 then
    if s.rb R.JOB_RESULT 23 then s
    else
      let s := s.setF a 5 4 (fld v 5 4)
      let op := fld v 11 8
      if bit v 0 then
        if op = 0 then s.jobIssue 0 (slotOf v)
        else if s.twin.role = 2 ∧ (s.twin.pair = 1 ∨ s.twin.pair = 2) then s.setB R.TWIN_STATUS 5
        else (s.wr R.JOB_RESULT_FRC s.frc).jobPost op (slotOf v).val 0x0A
      else if op = 0 then s
      else s.jobIssue op (slotOf v)
  else if 0x1000 ≤ r ∧ (r % 0x400 = 0x08 ∨ r % 0x400 = 0x0C) then
    if (s.js (Fin.ofNat 4 ((r - 0x1000) / 0x400))).st = .empty then s.store a v else s
  else s.store a v

/-- BEn. -/
def writeBe (b : Beam) (a r : Nat) (v : Word) (s : State) : State :=
  if r = 0 then ((s.store a v).ifc (bit v 9) (run (execBeCntClr b))).ifc (bit v 2) (run (execEvClr b)) else s.store a v

/-- PCUn and its eye. -/
def writePcu (b : Beam) (a r : Nat) (v : Word) (s : State) : State :=
  let t := s.store a v
  if r = 0 then t.ifc (bit v 8) (run (execPcuCntClr b))
  else if r = 0x140 then t.ifc (bit v 0) (run (execPcuCapArm b))
  else t

/-- LEk. The five configuration words of a slot change only while it is OFF or LOADED (R302). -/
def writeLe (k : Engine) (a r : Nat) (v : Word) (s : State) : State :=
  if r = 0 then (s.store a v).ifc (bit v 1) (run (execLeCntClr k))
  else if r = 0x08 then
    let l : LSlot := Fin.ofNat 16 (fld v 19 16)
    let t := s.store a v
    match fld v 3 0 with
    | 0 => t
    | 1 => t.run (execLoad k l)
    | 2 => t.run (execEnable k l)
    | 3 => t.run (execDisable k l)
    | 4 => t.run (execCoefSwap k l)
    | _ => t.leResult k l 7 0
  else if r = 0x100 then ((s.store a v).ifc (bit v 0) (run (execTrArm k))).ifc (bit v 1) (run (execTrTrig k))
  else if 0x1000 ≤ r ∧ r % 0x100 ≠ 0x04 then
    let l : LSlot := Fin.ofNat 16 ((r - 0x1000) / 0x100)
    let st := (s.ls k l).st
    if st = .off ∨ st = .loaded then s.store a v
    else if (((rowAt a).map (·.rw)).getD 0) = 0 then s
    else s.setB (R.LEk_SLOTl_STATUS k.val l.val) 7
  else s.store a v

/-- AX. AXn_CFG is written with the axis at rest and not in use; AXn_VMAX of a STEP axis is saturated (R317), and
speeds and accelerations are to their fields (R13). -/
def writeAx (a r : Nat) (v : Word) (s : State) : State :=
  if r < 0x1000 then s.store a v
  else
    let n : Axis := Fin.ofNat 16 ((r - 0x1000) / 0x100)
    let o := r % 0x100
    if o = 0 then
      let st := (s.ax[n]).st
      if s.axInUse n ∨ st = .moving ∨ st = .stopping ∨ st = .homing then s
      else
        let t := s.store a v
        let turned := s.dirLevel n != t.dirLevel n
        (t.vmaxFit n).upAx n fun x =>
          { x with st := if x.st = .fault then .fault else t.axRest n, dirAt := if turned then s.tick else x.dirAt }
    else if o = 0x10 then (s.store a (w32 (min v.toNat 0x7FFFFFFF))).vmaxFit n
    else if o = 0x14 ∨ o = 0x18 then s.store a (w32 (min v.toNat 0x7FFFFFFF))
    else if o = 0x24 then (s.store a v).vmaxFit n
    else if o = 0x40 then
      match fld v 3 0 with
      | 0 => s
      | 1 => s.run (execAxAppend n)
      | 2 => s.run (execAxReplace n)
      | 3 => s.run (execAxStop n)
      | 4 => s.run (execAxResume n)
      | 5 => s.run (execAxHome n)
      | 6 => s.run (execSetPos n)
      | 7 => s.run (execEl1Move n)
      | 8 => s.run (execEl1Set n)
      | 9 => s.run (execAxClear n)
      | _ => s.axResult n 9
    else s.store a v

/-- LDG. One operation to a write of LDG_CTL; LDG_RISE holds while a slot uses it (R253, R256). -/
def writeLdg (a r : Nat) (v : Word) (s : State) : State :=
  if r = 0 then
    if s.ldg.op ≠ 0 then s.setB R.LDG_STATUS 5
    else
      let t := s.ifc (bit v 5) (run execLdgCntClr)
      match fld v 4 1 with
      | 0 => t
      | 1 => t.run execLdgFlush
      | 2 => t.run execLdgClear
      | 4 => t.run execLdgApply
      | 8 => t.run execLdgImport
      | _ => t.setB R.LDG_STATUS 5
  else if r = 0x20 then if s.cfgHeld then s.setB R.LDG_STATUS 5 else s.store a v
  else if r = 0x68 then s.ifc (bit v 0) (run execLdgQryGo)
  else s.store a v

/-- ZONE. SEP, LEE and QUOTA hold while a slot uses them (R263). -/
def writeZone (a r : Nat) (v : Word) (s : State) : State :=
  if r = 0 then s.ifc (bit v 0) (run execZoneCntClr)
  else if 0x08 ≤ r ∧ r ≤ 0x10 then if s.cfgHeld then s.setB R.ZONE_STATUS 2 else s.store a v
  else s.store a v

/-- FAB. -/
def writeFab (a r : Nat) (v : Word) (s : State) : State :=
  if r = 0 then (s.ifc (bit v 1) (run execFabCntClr)).ifc (bit v 0) (run execSwap)
  else if r = 0x0C ∨ r = 0x10 then (s.store a v).fabRebase
  else if 0x100 ≤ r ∧ r < 0x140 then s.shadowKeep.store a v
  else s.store a v

/-- LANEn. -/
def writeLane (n : Lane) (a r : Nat) (v : Word) (s : State) : State :=
  if r = 0 then (s.store a v).ifc (bit v 2) (run (execLaneCntClr n)) else s.store a v

/-- PORTp_CTL: RATE, DEGRADE_EN and EN hold, and RETRAIN is refused, while a job in progress names the port. -/
def writePortCtl (p : Port) (a : Nat) (v : Word) (s : State) : State :=
  let was := s.rd a
  let held := s.portNamed p JobSlot.busy
  let lock : Word := 0x00030021#32
  let diff := (was ^^^ v) &&& lock != 0
  let v' := if held then (v &&& ~~~lock) ||| (was &&& lock) else v
  let t := ((s.store a v').ifc (held && diff) (setB (R.PORTp_STATUS p.val) 4)).ifc (bit v 7) (run (execPortCntClr p))
  let t :=
    if bit v' 0 && !bit was 0 then (if (t.port[p]).st = .off then t.portTrain p false else t)
    else if bit was 0 && !bit v' 0 && !t.portEn p.val then t.portOff p
    else t
  t.ifc (bit v 1) (run (execRetrain p))

/-- PORT. -/
def writePort (a r : Nat) (v : Word) (s : State) : State :=
  if r < 0x1000 then s
  else
    let p : Port := Fin.ofNat 35 ((r - 0x1000) / 0x100)
    let o := r % 0x100
    if o = 0 then s.writePortCtl p a v
    else if o = 0x2C then
      if ((s.port[p]).cfg.map (!·.ident)).getD false then s
      else
        let t := s.store a v
        if fld v 1 0 = 1 then t.run (execCfgRead p) else if fld v 1 0 = 2 then t.run (execCfgWrite p) else t
    else s.store a v

/-- LD. -/
def writeLd (a r : Nat) (v : Word) (s : State) : State :=
  if r = 0 then (s.store a v).ifc (bit v 0) (run execRearm)
  else if r = 0x08 then s.ifc (bit v 0) (run execKillForce)
  else if r = 0x0C then s.store a (setFld v 15 0 (clampN 1000 65535 (fld v 15 0)))
  else if r < 0x1000 then s.store a v
  else
    let b : Beam := Fin.ofNat 16 ((r - 0x1000) / 0x100)
    let o := r % 0x100
    if o = 0 then
      let was := s.rd a
      let t := s.store a ((v &&& ~~~0x1001#32) ||| (was &&& 0x1001#32))
      ((t.ifc (bit v 16) (run (execLdCntClr b))).run (execLdEnable b (bit v 0))).run (execEmitOffWrite b (bit v 12))
    else if o = 0x10 then
      s.store a (setFld (setFld v 31 16 (clampN 10 65535 (fld v 31 16))) 15 0 (clampN 100 65535 (fld v 15 0)))
    else s.store a v

/-- CAL. -/
def writeCal (a r : Nat) (v : Word) (s : State) : State :=
  if r = 0 then (s.store a v).ifc (bit v 8) (run execCalCntClr)
  else if r = 0x08 then
    if s.calBusy then s
    else
      let t := s.store a v
      let arg := BitVec.ofNat 16 (fld v 31 16)
      match fld v 3 0 with
      | 1 => t.run execDlRun
      | 2 => t.run (execValidate arg)
      | 3 => t.run (execInvalidate arg)
      | 4 => t.run (execPromote arg)
      | 5 => t.run (execDrift arg)
      | 6 => t.run (execPcalPoint arg)
      | 7 => t.run (execPcalEnter arg)
      | 8 => t.run (execPcalCommit arg)
      | 9 => t.run (execPcalClear arg)
      | _ => t.calResult 11 0
  else if r = 0x18 then s.store a (w32 (clampN 100 65535 (fld v 15 0)))
  else if r = 0x28 then (s.store a v).each ((List.finRange 16).filter fun b => s.beamOn b.val) State.recalUpdate
  else s.store a v

/-- TWIN. -/
def writeTwin (a r : Nat) (v : Word) (s : State) : State :=
  if r = 0 then
    (s.setF a 2 2 (fld v 2 2)).run (execRoleCfgWrite (Fin.ofNat 4 (fld v 1 0)))
  else if r = 0x08 then
    if s.rb R.TWIN_RESULT 23 then s
    else
      match fld v 3 0 with
      | 0 => s
      | 1 => s.run execRopeUp
      | 2 => s.run execHandover
      | 3 => s.run execConfirmSolo
      | 4 => s.run execReleaseLead
      | _ => s.twinPost 7
  else if r = 0x10 then
    s.store a (w32 (clampN 5 255 (fld v 23 16) * 65536 + clampN 10 1000 (fld v 15 0)))
  else if r = 0x14 then s.store a (w32 (clampN 1000 3000 (fld v 11 0)))
  else s.store a v

/-- FLT. FORCE_EN is the RWL field (R486, R493). -/
def writeFlt (a r : Nat) (v : Word) (s : State) : State :=
  if r = 0 then
    (s.store a (if s.dev.lock then setFld v 4 4 (s.rf a 4 4) else v)).ifc (bit v 8) (run execFltCntClr)
  else if r = 0x14 then
    if bit v 31 then s.run (execFltAck (Fin.ofNat 4 (fld v 1 0)) (BitVec.ofNat 8 (fld v 15 8))) else s.store a v
  else if 0x80 ≤ r ∧ r < 0xA0 then s.run (execFltForce (Fin.ofNat 8 ((r - 0x80) / 4)) v)
  else s.store a v

/-- REC. A clear in the same write goes before the freeze. -/
def writeRec (p : Path) (a r : Nat) (v : Word) (s : State) : State :=
  if r = 0 then
    (((s.ifc (bit v 4) (run execRecCntClr)).ifc (bit v 2) (run (execClrRing p))).ifc (bit v 3) (run (execClrCairn p))).run
      (execFreeze p (bit v 0))
  else if r = 0x2C then s.run (execRecClrKey p (BitVec.ofNat 16 v.toNat))
  else s.store a v

/-- PWR. PWR_RISE holds while a slot uses it, and is saturated (R464). -/
def writePwr (a r : Nat) (v : Word) (s : State) : State :=
  if r = 0 then s.ifc (bit v 0) (run execPwrCntClr)
  else if r = 0x08 then
    if s.cfgHeld then s.setB R.PWR_STATUS 11
    else s.store a (w32 (clampN 64 1024 (fld v 31 16) * 65536 + clampN 10 1000 (fld v 15 0)))
  else s.store a v

/-- HOST. -/
def writeHost (a r : Nat) (v : Word) (s : State) : State :=
  if r = 0x08 then s.run (execHostWinLoWrite v)
  else if 0x100 ≤ r ∧ r < 0x180 ∧ r % 0x20 = 0x14 then
    (s.store a v).ifc (bit v 8) (run (execDmaGo (Fin.ofNat 4 ((r - 0x100) / 0x20))))
  else if r = 0x208 then if s.rb R.HOST_AUX_CTL 0 then s else s.store a v
  else if r = 0x214 then s.run (execAuxEnable (bit v 0))
  else s.store a v

/-- The beam whose sampled words a register of block `b` belongs to (R186, R192, R224, R355). -/
def sampledBeam (b : Blk) (i r : Nat) : Option Beam :=
  match b with
  | .be => some (Fin.ofNat 16 i)
  | .pcu => some (Fin.ofNat 16 i)
  | .ld => if 0x1000 ≤ r then some (Fin.ofNat 16 ((r - 0x1000) / 0x100)) else none
  | .cal => if 0x2000 ≤ r then some (Fin.ofNat 16 ((r - 0x2000) / 0x200)) else none
  | _ => none

/-- A write of one of the ledger's sampled registers acts at once while no job or remainder is bound to the old values; a
value written while one is waits for the next S (R256). -/
def sampleLdg (a : Nat) (s : State) : State :=
  if (List.finRange 4).any fun n => (s.js n).bound then s
  else s.upLdg fun g => { g with cfg :=
    #v[if a = R.LDG_CFG then s.rd a else g.cfg[0], if a = R.LDG_RISE then s.rd a else g.cfg[1],
       if a = R.LDG_RISE_REP then s.rd a else g.cfg[2]] }

/-- A write of a register of a present unit. -/
def writeReg (p : Path) (a : Nat) (v : Word) (s : State) : State :=
  match blkOf a with
  | none => s
  | some (b, i, r) =>
    let t :=
      match b with
      | .sys => s.writeSys a r v
      | .clk => s.store a v
      | .time => s.writeTime a r v
      | .job => s.writeJob a r v
      | .mbx => if r = 0x04 then s.ifc (bit v 0) mbxRing else s.store a v
      | .be => s.writeBe (Fin.ofNat 16 i) a r v
      | .pcu => s.writePcu (Fin.ofNat 16 i) a r v
      | .le => s.writeLe (Fin.ofNat 4 i) a r v
      | .ax => s.writeAx a r v
      | .ldg => s.writeLdg a r v
      | .zone => s.writeZone a r v
      | .fab => s.writeFab a r v
      | .ddr => s
      | .lane => s.writeLane (Fin.ofNat 64 (r / 0x1000)) a (r % 0x1000) v
      | .port => s.writePort a r v
      | .ld => s.writeLd a r v
      | .cal => s.writeCal a r v
      | .twin => s.writeTwin a r v
      | .flt => s.writeFlt a r v
      | .rec_ => s.writeRec p a r v
      | .pwr => s.writePwr a r v
      | .eth => s.store a v
      | .host => s.writeHost a r v
    match sampledBeam b i r with
    | none => if b = .ldg then t.sampleLdg a else t
    | some n => if t.naming n JobSlot.bound then t else t.sampleOnly (fun x => x = a) n

end State

/-- REGISTER_WRITE: a path writes a word. Offsets that name no register, and registers of units that the variant lacks,
ignore it, as do registers that the path does not reach (R4, R11, R467, R477, R483, R487). -/
def execRegisterWrite (path : Path) (addr : BitVec 24) (v : Word) (s : State) : Res :=
  let a := addr.toNat
  if !s.pathOpen path a ∨ !s.unitOn a ∨ (rowAt a).isNone then .next s
  else .next (s.writeReg path a v)

end Sys2Proof.Machine
end

