-- ==== Sys2Proof/Machine/Dispatch.lean ====
section
/-! DEFINITION. The meaning of each command: one direct call per constructor. -/

namespace Sys2Proof.Machine

/-- The effect of a command on everything but the queue. -/
def exec (i : Instr) (s : State) : Host.Outcome State Fault Refusal :=
  match i with
  | .rstNAssert => Sys2Proof.Machine.execRstNAssert s
  | .rstNRelease => Sys2Proof.Machine.execRstNRelease s
  | .bootStepTimeout step => Sys2Proof.Machine.execBootStepTimeout step s
  | .bootComplete => Sys2Proof.Machine.execBootComplete s
  | .submit slot => Sys2Proof.Machine.execSubmit slot s
  | .arm slot => Sys2Proof.Machine.execArm slot s
  | .disarm slot => Sys2Proof.Machine.execDisarm slot s
  | .abort slot => Sys2Proof.Machine.execAbort slot s
  | .resume slot => Sys2Proof.Machine.execResume slot s
  | .release slot => Sys2Proof.Machine.execRelease slot s
  | .go slot => Sys2Proof.Machine.execGo slot s
  | .jobHold => Sys2Proof.Machine.execJobHold s
  | .walkStart => Sys2Proof.Machine.execWalkStart s
  | .analysisEnd => Sys2Proof.Machine.execAnalysisEnd s
  | .walkLimit => Sys2Proof.Machine.execWalkLimit s
  | .statusPublish slot => Sys2Proof.Machine.execStatusPublish slot s
  | .autoArm slot => Sys2Proof.Machine.execAutoArm slot s
  | .preparationBegin slot => Sys2Proof.Machine.execPreparationBegin slot s
  | .preparationEnd slot => Sys2Proof.Machine.execPreparationEnd slot s
  | .driftCutoff head => Sys2Proof.Machine.execDriftCutoff head s
  | .jobStart slot => Sys2Proof.Machine.execJobStart slot s
  | .jobCommit => Sys2Proof.Machine.execJobCommit s
  | .strokeStart b => Sys2Proof.Machine.execStrokeStart b s
  | .gateEdge b => Sys2Proof.Machine.execGateEdge b s
  | .mark b a => Sys2Proof.Machine.execMark b a s
  | .jump b a => Sys2Proof.Machine.execJump b a s
  | .arc b a => Sys2Proof.Machine.execArc b a s
  | .spot b a => Sys2Proof.Machine.execSpot b a s
  | .zacq b set => Sys2Proof.Machine.execZacq b set s
  | .zrel b => Sys2Proof.Machine.execZrel b s
  | .muster b id cell mask => Sys2Proof.Machine.execMuster b id cell mask s
  | .waitt b rel target => Sys2Proof.Machine.execWaitt b rel target s
  | .mov b a => Sys2Proof.Machine.execMov b a s
  | .add b a => Sys2Proof.Machine.execAdd b a s
  | .sub b a => Sys2Proof.Machine.execSub b a s
  | .mul b a => Sys2Proof.Machine.execMul b a s
  | .band b a => Sys2Proof.Machine.execBand b a s
  | .bor b a => Sys2Proof.Machine.execBor b a s
  | .bxor b a => Sys2Proof.Machine.execBxor b a s
  | .shl b a => Sys2Proof.Machine.execShl b a s
  | .shr b a => Sys2Proof.Machine.execShr b a s
  | .sar b a => Sys2Proof.Machine.execSar b a s
  | .cmp b a => Sys2Proof.Machine.execCmp b a s
  | .mulh b a => Sys2Proof.Machine.execMulh b a s
  | .ld b a => Sys2Proof.Machine.execLd b a s
  | .st b a => Sys2Proof.Machine.execSt b a s
  | .rdp b a => Sys2Proof.Machine.execRdp b a s
  | .loop b creg rc bound body => Sys2Proof.Machine.execLoop b creg rc bound body s
  | .endl b back => Sys2Proof.Machine.execEndl b back s
  | .br b cond offset => Sys2Proof.Machine.execBr b cond offset s
  | .lgq b rd rx ry useP => Sys2Proof.Machine.execLgq b rd rx ry useP s
  | .pset b reg rs sel imm32 => Sys2Proof.Machine.execPset b reg rs sel imm32 s
  | .focus b reg rel rs imm32 => Sys2Proof.Machine.execFocus b reg rel rs imm32 s
  | .markev b reg irq rs code imm32 => Sys2Proof.Machine.execMarkev b reg irq rs code imm32 s
  | .halt b => Sys2Proof.Machine.execHalt b s
  | .markevRelease b => Sys2Proof.Machine.execMarkevRelease b s
  | .musterRelease id => Sys2Proof.Machine.execMusterRelease id s
  | .zacqWaitExpiry b => Sys2Proof.Machine.execZacqWaitExpiry b s
  | .beStop b => Sys2Proof.Machine.execBeStop b s
  | .stopComplete b => Sys2Proof.Machine.execStopComplete b s
  | .beEvPop b => Sys2Proof.Machine.execBeEvPop b s
  | .evClr b => Sys2Proof.Machine.execEvClr b s
  | .beCntClr b => Sys2Proof.Machine.execBeCntClr b s
  | .pdSample b f sidx pdA pdB => Sys2Proof.Machine.execPdSample b f sidx pdA pdB s
  | .pcuWord b => Sys2Proof.Machine.execPcuWord b s
  | .pcuCntClr b => Sys2Proof.Machine.execPcuCntClr b s
  | .imgLine b f sidx frame line w8 h8 depth12 pix => Sys2Proof.Machine.execImgLine b f sidx frame line w8 h8 depth12 pix s
  | .featurePublish b => Sys2Proof.Machine.execFeaturePublish b s
  | .trimApply b => Sys2Proof.Machine.execTrimApply b s
  | .eyeLoss b => Sys2Proof.Machine.execEyeLoss b s
  | .pcuCapArm b => Sys2Proof.Machine.execPcuCapArm b s
  | .datagramSend eth => Sys2Proof.Machine.execDatagramSend eth s
  | .pwrReport b f sidx pwr emit ready fault => Sys2Proof.Machine.execPwrReport b f sidx pwr emit ready fault s
  | .reportLost b => Sys2Proof.Machine.execReportLost b s
  | .diagWindowEnd b => Sys2Proof.Machine.execDiagWindowEnd b s
  | .pwmPeriodStart b => Sys2Proof.Machine.execPwmPeriodStart b s
  | .musterGrid b => Sys2Proof.Machine.execMusterGrid b s
  | .interlockTrip a b widthPs => Sys2Proof.Machine.execInterlockTrip a b widthPs s
  | .ilkDiscrep => Sys2Proof.Machine.execIlkDiscrep s
  | .rearm => Sys2Proof.Machine.execRearm s
  | .emitOffRepeat b => Sys2Proof.Machine.execEmitOffRepeat b s
  | .emitOffWrite b v => Sys2Proof.Machine.execEmitOffWrite b v s
  | .ldEnable b v => Sys2Proof.Machine.execLdEnable b v s
  | .killForce => Sys2Proof.Machine.execKillForce s
  | .ldCntClr b => Sys2Proof.Machine.execLdCntClr b s
  | .visitCommit b => Sys2Proof.Machine.execVisitCommit b s
  | .sweepStep => Sys2Proof.Machine.execSweepStep s
  | .sweepLate => Sys2Proof.Machine.execSweepLate s
  | .ldgEcc b cell => Sys2Proof.Machine.execLdgEcc b cell s
  | .ldgFlush => Sys2Proof.Machine.execLdgFlush s
  | .ldgClear => Sys2Proof.Machine.execLdgClear s
  | .ldgApply => Sys2Proof.Machine.execLdgApply s
  | .ldgImport => Sys2Proof.Machine.execLdgImport s
  | .ldgOpDone => Sys2Proof.Machine.execLdgOpDone s
  | .ldgQryGo => Sys2Proof.Machine.execLdgQryGo s
  | .ldgQryDone => Sys2Proof.Machine.execLdgQryDone s
  | .ldgCntClr => Sys2Proof.Machine.execLdgCntClr s
  | .zoneRound => Sys2Proof.Machine.execZoneRound s
  | .quotaWindowEnd => Sys2Proof.Machine.execQuotaWindowEnd s
  | .zoneCntClr => Sys2Proof.Machine.execZoneCntClr s
  | .fabSlot => Sys2Proof.Machine.execFabSlot s
  | .fabQuotaWindowEnd => Sys2Proof.Machine.execFabQuotaWindowEnd s
  | .crookPreempt chan debug => Sys2Proof.Machine.execCrookPreempt chan debug s
  | .transferComplete e => Sys2Proof.Machine.execTransferComplete e s
  | .swap => Sys2Proof.Machine.execSwap s
  | .swapApply => Sys2Proof.Machine.execSwapApply s
  | .fabCntClr => Sys2Proof.Machine.execFabCntClr s
  | .leUpdate k l retry => Sys2Proof.Machine.execLeUpdate k l retry s
  | .axisFb p axis f sidx pos cur aux => Sys2Proof.Machine.execAxisFb p axis f sidx pos cur aux s
  | .load k l => Sys2Proof.Machine.execLoad k l s
  | .enable k l => Sys2Proof.Machine.execEnable k l s
  | .disable k l => Sys2Proof.Machine.execDisable k l s
  | .coefSwap k l => Sys2Proof.Machine.execCoefSwap k l s
  | .leImgCheck k => Sys2Proof.Machine.execLeImgCheck k s
  | .clr k l acc => Sys2Proof.Machine.execClr k l acc s
  | .lda k l acc sh sa => Sys2Proof.Machine.execLda k l acc sh sa s
  | .mac k l acc sa kk => Sys2Proof.Machine.execMac k l acc sa kk s
  | .msu k l acc sa kk => Sys2Proof.Machine.execMsu k l acc sa kk s
  | .ada k l acc neg sh sa => Sys2Proof.Machine.execAda k l acc neg sh sa s
  | .sta k l acc sh dst => Sys2Proof.Machine.execSta k l acc sh dst s
  | .clp k l dst sa kk => Sys2Proof.Machine.execClp k l dst sa kk s
  | .sel k l dst sa sb sc => Sys2Proof.Machine.execSel k l dst sa sb sc s
  | .lawMov k l dst sa => Sys2Proof.Machine.execLawMov k l dst sa s
  | .lawHalt k l => Sys2Proof.Machine.execLawHalt k l s
  | .trArm k => Sys2Proof.Machine.execTrArm k s
  | .trTrig k => Sys2Proof.Machine.execTrTrig k s
  | .leCntClr k => Sys2Proof.Machine.execLeCntClr k s
  | .axAppend n => Sys2Proof.Machine.execAxAppend n s
  | .axReplace n => Sys2Proof.Machine.execAxReplace n s
  | .axStop n => Sys2Proof.Machine.execAxStop n s
  | .axResume n => Sys2Proof.Machine.execAxResume n s
  | .axHome n => Sys2Proof.Machine.execAxHome n s
  | .setPos n => Sys2Proof.Machine.execSetPos n s
  | .el1Move n => Sys2Proof.Machine.execEl1Move n s
  | .el1Set n => Sys2Proof.Machine.execEl1Set n s
  | .axClear n => Sys2Proof.Machine.execAxClear n s
  | .pitchStart n => Sys2Proof.Machine.execPitchStart n s
  | .pitchEnd n => Sys2Proof.Machine.execPitchEnd n s
  | .limitInput n pos active => Sys2Proof.Machine.execLimitInput n pos active s
  | .homeEdge n active => Sys2Proof.Machine.execHomeEdge n active s
  | .mmove axis rel v a tgt => Sys2Proof.Machine.execMmove axis rel v a tgt s
  | .mwait mask => Sys2Proof.Machine.execMwait mask s
  | .mdwell ns => Sys2Proof.Machine.execMdwell ns s
  | .machHalt => Sys2Proof.Machine.execMachHalt s
  | .calRefLoss => Sys2Proof.Machine.execCalRefLoss s
  | .dlRun => Sys2Proof.Machine.execDlRun s
  | .dlRunComplete m => Sys2Proof.Machine.execDlRunComplete m s
  | .dlSwap m => Sys2Proof.Machine.execDlSwap m s
  | .validate q => Sys2Proof.Machine.execValidate q s
  | .invalidate q => Sys2Proof.Machine.execInvalidate q s
  | .promote n => Sys2Proof.Machine.execPromote n s
  | .drift n => Sys2Proof.Machine.execDrift n s
  | .pcalPoint arg => Sys2Proof.Machine.execPcalPoint arg s
  | .pcalExposureEnd b => Sys2Proof.Machine.execPcalExposureEnd b s
  | .pcalEnter arg => Sys2Proof.Machine.execPcalEnter arg s
  | .pcalCommit n => Sys2Proof.Machine.execPcalCommit n s
  | .pcalClear n => Sys2Proof.Machine.execPcalClear n s
  | .calCntClr => Sys2Proof.Machine.execCalCntClr s
  | .headTemp b f temp => Sys2Proof.Machine.execHeadTemp b f temp s
  | .headTempStale b => Sys2Proof.Machine.execHeadTempStale b s
  | .refReq b => Sys2Proof.Machine.execRefReq b s
  | .refMeas b seq tag point signal mx my => Sys2Proof.Machine.execRefMeas b seq tag point signal mx my s
  | .train n blk eye => Sys2Proof.Machine.execTrain n blk eye s
  | .am n blk => Sys2Proof.Machine.execAm n blk s
  | .amSend p => Sys2Proof.Machine.execAmSend p s
  | .trainTimeout p => Sys2Proof.Machine.execTrainTimeout p s
  | .laneLockLoss n => Sys2Proof.Machine.execLaneLockLoss n s
  | .hbLoss p => Sys2Proof.Machine.execHbLoss p s
  | .heartbeat p => Sys2Proof.Machine.execHeartbeat p s
  | .farHeartbeat p f sidx echo turn role => Sys2Proof.Machine.execFarHeartbeat p f sidx echo turn role s
  | .cellDrop p blocks => Sys2Proof.Machine.execCellDrop p blocks s
  | .parcelBad p crcBad seq => Sys2Proof.Machine.execParcelBad p crcBad seq s
  | .ack p next => Sys2Proof.Machine.execAck p next s
  | .nak p next => Sys2Proof.Machine.execNak p next s
  | .ackSend p => Sys2Proof.Machine.execAckSend p s
  | .replayTimeout p => Sys2Proof.Machine.execReplayTimeout p s
  | .cfgRd p seq tag addr count => Sys2Proof.Machine.execCfgRd p seq tag addr count s
  | .cfgWr p seq tag addr data => Sys2Proof.Machine.execCfgWr p seq tag addr data s
  | .cfgRsp p seq tag status data => Sys2Proof.Machine.execCfgRsp p seq tag status data s
  | .cfgTimeout p => Sys2Proof.Machine.execCfgTimeout p s
  | .cfgRead p => Sys2Proof.Machine.execCfgRead p s
  | .cfgWrite p => Sys2Proof.Machine.execCfgWrite p s
  | .retrain p => Sys2Proof.Machine.execRetrain p s
  | .portCntClr p => Sys2Proof.Machine.execPortCntClr p s
  | .laneCntClr n => Sys2Proof.Machine.execLaneCntClr n s
  | .auxData seq stream sidx data => Sys2Proof.Machine.execAuxData seq stream sidx data s
  | .ropeUp => Sys2Proof.Machine.execRopeUp s
  | .handover => Sys2Proof.Machine.execHandover s
  | .confirmSolo => Sys2Proof.Machine.execConfirmSolo s
  | .releaseLead => Sys2Proof.Machine.execReleaseLead s
  | .roleCfgWrite v => Sys2Proof.Machine.execRoleCfgWrite v s
  | .twinTimeSend => Sys2Proof.Machine.execTwinTimeSend s
  | .twinTime launch lastArr => Sys2Proof.Machine.execTwinTime launch lastArr s
  | .twinSkewCheck => Sys2Proof.Machine.execTwinSkewCheck s
  | .checkpointDigest => Sys2Proof.Machine.execCheckpointDigest s
  | .twinDigest num digest => Sys2Proof.Machine.execTwinDigest num digest s
  | .digestTimeout => Sys2Proof.Machine.execDigestTimeout s
  | .twinHbMissing => Sys2Proof.Machine.execTwinHbMissing s
  | .twinTake m => Sys2Proof.Machine.execTwinTake m s
  | .takeover => Sys2Proof.Machine.execTakeover s
  | .twinCmdEffective => Sys2Proof.Machine.execTwinCmdEffective s
  | .twinCtlCmd seq op slot at_ => Sys2Proof.Machine.execTwinCtlCmd seq op slot at_ s
  | .twinObj seq addr len crc => Sys2Proof.Machine.execTwinObj seq addr len crc s
  | .twinFwd seq ofs data => Sys2Proof.Machine.execTwinFwd seq ofs data s
  | .twinLdg seq ofs cells => Sys2Proof.Machine.execTwinLdg seq ofs cells s
  | .twinAdm seq slot code jtFin digest => Sys2Proof.Machine.execTwinAdm seq slot code jtFin digest s
  | .twinStart seq slot at_ => Sys2Proof.Machine.execTwinStart seq slot at_ s
  | .twinStop seq m => Sys2Proof.Machine.execTwinStop seq m s
  | .twinDrift seq head m00 m01 m10 m11 ox oy => Sys2Proof.Machine.execTwinDrift seq head m00 m01 m10 m11 ox oy s
  | .twinZero seq first count => Sys2Proof.Machine.execTwinZero seq first count s
  | .twinState seq m => Sys2Proof.Machine.execTwinState seq m s
  | .twinLeave seq cause => Sys2Proof.Machine.execTwinLeave seq cause s
  | .twinCfg seq digest => Sys2Proof.Machine.execTwinCfg seq digest s
  | .twinJoined seq => Sys2Proof.Machine.execTwinJoined seq s
  | .twinRtt seq first rtts => Sys2Proof.Machine.execTwinRtt seq first rtts s
  | .faultReport id unit detail => Sys2Proof.Machine.execFaultReport id unit detail s
  | .fltAck cls seq => Sys2Proof.Machine.execFltAck cls seq s
  | .fltForce k bits => Sys2Proof.Machine.execFltForce k bits s
  | .shadowClose => Sys2Proof.Machine.execShadowClose s
  | .quietPeriodEnd => Sys2Proof.Machine.execQuietPeriodEnd s
  | .fltCntClr => Sys2Proof.Machine.execFltCntClr s
  | .ladderRequest func unit step => Sys2Proof.Machine.execLadderRequest func unit step s
  | .ladderKey key => Sys2Proof.Machine.execLadderKey key s
  | .ladderStepDone func unit ok => Sys2Proof.Machine.execLadderStepDone func unit ok s
  | .pwrCycEnd => Sys2Proof.Machine.execPwrCycEnd s
  | .recordWrite => Sys2Proof.Machine.execRecordWrite s
  | .optimeSave => Sys2Proof.Machine.execOptimeSave s
  | .crcModeEnd => Sys2Proof.Machine.execCrcModeEnd s
  | .freeze path on => Sys2Proof.Machine.execFreeze path on s
  | .freezeTimeout => Sys2Proof.Machine.execFreezeTimeout s
  | .recRdData path => Sys2Proof.Machine.execRecRdData path s
  | .recClrKey path key => Sys2Proof.Machine.execRecClrKey path key s
  | .clrRing path => Sys2Proof.Machine.execClrRing path s
  | .clrCairn path => Sys2Proof.Machine.execClrCairn path s
  | .recCntClr => Sys2Proof.Machine.execRecCntClr s
  | .vwarnFall => Sys2Proof.Machine.execVwarnFall s
  | .vwarnRise low => Sys2Proof.Machine.execVwarnRise low s
  | .vstopFall => Sys2Proof.Machine.execVstopFall s
  | .vstopRise low => Sys2Proof.Machine.execVstopRise low s
  | .vresetFall => Sys2Proof.Machine.execVresetFall s
  | .vresetRise => Sys2Proof.Machine.execVresetRise s
  | .hkRound ch => Sys2Proof.Machine.execHkRound ch s
  | .pwrCntClr => Sys2Proof.Machine.execPwrCntClr s
  | .clkLoss which => Sys2Proof.Machine.execClkLoss which s
  | .rtcStartTimeout => Sys2Proof.Machine.execRtcStartTimeout s
  | .timeFold => Sys2Proof.Machine.execTimeFold s
  | .timeRateWrite d v => Sys2Proof.Machine.execTimeRateWrite d v s
  | .timeOfsWrite d v => Sys2Proof.Machine.execTimeOfsWrite d v s
  | .timeStepWrite d v => Sys2Proof.Machine.execTimeStepWrite d v s
  | .bellwetherWrite b => Sys2Proof.Machine.execBellwetherWrite b s
  | .timeSnap => Sys2Proof.Machine.execTimeSnap s
  | .tpArm n => Sys2Proof.Machine.execTpArm n s
  | .tpulseFire n => Sys2Proof.Machine.execTpulseFire n s
  | .tpulseEnd n => Sys2Proof.Machine.execTpulseEnd n s
  | .tcapEdge n rising width err => Sys2Proof.Machine.execTcapEdge n rising width err s
  | .tcRawPop n => Sys2Proof.Machine.execTcRawPop n s
  | .ptpSync d m => Sys2Proof.Machine.execPtpSync d m s
  | .ptpAnnounce d m => Sys2Proof.Machine.execPtpAnnounce d m s
  | .ptpEventSend d e => Sys2Proof.Machine.execPtpEventSend d e s
  | .ptpResponse d r => Sys2Proof.Machine.execPtpResponse d r s
  | .ptpParentLoss d => Sys2Proof.Machine.execPtpParentLoss d s
  | .timeServoWrite d v => Sys2Proof.Machine.execTimeServoWrite d v s
  | .arpRequest eth ip who => Sys2Proof.Machine.execArpRequest eth ip who s
  | .rtcSet => Sys2Proof.Machine.execRtcSet s
  | .rtcSnap => Sys2Proof.Machine.execRtcSnap s
  | .rtcTrimStep => Sys2Proof.Machine.execRtcTrimStep s
  | .backupBrownout => Sys2Proof.Machine.execBackupBrownout s
  | .dmaGo c => Sys2Proof.Machine.execDmaGo c s
  | .dmaDone c e host => Sys2Proof.Machine.execDmaDone c e host s
  | .auxEnable v => Sys2Proof.Machine.execAuxEnable v s
  | .hostWinLoWrite v => Sys2Proof.Machine.execHostWinLoWrite v s
  | .flr => Sys2Proof.Machine.execFlr s
  | .info tag => Sys2Proof.Machine.execInfo tag s
  | .mbxJob tag op slot daddr => Sys2Proof.Machine.execMbxJob tag op slot daddr s
  | .mbxHold tag => Sys2Proof.Machine.execMbxHold tag s
  | .patchLoad tag addr len => Sys2Proof.Machine.execPatchLoad tag addr len s
  | .bootCfgSave tag => Sys2Proof.Machine.execBootCfgSave tag s
  | .ddrCfgSave tag cfg => Sys2Proof.Machine.execDdrCfgSave tag cfg s
  | .dbgChallenge tag => Sys2Proof.Machine.execDbgChallenge tag s
  | .dbgUnlock tag addr => Sys2Proof.Machine.execDbgUnlock tag addr s
  | .sysLock => Sys2Proof.Machine.execSysLock s
  | .tapInstruction ir => Sys2Proof.Machine.execTapInstruction ir s
  | .loReadLatch path addr => Sys2Proof.Machine.execLoReadLatch path addr s
  | .registerWrite path addr v => Sys2Proof.Machine.execRegisterWrite path addr v s
  | .bar2Access write ofs data be => Sys2Proof.Machine.execBar2Access write ofs data be s
  | .ilkInputRise b => Sys2Proof.Machine.execIlkInputRise b s
  | .calRefEdge dev => Sys2Proof.Machine.execCalRefEdge dev s
  | .rtcOscStart => Sys2Proof.Machine.execRtcOscStart s
  | .slewEnd => Sys2Proof.Machine.execSlewEnd s
  | .calendarEnd => Sys2Proof.Machine.execCalendarEnd s
  | .ethLink n blockLock up => Sys2Proof.Machine.execEthLink n blockLock up s
  | .ethFrameDiscard n badFcs f => Sys2Proof.Machine.execEthFrameDiscard n badFcs f s
  | .axAtRest n => Sys2Proof.Machine.execAxAtRest n s

end Sys2Proof.Machine
end

