-- ==== Sys2Proof/Machine/Idle.lean ====
section
/-! DEFINITION. What the block does while no command waits: it handles the reports of the tick, or one engine tick passes
(log entry 2). -/

namespace Sys2Proof.Machine

namespace State

/-- An edge of the 32,768 Hz oscillator: the calendar counts or takes its new setting, and CLK_MON_REF ends a window
(R72, R74, R75). The number of REFCLK cycles in the window is a free value. -/
def oscEdge (s : State) : State :=
  let r := s.time.rtc
  let s := s.upTime fun t =>
    { t with rtc := { r with
        secs := if r.sub = 32767 ∧ !r.stopped ∧ r.secs < calendarEnd then r.secs + 1 else r.secs
        sub := if r.stopped ∨ (r.sub = 32767 ∧ calendarEnd ≤ r.secs) then r.sub else (r.sub + 1) % 32768
        stopped := r.stopped || (r.sub == 32767 && decide (calendarEnd ≤ r.secs))
        trimCyc := r.trimCyc + 1
        monCyc := (r.monCyc + 1) % 32768 } }
  let s := if r.monCyc = 32767 then
      let (x, s) := s.fresh
      s.wr R.CLK_MON_REF (w32 x.toNat)
    else s
  s.applySet

/-- One ns of the oscillator, and of the 2 s that it has to start (R48). -/
def oscTick (s : State) : State :=
  let s := s.upTime fun t => { t with rtc := { t.rtc with supplyNs := min startNs (t.rtc.supplyNs + 1) } }
  let r := s.time.rtc
  if !r.oscRun then s
  else
    let p := r.phase + 32768
    let t := s.upTime fun t => { t with rtc := { r with phase := p % 1000000000 } }
    if p < 1000000000 then t else t.oscEdge

/-- The slew residual moves towards 0 at the slew rate (R57). -/
def slewTick (s : State) : State :=
  let d := s.time.slew
  let k : Int := s.slewStep
  s.upTime fun t => { t with slew := if 0 ≤ d then max 0 (d - k) else min 0 (d + k) }

/-- The positions of the machine axes in the checkpoint window, at each sample that is a multiple of 20 (R406). -/
def axItems (s : State) : State :=
  let k := s.sample
  match s.mach.job with
  | some n =>
    if k % 20 = 0 ∧ s.sampleAt k = s.tick ∧ s.twin.winAt.isSome then
      s.each ((List.finRange 16).filter fun a => nbit (s.jobAxes n) a.val) fun a t =>
        t.digItem k 7 a.val (toBytes 4 (i32 (satS 32 (t.axPos a t.tick).round)).toNat)
    else s
  | none => s

/-- Loss of TP while a pair forms (R397). -/
def joinLost (s : State) : State := if s.twin.pair = 1 ∧ !s.portUp 32 then s.joinFail 6 else s

/-- A ms of operating time; it is saved once per second at least (R443). -/
def opTime (s : State) : State :=
  let s := s.upRec fun q => { q with opMs := q.opMs + 1 }
  if s.savedMs + 1000 ≤ s.recd.opMs then s.shp saveCb else s

/-- One engine tick. -/
def tickOn (s : State) : State :=
  let s := { s with tick := s.tick + 1 }
  let s := s.slewTick
  let s := (if s.tick % 1000000 = 0 then s.opTime else s).recStep
  let s := (s.each (List.finRange 16) fun n t => (t.axLimit n).axStep n).axItems.fillTick
  let s := ((((s.leadStep).decideStep).gridHome).stepDue).mbxGo
  (((((s.joinLost).joinGone).joinEnd).ethNext 0).ethNext 1).holdDone

/-- The block without a command. FRC stands in RESET. -/
def idle (s : State) : State :=
  if !s.hub.pending.isEmpty then s.hubTake
  else if s.dev.state = .reset then s.oscTick
  else s.oscTick.tickOn

end State

end Sys2Proof.Machine
end

