-- ==== Sys2Proof/Safety.lean ====
section
/-! DEFINITION. What counts as a safe state of the block, and the terms in which statements speak of a command's effect:
what a beam is about to decode, and which part of the state a command leaves alone. -/

namespace Sys2Proof.Machine

/-- Memory in its canonical form: addresses rise strictly and no byte listed is 0. -/
def State.memWf (s : State) : Prop := SparseWf (fun _ => (0 : Byte)) s.mem

/-- The register words in their canonical form: offsets rise strictly and no word listed equals its reset value. -/
def State.regsWf (s : State) : Prop := SparseWf regReset s.regs

/-- Beam `b` decodes, its FIFO has room, and the word at its pc is the one that admission walked: `i` (R108, R140). -/
def State.Decodes (s : State) (b : Beam) (i : PInstr) : Prop :=
  s.decoding b = true ∧ s.walkedAt b = some i ∧ s.fifoLevel b < 64

/-- The decode state that the next instruction of beam `b` starts from: its own, or the merged one of a meeting point
(R77, R99). -/
def State.decAt (s : State) (b : Beam) : PState :=
  match s.promiseOf b with
  | some pr => State.merged pr b (s.be[b]).dec
  | none => (s.be[b]).dec

/-- The scheduled wait of a ZACQ or MUSTER of beam `b` at the point it decodes (R92). -/
def State.waitAt (s : State) (b : Beam) : Nat :=
  match s.promiseOf b with
  | some pr => match pr.waits.find? fun x => x.1 = b.val ∧ x.2.1 = (s.decAt b).key with
    | some (_, _, n) => n
    | none => 0
  | none => 0

/-- `t` differs from `s` in beam engine `b` at most. -/
def State.OnlyBeam (b : Beam) (s t : State) : Prop := { t with be := s.be } = s ∧ ∀ k : Beam, k ≠ b → t.be[k] = s.be[k]

/-- `t` is `s` but for the decode state of beam `b`, which is `p`, and the count of program bytes that it has decoded,
which one word more raises by 8 (R519). -/
def State.DecBecomes (b : Beam) (p : PState) (s t : State) : Prop :=
  s.OnlyBeam b t ∧ t.be[b] = { s.be[b] with dec := p, read := (s.be[b]).read + 8 }

/-- `t` differs from `s` in the registers of a list at most. -/
def State.OnlyRegs (l : List Nat) (s t : State) : Prop := { t with regs := s.regs } = s ∧ ∀ a, a ∉ l → t.rd a = s.rd a

/-- Beam `b` has decoded a stroke of kind `k` with the words `a`: it is the last entry of the FIFO, with its operands, PX and PY
are its end point, the pc is past its words and the window starts again; nothing else changes (R112, R113, R170). -/
def State.TakesStroke (b : Beam) (a : StrokeArgs) (k : StrokeKind) (s t : State) : Prop :=
  s.OnlyBeam b t ∧ ∃ y, (t.be[b]).fifo.getLast? = some y ∧ y.kind = k ∧ y.flags = a.flags ∧ y.key = (s.decAt b).key ∧
    y.p0 = ⟨(s.decAt b).px.toInt, (s.decAt b).py.toInt⟩ ∧ y.p1 = (s.decAt b).pointOf a.flags a.w1 ∧
    y.speed = ((s.decAt b).strokeOps a).speed ∧ y.power = ((s.decAt b).strokeOps a).power ∧
    y.cen = ((s.decAt b).strokeOps a).cen ∧ y.profile = a.profile.toNat ∧ y.began = false ∧
    (t.be[b]).dec.px = i32 y.p1.x ∧ (t.be[b]).dec.py = i32 y.p1.y ∧ (t.be[b]).dec.window = 0 ∧
    (t.be[b]).dec.waits = 0 ∧ (t.be[b]).dec.pc = (s.decAt b).pc + (if k = .arc then 3 else 2) ∧
    (t.be[b]).dec.g = (s.decAt b).g ∧ (t.be[b]).read = (s.be[b]).read + 8 * (if k = .arc then 3 else 2) ∧
    (t.be[b]).gates = (s.be[b]).gates

/-- A command that clears counters: every word of the list is 0, and no other register changes (R488). -/
def State.Clears (l : List Nat) (s t : State) : Prop := s.OnlyRegs l t ∧ ∀ a ∈ l, t.rd a = 0

/-- Beams that hold sets hold sets that do not conflict (R262, R266). -/
def State.zoneApart (s : State) : Prop :=
  ∀ j k : Beam, j ≠ k → ∀ x y : Nat, (s.zone.beam[j]).held = some x → (s.zone.beam[k]).held = some y →
    padConflict s.zoneCfg (s.zone.padOf x) (s.zone.padOf y) = false

/-- The law of slot `l` of engine `k` runs, has not reached its HALT, and `i` is valid in it (R295, R302). -/
def State.LawRuns (s : State) (k : Engine) (l : LSlot) (i : LInstr) : Prop :=
  s.leOn k.val = true ∧ ((s.ls k l).st = .ramp ∨ (s.ls k l).st = .run) ∧ (s.ls k l).ctx.done = false ∧
    i.operandsOk (s.ls k l).ncoef = true

/-- `t` is `s` but for slot `l` of engine `k`. -/
def State.OnlySlot (k : Engine) (l : LSlot) (s t : State) : Prop :=
  { t with le := s.le } = s ∧ (∀ e : Engine, e ≠ k → t.le[e] = s.le[e]) ∧
    { t.le[k] with slot := (s.le[k]).slot } = s.le[k] ∧ ∀ m : LSlot, m ≠ l → t.ls k m = s.ls k m

/-- `t` is `s` but for accumulator `a` of slot `l` of engine `k`, which is `v`. -/
def State.AccBecomes (k : Engine) (l : LSlot) (a : Fin 4) (v : Int) (s t : State) : Prop :=
  s.OnlySlot k l t ∧ (t.ls k l).ctx.acc[a] = v ∧ (∀ x : Fin 4, x ≠ a → (t.ls k l).ctx.acc[x] = (s.ls k l).ctx.acc[x]) ∧
    { t.ls k l with ctx := { (t.ls k l).ctx with acc := (s.ls k l).ctx.acc } } = s.ls k l

/-- `t` is `s` but for V[d] of slot `l` of engine `k`, which is `v`. -/
def State.VBecomes (k : Engine) (l : LSlot) (d : Byte) (v : Int) (s t : State) : Prop :=
  s.OnlySlot k l t ∧ (t.ls k l).ctx.get d = v ∧ (∀ x : Byte, x ≠ d → (t.ls k l).ctx.get x = (s.ls k l).ctx.get x) ∧
    (t.ls k l).ctx.acc = (s.ls k l).ctx.acc ∧ (t.ls k l).ctx.done = false ∧
    { t.ls k l with ctx := (s.ls k l).ctx } = s.ls k l

/-- `t` is `s` but for axis `n` and the registers of a list. -/
def State.OnlyAxis (n : Axis) (l : List Nat) (s t : State) : Prop :=
  s.OnlyRegs l { t with ax := s.ax } ∧ ∀ m : Axis, m ≠ n → t.ax[m] = s.ax[m]

/-- At most one job is RUNNING or HOLDING (R32). -/
def State.oneHeld (s : State) : Prop :=
  ∀ j k : Slot, ((s.js j).st = .running ∨ (s.js j).st = .holding) → ((s.js k).st = .running ∨ (s.js k).st = .holding) → j = k

/-- No start of an ARMED job is due: S lies ahead, or its preparation has not begun (R147). -/
def State.noStartDue (s : State) : Prop :=
  ∀ (k : Slot) (s0 : Nat), (s.js k).st = .armed → (s.js k).s = some s0 → s.tick < s0 ∨ (s.js k).prepAt = none

/-- No ARMED job is a remainder, whose scratch a withdrawal of its promise would put back (R106). -/
def State.armedFresh (s : State) : Prop := ∀ k ∈ s.armedSlots, (s.js k).remainder = false

/-- No ARM of a pair waits for the SECOND's answer (R401). -/
def State.noArmWaits (s : State) : Prop := ∀ c ∈ s.twin.timed, c.op ≠ 2

/-- The Shepherd pair runs, and the parcel `seq` of the twin port is the next one that the port expects (R380). -/
def State.TakesTwin (seq : BitVec 16) (s : State) : Prop :=
  s.dev.shpHalt = false ∧ s.portTalks State.tp = true ∧ seq.toNat = (s.port[State.tp]).rxNext

/-- Report `id` is the one that `t` adds to those of `s`. -/
def State.Reports (id : Byte) (s t : State) : Prop := ∃ r : Report, t.hub.pending = s.hub.pending ++ [r] ∧ r.id = id

/-- The mailbox takes a command of this tag: the Shepherd pair runs, no command does, the tag is not 0 and no entry of the
history has it (R472, R473). -/
def State.MbxFree (tag : BitVec 16) (s : State) : Prop :=
  s.dev.shpHalt = false ∧ s.host.mbx = none ∧ tag ≠ 0 ∧ ∀ h ∈ s.host.hist, h.tag ≠ tag.toNat

/-- A mailbox command of this tag has completed with a code, and entered the history (R472, R473). -/
def State.MbxPosted (tag : BitVec 16) (code : Nat) (t : State) : Prop :=
  t.rf R.MBX_STATUS 7 0 = code ∧ t.rb R.MBX_STATUS 22 = false ∧ t.rd R.MBX_RTAG = w32 tag.toNat ∧ t.host.mbx = none ∧
    ∃ h rest, t.host.hist = h :: rest ∧ h.tag = tag.toNat ∧ h.code = code

end Sys2Proof.Machine
end

