-- ==== Sys2Proof/Certificates/Slice0/Obligations.lean ====
section
/-! DEFINITION. The statements for the provers, one per `def Obligations.<Name> : Prop`. Each docstring names the rules of
spec/ that it formalises. Every statement about a command says that it answers a next state, and what that state holds. -/

open Sys2Proof Sys2Proof.Machine

/-- A step runs exactly the command in front of the queue, with the queue's rest. -/
def Obligations.StepRunsFront : Prop :=
  ∀ (c : Instr) (rest : List Instr) (s : State),
    step { s with pending := c :: rest } = exec c { s with pending := rest }

/-- No command stops the block: every one answers a next state, and leaves the queue of the commands behind it as it is.
-/
def Obligations.CommandsAnswer : Prop :=
  ∀ (c : Instr) (s : State), ∃ t, exec c s = .next t ∧ t.pending = s.pending

/-- The state right after reset: BOOT entered, LASER_KILL_N asserted with CAUSE 1 and no gate open, every job slot EMPTY,
FRC 0, every register at its reset value (R31, R205, R491; the values that the spec leaves open are log entries 4 to 8).
After reset, memory and registers are in their canonical form. -/
def Obligations.ResetState : Prop :=
  (State.reset.dev.state = .boot ∧ State.reset.dev.booted = false ∧ State.reset.tick = 0 ∧
     State.reset.ldc.kill = true ∧ State.reset.ldc.cause = 1 ∧ State.reset.pending = [] ∧
     (∀ n : Slot, (State.reset.js n).st = .empty ∧ (State.reset.js n).promise = none) ∧
     (∀ b : Beam, (State.reset.be[b]).gates = [] ∧ (State.reset.be[b]).job = none ∧ State.reset.lgate b = false) ∧
     (∀ a : Nat, State.reset.rd a = regReset a) ∧ State.reset.devState = .boot ∧ State.reset.heldSlot = none) ∧
  (State.reset.memWf ∧ State.reset.regsWf)

/-- Every step keeps the canonical form of memory and of the register words, from every state. -/
def Obligations.StepKeepsCanonical : Prop :=
  ∀ s t : State, s.memWf → s.regsWf → step s = .next t → t.memWf ∧ t.regsWf

/-- RESET and BOOT (R31, R33, R205, R431, R476): RST_N_ASSERT enters RESET with every gate low and LASER_KILL_N asserted
and keeps the MRAM; RST_N_RELEASE enters BOOT with FRC from 0; a step that fails makes BELAY sticky; BOOT_COMPLETE by 240
ms boots the block, to IDLE, and releases LASER_KILL_N where nothing was latched in class F. In RESET, with no report of
the tick to handle, a step on an empty queue leaves FRC, memory, jobs and engines alone (R50; that an empty queue idles is
the model's choice, log entry 2). -/
def Obligations.BootAndReset : Prop :=
  ((∀ s : State, ∃ t, exec .rstNAssert s = .next t ∧ t.dev.state = .reset ∧ t.dev.rstLow = true ∧ t.ldc.kill = true ∧
       t.ldc.cause = 1 ∧ (∀ b : Beam, (t.be[b]).gates = []) ∧ t.tick = s.tick ∧ t.mram = s.mram ∧ t.sent = s.sent ∧
       t.ldc.a = s.ldc.a ∧ t.ldc.b = s.ldc.b) ∧
   (∀ s : State, s.dev.state = .reset → s.dev.belowVreset = false →
       ∃ t, exec .rstNRelease s = .next t ∧ t.dev.state = .boot ∧ t.dev.rstLow = false ∧ t.tick = 0) ∧
   (∀ (step : Fin 8) (s : State), s.dev.state = .boot → s.dev.bootFailed = false → step ≠ 0 →
       ∃ t, exec (.bootStepTimeout step) s = .next t ∧ t.dev.bootFailed = true ∧ t.dev.bootStep = step.val ∧
         t.dev.sticky = true) ∧
   (∀ s : State, s.dev.state = .boot → s.dev.bootFailed = false → s.tick ≤ 240000000 → s.dev.inBelay = false →
       s.dev.rstLow = false → s.dev.belowVreset = false → (∀ n : Slot, (s.js n).st = .empty) →
       ∃ t, exec .bootComplete s = .next t ∧ t.dev.booted = true ∧ t.dev.state = .idle ∧ t.tick = s.tick ∧
         ((s.hub.latch[2]).seq = 0 → t.ldc.kill = false))) ∧
  (∀ s : State, s.pending = [] → s.hub.pending = [] → s.dev.state = .reset →
     ∃ t, step s = .next t ∧ t.pending = [] ∧ t.tick = s.tick ∧ t.mem = s.mem ∧ t.job = s.job ∧ t.be = s.be ∧
       t.dev = s.dev ∧ t.ldc = s.ldc)

/-- SUBMIT, ARM, DISARM, RESUME and RELEASE of an unpaired device outside BELAY, each on a slot in its state, do what R142
gives them and post CODE 0 (R39, R142, R145, R166). In BELAY, SUBMIT, ARM and RESUME of an unpaired device return
STATE_REFUSED and change no slot (R36, R142). A start that is due comes before the command, and withdraws the promise where
an axis of the job is not ready (R147, R331). -/
def Obligations.JobQueueCommands : Prop :=
  (∀ (n : Slot) (s : State), s.twin.pair = 0 → s.rb R.JOB_RESULT 23 = false → s.dev.inBelay = false → s.regsWf →
     s.noStartDue →
     ((s.js n).st = .empty → s.descAddr n % 128 = 0 → s.inDdr (s.descAddr n) 128 = true →
       (∀ k : Slot, (s.js k).st = .empty ∨ (s.js k).jobId ≠
         ({ State.resetSlot with desc := BitVec.ofNat 1024 (s.rdN (s.descAddr n) 128) } : JobSlot).jobId) →
       ∃ t, exec (.submit n) s = .next t ∧ (t.js n).st = .analysing ∧ t.job.queue = s.job.queue ++ [n] ∧
         (t.js n).desc = BitVec.ofNat 1024 (s.rdN (s.descAddr n) 128) ∧ t.rf R.JOB_RESULT 7 0 = 0 ∧ t.mem = s.mem) ∧
     ((s.js n).st = .accepted → s.twin.confirm = false → (s.js n).promise.isSome = true → s.armCheck n = 0 →
       ∃ t, exec (.arm n) s = .next t ∧ (t.js n).st = .armed ∧ (t.js n).promise = (s.js n).promise ∧
         (t.js n).armAt = s.tick ∧ t.rf R.JOB_RESULT 7 0 = 0) ∧
     ((s.js n).st = .armed →
       ∃ t, exec (.disarm n) s = .next t ∧ (t.js n).st = .accepted ∧ (t.js n).promise = none ∧
         (t.js n).withdrawn = true ∧ (t.js n).s = none ∧ t.rf R.JOB_RESULT 7 0 = 0) ∧
     ((s.js n).st = .holding →
       ∃ t, exec (.resume n) s = .next t ∧ (t.js n).st = .analysing ∧ (t.js n).remainder = true ∧
         t.job.queue = n :: s.job.queue ∧ t.rf R.JOB_RESULT 7 0 = 0) ∧
     ((s.js n).st = .accepted ∨ (s.js n).st = .rejected ∨ (s.js n).st = .done ∨ (s.js n).st = .aborted →
       ∃ t, exec (.release n) s = .next t ∧ (t.js n).st = .empty ∧ (t.js n).promise = none ∧
         t.rf R.JOB_RESULT 7 0 = 0)) ∧
  (∀ (c : Slot → Instr) (n : Slot) (s : State), (c = .submit ∨ c = .arm ∨ c = .resume) → s.twin.pair = 0 →
     s.rb R.JOB_RESULT 23 = false → s.dev.inBelay = true → s.regsWf → s.noStartDue →
     ∃ t, exec (c n) s = .next t ∧ t.job = s.job ∧ t.rf R.JOB_RESULT 7 0 = 3 ∧ t.be = s.be ∧ t.mem = s.mem) ∧
  (∀ (n : Slot) (s0 : Nat) (s : State), s.twin.pair = 0 → s.rb R.JOB_RESULT 23 = false → s.dev.inBelay = false → s.regsWf →
     s.armedSlots = [n] → (s.js n).s = some s0 → s0 ≤ s.tick → (s.js n).prepAt.isSome = true → s.otherRuns n = false →
     ∃ t, exec (.disarm n) s = .next t ∧ t.rf R.JOB_RESULT 7 0 = 2 ∧
       (s.axesRest n = true → (t.js n).st = .running) ∧
       (s.axesRest n = false → (t.js n).st = .accepted ∧ (t.js n).promise = none ∧ (t.js n).withdrawn = true))

/-- ABORT, GO and a HOLD request of an unpaired device, and STATUS_PUBLISH (R41, R142, R151, R163, R168): an ABORT before
the commit point leaves the job ABORTED without a promise; GO fixes S 4,096 ns ahead; a HOLD request asks every named beam
to stop, and leaves the job RUNNING until they hold; a publish, once per round of 1 ms, advances SEQ of the slot and nothing else of its job
state. -/
def Obligations.JobControlCommands : Prop :=
  (∀ (n : Slot) (s : State), s.twin.pair = 0 → s.rb R.JOB_RESULT 23 = false → s.noStartDue →
      (((s.js n).st = .analysing ∧ ((s.js n).remainder = true ∨ ∀ b : Beam, (s.be[b]).job ≠ some n)) ∨ (s.js n).st = .armed ∨ (s.js n).st = .holding ∨
        ((s.js n).st = .running ∧ s.commitReady n = false)) →
      ∃ t, exec (.abort n) s = .next t ∧ (t.js n).st = .aborted ∧ (t.js n).promise = none ∧
        (∀ b : Beam, (t.be[b]).job ≠ some n)) ∧
  (∀ (n : Slot) (s : State), s.twin.pair = 0 → s.rb R.JOB_RESULT 23 = false → s.noStartDue → (s.js n).st = .armed →
      (s.js n).startMode = 3 → (s.js n).param % 16 = 8 → (s.js n).ready = true → (s.js n).started = false →
      ∃ t, exec (.go n) s = .next t ∧ (t.js n).s = some (s.tick + 4096) ∧ (t.js n).started = true ∧
        (t.js n).st = .armed) ∧
  (∀ (n : Slot) (s : State), s.twin.pair = 0 → s.rb R.JOB_RESULT 23 = false → s.runSlot = some n →
      s.commitReady n = false → s.dev.holdReq = 0 →
      ∃ t, exec .jobHold s = .next t ∧ t.dev.holdReq = 1 ∧ t.dev.holdAt = s.tick ∧ (t.js n).st = .running ∧
        (t.js n).promise = (s.js n).promise ∧ t.armedSlots = s.armedSlots ∧
        (∀ b ∈ (s.js n).named, (t.be[b]).stopReq.isSome = true) ∧
        (∀ b : Beam, b ∉ (s.js n).named → t.be[b] = s.be[b]) ∧ t.mem = s.mem) ∧
  (∀ (n : Slot) (s : State), (s.js n).st = .running ∨ (s.js n).st = .holding → s.walkSlot ≠ some n →
      (s.js n).pubRound ≠ s.tick / 1000000 →
      ∃ t, exec (.statusPublish n) s = .next t ∧ (t.js n).seq = ((s.js n).seq + 1) % 128 ∧
        (t.js n).st = (s.js n).st ∧ (t.js n).promise = (s.js n).promise ∧ t.mem = s.mem ∧ t.be = s.be)

/-- The walk of a job on an unpaired device whose Shepherd runs (R146, R153, R158 to R160, R164): WALK_START takes the slot in
front of the queue; ANALYSIS_END leaves it REJECTED with the code and place of the first violation, or ACCEPTED (ARMED by
its AUTO_ARM) with the promise of the analysis, and an analysis always comes to one or the other; WALK_LIMIT rejects a walk
that passes its limit; AUTO_ARM arms a waiting job. -/
def Obligations.AdmissionCommands : Prop :=
  (∀ (n : Slot) (rest : List Slot) (s : State), s.job.queue = n :: rest → s.job.walking = none → s.ldg.op < 2 →
      s.stopping n = false →
      ∃ t, exec .walkStart s = .next t ∧ t.job.queue = rest ∧ t.job.walking = some n ∧ (t.js n).phase = 1 ∧
        (t.js n).st = (s.js n).st ∧ t.be = s.be ∧ t.mem = s.mem) ∧
  (∀ (n : Slot) (s : State), s.twin.pair = 0 → s.job.walking = some n → (s.js n).st = .analysing →
      s.dev.shpHalt = false →
      ∃ t, exec .analysisEnd s = .next t ∧ t.mem = s.mem ∧
        (∀ v, (s.analysisOf n).viol = some v → t.job.walking = none ∧ (t.js n).st = .rejected ∧ (t.js n).code = v.code ∧
          (t.js n).loc = v.loc ∧ (t.js n).promise = none) ∧
        (∀ p, (s.analysisOf n).viol = none → (s.analysisOf n).promise = some p → t.job.walking = none ∧
          ((t.js n).st = .accepted ∨ (t.js n).st = .armed) ∧ (t.js n).promise = some p)) ∧
  (∀ (n : Slot) (s : State), (analyse s n).viol = none → (analyse s n).promise.isSome = true) ∧
  (∀ (n : Slot) (v : Viol) (s : State), s.twin.pair = 0 → s.job.walking = some n → (s.js n).st = .analysing →
      s.dev.shpHalt = false → (s.analysisOf n).viol = some v → v.code = 0x4C →
      ∃ t, exec .walkLimit s = .next t ∧ t.job.walking = none ∧ (t.js n).st = .rejected ∧ (t.js n).code = 0x4C ∧
        (t.js n).loc = v.loc) ∧
  (∀ (n : Slot) (s : State), s.twin.pair = 0 → (s.js n).autoWait = true → (s.js n).st = .accepted → s.armedSlots = [] →
      s.dev.inBelay = false → s.twin.confirm = false → (s.js n).promise.isSome = true → s.armCheck n = 0 →
      ∃ t, exec (.autoArm n) s = .next t ∧ (t.js n).st = .armed ∧ (t.js n).promise = (s.js n).promise ∧
        (t.js n).autoWait = false)

/-- From preparation to the commit point on an unpaired device (R25, R40, R149 to R151, R349): an IMMEDIATE start fixes S at
the end of its preparation and takes its beams; READY follows; the drift cutoff ends a check in preparation with
DRIFT_CUTOFF; at S the job runs with JT counted from S; at its commit point it is DONE and its beams are free; past S +
JT_FIN it never shows DONE late, but is a PROMISE_MISS. -/
def Obligations.JobLife : Prop :=
  (∀ (n : Slot) (s : State), s.twin.pair = 0 → (s.js n).st = .armed → (s.js n).prepAt = none → s.otherRuns n = false →
      s.axesRest n = true → (s.js n).startMode = 0 →
      ∃ t, exec (.preparationBegin n) s = .next t ∧ (t.js n).st = .armed ∧ (t.js n).prepAt = some s.tick ∧
        (t.js n).tPrep = s.prepNs n ∧ (t.js n).s = some (s.tick + s.prepNs n) ∧
        ∀ b ∈ (s.js n).named, (t.be[b]).job = some n ∧ (t.be[b]).fifo = [] ∧ (t.be[b]).posFrom = some (s.tick, s.pos b)) ∧
  (∀ (n : Slot) (t0 : Nat) (s : State), (s.js n).st = .armed → (s.js n).ready = false → (s.js n).prepAt = some t0 →
      t0 + (s.js n).tPrep ≤ s.tick →
      ∃ t, exec (.preparationEnd n) s = .next t ∧ (t.js n).ready = true ∧ (t.js n).st = .armed ∧ t.be = s.be ∧
        t.mem = s.mem) ∧
  (∀ (b : Beam) (c : DriftCheck) (s : State), (s.cal.head[b]).check = some c → c.inPrep = true → s.checkLate b c = true →
      s.regsWf →
      ∃ t, exec (.driftCutoff b) s = .next t ∧ (t.cal.head[b]).check = none ∧ t.rb (R.CAL_Hn_STATUS b.val) 5 = true ∧
        (∃ r, t.hub.pending = s.hub.pending ++ [r] ∧ r.id = 0x5B) ∧ (t.cal.head[b]).eng = (s.cal.head[b]).eng) ∧
  (∀ (n : Slot) (s0 : Nat) (s : State), (s.js n).st = .armed → (s.js n).s = some s0 → s0 ≤ s.tick →
      (s.js n).prepAt.isSome = true → s.otherRuns n = false → s.axesRest n = true → s.dev.inBelay = false → s.dev.booted = true →
      s.dev.rstLow = false → s.dev.belowVreset = false →
      ∃ t, exec (.jobStart n) s = .next t ∧ (t.js n).st = .running ∧ t.dev.state = .run ∧ t.jt = some (s.tick - s0) ∧
        t.tick = s.tick) ∧
  (∀ (n : Slot) (s : State), s.runSlot = some n → s.missedFin n = none → s.commitReady n = true →
      ∃ t, exec .jobCommit s = .next t ∧ (t.js n).st = .done ∧ (t.js n).promise = none ∧
        (t.js n).commitAt = some s.tick ∧ ∀ b : Beam, (t.be[b]).job ≠ some n) ∧
  (∀ (n : Slot) (fin : Nat) (s : State), s.runSlot = some n → s.missedFin n = some fin → s.dev.holdReq = 0 →
      ∃ t r, exec .jobCommit s = .next t ∧ (t.js n).st = .running ∧ t.hub.pending = s.hub.pending ++ [r] ∧ r.id = 0x04 ∧
        t.job = s.job ∧ t.be = s.be ∧ t.mem = s.mem)

/-- A stroke at the decode stage (R112, R113, R118, R170): with room in the FIFO and no rejoin, MARK, JUMP, ARC and SPOT each
become the last entry of the beam's FIFO with their operands, PX and PY become the end point, the pc passes the words and the
window starts again; no other engine, no memory and no register changes. -/
def Obligations.StrokesDecode : Prop :=
  ∀ (b : Beam) (a : StrokeArgs) (s : State), s.rejoinOf b = none →
    (s.Decodes b (.mark a) → ∃ t, exec (.mark b a) s = .next t ∧ s.TakesStroke b a .mark t) ∧
    (s.Decodes b (.jump a) → ∃ t, exec (.jump b a) s = .next t ∧ s.TakesStroke b a .jump t) ∧
    (s.Decodes b (.arc a) → ∃ t, exec (.arc b a) s = .next t ∧ s.TakesStroke b a .arc t) ∧
    (s.Decodes b (.spot a) → ∃ t, exec (.spot b a) s = .next t ∧ s.TakesStroke b a .spot t)

/-- ZACQ, ZREL, MUSTER, WAITT, MARKEV and HALT at the decode stage (R92, R100, R105, R123 to R126, R135, R136). -/
def Obligations.SynchronizationDecode : Prop :=
  ∀ (b : Beam) (s : State),
    (∀ set : BitVec 16, s.Decodes b (.zacq set) →
      ∃ t, exec (.zacq b set) s = .next t ∧ (t.be[b]).dec.held = some set.toNat ∧
        (t.be[b]).dec.waits = (s.decAt b).waits + s.waitAt b ∧ (t.be[b]).dec.pc = (s.decAt b).pc + 1 ∧
        (t.be[b]).dec.window = (s.decAt b).window + 1 ∧
        (t.zone.beam[b]).reqs = (s.zone.beam[b]).reqs ++
          [{ set := set.toNat % 4096, time := (s.decAt b).count.time, lost := 0, key := (s.decAt b).key }] ∧
        (∀ k : Beam, k ≠ b → t.zone.beam[k] = s.zone.beam[k] ∧ t.be[k] = s.be[k]) ∧
        { t with zone := s.zone, be := s.be } = s) ∧
    (s.Decodes b .zrel →
      ∃ t, exec (.zrel b) s = .next t ∧ (t.be[b]).dec.held = none ∧ (t.be[b]).dec.pc = (s.decAt b).pc + 1 ∧
        (t.zone.beam[b]).rels = (s.zone.beam[b]).rels ++ [(s.decAt b).lastEnd] ∧
        (∀ k : Beam, k ≠ b → t.zone.beam[k] = s.zone.beam[k] ∧ t.be[k] = s.be[k]) ∧
        { t with zone := s.zone, be := s.be } = s) ∧
    (∀ (id : Byte) (cell : Bool) (mask : BitVec 16), s.Decodes b (.muster id cell mask) →
      ∃ t, exec (.muster b id cell mask) s = .next t ∧ s.OnlyBeam b t ∧
        (t.be[b]).dec.waits = (s.decAt b).waits + s.waitAt b ∧ (t.be[b]).dec.pc = (s.decAt b).pc + 1 ∧
        (t.be[b]).barrier = (s.be[b]).barrier ++ [(id.toNat, mask.toNat, cell, (s.decAt b).passedOf id.toNat,
          (s.decAt b).count.time + s.waitAt b)]) ∧
    (∀ (rel : Bool) (target : BitVec 48), s.Decodes b (.waitt rel target) →
      ∃ t, exec (.waitt b rel target) s = .next t ∧
        s.DecBecomes b { s.decAt b with
          pc := (s.decAt b).pc + 1, window := (s.decAt b).window + 1
          waits := if rel then (s.decAt b).waits + target.toNat
            else (s.decAt b).waits + (target.toNat - (s.decAt b).count.time) } t) ∧
    (∀ (reg irq : Bool) (rs : Fin 16) (code : BitVec 16) (imm32 : Word), s.Decodes b (.markev reg irq rs code imm32) →
      ∃ t, exec (.markev b reg irq rs code imm32) s = .next t ∧ s.OnlyBeam b t ∧
        (t.be[b]).pendEv = (s.be[b]).pendEv ++
          [{ code := code.toNat, value := if reg then (s.decAt b).gr rs else imm32, time := (s.decAt b).count.time, irq := irq }] ∧ (t.be[b]).dec.pc = (s.decAt b).pc + 1) ∧
    (s.Decodes b .halt →
      ∃ t, exec (.halt b) s = .next t ∧ s.OnlyBeam b t ∧ (t.be[b]).dec.halted = true ∧
        (t.be[b]).dec.pc = (s.decAt b).pc ∧ (∀ y, (t.be[b]).fifo.getLast? = some y → y.fixed = true) ∧
        (t.be[b]).fifo.length = (s.be[b]).fifo.length)

/-- The arithmetic of the integer group: the result in RD, Z and N of it, C the carry or the absence of a borrow, V the
overflow of the signed result; CMP writes no register, MOV keeps C and V (R127). Logic and shifts of the integer group: C
is 0, or the last bit shifted out by src mod 32; V is 0 (R127). -/
def Obligations.IntegerInstructions : Prop :=
  (∀ (b : Beam) (a : IntArgs) (s : State) (p : PState) (x y : Word), p = s.decAt b → x = p.gr a.ra →
     y = (if a.imm then a.imm32 else p.gr a.rb) →
     (s.Decodes b (.alu .mov a) → ∃ t, exec (.mov b a) s = .next t ∧ s.DecBecomes b { p with
       g := p.g.set a.rd.val y, z := y = 0, n := y.msb, pc := p.pc + 1, window := p.window + 1 } t) ∧
     (s.Decodes b (.alu .add a) → ∃ t, exec (.add b a) s = .next t ∧ s.DecBecomes b { p with
       g := p.g.set a.rd.val (x + y), z := x + y = 0, n := (x + y).msb, c := decide (2 ^ 32 ≤ x.toNat + y.toNat)
       v := decide (x.toInt + y.toInt ≠ (x + y).toInt), pc := p.pc + 1, window := p.window + 1 } t) ∧
     (s.Decodes b (.alu .sub a) → ∃ t, exec (.sub b a) s = .next t ∧ s.DecBecomes b { p with
       g := p.g.set a.rd.val (x - y), z := x - y = 0, n := (x - y).msb, c := decide (y.toNat ≤ x.toNat)
       v := decide (x.toInt - y.toInt ≠ (x - y).toInt), pc := p.pc + 1, window := p.window + 1 } t) ∧
     (s.Decodes b (.alu .cmp a) → ∃ t, exec (.cmp b a) s = .next t ∧ s.DecBecomes b { p with
       z := x - y = 0, n := (x - y).msb, c := decide (y.toNat ≤ x.toNat)
       v := decide (x.toInt - y.toInt ≠ (x - y).toInt), pc := p.pc + 1, window := p.window + 1 } t) ∧
     (s.Decodes b (.alu .mul a) → ∃ t, exec (.mul b a) s = .next t ∧ s.DecBecomes b { p with
       g := p.g.set a.rd.val (x * y), z := x * y = 0, n := (x * y).msb, c := false
       v := decide (x.toInt * y.toInt ≠ (x * y).toInt), pc := p.pc + 1, window := p.window + 1 } t) ∧
     (s.Decodes b (.alu .mulh a) → ∃ t r, exec (.mulh b a) s = .next t ∧ r = BitVec.ofInt 32 (x.toInt * y.toInt / 2 ^ 32) ∧
       s.DecBecomes b { p with
         g := p.g.set a.rd.val r, z := r = 0, n := r.msb, c := false, v := false, pc := p.pc + 1
         window := p.window + 1 } t)) ∧
  (∀ (b : Beam) (a : IntArgs) (s : State) (p : PState) (x y : Word) (k : Nat), p = s.decAt b → x = p.gr a.ra →
     y = (if a.imm then a.imm32 else p.gr a.rb) → k = y.toNat % 32 →
     (s.Decodes b (.alu .band a) → ∃ t, exec (.band b a) s = .next t ∧ s.DecBecomes b { p with
       g := p.g.set a.rd.val (x &&& y), z := x &&& y = 0, n := (x &&& y).msb, c := false, v := false
       pc := p.pc + 1, window := p.window + 1 } t) ∧
     (s.Decodes b (.alu .bor a) → ∃ t, exec (.bor b a) s = .next t ∧ s.DecBecomes b { p with
       g := p.g.set a.rd.val (x ||| y), z := x ||| y = 0, n := (x ||| y).msb, c := false, v := false
       pc := p.pc + 1, window := p.window + 1 } t) ∧
     (s.Decodes b (.alu .bxor a) → ∃ t, exec (.bxor b a) s = .next t ∧ s.DecBecomes b { p with
       g := p.g.set a.rd.val (x ^^^ y), z := x ^^^ y = 0, n := (x ^^^ y).msb, c := false, v := false
       pc := p.pc + 1, window := p.window + 1 } t) ∧
     (s.Decodes b (.alu .shl a) → ∃ t, exec (.shl b a) s = .next t ∧ s.DecBecomes b { p with
       g := p.g.set a.rd.val (x <<< k), z := x <<< k = 0, n := (x <<< k).msb, c := k ≠ 0 && x.getLsbD (32 - k)
       v := false, pc := p.pc + 1, window := p.window + 1 } t) ∧
     (s.Decodes b (.alu .shr a) → ∃ t, exec (.shr b a) s = .next t ∧ s.DecBecomes b { p with
       g := p.g.set a.rd.val (x >>> k), z := x >>> k = 0, n := (x >>> k).msb, c := k ≠ 0 && x.getLsbD (k - 1)
       v := false, pc := p.pc + 1, window := p.window + 1 } t) ∧
     (s.Decodes b (.alu .sar a) → ∃ t r, exec (.sar b a) s = .next t ∧ r = x.sshiftRight k ∧ s.DecBecomes b { p with
       g := p.g.set a.rd.val r, z := r = 0, n := r.msb, c := k ≠ 0 && x.getLsbD (k - 1), v := false
       pc := p.pc + 1, window := p.window + 1 } t))

/-- LD and ST in the scratch of the beam, and RDP (R79, R127, R128): the address is the sum of RA and IMM32, modulo
65,536, rounded down to a word; LD sets Z and N of what it loads; ST writes exactly those four bytes. -/
def Obligations.ScratchAndPosition : Prop :=
  ∀ (b : Beam) (a : IntArgs) (s : State) (p : PState) (ad : Nat), p = s.decAt b →
    ad = State.scratchBase b + (p.gr a.ra + a.imm32).toNat % 65536 / 4 * 4 →
    (s.Decodes b (.ld a) → ∃ t, exec (.ld b a) s = .next t ∧ s.DecBecomes b { p with
      g := p.g.set a.rd.val (s.rd32 ad), z := s.rd32 ad = 0, n := (s.rd32 ad).msb, pc := p.pc + 1
      window := p.window + 1 } t) ∧
    (s.Decodes b (.st a) → s.memWf → ∃ t, exec (.st b a) s = .next t ∧ t.rd32 ad = p.gr a.rb ∧
      (∀ q : Nat, q < ad ∨ ad + 4 ≤ q → t.rdByte q = s.rdByte q) ∧
      (t.be[b]).dec = { p with pc := p.pc + 1, window := p.window + 1 } ∧ (∀ k : Beam, k ≠ b → t.be[k] = s.be[k]) ∧
      { t with mem := s.mem, be := s.be } = s) ∧
    (s.Decodes b (.rdp a) → ∃ t r, exec (.rdp b a) s = .next t ∧
      r = (match a.imm32.toNat with
        | 0 => p.px | 1 => p.py | 2 => p.pz | 3 => w32 p.count.time | 4 => w32 (p.count.time / 2 ^ 32 % 2 ^ 16) | _ => 0) ∧
      s.DecBecomes b { p with
        g := p.g.set a.rd.val r, z := r = 0, n := r.msb, pc := p.pc + 1, window := p.window + 1 } t)

/-- LOOP, ENDL and BR (R98, R129 to R131): a count above BOUND is clamped, reported as LOOP_CLAMP and counted in the job's
BEAMb_PROC; a count of 0 skips the body and its ENDL; ENDL goes back until the last iteration. The branch conditions after
CMP of x with y: EQ, NE, CS, CC, HI, LS as unsigned and GE, LT, GT, LE as signed comparisons of the two (R127, R131). -/
def Obligations.LoopsAndBranches : Prop :=
  (∀ (b : Beam) (s : State) (p : PState), p = s.decAt b →
     (∀ (creg : Bool) (rc : Fin 16) (bound body : BitVec 24) (n : Nat), s.Decodes b (.loop creg rc bound body) →
       n = (if creg then (p.gr rc).toNat else bound.toNat) → n ≤ bound.toNat →
       ∃ t, exec (.loop b creg rc bound body) s = .next t ∧
         s.DecBecomes b (if n = 0 then { p with pc := p.pc + body.toNat + 1, window := p.window + 1 }
           else { p with loops := { start := p.pc + 1, remaining := n, iter := 0 } :: p.loops, pc := p.pc + 1
                         window := p.window + 1 }) t) ∧
     (∀ (rc : Fin 16) (bound body : BitVec 24) (j : Slot), s.Decodes b (.loop true rc bound body) →
       bound.toNat < (p.gr rc).toNat → (s.be[b]).job = some j →
       ∃ t, exec (.loop b true rc bound body) s = .next t ∧
         (t.be[b]).dec = p.loopStep bound.toNat body ∧ (t.js j).bClamp[b] = min ((s.js j).bClamp[b] + 1) 255 ∧
         ∃ r, t.hub.pending = s.hub.pending ++ [r] ∧ r.id = 0x12 ∧ r.unit = b.val) ∧
     (∀ (back : BitVec 24) (e : LoopEntry) (rest : List LoopEntry), s.Decodes b (.endl back) → p.loops = e :: rest →
       ∃ t, exec (.endl b back) s = .next t ∧
         s.DecBecomes b (if e.remaining ≤ 1 then { p with loops := rest, pc := p.pc + 1, window := p.window + 1 }
           else { p with loops := { e with remaining := e.remaining - 1, iter := e.iter + 1 } :: rest, pc := e.start
                         window := p.window + 1 }) t) ∧
     (∀ (cond : Fin 16) (offset : BitVec 24), s.Decodes b (.br cond offset) →
       ∃ t, exec (.br b cond offset) s = .next t ∧
         s.DecBecomes b { p with pc := if condHolds cond.val p.z p.n p.c p.v then p.pc + offset.toNat else p.pc + 1
                                 window := p.window + 1 } t)) ∧
  (∀ (b : Beam) (a : IntArgs) (s : State) (x y : Word), x = (s.decAt b).gr a.ra →
     y = (if a.imm then a.imm32 else (s.decAt b).gr a.rb) → s.Decodes b (.alu .cmp a) →
     ∃ t q, exec (.cmp b a) s = .next t ∧ q = (t.be[b]).dec ∧
       condHolds 1 q.z q.n q.c q.v = decide (x = y) ∧ condHolds 2 q.z q.n q.c q.v = decide (x ≠ y) ∧
       condHolds 3 q.z q.n q.c q.v = decide (y.toNat ≤ x.toNat) ∧ condHolds 4 q.z q.n q.c q.v = decide (x.toNat < y.toNat) ∧
       condHolds 9 q.z q.n q.c q.v = decide (y.toNat < x.toNat) ∧ condHolds 10 q.z q.n q.c q.v = decide (x.toNat ≤ y.toNat) ∧
       condHolds 11 q.z q.n q.c q.v = decide (y.toInt ≤ x.toInt) ∧ condHolds 12 q.z q.n q.c q.v = decide (x.toInt < y.toInt) ∧
       condHolds 13 q.z q.n q.c q.v = decide (y.toInt < x.toInt) ∧ condHolds 14 q.z q.n q.c q.v = decide (x.toInt ≤ y.toInt))

/-- LGQ, PSET and FOCUS (R102, R103, R132 to R134): LGQ takes the cell at G[RX], G[RY] or at PX, PY in the view of its
program time less 4,096 ns, with Z for energy 0; PSET sets one process scale, saturated; FOCUS sets PZ, saturated to the
head's range, and starts its ramp. -/
def Obligations.LedgerQueryAndScales : Prop :=
  ∀ (b : Beam) (s : State) (p : PState), p = s.decAt b →
    (∀ (rd rx ry : Fin 16) (useP : Bool) (w : Word), s.Decodes b (.lgq rd rx ry useP) →
      s.viewReady b p.count.time = true →
      w = s.viewRead (if useP then ⟨p.px.toInt, p.py.toInt⟩ else ⟨(p.gr rx).toInt, (p.gr ry).toInt⟩)
        (s.viewTick b p.count.time) none →
      ∃ t, exec (.lgq b rd rx ry useP) s = .next t ∧ { t with be := s.be, ldg := { t.ldg with owed := s.ldg.owed } } = s ∧
        (∀ k : Beam, k ≠ b → t.be[k] = s.be[k] ∧ t.ldg.owed[k] = s.ldg.owed[k]) ∧
        t.be[b] = { s.be[b] with
          dec := { p with
            g := p.g.set rd.val w, z := w.toNat % 2 ^ 24 = 0, n := false, c := false, v := false, pc := p.pc + 1
            window := p.window + 1 }
          read := (s.be[b]).read + 8 }) ∧
    (∀ (reg : Bool) (rs sel : Fin 16) (imm32 : Word) (v : Nat), s.Decodes b (.pset reg rs sel imm32) →
      v = min (if reg then p.gr rs else imm32).toNat 65535 →
      ∃ t, exec (.pset b reg rs sel imm32) s = .next t ∧ s.DecBecomes b { p with
        pScale := if sel = 0 then v else p.pScale, irefScale := if sel = 1 then v else p.irefScale
        fbHold := if sel = 2 then v % 2 == 1 else p.fbHold, pc := p.pc + 1, window := p.window + 1 } t) ∧
    (∀ (reg rel : Bool) (rs : Fin 16) (imm32 v : Word), s.Decodes b (.focus reg rel rs imm32) →
      v = (if rel then p.pz else 0) + (if reg then p.gr rs else imm32) →
      ∃ t, exec (.focus b reg rel rs imm32) s = .next t ∧ s.DecBecomes b { p with
        pz := i32 (s.satZ b v.toInt), zFrom := if p.focusPend then p.zFrom else p.pz, focusPend := true
        pc := p.pc + 1, window := p.window + 1 } t)

/-- A word at the decode stage that is not the one admission walked executes nothing: it is reported as BE_ILLEGAL and the
beam is asked to stop at once (R108). Named for one instruction of each group. -/
def Obligations.IllegalWordStops : Prop :=
  ∀ (b : Beam) (s : State) (c : Instr) (i : PInstr) (a : IntArgs) (w : StrokeArgs),
    ((c, i) = (.add b a, .alu .add a) ∨ (c, i) = (.mark b w, .mark w) ∨ (c, i) = (.halt b, .halt) ∨
      (c, i) = (.zrel b, .zrel) ∨ (c, i) = (.st b a, .st a)) →
    s.decoding b = true → (s.promiseOf b).isSome = true → s.walkedAt b ≠ some i →
    ∃ t r, exec c s = .next t ∧ t.hub.pending = s.hub.pending ++ [r] ∧ r.id = 0x10 ∧ r.unit = b.val ∧
      (t.be[b]).stopReq = some true ∧ (t.be[b]).dec = (s.be[b]).dec ∧ (t.be[b]).fifo = (s.be[b]).fifo ∧ t.mem = s.mem ∧
      t.regs = s.regs

/-- STROKE_START and GATE_EDGE (R25, R93, R161, R177, R178): a stroke begins on its tick without a report; a later tick is
PROMISE_MISS with its context in JOB_MISS and an at-once stop request. The gate rises at the scheduled instant plus the
lag term, not before the end of the approach, and falls not after the end of its slot; a blended chain keeps the lag term.
-/
def Obligations.StrokesAndGates : Prop :=
  (∀ (b : Beam) (s0 : Nat) (y : Stroke) (s : State), s.running b = some s0 → (s.be[b]).move = none →
      (s.be[b]).stopReq = none → (s.be[b]).fifo.find? (fun x => !x.began) = some y → s.regsWf →
      (s.tick = s0 + y.slotAt → ∃ t, exec (.strokeStart b) s = .next t ∧ (t.be[b]).lastStart = y.startAt ∧
        (∀ x ∈ (t.be[b]).fifo, x.key = y.key → x.began = true) ∧ (t.be[b]).fifo.length = (s.be[b]).fifo.length ∧
        (∀ k : Beam, k ≠ b → t.be[k] = s.be[k]) ∧ { t with be := s.be, twin := s.twin } = s) ∧
      (s0 + y.slotAt < s.tick → ∃ t r, exec (.strokeStart b) s = .next t ∧ t.hub.pending = s.hub.pending ++ [r] ∧
        r.id = 0x04 ∧ (t.be[b]).stopReq = some true ∧ t.mem = s.mem ∧ t.job = s.job ∧
        (s.rd R.JOB_MISS = 0 → t.rd R.JOB_MISS_JT = w32 y.startAt) ∧
        (s.rd R.JOB_MISS ≠ 0 → t.rd R.JOB_MISS_JT = s.rd R.JOB_MISS_JT))) ∧
  (∀ (b : Beam) (s0 : Nat) (y : Stroke) (e : Int) (s : State), s.nextEdge b = some (s0, y, e, true) →
      e ≤ 8 * ((s.tick : Int) + 500) →
      ∃ t g rest, exec (.gateEdge b) s = .next t ∧ (t.be[b]).gates = g :: rest ∧ g.tau ≤ 8 * s.lagMax b ∧
        g.on_ = max (e + g.tau) (8 * (s0 + y.slotAt + y.tBr) : Nat) ∧ g.off = none ∧
        (∀ k : Beam, k ≠ b → t.be[k] = s.be[k]) ∧ t.mem = s.mem ∧ t.job = s.job ∧ t.hub = s.hub ∧
        (∀ x ∈ (t.be[b]).fifo, x.key = y.key → x.onDone = true)) ∧
  (∀ (b : Beam) (s0 : Nat) (y : Stroke) (e : Int) (h : GateIv) (rest : List GateIv) (s : State),
      s.nextEdge b = some (s0, y, e, false) → e ≤ 8 * ((s.tick : Int) + 500) → (s.be[b]).gates = h :: rest →
      ∃ (t : State) (tau : Nat) (off : Int), exec (.gateEdge b) s = .next t ∧ (y.blendIn = true → tau = h.tau) ∧
        (y.blendIn = false → tau ≤ 8 * s.lagMax b) ∧ off = min (e + tau) (8 * (s0 + y.slotEnd) : Nat) ∧
        (t.be[b]).gates = (if off < h.on_ + 16 then rest else { h with off := some off } :: rest) ∧
        (∀ k : Beam, k ≠ b → t.be[k] = s.be[k]) ∧ t.mem = s.mem ∧ t.job = s.job ∧ t.hub = s.hub)

/-- Events, barriers and grants of a beam (R100, R123, R125, R135, R161, R188): an event due enters the FIFO of 64, with
IRQ it raises vector 6 + n; the scheduled release of a MUSTER removes it everywhere, and a participant that has not arrived
is PROMISE_MISS and is asked to stop; a ZACQ past its admitted wait is PROMISE_MISS, and one within it waits on; a read of
EV_VALUE pops the head, and gives 0 with the FIFO empty; EV_CLR empties it. -/
def Obligations.BeamEvents : Prop :=
  (∀ (b : Beam) (s0 : Nat) (v : PEvent) (rest : List PEvent) (s : State), s.beS b = some s0 → s0 + v.time ≤ s.tick →
      (s.be[b]).move = none → (s.be[b]).pendEv = v :: rest →
      ∃ t, exec (.markevRelease b) s = .next t ∧ (t.be[b]).pendEv = rest ∧
        (t.be[b]).events = (if (s.be[b]).events.length < 64 then (s.be[b]).events ++ [v] else (s.be[b]).events) ∧
        (v.irq = true → t.host.msix.getLsbD (6 + b.val) = true) ∧ (∀ k : Beam, k ≠ b → t.be[k] = s.be[k]) ∧
        t.mem = s.mem ∧ t.job = s.job ∧ t.hub = s.hub) ∧
  (∀ (id : Byte) (mask n rel s0 : Nat) (cell : Bool) (j : Slot) (s : State), s.runSlot = some j →
      s.barrierOf j id.toNat = some (n, mask, cell, rel) → (s.js j).s = some s0 → s0 + rel ≤ s.tick →
      ∃ t, exec (.musterRelease id) s = .next t ∧ t.mem = s.mem ∧ t.zone = s.zone ∧
        (∀ b : Beam, (t.be[b]).barrier = (s.be[b]).barrier.filter fun x => !(x.1 == id.toNat && x.2.2.2.1 == n)) ∧
        (t.js j).promise = ((s.js j).promise.map fun p =>
          { p with bars := p.bars.filter fun x => !(x.1 == id.toNat && x.2.1 == n) }) ∧
        { t.js j with promise := (s.js j).promise } = s.js j ∧ (∀ k : Slot, k ≠ j → t.js k = s.js k) ∧
        (∀ b : Beam, nbit mask b.val = true → (s.be[b]).dec.passedOf id.toNat ≤ n →
          (t.be[b]).stopReq = some true ∧ ∃ r ∈ t.hub.pending, r.id = 0x04) ∧
        (∀ b : Beam, nbit mask b.val = false ∨ n < (s.be[b]).dec.passedOf id.toNat →
          { t.be[b] with barrier := (s.be[b]).barrier } = s.be[b]) ∧
        ((∀ b : Beam, nbit mask b.val = true → n < (s.be[b]).dec.passedOf id.toNat) →
          { t with be := s.be, sent := s.sent, job := s.job } = s)) ∧
  (∀ (b : Beam) (s0 w : Nat) (q : ZReq) (rest : List ZReq) (pr : Promise) (s : State), s.running b = some s0 →
      (s.zone.beam[b]).reqs = q :: rest → s.promiseOf b = some pr → (b.val, q.key, w) ∈ pr.waits →
      (∀ x ∈ pr.waits, x.1 = b.val → x.2.1 = q.key → x.2.2 = w) →
      (s0 + q.time + w < s.tick → ∃ t r, exec (.zacqWaitExpiry b) s = .next t ∧ t.hub.pending = s.hub.pending ++ [r] ∧
        r.id = 0x04 ∧ (t.be[b]).stopReq = some true ∧ (∀ k : Beam, k ≠ b → t.be[k] = s.be[k]) ∧ t.zone = s.zone ∧
        t.mem = s.mem ∧ t.job = s.job) ∧
      (s.tick ≤ s0 + q.time + w → exec (.zacqWaitExpiry b) s = .next s)) ∧
  (∀ (b : Beam) (v : PEvent) (rest : List PEvent) (s : State), (s.be[b]).events = v :: rest →
      ∃ t, exec (.beEvPop b) s = .next t ∧ t.be[b] = { s.be[b] with events := rest } ∧ t.host.rdData = v.value ∧
        s.OnlyBeam b { t with host := s.host }) ∧
  (∀ (b : Beam) (s : State), (s.be[b]).events = [] →
      ∃ t, exec (.beEvPop b) s = .next t ∧ t.host.rdData = 0 ∧ { t with host := s.host } = s) ∧
  (∀ (b : Beam) (s : State), s.regsWf →
      ∃ t, exec (.evClr b) s = .next t ∧ (t.be[b]).events = [] ∧ t.rd (R.BEn_EV_STATUS b.val) = 0 ∧
        s.OnlyBeam b { t with regs := s.regs })

/-- The stop of a beam (R179 to R183): accepted, it leaves a stop record and a motion, and an at-once stop leaves no gate
open after its tick; its completion by the last beam of a HOLD makes the job HOLDING. -/
def Obligations.BeamStops : Prop :=
  (∀ (b : Beam) (a : Bool) (s0 : Nat) (s : State), (s.be[b]).stopReq = some a → (s.be[b]).move = none →
      s.beS b = some s0 → s0 ≤ s.tick → s.dev.holdReq = 0 →
      ∃ (t : State) (r : StopRec) (m : StopMove), exec (.beStop b) s = .next t ∧ (t.be[b]).stopReq = none ∧
        (t.be[b]).stop = some r ∧ (t.be[b]).move = some m ∧ r.form = (if a then 1 else 2) ∧ m.form = r.form ∧
        r.at_ = s.tick ∧
        (a = true → ∀ g ∈ (t.be[b]).gates, ∃ o, g.off = some o ∧ o ≤ 8 * (s.tick : Int) ∧ g.on_ < 8 * (s.tick : Int)) ∧
        (∀ v ∈ (t.be[b]).pendEv, v ∈ (s.be[b]).pendEv ∧ v.time ≤ s.tick - s0) ∧ (t.be[b]).barrier = [] ∧
        t.zone.active = false ∧ (∀ k : Beam, (t.zone.beam[k]).reqs = []) ∧
        (∀ k : Beam, k ≠ b → t.be[k] = s.be[k] ∧ (t.zone.beam[k]).held = s.zoneHeld k ∧ t.ld[k] = s.ld[k]) ∧
        { t with be := s.be, mem := s.mem, zone := s.zone, ld := s.ld, sent := s.sent, twin := s.twin } = s) ∧
  (∀ (b : Beam) (m : StopMove) (s : State), (s.be[b]).move = some m → m.endAt ≤ s.tick → m.done = false →
      (s.dev.holdReq = 0 → ∃ t, exec (.stopComplete b) s = .next t ∧
        (t.be[b]) = { s.be[b] with move := some { m with done := true } } ∧ s.OnlyBeam b t) ∧
      (∀ n : Slot, s.dev.holdReq ≠ 0 → s.runSlot = some n →
        (∀ k ∈ (s.js n).named, k ≠ b → ∃ x, (s.be[k]).move = some x ∧ x.done = true) →
        ∃ t, exec (.stopComplete b) s = .next t ∧ (t.js n).st = .holding ∧ (t.js n).promise = none ∧
          t.dev.holdReq = 0 ∧ t.zone.active = false ∧ t.armedSlots = [] ∧ (s.armedFresh → t.mem = s.mem)))

/-- Every *_CNT_CLR command makes the counters of its block 0 and changes no other register (R488); LDG_CNT_CLR is refused
while a ledger operation runs (R253). -/
def Obligations.CounterClears : Prop :=
  ∀ (b : Beam) (k : Engine) (p : Port) (n : Lane) (s : State), s.regsWf →
    (∃ t, exec (.pcuCntClr b) s = .next t ∧
      s.Clears [R.PCUn_CNT_PD b.val, R.PCUn_CNT_CLAMP b.val, R.PCUn_CNT_FB b.val, R.PCUn_EYE_CNT b.val] t) ∧
    (∃ t, exec (.ldCntClr b) s = .next t ∧ s.Clears [R.LDn_CNT b.val] t) ∧
    (∃ t, exec (.beCntClr b) s = .next t ∧ s.Clears [R.BEn_CNT b.val] t) ∧
    (s.ldg.op = 0 → ∃ t, exec .ldgCntClr s = .next t ∧ s.Clears [R.LDG_CNT, R.LDG_CNT2] t) ∧
    (∃ t, exec .fabCntClr s = .next t ∧ s.Clears [R.FAB_CNT, R.FAB_L0_CNT, R.FAB_L0_MAX] t) ∧
    (∃ t, exec .calCntClr s = .next t ∧ s.Clears [R.CAL_DL_CNT] t) ∧
    (∃ t, exec .fltCntClr s = .next t ∧ s.Clears [R.FLT_CNT] t) ∧
    (∃ t, exec .recCntClr s = .next t ∧ s.Clears [R.REC_CNT] t) ∧
    (∃ t, exec (.laneCntClr n) s = .next t ∧ s.Clears [R.LANEn_CNT n.val, R.LANEn_CNT2 n.val] t) ∧
    (∃ t, exec .zoneCntClr s = .next t ∧
      s.Clears ((List.range 16).flatMap fun i => [R.ZONE_Bb_CNT i, R.ZONE_Bb_WAITMAX i]) t) ∧
    (∃ t, exec (.leCntClr k) s = .next t ∧ s.Clears ((List.range 16).flatMap fun i =>
      [R.LEk_SLOTl_CNT k.val i, R.LEk_SLOTl_OVR k.val i, R.LEk_SLOTl_FE_PEAK k.val i]) t) ∧
    (∃ t, exec (.portCntClr p) s = .next t ∧ t.rd (R.PORTp_TC0 p.val) = 0 ∧ t.rd (R.PORTp_TC1 p.val) = 0 ∧
      (t.port[p]).rttMax = 0 ∧ s.OnlyRegs [R.PORTp_TC0 p.val, R.PORTp_TC1 p.val] { t with port := s.port }) ∧
    (∃ t, exec .pwrCntClr s = .next t ∧ t.rd R.PWR_DIP_CNT = 0 ∧ t.rd R.PWR_OOR_CNT = 0 ∧
      s.OnlyRegs [R.PWR_DIP_CNT, R.PWR_OOR_CNT, R.PWR_PEAK] t) ∧
    (s.ldg.op ≠ 0 → ∃ t, exec .ldgCntClr s = .next t ∧ t.rb R.LDG_STATUS 5 = true ∧ s.OnlyRegs [R.LDG_STATUS] t)

/-- Photodiodes and power words (R191, R200, R211 to R213, R220, R232, R383): a PD_SAMPLE cell in time waits for its word;
PCU_WORD forms the word of the present sample once, sends 0 in its place under the interlock latch, and hands the cell to
LPn, where it leaves 32 ticks later; a cell of the ledger cache that a visit displaces is written back to the ledger alone;
a datagram carries the next sequence number. -/
def Obligations.PowerWords : Prop :=
  (∀ (b : Beam) (f : Bool) (sidx x y : BitVec 16) (m : Nat) (s : State), s.beamOn b.val = true → s.portUp b.val = true →
      s.extSidx sidx.toNat = (m : Int) → (s.pcu[b]).next ≤ m + pdLag s.pcu[b] →
      s.tick ≤ s.sampleAt (m + pdLag s.pcu[b]) + 17 → (∀ i, (s.pcu[b]).lastIdx = some i → i < m) →
      (∀ c ∈ (s.pcu[b]).inbox, c.1 ≠ m) →
      ∃ t, exec (.pdSample b f sidx x y) s = .next t ∧
        (t.pcu[b]).inbox = (m, if f then some (x.toNat, y.toNat) else none) :: (s.pcu[b]).inbox ∧
        (∀ k : Beam, k ≠ b → t.pcu[k] = s.pcu[k]) ∧ { t with pcu := s.pcu } = s) ∧
  (∀ (b : Beam) (s : State), s.beamOn b.val = true → s.dev.state ≠ .reset → s.dev.state ≠ .boot →
      (s.pcu[b]).next ≤ s.sample → s.sampleAt s.sample + 17 ≤ s.tick →
      ∃ t, exec (.pcuWord b) s = .next t ∧ (t.pcu[b]).next = s.sample + 1 ∧
        (t.ld[b]).words.head? = some (s.sample,
          if s.ldc.latch then 0 else (s.exposed b (s.sampleAt s.sample)).getD (t.pcu[b]).word) ∧
        (s.ldOn b.val = true → s.portUp (16 + b.val) = true → ∃ x, t.sent = x :: s.sent ∧ x.port = 16 + b.val ∧
          x.msg = 2 ∧ x.f = s.twin.lead ∧ x.sidx = s.sample % 65536 ∧ x.at_ = s.tick + 32) ∧
        (∀ k : Beam, k ≠ b → t.pcu[k] = s.pcu[k] ∧ t.ld[k] = s.ld[k]) ∧ t.be = s.be ∧
        (s.ldg.cache.length ≤ 65000 → t.mem = s.mem) ∧ (s.memWf → ∀ a : Nat, a < s.ldgBase → t.rdByte a = s.rdByte a)) ∧
  (∀ (e : Fin 2) (s : State), (s.tel[e]).recs ≠ [] → 1408 ≤ s.telBytes e ∨ (s.tel[e]).openAt + 20000 ≤ s.tick →
      ∃ t, exec (.datagramSend e) s = .next t ∧
        ((s.tel[e]).egress = [] → (s.tel[e]).wireEnd ≤ s.tick → (t.tel[e]).egress = [] ∧
          ∃ x, t.sent = x :: s.sent ∧ x.port = 64 + e.val ∧ x.at_ = s.tick) ∧
        (s.tick < (s.tel[e]).wireEnd → t.sent = s.sent ∧ ∃ d, (t.tel[e]).egress = (s.tel[e]).egress ++ [d]) ∧
        (t.tel[e]).seq = ((s.tel[e]).seq + 1) % 2 ^ 32 ∧ (t.tel[e]).dropped = 0 ∧
        (t.tel[e]).recs.length ≤ (s.tel[e]).recs.length + 1 ∧ (∀ k : Fin 2, k ≠ e → t.tel[k] = s.tel[k]) ∧
        { t with sent := s.sent, tel := s.tel } = s)

/-- The pool eye (R225 to R231): the first line of a frame that fits opens it; a part without the eye counts the cell in
PORTp_TC0; a full frame is published once; a trim waits for its sample; EYE_LOSS holds TRIM, and no trim acts while it is
held; a capture is armed anew. -/
def Obligations.PoolEye : Prop :=
  (∀ (b : Beam) (sidx frame : BitVec 16) (w h : Fin 16) (d : Bool) (pix : List (BitVec 16)) (s : State),
      s.beamOn b.val = true → s.portUp b.val = true → s.eyeOn b = true → (s.pcu[b]).full = none →
      fld (s.pcu[b]).cfg[3] 23 16 = 8 * (w.val + 1) → fld (s.pcu[b]).cfg[3] 31 24 = 8 * (h.val + 1) →
      bit (s.pcu[b]).cfg[3] 8 = d → pix.length = 8 * (w.val + 1) →
      ∃ t g, exec (.imgLine b true sidx frame 0 w h d pix) s = .next t ∧ (t.pcu[b]).frame = some g ∧ g.lines = 1 ∧
        g.num % 65536 = frame.toNat ∧ g.w = 8 * (w.val + 1) ∧ g.h = 8 * (h.val + 1) ∧ g.pix = pix.map BitVec.toNat ∧
        g.firstAt = s.tick ∧ (∀ k : Beam, k ≠ b → t.pcu[k] = s.pcu[k]) ∧ t.mem = s.mem) ∧
  (∀ (b : Beam) (f d : Bool) (sidx frame : BitVec 16) (line : Fin 128) (w h : Fin 16) (pix : List (BitVec 16)) (s : State),
      s.beamOn b.val = true → s.portUp b.val = true → s.hasEye = false → s.regsWf →
      ∃ t, exec (.imgLine b f sidx frame line w h d pix) s = .next t ∧
        t.rf (R.PORTp_TC0 b.val) 15 0 = min (s.rf (R.PORTp_TC0 b.val) 15 0 + 1) 65535 ∧
        s.OnlyRegs [R.PORTp_TC0 b.val] t) ∧
  (∀ (b : Beam) (f : Frame) (s : State), (s.pcu[b]).full = some f → s.regsWf →
      ∃ t, exec (.featurePublish b) s = .next t ∧ (t.pcu[b]).full = none ∧ t.rd (R.PCUn_EYE_F5 b.val) = w32 f.mid ∧
        t.rf (R.PCUn_EYE_STATUS b.val) 31 24 = (s.rf (R.PCUn_EYE_STATUS b.val) 31 24 + 1) % 256 ∧
        (∀ k : Beam, k ≠ b → t.pcu[k] = s.pcu[k]) ∧ t.be = s.be ∧ t.job = s.job) ∧
  (∀ (b : Beam) (s : State),
      ∃ t, exec (.trimApply b) s = .next t ∧ (∀ q, q ∈ (t.pcu[b]).trimQ ↔ q ∈ (s.pcu[b]).trimQ ∧ s.sample < q.at_) ∧
        ((s.pcu[b]).hold = true ∨ (∀ q ∈ (s.pcu[b]).trimQ, s.sample < q.at_ ∨ q.epoch ≠ (s.pcu[b]).epoch) →
          (t.pcu[b]).trim = (s.pcu[b]).trim) ∧
        (∀ k : Beam, k ≠ b → t.pcu[k] = s.pcu[k]) ∧ { t with pcu := s.pcu } = s) ∧
  (∀ (b : Beam) (t0 : Nat) (s : State), (s.pcu[b]).eyeFrom = some t0 → (s.pcu[b]).eyeLost = false → (s.pcu[b]).opn = true →
      s.eyeWanted b = true → t0 + oneIfZero (fld (s.pcu[b]).cfg[5] 31 16) * 1000 ≤ s.tick → s.regsWf →
      ∃ t r, exec (.eyeLoss b) s = .next t ∧ (t.pcu[b]).hold = true ∧ (t.pcu[b]).eyeLost = true ∧
        (t.pcu[b]).trim = (s.pcu[b]).trim ∧
        t.rb (R.PCUn_EYE_STATUS b.val) 2 = true ∧ t.hub.pending = s.hub.pending ++ [r] ∧ r.id = 0x22 ∧ r.unit = b.val) ∧
  (∀ (b : Beam) (m : Nat) (s : State), s.beamOn b.val = true → s.hasEye = true → m = s.rf (R.PCUn_CAP_CTL b.val) 18 16 →
      1 ≤ m → m ≤ 4 → s.regsWf →
      ∃ t, exec (.pcuCapArm b) s = .next t ∧ t.rf (R.PCUn_CAP_STATUS b.val) 11 8 = 0 ∧ (t.pcu[b]).capOff = 0 ∧
        (t.pcu[b]).capArmed = decide (m ≠ 1) ∧ (t.pcu[b]).capFrom = (if m = 1 then some s.tick else none) ∧
        s.OnlyRegs [R.PCUn_CAP_STATUS b.val] { t with pcu := s.pcu })

/-- Power reports and source diagnosis (R206 to R210): a report in time is the LAST_RPT of its sample and the power of the
visits that hold it; where its sample is the next to be counted it ends the run of lost ones, and a lost one, or one never
received, lengthens it, with RPT_LOSS once where the run exceeds LOSS_MAX; a window ends with its result. The PWM carrier
and the MUSTER grid (R194, R195, R197 to R199): a period's on-time and off-time are each 0 or at least 2 ns; a grid cell
goes out in a sample that is a multiple of PERIOD. -/
def Obligations.PowerReports : Prop :=
  ((∀ (b : Beam) (sidx pwr : BitVec 16) (emit rdy flt : Bool) (k p : Nat) (s : State), s.ldOn b.val = true →
       s.portUp (16 + b.val) = true → s.extSidx sidx.toNat = (k : Int) → k ≤ s.sample →
       s.tick < s.sampleAt (k + s.rptWin b + 1) → s.rptHas b k = false → p = s.delivered b pwr.toNat →
       s.regsWf →
       (∃ t, exec (.pwrReport b true sidx pwr emit rdy flt) s = .next t ∧
         ((s.ld[b]).next = k → (∀ x ∈ (s.ld[b]).seen, x.1 < k) → (t.ld[b]).lost = 0 ∧ (t.ld[b]).next = k + 1) ∧
         (t.ld[b]).lastEmit = (emit || decide (fld (s.ld[b]).diag[2] 31 16 ≤ p)) ∧ t.rptHas b k = true ∧
         t.rd (R.LDn_LAST_RPT b.val) = w32 (k % 65536 * 65536 + p) ∧
         (∀ v ∈ t.ldg.visits[b], ∀ x ∈ v.samples, x.k = k → x.pwr = some p) ∧ t.job = s.job ∧ t.mem = s.mem) ∧
       ∃ t, exec (.pwrReport b false sidx pwr emit rdy flt) s = .next t ∧ t.rptHas b k = true ∧
         (∀ v ∈ t.ldg.visits[b], ∀ x ∈ v.samples, x.k = k → x.lost = true) ∧
         ((s.ld[b]).next = k → (∀ x ∈ (s.ld[b]).seen, x.1 < k) → (t.ld[b]).lost = (s.ld[b]).lost + 1 ∧
           ((s.ld[b]).lossUp = false → s.rf (R.LDn_RPT_CFG b.val) 31 16 < (s.ld[b]).lost + 1 →
             (t.ld[b]).lossUp = true ∧
             ∃ r, t.hub.pending = s.hub.pending ++ [r] ∧ r.id = 0x1A ∧ r.unit = b.val) ∧
           ((s.ld[b]).lossUp = true ∨ (s.ld[b]).lost + 1 ≤ s.rf (R.LDn_RPT_CFG b.val) 31 16 → t.hub = s.hub))) ∧
   (∀ (b : Beam) (k : Nat) (s : State), s.ldOn b.val = true → s.sample = k + s.rptWin b + 1 → s.rptHas b k = false →
       ∃ t, exec (.reportLost b) s = .next t ∧ t.rptHas b k = true ∧
         ((∀ x ∈ (s.ld[b]).seen, x.1 < k) → (t.ld[b]).lastLost = true ∧
           ((s.ld[b]).next = k → (t.ld[b]).lost = (s.ld[b]).lost + 1)) ∧ (∀ j : Beam, j ≠ b → t.ld[j] = s.ld[j]) ∧ t.be = s.be ∧ t.mem = s.mem) ∧
   (∀ (b : Beam) (s : State), s.ldOn b.val = true → ((s.ld[b]).winAt / s.diagWin b + 1) * s.diagWin b ≤ s.sample →
       s.regsWf →
       ∃ t, exec (.diagWindowEnd b) s = .next t ∧ (t.ld[b]).winAt = ((s.ld[b]).winAt / s.diagWin b + 1) * s.diagWin b ∧
         (t.ld[b]).acc = 0 ∧ (t.ld[b]).alone = false ∧ (t.ld[b]).failed = false ∧ (t.ld[b]).diag = s.diagRegs b ∧
         (s.rb (R.LDn_CTL b.val) 13 = true → (s.ld[b]).alone = true →
           t.rf (R.LDn_DIAG_STATUS b.val) 1 0 = 1 ∧ t.rf (R.LDn_DIAG_STATUS b.val) 31 24 = 0 ∧ t.hub = s.hub) ∧
         (s.rb (R.LDn_CTL b.val) 13 = true → (s.ld[b]).alone = false → (s.ld[b]).failed = false → (s.ld[b]).acc = 0 →
           t.rf (R.LDn_DIAG_STATUS b.val) 1 0 = 0 ∧ t.hub = s.hub) ∧
         (∀ j : Beam, j ≠ b → t.ld[j] = s.ld[j]) ∧ t.be = s.be ∧ t.mem = s.mem ∧ t.sent = s.sent)) ∧
  ((∀ (b : Beam) (t0 : Int) (s : State), s.pwmMode b = true → (s.running b).isSome = true → s.pwmStart b = some t0 →
       (s.ld[b]).pwm.map (·.1) ≠ some t0 →
       ∃ t on, exec (.pwmPeriodStart b) s = .next t ∧ (t.ld[b]).pwm = some (t0, (on : Int)) ∧
         on = (State.pwmOn (s.pwmPeriod b) (s.cmdAt b t0)).1 ∧ (on = 0 ∨ 16 ≤ on) ∧
         (on = 8 * s.pwmPeriod b ∨ on + 16 ≤ 8 * s.pwmPeriod b) ∧ (∀ k : Beam, k ≠ b → t.ld[k] = s.ld[k]) ∧
         s.OnlyRegs [R.LDn_CNT b.val] { t with ld := s.ld, sent := s.sent }) ∧
   (∀ (b : Beam) (s : State), s.rb R.LD_MUSTER_CFG 16 = true → s.ldOn b.val = true → s.portUp (16 + b.val) = true →
       s.sample % clampN 1000 65535 (s.rf R.LD_MUSTER_CFG 15 0) = 0 →
       (∀ x ∈ s.sent, x.port = 16 + b.val → x.msg ≠ 5) →
       ∃ t x, exec (.musterGrid b) s = .next t ∧ t.sent = x :: s.sent ∧ x.port = 16 + b.val ∧ x.msg = 5 ∧
         x.data = [0, 0] ∧ x.sidx = s.sample % 65536 ∧ x.at_ = s.sampleAt s.sample + fld (s.ld[b]).cfg[2] 10 0 ∧
         { t with sent := s.sent } = s))

/-- A gate is open only where nothing of R196 holds it low: no interlock latch, no LASER_KILL_N, both interlock inputs
high, no EMIT_OFF of its channel, the device in RUN (or IDLE for an exposure), and the lead bit held. -/
def Obligations.GateNeedsAll : Prop :=
  ∀ (s : State) (b : Beam), s.lgate b = true →
    s.ldc.latch = false ∧ s.ldc.kill = false ∧ s.ldc.a = true ∧ s.ldc.b = true ∧ s.rb (R.LDn_CTL b.val) 12 = false ∧
      s.twin.lead = true ∧ (s.dev.state = .run ∨ s.dev.state = .idle) ∧
      (s.dev.state = .run → s.gateOpen b s.tick = true) ∧
      (s.dev.state = .idle → (s.cal.src[b]).expo.isSome = true)

/-- The interlock and the kill output (R200, R202, R203, R205, R509): inputs low for 3 ns or more set the latch, close every
gate and hold the job, but in RESET stand until its release; below 1 ns the latch stays; REARM clears it only after both
inputs have been high for REL_MS; inputs that differ for more than 10 ms raise ILK_DISCREP; LASER_KILL_N keeps its first
cause. Emission off and the enable of a channel (R193, R204, R208, R518). -/
def Obligations.InterlockAndKill : Prop :=
  ((∀ (a b : Bool) (w : Nat) (s : State), (a || b) = true →
       (3000 ≤ w → s.ldc.latch = false → s.dev.state ≠ .reset → ∃ t, exec (.interlockTrip a b w) s = .next t ∧ t.ldc.latch = true ∧
         t.ldc.a = (s.ldc.a && !a) ∧ t.ldc.b = (s.ldc.b && !b) ∧ t.ldc.kill = s.ldc.kill ∧
         (∀ k : Beam, t.lgate k = false) ∧ (s.armedFresh → t.mem = s.mem) ∧ t.hub = s.hub ∧
         ∀ n : Slot, s.runSlot = some n → (t.js n).st = .holding ∧ (t.js n).promise = none ∧ t.armedSlots = []) ∧
       (w < 1000 → ∃ t, exec (.interlockTrip a b w) s = .next t ∧ t.ldc.latch = s.ldc.latch ∧ t.job = s.job ∧
         t.be = s.be ∧ t.regs = s.regs ∧ ∀ x ∈ t.sent, x ∈ s.sent ∨ x.msg = 3) ∧
       (s.dev.state = .reset → ∃ t, exec (.interlockTrip a b w) s = .next t ∧ t.ldc.latch = s.ldc.latch ∧
         t.ldc.a = (s.ldc.a && !a) ∧ t.ldc.b = (s.ldc.b && !b) ∧ t.job = s.job ∧ t.regs = s.regs)) ∧
   (∀ (b : Bool) (s : State), (if b then s.ldc.b else s.ldc.a) = false →
       ∃ t, exec (.ilkInputRise b) s = .next t ∧ (if b then t.ldc.b else t.ldc.a) = true ∧
         (if b then t.ldc.a else t.ldc.b) = (if b then s.ldc.a else s.ldc.b) ∧ t.ldc.latch = s.ldc.latch ∧
         t.ldc.highAt = s.tick ∧ { t with ldc := s.ldc, ld := s.ld, sent := s.sent } = s) ∧
   (∀ (t0 : Nat) (s : State), s.ldc.diffAt = some t0 → s.ldc.diffRaised = false → t0 + 10000000 < s.tick →
       ∃ t r, exec .ilkDiscrep s = .next t ∧ t.ldc.diffRaised = true ∧ t.hub.pending = s.hub.pending ++ [r] ∧
         r.id = 0x1C ∧ t.ldc.latch = s.ldc.latch ∧ { t with ldc := s.ldc, hub := s.hub } = s) ∧
   (∀ s : State, s.ldc.latch = true → s.regsWf →
       (s.ldc.a = true → s.ldc.b = true → s.ldc.highAt + oneIfZero (s.rf R.LD_ILK_CTL 15 8) * 1000000 ≤ s.tick →
         ∃ t, exec .rearm s = .next t ∧ t.ldc.latch = false ∧ t.job = s.job ∧ t.mem = s.mem ∧ t.regs = s.regs) ∧
       ((s.ldc.a && s.ldc.b) = false ∨ s.tick < s.ldc.highAt + oneIfZero (s.rf R.LD_ILK_CTL 15 8) * 1000000 →
         ∃ t, exec .rearm s = .next t ∧ t.ldc = s.ldc ∧ t.rb R.LD_ILK_STATUS 4 = true ∧
           s.OnlyRegs [R.LD_ILK_STATUS] t)) ∧
   (∀ s : State, ∃ t, exec .killForce s = .next t ∧ t.ldc.kill = true ∧
       t.ldc.cause = (if s.ldc.kill then s.ldc.cause else 5) ∧ (∀ k : Beam, t.lgate k = false) ∧ t.job = s.job ∧
       t.mem = s.mem ∧ t.regs = s.regs ∧ t.dev = s.dev)) ∧
  ((∀ (b : Beam) (s : State), s.ldOn b.val = true → s.portUp (16 + b.val) = true → (s.ld[b]).offNext ≤ s.tick →
       s.offCause b.val = true ∨ (s.ld[b]).relLeft ≠ 0 →
       ∃ t x, exec (.emitOffRepeat b) s = .next t ∧ t.sent = x :: s.sent ∧ x.port = 16 + b.val ∧ x.msg = 4 ∧
         x.data = [if s.offCause b.val then 1 else 0] ∧ (t.ld[b]).offNext = s.tick + 1000 ∧
         (t.ld[b]).relLeft = (if s.offCause b.val then (s.ld[b]).relLeft else (s.ld[b]).relLeft - 1) ∧
         (∀ k : Beam, k ≠ b → t.ld[k] = s.ld[k]) ∧ { t with sent := s.sent, ld := s.ld } = s) ∧
   (∀ (b : Beam) (v : Bool) (s : State), s.beamOn b.val = true → v ≠ s.rb (R.LDn_CTL b.val) 12 → s.regsWf →
       (s.naming b (fun j => j.st = .running) = false →
         ∃ t, exec (.emitOffWrite b v) s = .next t ∧ t.rb (R.LDn_CTL b.val) 12 = v ∧ (v = true → t.lgate b = false) ∧
           s.OnlyRegs [R.LDn_CTL b.val] { t with ld := s.ld, sent := s.sent }) ∧
       (s.naming b (fun j => j.st = .running) = true →
         ∃ t, exec (.emitOffWrite b v) s = .next t ∧ t.rb (R.LDn_CTL b.val) 12 = s.rb (R.LDn_CTL b.val) 12 ∧
           t.rb (R.LDn_STATUS b.val) 5 = true ∧ s.OnlyRegs [R.LDn_STATUS b.val] t)) ∧
   (∀ (b : Beam) (s : State), s.beamOn b.val = true → s.regsWf →
       (s.rb (R.LDn_CTL b.val) 0 = false →
         ∃ t, exec (.ldEnable b true) s = .next t ∧ t.rb (R.LDn_CTL b.val) 0 = true ∧ (t.ld[b]).stuck = 0 ∧
           (t.ld[b]).diag = s.diagRegs b ∧ (t.ld[b]).winAt = s.sample ∧ t.mem = s.mem ∧ t.job = s.job) ∧
       (s.rb (R.LDn_CTL b.val) 0 = true → s.naming b JobSlot.busy = true →
         ∃ t, exec (.ldEnable b false) s = .next t ∧ t.rb (R.LDn_CTL b.val) 0 = true ∧
           t.rb (R.LDn_STATUS b.val) 6 = true ∧ s.OnlyRegs [R.LDn_STATUS b.val] t) ∧
       (s.rb (R.LDn_CTL b.val) 0 = true → s.naming b JobSlot.busy = false →
         ∃ t, exec (.ldEnable b false) s = .next t ∧ t.rb (R.LDn_CTL b.val) 0 = false ∧ t.mem = s.mem ∧ t.job = s.job)))

/-- The commit of a visit (R243, R244, R246): a visit that has ended and whose reports are all known leaves the beam's list,
and its nine deposits, of the kernel cells inside the grid, are kept in kernel order; other beams' visits stay. One that a
higher beam's commit of the same tick has overtaken waits. -/
def Obligations.VisitCommits : Prop :=
  ∀ (b : Beam) (v : Visit) (rest : List Visit) (s : State), s.ldg.visits[b] = v :: rest → v.open_ = false →
    (∀ x ∈ v.samples, x.pwr.isSome = true ∨ x.lost = true) →
    (s.commitBarred b = true → exec (.visitCommit b) s = .next s) ∧
    (s.commitBarred b = false → ∃ t c, exec (.visitCommit b) s = .next t ∧ t.ldg.visits[b] = rest ∧
      t.ldg.changes.getLast? = some (.visit c) ∧ c.at_ = s.tick ∧ c.beam = b.val ∧
      c.suspect = (v.samples.any (·.lost) || v.susp) ∧ c.lit = v.samples.any (·.opn) ∧
      c.deps.map (fun d => (d.cell, d.d)) = (s.kernelCells v.i v.j).filterMap (fun kc => kc.2.map fun ix =>
        (ix, s.depOf b (State.sumD v.samples) kc.1)) ∧
      (∀ k : Beam, k ≠ b → t.ldg.visits[k] = s.ldg.visits[k]) ∧ t.be = s.be ∧ t.ld = s.ld)

/-- The sweep keeps what any read of the grid gives: a step visits one cell, and the energy of every cell at the present
ledger time is what it was (R239, R252). K_L is at most 1. It pauses while a host operation runs, and from step 4 of ROPE_UP
to its end (R252, R397). -/
def Obligations.SweepKeepsEnergies : Prop :=
  (∀ s : State, s.ldg.op ≠ 0 ∨ (s.twin.pair = 1 ∧ 4 ≤ s.twin.step) → exec .sweepStep s = .next s) ∧
  ∀ s : State, s.ldg.op = 0 → ¬(s.twin.pair = 1 ∧ 4 ≤ s.twin.step) → s.memWf → s.ldgKl ≤ 65536 →
    ∃ t, exec .sweepStep s = .next t ∧
      (∀ ix : Nat, cellEnergy s.ldgPar (t.cellWord ix) s.lt = cellEnergy s.ldgPar (s.cellWord ix) s.lt) ∧
      (∀ ix : Nat, ix ≠ s.ldg.sweep → t.cellWord ix = s.cellWord ix) ∧
      t.ldg.sweep = (if s.ldg.sweep + 1 < s.ldgNx * s.ldgNy then s.ldg.sweep + 1 else 0) ∧ t.job = s.job ∧ t.be = s.be

/-- The host operations of the ledger (R250, R253): one that finds another in progress is refused; FLUSH writes every
modified entry of the cache to its cell and changes no cell; CLEAR makes every cell 0; APPLY puts a valid shadow geometry
into service and clears; IMPORT copies the cells at LDG_IMP; OP_DONE starts a new pass. -/
def Obligations.LedgerOperations : Prop :=
  (∀ (c : Instr) (s : State), c = .ldgFlush ∨ c = .ldgClear ∨ c = .ldgApply ∨ c = .ldgImport → s.ldg.op ≠ 0 →
      s.regsWf → ∃ t, exec c s = .next t ∧ t.rb R.LDG_STATUS 5 = true ∧ s.OnlyRegs [R.LDG_STATUS] t) ∧
  (∀ s : State, s.ldg.op = 0 → s.memWf → (s.ldg.cache.map (·.cell)).Nodup →
      ∃ t, exec .ldgFlush s = .next t ∧ t.ldg.op = 1 ∧ (∀ ix : Nat, t.cellWord ix = s.cellWord ix) ∧
        (∀ e ∈ s.ldg.cache, e.dirty = true → t.rd64 (s.ldgBase + 8 * e.cell) = e.word) ∧
        (∀ e ∈ t.ldg.cache, e.dirty = false) ∧
        (∀ a : Nat, a < s.ldgBase → t.rdByte a = s.rdByte a) ∧ { t with mem := s.mem, ldg := s.ldg } = s) ∧
  (∀ s : State, s.ldg.op = 0 → s.slotsQuiet = true →
      ∃ t, exec .ldgClear s = .next t ∧ t.ldg.op = 2 ∧ (∀ ix : Nat, ix < s.ldgNx * s.ldgNy → t.cellWord ix = 0) ∧
        (∀ a : Nat, a < s.ldgBase ∨ s.ldgBase + 8 * (s.ldgNx * s.ldgNy) ≤ a → t.rdByte a = s.rdByte a) ∧
        { t with mem := s.mem, ldg := s.ldg } = s) ∧
  (∀ s : State, s.ldg.op = 0 → s.slotsQuiet = true → s.regsWf →
      (s.geoOk = true → ∃ t, exec .ldgApply s = .next t ∧ t.ldgNx = s.rf R.LDG_GRID 13 0 ∧
        t.ldgNy = s.rf R.LDG_GRID 29 16 ∧
        t.ldgBase = (s.rd R.LDG_BASE_LO).toNat + (s.rd R.LDG_BASE_HI).toNat * 2 ^ 32 ∧
        (∀ ix : Nat, ix < t.ldgNx * t.ldgNy → t.cellWord ix = 0) ∧ t.regs = s.regs ∧ t.job = s.job) ∧
      (s.geoOk = false → ∃ t, exec .ldgApply s = .next t ∧ t.ldg.geo = s.ldg.geo ∧ t.rb R.LDG_STATUS 4 = true ∧
        t.mem = s.mem ∧ t.job = s.job)) ∧
  (∀ (src : Nat) (s : State), s.ldg.op = 0 → s.slotsQuiet = true → s.memWf →
      src = (s.rd R.LDG_IMP_LO).toNat + (s.rd R.LDG_IMP_HI).toNat * 2 ^ 32 →
      ∃ t, exec .ldgImport s = .next t ∧
        (∀ ix : Nat, ix < s.ldgNx * s.ldgNy → t.cellWord ix = s.rd64 (src + 8 * ix)) ∧
        (∀ a : Nat, a < s.ldgBase ∨ s.ldgBase + 8 * (s.ldgNx * s.ldgNy) ≤ a → t.rdByte a = s.rdByte a) ∧
        { t with mem := s.mem, ldg := s.ldg } = s) ∧
  (∀ s : State, s.ldg.op ≠ 0 → ∃ t, exec .ldgOpDone s = .next t ∧ t.ldg.op = 0 ∧ t.ldg.sweep = 0 ∧
      t.ldg.sweepFrom = s.tick ∧ t.ldg.sweepLate = false ∧ t.ldg.cache = s.ldg.cache ∧ t.mem = s.mem ∧ t.regs = s.regs)

/-- The host query of the ledger (R241, R255): GO keeps the position and the tick; DONE waits until the view of that tick is
final, and gives the cell in it and its stored word. Events of the ledger (R251, R252): a pass longer than 2^21 units of 64 µs raises LDG_SWEEP_LATE
once; a cell with an uncorrectable error becomes full and suspect. -/
def Obligations.LedgerQuery : Prop :=
  (∀ s : State, s.regsWf →
     (∃ t, exec .ldgQryGo s = .next t ∧ t.rb R.LDG_QRY_CTL 8 = false ∧ t.ldg.qry = true ∧
       t.ldg.qryAt = some ((s.rd R.LDG_QRY_X).toInt, (s.rd R.LDG_QRY_Y).toInt, s.tick) ∧
       s.OnlyRegs [R.LDG_QRY_CTL] { t with ldg := s.ldg }) ∧
     ∀ (x y : Int) (t0 ix : Nat), s.ldg.qryAt = some (x, y, t0) →
       (s.viewFinal t0 = false → exec .ldgQryDone s = .next s) ∧
       (s.viewFinal t0 = true → s.ldgIx (s.ldgIJ ⟨x, y⟩).1 (s.ldgIJ ⟨x, y⟩).2 = some ix →
       ∃ t, exec .ldgQryDone s = .next t ∧ t.rd R.LDG_QRY_RES = s.viewRead ⟨x, y⟩ t0 none ∧
         t.rd R.LDG_QRY_RAW_LO = w32 (s.cellWord ix).toNat ∧ t.rd R.LDG_QRY_RAW_HI = w32 ((s.cellWord ix).toNat / 2 ^ 32) ∧
         t.rb R.LDG_QRY_CTL 8 = true ∧ t.ldg.qry = false ∧
         s.OnlyRegs [R.LDG_QRY_RES, R.LDG_QRY_RAW_LO, R.LDG_QRY_RAW_HI, R.LDG_QRY_CTL] { t with ldg := s.ldg })) ∧
  ((∀ s : State, s.tick ≤ s.ldg.sweepFrom + 2 ^ 21 * 64000 → exec .sweepLate s = .next s) ∧
   (∀ s : State, s.ldg.sweepFrom + 2 ^ 21 * 64000 < s.tick → s.regsWf →
       (s.ldg.sweepLate = false → ∃ t r, exec .sweepLate s = .next t ∧ t.ldg.sweepLate = true ∧
         t.rb R.LDG_STATUS 6 = true ∧ t.hub.pending = s.hub.pending ++ [r] ∧ r.id = 0x2C ∧
         s.OnlyRegs [R.LDG_STATUS] { t with hub := s.hub, ldg := s.ldg }) ∧
       (s.ldg.sweepLate = true → exec .sweepLate s = .next s)) ∧
   (∀ (b : Beam) (c : BitVec 26) (s : State), s.memWf →
       ∃ t r, exec (.ldgEcc b c) s = .next t ∧ cE (t.cellWord c.toNat) = 0xFFFFFF ∧
         cSuspect (t.cellWord c.toNat) = true ∧ cT (t.cellWord c.toNat) = s.lt ∧
         cB (t.cellWord c.toNat) = cB (s.cellWord c.toNat) ∧
         (∀ ix : Nat, ix ≠ c.toNat → t.cellWord ix = s.cellWord ix) ∧ t.hub.pending = s.hub.pending ++ [r] ∧
         r.id = 0x2B ∧ r.unit = b.val))

/-- A round of the zone arbiter never grants a set that conflicts with a set held (R262 to R266), and a round not yet due
changes nothing; at the end of a quota window the counts return to 0 and the masks are lifted (R269). -/
def Obligations.ZonesStayApart : Prop :=
  (∀ (s0 : Nat) (s : State), s.zoneS = some s0 → s0 + 256 * s.zone.round ≤ s.tick → s.zoneApart →
      ∃ t, exec .zoneRound s = .next t ∧ t.zoneApart ∧ t.zone.round = s.zone.round + 1 ∧
        t.zone.sets = s.zone.sets ∧ t.be = s.be ∧ t.job = s.job ∧ t.mem = s.mem) ∧
  (∀ (s0 : Nat) (s : State), s.zoneS = some s0 → s.tick < s0 + 256 * s.zone.round → exec .zoneRound s = .next s) ∧
  (∀ (s0 : Nat) (s : State), s.zoneS = some s0 → s0 ≤ s.tick →
      s.zone.window < (s.tick - s0) / (s.zoneCfg.win * 1000) →
      ∃ t, exec .quotaWindowEnd s = .next t ∧ t.zone.window = (s.tick - s0) / (s.zoneCfg.win * 1000) ∧
        (∀ b : Beam, t.zone.beam[b] = { s.zone.beam[b] with quota := 0, masked := false }) ∧
        { t with zone := s.zone } = s)

/-- The memory fabric (R276 to R284, R482): a 64 ns slot issues its owner's transfer, which leaves no best-effort burst in
flight, or is lent, and slot 0 follows a table swapped in on its tick; the oldest transfer completes first; an uncorrectable error of a fetch stops its beam; a preemption is
counted; a swap waits for a round boundary, and enters service only where every entry is valid. -/
def Obligations.FabricCommands : Prop :=
  (∀ (e : Byte) (s : State), s.tick % 64 = 0 → s.fab.slotAt ≠ some s.tick → s.dev.state ≠ .reset →
      s.swapDue = false → e = (vget? s.fab.live (s.tick / 64 % 64)).getD 0 → (∀ x ∈ s.fab.flight, x.at_ < s.tick) →
      ∃ t, exec .fabSlot s = .next t ∧ t.fab.slotAt = some s.tick ∧ t.fab.live = s.fab.live ∧
        (∀ x ∈ t.fab.flight, x ∈ s.fab.flight ∨
          (x.at_ = s.tick ∧ (s.entStream e = some x.kind ∨ ∃ r, x.kind = .bestEffort r))) ∧
        (∀ k, s.entStream e = some k → ⟨k, s.tick⟩ ∈ t.fab.flight → ∀ x ∈ t.fab.flight, ∀ r, x.kind ≠ .bestEffort r) ∧
        t.mem = s.mem ∧ t.be = s.be ∧ t.job = s.job) ∧
  (∀ s : State, s.tick % 64 = 0 → s.fab.slotAt ≠ some s.tick → s.dev.state ≠ .reset → s.swapDue = true →
      exec .fabSlot s = exec .fabSlot s.swapDo) ∧
  (∀ (n : Nat) (s : State), n = s.tick / (oneIfZero (s.rf R.FAB_QUOTA 31 16) * 1000) → s.fab.window ≠ n →
      ∃ t, exec .fabQuotaWindowEnd s = .next t ∧ t.fab.window = n ∧
        (∀ r : Fin 16, t.fab.be[r] = { s.fab.be[r] with wins := 0, masked := false }) ∧ { t with fab := s.fab } = s) ∧
  (∀ (c : Fin 2) (s : State), c.val < s.ddrChans → s.regsWf →
      (∃ t, exec (.crookPreempt c false) s = .next t ∧
        t.rf R.FAB_L0_CNT (16 * c.val + 15) (16 * c.val) =
          min (s.rf R.FAB_L0_CNT (16 * c.val + 15) (16 * c.val) + 1) 65535 ∧ s.OnlyRegs [R.FAB_L0_CNT] t) ∧
      (∀ t0 : Nat, s.fab.dbgAt[c] = some t0 → s.tick < t0 + 1000 → exec (.crookPreempt c true) s = .next s)) ∧
  (∀ (x : Xfer) (rest : List Xfer) (n : Beam) (s : State), s.fab.flight = x :: rest →
      (∀ e : XferEnd, ∃ t, exec (.transferComplete e) s = .next t ∧ t.fab.flight = rest ∧ t.fab.live = s.fab.live ∧
        t.mem = s.mem ∧ t.job = s.job) ∧
      (x.kind = .fetch n.val → ∃ t r, exec (.transferComplete .uncorrectable) s = .next t ∧
        t.hub.pending = s.hub.pending ++ [r] ∧ r.id = 0x11 ∧ r.unit = n.val ∧ (t.be[n]).stopReq = some true)) ∧
  (∀ s : State, (s.fab.swapPend = true → exec .swap s = .next s) ∧
      (s.fab.swapPend = false → ∃ t, exec .swap s = .next t ∧ t.fab.swapPend = true ∧ t.fab.swapAt = s.tick ∧
        t.fab.live = s.fab.live ∧ { t with fab := s.fab } = s)) ∧
  (∀ s : State, s.fab.swapPend = true → s.fab.swapAt < s.tick → s.tick % 4096 = 0 → s.regsWf →
      (∃ t, exec .swapApply s = .next t ∧ t.fab.swapPend = false ∧
        ((t.fab.live = s.shadowIn ∧ t.rb R.FAB_STATUS 1 = true) ∨ (t.fab.live = s.fab.live ∧ t.rb R.FAB_STATUS 2 = true)) ∧
        s.OnlyRegs [R.FAB_STATUS] { t with fab := s.fab }) ∧
      ((∃ e ∈ s.shadowIn.toList, entRes e = true ∧ ownerKind (entOwner e) = none) →
        ∃ t, exec .swapApply s = .next t ∧ t.fab.live = s.fab.live ∧ t.rb R.FAB_STATUS 3 = true) ∧
      ((∀ e ∈ s.shadowIn.toList, entRes e = true → ownerKind (entOwner e) ≠ none) →
        (∀ n : Slot, (s.js n).st ≠ .armed ∧ (s.js n).st ≠ .running) →
        ∃ t, exec .swapApply s = .next t ∧ t.fab.live = s.shadowIn))

/-- The Pellin-L instructions (R293 to R295): accumulators saturate at 64 bits, products and stores round to nearest with
ties away from zero, stores saturate at 32 bits, CLP clamps between K and the next coefficient, SEL chooses by C. Each
changes its accumulator or its destination alone. -/
def Obligations.LawInstructions : Prop :=
  ∀ (k : Engine) (l : LSlot) (a : Fin 4) (sh : Fin 32) (d x y z : Byte) (n : Fin 64) (neg : Bool) (s : State) (c : LawCtx),
    c = (s.ls k l).ctx →
    (s.LawRuns k l (.clr a) → ∃ t, exec (.clr k l a) s = .next t ∧ s.AccBecomes k l a 0 t) ∧
    (s.LawRuns k l (.lda a sh x) → ∃ t, exec (.lda k l a sh x) s = .next t ∧
      s.AccBecomes k l a (c.get x * 2 ^ sh.val) t) ∧
    (s.LawRuns k l (.mac a x n) → ∃ t, exec (.mac k l a x n) s = .next t ∧
      s.AccBecomes k l a (satS 64 (c.acc[a] + rshr (c.get x * (s.coef k l n.val).1) (s.coef k l n.val).2)) t) ∧
    (s.LawRuns k l (.msu a x n) → ∃ t, exec (.msu k l a x n) s = .next t ∧
      s.AccBecomes k l a (satS 64 (c.acc[a] - rshr (c.get x * (s.coef k l n.val).1) (s.coef k l n.val).2)) t) ∧
    (s.LawRuns k l (.ada a neg sh x) → ∃ t, exec (.ada k l a neg sh x) s = .next t ∧
      s.AccBecomes k l a (satS 64 (c.acc[a] + (if neg then -1 else 1) * (c.get x * 2 ^ sh.val))) t) ∧
    (s.LawRuns k l (.sta a sh d) → ∃ t, exec (.sta k l a sh d) s = .next t ∧
      s.VBecomes k l d (satS 32 (rshr c.acc[a] sh.val)) t) ∧
    (s.LawRuns k l (.clp d x n) → ∃ t, exec (.clp k l d x n) s = .next t ∧
      s.VBecomes k l d (min (s.coef k l n.val).1 (max (s.coef k l (n.val + 1)).1 (c.get x))) t) ∧
    (s.LawRuns k l (.sel d x y z) → ∃ t, exec (.sel k l d x y z) s = .next t ∧
      s.VBecomes k l d (if c.get z ≠ 0 then c.get x else c.get y) t) ∧
    (s.LawRuns k l (.mov d x) → ∃ t, exec (.lawMov k l d x) s = .next t ∧ s.VBecomes k l d (c.get x) t) ∧
    (s.LawRuns k l .halt → ∃ t, exec (.lawHalt k l) s = .next t ∧ s.OnlySlot k l t ∧
      t.ls k l = { s.ls k l with ctx := { c with done := true } })

/-- The commands of a loop-engine slot (R285, R286, R289, R298 to R302): LOAD takes a valid image, ENABLE starts a LOADED
slot with a sound schedule and no axis bound twice, DISABLE makes it LOADED again, COEF_SWAP puts the shadow coefficients
into service. A slot of a job's beam or axis refuses with code 4, and an unbonded engine ignores them all. The update of a
slot and what stands around it (R287 to R291, R301, R302, R309, R312, R313): an update is carried out once in its frame and
hands its command to its port, 0 in LOADED; a feedback cell in time waits for the update of its index; once in a fabric
round 64 bytes of code are compared, and a word that differs from the master copy puts the slot into SAFE, which stops its
beams on that tick; a trace is armed anew and triggered. -/
def Obligations.LoopSlotCommands : Prop :=
  (∀ (k : Engine) (l : LSlot) (s : State), s.regsWf → s.memWf →
     (s.leOn k.val = false → exec (.load k l) s = .next s ∧ exec (.enable k l) s = .next s ∧
       exec (.disable k l) s = .next s ∧ exec (.coefSwap k l) s = .next s) ∧
     (s.leOn k.val = true → s.leInUse k l = true → ∀ c, c = .load k l ∨ c = .coefSwap k l →
       ∃ t, exec c s = .next t ∧ t.rf (R.LEk_CMD_RESULT k.val) 7 0 = 4 ∧ t.le = s.le ∧ t.mem = s.mem) ∧
     (∀ a : Nat, s.leOn k.val = true → s.leInUse k l = false → (s.ls k l).st = .off ∨ (s.ls k l).st = .loaded →
       a = (s.rd (R.LEk_IMG_HI k.val)).toNat * 2 ^ 32 + (s.rd (R.LEk_IMG_LO k.val)).toNat →
       (s.lawCheck a = 0 → ∃ t, exec (.load k l) s = .next t ∧ (t.ls k l).st = .loaded ∧ (t.ls k l).master = a ∧
         (t.ls k l).cycles = s.rdN (a + 24) 4 ∧ (t.ls k l).words = s.rdN (a + 8) 4 ∧
         t.rdBytes (State.lawBase k.val l.val) (8 * s.rdN (a + 8) 4) = s.rdBytes (a + 64) (8 * s.rdN (a + 8) 4) ∧
         (∀ q : Nat, q < State.lawBase k.val l.val ∨ State.lawBase k.val l.val + 0x4000 ≤ q → t.rdByte q = s.rdByte q) ∧
         t.rf (R.LEk_CMD_RESULT k.val) 7 0 = 0 ∧ t.be = s.be ∧ t.job = s.job) ∧
       (s.lawCheck a ≠ 0 → ∃ t, exec (.load k l) s = .next t ∧ t.le = s.le ∧ t.mem = s.mem ∧
         t.rf (R.LEk_CMD_RESULT k.val) 7 0 = 2 ∧ t.rf (R.LEk_CMD_RESULT k.val) 15 8 = s.lawCheck a)) ∧
     (s.leOn k.val = true → (s.ls k l).st = .loaded → s.leSchedOk k l = true → s.leTwice k l = false →
       ∃ t, exec (.enable k l) s = .next t ∧ (t.ls k l).st = .start ∧ (t.ls k l).first = true ∧
         (t.ls k l).lossRun = 0 ∧ t.rf (R.LEk_CMD_RESULT k.val) 7 0 = 0 ∧ t.mem = s.mem ∧ t.be = s.be) ∧
     (s.leOn k.val = true → s.leInUse k l = false ∨ (s.ls k l).st = .safe →
       (s.ls k l).st = .start ∨ (s.ls k l).st = .ramp ∨ (s.ls k l).st = .run ∨ (s.ls k l).st = .safe →
       ∃ t, exec (.disable k l) s = .next t ∧ (t.ls k l).st = .loaded ∧ t.rf (R.LEk_CMD_RESULT k.val) 7 0 = 0 ∧
         t.mem = s.mem ∧ t.be = s.be) ∧
     (s.leOn k.val = true → s.leInUse k l = false →
       (∀ i, i < 64 → s.rdN (State.lawShadow k.val l.val + 8 * i + 4) 4 ≤ 31) →
       ∃ t, exec (.coefSwap k l) s = .next t ∧
         t.rdBytes (State.lawCoef k.val l.val) 512 = s.rdBytes (State.lawShadow k.val l.val) 512 ∧
         (∀ q : Nat, q < State.lawCoef k.val l.val ∨ State.lawCoef k.val l.val + 512 ≤ q → t.rdByte q = s.rdByte q) ∧
         t.rf (R.LEk_CMD_RESULT k.val) 7 0 = 0 ∧ t.le = s.le ∧ t.be = s.be)) ∧
  ((∀ (k : Engine) (l : LSlot) (retry p : Nat) (s : State), s.leOn k.val = true → (s.ls k l).st ≠ .off →
       s.leRuns k l s.leFrame = true → (s.ls k l).ran ≠ some s.leFrame →
       s.leFrameAt s.leFrame + s.leOfs k l + (s.ls k l).total ≤ s.tick →
       p = (if s.leMach k l then 33 else (s.lePort k l).val) → s.portUp p = true →
       ∃ t x rest, exec (.leUpdate k l retry) s = .next t ∧ (t.ls k l).ran = some s.leFrame ∧ t.sent = x :: rest ∧
         x.port = p ∧ x.sidx = 50 * s.leFrame % 65536 ∧
         ((s.ls k l).st = .loaded → x.data = [0, 0, 0] ∧ (t.ls k l).st = .loaded ∧ t.hub = s.hub) ∧
         ((s.ls k l).st = .loaded ∨ (s.ls k l).st = .safe → rest = s.sent) ∧
         (∀ m : LSlot, m ≠ l → t.ls k m = s.ls k m) ∧ (s.dev.holdReq = 0 → t.job = s.job)) ∧
   (∀ (k : Engine) (l : LSlot) (retry : Nat) (s : State), (s.ls k l).ran = some s.leFrame →
       exec (.leUpdate k l retry) s = .next s) ∧
   (∀ (p : Port) (ax : Fin 16) (sidx cur : BitVec 16) (pos aux : Word) (k : Engine) (l : LSlot) (j : Nat) (s : State),
       s.portUp p.val = true → s.extSidx sidx.toNat = (j : Int) → s.leOn k.val = true →
       (s.ls k l).st = .start ∨ (s.ls k l).st = .ramp ∨ (s.ls k l).st = .run →
       (if s.leMach k l then p.val = 33 ∧ s.lePort k l = ax else p.val = (s.lePort k l).val ∧ s.leAxis k l = ax.val) →
       (j + s.leLag k l) % 50 = 0 → s.leRuns k l ((j + s.leLag k l) / 50) = true →
       s.tick ≤ s.leFrameAt ((j + s.leLag k l) / 50) + s.leOfs k l →
       ∃ t, exec (.axisFb p ax true sidx pos cur aux) s = .next t ∧
         (j, pos.toInt, cur.toInt, aux.toInt) ∈ (t.ls k l).inbox ∧ (t.ls k l).st = (s.ls k l).st ∧ t.be = s.be ∧
         t.mem = s.mem ∧ t.sent = s.sent) ∧
   (∀ (k : Engine) (s : State), s.leReads k.val = false → exec (.leImgCheck k) s = .next s) ∧
   (∀ (k : Engine) (l : LSlot) (n c : Nat) (s : State), s.leReads k.val = true →
       (s.le[k]).check = 128 * l.val + n → n < 128 → (s.ls k l).st ≠ .off → n * 8 < (s.ls k l).words →
       c = min 64 (8 * (s.ls k l).words - 64 * n) →
       (s.rdBytes (State.lawBase k.val l.val + 64 * n) c = s.rdBytes ((s.ls k l).master + 64 + 64 * n) c →
         ∃ t, exec (.leImgCheck k) s = .next t ∧ (t.le[k]).check = (128 * l.val + n + 1) % 2048 ∧
           (t.le[k]).slot = (s.le[k]).slot ∧ { t with le := s.le } = s) ∧
       (s.rdBytes (State.lawBase k.val l.val + 64 * n) c ≠ s.rdBytes ((s.ls k l).master + 64 + 64 * n) c →
         ∃ t r, exec (.leImgCheck k) s = .next t ∧ t.hub.pending = s.hub.pending ++ [r] ∧ r.id = 0x35 ∧
           r.unit = k.val ∧ r.detail = w32 (16 * k.val + l.val) ∧
           ((s.ls k l).st ≠ .ramp → (s.ls k l).st ≠ .run → t.mem = s.mem ∧ (t.ls k l).st = (s.ls k l).st) ∧
           ((s.ls k l).st = .ramp ∨ (s.ls k l).st = .run → (t.ls k l).st = .safe ∧ (t.ls k l).cause = 4 ∧
             (s.dev.holdReq = 0 → ∀ b ∈ s.leBeams k l, ∀ s0 : Nat, s.beS b = some s0 → s0 ≤ s.tick →
               (s.be[b]).move = none → ∃ q, (t.be[b]).stop = some q ∧ q.form = 1 ∧ q.at_ = s.tick)))) ∧
   (∀ (k : Engine) (m : Nat) (s : State), m = s.rf (R.LEk_TR_CTL k.val) 6 4 → s.leOn k.val = true → 1 ≤ m → m ≤ 6 →
       s.regsWf →
       ∃ t, exec (.trArm k) s = .next t ∧ (t.le[k]).armed = true ∧ (t.le[k]).trig = false ∧
         t.rb (R.LEk_TR_STATUS k.val) 2 = false ∧ (t.le[k]).slot = (s.le[k]).slot ∧
         (∀ c : Fin 4, ((t.le[k]).tr[c]).on_ = s.rb (R.LEk_TRc_SEL k.val c.val) 31 ∧ ((t.le[k]).tr[c]).div = 0 ∧
           ((t.le[k]).tr[c]).next = ((s.le[k]).tr[c]).next) ∧ s.OnlyRegs [R.LEk_TR_STATUS k.val] { t with le := s.le }) ∧
   (∀ (k : Engine) (s : State), (s.le[k]).armed = true → (s.le[k]).trig = false → s.rf (R.LEk_TR_CTL k.val) 6 4 = 1 →
       ∃ t, exec (.trTrig k) s = .next t ∧ (t.le[k]).trig = true ∧ (t.le[k]).slot = (s.le[k]).slot ∧
         (t.le[k]).tr = (s.le[k]).tr ∧ t.mem = s.mem ∧ t.be = s.be))

/-- The host commands of a free axis (R318 to R328): APPEND and REPLACE with a target that the reference, the soft limits
and the limit inputs allow, STOP, RESUME of a kept queue that they allow (refused where they do not), HOME, SET_POS,
EL1_MOVE, EL1_SET and CLEAR, each with RESULT 0; APPEND to a full queue gives 2. A host command to an axis that a job holds
is refused with IN_USE, and nothing moves (R315, R331). -/
def Obligations.AxisCommands : Prop :=
  (∀ (n : Axis) (s : State) (x : AxisSt) (k : Pitch) (r : Nat), x = s.ax[n] → k = s.axCmdPitch n →
     r = R.AXn_RESULT n.val → s.regsWf → s.axInUse n = false → s.axKind n ≠ 0 → x.st ≠ .fault →
     (s.axEl1 n = false → x.st = .idle ∨ x.st = .moving →
       (x.queue.length < 16 → s.axTarget n k.tgt (s.axTail n) = 0 →
         ∃ t, exec (.axAppend n) s = .next t ∧ t.ax[n] = { x with queue := x.queue ++ [k], st := .moving } ∧
           t.rf r 3 0 = 0 ∧ s.OnlyAxis n [r] t) ∧
       (16 ≤ x.queue.length → ∃ t, exec (.axAppend n) s = .next t ∧ t.rf r 3 0 = 2 ∧ s.OnlyRegs [r] t) ∧
       (s.axTarget n k.tgt (s.axPos n s.tick) = 0 →
         ∃ t, exec (.axReplace n) s = .next t ∧ s.OnlyAxis n [r] t ∧
           ((t.rf r 3 0 = 0 ∧ (t.ax[n]).queue = [k] ∧ (t.ax[n]).running = true ∧ (t.ax[n]).st = .moving ∧
               (t.ax[n]).vOut = ⟨0, 1⟩) ∨
             (t.rf r 3 0 = 4 ∧ t.ax = s.ax ∧ (s.axVel n s.tick).isZero = false)))) ∧
     (x.st = .moving →
       ∃ t, exec (.axStop n) s = .next t ∧ t.rf r 3 0 = 0 ∧ (t.ax[n]).queue = [] ∧ (t.ax[n]).running = false ∧
         (t.ax[n]).kept = x.queue ∧ (t.ax[n]).remValid = !x.queue.isEmpty ∧ s.OnlyAxis n [r, R.AXn_REM n.val] t ∧
         (s.rb (R.AXn_CFG n.val) 6 = true → (t.ax[n]).st = .idle ∧
           (t.ax[n]).pos = (if s.axKind n = 1 then Q.ofInt x.steps else s.axPos n s.tick) ∧
           (t.ax[n]).segs = [] ∧ (x.running = true → ∀ p l, x.queue = p :: l →
             t.rd (R.AXn_REM n.val) = i32 (satS 32 (p.tgt - ((t.ax[n]).pos).round))))) ∧
     (∀ (q : Pitch) (l : List Pitch), x.remValid = true → x.st = .idle → x.kept = q :: l →
       s.axTarget n q.tgt (s.axPos n s.tick) ≠ 0 →
       ∃ t, exec (.axResume n) s = .next t ∧ t.rf r 3 0 = s.axTarget n q.tgt (s.axPos n s.tick) ∧ s.OnlyRegs [r] t) ∧
     (x.remValid = true → x.st = .idle →
       (∀ q ∈ x.kept.take 1, s.axTarget n q.tgt (s.axPos n s.tick) = 0) →
       (∀ q ∈ x.kept.drop 1, s.axInLimits n q.tgt = true) →
       ∃ t, exec (.axResume n) s = .next t ∧ t.rf r 3 0 = 0 ∧ (t.ax[n]).queue = x.kept ++ x.queue ∧
         (t.ax[n]).kept = [] ∧ (t.ax[n]).remValid = false ∧ (x.kept ≠ [] → (t.ax[n]).st = .moving) ∧ s.OnlyAxis n [r] t) ∧
     (s.axIdle n = true →
       (s.axBlocked n (if s.rb (R.AXn_HOME n.val) 31 then 1 else -1) = false →
         ∃ t, exec (.axHome n) s = .next t ∧ t.rf r 3 0 = 0 ∧ (t.ax[n]).st = .homing ∧ (t.ax[n]).homing = 1 ∧
           (t.ax[n]).homed = false ∧ s.OnlyAxis n [r] t) ∧
       (∃ t, exec (.setPos n) s = .next t ∧ t.rf r 3 0 = 0 ∧ (t.ax[n]).pos = Q.ofInt (s.rd (R.AXn_CMD_TGT n.val)).toInt ∧
         (t.ax[n]).steps = (s.rd (R.AXn_CMD_TGT n.val)).toInt ∧ (t.ax[n]).homed = false ∧ (t.ax[n]).st = .idle ∧
         s.OnlyAxis n [r] t) ∧
       (s.axEl1 n = true → s.axTarget n k.tgt (s.axPos n s.tick) = 0 →
         ∃ t, exec (.el1Move n) s = .next t ∧ t.rf r 3 0 = 0 ∧ (t.ax[n]).queue = [k] ∧ (t.ax[n]).running = true ∧
           (t.ax[n]).st = .moving ∧ s.OnlyAxis n [r] t)) ∧
     (∀ (p : Pitch) (l : List Pitch), s.axEl1 n = true → x.st = .moving → x.running = true → x.queue = p :: l →
       ∃ t, exec (.el1Set n) s = .next t ∧ t.rf r 3 0 = 0 ∧ (t.ax[n]).queue = [{ p with v := k.v, a := k.a }] ∧
         (t.ax[n]).st = .moving ∧ s.OnlyAxis n [r, R.AXn_STATUS n.val] t) ∧
     (∃ t, exec (.axClear n) s = .next t ∧ t.rf r 3 0 = 0 ∧ (t.ax[n]).kept = [] ∧ (t.ax[n]).remValid = false ∧
       t.rd (R.AXn_REM n.val) = 0 ∧ (t.ax[n]).st = x.st ∧ (t.ax[n]).queue = x.queue ∧
       s.OnlyAxis n [r, R.AXn_REM n.val] t)) ∧
  (∀ (n : Axis) (c : Instr) (s : State), s.axInUse n = true → s.regsWf →
     (c = .axAppend n ∨ c = .axReplace n ∨ c = .axStop n ∨ c = .axResume n ∨ c = .axHome n ∨ c = .setPos n ∨
       c = .el1Move n ∨ c = .el1Set n ∨ c = .axClear n) →
     ∃ t, exec c s = .next t ∧ t.rf (R.AXn_RESULT n.val) 3 0 = 1 ∧ s.OnlyRegs [R.AXn_RESULT n.val] t)

/-- What happens on an axis (R319, R324, R327, R328, R330, R510): a pitch begins with the exit speed towards the next one and
ends at its target; one that ends after its scheduled tick is PROMISE_MISS; a limit input at its active level in the
direction of motion stops the axis and discards its queue; the edge of HOME is stamped, less its filter, and the return to it
makes the axis homed at HOME_POS. -/
def Obligations.AxisEvents : Prop :=
  ∀ (n : Axis) (s : State) (x : AxisSt), x = s.ax[n] →
    (∀ (k : Pitch) (rest : List Pitch), x.queue = k :: rest → x.running = false → x.st = .idle ∨ x.st = .moving →
      ∃ t, exec (.pitchStart n) s = .next t ∧ (t.ax[n]).running = true ∧ (t.ax[n]).st = .moving ∧
        (t.ax[n]).queue = x.queue ∧ (t.ax[n]).vOut = exitSpeed x.pos x.vOut k rest.head? ∧
        (rest = [] → (t.ax[n]).vOut = ⟨0, 1⟩) ∧ s.OnlyAxis n [] t) ∧
    (∀ (k : Pitch) (rest : List Pitch), x.queue = k :: rest → x.running = true → segsEnd s.tick x.segs ≤ s.tick →
      ((∀ e, x.schedEnd = some e → s.tick ≤ e) → ∃ t, exec (.pitchEnd n) s = .next t ∧ (t.ax[n]).queue = rest ∧
        (t.ax[n]).running = false ∧ (t.ax[n]).pos = Q.ofInt k.tgt ∧ (rest = [] → s.axKind n ≠ 0 → (t.ax[n]).st = .idle) ∧
        s.OnlyAxis n [] t) ∧
      (∀ (e : Nat) (j : Slot), x.schedEnd = some e → e < s.tick → s.runSlot = some j →
        ∃ t r, exec (.pitchEnd n) s = .next t ∧ (t.ax[n]).queue = rest ∧ t.hub.pending = s.hub.pending ++ [r] ∧
          r.id = 0x04 ∧ ∀ b ∈ (s.js j).named, (t.be[b]).stopReq = some true)) ∧
    (∀ (pos lv : Bool), (lv ≠ s.rb (R.AXn_CFG n.val) 8 ∨ (s.axVel n s.tick).isZero = true) →
      ∃ t, exec (.limitInput n pos lv) s = .next t ∧
        t.ax[n] = (if pos then { x with limP := lv } else { x with limN := lv }) ∧ s.OnlyAxis n [] t) ∧
    (∀ lv : Bool, lv = s.rb (R.AXn_CFG n.val) 8 → x.st = .moving → sgnQ (s.axVel n s.tick) = 1 → s.regsWf →
      ∃ t r, exec (.limitInput n true lv) s = .next t ∧ (t.ax[n]).limP = lv ∧ (t.ax[n]).queue = [] ∧
        (t.ax[n]).kept = [] ∧ (t.ax[n]).running = false ∧ t.rb (R.AXn_STATUS n.val) 5 = true ∧
        t.hub.pending = s.hub.pending ++ [r] ∧ r.id = 0x38 ∧ r.detail = w32 n.val) ∧
    (x.st = .homing → x.homing = 1 → s.regsWf →
      ∃ t, exec (.homeEdge n true) s = .next t ∧ t.rd (R.AXn_HOME_FRC n.val) = s.frc - 10000#32 ∧ (t.ax[n]).homing = 3 ∧
        (t.ax[n]).homeAt = s.axPos n s.tick ∧ (t.ax[n]).home = true ∧ s.OnlyAxis n [R.AXn_HOME_FRC n.val] t) ∧
    (∃ t, exec (.homeEdge n false) s = .next t ∧ t.ax[n] = { x with home := false } ∧ s.OnlyAxis n [] t) ∧
    (segsEnd s.tick x.segs ≤ s.tick → s.axKind n ≠ 0 →
      (x.st = .stopping → ∃ t, exec (.axAtRest n) s = .next t ∧ t.ax[n] = { x.keepPlan s.tick with st := .idle, segs := [], stopTgt := none } ∧
        s.OnlyAxis n [] t) ∧
      (x.st = .homing → x.homing = 3 → ∃ t, exec (.axAtRest n) s = .next t ∧ (t.ax[n]).st = .idle ∧
        (t.ax[n]).homed = true ∧ (t.ax[n]).pos = Q.ofInt (s.rd (R.AXn_HOME_POS n.val)).toInt ∧ s.OnlyAxis n [] t))

/-- The machine program (R329): MMOVE appends one pitch, absolute or from the last target, within the axis's limits of
speed and acceleration; MWAIT never goes back in program time; MDWELL adds its time; HALT ends the program. -/
def Obligations.MachineProgram : Prop :=
  (∀ (a : Axis) (rel : Bool) (v acc : BitVec 24) (tgt : Word) (s0 : Nat) (s : State),
      s.machDue (mmoveWords a rel v acc tgt) = some s0 →
      ∃ t p, exec (.mmove a rel v acc tgt) s = .next t ∧ (t.ax[a]).queue = (s.ax[a]).queue ++ [p] ∧
        p.tgt = (if rel then (s.ax[a]).lastTgt else 0) + tgt.toInt ∧ p.v = s.axV a v.toNat ∧
        p.a = s.axA a (16 * acc.toNat) ∧ (t.ax[a]).lastTgt = p.tgt ∧ t.mach.pc = s.mach.pc + 2 ∧
        t.mach.time = s.mach.time ∧ (∀ m : Axis, m ≠ a → t.ax[m] = s.ax[m]) ∧
        { t with ax := s.ax, mach := s.mach } = s) ∧
  (∀ (mask : BitVec 16) (s0 : Nat) (s : State), s.machDue [BitVec.ofNat 64 (0x91 * 2 ^ 56 + mask.toNat)] = some s0 →
      ∃ t, exec (.mwait mask) s = .next t ∧ t.mach.pc = s.mach.pc + 1 ∧ s.mach.time ≤ t.mach.time ∧
        ((∀ a : Axis, nbit mask.toNat a.val = true → (s.ax[a]).running = false ∧ (s.ax[a]).queue = []) →
          t.mach.time = s.mach.time) ∧ { t with mach := s.mach } = s) ∧
  (∀ (ns : BitVec 48) (s0 : Nat) (s : State), s.machDue [BitVec.ofNat 64 (0x92 * 2 ^ 56 + ns.toNat)] = some s0 →
      ∃ t, exec (.mdwell ns) s = .next t ∧ t.mach.pc = s.mach.pc + 1 ∧ t.mach.time = s.mach.time + ns.toNat ∧
        { t with mach := s.mach } = s) ∧
  (∀ (s0 : Nat) (s : State), s.machDue [BitVec.ofNat 64 (0x7F * 2 ^ 56)] = some s0 →
      ∃ t, exec .machHalt s = .next t ∧ t.mach.halted = true ∧ t.mach.pc = s.mach.pc ∧ { t with mach := s.mach } = s)

/-- The time reference and the delay lines (R332, R335 to R337): three good periods give REF_OK, a bad or a missing one
takes it; DL_RUN starts a run or waits for the reference; the end of a run changes no line in service; a swap waits until
the gate of its beam is closed, or the channel sends no MUSTER cell, and is stored. Drift checks and head temperatures (R342, R345 to R348, R350, R383): DRIFT
starts a check of a head that no job holds, and is refused on the SECOND of a pair and during an exposure; the head is asked
for one point at a time, once the mirror has rested there; a reading without a signal is not
taken; the eighth ends the check; a temperature is taken from a good cell and grows stale after 10 ms. -/
def Obligations.ReferenceAndDelayLines : Prop :=
  ((∀ (dev : Int) (t0 : Nat) (s : State), s.rf R.CAL_CTL 1 0 = 1 ∨ s.rf R.CAL_CTL 1 0 = 2 → s.cal.refAt = some t0 →
       s.regsWf →
       (dev.natAbs ≤ 50000 → ∃ t, exec (.calRefEdge dev) s = .next t ∧ t.cal.refAt = some s.tick ∧
         t.cal.refGood = min 3 (s.cal.refGood + 1) ∧ t.cal.refOk = (s.cal.refOk || decide (2 ≤ s.cal.refGood)) ∧
         t.rd R.CAL_REF_PPM = i32 dev ∧ s.OnlyRegs [R.CAL_REF_PPM] { t with cal := s.cal }) ∧
       (50000 < dev.natAbs → ∃ t, exec (.calRefEdge dev) s = .next t ∧ t.cal.refOk = false ∧ t.cal.refGood = 0 ∧
         (s.cal.refOk = true → ∃ r, t.hub.pending = s.hub.pending ++ [r] ∧ r.id = 0x58) ∧
         s.OnlyRegs [R.CAL_REF_PPM] { t with cal := s.cal, hub := s.hub })) ∧
   (∀ (t0 : Nat) (s : State), s.cal.refOk = true → s.cal.refAt = some t0 →
       ((s.rf R.CAL_CTL 1 0 = 1 ∧ t0 + 1500000000 < s.tick) ∨ (s.rf R.CAL_CTL 1 0 = 2 ∧ t0 + 150 < s.tick)) →
       ∃ t r, exec .calRefLoss s = .next t ∧ t.cal.refOk = false ∧ t.cal.refAt = none ∧
         t.hub.pending = s.hub.pending ++ [r] ∧ r.id = 0x58 ∧ { t with cal := s.cal, hub := s.hub } = s) ∧
   (∀ s : State, s.calBusy = false → s.dev.shpHalt = false → s.regsWf →
       ∃ t, exec .dlRun s = .next t ∧
         t.rf R.CAL_RESULT 7 0 = (if s.cal.refOk || s.cal.running then 0 else 4) ∧
         (s.cal.running = true → t.cal.running = true ∧ t.cal.again = true) ∧
         (s.cal.running = false → t.cal.due = true ∧ t.cal.running = s.cal.refOk) ∧ t.cal.pair = s.cal.pair) ∧
   (∀ (m : List LineMeas) (s : State), s.cal.running = true → s.cal.again = false → s.dev.shpHalt = false → s.regsWf →
       ∃ t, exec (.dlRunComplete m) s = .next t ∧ t.cal.running = false ∧ t.cal.due = false ∧ t.cal.waited = false ∧
         t.rb R.CAL_IRQ_STATUS 0 = true ∧ (∀ i : Fin 32, (t.cal.pair[i]).line = (s.cal.pair[i]).line) ∧ t.mem = s.mem ∧
         t.be = s.be ∧ t.mram = s.mram) ∧
   (∀ (b : Beam) (m : Fin 32) (s : State), m.val = b.val → (s.cal.pair[m]).swap = true →
       (s.lgate b = true → exec (.dlSwap m) s = .next s) ∧
       (s.lgate b = false → s.gateOpen b s.tick = false →
         (∀ g ∈ (s.be[b]).gates, g.on_ < 8 * (s.tick : Int) ∨ 8 * (s.tick : Int) + 128 < g.on_) →
         ∃ t, exec (.dlSwap m) s = .next t ∧ (t.cal.pair[m]).line = !(s.cal.pair[m]).line ∧
           (t.cal.pair[m]).swap = false ∧ (∀ i : Fin 32, i ≠ m → t.cal.pair[i] = s.cal.pair[i]) ∧
           { t with cal := s.cal, mram := s.mram } = s)) ∧
   (∀ (b : Beam) (m : Fin 32) (s : State), m.val = 16 + b.val → (s.cal.pair[m]).swap = true →
       s.sampleAt s.sample = s.tick → (∀ x ∈ s.sent, x.port = 16 + b.val → x.msg = 5 → x.at_ < s.tick) →
       ∃ t, exec (.dlSwap m) s = .next t ∧ (t.cal.pair[m]).line = !(s.cal.pair[m]).line ∧
         (t.cal.pair[m]).swap = false ∧ (∀ i : Fin 32, i ≠ m → t.cal.pair[i] = s.cal.pair[i]) ∧
         { t with cal := s.cal, mram := s.mram } = s)) ∧
  ((∀ (n : BitVec 16) (b : Beam) (s : State), s.calBusy = false → s.argBeam n.toNat = some b → s.regsWf →
       (s.naming b JobSlot.busy = false → ¬(s.twin.role = 2 ∧ s.twin.pair ≠ 0) → (s.cal.src[b]).expo = none →
         ∃ t, exec (.drift n) s = .next t ∧
           (t.cal.head[b]).check = some { got := [], inPrep := false, asked := none, legAt := s.tick } ∧
           t.calBusy = true ∧ (∀ k : Beam, k ≠ b → t.cal.head[k] = s.cal.head[k]) ∧ { t with cal := s.cal } = s) ∧
       (s.naming b JobSlot.busy = false → (s.twin.role = 2 ∧ s.twin.pair ≠ 0) ∨ (s.cal.src[b]).expo.isSome = true →
         ∃ t, exec (.drift n) s = .next t ∧ t.rf R.CAL_RESULT 7 0 = 1 ∧ t.cal = s.cal) ∧
       (s.naming b JobSlot.busy = true → ∃ t, exec (.drift n) s = .next t ∧ t.rf R.CAL_RESULT 7 0 = 2 ∧ t.cal = s.cal)) ∧
   (∀ (b : Beam) (c : DriftCheck) (p : Port) (s : State), (s.cal.head[b]).check = some c → c.asked = none →
       (c.inPrep = true → s.checkOpen b = true ∧ s.checkLate b c = false) → p.val = b.val →
       (s.checkRests b c = true →
         ∃ t, exec (.refReq b) s = .next t ∧ (t.cal.head[b]).check = some { c with asked := some (s.port[p]).tag } ∧
           (t.port[p]).tag = ((s.port[p]).tag + 1) % 65536 ∧ t.regs = s.regs ∧ t.mem = s.mem ∧ t.be = s.be) ∧
       (s.checkRests b c = false → exec (.refReq b) s = .next s)) ∧
   (∀ (b : Beam) (c : DriftCheck) (p : Port) (seq tag : BitVec 16) (pt : Fin 4) (mx my : Word) (s : State),
       (s.cal.head[b]).check = some c → p.val = b.val → s.portTalks p = true → seq.toNat = (s.port[p]).rxNext →
       c.asked = some tag.toNat → pt.val = c.got.length % 4 → (c.inPrep = true → s.checkLate b c = false) →
       s.dev.shpHalt = false →
       (c.got.length < 7 → ∃ t, exec (.refMeas b seq tag pt true mx my) s = .next t ∧
         (t.cal.head[b]).check = some { c with
           got := c.got ++ [(mx.toInt, my.toInt)], asked := none, legAt := s.tick } ∧
         t.regs = s.regs ∧ t.mem = s.mem ∧ t.be = s.be) ∧
       (c.got.length < 8 → ∃ t, exec (.refMeas b seq tag pt false mx my) s = .next t ∧
         (t.cal.head[b]).check = some { c with asked := none } ∧ t.regs = s.regs ∧ t.mem = s.mem ∧ t.be = s.be) ∧
       (c.got.length = 7 → ∃ t, exec (.refMeas b seq tag pt true mx my) s = .next t ∧ (t.cal.head[b]).check = none ∧
         t.mem = s.mem ∧ t.be = s.be)) ∧
   (∀ (b : Beam) (x : BitVec 16) (s : State), s.portUp b.val = true →
       (∃ t, exec (.headTemp b true x) s = .next t ∧ (t.cal.head[b]).temp = x.toInt ∧
         (t.cal.head[b]).tempAt = some s.tick ∧ (t.cal.head[b]).stale = false ∧
         (∀ k : Beam, k ≠ b → t.cal.head[k] = s.cal.head[k]) ∧ t.mem = s.mem ∧ t.be = s.be) ∧
       exec (.headTemp b false x) s = .next s) ∧
   (∀ (b : Beam) (s : State), s.beamOn b.val = true → ((s.cal.head[b]).tempAt.getD 0) + 10000000 ≤ s.tick →
       ∃ t, exec (.headTempStale b) s = .next t ∧ t.cal.head[b] = { s.cal.head[b] with stale := true } ∧
         (∀ k : Beam, k ≠ b → t.cal.head[k] = s.cal.head[k]) ∧ { t with cal := s.cal } = s))

/-- Field-correction sets (R340, R341, R343): VALIDATE makes a set VALID, or posts its first failure and leaves VALID as
it was; INVALIDATE refuses a set that a job has drawn on; PROMOTE changes the active set of a head at once, or when the
last job that names it has ended, and is refused on a small configuration. -/
def Obligations.CorrectionSets : Prop :=
  ∀ (s : State), s.calBusy = false → s.dev.shpHalt = false → s.regsWf →
    (∀ (q : BitVec 16) (h : Nat), q.toNat < 32 → s.slotHead q.toNat = some h →
      (s.setCheck q.toNat h = 0 → ∃ t, exec (.validate q) s = .next t ∧ vget? t.cal.valid q.toNat = some true ∧
        t.rf R.CAL_RESULT 7 0 = 0 ∧ (∀ i, i ≠ q.toNat → vget? t.cal.valid i = vget? s.cal.valid i) ∧ t.mem = s.mem) ∧
      (s.setCheck q.toNat h ≠ 0 → ∃ t, exec (.validate q) s = .next t ∧ t.cal = s.cal ∧ t.rf R.CAL_RESULT 7 0 = 3 ∧
        t.rf R.CAL_RESULT 15 8 = s.setCheck q.toNat h ∧ t.mem = s.mem) ∧
      (s.setLocked q.toNat = false → ∃ t, exec (.invalidate q) s = .next t ∧ vget? t.cal.valid q.toNat = some false ∧
        t.rf R.CAL_RESULT 7 0 = 0 ∧ (∀ i, i ≠ q.toNat → vget? t.cal.valid i = vget? s.cal.valid i) ∧ t.mem = s.mem) ∧
      (s.setLocked q.toNat = true → ∃ t, exec (.invalidate q) s = .next t ∧ t.cal = s.cal ∧
        t.rf R.CAL_RESULT 7 0 = 2 ∧ t.mem = s.mem)) ∧
    (∀ n : BitVec 16, s.small = true → ∃ t, exec (.promote n) s = .next t ∧ t.cal = s.cal ∧ t.rf R.CAL_RESULT 7 0 = 1) ∧
    (∀ (n : BitVec 16) (b : Beam), s.small = false → s.argBeam n.toNat = some b →
      s.setValid (2 * b.val + (1 - (s.cal.head[b]).active)) = true →
      (s.naming b JobSlot.live = false → ∃ t, exec (.promote n) s = .next t ∧
        (t.cal.head[b]).active = 1 - (s.cal.head[b]).active ∧ (t.cal.head[b]).promote = false ∧
        t.rf R.CAL_RESULT 7 0 = 0 ∧ (∀ k : Beam, k ≠ b → t.cal.head[k] = s.cal.head[k]) ∧ t.mem = s.mem) ∧
      (s.naming b JobSlot.live = true →
        s.sameGeom (2 * b.val + (s.cal.head[b]).active) (2 * b.val + (1 - (s.cal.head[b]).active)) false = true →
        ∃ t, exec (.promote n) s = .next t ∧ (t.cal.head[b]).active = (s.cal.head[b]).active ∧
          (t.cal.head[b]).promote = true ∧ t.rf R.CAL_RESULT 7 0 = 0 ∧ t.mem = s.mem))

/-- The power curve of a source (R351 to R354): a point is exposed for ON_MS with the device IDLE; an exposure that ends
early counts for nothing; of two readings that agree a point is formed, and two that do not are discarded; only 33 points
in order enter service; PCAL_CLEAR discards them all. -/
def Obligations.PowerCurves : Prop :=
  ∀ (b : Beam) (arg : BitVec 16) (p : Nat) (s : State), s.calBusy = false → s.dev.shpHalt = false → s.regsWf →
    s.beamOn b.val = true →
    nfld arg.toNat 3 0 = b.val → p = nfld arg.toNat 15 8 → p ≤ 32 →
    (s.dev.state = .idle → s.armedSlots = [] → s.rb (R.LDn_CTL b.val) 0 = true → s.portUp (16 + b.val) = true →
      s.rb (R.LDn_CTL b.val) 12 = false → s.ldc.latch = false → s.ldc.kill = false → (s.cal.src[b]).expo = none →
      ∃ t, exec (.pcalPoint arg) s = .next t ∧ t.rf R.CAL_RESULT 7 0 = 0 ∧
        (t.cal.src[b]).expo = some (p, s.tick, s.tick + oneIfZero (s.rf R.CAL_PCAL_ON 15 0) * 1000000) ∧
        (t.cal.src[b]).done = none ∧ (∀ k : Beam, k ≠ b → t.be[k] = s.be[k]) ∧ t.mem = s.mem ∧ t.dev = s.dev) ∧
    (s.ldc.latch = true → ∃ t, exec (.pcalPoint arg) s = .next t ∧ t.rf R.CAL_RESULT 7 0 = 7 ∧ t.cal = s.cal ∧
      t.be = s.be) ∧
    (∀ t0 t1 : Nat, (s.cal.src[b]).expo = some (p, t0, t1) →
      (s.ldc.latch = false → s.ldc.kill = false → s.armedSlots = [] → t1 ≤ s.tick →
        ∃ t, exec (.pcalExposureEnd b) s = .next t ∧ (t.cal.src[b]).expo = none ∧ (t.cal.src[b]).done = some p ∧
          t.be = s.be ∧ t.mem = s.mem) ∧
      (s.ldc.latch = true ∨ s.ldc.kill = true ∨ s.armedSlots ≠ [] →
        ∃ t, exec (.pcalExposureEnd b) s = .next t ∧ (t.cal.src[b]).expo = none ∧ (t.cal.src[b]).done = none ∧
          t.rb (R.CAL_Pn_STATUS b.val) 3 = true ∧ t.rf R.CAL_RESULT 7 0 = 8 ∧ t.exposing b s.tick = false)) ∧
    ((s.cal.src[b]).done ≠ some p → ∃ t, exec (.pcalEnter arg) s = .next t ∧ t.rf R.CAL_RESULT 7 0 = 1 ∧ t.cal = s.cal) ∧
    ((s.cal.src[b]).done = some p →
      (s.accHeld b p = 0 → ∃ t, exec (.pcalEnter arg) s = .next t ∧ t.rf R.CAL_RESULT 7 0 = 0 ∧ t.accHeld b p = 1 ∧
        t.accVal b p = min (s.rd R.CAL_PCAL_READ).toNat (2 ^ 30 - 1) ∧ (t.cal.src[b]).done = none) ∧
      (s.accHeld b p = 1 → s.accAgree (s.accVal b p) (s.rd R.CAL_PCAL_READ).toNat = true →
        ∃ t, exec (.pcalEnter arg) s = .next t ∧ t.rf R.CAL_RESULT 7 0 = 0 ∧ t.accHeld b p = 2 ∧
          (t.cal.src[b]).done = none) ∧
      (s.accHeld b p = 1 → s.accAgree (s.accVal b p) (s.rd R.CAL_PCAL_READ).toNat = false →
        ∃ t, exec (.pcalEnter arg) s = .next t ∧ t.rf R.CAL_RESULT 7 0 = 5 ∧ t.accHeld b p = 0 ∧
          (t.cal.src[b]).done = none)) ∧
    (∀ n : BitVec 16, n.toNat = b.val →
      (s.naming b JobSlot.live = false → s.curveOk b = true →
        ∃ t, exec (.pcalCommit n) s = .next t ∧ t.rf R.CAL_RESULT 7 0 = 0 ∧ (t.cal.src[b]).valid = true ∧
          (∀ i, i < 33 → t.rd (R.CAL_Pn_Wp b.val i) = w32 (s.accVal b i) ∧ t.accHeld b i = 0) ∧
          t.rd (R.CAL_Pn_FS b.val) = w32 (s.accVal b 32) ∧ t.mem = s.mem ∧ t.be = s.be) ∧
      (s.naming b JobSlot.live = false → s.curveOk b = false →
        ∃ t, exec (.pcalCommit n) s = .next t ∧ t.rf R.CAL_RESULT 7 0 = 9 ∧ t.cal = s.cal ∧ t.mram = s.mram) ∧
      ∃ t, exec (.pcalClear n) s = .next t ∧ t.rf R.CAL_RESULT 7 0 = 0 ∧ (t.cal.src[b]).expo = none ∧
        (t.cal.src[b]).valid = (s.cal.src[b]).valid ∧ (∀ i, i < 33 → t.accHeld b i = 0) ∧ t.mem = s.mem)

/-- Training of a Yawell port (R358 to R369): a TRAIN block keeps a lane in LOCK until the headers of 64 blocks were valid in a
row, then ends LOCK; in EQ it applies the partner's new request to the taps, whose sum stays at most 63; AM columns go out on
every lane that has ended EQ in the slot for which they are due, and no earlier; a port that has not reached UP in 20 ms
starts again; RETRAIN is refused while a job holds the port. -/
def Obligations.LinkTraining : Prop :=
  (∀ (n : Lane) (p : Port) (blk : TrainBlk) (eye : Byte) (s : State) (x : LaneSt) (lock : Bool), x = s.lane[n] →
      s.lanePort n.val = some p → (s.port[p]).st = .train →
      lock = (x.block || decide (64 * s.blockPs p.val ≤ (s.tick - x.goodAt.getD s.tick) * 1000)) →
      (x.st = .lock → lock = false →
        ∃ t, exec (.train n blk eye) s = .next t ∧ (t.lane[n]).st = .lock ∧ (t.lane[n]).block = false ∧
          (t.lane[n]).goodAt = some (x.goodAt.getD s.tick) ∧ (∀ m : Lane, m ≠ n → t.lane[m] = s.lane[m]) ∧
          { t with lane := s.lane } = s) ∧
      (x.st = .eq ∨ (x.st = .lock ∧ lock = true) →
        ∃ t y, exec (.train n blk eye) s = .next t ∧ y = t.lane[n] ∧ (x.st = .lock → y.block = true) ∧ y.eye = eye.toNat ∧
          y.st ≠ .lock ∧ t.regs = s.regs ∧ t.mem = s.mem ∧ t.be = s.be ∧
          (blk.req.val = 0 ∨ x.farSeq = some blk.reqSeq.toNat →
            (y.pre, y.main_, y.post, y.resp, y.farSeq) = (x.pre, x.main_, x.post, x.resp, x.farSeq)) ∧
          (blk.req.val ≠ 0 → x.farSeq ≠ some blk.reqSeq.toNat →
            y.farSeq = some blk.reqSeq.toNat ∧ y.resp = (tapReq x blk.req.val).2 ∧ y.pre = (tapReq x blk.req.val).1.pre ∧
            y.main_ = (tapReq x blk.req.val).1.main_ ∧ y.post = (tapReq x blk.req.val).1.post ∧
            (x.pre + x.main_ + x.post ≤ 63 → y.pre + y.main_ + y.post ≤ 63) ∧
            (blk.req.val = 7 → (y.pre, y.main_, y.post) = (0, 48, 4))))) ∧
  (∀ (p : Port) (k : Nat) (s : State), s.usedLanes p.val ≠ [] →
      (∀ n ∈ s.usedLanes p.val, s.laneIs n (fun x => x.st == .inPort) = true) → k = s.blockSlot p s.tick →
      (∀ due last, (s.port[p]).amNext = some (due, last) → k < due → exec (.amSend p) s = .next s) ∧
      ((∀ due last, (s.port[p]).amNext = some (due, last) → due ≤ k) →
        ∃ t l, exec (.amSend p) s = .next t ∧ t.sent = l ++ s.sent ∧ l.length = (s.usedLanes p.val).length ∧
          (∀ x ∈ l, x.port = p.val ∧ x.msg = 0x14B ∧ x.at_ = s.tick) ∧
          (t.port[p]).amNext = some (((s.port[p]).amNext.map (·.1)).getD k + 16384, k) ∧
          (∀ q : Port, q ≠ p → t.port[q] = s.port[q]) ∧
          { t with sent := s.sent, port := s.port, free := s.free } = s)) ∧
  (∀ (p : Port) (s : State), (s.port[p]).st = .train ∨ (s.port[p]).st = .align_ ∨ (s.port[p]).st = .ident →
      (s.port[p]).trainAt + 20000000 ≤ s.tick → s.portOn p.val = true → s.portEn p.val = true → s.rateOk p.val = true →
      s.regsWf →
      ∃ t, exec (.trainTimeout p) s = .next t ∧ (t.port[p]).st = .train ∧ (t.port[p]).trainAt = s.tick ∧
        t.rb (R.PORTp_STATUS p.val) 3 = true ∧ t.mem = s.mem ∧ t.be = s.be) ∧
  (∀ (p : Port) (s : State), s.regsWf →
      (s.portNamed p JobSlot.busy = true → ∃ t, exec (.retrain p) s = .next t ∧ t.port = s.port ∧
        t.rb (R.PORTp_STATUS p.val) 4 = true ∧ s.OnlyRegs [R.PORTp_STATUS p.val] t) ∧
      (s.portNamed p JobSlot.busy = false → s.portOn p.val = true → s.portEn p.val = true → s.rateOk p.val = true →
        ∃ t, exec (.retrain p) s = .next t ∧ (t.port[p]).st = .train ∧ (t.port[p]).degraded = false ∧
          (t.port[p]).unacked = [] ∧ t.mem = s.mem ∧ t.be = s.be))

/-- Parcels of TC1 and the aux ring (R380, R381, R471): a bad parcel gives one NAK until NEXT advances; an ACK releases
the parcels before its NEXT; a NAK and a timeout send the outstanding ones again; ACK_SEND acknowledges NEXT; an aux
parcel goes to the host's ring where it fits, and is counted where it does not. A port in UP and its loss (R369, R370,
R373, R376, R388, R409): a bad alignment marker twice, a lane without block lock, or too many intervals without a heartbeat
take it DOWN, which is YW_PORT_DOWN; markers and heartbeats that fit keep it, and a marker counts the FILL columns that the
elastic buffer has deleted and inserted; the cells that the receiver's checks drop are counted, invalid sync headers on their
lane, and the 16th of these within 64 blocks takes its block lock. -/
def Obligations.LinkParcels : Prop :=
  (∀ (p : Port) (s : State), s.portTalks p = true → s.regsWf →
     (∀ seq : BitVec 16,
       ((s.port[p]).nakOut = false → ∃ t x, exec (.parcelBad p true seq) s = .next t ∧ (t.port[p]).nakOut = true ∧
         t.sent = x :: s.sent ∧ x.msg = 0x133 ∧ x.sidx = (s.port[p]).rxNext ∧ x.data = [1]) ∧
       ((s.port[p]).nakOut = true → exec (.parcelBad p true seq) s = .next s)) ∧
     (∀ next : BitVec 16, (s.port[p]).waiting = [] →
       ∃ t, exec (.ack p next) s = .next t ∧
         (t.port[p]).unacked = (s.port[p]).unacked.filter (fun x => !State.seqBefore x.seq next.toNat) ∧
         (t.port[p]).st = (s.port[p]).st ∧ (∀ q : Port, q ≠ p → t.port[q] = s.port[q]) ∧ { t with port := s.port } = s) ∧
     (∀ (next : BitVec 16) (k : List Parcel), (s.port[p]).waiting = [] → (s.port[p]).replays = 0 →
       k = (s.port[p]).unacked.filter (fun x => !State.seqBefore x.seq next.toNat) → k ≠ [] →
       2 ≤ s.rf (R.PORTp_TC1_CFG p.val) 7 0 →
       ∃ t l, exec (.nak p next) s = .next t ∧ (t.port[p]).unacked = k ∧ (t.port[p]).replays = 1 ∧ t.sent = l ++ s.sent ∧
         l.length = k.length ∧ (t.port[p]).st = (s.port[p]).st) ∧
     (1 ≤ (s.port[p]).ackDue →
       ∃ t x, exec (.ackSend p) s = .next t ∧ t.sent = x :: s.sent ∧ x.msg = 0x133 ∧ x.sidx = (s.port[p]).rxNext ∧
         x.data = [0] ∧ t.port[p] = { s.port[p] with ackDue := 0 } ∧ { t with sent := s.sent, port := s.port } = s) ∧
     (∀ n : Nat, n = (s.port[p]).replays + 1 → (s.port[p]).unacked ≠ [] →
       (s.port[p]).replayAt + 1000 * oneIfZero (s.rf (R.PORTp_TC1_CFG p.val) 15 8) ≤ s.tick →
       (n < oneIfZero (s.rf (R.PORTp_TC1_CFG p.val) 7 0) →
         ∃ t l, exec (.replayTimeout p) s = .next t ∧ (t.port[p]).replays = n ∧ t.sent = l ++ s.sent ∧
           l.length = (s.port[p]).unacked.length ∧ (t.port[p]).unacked = (s.port[p]).unacked) ∧
       (oneIfZero (s.rf (R.PORTp_TC1_CFG p.val) 7 0) ≤ n →
         ∃ t r, exec (.replayTimeout p) s = .next t ∧ t.portTalks p = false ∧ (t.port[p]).unacked = [] ∧
           t.hub.pending = s.hub.pending ++ [r] ∧ r.id = 0x40)) ∧
     (∀ (seq stream : BitVec 16) (sidx : Word) (data : List Byte), p.val = 34 → seq.toNat = (s.port[p]).rxNext →
       s.rb R.HOST_AUX_CTL 0 = true →
       (∀ o nxt : Nat, auxPlace (s.rf R.HOST_AUX_SIZE 24 0) s.host.auxHead (s.rf R.HOST_AUX_TAIL 23 0)
           (cdiv (16 + data.length) 16 * 16) = some (o, nxt) →
         ∃ t e, exec (.auxData seq stream sidx data) s = .next t ∧
           t.host.toHost = ((s.rd R.HOST_AUX_BASE_HI).toNat * 2 ^ 32 + s.rf R.HOST_AUX_BASE_LO 31 12 * 4096 + o, e) ::
             s.host.toHost ∧ e.length = cdiv (16 + data.length) 16 * 16 ∧ (e.drop 16).take data.length = data ∧
           t.host.auxHead = nxt ∧ t.host.auxDrop = 0) ∧
       (auxPlace (s.rf R.HOST_AUX_SIZE 24 0) s.host.auxHead (s.rf R.HOST_AUX_TAIL 23 0)
           (cdiv (16 + data.length) 16 * 16) = none →
         ∃ t, exec (.auxData seq stream sidx data) s = .next t ∧ t.host.auxDrop = min (s.host.auxDrop + 1) (2 ^ 32 - 1) ∧
           t.host.toHost = s.host.toHost ∧ t.host.auxHead = s.host.auxHead))) ∧
  (∀ (p : Port) (s : State), s.regsWf →
     (∀ (n : Lane) (blk : AmBlk), s.lanePort n.val = some p → (s.port[p]).st = .up → blk.present = true →
       blk.bipOk = false → 16380 ≤ blk.gap.toNat → blk.gap.toNat ≤ 16388 → blk.lane.val = (s.lane[n]).pos →
       blk.portId.toNat = p.val →
       ∃ t, exec (.am n blk) s = .next t ∧ (t.lane[n]).amBad = 0 ∧
         t.rf (R.LANEn_CNT n.val) 15 0 = min (s.rf (R.LANEn_CNT n.val) 15 0 + 1) 65535 ∧
         s.OnlyRegs [R.LANEn_CNT n.val, R.LANEn_CNT2 n.val] { t with lane := s.lane }) ∧
     (∀ (n : Lane) (blk : AmBlk), s.lanePort n.val = some p → (s.port[p]).st = .up → blk.bipOk = true →
       (blk.present = true → 16380 ≤ blk.gap.toNat → blk.gap.toNat ≤ 16388 → blk.lane.val = (s.lane[n]).pos →
         blk.portId.toNat = p.val →
         ∃ t, exec (.am n blk) s = .next t ∧ (t.lane[n]).amBad = 0 ∧
           s.OnlyRegs [R.LANEn_CNT2 n.val] { t with lane := s.lane } ∧
           ∀ (t0 del ins : Nat) (lv : Int), (s.lane[n]).amAt = some t0 →
             State.fillAdjust (s.blockPs p.val) (Config.elasticDepth n.val * s.blockPs p.val) ((s.lane[n]).elastic +
               ((blk.gap.toNat * s.blockPs p.val : Nat) : Int) - (((s.tick - t0) * 1000 : Nat) : Int)) = (del, ins, lv) →
             (t.lane[n]).elastic = lv ∧
               t.rf (R.LANEn_CNT2 n.val) 31 16 = min (s.rf (R.LANEn_CNT2 n.val) 31 16 + del) 65535 ∧
               t.rf (R.LANEn_CNT2 n.val) 15 0 = min (s.rf (R.LANEn_CNT2 n.val) 15 0 + ins) 65535) ∧
       (blk.present = false → (s.lane[n]).amBad = 0 →
         ∃ t, exec (.am n blk) s = .next t ∧ (t.lane[n]).amBad = 1 ∧ { t with lane := s.lane } = s) ∧
       (blk.present = false → (s.lane[n]).amBad ≠ 0 →
         ∃ t r, exec (.am n blk) s = .next t ∧ (t.port[p]).st ≠ .up ∧ t.hub.pending = s.hub.pending ++ [r] ∧
           r.id = 0x40 ∧ r.unit = p.val ∧ t.mem = s.mem ∧ t.be = s.be)) ∧
     (∀ n : Lane, s.lanePort n.val = some p → (s.port[p]).st = .up → n.val ∈ s.usedLanes p.val → (s.lane[n]).st = .inPort →
       ∃ t r, exec (.laneLockLoss n) s = .next t ∧ (t.lane[n]).block = false ∧ (t.port[p]).st ≠ .up ∧
         t.rf (R.LANEn_CNT n.val) 31 16 = min (s.rf (R.LANEn_CNT n.val) 31 16 + 16) 65535 ∧
         t.hub.pending = s.hub.pending ++ [r] ∧ r.id = 0x40 ∧ r.unit = p.val ∧ (t.port[p]).unacked = []) ∧
     (p.val ≠ 32 → (s.port[p]).st = .up → oneIfZero (s.rf (R.PORTp_CTL p.val) 31 24) ≤ (s.port[p]).hbMiss →
       ∃ t r, exec (.hbLoss p) s = .next t ∧ (t.port[p]).st ≠ .up ∧ t.hub.pending = s.hub.pending ++ [r] ∧
         r.id = 0x40 ∧ r.unit = p.val) ∧
     (s.portTalks p = true → s.sample % 20 = 0 → s.sampleAt s.sample = s.tick →
       ∃ t x, exec (.heartbeat p) s = .next t ∧ t.sent = x :: s.sent ∧ x.port = p.val ∧ x.msg = 1 ∧
         x.f = (p.val == 32 || s.twin.lead) ∧ x.data = [s.twin.role] ∧ (t.port[p]).hbSeen = false ∧ (t.port[p]).st = (s.port[p]).st ∧
         ((s.port[p]).hbSeen = true → (t.port[p]).hbMiss = 0) ∧
         ((s.port[p]).hbSeen = false → (s.port[p]).st = .up → (t.port[p]).hbMiss = min ((s.port[p]).hbMiss + 1) 255)) ∧
     (∀ (f : Bool) (sidx echo turn : BitVec 16) (role : Fin 4), s.portTalks p = true →
       ∃ t, exec (.farHeartbeat p f sidx echo turn role) s = .next t ∧ (t.port[p]).hbSeen = true ∧
         (p.val = 32 → t.twin.farRole = some role.val ∧
           t.twin.hbLast = some (if s.twin.pair = 2 then s.sampleNear sidx else 20 * (s.sample / 20))) ∧
         (p.val ≠ 32 → t.twin = s.twin) ∧
         (∀ k t0 : Nat, p.val ≠ 32 → turn.toNat ≠ 65535 →
           (s.port[p]).hbSent.find? (fun x => x.1 % 65536 = echo.toNat) = some (k, t0) →
           (t.port[p]).rtt = min (s.tick - t0 - turn.toNat) 65535) ∧ { t with port := s.port, twin := s.twin } = s) ∧
     (∀ l : List RxBlk, s.portTalks p = true → (∀ x ∈ l, rxBad x = false) →
       (rxDrop p l = some .crc → ∃ t, exec (.cellDrop p l) s = .next t ∧
         t.rf (R.PORTp_TC0 p.val) 31 16 = min (s.rf (R.PORTp_TC0 p.val) 31 16 + 1) 65535 ∧
         s.OnlyRegs [R.PORTp_TC0 p.val] { t with lane := s.lane }) ∧
       (rxDrop p l = some .unknown ∨ rxDrop p l = some .cut → ∃ t, exec (.cellDrop p l) s = .next t ∧
         t.rf (R.PORTp_TC0 p.val) 15 0 = min (s.rf (R.PORTp_TC0 p.val) 15 0 + 1) 65535 ∧
         s.OnlyRegs [R.PORTp_TC0 p.val] { t with lane := s.lane }) ∧
       (rxDrop p l = none → ∃ t, exec (.cellDrop p l) s = .next t ∧ { t with lane := s.lane } = s)) ∧
     (∀ (x : RxBlk) (n : Lane) (k : Nat), s.portTalks p = true → rxBad x = true →
       (s.usedLanes p.val)[x.pos.val]? = some n.val → k = s.blockSlot p s.tick →
       ((s.lane[n]).bad.length < 15 → ∃ t, exec (.cellDrop p [x]) s = .next t ∧
         t.rf (R.LANEn_CNT n.val) 31 16 = min (s.rf (R.LANEn_CNT n.val) 31 16 + 1) 65535 ∧
         t.rf (R.PORTp_TC0 p.val) 15 0 = min (s.rf (R.PORTp_TC0 p.val) 15 0 + 1) 65535 ∧
         (t.lane[n]).block = (s.lane[n]).block ∧ (t.lane[n]).bad = k :: (s.lane[n]).bad ∧ (t.lane[n]).goodAt = none ∧
         s.OnlyRegs [R.LANEn_CNT n.val, R.PORTp_TC0 p.val] { t with lane := s.lane }) ∧
       (15 ≤ (s.lane[n]).bad.length → k < ((s.lane[n]).bad.take 15).getLastD k + 64 →
         ∃ t, exec (.cellDrop p [x]) s = .next t ∧ (t.lane[n]).block = false)))

/-- Configuration accesses of a port (R366, R385 to R387): the partner's reads and writes of this device's words are
answered in its TAG; the IDENT answer that fits takes the port UP; a host access carries a TAG of its own, is repeated
three times and then ends with TIMEOUT; one on a port not UP ends with PORT_DOWN. -/
def Obligations.LinkConfiguration : Prop :=
  ∀ (p : Port) (seq tag : BitVec 16) (s : State), s.regsWf →
    (s.portTalks p = true → seq.toNat = (s.port[p]).rxNext →
      (16 ≤ p.val → (s.port[p]).answers.find? (fun x => x.1 = tag.toNat) = none →
        (∃ t, exec (.cfgRd p seq tag 4 1) s = .next t ∧
          (t.port[p]).answers.head? = some (tag.toNat, toBytes 2 tag.toNat ++ [0, 1] ++ toBytes 4 5) ∧
          (t.port[p]).rxNext = ((s.port[p]).rxNext + 1) % 65536) ∧
        (∀ (a : Word) (n : Byte), 16 ≤ a.toNat → n ≠ 0 → ∃ t, exec (.cfgRd p seq tag a n) s = .next t ∧
          (t.port[p]).answers.head? = some (tag.toNat, toBytes 2 tag.toNat ++ [1, 0])) ∧
        (∀ w : Word, ∃ t, exec (.cfgWr p seq tag 0xC [w]) s = .next t ∧ (t.port[p]).gridOfs = w ∧
          (t.port[p]).answers.head? = some (tag.toNat, toBytes 2 tag.toNat ++ [0, 0])) ∧
        (∀ w : Word, ∃ t, exec (.cfgWr p seq tag 0 [w]) s = .next t ∧ (t.port[p]).gridOfs = (s.port[p]).gridOfs ∧
          (t.port[p]).answers.head? = some (tag.toNat, toBytes 2 tag.toNat ++ [3, 0]))) ∧
      (∀ q : CfgReq, (s.port[p]).cfg = some q → q.tag = tag.toNat →
        (∀ w : Word, q.ident = false → q.msg = 0x80 → ∃ t, exec (.cfgRsp p seq tag 0 [w]) s = .next t ∧
          t.rd (R.PORTp_CFG_RDATA p.val) = w ∧ t.rf (R.PORTp_CFG_RESULT p.val) 7 0 = 0 ∧ (t.port[p]).cfg = none) ∧
        (∀ i f c : Word, q.ident = true → fld f 7 0 = State.portProfile p →
          ∃ t, exec (.cfgRsp p seq tag 0 [i, f, c]) s = .next t ∧ (t.port[p]).st = .up ∧ (t.port[p]).farId = i ∧
            (t.port[p]).cfg = none ∧ (t.port[p]).rxNext = 0))) ∧
    (∀ q : CfgReq, (s.port[p]).cfg = some q →
      q.at_ + 1000 * oneIfZero (s.rf (R.PORTp_CFG_CMD p.val) 31 16) ≤ s.tick →
      (q.repeats < 3 → ∃ t, exec (.cfgTimeout p) s = .next t ∧
        (t.port[p]).cfg = some { q with repeats := q.repeats + 1, at_ := s.tick } ∧ t.regs = s.regs) ∧
      (3 ≤ q.repeats → q.ident = false → ∃ t, exec (.cfgTimeout p) s = .next t ∧ (t.port[p]).cfg = none ∧
        t.rf (R.PORTp_CFG_RESULT p.val) 7 0 = 4)) ∧
    ((s.port[p]).cfg.isSome = true → exec (.cfgRead p) s = .next s ∧ exec (.cfgWrite p) s = .next s) ∧
    ((s.port[p]).cfg = none → (s.port[p]).st = .up →
      (∃ t, exec (.cfgRead p) s = .next t ∧ t.regs = s.regs ∧ t.mem = s.mem ∧ (t.port[p]).cfg = some
        { tag := (s.port[p]).tag, msg := 0x80, repeats := 0, at_ := s.tick, ident := false,
          data := State.cfgBytes (s.port[p]).tag (s.rd (R.PORTp_CFG_ADDR p.val)).toNat 1 [] }) ∧
      ∃ t, exec (.cfgWrite p) s = .next t ∧ t.regs = s.regs ∧ t.mem = s.mem ∧ (t.port[p]).cfg = some
        { tag := (s.port[p]).tag, msg := 0x81, repeats := 0, at_ := s.tick, ident := false,
          data := State.cfgBytes (s.port[p]).tag (s.rd (R.PORTp_CFG_ADDR p.val)).toNat 1
            [s.rd (R.PORTp_CFG_WDATA p.val)] }) ∧
    ((s.port[p]).cfg = none → (s.port[p]).st ≠ .up →
      (∃ t, exec (.cfgRead p) s = .next t ∧ t.rf (R.PORTp_CFG_RESULT p.val) 7 0 = 5 ∧
        s.OnlyRegs [R.PORTp_CFG_RESULT p.val] t) ∧
      ∃ t, exec (.cfgWrite p) s = .next t ∧ t.rf (R.PORTp_CFG_RESULT p.val) 7 0 = 5 ∧
        s.OnlyRegs [R.PORTp_CFG_RESULT p.val] t)

/-- The rope pair forms and keeps its time (R7, R393 to R398, R413): ROPE_UP of an idle, unpaired device with a partner SECOND
begins JOINING, and is refused otherwise; equal configuration digests take both devices on, unequal ones end the attempt with
RESULT 3; JOINED pairs the SECOND on the grid of the measured offset; LEAVE makes the LEAD of a pair SOLO and ends a ROPE_UP
with the result of its step; TWIN_TIME keeps the offset under watch from its stamps, and the skew of a pair is judged once
per ms. -/
def Obligations.TwinJoin : Prop :=
  (∀ (s : State), s.regsWf → s.noArmWaits →
     (s.hasTwin = true → s.rb R.TWIN_RESULT 23 = false → s.rf R.TWIN_CTL 1 0 ≠ 2 → s.twin.pair = 0 → s.joinOk = true →
       (s.portUp 32 = true → (s.port[State.tp]).farProf.toNat % 256 = 5 → s.twin.farRole = some 2 →
         ∃ t, exec .ropeUp s = .next t ∧ t.twin.role = 1 ∧ t.twin.pair = 1 ∧ t.twin.lead = true ∧ t.twin.step = 1 ∧
           t.rb R.TWIN_RESULT 23 = true ∧ t.job = s.job ∧ t.mem = s.mem) ∧
       (s.portUp 32 = false → ∃ t, exec .ropeUp s = .next t ∧ t.twin = s.twin ∧ t.rf R.TWIN_RESULT 7 0 = 2)) ∧
     (s.hasTwin = true → s.rb R.TWIN_RESULT 23 = false → s.twin.pair ≠ 0 →
       ∃ t, exec .ropeUp s = .next t ∧ t.twin = s.twin ∧ t.rf R.TWIN_RESULT 7 0 = 1) ∧
     (∀ (seq : BitVec 16) (d : DWord), s.TakesTwin seq →
       (s.twin.role = 1 → s.twin.pair = 1 → s.twin.step = 1 →
         (d = s.cfgDigest → ∃ t, exec (.twinCfg seq d) s = .next t ∧ t.twin.step = 2 ∧ t.twin.pair = 1 ∧
           t.twin.deltas = [] ∧ t.twin.farCfg = some d) ∧
         (d ≠ s.cfgDigest → ∃ t, exec (.twinCfg seq d) s = .next t ∧ t.twin.pair = 0 ∧ t.twin.role = 0 ∧
           t.twin.lead = true ∧ t.rf R.TWIN_RESULT 7 0 = 3 ∧ t.job = s.job)) ∧
       (s.twin.role = 2 → s.twin.pair = 0 → s.joinOk = true →
         ∃ t, exec (.twinCfg seq d) s = .next t ∧ t.twin.role = 2 ∧
           t.twin.pair = (if d = s.cfgDigest then 1 else 0) ∧ t.job = s.job ∧ t.mem = s.mem) ∧
       (s.twin.role = 2 → s.twin.pair = 0 → s.joinOk = false →
         ∃ t, exec (.twinCfg seq d) s = .next t ∧ t.twin = { s.twin with farCfg := some d } ∧ t.job = s.job ∧
           t.mem = s.mem) ∧
       (s.twin.role = 2 → s.twin.pair = 1 → ∃ t, exec (.twinJoined seq) s = .next t ∧ t.twin.pair = 2 ∧
         t.twin.role = 2 ∧ t.twin.lead = false ∧ t.twin.ofs = s.twin.timeRef ∧ t.job = s.job ∧ t.mem = s.mem) ∧
       (∀ cause : Byte, s.pairLead = true → ∃ t, exec (.twinLeave seq cause) s = .next t ∧ t.twin.pair = 0 ∧
         t.twin.role = 0 ∧ t.twin.lead = true ∧ t.job = s.job ∧ t.mem = s.mem) ∧
       (∀ cause : Byte, s.twin.role = 1 → s.twin.pair = 1 → ∃ t, exec (.twinLeave seq cause) s = .next t ∧
         t.twin.pair = 0 ∧ t.twin.role = 0 ∧ t.twin.lead = true ∧ (s.twin.step = 2 → t.rf R.TWIN_RESULT 7 0 = 4) ∧
         (s.twin.step = 3 → t.rf R.TWIN_RESULT 7 0 = 5) ∧ t.job = s.job) ∧
       (∀ (first : Byte) (l : List (BitVec 16)), s.rttsIn = false → s.twin.pair ≠ 2 → s.twin.step ≠ 3 →
         ∃ t, exec (.twinRtt seq first l) s = .next t ∧
           (∀ (i : Nat) (r : BitVec 16), l[i]? = some r → sget (first.toNat + i) t.twin.farRtt = some r.toNat) ∧
           t.twin.pair = s.twin.pair ∧ t.regs = s.regs))) ∧
  ((∀ (gap : Nat) (s : State), gap = (if s.twin.pair = 1 then 10000 else 1000000) → s.portUp 32 = true →
       (s.twin.txAt.head?.all (fun u => u + gap ≤ s.tick) = true →
         ∃ t x, exec .twinTimeSend s = .next t ∧ t.sent = x :: s.sent ∧ x.port = 32 ∧ x.msg = 0x32 ∧ x.f = true ∧
           x.data.head? = some s.frc.toNat ∧ t.twin = { s.twin with txAt := (s.tick :: s.twin.txAt).take 8 } ∧
           { t with sent := s.sent, twin := s.twin } = s) ∧
       (∀ u rest, s.twin.txAt = u :: rest → s.tick < u + gap → exec .twinTimeSend s = .next s)) ∧
   (∀ (l a : Word) (s : State), s.twin.pair = 0 →
       ∃ t, exec (.twinTime l a) s = .next t ∧ { t with twin := s.twin } = s ∧
         t.twin = { s.twin with rxAt := some s.tick, farExt := s.twin.farExt + (l - w32 s.twin.farExt).toNat }) ∧
   (∀ (l a : Word) (far tx : Nat) (arr held d e : Int) (s : State), s.regsWf → s.twin.pair = 2 → s.twin.rxAt.isSome = true →
       far = s.twin.farExt + (l - w32 s.twin.farExt).toNat → arr = (far : Int) + diff32 a (w32 far) →
       held = (far : Int) - arr → 0 ≤ held → s.twin.txAt.find? (fun u : Nat => decide ((u : Int) ≤ (s.tick : Int) - held)) = some tx →
       d = (if s.twin.role = 2 then (arr - tx) - ((s.tick : Int) - far) else ((s.tick : Int) - far) - (arr - tx)) →
       e = d - 2 * s.twin.timeRef →
       ∃ t, exec (.twinTime l a) s = .next t ∧ t.twin.rxAt = some s.tick ∧ t.twin.farExt = far ∧
         (4 < e.natAbs → t.twin.timeBad = min 3 (s.twin.timeBad + 1) ∧ t.twin.timeGood = 0) ∧
         (e.natAbs ≤ 4 → t.twin.timeBad = 0 ∧ t.twin.timeGood = min 3 (s.twin.timeGood + 1) ∧ t.hub = s.hub ∧
           t.twin.timeOk = (s.twin.timeOk || decide (2 ≤ s.twin.timeGood))) ∧
         (4 < e.natAbs → s.twin.timeBad = 2 → s.twin.timeOk = true → t.twin.timeOk = false ∧
           (s.twin.role = 2 → s.Reports 0x4B t) ∧ (s.twin.role ≠ 2 → t.hub = s.hub)) ∧ t.mem = s.mem ∧ t.job = s.job) ∧
   (∀ s : State, s.twin.pair = 2 →
       (∀ u, s.twin.skewAt = some u → s.tick < u + 1000000 → exec .twinSkewCheck s = .next s) ∧
       ((∀ u, s.twin.skewAt = some u → u + 1000000 ≤ s.tick) →
         (s.rttsIn = false → ∃ t, exec .twinSkewCheck s = .next t ∧ t.twin = { s.twin with skewAt := some s.tick } ∧
           t.hub = s.hub ∧ t.mem = s.mem ∧ t.job = s.job) ∧
         (s.rttsIn = true → ∃ t, exec .twinSkewCheck s = .next t ∧
           t.twin = { s.twin with skewAt := some s.tick, skewBad := decide (400 ≤ (s.skewMax).1) } ∧
           (400 ≤ (s.skewMax).1 → s.twin.skewBad = false → s.Reports 0x4C t) ∧
           ((s.skewMax).1 < 400 ∨ s.twin.skewBad = true → t.hub = s.hub) ∧ t.mem = s.mem ∧ t.job = s.job))))

/-- Who holds the lead (R7, R390, R409 to R414), each command on its own: HANDOVER of an idle LEAD of a pair completes with
the lead bit to be cleared at the next sample; CONFIRM_SOLO and RELEASE_LEAD of a BROKEN device complete as SOLO and as an
unpaired SECOND; ROLE_CFG_WRITE takes the role where nothing is live; TWIN_HB_MISSING counts, breaks the pair on the LEAD
and decides a takeover on the SECOND; TWIN_TAKE on the SECOND sets the tick of its change, and a LEAD in BELAY sends it;
TAKEOVER gives the SECOND the lead, unless it was in BELAY on the decision tick. A part without the twin port ignores the
commands of TWIN_CMD and TWIN_CTL. -/
def Obligations.TwinLead : Prop :=
  (∀ s : State, s.hasTwin = true → s.regsWf → s.rb R.TWIN_RESULT 23 = false → s.pairLead = true → s.dev.state = .idle →
    s.twin.leadAt = none →
    ∃ t, exec .handover s = .next t ∧ t.twin.leadAt = some (s.sampleAt (s.sample + 1), false) ∧
      t.twin.sentCause = 0 ∧ t.twin.lead = s.twin.lead ∧ t.rf R.TWIN_RESULT 7 0 = 0 ∧ t.job = s.job) ∧
  (∀ s : State, s.hasTwin = true → s.regsWf → s.rb R.TWIN_RESULT 23 = false → s.pairLead = false →
    ∃ t, exec .handover s = .next t ∧ t.twin = s.twin ∧ t.rf R.TWIN_RESULT 7 0 = 1) ∧
  (∀ s : State, s.hasTwin = true → s.regsWf → s.rb R.TWIN_RESULT 23 = false → s.twin.pair = 3 →
    ∃ t, exec .confirmSolo s = .next t ∧ t.twin.pair = 0 ∧ t.twin.role = 0 ∧ t.twin.lead = true ∧
      t.twin.confirm = false ∧ t.rf R.TWIN_RESULT 7 0 = 0 ∧ t.job = s.job) ∧
  (∀ s : State, s.hasTwin = true → s.regsWf → s.rb R.TWIN_RESULT 23 = false → s.twin.pair = 3 → s.runSlot = none →
    ∃ t, exec .releaseLead s = .next t ∧ t.twin.pair = 0 ∧ t.twin.role = 2 ∧ t.twin.lead = false ∧
      t.rf R.TWIN_RESULT 7 0 = 0 ∧ t.job = s.job ∧ ∀ b : Beam, t.lgate b = false) ∧
  (∀ s : State, s.hasTwin = true → s.regsWf → s.rb R.TWIN_RESULT 23 = false → s.twin.pair ≠ 3 →
    ∃ t, exec .confirmSolo s = .next t ∧ t.twin = s.twin ∧ t.rf R.TWIN_RESULT 7 0 = 1) ∧
  (∀ (v : Fin 4) (s : State), s.hasTwin = true → s.regsWf → s.twin.pair = 0 → s.slotsQuiet = true →
    ∃ t, exec (.roleCfgWrite v) s = .next t ∧ t.rf R.TWIN_CTL 1 0 = v.val ∧
      t.twin.role = (if v.val = 2 then 2 else 0) ∧ t.twin.lead = decide (v.val ≠ 2) ∧ t.twin.pair = 0 ∧ t.job = s.job) ∧
  (∀ (v : Fin 4) (s : State), s.hasTwin = true → s.regsWf → (s.twin.pair ≠ 0 ∨ s.slotsQuiet = false) →
    ∃ t, exec (.roleCfgWrite v) s = .next t ∧ t.twin = s.twin ∧ t.rb R.TWIN_STATUS 6 = true ∧
      s.OnlyRegs [R.TWIN_STATUS] t) ∧
  (∀ s : State, s.hasTwin = false → exec .ropeUp s = .next s ∧ exec .handover s = .next s ∧ exec .confirmSolo s = .next s ∧
    exec .releaseLead s = .next s ∧ ∀ v : Fin 4, exec (.roleCfgWrite v) s = .next s) ∧
  (∀ s : State, s.regsWf → s.noArmWaits → s.twin.pair = 2 → s.sample % 20 = 0 → s.sampleAt s.sample = s.tick →
    (∀ j, s.twin.hbLast = some j → j + 20 < s.sample) →
    (s.twin.hbMiss < 2 → ∃ t, exec .twinHbMissing s = .next t ∧ t.twin.hbMiss = s.twin.hbMiss + 1 ∧
      t.twin.hbGood = 0 ∧ t.twin.pair = 2 ∧ t.twin.lead = s.twin.lead) ∧
    (2 ≤ s.twin.hbMiss → s.twin.role = 1 → ∃ t, exec .twinHbMissing s = .next t ∧ t.twin.pair = 3 ∧
      t.twin.confirm = true ∧ s.Reports 0x4A t ∧ t.job = s.job) ∧
    (2 ≤ s.twin.hbMiss → s.twin.role = 2 → s.rb R.TWIN_CTL 2 = true → s.twin.decideAt = none → s.twin.decided = none →
      ∃ t, exec .twinHbMissing s = .next t ∧ t.twin.decideAt = some s.tick ∧ t.twin.hbTake = true ∧ t.twin.pair = 2 ∧
        t.twin.decided.map (·.1) = some (!s.dev.inBelay))) ∧
  (∀ s : State, s.twin.pair = 2 → (∃ j, s.twin.hbLast = some j ∧ s.sample ≤ j + 20) → exec .twinHbMissing s = .next s) ∧
  (∀ (m : TakeMsg) (s : State), s.pairSecond = true →
    (m.cause = 0 → ∃ t, exec (.twinTake m) s = .next t ∧ { t with twin := s.twin } = s ∧
      t.twin = { s.twin with leadAt := some (s.sampleAt (s.sampleNear m.sidx + 2), true), takeCause := 0 }) ∧
    (m.cause = 1 ∨ m.cause = 2 → ∃ t, exec (.twinTake m) s = .next t ∧ { t with twin := s.twin } = s ∧
      t.twin = { s.twin with leadAt := none, decideAt := some (s.tick + 500), decided := none, hbTake := false,
                             takeCause := m.cause.val })) ∧
  (∀ (m : TakeMsg) (s : State), s.pairLead = true → m.cause = 1 → s.dev.inBelay = true → s.portUp 32 = true →
    s.twin.leadAt = none →
    ∃ t x, exec (.twinTake m) s = .next t ∧ t.sent = x :: s.sent ∧ x.port = 32 ∧ x.msg = 0x31 ∧ x.data = [1] ∧
      t.twin = { s.twin with leadAt := some (s.sampleAt (s.sample + 1), false), sentCause := 1 }) ∧
  (∀ (d : Nat) (s : State), s.twin.decideAt = some d → s.sampleAt (s.sampleOf d + 1) ≤ s.tick →
    (s.twin.decided.map (·.1)).getD (!s.dev.inBelay) = false →
    ∃ t, exec .takeover s = .next t ∧ t.twin = { s.twin with decideAt := none, decided := none } ∧
      { t with twin := s.twin } = s) ∧
  (∀ (d : Nat) (s : State), s.regsWf → s.noArmWaits → s.twin.decideAt = some d →
    s.sampleAt (s.sampleOf d + 1) ≤ s.tick → (s.twin.decided.map (·.1)).getD (!s.dev.inBelay) = true → s.pairSecond = true →
    ∃ t, exec .takeover s = .next t ∧ t.twin.lead = true ∧ t.twin.decideAt = none ∧
      t.twin.pair = (if s.twin.hbTake then 3 else 0) ∧ t.twin.confirm = (s.twin.hbTake || s.twin.confirm) ∧
      (∃ r ∈ t.hub.pending, r.id = 0x49) ∧
      (s.runSlot = none → s.Reports 0x49 t ∧ t.job = s.job) ∧
      (∀ n : Slot, s.runSlot = some n → (s.twin.decided.map (·.2)).getD s.takeReady = false → s.dev.holdReq = 0 →
        t.dev.holdReq = 1 ∧ t.rb R.TWIN_STATUS 7 = true))

/-- Checkpoints and the commands of a pair (R400 to R403, R406 to R408): the digest of a window is kept and sent; two
digests that differ, or a missing one, dissolve the pair with TWIN_DIVERGE; equal ones do not; a timed command waits for
its tick and acts there, and one that comes too late is a divergence. -/
def Obligations.TwinCheckpoints : Prop :=
  ∀ (s : State), s.twin.pair = 2 → s.regsWf → s.noArmWaits →
    (∀ k0 last : Nat, s.twin.winAt = some k0 → last = s.winLast k0 → last + 20 ≤ s.sample →
      s.twin.theirs.find? (fun x => x.1 = s.twin.winNo) = none →
      ∃ t d, exec .checkpointDigest s = .next t ∧ t.twin.mine = (s.twin.winNo, last, d) :: s.twin.mine ∧
        t.twin.winNo = s.twin.winNo + 1 ∧ t.twin.pair = 2 ∧
        (s.twin.winEnd = none → t.twin.winAt = some (last + 1) ∧ ∀ x ∈ t.twin.items, last < x.k) ∧
        t.hub = s.hub ∧ t.mem = s.mem ∧ t.job = s.job) ∧
    (∀ (num : Word) (x : DWord),
      (s.twin.mine.find? (fun y => y.1 = num.toNat) = none → ∃ t, exec (.twinDigest num x) s = .next t ∧
        t.twin.theirs = s.twin.theirs ++ [(num.toNat, x)] ∧ { t with twin := s.twin } = s) ∧
      (∀ (last : Nat) (d : DWord), s.twin.mine.find? (fun y => y.1 = num.toNat) = some (num.toNat, last, d) →
        (d = x → ∃ t, exec (.twinDigest num x) s = .next t ∧ t.twin.agreed = some last ∧ t.twin.pair = 2 ∧
          t.hub = s.hub ∧ t.rd R.TWIN_CP = num) ∧
        (d ≠ x → ∃ t, exec (.twinDigest num x) s = .next t ∧ t.twin.pair = 0 ∧ s.Reports 0x48 t ∧ t.job = s.job))) ∧
    (∀ y ∈ s.twin.mine, y.2.1 + 20 * clampN 5 255 (s.rf R.TWIN_CHECK 23 16) ≤ s.sample → 3 ≤ s.twin.hbGood →
      ∃ t, exec .digestTimeout s = .next t ∧ t.twin.pair = 0 ∧ s.Reports 0x48 t ∧ t.job = s.job) ∧
    (∀ (c : TimedCmd) (rest : List TimedCmd), s.twin.timed = c :: rest →
      (s.tick < c.at_ → exec .twinCmdEffective s = .next s) ∧
      (c.at_ ≤ s.tick → c.op = 3 → s.noStartDue → (∀ n : Slot, n.val = c.slot % 4 → (s.js n).st ≠ .armed) →
        ∃ t, exec .twinCmdEffective s = .next t ∧ t.twin = { s.twin with timed := rest } ∧ t.job = s.job ∧
          (s.rb R.JOB_RESULT 23 = true → t.rb R.JOB_RESULT 23 = false ∧ t.rf R.JOB_RESULT 7 0 = 2)) ∧
      (c.at_ ≤ s.tick → s.rb R.JOB_RESULT 23 = true →
        ∃ t, exec .twinCmdEffective s = .next t ∧ t.rb R.JOB_RESULT 23 = false)) ∧
    (∀ (seq : BitVec 16) (op slot : Byte) (a : BitVec 64), s.TakesTwin seq →
      (∃ t, exec (.twinCtlCmd seq 16 slot a) s = .next t ∧ t.twin.pair = 0 ∧ s.Reports 0x48 t ∧ t.job = s.job) ∧
      (s.twin.role = 2 → op ≠ 16 → a ≠ 0 → s.tick ≤ s.ofPair a.toNat →
        ∃ t, exec (.twinCtlCmd seq op slot a) s = .next t ∧ t.job = s.job ∧ t.twin.pair = 2 ∧
          t.twin.timed = s.twin.timed ++ [⟨op.toNat, slot.toNat % 4, s.ofPair a.toNat, false⟩]) ∧
      (s.twin.role = 2 → op ≠ 16 → a ≠ 0 → s.ofPair a.toNat < s.tick →
        ∃ t, exec (.twinCtlCmd seq op slot a) s = .next t ∧ t.twin.pair = 0 ∧ s.Reports 0x48 t))

/-- What the LEAD forwards to its SECOND (R350, R384, R397, R399 to R402, R404): objects and their bytes inside DDR5,
ledger cells and runs of zeros, ledger time, the head's correction, stop records, S; on a LEAD, the SECOND's answer. -/
def Obligations.TwinForwarding : Prop :=
  ∀ (seq : BitVec 16) (s : State), s.TakesTwin seq → s.regsWf → s.memWf → s.noArmWaits →
    (s.twin.role = 2 → ∀ (a : BitVec 64) (len crc : Word), ∃ t, exec (.twinObj seq a len crc) s = .next t ∧
      t.twin.obj = some (a.toNat, len.toNat, crc) ∧ t.mem = s.mem ∧ t.job = s.job) ∧
    (∀ (o : Nat × Nat × Word) (ofs : Word) (l : List Byte), s.twin.obj = some o →
      s.inDdr (o.1 + ofs.toNat) l.length = true →
      ∃ t, exec (.twinFwd seq ofs l) s = .next t ∧ t.rdBytes (o.1 + ofs.toNat) l.length = l ∧
        (∀ q : Nat, q < o.1 + ofs.toNat ∨ o.1 + ofs.toNat + l.length ≤ q → t.rdByte q = s.rdByte q) ∧ t.job = s.job) ∧
    (s.twin.role = 2 → s.twin.pair ≠ 0 →
      (∀ (ofs : Word) (l : List DWord), ∃ t, exec (.twinLdg seq ofs l) s = .next t ∧
        (∀ (i : Nat) (w : DWord), l[i]? = some w → t.cellWord (ofs.toNat + i) = w) ∧
        (∀ ix : Nat, ix < ofs.toNat ∨ ofs.toNat + l.length ≤ ix → t.cellWord ix = s.cellWord ix)) ∧
      (∀ first count : Word, ∃ t, exec (.twinZero seq first count) s = .next t ∧
        (∀ ix : Nat, first.toNat ≤ ix → ix < first.toNat + count.toNat → t.cellWord ix = 0) ∧
        (∀ ix : Nat, ix < first.toNat ∨ first.toNat + count.toNat ≤ ix → t.cellWord ix = s.cellWord ix)) ∧
      (∀ m : StateMsg, ∃ t, exec (.twinState seq m) s = .next t ∧ t.ldg.ltBase = m.lt.toNat % 2 ^ 24 ∧
        t.ldg.ltAt = s.ofPair m.at_.toNat ∧ t.ldg.tau = some (m.tau.toNat % 2 ^ 24) ∧ t.ldg.layer = m.layer.toNat ∧ t.ldg.kl = some m.kl.toNat ∧ t.mem = s.mem) ∧
      (∀ (b : Beam) (h : Byte) (m00 m01 m10 m11 ox oy : Word), h.toNat = b.val →
        ∃ t, exec (.twinDrift seq h m00 m01 m10 m11 ox oy) s = .next t ∧ t.rd (R.CAL_Hn_M00 b.val) = m00 ∧
          t.rd (R.CAL_Hn_M11 b.val) = m11 ∧ t.rd (R.CAL_Hn_OX b.val) = ox ∧ t.rd (R.CAL_Hn_OY b.val) = oy ∧
          (t.cal.head[b]).checked = true ∧ t.mem = s.mem)) ∧
    (s.pairSecond = true →
      (∀ m : StopMsg, ∃ t x, exec (.twinStop seq m) s = .next t ∧ (t.be[m.beam]).stop = some x ∧
          x.kind = m.kindForm.toNat % 16 ∧ x.form = m.kindForm.toNat / 16 % 4 ∧ x.at_ = s.ofPair m.at_.toNat ∧
          x.pc = m.pc.toNat ∧ x.pt = ⟨m.x.toInt, m.y.toInt⟩ ∧ x.rem = m.rem.toNat ∧ x.kept.pc = m.pc.toNat ∧
          (∀ k : Beam, k ≠ m.beam → t.be[k] = s.be[k]) ∧ t.job = s.job ∧ t.regs = s.regs) ∧
      (∀ (slot : Byte) (n : Slot) (a : BitVec 64), n.val = slot.toNat % 4 → (s.js n).st = .armed →
        (s.tick ≤ s.ofPair a.toNat → ∃ t, exec (.twinStart seq slot a) s = .next t ∧
          (t.js n).s = some (s.ofPair a.toNat) ∧ (t.js n).st = .armed ∧ t.mem = s.mem) ∧
        (s.ofPair a.toNat < s.tick → ∃ t, exec (.twinStart seq slot a) s = .next t ∧ t.twin.pair = 0 ∧
          s.Reports 0x48 t ∧ t.job = s.job))) ∧
    (s.pairLead = true → ∀ (slot code : Byte) (n : Slot) (f d : BitVec 64), n.val = slot.toNat % 4 →
      ∃ t, exec (.twinAdm seq slot code f d) s = .next t ∧ (t.js n).twinAns = some (code.toNat, f.toNat, d) ∧
        (t.js n).st = (s.js n).st ∧ t.mem = s.mem)

/-- FAULT_REPORT, FLT_ACK, FLT_FORCE, SHADOW_CLOSE and QUIET_PERIOD_END (R420, R421, R423, R424, R426 to R429): a report
waits for the other commands of its tick; then one outside every shadow, into the empty latch of its class, is latched as
first with SEQ advanced, and in class U or F enters BELAY; of two F-class reports of a tick the lower ID is latched, in
whatever order they came; an acknowledge with the latch's SEQ clears it, another sets ACK_BAD; a forced bit makes a report
marked FORCED; expired shadows close; a quiet period that ends leaves BELAY, or makes it sticky where TALLY would reach
TALLY_MAX. -/
def Obligations.FaultHub : Prop :=
  (∀ (id unit : Byte) (detail : BitVec 16) (s : State), s.dev.state ≠ .reset → fltKnown id.toNat = true →
      id ≠ 1 → id ≠ 5 →
      ∃ t, exec (.faultReport id unit detail) s = .next t ∧ { t with hub := s.hub } = s ∧
        t.hub = { s.hub with pending :=
          s.hub.pending ++ [⟨id.toNat, unit.toNat % 64, detail.zeroExtend 32, s.tick, false⟩] }) ∧
  (∀ (unit : Byte) (detail : BitVec 16) (s : State), s.dev.state ≠ .reset → s.dev.state ≠ .boot →
      (∃ t, exec (.faultReport 1 unit detail) s = .next t ∧ s.Reports 1 t ∧ t.dev = { s.dev with shpHalt := true } ∧
        { t with hub := s.hub, dev := s.dev } = s) ∧
      (∃ t, exec (.faultReport 5 unit detail) s = .next t ∧ s.Reports 5 t ∧ t.mem = s.mem ∧ t.job = s.job ∧
        ∀ b : Beam, b ∉ s.servedBy (fld (detail.zeroExtend 32) 3 0) (unit.toNat % 64) → t.be[b] = s.be[b])) ∧
  (∀ (id unit : Byte) (detail : BitVec 16) (s : State), s.dev.state = .reset ∨ fltKnown id.toNat = false →
      exec (.faultReport id unit detail) s = .next s) ∧
  (∀ (r : Report) (s : State), s.pending = [] → s.hub.pending = [r] →
      s.dev.state ≠ .reset → s.dev.state ≠ .boot → (∀ h ∈ s.hub.shadows, h.until_ ≤ s.tick) →
      (s.hub.latch[State.clsIx (s.fltClass r)]).valid = false →
      ∃ t l, step s = .next t ∧ l = t.hub.latch[State.clsIx (s.fltClass r)] ∧
        l.valid = true ∧ l.id = r.id ∧ l.unit = r.unit ∧ l.detail = fld r.detail 15 0 ∧ l.forced = r.forced ∧
        l.esc = false ∧ l.orig = s.fltClass r + 1 ∧ l.frc = w32 r.at_ ∧
        l.seq = ((s.hub.latch[State.clsIx (s.fltClass r)]).seq + 1) % 256 ∧
        (∀ k : Fin 3, k ≠ State.clsIx (s.fltClass r) → t.hub.latch[k] = s.hub.latch[k]) ∧
        (s.fltClass r ≠ 0 → t.dev.inBelay = true)) ∧
  (∀ (x y : Report) (l : List Report) (s : State), s.pending = [] → (l = [x, y] ∨ l = [y, x]) → s.hub.pending = l →
      s.dev.state ≠ .reset → s.dev.state ≠ .boot → s.fltClass x = 2 → s.fltClass y = 2 → x.id < y.id →
      (s.hub.latch[2]).valid = false →
      ∃ t, step s = .next t ∧ (t.hub.latch[2]).id = x.id ∧ (t.hub.latch[2]).valid = true ∧ (t.hub.latch[2]).ovf = true ∧
        (t.hub.latch[2]).dbl = true ∧ t.dev.sticky = true ∧ t.dev.inBelay = true) ∧
  (∀ (cls : Fin 4) (seq : Byte) (k : Fin 3) (l : Latch) (s : State), cls.val = k.val + 1 → l = s.hub.latch[k] →
      ∃ t, exec (.fltAck cls seq) s = .next t ∧ s.OnlyRegs [R.FLT_ACK, R.FLT_STATUS] { t with hub := s.hub } ∧
        (l.valid = true → l.seq = seq.toNat → t.hub.latch[k] = { l with valid := false, ovf := false, dbl := false, rep := 0 } ∧
          (∀ m : Fin 3, m ≠ k → t.hub.latch[m] = s.hub.latch[m]) ∧ t.rd R.FLT_STATUS = s.rd R.FLT_STATUS) ∧
        (¬(l.valid = true ∧ l.seq = seq.toNat) → t.hub = s.hub ∧ (s.regsWf → t.rb R.FLT_STATUS 5 = true))) ∧
  (∀ (k : Fin 8) (b : Fin 32) (s : State), s.rb R.FLT_CTL 4 = true → fltKnown (32 * k.val + b.val) = true →
      ((fltSram (32 * k.val + b.val) = false ∧ s.forceUnit (32 * k.val + b.val) (s.rf R.FLT_FORCE_UNIT 5 0) = true) ∨
        (fltSram (32 * k.val + b.val) = true ∧
          ∃ f : Nat, f ≠ 0 ∧ f < 10 ∧ s.unitThere f (s.rf R.FLT_FORCE_UNIT 5 0) = true)) →
      ∃ t r, exec (.fltForce k (w32 (2 ^ b.val))) s = .next t ∧ r ∈ t.hub.pending ∧ r.id = 32 * k.val + b.val ∧
        r.forced = true ∧ (∀ x ∈ s.hub.pending, x ∈ t.hub.pending)) ∧
  (∀ (k : Fin 8) (bits : Word) (s : State), s.rb R.FLT_CTL 4 = false → exec (.fltForce k bits) s = .next s) ∧
  (∀ s : State, ∃ t, exec .shadowClose s = .next t ∧
      t.hub.shadows = s.hub.shadows.filter (fun x => decide (s.tick < x.until_)) ∧
      { t with hub := { t.hub with shadows := s.hub.shadows } } = s) ∧
  (∀ (e : Nat) (s : State), s.quietEnd = some e → e ≤ s.tick → s.dev.sticky = false →
      (s.tally + 1 < oneIfZero (s.rf R.FLT_TALLY_CFG 3 0) →
        ∃ t, exec .quietPeriodEnd s = .next t ∧ t.dev.inBelay = false ∧ t.dev.sticky = false ∧
          t.hub.exits = (s.recd.opMs :: s.hub.exits).take 15 ∧ t.hub.latch = s.hub.latch ∧ t.job = s.job) ∧
      (oneIfZero (s.rf R.FLT_TALLY_CFG 3 0) ≤ s.tally + 1 →
        ∃ t, exec .quietPeriodEnd s = .next t ∧ t.dev.inBelay = true ∧ t.dev.sticky = true ∧ t.hub.stickyCause = 1 ∧
          t.hub.exits = s.hub.exits ∧ t.job = s.job))

/-- The recovery ladder (R428, R430, R431, R434, R435): a step that R430 does not define is BAD_STEP and does nothing;
step 1 of the ledger starts its sweep pass again and is in progress; a step that ends posts OK or FAILED and starts the
quiet period again; the key takes both writes within 1 ms; a pulse of PWR_CYC_N that ends above VRESET is a warm reset
with CYC_FAIL. -/
def Obligations.RecoveryLadder : Prop :=
  (∀ (func : Fin 16) (unit : Fin 64) (step : Fin 8) (s : State), s.hub.ladder = [] →
      (step = 0 ∨ 5 ≤ step.val ∨ func = 0 ∨ 10 ≤ func.val ∨ (func = 9 ∧ step.val ≤ 2) ∨ (func.val < 9 ∧ 3 ≤ step.val)) →
      s.regsWf →
      ∃ t, exec (.ladderRequest func unit step) s = .next t ∧ t.rf R.SYS_LADDER_CODE 7 0 = 1 ∧ t.hub = s.hub ∧
        t.dev = s.dev ∧ t.job = s.job ∧ t.be = s.be ∧ t.mem = s.mem) ∧
  (∀ (unit : Fin 64) (s : State), s.hub.ladder = [] → unit = 0 → s.dev.sticky = false → s.runSlot = none →
      ∃ t, exec (.ladderRequest 7 unit 1) s = .next t ∧
        t.hub.ladder = [{ func := 7, unit := 0, step := 1, at_ := s.tick, auto := false }] ∧ t.hub.quietAt = s.tick ∧
        t.ldg.sweep = 0 ∧ t.ldg.sweepLate = false ∧ t.job = s.job) ∧
  (∀ (func : Fin 16) (unit : Fin 64) (step : Fin 8) (s : State), s.hub.ladder ≠ [] →
      exec (.ladderRequest func unit step) s = .next s) ∧
  (∀ (key : BitVec 16) (s : State), ∃ t, exec (.ladderKey key) s = .next t ∧
      { t with hub := { t.hub with key := s.hub.key, keyAt := s.hub.keyAt } } = s ∧
      (key = 0xC1A5#16 → t.hub.key = 1 ∧ t.hub.keyAt = s.tick) ∧
      (key = 0x3E5A#16 → (t.hub.key = 2 ↔ s.hub.key = 1 ∧ s.tick ≤ s.hub.keyAt + 1000000)) ∧
      (key ≠ 0xC1A5#16 → key ≠ 0x3E5A#16 → t.hub.key = 0)) ∧
  (∀ (func : Fin 16) (unit : Fin 64) (ok : Bool) (x : LadderRun) (s : State), s.hub.ladder = [x] → x.func = func.val →
      x.unit = unit.val → x.func ∉ [3, 4, 5, 9] → s.regsWf →
      ∃ t, exec (.ladderStepDone func unit ok) s = .next t ∧ t.hub.ladder = [] ∧ t.hub.quietAt = s.tick ∧
        t.rf R.SYS_LADDER_CODE 7 0 = (if ok then 0 else 7) ∧ t.dev = s.dev ∧ t.job = s.job ∧ t.mem = s.mem) ∧
  (∀ (e : Nat) (s : State), s.hub.pwrCyc = some e → e ≤ s.tick → s.dev.state ≠ .reset → s.dev.rstLow = false →
      s.dev.belowVreset = false → s.regsWf →
      ∃ t, exec .pwrCycEnd s = .next t ∧ t.dev.state = .boot ∧ t.dev.rstCause = 1 ∧ t.hub.pwrCyc = none ∧ t.tick = 0 ∧
        ((∀ x ∈ s.mram.curves, x.1 < 16 ∧ x.2.length ≤ 33) → (∀ x ∈ s.mram.ports, x.1 < 35) →
          t.rb R.FLT_PRE_RESET 4 = true))

/-- The event recorder (R436, R439 to R448): the writing of the front record begins with the control block, and ends with
HEAD moved past it; the control block is written one copy after the other; a freeze holds the areas once the record being
written has ended, and ends by request or after TMO; CRC mode ends 10 ms after VWARN; a read returns 4 bytes and
advances; a clear needs the key of its own path within 1 ms and leaves a CLEARED record. -/
def Obligations.EventRecorder : Prop :=
  (∀ (r : Rec) (q : List Rec) (n : Nat) (s : State), s.recd.queue = r :: q → s.recd.frozen = false →
      s.recd.cur = none → s.dev.shpHalt = false → r.type ≠ 3 → n = State.recLen s.crcMode r.payload.length →
      s.recd.head + n ≤ ringSize →
      ∃ t, exec .recordWrite s = .next t ∧ t.recd.queue = q ∧ t.recd.head = s.recd.head ∧
        t.recd.cur = some ⟨r, s.crcMode, s.recd.head, n, 2⟩ ∧ t.recd.cbSeq = (s.recd.cbSeq + 1) % 2 ^ 32 ∧
        t.mem = s.mem ∧ t.job = s.job ∧ t.dev = s.dev ∧ t.hub = s.hub) ∧
  (∀ (r : Rec) (q : List Rec) (s : State), s.recd.queue = r :: q → s.recd.frozen = false → s.recd.cur = none →
      s.dev.shpHalt = false → r.type = 3 →
      ∃ t x, exec .recordWrite s = .next t ∧ t.recd.queue = q ∧ t.recd.cur = some x ∧ x.part = 2 ∧
        x.rec_ = { r with payload := toBytes 4 s.recd.ovf ++ toBytes 4 s.recd.ovfFrc.toNat } ∧ t.job = s.job ∧
        t.dev = s.dev) ∧
  (∀ s : State, s.recd.frozen = true ∨ s.recd.cur.isSome = true ∨ s.recd.queue = [] → exec .recordWrite s = .next s) ∧
  (∀ (x : RecRun) (s : State), s.pending = [] → s.hub.pending = [] → s.dev.state ≠ .reset → s.dev.shpHalt = false →
      s.hub.ladder = [] → s.host.mbx = none → s.recd.cur = some x → x.part = 8 →
      ∃ t, step s = .next t ∧ t.recd.cur = none ∧ t.recd.head = (x.at_ + x.len) % ringSize) ∧
  (∀ (n : Nat) (s : State), n = (s.recd.cbSeq + 1) % 2 ^ 32 → s.dev.shpHalt = false →
      ∃ t c, exec .optimeSave s = .next t ∧ t.recd = { s.recd with cbSeq := n } ∧
        c = CtlBlk.mk s.recd.head s.recd.tail s.recd.cairn s.recd.cairnFull s.recd.pcc s.recd.warm s.recd.opMs n ∧
        t.mram = (if n % 2 = 1 then { s.mram with cbA := some c } else { s.mram with cbB := some c }) ∧
        { t with recd := s.recd, mram := s.mram } = s) ∧
  (∀ (a : Nat) (s : State), s.recd.aboveAt = some a → a + 10000000 ≤ s.tick → s.dev.belowVwarn = false →
      ∃ t, exec .crcModeEnd s = .next t ∧ t.recd.warnCrc = false ∧ { t with recd := s.recd } = s) ∧
  (∀ (p : Path) (s : State), s.regsWf → s.recd.frozen = false →
      ∃ t, exec (.freeze p true) s = .next t ∧ t.rb R.REC_CTL 0 = true ∧ s.OnlyRegs [R.REC_CTL] { t with recd := s.recd } ∧
        (s.recd.cur = none → t.recd.frozen = true ∧ t.recd.frzAt = s.tick) ∧
        (s.recd.cur.isSome = true → t.recd.frozen = false ∧ t.recd.cur = s.recd.cur)) ∧
  (∀ (p : Path) (s : State), s.regsWf → s.recd.frozen = true →
      ∃ t, exec (.freeze p false) s = .next t ∧ t.recd.frozen = false ∧ t.rb R.REC_CTL 0 = false ∧
        (∃ l, t.recd.queue = s.recd.queue ++ l) ∧ s.OnlyRegs [R.REC_CTL] { t with recd := s.recd }) ∧
  (∀ s : State, s.recd.frozen = true →
      s.recd.frzAt + oneIfZero (s.rf R.REC_FREEZE_CFG 7 0) * 1000000000 ≤ s.tick → s.regsWf →
      ∃ t, exec .freezeTimeout s = .next t ∧ t.recd.frozen = false ∧ t.rb R.REC_STATUS 4 = true ∧
        t.rb R.REC_IRQ_STATUS 2 = true ∧ t.mem = s.mem ∧ t.job = s.job) ∧
  (∀ (p : Path) (o : Nat) (s : State), s.regsWf → o = s.rf R.REC_RD_OFS 22 0 →
      ∃ t, exec (.recRdData p) s = .next t ∧ t.host.rdData = s.rd32 (cairnBase + o) ∧
        t.rd R.REC_RD_OFS = w32 ((o + 4) % 0x800000) ∧ s.OnlyRegs [R.REC_RD_OFS] { t with host := s.host }) ∧
  (∀ (p : Path) (key : BitVec 16) (s : State), ∃ t, exec (.recClrKey p key) s = .next t ∧
      (t.clrAllowed p = true ↔ key = 0x7A3C#16) ∧ { t with recd := s.recd } = s) ∧
  (∀ (p : Path) (s : State), s.clrAllowed p = true → s.recd.head + 32 ≤ ringSize → s.recd.cur = none →
      s.dev.shpHalt = false → (s.rb R.REC_CTL 0 = true → s.recd.frozen = true) →
      (∃ t, exec (.clrRing p) s = .next t ∧ t.recd.tail = s.recd.head ∧
        t.recd.head = (s.recd.head + 32) % ringSize ∧ t.recd.clrKey = none ∧ t.recd.queue = s.recd.queue) ∧
      (∃ t, exec (.clrCairn p) s = .next t ∧ t.recd.cairn = 32 ∧ t.recd.cairnFull = false ∧ t.recd.clrKey = none ∧
        t.recd.queue = s.recd.queue)) ∧
  (∀ (p : Path) (s : State), s.clrAllowed p = false → s.regsWf →
      (∃ t, exec (.clrRing p) s = .next t ∧ t.rb R.REC_STATUS 5 = true ∧ s.OnlyRegs [R.REC_STATUS] t) ∧
      (∃ t, exec (.clrCairn p) s = .next t ∧ t.rb R.REC_STATUS 5 = true ∧ s.OnlyRegs [R.REC_STATUS] t))

/-- The supplies and the housekeeping round (R453 to R455, R457, R460, R463): falling below VWARN or VSTOP reports the
dip, rising leaves a POWER record of it, and below VRESET the block is in RESET with every gate low; a round publishes its
number. -/
def Obligations.SuppliesAndRounds : Prop :=
  (∀ s : State, s.dev.belowVwarn = false → s.dev.state ≠ .reset →
      ∃ t r, exec .vwarnFall s = .next t ∧ t.dev = { s.dev with belowVwarn := true } ∧ t.recd.warnCrc = true ∧
        t.pwr.warnAt = some s.tick ∧ t.hub.pending = s.hub.pending ++ [r] ∧ r.id = 0x60 ∧ t.job = s.job ∧ t.be = s.be ∧
        t.mem = s.mem) ∧
  (∀ (low : BitVec 16) (a : Nat) (s : State), s.dev.belowVwarn = true → s.dev.state ≠ .reset → s.pwr.warnAt = some a →
      ∃ t, exec (.vwarnRise low) s = .next t ∧ t.dev = { s.dev with belowVwarn := false } ∧
        t.recd.aboveAt = some s.tick ∧ t.pwr.warnAt = none ∧ t.job = s.job ∧ t.be = s.be ∧ t.mem = s.mem ∧
        (s.regsWf → t.rf R.PWR_DIP_LAST 15 0 = low.toNat)) ∧
  (∀ (n : Slot) (s : State), s.dev.belowVstop = false → s.dev.state ≠ .reset → s.runSlot = some n →
      ∃ t r, exec .vstopFall s = .next t ∧ t.dev = { s.dev with belowVstop := true } ∧
        (∀ b ∈ (s.js n).named, (t.be[b]).stopReq = some true) ∧ t.hub.pending = s.hub.pending ++ [r] ∧ r.id = 0x61 ∧
        t.job = s.job ∧ t.mem = s.mem) ∧
  (∀ (low : BitVec 16) (s : State), s.dev.belowVstop = true → s.dev.state ≠ .reset →
      ∃ t, exec (.vstopRise low) s = .next t ∧ t.dev = { s.dev with belowVstop := false } ∧ t.pwr.stopAt = none ∧
        t.pwr.low = low.toNat ∧ t.job = s.job ∧ t.be = s.be ∧ t.mem = s.mem) ∧
  (∀ s : State, ∃ t, exec .vresetFall s = .next t ∧ t.dev.state = .reset ∧ t.ldc.kill = true ∧ t.ldc.cause = 1 ∧
      (∀ b : Beam, (t.be[b]).gates = []) ∧ t.mram = s.mram ∧ t.dev.belowVreset = true) ∧
  (∀ s : State, s.dev.state = .reset → s.dev.rstLow = false → ∃ t, exec .vresetRise s = .next t ∧
      t.dev.state = .boot ∧ t.tick = 0 ∧ t.dev.belowVreset = false) ∧
  (∀ (ch : List Int) (r : Nat) (s : State), s.dev.state ≠ .reset → s.tick = 1000000 * r →
      (s.rd R.PWR_ROUND).toNat < r → s.regsWf →
      ∃ t, exec (.hkRound ch) s = .next t ∧ t.rd R.PWR_ROUND = w32 r ∧ t.pwr.valid = true ∧ t.tick = s.tick)

/-- Clocks and calendar (R47, R48, R72 to R75): a lost clock asserts LASER_KILL_N, sets its CLK_LOSS bit and reports
CLK_LOSS; a possible date waits for the next edge, an impossible one sets SET_REJECT; a snapshot latches the calendar;
after 2^20 cycles the trim is applied once; past 2199 and after a loss of the backup supply the calendar is not valid. -/
def Obligations.ClocksAndCalendar : Prop :=
  (∀ (w : Fin 8) (s : State), (w.val = 0 ∨ w.val = 7 → s.time.rtc.oscRun = true) → s.dev.state ≠ .reset → s.regsWf →
      ∃ t r, exec (.clkLoss w) s = .next t ∧ t.ldc.kill = true ∧ (s.ldc.kill = false → t.ldc.cause = 4) ∧
        t.rb R.CLK_LOSS w.val = true ∧ t.hub.pending = s.hub.pending ++ [r] ∧ r.id = 0x02 ∧ t.job = s.job ∧ t.mem = s.mem) ∧
  (∀ s : State, s.time.rtc.started = false → 2000000000 ≤ s.time.rtc.supplyNs → s.dev.state ≠ .reset → s.regsWf →
      ∃ t r, exec .rtcStartTimeout s = .next t ∧ t.ldc.kill = true ∧ (s.ldc.kill = false → t.ldc.cause = 4) ∧
        t.rb R.CLK_LOSS 7 = true ∧ t.hub.pending = s.hub.pending ++ [r] ∧ r.id = 0x02 ∧ t.job = s.job ∧ t.mem = s.mem) ∧
  (∀ s : State, s.time.rtc.oscRun = false → exec (.clkLoss 0) s = .next s) ∧
  (∀ s : State, (s.time.rtc.started = true ∨ s.time.rtc.supplyNs < 2000000000) → exec .rtcStartTimeout s = .next s) ∧
  (∀ s : State, ∃ t, exec .rtcOscStart s = .next t ∧ t.time.rtc = { s.time.rtc with oscRun := true, started := true } ∧
      { t with time := s.time } = s) ∧
  (∀ (n : Nat) (s : State),
      secsOf (2000 + s.rf R.TIME_RTC_SET_DATE 23 16) (s.rf R.TIME_RTC_SET_DATE 15 8) (s.rf R.TIME_RTC_SET_DATE 7 0)
        (s.rf R.TIME_RTC_SET_TOD 23 16) (s.rf R.TIME_RTC_SET_TOD 15 8) (s.rf R.TIME_RTC_SET_TOD 7 0) = some n →
      ∃ t, exec .rtcSet s = .next t ∧ t.time.rtc = { s.time.rtc with setPend := some n } ∧ { t with time := s.time } = s) ∧
  (∀ s : State, s.rf R.TIME_RTC_SET_TOD 23 16 = 24 → s.regsWf →
      ∃ t, exec .rtcSet s = .next t ∧ t.rb R.TIME_RTC_STATUS 4 = true ∧ s.OnlyRegs [R.TIME_RTC_STATUS] t) ∧
  (∀ s : State, s.regsWf → ∃ t, exec .rtcSnap s = .next t ∧ t.rd R.TIME_RTC_DATE = dateWord s.time.rtc.secs ∧
      t.rd R.TIME_RTC_TOD = todWord s.time.rtc.secs ∧ t.rd R.TIME_RTC_SUB = w32 s.time.rtc.sub ∧
      s.OnlyRegs [R.TIME_RTC_DATE, R.TIME_RTC_TOD, R.TIME_RTC_SUB] t) ∧
  (∀ (k : Int) (s : State), 2 ^ 20 ≤ s.time.rtc.trimCyc → s.time.rtc.sub < 32768 → s.time.rtc.stopped = false →
      k = max (-127) (sext 8 (s.rf R.TIME_RTC_TRIM 7 0)) → -k ≤ s.time.rtc.secs * 32768 + s.time.rtc.sub →
      s.time.rtc.secs * 32768 + s.time.rtc.sub + k ≤ (calendarEnd * 32768 + 32767 : Nat) →
      ∃ t, exec .rtcTrimStep s = .next t ∧ t.time.rtc.sub < 32768 ∧ t.time.rtc.stopped = false ∧
        (t.time.rtc.secs * 32768 + t.time.rtc.sub : Int) = s.time.rtc.secs * 32768 + s.time.rtc.sub + k ∧
        t.time.rtc.trimCyc = s.time.rtc.trimCyc - 2 ^ 20 ∧ { t with time := s.time } = s) ∧
  (∀ s : State, s.time.rtc.stopped = true →
      ∃ t, exec .rtcTrimStep s = .next t ∧ t.time.rtc.secs = s.time.rtc.secs ∧ t.time.rtc.sub = s.time.rtc.sub ∧
        { t with time := s.time } = s) ∧
  (∀ s : State, s.time.rtc.stopped = true →
      ∃ t, exec .calendarEnd s = .next t ∧ t.time.rtc = { s.time.rtc with valid := false } ∧ { t with time := s.time } = s) ∧
  (∀ s : State, s.regsWf → ∃ t, exec .backupBrownout s = .next t ∧ t.time.rtc.valid = false ∧ t.time.rtc.secs = 0 ∧
      t.time.rtc.sub = 0 ∧ t.rb R.TIME_RTC_STATUS 3 = true ∧ { t with time := s.time, regs := s.regs } = s)

/-- Time domains and device time (R24, R51 to R53, R56, R57, R59): a fold and a write of RATE change no value of t_d, and that
of the bellwether moves the device time reported of a start that lies ahead, never its S; writes of
OFS and STEP step the domain, and under STEP_GUARD the step of the bellwether goes into D; a change of bellwether puts the
difference of the domains into D, so that DT does not step. -/
def Obligations.TimeDomains : Prop :=
  (∀ s : State, s.tick % 2 ^ 30 = 0 → s.regsWf →
      (∀ d : Dom, -2 ^ 71 ≤ s.corr d s.frc ∧ s.corr d s.frc < 2 ^ 71) →
      ∃ t, exec .timeFold s = .next t ∧ (∀ d : Dom, t.tOf d t.frc = s.tOf d s.frc ∧ (t.dom d).anchor = s.frc ∧
        t.rate d = s.rate d) ∧ t.time.slew = s.time.slew ∧
        s.OnlyRegs [R.TIME_AB_OFS 0, R.TIME_AB_OFS 1] { t with time := s.time }) ∧
  (∀ (d : Dom) (v : Word) (s : State), s.regsWf → -2 ^ 71 ≤ s.corr d s.frc → s.corr d s.frc < 2 ^ 71 →
      ∃ t, exec (.timeRateWrite d v) s = .next t ∧ t.rate d = v.toInt ∧ t.tOf d t.frc = s.tOf d s.frc ∧
        (∀ x : Dom, x ≠ d → t.dom x = s.dom x ∧ t.tOf x t.frc = s.tOf x s.frc) ∧
        (d ≠ s.bell ∨ (∀ n : Slot, (s.js n).s = none) →
          s.OnlyRegs [R.TIME_AB_OFS (domIx d), R.TIME_AB_RATE (domIx d)] { t with time := s.time }) ∧
        ∀ (n : Slot) (s0 : Nat), d = s.bell → (s.js n).st = .armed → (s.js n).s = some s0 → s.tick < (s.js n).startAt →
          (t.js n).dtStart = t.dtAt (w32 (s.js n).startAt) ∧ (t.js n).s = some s0) ∧
  (∀ (d : Dom) (v : Word) (s : State), s.regsWf →
      ∃ t, exec (.timeOfsWrite d v) s = .next t ∧ t.rd (R.TIME_AB_OFS (domIx d)) = v ∧ (t.dom d).frac = (s.dom d).frac ∧
        t.time.slew = s.time.slew + (if d = s.bell ∧ s.rb R.TIME_CTL 2 = true
          then diff32 v (s.rd (R.TIME_AB_OFS (domIx d))) * State.slewUnit else 0) ∧
        s.OnlyRegs [R.TIME_AB_OFS (domIx d)] { t with time := s.time }) ∧
  (∀ (d : Dom) (v : Word) (s : State), s.regsWf →
      ∃ t, exec (.timeStepWrite d v) s = .next t ∧
        t.rd (R.TIME_AB_OFS (domIx d)) = s.rd (R.TIME_AB_OFS (domIx d)) + v ∧ t.rd (R.TIME_AB_STEP (domIx d)) = v ∧
        t.time.slew = s.time.slew + (if d = s.bell ∧ s.rb R.TIME_CTL 2 = true then v.toInt * State.slewUnit else 0) ∧
        s.OnlyRegs [R.TIME_AB_OFS (domIx d), R.TIME_AB_STEP (domIx d)] { t with time := s.time }) ∧
  (∀ (b : Bool) (s : State), s.regsWf → s.rb R.TIME_CTL 0 ≠ b → s.time.slew = 0 →
      ∃ t, exec (.bellwetherWrite b) s = .next t ∧ t.rb R.TIME_CTL 0 = b ∧ t.dt = s.dt ∧
        t.time.slew = diff32 (s.tOf t.bell s.frc) s.dt * State.slewUnit ∧
        ((∀ n : Slot, (s.js n).s = none) → s.OnlyRegs [R.TIME_CTL] { t with time := s.time })) ∧
  (∀ s : State, s.time.slew.natAbs ≤ s.slewStep →
      ∃ t, exec .slewEnd s = .next t ∧ t.time.slew = 0 ∧ t.dt = s.tOf s.bell s.frc ∧ { t with time := s.time } = s)

/-- Pulse outputs and capture inputs (R61 to R65): arming takes TGT, PERIOD and WIDTH, saturated; a pulse of an armed output
starts at its target, its level then high where POL is 0, and ends WIDTH later; a selected edge that the filter passes
enters the FIFO of 16 with its raw stamp; a read of RAW pops it and converts it. -/
def Obligations.PulsesAndCaptures : Prop :=
  (∀ (n : Fin 8) (p : PulseOut) (s : State), (s.tpMode n = 1 ∨ s.tpMode n = 2) →
      (s.rd (R.TIME_TPn_TGT n) - s.tpTime n).toNat < 2 ^ 31 → p = s.time.tp[n] →
      ∃ t, exec (.tpArm n) s = .next t ∧ t.time.tp[n] = { p with
        armed := true, tgt := s.rd (R.TIME_TPn_TGT n), period := w32 (max 100 (s.rd (R.TIME_TPn_PERIOD n)).toNat)
        width := w32 (clampN 8 (max 100 (s.rd (R.TIME_TPn_PERIOD n)).toNat - 8) (s.rd (R.TIME_TPn_WIDTH n)).toNat) } ∧
        (∀ m : Fin 8, m ≠ n → t.time.tp[m] = s.time.tp[m]) ∧ { t with time := s.time } = s) ∧
  (∀ (n : Fin 8) (s : State), s.tpMode n = 1 → 2 ^ 31 ≤ (s.rd (R.TIME_TPn_TGT n) - s.tpTime n).toNat → s.regsWf →
      ∃ t, exec (.tpArm n) s = .next t ∧ (t.time.tp[n]).armed = false ∧ t.rb (R.TIME_TPn_STATUS n) 0 = true ∧
        s.OnlyRegs [R.TIME_TPn_STATUS n] { t with time := s.time }) ∧
  (∀ (n : Fin 8) (p : PulseOut) (s : State), p = s.time.tp[n] → p.armed = true → (s.tpMode n = 1 ∨ s.tpMode n = 2) →
      s.tpTime n = p.tgt →
      ∃ t q, exec (.tpulseFire n) s = .next t ∧ q = t.time.tp[n] ∧ q.active = true ∧ q.endAt = s.tpTime n + p.width ∧
        t.tpLevel n = !s.rb (R.TIME_TPn_CTL n) 4 ∧ (s.tpMode n = 1 → q.armed = false) ∧ (s.tpMode n = 2 → q.armed = true ∧ q.tgt = p.tgt + p.period) ∧
        (∀ m : Fin 8, m ≠ n → t.time.tp[m] = s.time.tp[m]) ∧
        s.OnlyRegs [R.TIME_TPn_STATUS n] { t with time := s.time }) ∧
  (∀ (n : Fin 8) (p : PulseOut) (s : State), p = s.time.tp[n] → p.active = true →
      (if p.curWidth.toNat ≤ 2 ^ 31 then (s.tpTime n - p.endAt).toNat < 2 ^ 31
        else p.curWidth.toNat ≤ (s.tpTime n - (p.endAt - p.curWidth)).toNat) →
      ∃ t, exec (.tpulseEnd n) s = .next t ∧ t.time.tp[n] = { p with active := false } ∧
        t.tpLevel n = s.rb (R.TIME_TPn_CTL n) 4 ∧ (∀ m : Fin 8, m ≠ n → t.time.tp[m] = s.time.tp[m]) ∧ { t with time := s.time } = s) ∧
  (∀ (n : Fin 8) (rising : Bool) (width : Nat) (err : Fin 3) (s : State),
      (s.rf (R.TIME_TCn_CTL n) 1 0 = 3 ∨ (s.rf (R.TIME_TCn_CTL n) 1 0 = 1 ∧ rising = true) ∨
        (s.rf (R.TIME_TCn_CTL n) 1 0 = 2 ∧ rising = false)) → s.tcFilt n ≤ width → 4 ≤ width →
      ∃ t, exec (.tcapEdge n rising width err) s = .next t ∧
        ((s.time.tc[n]).length < 16 → t.time.tc[n] = s.time.tc[n] ++ [(w32 (s.tick + err.val - 1), rising)]) ∧
        (16 ≤ (s.time.tc[n]).length → t.time.tc[n] = s.time.tc[n]) ∧
        (s.rb (R.TIME_TCn_CTL n) 6 = true → t.host.msix.getLsbD 4 = true) ∧
        (∀ m : Fin 8, m ≠ n → t.time.tc[m] = s.time.tc[m]) ∧ t.mem = s.mem) ∧
  (∀ (n : Fin 8) (rising : Bool) (width : Nat) (err : Fin 3) (s : State),
      (s.rf (R.TIME_TCn_CTL n) 1 0 = 0 ∨ width < s.tcFilt n) → exec (.tcapEdge n rising width err) s = .next s) ∧
  (∀ (n : Fin 8) (f : Word) (e : Bool) (l : List (Word × Bool)) (s : State), s.time.tc[n] = (f, e) :: l → s.regsWf →
      ∃ t, exec (.tcRawPop n) s = .next t ∧ t.time.tc[n] = l ∧ t.host.rdData = f ∧
        t.rd (R.TIME_TCn_CONV n) = s.selTime (s.rf (R.TIME_TCn_CTL n) 3 2) f ∧
        (∀ m : Fin 8, m ≠ n → t.time.tc[m] = s.time.tc[m]))

/-- PTP instances and Ethernet ports (R66 to R71): a Sync of the parent gives the offset t2 - t1 - meanPathDelay; the best
master announced becomes the parent and leaves LISTENING; own event messages leave with their stamp; a response gives
meanPathDelay; the loss of the parent is HOLDOVER with TIME_LOSS; SERVO keeps its fields; an ARP request for the port's
own address is answered; a discarded frame is counted. -/
def Obligations.PtpAndEthernet : Prop :=
  (∀ (d : Dom) (m : SyncMsg) (p : PtpMaster) (o : Int) (s : State), s.ptpOn d m.eth = true → (s.dom d).parent = some p →
      p.srcId = m.srcId.toNat → m.dom.toNat = s.rf (R.TIME_AB_SERVO (domIx d)) 31 24 → m.via = s.ptpVia d true → -4 ≤ m.logInt → m.logInt ≤ 1 →
      o = diff32 (s.rxStamp d m.eth) m.t1 - (s.dom d).pathDelay → s.regsWf →
      ∃ t, exec (.ptpSync d m) s = .next t ∧ t.rd (R.TIME_AB_PTPO (domIx d)) = i32 (satS 32 o) ∧
        (t.dom d).lastSync = some ((m.t1.toNat : Int), ((s.rxStamp d m.eth).toNat : Int)) ∧ (t.dom d).pathDelay = (s.dom d).pathDelay ∧
        (s.servoMode d = 2 → t.rate d = s.rate d ∧ t.ofs d = s.ofs d ∧ (t.dom d).st = (s.dom d).st) ∧
        (∀ x : Dom, x ≠ d → t.dom x = s.dom x)) ∧
  (∀ (d : Dom) (m : AnnounceMsg) (n : PtpMaster) (s : State), s.ptpOn d m.eth = true →
      m.dom.toNat = s.rf (R.TIME_AB_SERVO (domIx d)) 31 24 → m.via = s.ptpVia d false →
      n = ⟨m.prio1.toNat, m.quality.toNat, m.prio2.toNat, m.gmId.toNat, m.steps.toNat, m.srcId.toNat, m.logInt, s.tick⟩ →
      ∃ t, exec (.ptpAnnounce d m) s = .next t ∧
        (t.dom d).parent = State.bestMaster (n :: (s.dom d).masters.filter (fun x =>
          decide (x.srcId ≠ n.srcId ∧ s.masterFresh d x = true))) ∧
        ((s.dom d).st = 1 → (t.dom d).st = if s.servoMode d = 1 then 2 else 5) ∧
        (∀ x : Dom, x ≠ d → t.dom x = s.dom x)) ∧
  (∀ (d : Dom) (e : PtpEvent) (s : State), s.ptpOn d (s.ptpPort d) = true →
      (e = .delayReq ↔ s.rb (R.TIME_AB_SERVO (domIx d)) 17 = false) → (e = .delayReq → (s.dom d).parent.isSome = true) →
      ∃ (t : State) (x : Sent) (l : List Sent), exec (.ptpEventSend d e) s = .next t ∧ t.sent = l ++ x :: s.sent ∧
        x.at_ = max s.tick (s.tel[s.ptpPort d]).wireEnd ∧ x.at_ < (t.tel[s.ptpPort d]).wireEnd ∧
        x.port = 64 + (s.ptpPort d).val ∧
        x.data = [s.ethTag (s.ptpPort d).val, s.ethMac (s.ptpPort d).val,
          (if s.rb (R.TIME_AB_SERVO (domIx d)) 18 = true then 319 else 0x88F7), s.rf (R.TIME_AB_SERVO (domIx d)) 31 24] ∧
        (e ≠ .pdelayResp → (t.dom d).reqSent = some ((s.txStamp d (s.ptpPort d)).toNat : Int)) ∧
        { t with sent := s.sent, time := s.time, tel := s.tel } = s) ∧
  (∀ (d : Dom) (e : Fin 2) (lg : Int) (t4 : Word) (t1 t2 t3 v : Int) (s : State), s.ptpOn d e = true →
      s.rb (R.TIME_AB_SERVO (domIx d)) 17 = false → -4 ≤ lg → lg ≤ 1 → (s.dom d).lastSync = some (t1, t2) → (s.dom d).reqSent = some t3 →
      v = rdiv (diff32 (i32 t2) (i32 t1) + diff32 t4 (i32 t3)) 2 → s.regsWf →
      ∃ t, exec (.ptpResponse d (.delayResp e (s.ptpVia d false) lg t4)) s = .next t ∧ (t.dom d).pathDelay = v ∧ (t.dom d).reqSent = none ∧
        t.rd (R.TIME_AB_PTPD (domIx d)) = i32 v ∧ s.OnlyRegs [R.TIME_AB_PTPD (domIx d)] { t with time := s.time }) ∧
  (∀ (d : Dom) (e : Fin 2) (turn : Word) (t1 v : Int) (s : State), s.ptpOn d e = true →
      s.rb (R.TIME_AB_SERVO (domIx d)) 17 = true → (s.dom d).reqSent = some t1 →
      v = rdiv (diff32 (s.rxStamp d e) (i32 t1) - turn.toNat) 2 → s.regsWf →
      ∃ t, exec (.ptpResponse d (.pdelayResp e (s.ptpVia d true) turn)) s = .next t ∧ (t.dom d).pathDelay = v ∧
        t.rd (R.TIME_AB_PTPD (domIx d)) = i32 v ∧ s.OnlyRegs [R.TIME_AB_PTPD (domIx d)] { t with time := s.time }) ∧
  (∀ (d : Dom) (p : PtpMaster) (s : State), (s.dom d).parent = some p → ((s.dom d).st = 2 ∨ (s.dom d).st = 3) →
      (p.heardAt + s.rf (R.TIME_AB_SERVO (domIx d)) 11 8 * State.intervalNs p.logInt ≤ s.tick ∨
        (s.dom d).syncAt + 4 * State.intervalNs (s.dom d).syncLog ≤ s.tick) →
      ∃ t r, exec (.ptpParentLoss d) s = .next t ∧ (t.dom d).parent = none ∧ (t.dom d).st = 4 ∧
        t.hub.pending = s.hub.pending ++ [r] ∧ r.id = 0x50 ∧ r.unit = domIx d ∧ t.mem = s.mem ∧
        ((∀ n : Slot, (s.js n).s = none) → t.job = s.job)) ∧
  (∀ (d : Dom) (v : Word) (s : State), s.regsWf →
      ∃ t, exec (.timeServoWrite d v) s = .next t ∧
        t.rd (R.TIME_AB_SERVO (domIx d)) = setFld (v &&& 0xFF0F0F03#32) 11 8 (clampN 2 10 (fld v 11 8)) ∧
        (t.servoMode d = 0 → s.servoMode d ≠ 0 → (t.dom d).st = 0) ∧
        (t.servoMode d ≠ 0 → s.servoMode d = 0 → (t.dom d).st = 1) ∧ t.job = s.job ∧ t.mem = s.mem) ∧
  (∀ (eth : Fin 2) (ip : Word) (who : ArpSender) (s : State), s.rb (R.ETHn_CTL eth.val) 0 = true →
      ip = s.rd (R.ETHn_IP eth) →
      ∃ t x, exec (.arpRequest eth ip who) s = .next t ∧ t.sent = x :: s.sent ∧
        x.at_ = max s.tick (s.tel[eth]).wireEnd ∧ x.port = 64 + eth.val ∧
        x.data = [s.ethTag eth.val, s.ethMac eth.val, who.mac.toNat, ip.toNat, who.ip.toNat] ∧
        { t with sent := s.sent, tel := s.tel } = s) ∧
  (∀ (n : Fin 2) (lock up : Bool) (s : State), ∃ t, exec (.ethLink n lock up) s = .next t ∧
      (t.time.eth[n]).getLsbD 1 = lock ∧ (t.time.eth[n]).getLsbD 0 = up ∧
      (∀ m : Fin 2, m ≠ n → t.time.eth[m] = s.time.eth[m]) ∧ { t with time := s.time } = s) ∧
  (∀ (n : Fin 2) (f : EthFrame) (s : State), s.rb (R.ETHn_CTL n) 0 = true → s.regsWf →
      (∃ t, exec (.ethFrameDiscard n true f) s = .next t ∧
        t.rf (R.ETHn_CNT n) 15 0 = min (s.rf (R.ETHn_CNT n) 15 0 + 1) 65535 ∧ s.OnlyRegs [R.ETHn_CNT n] t) ∧
      (2048 < f.len ∨ 1 < f.tags.val → ∃ t, exec (.ethFrameDiscard n false f) s = .next t ∧
        t.rf (R.ETHn_CNT n) 31 16 = min (s.rf (R.ETHn_CNT n) 31 16 + 1) 65535 ∧ s.OnlyRegs [R.ETHn_CNT n] t))

/-- DMA, the BAR2 window, the aux ring, FLR, SYS_LOCK and the TAP (R468, R470, R471, R482, R484, R486, R490, R492): GO
takes the channel's registers; a transfer that ends frees the channel, sets its STATUS and has moved its bytes; a write of
WIN_LO moves the window; an access to populated DDR5 reads or writes its enabled bytes, one to no region sets WIN_ERR;
enabling the aux ring clears HEAD and TAIL; FLR resets the registers of R492 and nothing else; IDCODE reads its constant.
Registers over a path (R4, R11, R12, R467, R477, R487, R489): a block that the path does not reach reads 0 and ignores a
write; a read of a LO register completes with its word and latches its HI word, which a read of the HI register over the
same path returns; a write of an Ethernet register takes its RW bits and clears the W1C bits written 1. -/
def Obligations.HostAccess : Prop :=
  ((∀ (c : Fin 4) (n : Nat) (s : State), n = c.val → s.host.dma[c] = none → s.regsWf →
       ∃ t, exec (.dmaGo c) s = .next t ∧ t.host.dma[c] = some {
           haddr := (s.rd (R.HOST_DMAc_HADDR_LO n)).toNat + (s.rd (R.HOST_DMAc_HADDR_HI n)).toNat * 2 ^ 32
           daddr := (s.rd (R.HOST_DMAc_DADDR_LO n)).toNat + (s.rd (R.HOST_DMAc_DADDR_HI n)).toNat * 2 ^ 32
           len := s.rf (R.HOST_DMAc_LEN n) 24 0, toHost := s.rb (R.HOST_DMAc_CTL n) 0 } ∧
         t.rb (R.HOST_DMAc_STATUS n) 0 = true ∧ (∀ k : Fin 4, k ≠ c → t.host.dma[k] = s.host.dma[k]) ∧
         s.OnlyRegs [R.HOST_DMAc_STATUS n] { t with host := s.host }) ∧
   (∀ (c : Fin 4) (x : DmaRun) (s : State), s.host.dma[c] = some x → exec (.dmaGo c) s = .next s) ∧
   (∀ (c : Fin 4) (x : DmaRun) (host : List Byte) (s : State), s.host.dma[c] = some x → x.toHost = true → s.regsWf →
       (∀ i : Nat, i < x.len → s.region (x.daddr + i) = .ddr) →
       ∃ t, exec (.dmaDone c .ok host) s = .next t ∧ t.host.dma[c] = none ∧
         t.host.toHost = (x.haddr, s.rdBytes x.daddr x.len) :: s.host.toHost ∧ t.rb (R.HOST_DMAc_STATUS c.val) 0 = false ∧
         t.rb (R.HOST_DMAc_STATUS c.val) 1 = true ∧ t.mem = s.mem ∧
         s.OnlyRegs [R.HOST_DMAc_STATUS c.val] { t with host := s.host }) ∧
   (∀ (c : Fin 4) (x : DmaRun) (host : List Byte) (s : State), s.host.dma[c] = some x → x.toHost = false → s.regsWf →
       s.memWf → host.length = x.len → (∀ i : Nat, i < x.len → s.region (x.daddr + i) = .ddr) →
       ∃ t, exec (.dmaDone c .ok host) s = .next t ∧ t.host.dma[c] = none ∧ t.rdBytes x.daddr x.len = host ∧
         (∀ a : Nat, a < x.daddr ∨ x.daddr + x.len ≤ a → t.rdByte a = s.rdByte a) ∧
         t.rb (R.HOST_DMAc_STATUS c.val) 0 = false ∧ t.rb (R.HOST_DMAc_STATUS c.val) 1 = true ∧
         s.OnlyRegs [R.HOST_DMAc_STATUS c.val] { t with host := s.host, mem := s.mem }) ∧
   (∀ (v : Word) (s : State), s.regsWf →
       ∃ t, exec (.hostWinLoWrite v) s = .next t ∧ t.rd R.HOST_WIN_LO = v &&& 0xFFF00000#32 ∧
         t.host.win = (v &&& 0xFFF00000#32).toNat + (s.rd R.HOST_WIN_HI).toNat * 2 ^ 32 ∧
         s.OnlyRegs [R.HOST_WIN_LO] { t with host := s.host }) ∧
   (∀ (ofs : BitVec 28) (data : Word) (be : BitVec 4) (a : Nat) (s : State), a = s.host.win + ofs.toNat / 4 * 4 →
       s.dev.state ≠ .reset → (∀ i : Nat, i < 4 → s.region (a + i) = .ddr) →
       (∃ t, exec (.bar2Access false ofs data be) s = .next t ∧ t.host.rdData = s.rd32 a ∧ { t with host := s.host } = s) ∧
       (s.memWf → ∃ t, exec (.bar2Access true ofs data be) s = .next t ∧ { t with mem := s.mem } = s ∧
         (∀ i : Nat, i < 4 → t.rdByte (a + i) =
           if be.getLsbD i = true then BitVec.ofNat 8 (data.toNat / 2 ^ (8 * i)) else s.rdByte (a + i)) ∧
         (∀ q : Nat, q < a ∨ a + 4 ≤ q → t.rdByte q = s.rdByte q))) ∧
   (∀ (ofs : BitVec 28) (data : Word) (be : BitVec 4) (a : Nat) (s : State), a = s.host.win + ofs.toNat / 4 * 4 →
       s.dev.state ≠ .reset → (∀ i : Nat, i < 4 → s.region (a + i) = .nothing) → s.regsWf →
       ∃ t, exec (.bar2Access true ofs data be) s = .next t ∧ t.rb R.HOST_STATUS 0 = true ∧ s.OnlyRegs [R.HOST_STATUS] t) ∧
   (∀ (v : Bool) (s : State), s.regsWf → s.rb R.HOST_AUX_CTL 0 = false →
       ∃ t, exec (.auxEnable v) s = .next t ∧ t.rb R.HOST_AUX_CTL 0 = v ∧
         (v = true → t.host.auxHead = 0 ∧ t.rd R.HOST_AUX_TAIL = 0) ∧
         s.OnlyRegs [R.HOST_AUX_CTL, R.HOST_AUX_TAIL] { t with host := s.host }) ∧
   (∀ s : State, s.regsWf → ∃ t, exec .flr s = .next t ∧ t.host.win = 0 ∧ t.rd R.HOST_WIN_LO = 0 ∧ t.rd R.HOST_WIN_HI = 0 ∧
       t.rd R.HOST_VEC0 = 0 ∧ t.rd R.HOST_VEC1 = 0 ∧ t.rd R.HOST_AUX_CTL = 0 ∧ t.rd R.MBX_IRQ_EN = 0 ∧
       (∀ c : Fin 4, t.host.dma[c] = none ∧ t.rd (R.HOST_DMAc_CTL c.val) = 0 ∧ t.rd (R.HOST_DMAc_STATUS c.val) = 0) ∧
       t.host.hist = s.host.hist ∧ { t with host := s.host, regs := s.regs } = s) ∧
   (∀ s : State, ∃ t, exec .sysLock s = .next t ∧ t.dev = { s.dev with lock := true } ∧ { t with dev := s.dev } = s) ∧
   (∀ (i : TapInstr) (s : State), ∃ t, exec (.tapInstruction i) s = .next t ∧ { t with host := s.host } = s ∧
       (i = .idcode → t.host.tap = 1 ∧ t.host.rdData = 0xCE2A0B5F#32) ∧ (i = .bypass → t.host.tap = 0) ∧
       (i = .extest ∨ i = .clamp ∨ i = .highz → (t.host.tap = 0 ↔ s.dev.state ≠ .reset ∧ s.dev.state ≠ .boot)))) ∧
  ((∀ (p : Path) (addr : BitVec 24) (v : Word) (s : State), s.pathOpen p addr.toNat = false →
       exec (.registerWrite p addr v) s = .next s ∧
       ∃ t, exec (.loReadLatch p addr) s = .next t ∧ t.host.rdData = 0 ∧ { t with host := s.host } = s) ∧
   (∀ (p : Path) (addr : BitVec 24) (hi : Nat) (s : State), s.pathOpen p addr.toNat = true → State.loPair addr.toNat = some hi →
       ∃ t, exec (.loReadLatch p addr) s = .next t ∧ t.host.rdData = s.readReg addr.toNat ∧
         t.host.latched.find? (fun x => x.1 == p && x.2.1 == hi) = some (p, hi, s.readReg hi) ∧
         { t with host := s.host } = s) ∧
   (∀ (p : Path) (addr : BitVec 24) (i r : Nat) (v : Word) (s : State), s.pathOpen p addr.toNat = true →
       blkOf addr.toNat = some (.job, i, r) → State.loPair addr.toNat = none →
       s.host.latched.find? (fun x => x.1 == p && x.2.1 == addr.toNat) = some (p, addr.toNat, v) →
       ∃ t, exec (.loReadLatch p addr) s = .next t ∧ t.host.rdData = v ∧ { t with host := s.host } = s) ∧
   (∀ (p : Path) (addr : BitVec 24) (i r : Nat) (w : RegRow) (v : Word) (s : State), s.pathOpen p addr.toNat = true →
       s.unitOn addr.toNat = true → blkOf addr.toNat = some (.eth, i, r) → rowAt addr.toNat = some w → s.regsWf →
       ∃ t, exec (.registerWrite p addr v) s = .next t ∧ s.OnlyRegs [addr.toNat] t ∧
         t.rd addr.toNat = ((s.rd addr.toNat &&& ~~~(w32 w.rw)) ||| (v &&& w32 w.rw)) &&& ~~~(v &&& w32 w.w1c)))

/-- The mailbox (R472 to R475, R478, R479, R481, R485): a command of a new tag runs, posts its code, tag and results, and
enters the history; a tag of 0 is BAD_TAG and enters nothing; a doorbell during a command sets BUSY_ERR and does nothing
else; JOB and a refused HOLD complete with what JOB_RESULT reads; a HOLD of a running job asks its beams to stop, and
completes on the next tick; the two debug commands are LOCKED after SYS_LOCK. -/
def Obligations.Mailbox : Prop :=
  (∀ (tag : BitVec 16) (s : State), s.MbxFree tag → s.regsWf →
      ∃ t, exec (.info tag) s = .next t ∧ t.MbxPosted tag 0 ∧ t.rd (R.MBX_RESi 0) = Config.romVersion ∧
        t.rd (R.MBX_RESi 1) = w32 s.mram.patch ∧ t.mram = s.mram ∧ t.job = s.job ∧ t.mem = s.mem) ∧
  (∀ s : State, s.host.mbx = none → s.dev.shpHalt = false → s.regsWf →
      ∃ t, exec (.info 0) s = .next t ∧ t.rf R.MBX_STATUS 7 0 = 3 ∧ t.host.hist = s.host.hist ∧ t.mram = s.mram) ∧
  (∀ (tag : BitVec 16) (s : State), s.host.mbx.isSome = true → s.dev.shpHalt = false → s.regsWf →
      ∃ t, exec (.info tag) s = .next t ∧ t.rb R.MBX_STATUS 21 = true ∧ t.host = s.host ∧ t.job = s.job) ∧
  (∀ (tag : BitVec 16) (slot : Byte) (daddr : BitVec 64) (n : Slot) (s : State), s.MbxFree tag → s.regsWf →
      slot.toNat % 4 = n.val → s.twin.pair = 0 → s.rb R.JOB_RESULT 23 = false → (s.js n).st = .done →
      ∃ t, exec (.mbxJob tag 6 slot daddr) s = .next t ∧ t.MbxPosted tag 0 ∧ (t.js n).st = .empty ∧
        t.rd (R.MBX_RESi 0) = t.rd R.JOB_RESULT ∧ t.rd (R.MBX_RESi 1) = t.rd R.JOB_RESULT_FRC) ∧
  (∀ (tag : BitVec 16) (s : State), s.MbxFree tag → s.regsWf → s.twin.pair = 0 → s.rb R.JOB_RESULT 23 = false →
      s.noStartDue → s.committed = false → s.runSlot = none → s.dev.state ≠ .hold →
      ∃ t, exec (.mbxHold tag) s = .next t ∧ t.MbxPosted tag 0 ∧ t.rf R.JOB_RESULT 7 0 = 0x0B ∧
        t.rd (R.MBX_RESi 0) = t.rd R.JOB_RESULT ∧ t.job = s.job) ∧
  (∀ (tag : BitVec 16) (n : Slot) (s : State), s.MbxFree tag → s.regsWf → s.twin.pair = 0 →
      s.rb R.JOB_RESULT 23 = false → s.runSlot = some n → s.commitReady n = false → s.dev.holdReq = 0 →
      ∃ t x, exec (.mbxHold tag) s = .next t ∧ t.host.mbx = some x ∧ x.tag = tag.toNat ∧ x.issued = true ∧
        x.held = some (t.rd R.JOB_RESULT) ∧ t.rf R.JOB_RESULT 7 0 = 0 ∧ t.dev.holdReq = 1 ∧ t.dev.holdAt = s.tick ∧
        (t.js n).st = .running ∧ ∀ b ∈ (s.js n).named, (t.be[b]).stopReq.isSome = true) ∧
  (∀ (x : MbxRun) (s : State), s.pending = [] → s.hub.pending = [] → s.hub.ladder = [] → s.dev.state ≠ .reset →
      s.dev.shpHalt = false → s.twin.pair = 0 → s.twin.leadAt = none → s.rb R.JOB_RESULT 23 = false →
      s.host.mbx = some x → x.issued = true →
      ∃ t, step s = .next t ∧ t.host.mbx = none ∧ ∃ h ∈ t.host.hist, h.tag = x.tag ∧ h.code = 0) ∧
  (∀ (tag : BitVec 16) (addr : BitVec 64) (len : Word) (s : State), s.MbxFree tag → s.regsWf → s.dev.state ≠ .boot →
      ∃ t, exec (.patchLoad tag addr len) s = .next t ∧ t.MbxPosted tag 0 ∧
        t.rd (R.MBX_RESi 0) = w32 (s.patchStage addr.toNat len.toNat).2 ∧
        t.mram = ((s.patchStage addr.toNat len.toNat).1).mram ∧ t.mem = s.mem ∧ t.job = s.job) ∧
  (∀ (tag : BitVec 16) (s : State), s.MbxFree tag → s.regsWf →
      ∃ t, exec (.bootCfgSave tag) s = .next t ∧ t.MbxPosted tag 0 ∧
        t.mram = { s.mram with ports := ((List.range 35).filter s.portOn).map fun q => (q, State.portKept (s.rd (R.PORTp_CTL q))) } ∧
        t.rd (R.MBX_RESi 0) = w32 ((List.range 35).filter s.portOn).length) ∧
  (∀ (tag : BitVec 16) (cfg : BitVec 64) (s : State), s.MbxFree tag → s.regsWf →
      ∃ t, exec (.ddrCfgSave tag cfg) s = .next t ∧ t.MbxPosted tag 0 ∧ t.rd (R.MBX_RESi 0) = w32 (s.ddrCap cfg) ∧
        t.mram = (if s.ddrCap cfg = 0 then s.mram else { s.mram with ddrCfg := some cfg })) ∧
  (∀ (tag : BitVec 16) (s : State), s.MbxFree tag → s.regsWf → s.dev.lock = false →
      ∃ t x, exec (.dbgChallenge tag) s = .next t ∧ t.MbxPosted tag 0 ∧ t.host.nonce = some x ∧
        t.rd (R.MBX_RESi 0) = w32 x.toNat ∧ t.rd (R.MBX_RESi 1) = w32 (x.toNat / 2 ^ 32) ∧ t.host.dbgOpen = s.host.dbgOpen) ∧
  (∀ (tag : BitVec 16) (addr : BitVec 64) (s : State), s.MbxFree tag → s.regsWf → s.dev.lock = false →
      ∃ t, exec (.dbgUnlock tag addr) s = .next t ∧ t.MbxPosted tag 0 ∧
        t.host.dbgOpen = (s.host.dbgOpen || s.tokenGood addr.toNat) ∧
        t.rd (R.MBX_RESi 0) = (if s.tokenGood addr.toNat = true then 0 else 1) ∧
        t.host.nonce = (if s.tokenGood addr.toNat = true then s.host.nonce else none)) ∧
  (∀ (tag : BitVec 16) (addr : BitVec 64) (s : State), s.MbxFree tag → s.regsWf → s.dev.lock = true →
      (∃ t, exec (.dbgChallenge tag) s = .next t ∧ t.MbxPosted tag 5 ∧ t.host.nonce = s.host.nonce ∧
        t.host.dbgOpen = s.host.dbgOpen) ∧
      (∃ t, exec (.dbgUnlock tag addr) s = .next t ∧ t.MbxPosted tag 5 ∧ t.host.nonce = s.host.nonce ∧
        t.host.dbgOpen = s.host.dbgOpen))

/-- R32: at most one job is RUNNING or HOLDING at any time: every step keeps it, from every state. -/
def Obligations.OneJobHeld : Prop :=
  ∀ s t : State, s.oneHeld → step s = .next t → t.oneHeld

/-- R38: a function-level reset resets the host interface only, and neither the device state nor a running job changes. -/
def Obligations.FlrResetsHostOnly : Prop :=
  ∀ s : State, ∃ t, exec .flr s = .next t ∧ t.dev = s.dev ∧ t.devState = s.devState ∧ t.job = s.job ∧ t.be = s.be ∧
    t.mach = s.mach ∧ { t with host := s.host, regs := s.regs } = s ∧
    ∀ a : Nat, a / 0x10000 ≠ 0x56 → a ≠ R.MBX_IRQ_EN → t.rd a = s.rd a

/-- R54: SNAP latches FRC, t_A, t_B and DT on one tick; a read of TIME_FRC or TIME_DT gives the value of its own tick. -/
def Obligations.SnapshotIsCoherent : Prop :=
  ∀ s : State, s.regsWf →
    (∃ t, exec .timeSnap s = .next t ∧ t.rd R.TIME_SNAP_FRC = s.frc ∧ t.rd R.TIME_SNAP_A = s.tOf .a s.frc ∧
      t.rd R.TIME_SNAP_B = s.tOf .b s.frc ∧ t.rd R.TIME_SNAP_DT = s.dt ∧
      s.OnlyRegs [R.TIME_SNAP_FRC, R.TIME_SNAP_A, R.TIME_SNAP_B, R.TIME_SNAP_DT] t) ∧
    s.readReg R.TIME_FRC = s.frc ∧ s.readReg R.TIME_DT = s.dt

/-- R58: TIME_SLEW.MAX resets to 100 and sets the slew rate, from 1 to 1000 ppm; 0 is taken as 1 and a value above 1000 as
1000. D, in units of 2^-40/10^6 ns, moves towards 0 by that rate at each tick, and stops at 0. -/
def Obligations.SlewRate : Prop :=
  regReset R.TIME_SLEW = 100 ∧
  ∀ (k : Int) (s : State), s.pending = [] → s.hub.pending = [] → s.hub.ladder = [] → s.dev.state ≠ .reset →
    k = 2 ^ 40 * ((if s.rf R.TIME_SLEW 9 0 = 0 then 1 else min (s.rf R.TIME_SLEW 9 0) 1000 : Nat) : Int) →
    ∃ t, step s = .next t ∧ t.tick = s.tick + 1 ∧
      t.time.slew = (if 0 ≤ s.time.slew then max 0 (s.time.slew - k) else min 0 (s.time.slew + k))
end

