-- ==== Sys2Proof/Laws/State.lean ====
section
/-! SUPPORT. What each elementary update leaves in each field of the state, and in the words, bytes and slots read from it:
true by definition, so that no proof unfolds a record update. -/

namespace Sys2Proof.Machine.State

variable (s : State)

/-! `upBe`. -/

@[simp] theorem upBe_pending (b : Beam) (f : BeamEng → BeamEng) : (s.upBe b f).pending = s.pending := rfl
@[simp] theorem upBe_tick (b : Beam) (f : BeamEng → BeamEng) : (s.upBe b f).tick = s.tick := rfl
@[simp] theorem upBe_free (b : Beam) (f : BeamEng → BeamEng) : (s.upBe b f).free = s.free := rfl
@[simp] theorem upBe_dev (b : Beam) (f : BeamEng → BeamEng) : (s.upBe b f).dev = s.dev := rfl
@[simp] theorem upBe_regs (b : Beam) (f : BeamEng → BeamEng) : (s.upBe b f).regs = s.regs := rfl
@[simp] theorem upBe_mem (b : Beam) (f : BeamEng → BeamEng) : (s.upBe b f).mem = s.mem := rfl
@[simp] theorem upBe_time (b : Beam) (f : BeamEng → BeamEng) : (s.upBe b f).time = s.time := rfl
@[simp] theorem upBe_job (b : Beam) (f : BeamEng → BeamEng) : (s.upBe b f).job = s.job := rfl
@[simp] theorem upBe_be (b : Beam) (f : BeamEng → BeamEng) : (s.upBe b f).be = vupd s.be b f := rfl
@[simp] theorem upBe_ld (b : Beam) (f : BeamEng → BeamEng) : (s.upBe b f).ld = s.ld := rfl
@[simp] theorem upBe_ldc (b : Beam) (f : BeamEng → BeamEng) : (s.upBe b f).ldc = s.ldc := rfl
@[simp] theorem upBe_pcu (b : Beam) (f : BeamEng → BeamEng) : (s.upBe b f).pcu = s.pcu := rfl
@[simp] theorem upBe_tel (b : Beam) (f : BeamEng → BeamEng) : (s.upBe b f).tel = s.tel := rfl
@[simp] theorem upBe_ldg (b : Beam) (f : BeamEng → BeamEng) : (s.upBe b f).ldg = s.ldg := rfl
@[simp] theorem upBe_zone (b : Beam) (f : BeamEng → BeamEng) : (s.upBe b f).zone = s.zone := rfl
@[simp] theorem upBe_fab (b : Beam) (f : BeamEng → BeamEng) : (s.upBe b f).fab = s.fab := rfl
@[simp] theorem upBe_le (b : Beam) (f : BeamEng → BeamEng) : (s.upBe b f).le = s.le := rfl
@[simp] theorem upBe_ax (b : Beam) (f : BeamEng → BeamEng) : (s.upBe b f).ax = s.ax := rfl
@[simp] theorem upBe_mach (b : Beam) (f : BeamEng → BeamEng) : (s.upBe b f).mach = s.mach := rfl
@[simp] theorem upBe_cal (b : Beam) (f : BeamEng → BeamEng) : (s.upBe b f).cal = s.cal := rfl
@[simp] theorem upBe_lane (b : Beam) (f : BeamEng → BeamEng) : (s.upBe b f).lane = s.lane := rfl
@[simp] theorem upBe_port (b : Beam) (f : BeamEng → BeamEng) : (s.upBe b f).port = s.port := rfl
@[simp] theorem upBe_sent (b : Beam) (f : BeamEng → BeamEng) : (s.upBe b f).sent = s.sent := rfl
@[simp] theorem upBe_twin (b : Beam) (f : BeamEng → BeamEng) : (s.upBe b f).twin = s.twin := rfl
@[simp] theorem upBe_hub (b : Beam) (f : BeamEng → BeamEng) : (s.upBe b f).hub = s.hub := rfl
@[simp] theorem upBe_recd (b : Beam) (f : BeamEng → BeamEng) : (s.upBe b f).recd = s.recd := rfl
@[simp] theorem upBe_pwr (b : Beam) (f : BeamEng → BeamEng) : (s.upBe b f).pwr = s.pwr := rfl
@[simp] theorem upBe_host (b : Beam) (f : BeamEng → BeamEng) : (s.upBe b f).host = s.host := rfl
@[simp] theorem upBe_mram (b : Beam) (f : BeamEng → BeamEng) : (s.upBe b f).mram = s.mram := rfl
@[simp] theorem upBe_js (b : Beam) (f : BeamEng → BeamEng) (slt : Slot) : (s.upBe b f).js slt = s.js slt := rfl
@[simp] theorem upBe_ls (b : Beam) (f : BeamEng → BeamEng) (eng : Engine) (lsl : LSlot) : (s.upBe b f).ls eng lsl = s.ls eng lsl := rfl
@[simp] theorem upBe_rd (b : Beam) (f : BeamEng → BeamEng) (q : Nat) : (s.upBe b f).rd q = s.rd q := rfl
@[simp] theorem upBe_rdByte (b : Beam) (f : BeamEng → BeamEng) (q : Nat) : (s.upBe b f).rdByte q = s.rdByte q := rfl

/-! `upLd`. -/

@[simp] theorem upLd_pending (b : Beam) (f : Laser → Laser) : (s.upLd b f).pending = s.pending := rfl
@[simp] theorem upLd_tick (b : Beam) (f : Laser → Laser) : (s.upLd b f).tick = s.tick := rfl
@[simp] theorem upLd_free (b : Beam) (f : Laser → Laser) : (s.upLd b f).free = s.free := rfl
@[simp] theorem upLd_dev (b : Beam) (f : Laser → Laser) : (s.upLd b f).dev = s.dev := rfl
@[simp] theorem upLd_regs (b : Beam) (f : Laser → Laser) : (s.upLd b f).regs = s.regs := rfl
@[simp] theorem upLd_mem (b : Beam) (f : Laser → Laser) : (s.upLd b f).mem = s.mem := rfl
@[simp] theorem upLd_time (b : Beam) (f : Laser → Laser) : (s.upLd b f).time = s.time := rfl
@[simp] theorem upLd_job (b : Beam) (f : Laser → Laser) : (s.upLd b f).job = s.job := rfl
@[simp] theorem upLd_be (b : Beam) (f : Laser → Laser) : (s.upLd b f).be = s.be := rfl
@[simp] theorem upLd_ld (b : Beam) (f : Laser → Laser) : (s.upLd b f).ld = vupd s.ld b f := rfl
@[simp] theorem upLd_ldc (b : Beam) (f : Laser → Laser) : (s.upLd b f).ldc = s.ldc := rfl
@[simp] theorem upLd_pcu (b : Beam) (f : Laser → Laser) : (s.upLd b f).pcu = s.pcu := rfl
@[simp] theorem upLd_tel (b : Beam) (f : Laser → Laser) : (s.upLd b f).tel = s.tel := rfl
@[simp] theorem upLd_ldg (b : Beam) (f : Laser → Laser) : (s.upLd b f).ldg = s.ldg := rfl
@[simp] theorem upLd_zone (b : Beam) (f : Laser → Laser) : (s.upLd b f).zone = s.zone := rfl
@[simp] theorem upLd_fab (b : Beam) (f : Laser → Laser) : (s.upLd b f).fab = s.fab := rfl
@[simp] theorem upLd_le (b : Beam) (f : Laser → Laser) : (s.upLd b f).le = s.le := rfl
@[simp] theorem upLd_ax (b : Beam) (f : Laser → Laser) : (s.upLd b f).ax = s.ax := rfl
@[simp] theorem upLd_mach (b : Beam) (f : Laser → Laser) : (s.upLd b f).mach = s.mach := rfl
@[simp] theorem upLd_cal (b : Beam) (f : Laser → Laser) : (s.upLd b f).cal = s.cal := rfl
@[simp] theorem upLd_lane (b : Beam) (f : Laser → Laser) : (s.upLd b f).lane = s.lane := rfl
@[simp] theorem upLd_port (b : Beam) (f : Laser → Laser) : (s.upLd b f).port = s.port := rfl
@[simp] theorem upLd_sent (b : Beam) (f : Laser → Laser) : (s.upLd b f).sent = s.sent := rfl
@[simp] theorem upLd_twin (b : Beam) (f : Laser → Laser) : (s.upLd b f).twin = s.twin := rfl
@[simp] theorem upLd_hub (b : Beam) (f : Laser → Laser) : (s.upLd b f).hub = s.hub := rfl
@[simp] theorem upLd_recd (b : Beam) (f : Laser → Laser) : (s.upLd b f).recd = s.recd := rfl
@[simp] theorem upLd_pwr (b : Beam) (f : Laser → Laser) : (s.upLd b f).pwr = s.pwr := rfl
@[simp] theorem upLd_host (b : Beam) (f : Laser → Laser) : (s.upLd b f).host = s.host := rfl
@[simp] theorem upLd_mram (b : Beam) (f : Laser → Laser) : (s.upLd b f).mram = s.mram := rfl
@[simp] theorem upLd_js (b : Beam) (f : Laser → Laser) (slt : Slot) : (s.upLd b f).js slt = s.js slt := rfl
@[simp] theorem upLd_ls (b : Beam) (f : Laser → Laser) (eng : Engine) (lsl : LSlot) : (s.upLd b f).ls eng lsl = s.ls eng lsl := rfl
@[simp] theorem upLd_rd (b : Beam) (f : Laser → Laser) (q : Nat) : (s.upLd b f).rd q = s.rd q := rfl
@[simp] theorem upLd_rdByte (b : Beam) (f : Laser → Laser) (q : Nat) : (s.upLd b f).rdByte q = s.rdByte q := rfl

/-! `upPcu`. -/

@[simp] theorem upPcu_pending (b : Beam) (f : Pcu → Pcu) : (s.upPcu b f).pending = s.pending := rfl
@[simp] theorem upPcu_tick (b : Beam) (f : Pcu → Pcu) : (s.upPcu b f).tick = s.tick := rfl
@[simp] theorem upPcu_free (b : Beam) (f : Pcu → Pcu) : (s.upPcu b f).free = s.free := rfl
@[simp] theorem upPcu_dev (b : Beam) (f : Pcu → Pcu) : (s.upPcu b f).dev = s.dev := rfl
@[simp] theorem upPcu_regs (b : Beam) (f : Pcu → Pcu) : (s.upPcu b f).regs = s.regs := rfl
@[simp] theorem upPcu_mem (b : Beam) (f : Pcu → Pcu) : (s.upPcu b f).mem = s.mem := rfl
@[simp] theorem upPcu_time (b : Beam) (f : Pcu → Pcu) : (s.upPcu b f).time = s.time := rfl
@[simp] theorem upPcu_job (b : Beam) (f : Pcu → Pcu) : (s.upPcu b f).job = s.job := rfl
@[simp] theorem upPcu_be (b : Beam) (f : Pcu → Pcu) : (s.upPcu b f).be = s.be := rfl
@[simp] theorem upPcu_ld (b : Beam) (f : Pcu → Pcu) : (s.upPcu b f).ld = s.ld := rfl
@[simp] theorem upPcu_ldc (b : Beam) (f : Pcu → Pcu) : (s.upPcu b f).ldc = s.ldc := rfl
@[simp] theorem upPcu_pcu (b : Beam) (f : Pcu → Pcu) : (s.upPcu b f).pcu = vupd s.pcu b f := rfl
@[simp] theorem upPcu_tel (b : Beam) (f : Pcu → Pcu) : (s.upPcu b f).tel = s.tel := rfl
@[simp] theorem upPcu_ldg (b : Beam) (f : Pcu → Pcu) : (s.upPcu b f).ldg = s.ldg := rfl
@[simp] theorem upPcu_zone (b : Beam) (f : Pcu → Pcu) : (s.upPcu b f).zone = s.zone := rfl
@[simp] theorem upPcu_fab (b : Beam) (f : Pcu → Pcu) : (s.upPcu b f).fab = s.fab := rfl
@[simp] theorem upPcu_le (b : Beam) (f : Pcu → Pcu) : (s.upPcu b f).le = s.le := rfl
@[simp] theorem upPcu_ax (b : Beam) (f : Pcu → Pcu) : (s.upPcu b f).ax = s.ax := rfl
@[simp] theorem upPcu_mach (b : Beam) (f : Pcu → Pcu) : (s.upPcu b f).mach = s.mach := rfl
@[simp] theorem upPcu_cal (b : Beam) (f : Pcu → Pcu) : (s.upPcu b f).cal = s.cal := rfl
@[simp] theorem upPcu_lane (b : Beam) (f : Pcu → Pcu) : (s.upPcu b f).lane = s.lane := rfl
@[simp] theorem upPcu_port (b : Beam) (f : Pcu → Pcu) : (s.upPcu b f).port = s.port := rfl
@[simp] theorem upPcu_sent (b : Beam) (f : Pcu → Pcu) : (s.upPcu b f).sent = s.sent := rfl
@[simp] theorem upPcu_twin (b : Beam) (f : Pcu → Pcu) : (s.upPcu b f).twin = s.twin := rfl
@[simp] theorem upPcu_hub (b : Beam) (f : Pcu → Pcu) : (s.upPcu b f).hub = s.hub := rfl
@[simp] theorem upPcu_recd (b : Beam) (f : Pcu → Pcu) : (s.upPcu b f).recd = s.recd := rfl
@[simp] theorem upPcu_pwr (b : Beam) (f : Pcu → Pcu) : (s.upPcu b f).pwr = s.pwr := rfl
@[simp] theorem upPcu_host (b : Beam) (f : Pcu → Pcu) : (s.upPcu b f).host = s.host := rfl
@[simp] theorem upPcu_mram (b : Beam) (f : Pcu → Pcu) : (s.upPcu b f).mram = s.mram := rfl
@[simp] theorem upPcu_js (b : Beam) (f : Pcu → Pcu) (slt : Slot) : (s.upPcu b f).js slt = s.js slt := rfl
@[simp] theorem upPcu_ls (b : Beam) (f : Pcu → Pcu) (eng : Engine) (lsl : LSlot) : (s.upPcu b f).ls eng lsl = s.ls eng lsl := rfl
@[simp] theorem upPcu_rd (b : Beam) (f : Pcu → Pcu) (q : Nat) : (s.upPcu b f).rd q = s.rd q := rfl
@[simp] theorem upPcu_rdByte (b : Beam) (f : Pcu → Pcu) (q : Nat) : (s.upPcu b f).rdByte q = s.rdByte q := rfl

/-! `upSlot`. -/

@[simp] theorem upSlot_pending (n : Slot) (f : JobSlot → JobSlot) : (s.upSlot n f).pending = s.pending := rfl
@[simp] theorem upSlot_tick (n : Slot) (f : JobSlot → JobSlot) : (s.upSlot n f).tick = s.tick := rfl
@[simp] theorem upSlot_free (n : Slot) (f : JobSlot → JobSlot) : (s.upSlot n f).free = s.free := rfl
@[simp] theorem upSlot_dev (n : Slot) (f : JobSlot → JobSlot) : (s.upSlot n f).dev = s.dev := rfl
@[simp] theorem upSlot_regs (n : Slot) (f : JobSlot → JobSlot) : (s.upSlot n f).regs = s.regs := rfl
@[simp] theorem upSlot_mem (n : Slot) (f : JobSlot → JobSlot) : (s.upSlot n f).mem = s.mem := rfl
@[simp] theorem upSlot_time (n : Slot) (f : JobSlot → JobSlot) : (s.upSlot n f).time = s.time := rfl
@[simp] theorem upSlot_job (n : Slot) (f : JobSlot → JobSlot) : (s.upSlot n f).job = { s.job with slot := vupd s.job.slot n f } := rfl
@[simp] theorem upSlot_be (n : Slot) (f : JobSlot → JobSlot) : (s.upSlot n f).be = s.be := rfl
@[simp] theorem upSlot_ld (n : Slot) (f : JobSlot → JobSlot) : (s.upSlot n f).ld = s.ld := rfl
@[simp] theorem upSlot_ldc (n : Slot) (f : JobSlot → JobSlot) : (s.upSlot n f).ldc = s.ldc := rfl
@[simp] theorem upSlot_pcu (n : Slot) (f : JobSlot → JobSlot) : (s.upSlot n f).pcu = s.pcu := rfl
@[simp] theorem upSlot_tel (n : Slot) (f : JobSlot → JobSlot) : (s.upSlot n f).tel = s.tel := rfl
@[simp] theorem upSlot_ldg (n : Slot) (f : JobSlot → JobSlot) : (s.upSlot n f).ldg = s.ldg := rfl
@[simp] theorem upSlot_zone (n : Slot) (f : JobSlot → JobSlot) : (s.upSlot n f).zone = s.zone := rfl
@[simp] theorem upSlot_fab (n : Slot) (f : JobSlot → JobSlot) : (s.upSlot n f).fab = s.fab := rfl
@[simp] theorem upSlot_le (n : Slot) (f : JobSlot → JobSlot) : (s.upSlot n f).le = s.le := rfl
@[simp] theorem upSlot_ax (n : Slot) (f : JobSlot → JobSlot) : (s.upSlot n f).ax = s.ax := rfl
@[simp] theorem upSlot_mach (n : Slot) (f : JobSlot → JobSlot) : (s.upSlot n f).mach = s.mach := rfl
@[simp] theorem upSlot_cal (n : Slot) (f : JobSlot → JobSlot) : (s.upSlot n f).cal = s.cal := rfl
@[simp] theorem upSlot_lane (n : Slot) (f : JobSlot → JobSlot) : (s.upSlot n f).lane = s.lane := rfl
@[simp] theorem upSlot_port (n : Slot) (f : JobSlot → JobSlot) : (s.upSlot n f).port = s.port := rfl
@[simp] theorem upSlot_sent (n : Slot) (f : JobSlot → JobSlot) : (s.upSlot n f).sent = s.sent := rfl
@[simp] theorem upSlot_twin (n : Slot) (f : JobSlot → JobSlot) : (s.upSlot n f).twin = s.twin := rfl
@[simp] theorem upSlot_hub (n : Slot) (f : JobSlot → JobSlot) : (s.upSlot n f).hub = s.hub := rfl
@[simp] theorem upSlot_recd (n : Slot) (f : JobSlot → JobSlot) : (s.upSlot n f).recd = s.recd := rfl
@[simp] theorem upSlot_pwr (n : Slot) (f : JobSlot → JobSlot) : (s.upSlot n f).pwr = s.pwr := rfl
@[simp] theorem upSlot_host (n : Slot) (f : JobSlot → JobSlot) : (s.upSlot n f).host = s.host := rfl
@[simp] theorem upSlot_mram (n : Slot) (f : JobSlot → JobSlot) : (s.upSlot n f).mram = s.mram := rfl
@[simp] theorem upSlot_ls (n : Slot) (f : JobSlot → JobSlot) (eng : Engine) (lsl : LSlot) : (s.upSlot n f).ls eng lsl = s.ls eng lsl := rfl
@[simp] theorem upSlot_rd (n : Slot) (f : JobSlot → JobSlot) (q : Nat) : (s.upSlot n f).rd q = s.rd q := rfl
@[simp] theorem upSlot_rdByte (n : Slot) (f : JobSlot → JobSlot) (q : Nat) : (s.upSlot n f).rdByte q = s.rdByte q := rfl

/-! `upJob`. -/

@[simp] theorem upJob_pending (f : JobBlock → JobBlock) : (s.upJob f).pending = s.pending := rfl
@[simp] theorem upJob_tick (f : JobBlock → JobBlock) : (s.upJob f).tick = s.tick := rfl
@[simp] theorem upJob_free (f : JobBlock → JobBlock) : (s.upJob f).free = s.free := rfl
@[simp] theorem upJob_dev (f : JobBlock → JobBlock) : (s.upJob f).dev = s.dev := rfl
@[simp] theorem upJob_regs (f : JobBlock → JobBlock) : (s.upJob f).regs = s.regs := rfl
@[simp] theorem upJob_mem (f : JobBlock → JobBlock) : (s.upJob f).mem = s.mem := rfl
@[simp] theorem upJob_time (f : JobBlock → JobBlock) : (s.upJob f).time = s.time := rfl
@[simp] theorem upJob_job (f : JobBlock → JobBlock) : (s.upJob f).job = f s.job := rfl
@[simp] theorem upJob_be (f : JobBlock → JobBlock) : (s.upJob f).be = s.be := rfl
@[simp] theorem upJob_ld (f : JobBlock → JobBlock) : (s.upJob f).ld = s.ld := rfl
@[simp] theorem upJob_ldc (f : JobBlock → JobBlock) : (s.upJob f).ldc = s.ldc := rfl
@[simp] theorem upJob_pcu (f : JobBlock → JobBlock) : (s.upJob f).pcu = s.pcu := rfl
@[simp] theorem upJob_tel (f : JobBlock → JobBlock) : (s.upJob f).tel = s.tel := rfl
@[simp] theorem upJob_ldg (f : JobBlock → JobBlock) : (s.upJob f).ldg = s.ldg := rfl
@[simp] theorem upJob_zone (f : JobBlock → JobBlock) : (s.upJob f).zone = s.zone := rfl
@[simp] theorem upJob_fab (f : JobBlock → JobBlock) : (s.upJob f).fab = s.fab := rfl
@[simp] theorem upJob_le (f : JobBlock → JobBlock) : (s.upJob f).le = s.le := rfl
@[simp] theorem upJob_ax (f : JobBlock → JobBlock) : (s.upJob f).ax = s.ax := rfl
@[simp] theorem upJob_mach (f : JobBlock → JobBlock) : (s.upJob f).mach = s.mach := rfl
@[simp] theorem upJob_cal (f : JobBlock → JobBlock) : (s.upJob f).cal = s.cal := rfl
@[simp] theorem upJob_lane (f : JobBlock → JobBlock) : (s.upJob f).lane = s.lane := rfl
@[simp] theorem upJob_port (f : JobBlock → JobBlock) : (s.upJob f).port = s.port := rfl
@[simp] theorem upJob_sent (f : JobBlock → JobBlock) : (s.upJob f).sent = s.sent := rfl
@[simp] theorem upJob_twin (f : JobBlock → JobBlock) : (s.upJob f).twin = s.twin := rfl
@[simp] theorem upJob_hub (f : JobBlock → JobBlock) : (s.upJob f).hub = s.hub := rfl
@[simp] theorem upJob_recd (f : JobBlock → JobBlock) : (s.upJob f).recd = s.recd := rfl
@[simp] theorem upJob_pwr (f : JobBlock → JobBlock) : (s.upJob f).pwr = s.pwr := rfl
@[simp] theorem upJob_host (f : JobBlock → JobBlock) : (s.upJob f).host = s.host := rfl
@[simp] theorem upJob_mram (f : JobBlock → JobBlock) : (s.upJob f).mram = s.mram := rfl
@[simp] theorem upJob_ls (f : JobBlock → JobBlock) (eng : Engine) (lsl : LSlot) : (s.upJob f).ls eng lsl = s.ls eng lsl := rfl
@[simp] theorem upJob_rd (f : JobBlock → JobBlock) (q : Nat) : (s.upJob f).rd q = s.rd q := rfl
@[simp] theorem upJob_rdByte (f : JobBlock → JobBlock) (q : Nat) : (s.upJob f).rdByte q = s.rdByte q := rfl

/-! `upDev`. -/

@[simp] theorem upDev_pending (f : Dev → Dev) : (s.upDev f).pending = s.pending := rfl
@[simp] theorem upDev_tick (f : Dev → Dev) : (s.upDev f).tick = s.tick := rfl
@[simp] theorem upDev_free (f : Dev → Dev) : (s.upDev f).free = s.free := rfl
@[simp] theorem upDev_dev (f : Dev → Dev) : (s.upDev f).dev = f s.dev := rfl
@[simp] theorem upDev_regs (f : Dev → Dev) : (s.upDev f).regs = s.regs := rfl
@[simp] theorem upDev_mem (f : Dev → Dev) : (s.upDev f).mem = s.mem := rfl
@[simp] theorem upDev_time (f : Dev → Dev) : (s.upDev f).time = s.time := rfl
@[simp] theorem upDev_job (f : Dev → Dev) : (s.upDev f).job = s.job := rfl
@[simp] theorem upDev_be (f : Dev → Dev) : (s.upDev f).be = s.be := rfl
@[simp] theorem upDev_ld (f : Dev → Dev) : (s.upDev f).ld = s.ld := rfl
@[simp] theorem upDev_ldc (f : Dev → Dev) : (s.upDev f).ldc = s.ldc := rfl
@[simp] theorem upDev_pcu (f : Dev → Dev) : (s.upDev f).pcu = s.pcu := rfl
@[simp] theorem upDev_tel (f : Dev → Dev) : (s.upDev f).tel = s.tel := rfl
@[simp] theorem upDev_ldg (f : Dev → Dev) : (s.upDev f).ldg = s.ldg := rfl
@[simp] theorem upDev_zone (f : Dev → Dev) : (s.upDev f).zone = s.zone := rfl
@[simp] theorem upDev_fab (f : Dev → Dev) : (s.upDev f).fab = s.fab := rfl
@[simp] theorem upDev_le (f : Dev → Dev) : (s.upDev f).le = s.le := rfl
@[simp] theorem upDev_ax (f : Dev → Dev) : (s.upDev f).ax = s.ax := rfl
@[simp] theorem upDev_mach (f : Dev → Dev) : (s.upDev f).mach = s.mach := rfl
@[simp] theorem upDev_cal (f : Dev → Dev) : (s.upDev f).cal = s.cal := rfl
@[simp] theorem upDev_lane (f : Dev → Dev) : (s.upDev f).lane = s.lane := rfl
@[simp] theorem upDev_port (f : Dev → Dev) : (s.upDev f).port = s.port := rfl
@[simp] theorem upDev_sent (f : Dev → Dev) : (s.upDev f).sent = s.sent := rfl
@[simp] theorem upDev_twin (f : Dev → Dev) : (s.upDev f).twin = s.twin := rfl
@[simp] theorem upDev_hub (f : Dev → Dev) : (s.upDev f).hub = s.hub := rfl
@[simp] theorem upDev_recd (f : Dev → Dev) : (s.upDev f).recd = s.recd := rfl
@[simp] theorem upDev_pwr (f : Dev → Dev) : (s.upDev f).pwr = s.pwr := rfl
@[simp] theorem upDev_host (f : Dev → Dev) : (s.upDev f).host = s.host := rfl
@[simp] theorem upDev_mram (f : Dev → Dev) : (s.upDev f).mram = s.mram := rfl
@[simp] theorem upDev_js (f : Dev → Dev) (slt : Slot) : (s.upDev f).js slt = s.js slt := rfl
@[simp] theorem upDev_ls (f : Dev → Dev) (eng : Engine) (lsl : LSlot) : (s.upDev f).ls eng lsl = s.ls eng lsl := rfl
@[simp] theorem upDev_rd (f : Dev → Dev) (q : Nat) : (s.upDev f).rd q = s.rd q := rfl
@[simp] theorem upDev_rdByte (f : Dev → Dev) (q : Nat) : (s.upDev f).rdByte q = s.rdByte q := rfl

/-! `upTime`. -/

@[simp] theorem upTime_pending (f : TimeBase → TimeBase) : (s.upTime f).pending = s.pending := rfl
@[simp] theorem upTime_tick (f : TimeBase → TimeBase) : (s.upTime f).tick = s.tick := rfl
@[simp] theorem upTime_free (f : TimeBase → TimeBase) : (s.upTime f).free = s.free := rfl
@[simp] theorem upTime_dev (f : TimeBase → TimeBase) : (s.upTime f).dev = s.dev := rfl
@[simp] theorem upTime_regs (f : TimeBase → TimeBase) : (s.upTime f).regs = s.regs := rfl
@[simp] theorem upTime_mem (f : TimeBase → TimeBase) : (s.upTime f).mem = s.mem := rfl
@[simp] theorem upTime_time (f : TimeBase → TimeBase) : (s.upTime f).time = f s.time := rfl
@[simp] theorem upTime_job (f : TimeBase → TimeBase) : (s.upTime f).job = s.job := rfl
@[simp] theorem upTime_be (f : TimeBase → TimeBase) : (s.upTime f).be = s.be := rfl
@[simp] theorem upTime_ld (f : TimeBase → TimeBase) : (s.upTime f).ld = s.ld := rfl
@[simp] theorem upTime_ldc (f : TimeBase → TimeBase) : (s.upTime f).ldc = s.ldc := rfl
@[simp] theorem upTime_pcu (f : TimeBase → TimeBase) : (s.upTime f).pcu = s.pcu := rfl
@[simp] theorem upTime_tel (f : TimeBase → TimeBase) : (s.upTime f).tel = s.tel := rfl
@[simp] theorem upTime_ldg (f : TimeBase → TimeBase) : (s.upTime f).ldg = s.ldg := rfl
@[simp] theorem upTime_zone (f : TimeBase → TimeBase) : (s.upTime f).zone = s.zone := rfl
@[simp] theorem upTime_fab (f : TimeBase → TimeBase) : (s.upTime f).fab = s.fab := rfl
@[simp] theorem upTime_le (f : TimeBase → TimeBase) : (s.upTime f).le = s.le := rfl
@[simp] theorem upTime_ax (f : TimeBase → TimeBase) : (s.upTime f).ax = s.ax := rfl
@[simp] theorem upTime_mach (f : TimeBase → TimeBase) : (s.upTime f).mach = s.mach := rfl
@[simp] theorem upTime_cal (f : TimeBase → TimeBase) : (s.upTime f).cal = s.cal := rfl
@[simp] theorem upTime_lane (f : TimeBase → TimeBase) : (s.upTime f).lane = s.lane := rfl
@[simp] theorem upTime_port (f : TimeBase → TimeBase) : (s.upTime f).port = s.port := rfl
@[simp] theorem upTime_sent (f : TimeBase → TimeBase) : (s.upTime f).sent = s.sent := rfl
@[simp] theorem upTime_twin (f : TimeBase → TimeBase) : (s.upTime f).twin = s.twin := rfl
@[simp] theorem upTime_hub (f : TimeBase → TimeBase) : (s.upTime f).hub = s.hub := rfl
@[simp] theorem upTime_recd (f : TimeBase → TimeBase) : (s.upTime f).recd = s.recd := rfl
@[simp] theorem upTime_pwr (f : TimeBase → TimeBase) : (s.upTime f).pwr = s.pwr := rfl
@[simp] theorem upTime_host (f : TimeBase → TimeBase) : (s.upTime f).host = s.host := rfl
@[simp] theorem upTime_mram (f : TimeBase → TimeBase) : (s.upTime f).mram = s.mram := rfl
@[simp] theorem upTime_js (f : TimeBase → TimeBase) (slt : Slot) : (s.upTime f).js slt = s.js slt := rfl
@[simp] theorem upTime_ls (f : TimeBase → TimeBase) (eng : Engine) (lsl : LSlot) : (s.upTime f).ls eng lsl = s.ls eng lsl := rfl
@[simp] theorem upTime_rd (f : TimeBase → TimeBase) (q : Nat) : (s.upTime f).rd q = s.rd q := rfl
@[simp] theorem upTime_rdByte (f : TimeBase → TimeBase) (q : Nat) : (s.upTime f).rdByte q = s.rdByte q := rfl

/-! `upLdc`. -/

@[simp] theorem upLdc_pending (f : LaserCommon → LaserCommon) : (s.upLdc f).pending = s.pending := rfl
@[simp] theorem upLdc_tick (f : LaserCommon → LaserCommon) : (s.upLdc f).tick = s.tick := rfl
@[simp] theorem upLdc_free (f : LaserCommon → LaserCommon) : (s.upLdc f).free = s.free := rfl
@[simp] theorem upLdc_dev (f : LaserCommon → LaserCommon) : (s.upLdc f).dev = s.dev := rfl
@[simp] theorem upLdc_regs (f : LaserCommon → LaserCommon) : (s.upLdc f).regs = s.regs := rfl
@[simp] theorem upLdc_mem (f : LaserCommon → LaserCommon) : (s.upLdc f).mem = s.mem := rfl
@[simp] theorem upLdc_time (f : LaserCommon → LaserCommon) : (s.upLdc f).time = s.time := rfl
@[simp] theorem upLdc_job (f : LaserCommon → LaserCommon) : (s.upLdc f).job = s.job := rfl
@[simp] theorem upLdc_be (f : LaserCommon → LaserCommon) : (s.upLdc f).be = s.be := rfl
@[simp] theorem upLdc_ld (f : LaserCommon → LaserCommon) : (s.upLdc f).ld = s.ld := rfl
@[simp] theorem upLdc_ldc (f : LaserCommon → LaserCommon) : (s.upLdc f).ldc = f s.ldc := rfl
@[simp] theorem upLdc_pcu (f : LaserCommon → LaserCommon) : (s.upLdc f).pcu = s.pcu := rfl
@[simp] theorem upLdc_tel (f : LaserCommon → LaserCommon) : (s.upLdc f).tel = s.tel := rfl
@[simp] theorem upLdc_ldg (f : LaserCommon → LaserCommon) : (s.upLdc f).ldg = s.ldg := rfl
@[simp] theorem upLdc_zone (f : LaserCommon → LaserCommon) : (s.upLdc f).zone = s.zone := rfl
@[simp] theorem upLdc_fab (f : LaserCommon → LaserCommon) : (s.upLdc f).fab = s.fab := rfl
@[simp] theorem upLdc_le (f : LaserCommon → LaserCommon) : (s.upLdc f).le = s.le := rfl
@[simp] theorem upLdc_ax (f : LaserCommon → LaserCommon) : (s.upLdc f).ax = s.ax := rfl
@[simp] theorem upLdc_mach (f : LaserCommon → LaserCommon) : (s.upLdc f).mach = s.mach := rfl
@[simp] theorem upLdc_cal (f : LaserCommon → LaserCommon) : (s.upLdc f).cal = s.cal := rfl
@[simp] theorem upLdc_lane (f : LaserCommon → LaserCommon) : (s.upLdc f).lane = s.lane := rfl
@[simp] theorem upLdc_port (f : LaserCommon → LaserCommon) : (s.upLdc f).port = s.port := rfl
@[simp] theorem upLdc_sent (f : LaserCommon → LaserCommon) : (s.upLdc f).sent = s.sent := rfl
@[simp] theorem upLdc_twin (f : LaserCommon → LaserCommon) : (s.upLdc f).twin = s.twin := rfl
@[simp] theorem upLdc_hub (f : LaserCommon → LaserCommon) : (s.upLdc f).hub = s.hub := rfl
@[simp] theorem upLdc_recd (f : LaserCommon → LaserCommon) : (s.upLdc f).recd = s.recd := rfl
@[simp] theorem upLdc_pwr (f : LaserCommon → LaserCommon) : (s.upLdc f).pwr = s.pwr := rfl
@[simp] theorem upLdc_host (f : LaserCommon → LaserCommon) : (s.upLdc f).host = s.host := rfl
@[simp] theorem upLdc_mram (f : LaserCommon → LaserCommon) : (s.upLdc f).mram = s.mram := rfl
@[simp] theorem upLdc_js (f : LaserCommon → LaserCommon) (slt : Slot) : (s.upLdc f).js slt = s.js slt := rfl
@[simp] theorem upLdc_ls (f : LaserCommon → LaserCommon) (eng : Engine) (lsl : LSlot) : (s.upLdc f).ls eng lsl = s.ls eng lsl := rfl
@[simp] theorem upLdc_rd (f : LaserCommon → LaserCommon) (q : Nat) : (s.upLdc f).rd q = s.rd q := rfl
@[simp] theorem upLdc_rdByte (f : LaserCommon → LaserCommon) (q : Nat) : (s.upLdc f).rdByte q = s.rdByte q := rfl

/-! `upTel`. -/

@[simp] theorem upTel_pending (e : Fin 2) (f : Telemetry → Telemetry) : (s.upTel e f).pending = s.pending := rfl
@[simp] theorem upTel_tick (e : Fin 2) (f : Telemetry → Telemetry) : (s.upTel e f).tick = s.tick := rfl
@[simp] theorem upTel_free (e : Fin 2) (f : Telemetry → Telemetry) : (s.upTel e f).free = s.free := rfl
@[simp] theorem upTel_dev (e : Fin 2) (f : Telemetry → Telemetry) : (s.upTel e f).dev = s.dev := rfl
@[simp] theorem upTel_regs (e : Fin 2) (f : Telemetry → Telemetry) : (s.upTel e f).regs = s.regs := rfl
@[simp] theorem upTel_mem (e : Fin 2) (f : Telemetry → Telemetry) : (s.upTel e f).mem = s.mem := rfl
@[simp] theorem upTel_time (e : Fin 2) (f : Telemetry → Telemetry) : (s.upTel e f).time = s.time := rfl
@[simp] theorem upTel_job (e : Fin 2) (f : Telemetry → Telemetry) : (s.upTel e f).job = s.job := rfl
@[simp] theorem upTel_be (e : Fin 2) (f : Telemetry → Telemetry) : (s.upTel e f).be = s.be := rfl
@[simp] theorem upTel_ld (e : Fin 2) (f : Telemetry → Telemetry) : (s.upTel e f).ld = s.ld := rfl
@[simp] theorem upTel_ldc (e : Fin 2) (f : Telemetry → Telemetry) : (s.upTel e f).ldc = s.ldc := rfl
@[simp] theorem upTel_pcu (e : Fin 2) (f : Telemetry → Telemetry) : (s.upTel e f).pcu = s.pcu := rfl
@[simp] theorem upTel_tel (e : Fin 2) (f : Telemetry → Telemetry) : (s.upTel e f).tel = vupd s.tel e f := rfl
@[simp] theorem upTel_ldg (e : Fin 2) (f : Telemetry → Telemetry) : (s.upTel e f).ldg = s.ldg := rfl
@[simp] theorem upTel_zone (e : Fin 2) (f : Telemetry → Telemetry) : (s.upTel e f).zone = s.zone := rfl
@[simp] theorem upTel_fab (e : Fin 2) (f : Telemetry → Telemetry) : (s.upTel e f).fab = s.fab := rfl
@[simp] theorem upTel_le (e : Fin 2) (f : Telemetry → Telemetry) : (s.upTel e f).le = s.le := rfl
@[simp] theorem upTel_ax (e : Fin 2) (f : Telemetry → Telemetry) : (s.upTel e f).ax = s.ax := rfl
@[simp] theorem upTel_mach (e : Fin 2) (f : Telemetry → Telemetry) : (s.upTel e f).mach = s.mach := rfl
@[simp] theorem upTel_cal (e : Fin 2) (f : Telemetry → Telemetry) : (s.upTel e f).cal = s.cal := rfl
@[simp] theorem upTel_lane (e : Fin 2) (f : Telemetry → Telemetry) : (s.upTel e f).lane = s.lane := rfl
@[simp] theorem upTel_port (e : Fin 2) (f : Telemetry → Telemetry) : (s.upTel e f).port = s.port := rfl
@[simp] theorem upTel_sent (e : Fin 2) (f : Telemetry → Telemetry) : (s.upTel e f).sent = s.sent := rfl
@[simp] theorem upTel_twin (e : Fin 2) (f : Telemetry → Telemetry) : (s.upTel e f).twin = s.twin := rfl
@[simp] theorem upTel_hub (e : Fin 2) (f : Telemetry → Telemetry) : (s.upTel e f).hub = s.hub := rfl
@[simp] theorem upTel_recd (e : Fin 2) (f : Telemetry → Telemetry) : (s.upTel e f).recd = s.recd := rfl
@[simp] theorem upTel_pwr (e : Fin 2) (f : Telemetry → Telemetry) : (s.upTel e f).pwr = s.pwr := rfl
@[simp] theorem upTel_host (e : Fin 2) (f : Telemetry → Telemetry) : (s.upTel e f).host = s.host := rfl
@[simp] theorem upTel_mram (e : Fin 2) (f : Telemetry → Telemetry) : (s.upTel e f).mram = s.mram := rfl
@[simp] theorem upTel_js (e : Fin 2) (f : Telemetry → Telemetry) (slt : Slot) : (s.upTel e f).js slt = s.js slt := rfl
@[simp] theorem upTel_ls (e : Fin 2) (f : Telemetry → Telemetry) (eng : Engine) (lsl : LSlot) : (s.upTel e f).ls eng lsl = s.ls eng lsl := rfl
@[simp] theorem upTel_rd (e : Fin 2) (f : Telemetry → Telemetry) (q : Nat) : (s.upTel e f).rd q = s.rd q := rfl
@[simp] theorem upTel_rdByte (e : Fin 2) (f : Telemetry → Telemetry) (q : Nat) : (s.upTel e f).rdByte q = s.rdByte q := rfl

/-! `upLdg`. -/

@[simp] theorem upLdg_pending (f : Ledger → Ledger) : (s.upLdg f).pending = s.pending := rfl
@[simp] theorem upLdg_tick (f : Ledger → Ledger) : (s.upLdg f).tick = s.tick := rfl
@[simp] theorem upLdg_free (f : Ledger → Ledger) : (s.upLdg f).free = s.free := rfl
@[simp] theorem upLdg_dev (f : Ledger → Ledger) : (s.upLdg f).dev = s.dev := rfl
@[simp] theorem upLdg_regs (f : Ledger → Ledger) : (s.upLdg f).regs = s.regs := rfl
@[simp] theorem upLdg_mem (f : Ledger → Ledger) : (s.upLdg f).mem = s.mem := rfl
@[simp] theorem upLdg_time (f : Ledger → Ledger) : (s.upLdg f).time = s.time := rfl
@[simp] theorem upLdg_job (f : Ledger → Ledger) : (s.upLdg f).job = s.job := rfl
@[simp] theorem upLdg_be (f : Ledger → Ledger) : (s.upLdg f).be = s.be := rfl
@[simp] theorem upLdg_ld (f : Ledger → Ledger) : (s.upLdg f).ld = s.ld := rfl
@[simp] theorem upLdg_ldc (f : Ledger → Ledger) : (s.upLdg f).ldc = s.ldc := rfl
@[simp] theorem upLdg_pcu (f : Ledger → Ledger) : (s.upLdg f).pcu = s.pcu := rfl
@[simp] theorem upLdg_tel (f : Ledger → Ledger) : (s.upLdg f).tel = s.tel := rfl
@[simp] theorem upLdg_ldg (f : Ledger → Ledger) : (s.upLdg f).ldg = f s.ldg := rfl
@[simp] theorem upLdg_zone (f : Ledger → Ledger) : (s.upLdg f).zone = s.zone := rfl
@[simp] theorem upLdg_fab (f : Ledger → Ledger) : (s.upLdg f).fab = s.fab := rfl
@[simp] theorem upLdg_le (f : Ledger → Ledger) : (s.upLdg f).le = s.le := rfl
@[simp] theorem upLdg_ax (f : Ledger → Ledger) : (s.upLdg f).ax = s.ax := rfl
@[simp] theorem upLdg_mach (f : Ledger → Ledger) : (s.upLdg f).mach = s.mach := rfl
@[simp] theorem upLdg_cal (f : Ledger → Ledger) : (s.upLdg f).cal = s.cal := rfl
@[simp] theorem upLdg_lane (f : Ledger → Ledger) : (s.upLdg f).lane = s.lane := rfl
@[simp] theorem upLdg_port (f : Ledger → Ledger) : (s.upLdg f).port = s.port := rfl
@[simp] theorem upLdg_sent (f : Ledger → Ledger) : (s.upLdg f).sent = s.sent := rfl
@[simp] theorem upLdg_twin (f : Ledger → Ledger) : (s.upLdg f).twin = s.twin := rfl
@[simp] theorem upLdg_hub (f : Ledger → Ledger) : (s.upLdg f).hub = s.hub := rfl
@[simp] theorem upLdg_recd (f : Ledger → Ledger) : (s.upLdg f).recd = s.recd := rfl
@[simp] theorem upLdg_pwr (f : Ledger → Ledger) : (s.upLdg f).pwr = s.pwr := rfl
@[simp] theorem upLdg_host (f : Ledger → Ledger) : (s.upLdg f).host = s.host := rfl
@[simp] theorem upLdg_mram (f : Ledger → Ledger) : (s.upLdg f).mram = s.mram := rfl
@[simp] theorem upLdg_js (f : Ledger → Ledger) (slt : Slot) : (s.upLdg f).js slt = s.js slt := rfl
@[simp] theorem upLdg_ls (f : Ledger → Ledger) (eng : Engine) (lsl : LSlot) : (s.upLdg f).ls eng lsl = s.ls eng lsl := rfl
@[simp] theorem upLdg_rd (f : Ledger → Ledger) (q : Nat) : (s.upLdg f).rd q = s.rd q := rfl
@[simp] theorem upLdg_rdByte (f : Ledger → Ledger) (q : Nat) : (s.upLdg f).rdByte q = s.rdByte q := rfl

/-! `upZone`. -/

@[simp] theorem upZone_pending (f : Zone → Zone) : (s.upZone f).pending = s.pending := rfl
@[simp] theorem upZone_tick (f : Zone → Zone) : (s.upZone f).tick = s.tick := rfl
@[simp] theorem upZone_free (f : Zone → Zone) : (s.upZone f).free = s.free := rfl
@[simp] theorem upZone_dev (f : Zone → Zone) : (s.upZone f).dev = s.dev := rfl
@[simp] theorem upZone_regs (f : Zone → Zone) : (s.upZone f).regs = s.regs := rfl
@[simp] theorem upZone_mem (f : Zone → Zone) : (s.upZone f).mem = s.mem := rfl
@[simp] theorem upZone_time (f : Zone → Zone) : (s.upZone f).time = s.time := rfl
@[simp] theorem upZone_job (f : Zone → Zone) : (s.upZone f).job = s.job := rfl
@[simp] theorem upZone_be (f : Zone → Zone) : (s.upZone f).be = s.be := rfl
@[simp] theorem upZone_ld (f : Zone → Zone) : (s.upZone f).ld = s.ld := rfl
@[simp] theorem upZone_ldc (f : Zone → Zone) : (s.upZone f).ldc = s.ldc := rfl
@[simp] theorem upZone_pcu (f : Zone → Zone) : (s.upZone f).pcu = s.pcu := rfl
@[simp] theorem upZone_tel (f : Zone → Zone) : (s.upZone f).tel = s.tel := rfl
@[simp] theorem upZone_ldg (f : Zone → Zone) : (s.upZone f).ldg = s.ldg := rfl
@[simp] theorem upZone_zone (f : Zone → Zone) : (s.upZone f).zone = f s.zone := rfl
@[simp] theorem upZone_fab (f : Zone → Zone) : (s.upZone f).fab = s.fab := rfl
@[simp] theorem upZone_le (f : Zone → Zone) : (s.upZone f).le = s.le := rfl
@[simp] theorem upZone_ax (f : Zone → Zone) : (s.upZone f).ax = s.ax := rfl
@[simp] theorem upZone_mach (f : Zone → Zone) : (s.upZone f).mach = s.mach := rfl
@[simp] theorem upZone_cal (f : Zone → Zone) : (s.upZone f).cal = s.cal := rfl
@[simp] theorem upZone_lane (f : Zone → Zone) : (s.upZone f).lane = s.lane := rfl
@[simp] theorem upZone_port (f : Zone → Zone) : (s.upZone f).port = s.port := rfl
@[simp] theorem upZone_sent (f : Zone → Zone) : (s.upZone f).sent = s.sent := rfl
@[simp] theorem upZone_twin (f : Zone → Zone) : (s.upZone f).twin = s.twin := rfl
@[simp] theorem upZone_hub (f : Zone → Zone) : (s.upZone f).hub = s.hub := rfl
@[simp] theorem upZone_recd (f : Zone → Zone) : (s.upZone f).recd = s.recd := rfl
@[simp] theorem upZone_pwr (f : Zone → Zone) : (s.upZone f).pwr = s.pwr := rfl
@[simp] theorem upZone_host (f : Zone → Zone) : (s.upZone f).host = s.host := rfl
@[simp] theorem upZone_mram (f : Zone → Zone) : (s.upZone f).mram = s.mram := rfl
@[simp] theorem upZone_js (f : Zone → Zone) (slt : Slot) : (s.upZone f).js slt = s.js slt := rfl
@[simp] theorem upZone_ls (f : Zone → Zone) (eng : Engine) (lsl : LSlot) : (s.upZone f).ls eng lsl = s.ls eng lsl := rfl
@[simp] theorem upZone_rd (f : Zone → Zone) (q : Nat) : (s.upZone f).rd q = s.rd q := rfl
@[simp] theorem upZone_rdByte (f : Zone → Zone) (q : Nat) : (s.upZone f).rdByte q = s.rdByte q := rfl

/-! `upFab`. -/

@[simp] theorem upFab_pending (f : Fabric → Fabric) : (s.upFab f).pending = s.pending := rfl
@[simp] theorem upFab_tick (f : Fabric → Fabric) : (s.upFab f).tick = s.tick := rfl
@[simp] theorem upFab_free (f : Fabric → Fabric) : (s.upFab f).free = s.free := rfl
@[simp] theorem upFab_dev (f : Fabric → Fabric) : (s.upFab f).dev = s.dev := rfl
@[simp] theorem upFab_regs (f : Fabric → Fabric) : (s.upFab f).regs = s.regs := rfl
@[simp] theorem upFab_mem (f : Fabric → Fabric) : (s.upFab f).mem = s.mem := rfl
@[simp] theorem upFab_time (f : Fabric → Fabric) : (s.upFab f).time = s.time := rfl
@[simp] theorem upFab_job (f : Fabric → Fabric) : (s.upFab f).job = s.job := rfl
@[simp] theorem upFab_be (f : Fabric → Fabric) : (s.upFab f).be = s.be := rfl
@[simp] theorem upFab_ld (f : Fabric → Fabric) : (s.upFab f).ld = s.ld := rfl
@[simp] theorem upFab_ldc (f : Fabric → Fabric) : (s.upFab f).ldc = s.ldc := rfl
@[simp] theorem upFab_pcu (f : Fabric → Fabric) : (s.upFab f).pcu = s.pcu := rfl
@[simp] theorem upFab_tel (f : Fabric → Fabric) : (s.upFab f).tel = s.tel := rfl
@[simp] theorem upFab_ldg (f : Fabric → Fabric) : (s.upFab f).ldg = s.ldg := rfl
@[simp] theorem upFab_zone (f : Fabric → Fabric) : (s.upFab f).zone = s.zone := rfl
@[simp] theorem upFab_fab (f : Fabric → Fabric) : (s.upFab f).fab = f s.fab := rfl
@[simp] theorem upFab_le (f : Fabric → Fabric) : (s.upFab f).le = s.le := rfl
@[simp] theorem upFab_ax (f : Fabric → Fabric) : (s.upFab f).ax = s.ax := rfl
@[simp] theorem upFab_mach (f : Fabric → Fabric) : (s.upFab f).mach = s.mach := rfl
@[simp] theorem upFab_cal (f : Fabric → Fabric) : (s.upFab f).cal = s.cal := rfl
@[simp] theorem upFab_lane (f : Fabric → Fabric) : (s.upFab f).lane = s.lane := rfl
@[simp] theorem upFab_port (f : Fabric → Fabric) : (s.upFab f).port = s.port := rfl
@[simp] theorem upFab_sent (f : Fabric → Fabric) : (s.upFab f).sent = s.sent := rfl
@[simp] theorem upFab_twin (f : Fabric → Fabric) : (s.upFab f).twin = s.twin := rfl
@[simp] theorem upFab_hub (f : Fabric → Fabric) : (s.upFab f).hub = s.hub := rfl
@[simp] theorem upFab_recd (f : Fabric → Fabric) : (s.upFab f).recd = s.recd := rfl
@[simp] theorem upFab_pwr (f : Fabric → Fabric) : (s.upFab f).pwr = s.pwr := rfl
@[simp] theorem upFab_host (f : Fabric → Fabric) : (s.upFab f).host = s.host := rfl
@[simp] theorem upFab_mram (f : Fabric → Fabric) : (s.upFab f).mram = s.mram := rfl
@[simp] theorem upFab_js (f : Fabric → Fabric) (slt : Slot) : (s.upFab f).js slt = s.js slt := rfl
@[simp] theorem upFab_ls (f : Fabric → Fabric) (eng : Engine) (lsl : LSlot) : (s.upFab f).ls eng lsl = s.ls eng lsl := rfl
@[simp] theorem upFab_rd (f : Fabric → Fabric) (q : Nat) : (s.upFab f).rd q = s.rd q := rfl
@[simp] theorem upFab_rdByte (f : Fabric → Fabric) (q : Nat) : (s.upFab f).rdByte q = s.rdByte q := rfl

/-! `upLe`. -/

@[simp] theorem upLe_pending (k : Engine) (f : LoopEng → LoopEng) : (s.upLe k f).pending = s.pending := rfl
@[simp] theorem upLe_tick (k : Engine) (f : LoopEng → LoopEng) : (s.upLe k f).tick = s.tick := rfl
@[simp] theorem upLe_free (k : Engine) (f : LoopEng → LoopEng) : (s.upLe k f).free = s.free := rfl
@[simp] theorem upLe_dev (k : Engine) (f : LoopEng → LoopEng) : (s.upLe k f).dev = s.dev := rfl
@[simp] theorem upLe_regs (k : Engine) (f : LoopEng → LoopEng) : (s.upLe k f).regs = s.regs := rfl
@[simp] theorem upLe_mem (k : Engine) (f : LoopEng → LoopEng) : (s.upLe k f).mem = s.mem := rfl
@[simp] theorem upLe_time (k : Engine) (f : LoopEng → LoopEng) : (s.upLe k f).time = s.time := rfl
@[simp] theorem upLe_job (k : Engine) (f : LoopEng → LoopEng) : (s.upLe k f).job = s.job := rfl
@[simp] theorem upLe_be (k : Engine) (f : LoopEng → LoopEng) : (s.upLe k f).be = s.be := rfl
@[simp] theorem upLe_ld (k : Engine) (f : LoopEng → LoopEng) : (s.upLe k f).ld = s.ld := rfl
@[simp] theorem upLe_ldc (k : Engine) (f : LoopEng → LoopEng) : (s.upLe k f).ldc = s.ldc := rfl
@[simp] theorem upLe_pcu (k : Engine) (f : LoopEng → LoopEng) : (s.upLe k f).pcu = s.pcu := rfl
@[simp] theorem upLe_tel (k : Engine) (f : LoopEng → LoopEng) : (s.upLe k f).tel = s.tel := rfl
@[simp] theorem upLe_ldg (k : Engine) (f : LoopEng → LoopEng) : (s.upLe k f).ldg = s.ldg := rfl
@[simp] theorem upLe_zone (k : Engine) (f : LoopEng → LoopEng) : (s.upLe k f).zone = s.zone := rfl
@[simp] theorem upLe_fab (k : Engine) (f : LoopEng → LoopEng) : (s.upLe k f).fab = s.fab := rfl
@[simp] theorem upLe_le (k : Engine) (f : LoopEng → LoopEng) : (s.upLe k f).le = vupd s.le k f := rfl
@[simp] theorem upLe_ax (k : Engine) (f : LoopEng → LoopEng) : (s.upLe k f).ax = s.ax := rfl
@[simp] theorem upLe_mach (k : Engine) (f : LoopEng → LoopEng) : (s.upLe k f).mach = s.mach := rfl
@[simp] theorem upLe_cal (k : Engine) (f : LoopEng → LoopEng) : (s.upLe k f).cal = s.cal := rfl
@[simp] theorem upLe_lane (k : Engine) (f : LoopEng → LoopEng) : (s.upLe k f).lane = s.lane := rfl
@[simp] theorem upLe_port (k : Engine) (f : LoopEng → LoopEng) : (s.upLe k f).port = s.port := rfl
@[simp] theorem upLe_sent (k : Engine) (f : LoopEng → LoopEng) : (s.upLe k f).sent = s.sent := rfl
@[simp] theorem upLe_twin (k : Engine) (f : LoopEng → LoopEng) : (s.upLe k f).twin = s.twin := rfl
@[simp] theorem upLe_hub (k : Engine) (f : LoopEng → LoopEng) : (s.upLe k f).hub = s.hub := rfl
@[simp] theorem upLe_recd (k : Engine) (f : LoopEng → LoopEng) : (s.upLe k f).recd = s.recd := rfl
@[simp] theorem upLe_pwr (k : Engine) (f : LoopEng → LoopEng) : (s.upLe k f).pwr = s.pwr := rfl
@[simp] theorem upLe_host (k : Engine) (f : LoopEng → LoopEng) : (s.upLe k f).host = s.host := rfl
@[simp] theorem upLe_mram (k : Engine) (f : LoopEng → LoopEng) : (s.upLe k f).mram = s.mram := rfl
@[simp] theorem upLe_js (k : Engine) (f : LoopEng → LoopEng) (slt : Slot) : (s.upLe k f).js slt = s.js slt := rfl
@[simp] theorem upLe_rd (k : Engine) (f : LoopEng → LoopEng) (q : Nat) : (s.upLe k f).rd q = s.rd q := rfl
@[simp] theorem upLe_rdByte (k : Engine) (f : LoopEng → LoopEng) (q : Nat) : (s.upLe k f).rdByte q = s.rdByte q := rfl

/-! `upLs`. -/

@[simp] theorem upLs_pending (k : Engine) (l : LSlot) (f : LeSlot → LeSlot) : (s.upLs k l f).pending = s.pending := rfl
@[simp] theorem upLs_tick (k : Engine) (l : LSlot) (f : LeSlot → LeSlot) : (s.upLs k l f).tick = s.tick := rfl
@[simp] theorem upLs_free (k : Engine) (l : LSlot) (f : LeSlot → LeSlot) : (s.upLs k l f).free = s.free := rfl
@[simp] theorem upLs_dev (k : Engine) (l : LSlot) (f : LeSlot → LeSlot) : (s.upLs k l f).dev = s.dev := rfl
@[simp] theorem upLs_regs (k : Engine) (l : LSlot) (f : LeSlot → LeSlot) : (s.upLs k l f).regs = s.regs := rfl
@[simp] theorem upLs_mem (k : Engine) (l : LSlot) (f : LeSlot → LeSlot) : (s.upLs k l f).mem = s.mem := rfl
@[simp] theorem upLs_time (k : Engine) (l : LSlot) (f : LeSlot → LeSlot) : (s.upLs k l f).time = s.time := rfl
@[simp] theorem upLs_job (k : Engine) (l : LSlot) (f : LeSlot → LeSlot) : (s.upLs k l f).job = s.job := rfl
@[simp] theorem upLs_be (k : Engine) (l : LSlot) (f : LeSlot → LeSlot) : (s.upLs k l f).be = s.be := rfl
@[simp] theorem upLs_ld (k : Engine) (l : LSlot) (f : LeSlot → LeSlot) : (s.upLs k l f).ld = s.ld := rfl
@[simp] theorem upLs_ldc (k : Engine) (l : LSlot) (f : LeSlot → LeSlot) : (s.upLs k l f).ldc = s.ldc := rfl
@[simp] theorem upLs_pcu (k : Engine) (l : LSlot) (f : LeSlot → LeSlot) : (s.upLs k l f).pcu = s.pcu := rfl
@[simp] theorem upLs_tel (k : Engine) (l : LSlot) (f : LeSlot → LeSlot) : (s.upLs k l f).tel = s.tel := rfl
@[simp] theorem upLs_ldg (k : Engine) (l : LSlot) (f : LeSlot → LeSlot) : (s.upLs k l f).ldg = s.ldg := rfl
@[simp] theorem upLs_zone (k : Engine) (l : LSlot) (f : LeSlot → LeSlot) : (s.upLs k l f).zone = s.zone := rfl
@[simp] theorem upLs_fab (k : Engine) (l : LSlot) (f : LeSlot → LeSlot) : (s.upLs k l f).fab = s.fab := rfl
@[simp] theorem upLs_le (k : Engine) (l : LSlot) (f : LeSlot → LeSlot) : (s.upLs k l f).le = vupd s.le k fun e => { e with slot := vupd e.slot l f } := rfl
@[simp] theorem upLs_ax (k : Engine) (l : LSlot) (f : LeSlot → LeSlot) : (s.upLs k l f).ax = s.ax := rfl
@[simp] theorem upLs_mach (k : Engine) (l : LSlot) (f : LeSlot → LeSlot) : (s.upLs k l f).mach = s.mach := rfl
@[simp] theorem upLs_cal (k : Engine) (l : LSlot) (f : LeSlot → LeSlot) : (s.upLs k l f).cal = s.cal := rfl
@[simp] theorem upLs_lane (k : Engine) (l : LSlot) (f : LeSlot → LeSlot) : (s.upLs k l f).lane = s.lane := rfl
@[simp] theorem upLs_port (k : Engine) (l : LSlot) (f : LeSlot → LeSlot) : (s.upLs k l f).port = s.port := rfl
@[simp] theorem upLs_sent (k : Engine) (l : LSlot) (f : LeSlot → LeSlot) : (s.upLs k l f).sent = s.sent := rfl
@[simp] theorem upLs_twin (k : Engine) (l : LSlot) (f : LeSlot → LeSlot) : (s.upLs k l f).twin = s.twin := rfl
@[simp] theorem upLs_hub (k : Engine) (l : LSlot) (f : LeSlot → LeSlot) : (s.upLs k l f).hub = s.hub := rfl
@[simp] theorem upLs_recd (k : Engine) (l : LSlot) (f : LeSlot → LeSlot) : (s.upLs k l f).recd = s.recd := rfl
@[simp] theorem upLs_pwr (k : Engine) (l : LSlot) (f : LeSlot → LeSlot) : (s.upLs k l f).pwr = s.pwr := rfl
@[simp] theorem upLs_host (k : Engine) (l : LSlot) (f : LeSlot → LeSlot) : (s.upLs k l f).host = s.host := rfl
@[simp] theorem upLs_mram (k : Engine) (l : LSlot) (f : LeSlot → LeSlot) : (s.upLs k l f).mram = s.mram := rfl
@[simp] theorem upLs_js (k : Engine) (l : LSlot) (f : LeSlot → LeSlot) (slt : Slot) : (s.upLs k l f).js slt = s.js slt := rfl
@[simp] theorem upLs_rd (k : Engine) (l : LSlot) (f : LeSlot → LeSlot) (q : Nat) : (s.upLs k l f).rd q = s.rd q := rfl
@[simp] theorem upLs_rdByte (k : Engine) (l : LSlot) (f : LeSlot → LeSlot) (q : Nat) : (s.upLs k l f).rdByte q = s.rdByte q := rfl

/-! `upAx`. -/

@[simp] theorem upAx_pending (n : Axis) (f : AxisSt → AxisSt) : (s.upAx n f).pending = s.pending := rfl
@[simp] theorem upAx_tick (n : Axis) (f : AxisSt → AxisSt) : (s.upAx n f).tick = s.tick := rfl
@[simp] theorem upAx_free (n : Axis) (f : AxisSt → AxisSt) : (s.upAx n f).free = s.free := rfl
@[simp] theorem upAx_dev (n : Axis) (f : AxisSt → AxisSt) : (s.upAx n f).dev = s.dev := rfl
@[simp] theorem upAx_regs (n : Axis) (f : AxisSt → AxisSt) : (s.upAx n f).regs = s.regs := rfl
@[simp] theorem upAx_mem (n : Axis) (f : AxisSt → AxisSt) : (s.upAx n f).mem = s.mem := rfl
@[simp] theorem upAx_time (n : Axis) (f : AxisSt → AxisSt) : (s.upAx n f).time = s.time := rfl
@[simp] theorem upAx_job (n : Axis) (f : AxisSt → AxisSt) : (s.upAx n f).job = s.job := rfl
@[simp] theorem upAx_be (n : Axis) (f : AxisSt → AxisSt) : (s.upAx n f).be = s.be := rfl
@[simp] theorem upAx_ld (n : Axis) (f : AxisSt → AxisSt) : (s.upAx n f).ld = s.ld := rfl
@[simp] theorem upAx_ldc (n : Axis) (f : AxisSt → AxisSt) : (s.upAx n f).ldc = s.ldc := rfl
@[simp] theorem upAx_pcu (n : Axis) (f : AxisSt → AxisSt) : (s.upAx n f).pcu = s.pcu := rfl
@[simp] theorem upAx_tel (n : Axis) (f : AxisSt → AxisSt) : (s.upAx n f).tel = s.tel := rfl
@[simp] theorem upAx_ldg (n : Axis) (f : AxisSt → AxisSt) : (s.upAx n f).ldg = s.ldg := rfl
@[simp] theorem upAx_zone (n : Axis) (f : AxisSt → AxisSt) : (s.upAx n f).zone = s.zone := rfl
@[simp] theorem upAx_fab (n : Axis) (f : AxisSt → AxisSt) : (s.upAx n f).fab = s.fab := rfl
@[simp] theorem upAx_le (n : Axis) (f : AxisSt → AxisSt) : (s.upAx n f).le = s.le := rfl
@[simp] theorem upAx_ax (n : Axis) (f : AxisSt → AxisSt) : (s.upAx n f).ax = vupd s.ax n f := rfl
@[simp] theorem upAx_mach (n : Axis) (f : AxisSt → AxisSt) : (s.upAx n f).mach = s.mach := rfl
@[simp] theorem upAx_cal (n : Axis) (f : AxisSt → AxisSt) : (s.upAx n f).cal = s.cal := rfl
@[simp] theorem upAx_lane (n : Axis) (f : AxisSt → AxisSt) : (s.upAx n f).lane = s.lane := rfl
@[simp] theorem upAx_port (n : Axis) (f : AxisSt → AxisSt) : (s.upAx n f).port = s.port := rfl
@[simp] theorem upAx_sent (n : Axis) (f : AxisSt → AxisSt) : (s.upAx n f).sent = s.sent := rfl
@[simp] theorem upAx_twin (n : Axis) (f : AxisSt → AxisSt) : (s.upAx n f).twin = s.twin := rfl
@[simp] theorem upAx_hub (n : Axis) (f : AxisSt → AxisSt) : (s.upAx n f).hub = s.hub := rfl
@[simp] theorem upAx_recd (n : Axis) (f : AxisSt → AxisSt) : (s.upAx n f).recd = s.recd := rfl
@[simp] theorem upAx_pwr (n : Axis) (f : AxisSt → AxisSt) : (s.upAx n f).pwr = s.pwr := rfl
@[simp] theorem upAx_host (n : Axis) (f : AxisSt → AxisSt) : (s.upAx n f).host = s.host := rfl
@[simp] theorem upAx_mram (n : Axis) (f : AxisSt → AxisSt) : (s.upAx n f).mram = s.mram := rfl
@[simp] theorem upAx_js (n : Axis) (f : AxisSt → AxisSt) (slt : Slot) : (s.upAx n f).js slt = s.js slt := rfl
@[simp] theorem upAx_ls (n : Axis) (f : AxisSt → AxisSt) (eng : Engine) (lsl : LSlot) : (s.upAx n f).ls eng lsl = s.ls eng lsl := rfl
@[simp] theorem upAx_rd (n : Axis) (f : AxisSt → AxisSt) (q : Nat) : (s.upAx n f).rd q = s.rd q := rfl
@[simp] theorem upAx_rdByte (n : Axis) (f : AxisSt → AxisSt) (q : Nat) : (s.upAx n f).rdByte q = s.rdByte q := rfl

/-! `upCal`. -/

@[simp] theorem upCal_pending (f : Cal → Cal) : (s.upCal f).pending = s.pending := rfl
@[simp] theorem upCal_tick (f : Cal → Cal) : (s.upCal f).tick = s.tick := rfl
@[simp] theorem upCal_free (f : Cal → Cal) : (s.upCal f).free = s.free := rfl
@[simp] theorem upCal_dev (f : Cal → Cal) : (s.upCal f).dev = s.dev := rfl
@[simp] theorem upCal_regs (f : Cal → Cal) : (s.upCal f).regs = s.regs := rfl
@[simp] theorem upCal_mem (f : Cal → Cal) : (s.upCal f).mem = s.mem := rfl
@[simp] theorem upCal_time (f : Cal → Cal) : (s.upCal f).time = s.time := rfl
@[simp] theorem upCal_job (f : Cal → Cal) : (s.upCal f).job = s.job := rfl
@[simp] theorem upCal_be (f : Cal → Cal) : (s.upCal f).be = s.be := rfl
@[simp] theorem upCal_ld (f : Cal → Cal) : (s.upCal f).ld = s.ld := rfl
@[simp] theorem upCal_ldc (f : Cal → Cal) : (s.upCal f).ldc = s.ldc := rfl
@[simp] theorem upCal_pcu (f : Cal → Cal) : (s.upCal f).pcu = s.pcu := rfl
@[simp] theorem upCal_tel (f : Cal → Cal) : (s.upCal f).tel = s.tel := rfl
@[simp] theorem upCal_ldg (f : Cal → Cal) : (s.upCal f).ldg = s.ldg := rfl
@[simp] theorem upCal_zone (f : Cal → Cal) : (s.upCal f).zone = s.zone := rfl
@[simp] theorem upCal_fab (f : Cal → Cal) : (s.upCal f).fab = s.fab := rfl
@[simp] theorem upCal_le (f : Cal → Cal) : (s.upCal f).le = s.le := rfl
@[simp] theorem upCal_ax (f : Cal → Cal) : (s.upCal f).ax = s.ax := rfl
@[simp] theorem upCal_mach (f : Cal → Cal) : (s.upCal f).mach = s.mach := rfl
@[simp] theorem upCal_cal (f : Cal → Cal) : (s.upCal f).cal = f s.cal := rfl
@[simp] theorem upCal_lane (f : Cal → Cal) : (s.upCal f).lane = s.lane := rfl
@[simp] theorem upCal_port (f : Cal → Cal) : (s.upCal f).port = s.port := rfl
@[simp] theorem upCal_sent (f : Cal → Cal) : (s.upCal f).sent = s.sent := rfl
@[simp] theorem upCal_twin (f : Cal → Cal) : (s.upCal f).twin = s.twin := rfl
@[simp] theorem upCal_hub (f : Cal → Cal) : (s.upCal f).hub = s.hub := rfl
@[simp] theorem upCal_recd (f : Cal → Cal) : (s.upCal f).recd = s.recd := rfl
@[simp] theorem upCal_pwr (f : Cal → Cal) : (s.upCal f).pwr = s.pwr := rfl
@[simp] theorem upCal_host (f : Cal → Cal) : (s.upCal f).host = s.host := rfl
@[simp] theorem upCal_mram (f : Cal → Cal) : (s.upCal f).mram = s.mram := rfl
@[simp] theorem upCal_js (f : Cal → Cal) (slt : Slot) : (s.upCal f).js slt = s.js slt := rfl
@[simp] theorem upCal_ls (f : Cal → Cal) (eng : Engine) (lsl : LSlot) : (s.upCal f).ls eng lsl = s.ls eng lsl := rfl
@[simp] theorem upCal_rd (f : Cal → Cal) (q : Nat) : (s.upCal f).rd q = s.rd q := rfl
@[simp] theorem upCal_rdByte (f : Cal → Cal) (q : Nat) : (s.upCal f).rdByte q = s.rdByte q := rfl

/-! `upHead`. -/

@[simp] theorem upHead_pending (b : Beam) (f : CalHead → CalHead) : (s.upHead b f).pending = s.pending := rfl
@[simp] theorem upHead_tick (b : Beam) (f : CalHead → CalHead) : (s.upHead b f).tick = s.tick := rfl
@[simp] theorem upHead_free (b : Beam) (f : CalHead → CalHead) : (s.upHead b f).free = s.free := rfl
@[simp] theorem upHead_dev (b : Beam) (f : CalHead → CalHead) : (s.upHead b f).dev = s.dev := rfl
@[simp] theorem upHead_regs (b : Beam) (f : CalHead → CalHead) : (s.upHead b f).regs = s.regs := rfl
@[simp] theorem upHead_mem (b : Beam) (f : CalHead → CalHead) : (s.upHead b f).mem = s.mem := rfl
@[simp] theorem upHead_time (b : Beam) (f : CalHead → CalHead) : (s.upHead b f).time = s.time := rfl
@[simp] theorem upHead_job (b : Beam) (f : CalHead → CalHead) : (s.upHead b f).job = s.job := rfl
@[simp] theorem upHead_be (b : Beam) (f : CalHead → CalHead) : (s.upHead b f).be = s.be := rfl
@[simp] theorem upHead_ld (b : Beam) (f : CalHead → CalHead) : (s.upHead b f).ld = s.ld := rfl
@[simp] theorem upHead_ldc (b : Beam) (f : CalHead → CalHead) : (s.upHead b f).ldc = s.ldc := rfl
@[simp] theorem upHead_pcu (b : Beam) (f : CalHead → CalHead) : (s.upHead b f).pcu = s.pcu := rfl
@[simp] theorem upHead_tel (b : Beam) (f : CalHead → CalHead) : (s.upHead b f).tel = s.tel := rfl
@[simp] theorem upHead_ldg (b : Beam) (f : CalHead → CalHead) : (s.upHead b f).ldg = s.ldg := rfl
@[simp] theorem upHead_zone (b : Beam) (f : CalHead → CalHead) : (s.upHead b f).zone = s.zone := rfl
@[simp] theorem upHead_fab (b : Beam) (f : CalHead → CalHead) : (s.upHead b f).fab = s.fab := rfl
@[simp] theorem upHead_le (b : Beam) (f : CalHead → CalHead) : (s.upHead b f).le = s.le := rfl
@[simp] theorem upHead_ax (b : Beam) (f : CalHead → CalHead) : (s.upHead b f).ax = s.ax := rfl
@[simp] theorem upHead_mach (b : Beam) (f : CalHead → CalHead) : (s.upHead b f).mach = s.mach := rfl
@[simp] theorem upHead_cal (b : Beam) (f : CalHead → CalHead) : (s.upHead b f).cal = { s.cal with head := vupd s.cal.head b f } := rfl
@[simp] theorem upHead_lane (b : Beam) (f : CalHead → CalHead) : (s.upHead b f).lane = s.lane := rfl
@[simp] theorem upHead_port (b : Beam) (f : CalHead → CalHead) : (s.upHead b f).port = s.port := rfl
@[simp] theorem upHead_sent (b : Beam) (f : CalHead → CalHead) : (s.upHead b f).sent = s.sent := rfl
@[simp] theorem upHead_twin (b : Beam) (f : CalHead → CalHead) : (s.upHead b f).twin = s.twin := rfl
@[simp] theorem upHead_hub (b : Beam) (f : CalHead → CalHead) : (s.upHead b f).hub = s.hub := rfl
@[simp] theorem upHead_recd (b : Beam) (f : CalHead → CalHead) : (s.upHead b f).recd = s.recd := rfl
@[simp] theorem upHead_pwr (b : Beam) (f : CalHead → CalHead) : (s.upHead b f).pwr = s.pwr := rfl
@[simp] theorem upHead_host (b : Beam) (f : CalHead → CalHead) : (s.upHead b f).host = s.host := rfl
@[simp] theorem upHead_mram (b : Beam) (f : CalHead → CalHead) : (s.upHead b f).mram = s.mram := rfl
@[simp] theorem upHead_js (b : Beam) (f : CalHead → CalHead) (slt : Slot) : (s.upHead b f).js slt = s.js slt := rfl
@[simp] theorem upHead_ls (b : Beam) (f : CalHead → CalHead) (eng : Engine) (lsl : LSlot) : (s.upHead b f).ls eng lsl = s.ls eng lsl := rfl
@[simp] theorem upHead_rd (b : Beam) (f : CalHead → CalHead) (q : Nat) : (s.upHead b f).rd q = s.rd q := rfl
@[simp] theorem upHead_rdByte (b : Beam) (f : CalHead → CalHead) (q : Nat) : (s.upHead b f).rdByte q = s.rdByte q := rfl

/-! `upSrc`. -/

@[simp] theorem upSrc_pending (b : Beam) (f : CalSource → CalSource) : (s.upSrc b f).pending = s.pending := rfl
@[simp] theorem upSrc_tick (b : Beam) (f : CalSource → CalSource) : (s.upSrc b f).tick = s.tick := rfl
@[simp] theorem upSrc_free (b : Beam) (f : CalSource → CalSource) : (s.upSrc b f).free = s.free := rfl
@[simp] theorem upSrc_dev (b : Beam) (f : CalSource → CalSource) : (s.upSrc b f).dev = s.dev := rfl
@[simp] theorem upSrc_regs (b : Beam) (f : CalSource → CalSource) : (s.upSrc b f).regs = s.regs := rfl
@[simp] theorem upSrc_mem (b : Beam) (f : CalSource → CalSource) : (s.upSrc b f).mem = s.mem := rfl
@[simp] theorem upSrc_time (b : Beam) (f : CalSource → CalSource) : (s.upSrc b f).time = s.time := rfl
@[simp] theorem upSrc_job (b : Beam) (f : CalSource → CalSource) : (s.upSrc b f).job = s.job := rfl
@[simp] theorem upSrc_be (b : Beam) (f : CalSource → CalSource) : (s.upSrc b f).be = s.be := rfl
@[simp] theorem upSrc_ld (b : Beam) (f : CalSource → CalSource) : (s.upSrc b f).ld = s.ld := rfl
@[simp] theorem upSrc_ldc (b : Beam) (f : CalSource → CalSource) : (s.upSrc b f).ldc = s.ldc := rfl
@[simp] theorem upSrc_pcu (b : Beam) (f : CalSource → CalSource) : (s.upSrc b f).pcu = s.pcu := rfl
@[simp] theorem upSrc_tel (b : Beam) (f : CalSource → CalSource) : (s.upSrc b f).tel = s.tel := rfl
@[simp] theorem upSrc_ldg (b : Beam) (f : CalSource → CalSource) : (s.upSrc b f).ldg = s.ldg := rfl
@[simp] theorem upSrc_zone (b : Beam) (f : CalSource → CalSource) : (s.upSrc b f).zone = s.zone := rfl
@[simp] theorem upSrc_fab (b : Beam) (f : CalSource → CalSource) : (s.upSrc b f).fab = s.fab := rfl
@[simp] theorem upSrc_le (b : Beam) (f : CalSource → CalSource) : (s.upSrc b f).le = s.le := rfl
@[simp] theorem upSrc_ax (b : Beam) (f : CalSource → CalSource) : (s.upSrc b f).ax = s.ax := rfl
@[simp] theorem upSrc_mach (b : Beam) (f : CalSource → CalSource) : (s.upSrc b f).mach = s.mach := rfl
@[simp] theorem upSrc_cal (b : Beam) (f : CalSource → CalSource) : (s.upSrc b f).cal = { s.cal with src := vupd s.cal.src b f } := rfl
@[simp] theorem upSrc_lane (b : Beam) (f : CalSource → CalSource) : (s.upSrc b f).lane = s.lane := rfl
@[simp] theorem upSrc_port (b : Beam) (f : CalSource → CalSource) : (s.upSrc b f).port = s.port := rfl
@[simp] theorem upSrc_sent (b : Beam) (f : CalSource → CalSource) : (s.upSrc b f).sent = s.sent := rfl
@[simp] theorem upSrc_twin (b : Beam) (f : CalSource → CalSource) : (s.upSrc b f).twin = s.twin := rfl
@[simp] theorem upSrc_hub (b : Beam) (f : CalSource → CalSource) : (s.upSrc b f).hub = s.hub := rfl
@[simp] theorem upSrc_recd (b : Beam) (f : CalSource → CalSource) : (s.upSrc b f).recd = s.recd := rfl
@[simp] theorem upSrc_pwr (b : Beam) (f : CalSource → CalSource) : (s.upSrc b f).pwr = s.pwr := rfl
@[simp] theorem upSrc_host (b : Beam) (f : CalSource → CalSource) : (s.upSrc b f).host = s.host := rfl
@[simp] theorem upSrc_mram (b : Beam) (f : CalSource → CalSource) : (s.upSrc b f).mram = s.mram := rfl
@[simp] theorem upSrc_js (b : Beam) (f : CalSource → CalSource) (slt : Slot) : (s.upSrc b f).js slt = s.js slt := rfl
@[simp] theorem upSrc_ls (b : Beam) (f : CalSource → CalSource) (eng : Engine) (lsl : LSlot) : (s.upSrc b f).ls eng lsl = s.ls eng lsl := rfl
@[simp] theorem upSrc_rd (b : Beam) (f : CalSource → CalSource) (q : Nat) : (s.upSrc b f).rd q = s.rd q := rfl
@[simp] theorem upSrc_rdByte (b : Beam) (f : CalSource → CalSource) (q : Nat) : (s.upSrc b f).rdByte q = s.rdByte q := rfl

/-! `upLane`. -/

@[simp] theorem upLane_pending (n : Lane) (f : LaneSt → LaneSt) : (s.upLane n f).pending = s.pending := rfl
@[simp] theorem upLane_tick (n : Lane) (f : LaneSt → LaneSt) : (s.upLane n f).tick = s.tick := rfl
@[simp] theorem upLane_free (n : Lane) (f : LaneSt → LaneSt) : (s.upLane n f).free = s.free := rfl
@[simp] theorem upLane_dev (n : Lane) (f : LaneSt → LaneSt) : (s.upLane n f).dev = s.dev := rfl
@[simp] theorem upLane_regs (n : Lane) (f : LaneSt → LaneSt) : (s.upLane n f).regs = s.regs := rfl
@[simp] theorem upLane_mem (n : Lane) (f : LaneSt → LaneSt) : (s.upLane n f).mem = s.mem := rfl
@[simp] theorem upLane_time (n : Lane) (f : LaneSt → LaneSt) : (s.upLane n f).time = s.time := rfl
@[simp] theorem upLane_job (n : Lane) (f : LaneSt → LaneSt) : (s.upLane n f).job = s.job := rfl
@[simp] theorem upLane_be (n : Lane) (f : LaneSt → LaneSt) : (s.upLane n f).be = s.be := rfl
@[simp] theorem upLane_ld (n : Lane) (f : LaneSt → LaneSt) : (s.upLane n f).ld = s.ld := rfl
@[simp] theorem upLane_ldc (n : Lane) (f : LaneSt → LaneSt) : (s.upLane n f).ldc = s.ldc := rfl
@[simp] theorem upLane_pcu (n : Lane) (f : LaneSt → LaneSt) : (s.upLane n f).pcu = s.pcu := rfl
@[simp] theorem upLane_tel (n : Lane) (f : LaneSt → LaneSt) : (s.upLane n f).tel = s.tel := rfl
@[simp] theorem upLane_ldg (n : Lane) (f : LaneSt → LaneSt) : (s.upLane n f).ldg = s.ldg := rfl
@[simp] theorem upLane_zone (n : Lane) (f : LaneSt → LaneSt) : (s.upLane n f).zone = s.zone := rfl
@[simp] theorem upLane_fab (n : Lane) (f : LaneSt → LaneSt) : (s.upLane n f).fab = s.fab := rfl
@[simp] theorem upLane_le (n : Lane) (f : LaneSt → LaneSt) : (s.upLane n f).le = s.le := rfl
@[simp] theorem upLane_ax (n : Lane) (f : LaneSt → LaneSt) : (s.upLane n f).ax = s.ax := rfl
@[simp] theorem upLane_mach (n : Lane) (f : LaneSt → LaneSt) : (s.upLane n f).mach = s.mach := rfl
@[simp] theorem upLane_cal (n : Lane) (f : LaneSt → LaneSt) : (s.upLane n f).cal = s.cal := rfl
@[simp] theorem upLane_lane (n : Lane) (f : LaneSt → LaneSt) : (s.upLane n f).lane = vupd s.lane n f := rfl
@[simp] theorem upLane_port (n : Lane) (f : LaneSt → LaneSt) : (s.upLane n f).port = s.port := rfl
@[simp] theorem upLane_sent (n : Lane) (f : LaneSt → LaneSt) : (s.upLane n f).sent = s.sent := rfl
@[simp] theorem upLane_twin (n : Lane) (f : LaneSt → LaneSt) : (s.upLane n f).twin = s.twin := rfl
@[simp] theorem upLane_hub (n : Lane) (f : LaneSt → LaneSt) : (s.upLane n f).hub = s.hub := rfl
@[simp] theorem upLane_recd (n : Lane) (f : LaneSt → LaneSt) : (s.upLane n f).recd = s.recd := rfl
@[simp] theorem upLane_pwr (n : Lane) (f : LaneSt → LaneSt) : (s.upLane n f).pwr = s.pwr := rfl
@[simp] theorem upLane_host (n : Lane) (f : LaneSt → LaneSt) : (s.upLane n f).host = s.host := rfl
@[simp] theorem upLane_mram (n : Lane) (f : LaneSt → LaneSt) : (s.upLane n f).mram = s.mram := rfl
@[simp] theorem upLane_js (n : Lane) (f : LaneSt → LaneSt) (slt : Slot) : (s.upLane n f).js slt = s.js slt := rfl
@[simp] theorem upLane_ls (n : Lane) (f : LaneSt → LaneSt) (eng : Engine) (lsl : LSlot) : (s.upLane n f).ls eng lsl = s.ls eng lsl := rfl
@[simp] theorem upLane_rd (n : Lane) (f : LaneSt → LaneSt) (q : Nat) : (s.upLane n f).rd q = s.rd q := rfl
@[simp] theorem upLane_rdByte (n : Lane) (f : LaneSt → LaneSt) (q : Nat) : (s.upLane n f).rdByte q = s.rdByte q := rfl

/-! `upTwin`. -/

@[simp] theorem upTwin_pending (f : Twin → Twin) : (s.upTwin f).pending = s.pending := rfl
@[simp] theorem upTwin_tick (f : Twin → Twin) : (s.upTwin f).tick = s.tick := rfl
@[simp] theorem upTwin_free (f : Twin → Twin) : (s.upTwin f).free = s.free := rfl
@[simp] theorem upTwin_dev (f : Twin → Twin) : (s.upTwin f).dev = s.dev := rfl
@[simp] theorem upTwin_regs (f : Twin → Twin) : (s.upTwin f).regs = s.regs := rfl
@[simp] theorem upTwin_mem (f : Twin → Twin) : (s.upTwin f).mem = s.mem := rfl
@[simp] theorem upTwin_time (f : Twin → Twin) : (s.upTwin f).time = s.time := rfl
@[simp] theorem upTwin_job (f : Twin → Twin) : (s.upTwin f).job = s.job := rfl
@[simp] theorem upTwin_be (f : Twin → Twin) : (s.upTwin f).be = s.be := rfl
@[simp] theorem upTwin_ld (f : Twin → Twin) : (s.upTwin f).ld = s.ld := rfl
@[simp] theorem upTwin_ldc (f : Twin → Twin) : (s.upTwin f).ldc = s.ldc := rfl
@[simp] theorem upTwin_pcu (f : Twin → Twin) : (s.upTwin f).pcu = s.pcu := rfl
@[simp] theorem upTwin_tel (f : Twin → Twin) : (s.upTwin f).tel = s.tel := rfl
@[simp] theorem upTwin_ldg (f : Twin → Twin) : (s.upTwin f).ldg = s.ldg := rfl
@[simp] theorem upTwin_zone (f : Twin → Twin) : (s.upTwin f).zone = s.zone := rfl
@[simp] theorem upTwin_fab (f : Twin → Twin) : (s.upTwin f).fab = s.fab := rfl
@[simp] theorem upTwin_le (f : Twin → Twin) : (s.upTwin f).le = s.le := rfl
@[simp] theorem upTwin_ax (f : Twin → Twin) : (s.upTwin f).ax = s.ax := rfl
@[simp] theorem upTwin_mach (f : Twin → Twin) : (s.upTwin f).mach = s.mach := rfl
@[simp] theorem upTwin_cal (f : Twin → Twin) : (s.upTwin f).cal = s.cal := rfl
@[simp] theorem upTwin_lane (f : Twin → Twin) : (s.upTwin f).lane = s.lane := rfl
@[simp] theorem upTwin_port (f : Twin → Twin) : (s.upTwin f).port = s.port := rfl
@[simp] theorem upTwin_sent (f : Twin → Twin) : (s.upTwin f).sent = s.sent := rfl
@[simp] theorem upTwin_twin (f : Twin → Twin) : (s.upTwin f).twin = f s.twin := rfl
@[simp] theorem upTwin_hub (f : Twin → Twin) : (s.upTwin f).hub = s.hub := rfl
@[simp] theorem upTwin_recd (f : Twin → Twin) : (s.upTwin f).recd = s.recd := rfl
@[simp] theorem upTwin_pwr (f : Twin → Twin) : (s.upTwin f).pwr = s.pwr := rfl
@[simp] theorem upTwin_host (f : Twin → Twin) : (s.upTwin f).host = s.host := rfl
@[simp] theorem upTwin_mram (f : Twin → Twin) : (s.upTwin f).mram = s.mram := rfl
@[simp] theorem upTwin_js (f : Twin → Twin) (slt : Slot) : (s.upTwin f).js slt = s.js slt := rfl
@[simp] theorem upTwin_ls (f : Twin → Twin) (eng : Engine) (lsl : LSlot) : (s.upTwin f).ls eng lsl = s.ls eng lsl := rfl
@[simp] theorem upTwin_rd (f : Twin → Twin) (q : Nat) : (s.upTwin f).rd q = s.rd q := rfl
@[simp] theorem upTwin_rdByte (f : Twin → Twin) (q : Nat) : (s.upTwin f).rdByte q = s.rdByte q := rfl

/-! `upHub`. -/

@[simp] theorem upHub_pending (f : Hub → Hub) : (s.upHub f).pending = s.pending := rfl
@[simp] theorem upHub_tick (f : Hub → Hub) : (s.upHub f).tick = s.tick := rfl
@[simp] theorem upHub_free (f : Hub → Hub) : (s.upHub f).free = s.free := rfl
@[simp] theorem upHub_dev (f : Hub → Hub) : (s.upHub f).dev = s.dev := rfl
@[simp] theorem upHub_regs (f : Hub → Hub) : (s.upHub f).regs = s.regs := rfl
@[simp] theorem upHub_mem (f : Hub → Hub) : (s.upHub f).mem = s.mem := rfl
@[simp] theorem upHub_time (f : Hub → Hub) : (s.upHub f).time = s.time := rfl
@[simp] theorem upHub_job (f : Hub → Hub) : (s.upHub f).job = s.job := rfl
@[simp] theorem upHub_be (f : Hub → Hub) : (s.upHub f).be = s.be := rfl
@[simp] theorem upHub_ld (f : Hub → Hub) : (s.upHub f).ld = s.ld := rfl
@[simp] theorem upHub_ldc (f : Hub → Hub) : (s.upHub f).ldc = s.ldc := rfl
@[simp] theorem upHub_pcu (f : Hub → Hub) : (s.upHub f).pcu = s.pcu := rfl
@[simp] theorem upHub_tel (f : Hub → Hub) : (s.upHub f).tel = s.tel := rfl
@[simp] theorem upHub_ldg (f : Hub → Hub) : (s.upHub f).ldg = s.ldg := rfl
@[simp] theorem upHub_zone (f : Hub → Hub) : (s.upHub f).zone = s.zone := rfl
@[simp] theorem upHub_fab (f : Hub → Hub) : (s.upHub f).fab = s.fab := rfl
@[simp] theorem upHub_le (f : Hub → Hub) : (s.upHub f).le = s.le := rfl
@[simp] theorem upHub_ax (f : Hub → Hub) : (s.upHub f).ax = s.ax := rfl
@[simp] theorem upHub_mach (f : Hub → Hub) : (s.upHub f).mach = s.mach := rfl
@[simp] theorem upHub_cal (f : Hub → Hub) : (s.upHub f).cal = s.cal := rfl
@[simp] theorem upHub_lane (f : Hub → Hub) : (s.upHub f).lane = s.lane := rfl
@[simp] theorem upHub_port (f : Hub → Hub) : (s.upHub f).port = s.port := rfl
@[simp] theorem upHub_sent (f : Hub → Hub) : (s.upHub f).sent = s.sent := rfl
@[simp] theorem upHub_twin (f : Hub → Hub) : (s.upHub f).twin = s.twin := rfl
@[simp] theorem upHub_hub (f : Hub → Hub) : (s.upHub f).hub = f s.hub := rfl
@[simp] theorem upHub_recd (f : Hub → Hub) : (s.upHub f).recd = s.recd := rfl
@[simp] theorem upHub_pwr (f : Hub → Hub) : (s.upHub f).pwr = s.pwr := rfl
@[simp] theorem upHub_host (f : Hub → Hub) : (s.upHub f).host = s.host := rfl
@[simp] theorem upHub_mram (f : Hub → Hub) : (s.upHub f).mram = s.mram := rfl
@[simp] theorem upHub_js (f : Hub → Hub) (slt : Slot) : (s.upHub f).js slt = s.js slt := rfl
@[simp] theorem upHub_ls (f : Hub → Hub) (eng : Engine) (lsl : LSlot) : (s.upHub f).ls eng lsl = s.ls eng lsl := rfl
@[simp] theorem upHub_rd (f : Hub → Hub) (q : Nat) : (s.upHub f).rd q = s.rd q := rfl
@[simp] theorem upHub_rdByte (f : Hub → Hub) (q : Nat) : (s.upHub f).rdByte q = s.rdByte q := rfl

/-! `upRec`. -/

@[simp] theorem upRec_pending (f : Recorder → Recorder) : (s.upRec f).pending = s.pending := rfl
@[simp] theorem upRec_tick (f : Recorder → Recorder) : (s.upRec f).tick = s.tick := rfl
@[simp] theorem upRec_free (f : Recorder → Recorder) : (s.upRec f).free = s.free := rfl
@[simp] theorem upRec_dev (f : Recorder → Recorder) : (s.upRec f).dev = s.dev := rfl
@[simp] theorem upRec_regs (f : Recorder → Recorder) : (s.upRec f).regs = s.regs := rfl
@[simp] theorem upRec_mem (f : Recorder → Recorder) : (s.upRec f).mem = s.mem := rfl
@[simp] theorem upRec_time (f : Recorder → Recorder) : (s.upRec f).time = s.time := rfl
@[simp] theorem upRec_job (f : Recorder → Recorder) : (s.upRec f).job = s.job := rfl
@[simp] theorem upRec_be (f : Recorder → Recorder) : (s.upRec f).be = s.be := rfl
@[simp] theorem upRec_ld (f : Recorder → Recorder) : (s.upRec f).ld = s.ld := rfl
@[simp] theorem upRec_ldc (f : Recorder → Recorder) : (s.upRec f).ldc = s.ldc := rfl
@[simp] theorem upRec_pcu (f : Recorder → Recorder) : (s.upRec f).pcu = s.pcu := rfl
@[simp] theorem upRec_tel (f : Recorder → Recorder) : (s.upRec f).tel = s.tel := rfl
@[simp] theorem upRec_ldg (f : Recorder → Recorder) : (s.upRec f).ldg = s.ldg := rfl
@[simp] theorem upRec_zone (f : Recorder → Recorder) : (s.upRec f).zone = s.zone := rfl
@[simp] theorem upRec_fab (f : Recorder → Recorder) : (s.upRec f).fab = s.fab := rfl
@[simp] theorem upRec_le (f : Recorder → Recorder) : (s.upRec f).le = s.le := rfl
@[simp] theorem upRec_ax (f : Recorder → Recorder) : (s.upRec f).ax = s.ax := rfl
@[simp] theorem upRec_mach (f : Recorder → Recorder) : (s.upRec f).mach = s.mach := rfl
@[simp] theorem upRec_cal (f : Recorder → Recorder) : (s.upRec f).cal = s.cal := rfl
@[simp] theorem upRec_lane (f : Recorder → Recorder) : (s.upRec f).lane = s.lane := rfl
@[simp] theorem upRec_port (f : Recorder → Recorder) : (s.upRec f).port = s.port := rfl
@[simp] theorem upRec_sent (f : Recorder → Recorder) : (s.upRec f).sent = s.sent := rfl
@[simp] theorem upRec_twin (f : Recorder → Recorder) : (s.upRec f).twin = s.twin := rfl
@[simp] theorem upRec_hub (f : Recorder → Recorder) : (s.upRec f).hub = s.hub := rfl
@[simp] theorem upRec_recd (f : Recorder → Recorder) : (s.upRec f).recd = f s.recd := rfl
@[simp] theorem upRec_pwr (f : Recorder → Recorder) : (s.upRec f).pwr = s.pwr := rfl
@[simp] theorem upRec_host (f : Recorder → Recorder) : (s.upRec f).host = s.host := rfl
@[simp] theorem upRec_mram (f : Recorder → Recorder) : (s.upRec f).mram = s.mram := rfl
@[simp] theorem upRec_js (f : Recorder → Recorder) (slt : Slot) : (s.upRec f).js slt = s.js slt := rfl
@[simp] theorem upRec_ls (f : Recorder → Recorder) (eng : Engine) (lsl : LSlot) : (s.upRec f).ls eng lsl = s.ls eng lsl := rfl
@[simp] theorem upRec_rd (f : Recorder → Recorder) (q : Nat) : (s.upRec f).rd q = s.rd q := rfl
@[simp] theorem upRec_rdByte (f : Recorder → Recorder) (q : Nat) : (s.upRec f).rdByte q = s.rdByte q := rfl

/-! `upPwr`. -/

@[simp] theorem upPwr_pending (f : Power → Power) : (s.upPwr f).pending = s.pending := rfl
@[simp] theorem upPwr_tick (f : Power → Power) : (s.upPwr f).tick = s.tick := rfl
@[simp] theorem upPwr_free (f : Power → Power) : (s.upPwr f).free = s.free := rfl
@[simp] theorem upPwr_dev (f : Power → Power) : (s.upPwr f).dev = s.dev := rfl
@[simp] theorem upPwr_regs (f : Power → Power) : (s.upPwr f).regs = s.regs := rfl
@[simp] theorem upPwr_mem (f : Power → Power) : (s.upPwr f).mem = s.mem := rfl
@[simp] theorem upPwr_time (f : Power → Power) : (s.upPwr f).time = s.time := rfl
@[simp] theorem upPwr_job (f : Power → Power) : (s.upPwr f).job = s.job := rfl
@[simp] theorem upPwr_be (f : Power → Power) : (s.upPwr f).be = s.be := rfl
@[simp] theorem upPwr_ld (f : Power → Power) : (s.upPwr f).ld = s.ld := rfl
@[simp] theorem upPwr_ldc (f : Power → Power) : (s.upPwr f).ldc = s.ldc := rfl
@[simp] theorem upPwr_pcu (f : Power → Power) : (s.upPwr f).pcu = s.pcu := rfl
@[simp] theorem upPwr_tel (f : Power → Power) : (s.upPwr f).tel = s.tel := rfl
@[simp] theorem upPwr_ldg (f : Power → Power) : (s.upPwr f).ldg = s.ldg := rfl
@[simp] theorem upPwr_zone (f : Power → Power) : (s.upPwr f).zone = s.zone := rfl
@[simp] theorem upPwr_fab (f : Power → Power) : (s.upPwr f).fab = s.fab := rfl
@[simp] theorem upPwr_le (f : Power → Power) : (s.upPwr f).le = s.le := rfl
@[simp] theorem upPwr_ax (f : Power → Power) : (s.upPwr f).ax = s.ax := rfl
@[simp] theorem upPwr_mach (f : Power → Power) : (s.upPwr f).mach = s.mach := rfl
@[simp] theorem upPwr_cal (f : Power → Power) : (s.upPwr f).cal = s.cal := rfl
@[simp] theorem upPwr_lane (f : Power → Power) : (s.upPwr f).lane = s.lane := rfl
@[simp] theorem upPwr_port (f : Power → Power) : (s.upPwr f).port = s.port := rfl
@[simp] theorem upPwr_sent (f : Power → Power) : (s.upPwr f).sent = s.sent := rfl
@[simp] theorem upPwr_twin (f : Power → Power) : (s.upPwr f).twin = s.twin := rfl
@[simp] theorem upPwr_hub (f : Power → Power) : (s.upPwr f).hub = s.hub := rfl
@[simp] theorem upPwr_recd (f : Power → Power) : (s.upPwr f).recd = s.recd := rfl
@[simp] theorem upPwr_pwr (f : Power → Power) : (s.upPwr f).pwr = f s.pwr := rfl
@[simp] theorem upPwr_host (f : Power → Power) : (s.upPwr f).host = s.host := rfl
@[simp] theorem upPwr_mram (f : Power → Power) : (s.upPwr f).mram = s.mram := rfl
@[simp] theorem upPwr_js (f : Power → Power) (slt : Slot) : (s.upPwr f).js slt = s.js slt := rfl
@[simp] theorem upPwr_ls (f : Power → Power) (eng : Engine) (lsl : LSlot) : (s.upPwr f).ls eng lsl = s.ls eng lsl := rfl
@[simp] theorem upPwr_rd (f : Power → Power) (q : Nat) : (s.upPwr f).rd q = s.rd q := rfl
@[simp] theorem upPwr_rdByte (f : Power → Power) (q : Nat) : (s.upPwr f).rdByte q = s.rdByte q := rfl

/-! `upHost`. -/

@[simp] theorem upHost_pending (f : HostIf → HostIf) : (s.upHost f).pending = s.pending := rfl
@[simp] theorem upHost_tick (f : HostIf → HostIf) : (s.upHost f).tick = s.tick := rfl
@[simp] theorem upHost_free (f : HostIf → HostIf) : (s.upHost f).free = s.free := rfl
@[simp] theorem upHost_dev (f : HostIf → HostIf) : (s.upHost f).dev = s.dev := rfl
@[simp] theorem upHost_regs (f : HostIf → HostIf) : (s.upHost f).regs = s.regs := rfl
@[simp] theorem upHost_mem (f : HostIf → HostIf) : (s.upHost f).mem = s.mem := rfl
@[simp] theorem upHost_time (f : HostIf → HostIf) : (s.upHost f).time = s.time := rfl
@[simp] theorem upHost_job (f : HostIf → HostIf) : (s.upHost f).job = s.job := rfl
@[simp] theorem upHost_be (f : HostIf → HostIf) : (s.upHost f).be = s.be := rfl
@[simp] theorem upHost_ld (f : HostIf → HostIf) : (s.upHost f).ld = s.ld := rfl
@[simp] theorem upHost_ldc (f : HostIf → HostIf) : (s.upHost f).ldc = s.ldc := rfl
@[simp] theorem upHost_pcu (f : HostIf → HostIf) : (s.upHost f).pcu = s.pcu := rfl
@[simp] theorem upHost_tel (f : HostIf → HostIf) : (s.upHost f).tel = s.tel := rfl
@[simp] theorem upHost_ldg (f : HostIf → HostIf) : (s.upHost f).ldg = s.ldg := rfl
@[simp] theorem upHost_zone (f : HostIf → HostIf) : (s.upHost f).zone = s.zone := rfl
@[simp] theorem upHost_fab (f : HostIf → HostIf) : (s.upHost f).fab = s.fab := rfl
@[simp] theorem upHost_le (f : HostIf → HostIf) : (s.upHost f).le = s.le := rfl
@[simp] theorem upHost_ax (f : HostIf → HostIf) : (s.upHost f).ax = s.ax := rfl
@[simp] theorem upHost_mach (f : HostIf → HostIf) : (s.upHost f).mach = s.mach := rfl
@[simp] theorem upHost_cal (f : HostIf → HostIf) : (s.upHost f).cal = s.cal := rfl
@[simp] theorem upHost_lane (f : HostIf → HostIf) : (s.upHost f).lane = s.lane := rfl
@[simp] theorem upHost_port (f : HostIf → HostIf) : (s.upHost f).port = s.port := rfl
@[simp] theorem upHost_sent (f : HostIf → HostIf) : (s.upHost f).sent = s.sent := rfl
@[simp] theorem upHost_twin (f : HostIf → HostIf) : (s.upHost f).twin = s.twin := rfl
@[simp] theorem upHost_hub (f : HostIf → HostIf) : (s.upHost f).hub = s.hub := rfl
@[simp] theorem upHost_recd (f : HostIf → HostIf) : (s.upHost f).recd = s.recd := rfl
@[simp] theorem upHost_pwr (f : HostIf → HostIf) : (s.upHost f).pwr = s.pwr := rfl
@[simp] theorem upHost_host (f : HostIf → HostIf) : (s.upHost f).host = f s.host := rfl
@[simp] theorem upHost_mram (f : HostIf → HostIf) : (s.upHost f).mram = s.mram := rfl
@[simp] theorem upHost_js (f : HostIf → HostIf) (slt : Slot) : (s.upHost f).js slt = s.js slt := rfl
@[simp] theorem upHost_ls (f : HostIf → HostIf) (eng : Engine) (lsl : LSlot) : (s.upHost f).ls eng lsl = s.ls eng lsl := rfl
@[simp] theorem upHost_rd (f : HostIf → HostIf) (q : Nat) : (s.upHost f).rd q = s.rd q := rfl
@[simp] theorem upHost_rdByte (f : HostIf → HostIf) (q : Nat) : (s.upHost f).rdByte q = s.rdByte q := rfl

/-! `upMram`. -/

@[simp] theorem upMram_pending (f : Mram → Mram) : (s.upMram f).pending = s.pending := rfl
@[simp] theorem upMram_tick (f : Mram → Mram) : (s.upMram f).tick = s.tick := rfl
@[simp] theorem upMram_free (f : Mram → Mram) : (s.upMram f).free = s.free := rfl
@[simp] theorem upMram_dev (f : Mram → Mram) : (s.upMram f).dev = s.dev := rfl
@[simp] theorem upMram_regs (f : Mram → Mram) : (s.upMram f).regs = s.regs := rfl
@[simp] theorem upMram_mem (f : Mram → Mram) : (s.upMram f).mem = s.mem := rfl
@[simp] theorem upMram_time (f : Mram → Mram) : (s.upMram f).time = s.time := rfl
@[simp] theorem upMram_job (f : Mram → Mram) : (s.upMram f).job = s.job := rfl
@[simp] theorem upMram_be (f : Mram → Mram) : (s.upMram f).be = s.be := rfl
@[simp] theorem upMram_ld (f : Mram → Mram) : (s.upMram f).ld = s.ld := rfl
@[simp] theorem upMram_ldc (f : Mram → Mram) : (s.upMram f).ldc = s.ldc := rfl
@[simp] theorem upMram_pcu (f : Mram → Mram) : (s.upMram f).pcu = s.pcu := rfl
@[simp] theorem upMram_tel (f : Mram → Mram) : (s.upMram f).tel = s.tel := rfl
@[simp] theorem upMram_ldg (f : Mram → Mram) : (s.upMram f).ldg = s.ldg := rfl
@[simp] theorem upMram_zone (f : Mram → Mram) : (s.upMram f).zone = s.zone := rfl
@[simp] theorem upMram_fab (f : Mram → Mram) : (s.upMram f).fab = s.fab := rfl
@[simp] theorem upMram_le (f : Mram → Mram) : (s.upMram f).le = s.le := rfl
@[simp] theorem upMram_ax (f : Mram → Mram) : (s.upMram f).ax = s.ax := rfl
@[simp] theorem upMram_mach (f : Mram → Mram) : (s.upMram f).mach = s.mach := rfl
@[simp] theorem upMram_cal (f : Mram → Mram) : (s.upMram f).cal = s.cal := rfl
@[simp] theorem upMram_lane (f : Mram → Mram) : (s.upMram f).lane = s.lane := rfl
@[simp] theorem upMram_port (f : Mram → Mram) : (s.upMram f).port = s.port := rfl
@[simp] theorem upMram_sent (f : Mram → Mram) : (s.upMram f).sent = s.sent := rfl
@[simp] theorem upMram_twin (f : Mram → Mram) : (s.upMram f).twin = s.twin := rfl
@[simp] theorem upMram_hub (f : Mram → Mram) : (s.upMram f).hub = s.hub := rfl
@[simp] theorem upMram_recd (f : Mram → Mram) : (s.upMram f).recd = s.recd := rfl
@[simp] theorem upMram_pwr (f : Mram → Mram) : (s.upMram f).pwr = s.pwr := rfl
@[simp] theorem upMram_host (f : Mram → Mram) : (s.upMram f).host = s.host := rfl
@[simp] theorem upMram_mram (f : Mram → Mram) : (s.upMram f).mram = f s.mram := rfl
@[simp] theorem upMram_js (f : Mram → Mram) (slt : Slot) : (s.upMram f).js slt = s.js slt := rfl
@[simp] theorem upMram_ls (f : Mram → Mram) (eng : Engine) (lsl : LSlot) : (s.upMram f).ls eng lsl = s.ls eng lsl := rfl
@[simp] theorem upMram_rd (f : Mram → Mram) (q : Nat) : (s.upMram f).rd q = s.rd q := rfl
@[simp] theorem upMram_rdByte (f : Mram → Mram) (q : Nat) : (s.upMram f).rdByte q = s.rdByte q := rfl

/-! `wr`. -/

@[simp] theorem wr_pending (a : Nat) (v : Word) : (s.wr a v).pending = s.pending := rfl
@[simp] theorem wr_tick (a : Nat) (v : Word) : (s.wr a v).tick = s.tick := rfl
@[simp] theorem wr_free (a : Nat) (v : Word) : (s.wr a v).free = s.free := rfl
@[simp] theorem wr_dev (a : Nat) (v : Word) : (s.wr a v).dev = s.dev := rfl
@[simp] theorem wr_regs (a : Nat) (v : Word) : (s.wr a v).regs = sset (regReset a) a v s.regs := rfl
@[simp] theorem wr_mem (a : Nat) (v : Word) : (s.wr a v).mem = s.mem := rfl
@[simp] theorem wr_time (a : Nat) (v : Word) : (s.wr a v).time = s.time := rfl
@[simp] theorem wr_job (a : Nat) (v : Word) : (s.wr a v).job = s.job := rfl
@[simp] theorem wr_be (a : Nat) (v : Word) : (s.wr a v).be = s.be := rfl
@[simp] theorem wr_ld (a : Nat) (v : Word) : (s.wr a v).ld = s.ld := rfl
@[simp] theorem wr_ldc (a : Nat) (v : Word) : (s.wr a v).ldc = s.ldc := rfl
@[simp] theorem wr_pcu (a : Nat) (v : Word) : (s.wr a v).pcu = s.pcu := rfl
@[simp] theorem wr_tel (a : Nat) (v : Word) : (s.wr a v).tel = s.tel := rfl
@[simp] theorem wr_ldg (a : Nat) (v : Word) : (s.wr a v).ldg = s.ldg := rfl
@[simp] theorem wr_zone (a : Nat) (v : Word) : (s.wr a v).zone = s.zone := rfl
@[simp] theorem wr_fab (a : Nat) (v : Word) : (s.wr a v).fab = s.fab := rfl
@[simp] theorem wr_le (a : Nat) (v : Word) : (s.wr a v).le = s.le := rfl
@[simp] theorem wr_ax (a : Nat) (v : Word) : (s.wr a v).ax = s.ax := rfl
@[simp] theorem wr_mach (a : Nat) (v : Word) : (s.wr a v).mach = s.mach := rfl
@[simp] theorem wr_cal (a : Nat) (v : Word) : (s.wr a v).cal = s.cal := rfl
@[simp] theorem wr_lane (a : Nat) (v : Word) : (s.wr a v).lane = s.lane := rfl
@[simp] theorem wr_port (a : Nat) (v : Word) : (s.wr a v).port = s.port := rfl
@[simp] theorem wr_sent (a : Nat) (v : Word) : (s.wr a v).sent = s.sent := rfl
@[simp] theorem wr_twin (a : Nat) (v : Word) : (s.wr a v).twin = s.twin := rfl
@[simp] theorem wr_hub (a : Nat) (v : Word) : (s.wr a v).hub = s.hub := rfl
@[simp] theorem wr_recd (a : Nat) (v : Word) : (s.wr a v).recd = s.recd := rfl
@[simp] theorem wr_pwr (a : Nat) (v : Word) : (s.wr a v).pwr = s.pwr := rfl
@[simp] theorem wr_host (a : Nat) (v : Word) : (s.wr a v).host = s.host := rfl
@[simp] theorem wr_mram (a : Nat) (v : Word) : (s.wr a v).mram = s.mram := rfl
@[simp] theorem wr_js (a : Nat) (v : Word) (slt : Slot) : (s.wr a v).js slt = s.js slt := rfl
@[simp] theorem wr_ls (a : Nat) (v : Word) (eng : Engine) (lsl : LSlot) : (s.wr a v).ls eng lsl = s.ls eng lsl := rfl
@[simp] theorem wr_rdByte (a : Nat) (v : Word) (q : Nat) : (s.wr a v).rdByte q = s.rdByte q := rfl

/-! `wrByte`. -/

@[simp] theorem wrByte_pending (a : Nat) (v : Byte) : (s.wrByte a v).pending = s.pending := rfl
@[simp] theorem wrByte_tick (a : Nat) (v : Byte) : (s.wrByte a v).tick = s.tick := rfl
@[simp] theorem wrByte_free (a : Nat) (v : Byte) : (s.wrByte a v).free = s.free := rfl
@[simp] theorem wrByte_dev (a : Nat) (v : Byte) : (s.wrByte a v).dev = s.dev := rfl
@[simp] theorem wrByte_regs (a : Nat) (v : Byte) : (s.wrByte a v).regs = s.regs := rfl
@[simp] theorem wrByte_mem (a : Nat) (v : Byte) : (s.wrByte a v).mem = sset 0 a v s.mem := rfl
@[simp] theorem wrByte_time (a : Nat) (v : Byte) : (s.wrByte a v).time = s.time := rfl
@[simp] theorem wrByte_job (a : Nat) (v : Byte) : (s.wrByte a v).job = s.job := rfl
@[simp] theorem wrByte_be (a : Nat) (v : Byte) : (s.wrByte a v).be = s.be := rfl
@[simp] theorem wrByte_ld (a : Nat) (v : Byte) : (s.wrByte a v).ld = s.ld := rfl
@[simp] theorem wrByte_ldc (a : Nat) (v : Byte) : (s.wrByte a v).ldc = s.ldc := rfl
@[simp] theorem wrByte_pcu (a : Nat) (v : Byte) : (s.wrByte a v).pcu = s.pcu := rfl
@[simp] theorem wrByte_tel (a : Nat) (v : Byte) : (s.wrByte a v).tel = s.tel := rfl
@[simp] theorem wrByte_ldg (a : Nat) (v : Byte) : (s.wrByte a v).ldg = s.ldg := rfl
@[simp] theorem wrByte_zone (a : Nat) (v : Byte) : (s.wrByte a v).zone = s.zone := rfl
@[simp] theorem wrByte_fab (a : Nat) (v : Byte) : (s.wrByte a v).fab = s.fab := rfl
@[simp] theorem wrByte_le (a : Nat) (v : Byte) : (s.wrByte a v).le = s.le := rfl
@[simp] theorem wrByte_ax (a : Nat) (v : Byte) : (s.wrByte a v).ax = s.ax := rfl
@[simp] theorem wrByte_mach (a : Nat) (v : Byte) : (s.wrByte a v).mach = s.mach := rfl
@[simp] theorem wrByte_cal (a : Nat) (v : Byte) : (s.wrByte a v).cal = s.cal := rfl
@[simp] theorem wrByte_lane (a : Nat) (v : Byte) : (s.wrByte a v).lane = s.lane := rfl
@[simp] theorem wrByte_port (a : Nat) (v : Byte) : (s.wrByte a v).port = s.port := rfl
@[simp] theorem wrByte_sent (a : Nat) (v : Byte) : (s.wrByte a v).sent = s.sent := rfl
@[simp] theorem wrByte_twin (a : Nat) (v : Byte) : (s.wrByte a v).twin = s.twin := rfl
@[simp] theorem wrByte_hub (a : Nat) (v : Byte) : (s.wrByte a v).hub = s.hub := rfl
@[simp] theorem wrByte_recd (a : Nat) (v : Byte) : (s.wrByte a v).recd = s.recd := rfl
@[simp] theorem wrByte_pwr (a : Nat) (v : Byte) : (s.wrByte a v).pwr = s.pwr := rfl
@[simp] theorem wrByte_host (a : Nat) (v : Byte) : (s.wrByte a v).host = s.host := rfl
@[simp] theorem wrByte_mram (a : Nat) (v : Byte) : (s.wrByte a v).mram = s.mram := rfl
@[simp] theorem wrByte_js (a : Nat) (v : Byte) (slt : Slot) : (s.wrByte a v).js slt = s.js slt := rfl
@[simp] theorem wrByte_ls (a : Nat) (v : Byte) (eng : Engine) (lsl : LSlot) : (s.wrByte a v).ls eng lsl = s.ls eng lsl := rfl
@[simp] theorem wrByte_rd (a : Nat) (v : Byte) (q : Nat) : (s.wrByte a v).rd q = s.rd q := rfl

/-! `send`. -/

@[simp] theorem send_pending (p m : Nat) (b : Bool) (i : Nat) (d : List Nat) : (s.send p m b i d).pending = s.pending := rfl
@[simp] theorem send_tick (p m : Nat) (b : Bool) (i : Nat) (d : List Nat) : (s.send p m b i d).tick = s.tick := rfl
@[simp] theorem send_free (p m : Nat) (b : Bool) (i : Nat) (d : List Nat) : (s.send p m b i d).free = s.free := rfl
@[simp] theorem send_dev (p m : Nat) (b : Bool) (i : Nat) (d : List Nat) : (s.send p m b i d).dev = s.dev := rfl
@[simp] theorem send_regs (p m : Nat) (b : Bool) (i : Nat) (d : List Nat) : (s.send p m b i d).regs = s.regs := rfl
@[simp] theorem send_mem (p m : Nat) (b : Bool) (i : Nat) (d : List Nat) : (s.send p m b i d).mem = s.mem := rfl
@[simp] theorem send_time (p m : Nat) (b : Bool) (i : Nat) (d : List Nat) : (s.send p m b i d).time = s.time := rfl
@[simp] theorem send_job (p m : Nat) (b : Bool) (i : Nat) (d : List Nat) : (s.send p m b i d).job = s.job := rfl
@[simp] theorem send_be (p m : Nat) (b : Bool) (i : Nat) (d : List Nat) : (s.send p m b i d).be = s.be := rfl
@[simp] theorem send_ld (p m : Nat) (b : Bool) (i : Nat) (d : List Nat) : (s.send p m b i d).ld = s.ld := rfl
@[simp] theorem send_ldc (p m : Nat) (b : Bool) (i : Nat) (d : List Nat) : (s.send p m b i d).ldc = s.ldc := rfl
@[simp] theorem send_pcu (p m : Nat) (b : Bool) (i : Nat) (d : List Nat) : (s.send p m b i d).pcu = s.pcu := rfl
@[simp] theorem send_tel (p m : Nat) (b : Bool) (i : Nat) (d : List Nat) : (s.send p m b i d).tel = s.tel := rfl
@[simp] theorem send_ldg (p m : Nat) (b : Bool) (i : Nat) (d : List Nat) : (s.send p m b i d).ldg = s.ldg := rfl
@[simp] theorem send_zone (p m : Nat) (b : Bool) (i : Nat) (d : List Nat) : (s.send p m b i d).zone = s.zone := rfl
@[simp] theorem send_fab (p m : Nat) (b : Bool) (i : Nat) (d : List Nat) : (s.send p m b i d).fab = s.fab := rfl
@[simp] theorem send_le (p m : Nat) (b : Bool) (i : Nat) (d : List Nat) : (s.send p m b i d).le = s.le := rfl
@[simp] theorem send_ax (p m : Nat) (b : Bool) (i : Nat) (d : List Nat) : (s.send p m b i d).ax = s.ax := rfl
@[simp] theorem send_mach (p m : Nat) (b : Bool) (i : Nat) (d : List Nat) : (s.send p m b i d).mach = s.mach := rfl
@[simp] theorem send_cal (p m : Nat) (b : Bool) (i : Nat) (d : List Nat) : (s.send p m b i d).cal = s.cal := rfl
@[simp] theorem send_lane (p m : Nat) (b : Bool) (i : Nat) (d : List Nat) : (s.send p m b i d).lane = s.lane := rfl
@[simp] theorem send_port (p m : Nat) (b : Bool) (i : Nat) (d : List Nat) : (s.send p m b i d).port = s.port := rfl
@[simp] theorem send_sent (p m : Nat) (b : Bool) (i : Nat) (d : List Nat) : (s.send p m b i d).sent = ⟨s.tick, p, m, b, i, d⟩ :: s.sent := rfl
@[simp] theorem send_twin (p m : Nat) (b : Bool) (i : Nat) (d : List Nat) : (s.send p m b i d).twin = s.twin := rfl
@[simp] theorem send_hub (p m : Nat) (b : Bool) (i : Nat) (d : List Nat) : (s.send p m b i d).hub = s.hub := rfl
@[simp] theorem send_recd (p m : Nat) (b : Bool) (i : Nat) (d : List Nat) : (s.send p m b i d).recd = s.recd := rfl
@[simp] theorem send_pwr (p m : Nat) (b : Bool) (i : Nat) (d : List Nat) : (s.send p m b i d).pwr = s.pwr := rfl
@[simp] theorem send_host (p m : Nat) (b : Bool) (i : Nat) (d : List Nat) : (s.send p m b i d).host = s.host := rfl
@[simp] theorem send_mram (p m : Nat) (b : Bool) (i : Nat) (d : List Nat) : (s.send p m b i d).mram = s.mram := rfl
@[simp] theorem send_js (p m : Nat) (b : Bool) (i : Nat) (d : List Nat) (slt : Slot) : (s.send p m b i d).js slt = s.js slt := rfl
@[simp] theorem send_ls (p m : Nat) (b : Bool) (i : Nat) (d : List Nat) (eng : Engine) (lsl : LSlot) : (s.send p m b i d).ls eng lsl = s.ls eng lsl := rfl
@[simp] theorem send_rd (p m : Nat) (b : Bool) (i : Nat) (d : List Nat) (q : Nat) : (s.send p m b i d).rd q = s.rd q := rfl
@[simp] theorem send_rdByte (p m : Nat) (b : Bool) (i : Nat) (d : List Nat) (q : Nat) : (s.send p m b i d).rdByte q = s.rdByte q := rfl

/-! `report`. -/

@[simp] theorem report_pending (i u : Nat) (d : Word) : (s.report i u d).pending = s.pending := rfl
@[simp] theorem report_tick (i u : Nat) (d : Word) : (s.report i u d).tick = s.tick := rfl
@[simp] theorem report_free (i u : Nat) (d : Word) : (s.report i u d).free = s.free := rfl
@[simp] theorem report_dev (i u : Nat) (d : Word) : (s.report i u d).dev = s.dev := rfl
@[simp] theorem report_regs (i u : Nat) (d : Word) : (s.report i u d).regs = s.regs := rfl
@[simp] theorem report_mem (i u : Nat) (d : Word) : (s.report i u d).mem = s.mem := rfl
@[simp] theorem report_time (i u : Nat) (d : Word) : (s.report i u d).time = s.time := rfl
@[simp] theorem report_job (i u : Nat) (d : Word) : (s.report i u d).job = s.job := rfl
@[simp] theorem report_be (i u : Nat) (d : Word) : (s.report i u d).be = s.be := rfl
@[simp] theorem report_ld (i u : Nat) (d : Word) : (s.report i u d).ld = s.ld := rfl
@[simp] theorem report_ldc (i u : Nat) (d : Word) : (s.report i u d).ldc = s.ldc := rfl
@[simp] theorem report_pcu (i u : Nat) (d : Word) : (s.report i u d).pcu = s.pcu := rfl
@[simp] theorem report_tel (i u : Nat) (d : Word) : (s.report i u d).tel = s.tel := rfl
@[simp] theorem report_ldg (i u : Nat) (d : Word) : (s.report i u d).ldg = s.ldg := rfl
@[simp] theorem report_zone (i u : Nat) (d : Word) : (s.report i u d).zone = s.zone := rfl
@[simp] theorem report_fab (i u : Nat) (d : Word) : (s.report i u d).fab = s.fab := rfl
@[simp] theorem report_le (i u : Nat) (d : Word) : (s.report i u d).le = s.le := rfl
@[simp] theorem report_ax (i u : Nat) (d : Word) : (s.report i u d).ax = s.ax := rfl
@[simp] theorem report_mach (i u : Nat) (d : Word) : (s.report i u d).mach = s.mach := rfl
@[simp] theorem report_cal (i u : Nat) (d : Word) : (s.report i u d).cal = s.cal := rfl
@[simp] theorem report_lane (i u : Nat) (d : Word) : (s.report i u d).lane = s.lane := rfl
@[simp] theorem report_port (i u : Nat) (d : Word) : (s.report i u d).port = s.port := rfl
@[simp] theorem report_sent (i u : Nat) (d : Word) : (s.report i u d).sent = s.sent := rfl
@[simp] theorem report_twin (i u : Nat) (d : Word) : (s.report i u d).twin = s.twin := rfl
@[simp] theorem report_hub (i u : Nat) (d : Word) : (s.report i u d).hub = { s.hub with pending := s.hub.pending ++ [⟨i, u, d, s.tick, false⟩] } := rfl
@[simp] theorem report_recd (i u : Nat) (d : Word) : (s.report i u d).recd = s.recd := rfl
@[simp] theorem report_pwr (i u : Nat) (d : Word) : (s.report i u d).pwr = s.pwr := rfl
@[simp] theorem report_host (i u : Nat) (d : Word) : (s.report i u d).host = s.host := rfl
@[simp] theorem report_mram (i u : Nat) (d : Word) : (s.report i u d).mram = s.mram := rfl
@[simp] theorem report_js (i u : Nat) (d : Word) (slt : Slot) : (s.report i u d).js slt = s.js slt := rfl
@[simp] theorem report_ls (i u : Nat) (d : Word) (eng : Engine) (lsl : LSlot) : (s.report i u d).ls eng lsl = s.ls eng lsl := rfl
@[simp] theorem report_rd (i u : Nat) (d : Word) (q : Nat) : (s.report i u d).rd q = s.rd q := rfl
@[simp] theorem report_rdByte (i u : Nat) (d : Word) (q : Nat) : (s.report i u d).rdByte q = s.rdByte q := rfl

/-! `msix`. -/

@[simp] theorem msix_pending (v : Nat) : (s.msix v).pending = s.pending := rfl
@[simp] theorem msix_tick (v : Nat) : (s.msix v).tick = s.tick := rfl
@[simp] theorem msix_free (v : Nat) : (s.msix v).free = s.free := rfl
@[simp] theorem msix_dev (v : Nat) : (s.msix v).dev = s.dev := rfl
@[simp] theorem msix_regs (v : Nat) : (s.msix v).regs = s.regs := rfl
@[simp] theorem msix_mem (v : Nat) : (s.msix v).mem = s.mem := rfl
@[simp] theorem msix_time (v : Nat) : (s.msix v).time = s.time := rfl
@[simp] theorem msix_job (v : Nat) : (s.msix v).job = s.job := rfl
@[simp] theorem msix_be (v : Nat) : (s.msix v).be = s.be := rfl
@[simp] theorem msix_ld (v : Nat) : (s.msix v).ld = s.ld := rfl
@[simp] theorem msix_ldc (v : Nat) : (s.msix v).ldc = s.ldc := rfl
@[simp] theorem msix_pcu (v : Nat) : (s.msix v).pcu = s.pcu := rfl
@[simp] theorem msix_tel (v : Nat) : (s.msix v).tel = s.tel := rfl
@[simp] theorem msix_ldg (v : Nat) : (s.msix v).ldg = s.ldg := rfl
@[simp] theorem msix_zone (v : Nat) : (s.msix v).zone = s.zone := rfl
@[simp] theorem msix_fab (v : Nat) : (s.msix v).fab = s.fab := rfl
@[simp] theorem msix_le (v : Nat) : (s.msix v).le = s.le := rfl
@[simp] theorem msix_ax (v : Nat) : (s.msix v).ax = s.ax := rfl
@[simp] theorem msix_mach (v : Nat) : (s.msix v).mach = s.mach := rfl
@[simp] theorem msix_cal (v : Nat) : (s.msix v).cal = s.cal := rfl
@[simp] theorem msix_lane (v : Nat) : (s.msix v).lane = s.lane := rfl
@[simp] theorem msix_port (v : Nat) : (s.msix v).port = s.port := rfl
@[simp] theorem msix_sent (v : Nat) : (s.msix v).sent = s.sent := rfl
@[simp] theorem msix_twin (v : Nat) : (s.msix v).twin = s.twin := rfl
@[simp] theorem msix_hub (v : Nat) : (s.msix v).hub = s.hub := rfl
@[simp] theorem msix_recd (v : Nat) : (s.msix v).recd = s.recd := rfl
@[simp] theorem msix_pwr (v : Nat) : (s.msix v).pwr = s.pwr := rfl
@[simp] theorem msix_host (v : Nat) : (s.msix v).host = { s.host with msix := s.host.msix ||| BitVec.ofNat 64 (2 ^ v) } := rfl
@[simp] theorem msix_mram (v : Nat) : (s.msix v).mram = s.mram := rfl
@[simp] theorem msix_js (v : Nat) (slt : Slot) : (s.msix v).js slt = s.js slt := rfl
@[simp] theorem msix_ls (v : Nat) (eng : Engine) (lsl : LSlot) : (s.msix v).ls eng lsl = s.ls eng lsl := rfl
@[simp] theorem msix_rd (v : Nat) (q : Nat) : (s.msix v).rd q = s.rd q := rfl
@[simp] theorem msix_rdByte (v : Nat) (q : Nat) : (s.msix v).rdByte q = s.rdByte q := rfl

end Sys2Proof.Machine.State
end

