-- ==== Sys2Proof/Laws/Sparse.lean ====
section
/-! SUPPORT. The sparse maps behind memory and registers: a read after a write, a write elsewhere, and that every write
keeps the canonical form. Then the same of registers and of bytes of the state. -/

namespace Sys2Proof.Machine

variable {α : Type}

theorem sget_none_of_lt (k : Nat) (l : List (Nat × α)) (h : ∀ p ∈ l, k < p.1) : sget k l = none := by
  induction l with
  | nil => rfl
  | cons x l ih =>
    obtain ⟨j, u⟩ := x
    have hj : k < j := h _ (List.mem_cons_self ..)
    have : j ≠ k := by omega
    simp only [sget, this, if_false]
    exact ih fun p hp => h p (List.mem_cons_of_mem _ hp)

theorem sget_sput (k : Nat) (v : α) (l : List (Nat × α)) : sget k (sput k v l) = some v := by
  induction l with
  | nil => simp [sput, sget]
  | cons x l ih =>
    obtain ⟨j, u⟩ := x
    simp only [sput]
    split
    · simp [sget]
    · split
      · simp [sget]
      · rename_i h
        simp [sget, h, ih]

theorem sget_sput_ne {k q : Nat} (v : α) (l : List (Nat × α)) (h : q ≠ k) : sget q (sput k v l) = sget q l := by
  induction l with
  | nil => simp [sput, sget, Ne.symm h]
  | cons x l ih =>
    obtain ⟨j, u⟩ := x
    simp only [sput]
    split
    · simp [sget, Ne.symm h]
    · split
      · rename_i e
        subst e
        simp [sget, Ne.symm h]
      · simp [sget, ih]

theorem sget_sdel_ne {k q : Nat} (l : List (Nat × α)) (h : q ≠ k) : sget q (sdel k l) = sget q l := by
  induction l with
  | nil => rfl
  | cons x l ih =>
    obtain ⟨j, u⟩ := x
    simp only [sdel]
    split
    · rename_i e
      subst e
      simp [sget, Ne.symm h]
    · simp [sget, ih]

theorem SparseWf.tail {d : Nat → α} {x : Nat × α} {l : List (Nat × α)} (h : SparseWf d (x :: l)) : SparseWf d l := h.2.2

theorem sget_sdel {d : Nat → α} (k : Nat) (l : List (Nat × α)) (h : SparseWf d l) : sget k (sdel k l) = none := by
  induction l with
  | nil => rfl
  | cons x l ih =>
    obtain ⟨j, u⟩ := x
    simp only [sdel]
    split
    · rename_i e
      exact sget_none_of_lt k l fun p hp => e ▸ h.2.1 p hp
    · rename_i e
      simp [sget, e, ih h.tail]

theorem mem_sput {k : Nat} {v : α} {l : List (Nat × α)} {p : Nat × α} (h : p ∈ sput k v l) : p = (k, v) ∨ p ∈ l := by
  induction l with
  | nil => simpa [sput] using h
  | cons x l ih =>
    obtain ⟨j, u⟩ := x
    simp only [sput] at h
    split at h
    · simpa using h
    · split at h
      · rcases List.mem_cons.1 h with h | h
        · exact Or.inl h
        · exact Or.inr (List.mem_cons_of_mem _ h)
      · rcases List.mem_cons.1 h with h | h
        · exact Or.inr (h ▸ List.mem_cons_self ..)
        · exact (ih h).imp id fun h => List.mem_cons_of_mem _ h

theorem mem_sdel {k : Nat} {l : List (Nat × α)} {p : Nat × α} (h : p ∈ sdel k l) : p ∈ l := by
  induction l with
  | nil => exact h
  | cons x l ih =>
    obtain ⟨j, u⟩ := x
    simp only [sdel] at h
    split at h
    · exact List.mem_cons_of_mem _ h
    · rcases List.mem_cons.1 h with h | h
      · exact h ▸ List.mem_cons_self ..
      · exact List.mem_cons_of_mem _ (ih h)

theorem SparseWf.sdel {d : Nat → α} (k : Nat) {l : List (Nat × α)} (h : SparseWf d l) : SparseWf d (sdel k l) := by
  induction l with
  | nil => trivial
  | cons x l ih =>
    obtain ⟨j, u⟩ := x
    simp only [Machine.sdel]
    split
    · exact h.tail
    · exact ⟨h.1, fun p hp => h.2.1 p (mem_sdel hp), ih h.tail⟩

theorem SparseWf.sput {d : Nat → α} (k : Nat) (v : α) {l : List (Nat × α)} (h : SparseWf d l) (hv : v ≠ d k) :
    SparseWf d (sput k v l) := by
  induction l with
  | nil => exact ⟨hv, by simp, trivial⟩
  | cons x l ih =>
    obtain ⟨j, u⟩ := x
    simp only [Machine.sput]
    split
    · rename_i hk
      refine ⟨hv, ?_, h⟩
      intro p hp
      rcases List.mem_cons.1 hp with hp | hp
      · exact hp ▸ hk
      · exact lt_trans hk (h.2.1 p hp)
    · split
      · rename_i hk
        subst hk
        exact ⟨hv, h.2.1, h.tail⟩
      · rename_i h1 h2
        refine ⟨h.1, ?_, ih h.tail⟩
        intro p hp
        rcases mem_sput hp with hp | hp
        · subst hp
          simp only
          omega
        · exact h.2.1 p hp

theorem SparseWf.filter {d : Nat → α} (f : Nat × α → Bool) {l : List (Nat × α)} (h : SparseWf d l) :
    SparseWf d (l.filter f) := by
  induction l with
  | nil => trivial
  | cons x l ih =>
    rw [List.filter_cons]
    split
    · exact ⟨h.1, fun p hp => h.2.1 p (List.mem_filter.1 hp).1, ih h.tail⟩
    · exact ih h.tail

variable [DecidableEq α]

/-- A write keeps the canonical form. -/
theorem SparseWf.sset {d : Nat → α} (k : Nat) (v : α) {l : List (Nat × α)} (h : SparseWf d l) :
    SparseWf d (sset (d k) k v l) := by
  unfold Machine.sset
  split
  · exact h.sdel k
  · rename_i hv
    exact h.sput k v hv

/-- A read after a write to the same key gives the value written. -/
theorem sval_sset {d : Nat → α} (k : Nat) (v : α) {l : List (Nat × α)} (h : SparseWf d l) :
    sval (d k) k (sset (d k) k v l) = v := by
  unfold sval sset
  split
  · rename_i e
    rw [sget_sdel k l h]
    exact e.symm
  · rw [sget_sput]
    rfl

/-- A write leaves every other key alone. -/
theorem sval_sset_ne {k q : Nat} (c d v : α) (l : List (Nat × α)) (h : q ≠ k) :
    sval c q (sset d k v l) = sval c q l := by
  unfold sval sset
  split
  · rw [sget_sdel_ne l h]
  · rw [sget_sput_ne v l h]

namespace State

/-- A register read after it was written. -/
theorem rd_wr {s : State} (h : s.regsWf) (a : Nat) (v : Word) : (s.wr a v).rd a = v := sval_sset a v h

/-- A register read after another was written. -/
theorem rd_wr_ne (s : State) {a q : Nat} (v : Word) (h : q ≠ a) : (s.wr a v).rd q = s.rd q :=
  sval_sset_ne _ _ v s.regs h

/-- A byte read after it was written. -/
theorem rdByte_wrByte {s : State} (h : s.memWf) (a : Nat) (v : Byte) : (s.wrByte a v).rdByte a = v :=
  sval_sset (d := fun _ => (0 : Byte)) a v h

/-- A byte read after another was written. -/
theorem rdByte_wrByte_ne (s : State) {a q : Nat} (v : Byte) (h : q ≠ a) : (s.wrByte a v).rdByte q = s.rdByte q :=
  sval_sset_ne _ _ v s.mem h

theorem regsWf_wr {s : State} (h : s.regsWf) (a : Nat) (v : Word) : (s.wr a v).regsWf := SparseWf.sset a v h

theorem memWf_wrByte {s : State} (h : s.memWf) (a : Nat) (v : Byte) : (s.wrByte a v).memWf :=
  SparseWf.sset (d := fun _ => (0 : Byte)) a v h

theorem memWf_wrBytes (l : List Byte) : ∀ {s : State} (a : Nat), s.memWf → (s.wrBytes a l).memWf := by
  induction l with
  | nil => exact fun _ h => h
  | cons v l ih => exact fun a h => ih (a + 1) (memWf_wrByte h a v)

/-- Bytes outside those written read as before. -/
theorem rdByte_wrBytes_out (l : List Byte) :
    ∀ (s : State) (a q : Nat), q < a ∨ a + l.length ≤ q → (s.wrBytes a l).rdByte q = s.rdByte q := by
  induction l with
  | nil => exact fun _ _ _ _ => rfl
  | cons v l ih =>
    intro s a q h
    have h1 : q < a + 1 ∨ a + 1 + l.length ≤ q := by simp only [List.length_cons] at h; omega
    have h2 : q ≠ a := by simp only [List.length_cons] at h; omega
    exact (ih (s.wrByte a v) (a + 1) q h1).trans (rdByte_wrByte_ne s v h2)

/-- Bytes written read back. -/
theorem rdByte_wrBytes_in (l : List Byte) :
    ∀ (s : State) (a i : Nat), s.memWf → (h : i < l.length) → (s.wrBytes a l).rdByte (a + i) = l[i] := by
  induction l with
  | nil => exact fun _ _ _ _ h => absurd h (Nat.not_lt_zero _)
  | cons v l ih =>
    intro s a i hs h
    cases i with
    | zero =>
      exact (rdByte_wrBytes_out l (s.wrByte a v) (a + 1) a (Or.inl (Nat.lt_succ_self a))).trans (rdByte_wrByte hs a v)
    | succ i =>
      have hi : i < l.length := by simpa using h
      have e : a + (i + 1) = a + 1 + i := by omega
      rw [e]
      exact ih (s.wrByte a v) (a + 1) i (memWf_wrByte hs a v) hi

/-- Writes of memory change memory only. -/
theorem wrBytes_frame (l : List Byte) : ∀ (s : State) (a : Nat), { s.wrBytes a l with mem := s.mem } = s := by
  induction l with
  | nil => exact fun _ _ => rfl
  | cons v l ih =>
    intro s a
    have h := ih (s.wrByte a v) (a + 1)
    have e : { s.wrBytes a (v :: l) with mem := s.mem } =
        { { (s.wrByte a v).wrBytes (a + 1) l with mem := (s.wrByte a v).mem } with mem := s.mem } := rfl
    rw [e, h]
    rfl

end State

end Sys2Proof.Machine
end

