-- ==== Sys2Proof/Laws/Ops.lean ====
section
/-! SUPPORT. What each shared operation of Machine/Ops.lean can do, said once: register fields, interrupts, records, the
device state, free values, and changes repeated over a list. -/

namespace Sys2Proof.Machine

/-! Fields of words. -/

/-- Bit `i` of `w` with that bit set. -/
theorem bit_setBit (w : Word) (i : Nat) (h : i < 32) : bit (setBit w i) i = true := by
  have e : (2 ^ i) % 4294967296 = 2 ^ i :=
    Nat.mod_eq_of_lt (by simpa using (Nat.pow_lt_pow_iff_right (a := 2) (by decide)).2 h)
  have t : (w.toNat ||| 2 ^ i).testBit i = true := by simp [Nat.testBit_or]
  rw [Nat.testBit_eq_decide_div_mod_eq] at t
  simpa [bit, setBit, w32, BitVec.toNat_or, e] using t

/-- A field read after it was replaced. -/
theorem fld_setFld (w : Word) (hi lo v : Nat) (h : lo ≤ hi) (h32 : hi < 32) :
    fld (setFld w hi lo v) hi lo = v % 2 ^ (hi + 1 - lo) := by
  have hw : w.toNat < 2 ^ 32 := w.isLt
  obtain ⟨k, hk⟩ : ∃ k, hi + 1 - lo = k := ⟨_, rfl⟩
  have hlk : lo + k ≤ 32 := by omega
  have hp : 0 < 2 ^ lo := Nat.pos_of_ne_zero (by positivity)
  have hq : 0 < 2 ^ k := Nat.pos_of_ne_zero (by positivity)
  simp only [fld, setFld, w32, hk, BitVec.toNat_ofNat]
  generalize w.toNat = n at hw
  have d1 : n = n / 2 ^ lo / 2 ^ k * 2 ^ k * 2 ^ lo + n / 2 ^ lo % 2 ^ k * 2 ^ lo + n % 2 ^ lo := by
    have a := Nat.div_add_mod n (2 ^ lo)
    have b := Nat.div_add_mod (n / 2 ^ lo) (2 ^ k)
    calc n = 2 ^ lo * (n / 2 ^ lo) + n % 2 ^ lo := a.symm
      _ = 2 ^ lo * (2 ^ k * (n / 2 ^ lo / 2 ^ k) + n / 2 ^ lo % 2 ^ k) + n % 2 ^ lo := by rw [b]
      _ = _ := by ring
  have hv : v % 2 ^ k < 2 ^ k := Nat.mod_lt _ hq
  have hr : n % 2 ^ lo < 2 ^ lo := Nat.mod_lt _ hp
  have e : n - n / 2 ^ lo % 2 ^ k * 2 ^ lo + v % 2 ^ k * 2 ^ lo =
      2 ^ lo * (2 ^ k * (n / 2 ^ lo / 2 ^ k) + v % 2 ^ k) + n % 2 ^ lo := by
    have : n - n / 2 ^ lo % 2 ^ k * 2 ^ lo = n / 2 ^ lo / 2 ^ k * 2 ^ k * 2 ^ lo + n % 2 ^ lo := by omega
    rw [this]
    ring
  have hlt : n - n / 2 ^ lo % 2 ^ k * 2 ^ lo + v % 2 ^ k * 2 ^ lo < 2 ^ 32 := by
    have hm : n / 2 ^ lo / 2 ^ k < 2 ^ (32 - (lo + k)) := by
      rw [Nat.div_div_eq_div_mul, ← Nat.pow_add]
      exact Nat.div_lt_of_lt_mul (by rw [← Nat.pow_add, Nat.add_sub_cancel' hlk]; exact hw)
    have h1 : 2 ^ k * (n / 2 ^ lo / 2 ^ k) + v % 2 ^ k + 1 ≤ 2 ^ k * 2 ^ (32 - (lo + k)) := by
      have := Nat.mul_le_mul_left (2 ^ k) (Nat.succ_le_of_lt hm)
      rw [Nat.mul_succ] at this
      omega
    have h2 := Nat.mul_le_mul_left (2 ^ lo) h1
    have h3 : 2 ^ lo * (2 ^ k * 2 ^ (32 - (lo + k))) = 2 ^ 32 := by
      rw [← Nat.mul_assoc, ← Nat.pow_add, ← Nat.pow_add, Nat.add_sub_cancel' hlk]
    rw [Nat.mul_add, Nat.mul_one] at h2
    rw [e]
    omega
  rw [Nat.mod_eq_of_lt hlt, e, Nat.mul_add_div hp, Nat.div_eq_of_lt hr, Nat.add_zero, Nat.mul_add_mod,
    Nat.mod_eq_of_lt hv]

namespace State

variable (s : State)

/-! Register operations are writes. -/

@[simp] theorem wmod_eq (a : Nat) (f : Word → Word) : s.wmod a f = s.wr a (f (s.rd a)) := rfl
@[simp] theorem setB_eq (a i : Nat) : s.setB a i = s.wr a (setBit (s.rd a) i) := rfl
@[simp] theorem clrB_eq (a i : Nat) : s.clrB a i = s.wr a (clrBit (s.rd a) i) := rfl
@[simp] theorem setF_eq (a hi lo v : Nat) : s.setF a hi lo v = s.wr a (setFld (s.rd a) hi lo v) := rfl
@[simp] theorem count_eq (a hi lo n : Nat) :
    s.count a hi lo n = s.wr a (setFld (s.rd a) hi lo (satN (hi + 1 - lo) (s.rf a hi lo + n))) := rfl
@[simp] theorem advance_eq (a hi lo : Nat) :
    s.advance a hi lo = s.wr a (setFld (s.rd a) hi lo (s.rf a hi lo + 1)) := rfl

/-- A field read after it was replaced. -/
theorem rf_setF {s : State} (h : s.regsWf) (a hi lo v : Nat) (hl : lo ≤ hi) (h32 : hi < 32) :
    (s.setF a hi lo v).rf a hi lo = v % 2 ^ (hi + 1 - lo) := by
  unfold rf setF wmod
  rw [rd_wr h, fld_setFld _ _ _ _ hl h32]

/-- A bit read after it was set. -/
theorem rb_setB {s : State} (h : s.regsWf) (a i : Nat) (hi : i < 32) : (s.setB a i).rb a i = true := by
  unfold rb setB wmod
  rw [rd_wr h]
  exact bit_setBit _ _ hi

/-! Repetition and condition. -/

@[simp] theorem each_nil {α : Type} (f : α → State → State) : s.each [] f = s := rfl
@[simp] theorem each_cons {α : Type} (a : α) (l : List α) (f : α → State → State) :
    s.each (a :: l) f = (f a s).each l f := rfl

/-- What every single change keeps, a change over a list keeps. -/
theorem each_ind {α : Type} (P : State → Prop) (l : List α) (f : α → State → State)
    (hf : ∀ a ∈ l, ∀ t, P t → P (f a t)) : ∀ s : State, P s → P (s.each l f) := by
  induction l with
  | nil => exact fun _ h => h
  | cons a l ih =>
    intro s h
    exact ih (fun x hx => hf x (List.mem_cons_of_mem _ hx)) _ (hf a (List.mem_cons_self ..) s h)

@[simp] theorem ifc_true (f : State → State) : s.ifc true f = f s := rfl
@[simp] theorem ifc_false (f : State → State) : s.ifc false f = s := rfl

theorem ifc_ind (P : State → Prop) (c : Bool) (f : State → State) (h : P s) (hf : P s → P (f s)) : P (s.ifc c f) := by
  cases c
  · exact h
  · exact hf h

/-! Free values. -/

@[simp] theorem fresh_fst : (s.fresh).1 = Config.freeValue s.free := rfl
@[simp] theorem fresh_snd : (s.fresh).2 = { s with free := s.free + 1 } := rfl

/-! Interrupts, ports and the digest. -/

/-- An assignable source changes the MSI-X vectors at most. -/
theorem assigned_frame (src : Nat) : { s.assigned src with host := s.host } = s := by
  unfold assigned
  dsimp only
  repeat' split
  all_goals rfl

/-- An interrupt of a status register changes that register and the MSI-X vectors at most. -/
theorem irq_frame (st en v i : Nat) : { s.irq st en v i with regs := s.regs, host := s.host } = s := by
  unfold irq
  dsimp only
  split <;> rfl

theorem irq_regs (st en v i : Nat) : (s.irq st en v i).regs = (s.setB st i).regs := by
  unfold irq
  dsimp only
  split <;> rfl

theorem irq_rd_ne (st en v i : Nat) {q : Nat} (h : q ≠ st) : (s.irq st en v i).rd q = s.rd q := by
  have e : (s.irq st en v i).rd q = (s.setB st i).rd q := by unfold rd; rw [irq_regs]
  rw [e]
  exact rd_wr_ne s _ h

/-- A change of a port changes that port and the MSI-X vectors at most. -/
theorem upPort_frame (p : Port) (f : PortSt → PortSt) : { s.upPort p f with port := s.port, host := s.host } = s := by
  unfold upPort
  dsimp only
  split
  · rfl
  · have h := assigned_frame { s with port := vupd s.port p f } 7
    exact congrArg (fun t : State => { t with port := s.port, host := s.host }) h

/-- An item of the checkpoint window changes the window at most. -/
theorem digItem_frame (k ord rank : Nat) (bytes : List Byte) : { s.digItem k ord rank bytes with twin := s.twin } = s := by
  unfold digItem
  split <;> rfl

/-- LASER_KILL_N is asserted; nothing else changes. -/
theorem assertKill_frame (cause : Nat) : { s.assertKill cause with ldc := s.ldc } = s := by
  unfold assertKill
  split <;> rfl

theorem assertKill_kill (cause : Nat) : (s.assertKill cause).ldc.kill = true := by
  unfold assertKill
  split
  · assumption
  · rfl

/-! Records and the device state. -/

/-- A record changes the recorder, and with a full buffer REC_IRQ_STATUS and its vector. -/
theorem record_frame (ty : Nat) (p : List Byte) :
    { s.record ty p with recd := s.recd, regs := s.regs, host := s.host } = s := by
  unfold record
  dsimp only
  split
  · rfl
  · exact congrArg (fun t : State => { t with recd := s.recd }) (irq_frame _ _ _ _ _)

theorem record_dev (ty : Nat) (p : List Byte) : (s.record ty p).dev = s.dev := by
  have h := congrArg State.dev (record_frame s ty p)
  exact h

theorem record_rd_ne (ty : Nat) (p : List Byte) {q : Nat} (h : q ≠ R.REC_IRQ_STATUS) :
    (s.record ty p).rd q = s.rd q := by
  unfold record
  dsimp only
  split
  · rfl
  · exact irq_rd_ne _ _ _ _ _ h

/-- The recorder's areas and offsets do not change when a record is queued. -/
theorem record_areas (ty : Nat) (p : List Byte) : (s.record ty p).recd.head = s.recd.head ∧
    (s.record ty p).recd.tail = s.recd.tail ∧ (s.record ty p).recd.cairn = s.recd.cairn ∧
    (s.record ty p).recd.frozen = s.recd.frozen := by
  unfold record
  dsimp only
  split
  · exact ⟨rfl, rfl, rfl, rfl⟩
  · unfold irq
    dsimp only
    split <;> exact ⟨rfl, rfl, rfl, rfl⟩

/-- Bringing the device state up to date changes the device, the recorder and what a record may change. -/
theorem refresh_frame (cause : Nat) :
    { s.refresh cause with dev := s.dev, recd := s.recd, regs := s.regs, host := s.host } = s := by
  unfold refresh
  dsimp only
  split
  · rfl
  · exact congrArg (fun t : State => { t with dev := s.dev }) (record_frame _ _ _)

theorem refresh_job (cause : Nat) : (s.refresh cause).job = s.job := by
  have h := congrArg State.job (refresh_frame s cause)
  exact h
theorem refresh_mem (cause : Nat) : (s.refresh cause).mem = s.mem := by
  have h := congrArg State.mem (refresh_frame s cause)
  exact h
theorem refresh_be (cause : Nat) : (s.refresh cause).be = s.be := by
  have h := congrArg State.be (refresh_frame s cause)
  exact h
theorem refresh_hub (cause : Nat) : (s.refresh cause).hub = s.hub := by
  have h := congrArg State.hub (refresh_frame s cause)
  exact h

/-- After it, the device state is the one that R31 gives. -/
theorem refresh_state (cause : Nat) : (s.refresh cause).dev.state = s.devState := by
  unfold refresh
  dsimp only
  split
  · rename_i h
    exact h.symm
  · rw [record_dev]
    rfl

end State

end Sys2Proof.Machine
end

