-- ==== Sys2Proof/Laws/Kept.lean ====
section
/-! SUPPORT. What the operations of the model keep: the queue of waiting commands, and the canonical form of memory and of
registers. One lemma per operation, each from the lemmas of the operations it calls. -/

namespace Sys2Proof.Machine

/-- `t` has the queue of `o`, and its memory and registers are in canonical form where those of `o` are. -/
def Kept (o t : State) : Prop := t.pending = o.pending ∧ (o.memWf → t.memWf) ∧ (o.regsWf → t.regsWf)

theorem Kept.refl (o : State) : Kept o o := ⟨rfl, fun h => h, fun h => h⟩

theorem Kept.trans {o s t : State} (h : Kept o s) (g : Kept s t) : Kept o t :=
  ⟨g.1.trans h.1, fun x => g.2.1 (h.2.1 x), fun x => g.2.2 (h.2.2 x)⟩

theorem Kept.of {o s t : State} (h : Kept o s) (p : t.pending = s.pending) (m : t.mem = s.mem) (r : t.regs = s.regs) :
    Kept o t := by
  refine ⟨p.trans h.1, fun x => ?_, fun x => ?_⟩
  · unfold State.memWf
    rw [m]
    exact h.2.1 x
  · unfold State.regsWf
    rw [r]
    exact h.2.2 x

/-- A change of any field but the queue, memory and registers. -/
theorem Kept.lit {o s : State} (a0 : Nat) (a1 : Nat) (a2 : Dev) (a3 : TimeBase) (a4 : JobBlock) (a5 : (Vector BeamEng 16)) (a6 : (Vector
    Laser 16)) (a7 : LaserCommon) (a8 : (Vector Pcu 16)) (a9 : (Vector Telemetry 2)) (a10 : Ledger) (a11 : Zone)
    (a12 : Fabric) (a13 : (Vector LoopEng 4)) (a14 : (Vector AxisSt 16)) (a15 : MachProg) (a16 : Cal) (a17 :
    (Vector LaneSt 64)) (a18 : (Vector PortSt 35)) (a19 : (List Sent)) (a20 : Twin) (a21 : Hub) (a22 : Recorder)
    (a23 : Power) (a24 : HostIf) (a25 : Mram)
    (h : Kept o s) :
    Kept o ⟨s.pending, a0, a1, a2, s.regs, s.mem, a3, a4, a5, a6, a7, a8, a9, a10, a11, a12, a13, a14, a15, a16,
      a17, a18, a19, a20, a21, a22, a23, a24, a25⟩ :=
  Kept.of h rfl rfl rfl

theorem Kept.each {o s : State} {α : Type} (l : List α) (f : α → State → State)
    (hf : ∀ a t, Kept o t → Kept o (f a t)) (h : Kept o s) : Kept o (s.each l f) :=
  State.each_ind (Kept o) l f (fun a _ t g => hf a t g) s h

theorem Kept.ifc {o s : State} (c : Bool) (f : State → State) (hf : ∀ t, Kept o t → Kept o (f t)) (h : Kept o s) :
    Kept o (s.ifc c f) := State.ifc_ind s (Kept o) c f h fun g => hf s g

theorem Kept.shp {o s : State} (f : State → State) (hf : ∀ t, Kept o t → Kept o (f t)) (h : Kept o s) :
    Kept o (State.shp f s) := by
  unfold State.shp; split
  · exact h
  · exact hf s h

theorem wr_kept {o s : State} (a : Nat) (v : Word) (h : Kept o s) : Kept o (s.wr a v) :=
  ⟨h.1, h.2.1, fun x => State.regsWf_wr (h.2.2 x) a v⟩

theorem wmod_kept {o : State} (x0 : Nat) (x1 : Word → Word) (s : State) (h : Kept o s) : Kept o
    (State.wmod x0 x1 s) := by
  unfold State.wmod
  try dsimp only [State.fresh]
  with_reducible repeat
    (first
     | assumption | split | apply Kept.each | apply Kept.ifc | apply wr_kept | apply Kept.lit | intro _)

theorem setB_kept {o : State} (x0 x1 : Nat) (s : State) (h : Kept o s) : Kept o (State.setB x0 x1 s) := by
  unfold State.setB
  try dsimp only [State.fresh]
  with_reducible repeat
    (first
     | assumption | split | apply Kept.each | apply Kept.ifc | apply wmod_kept | apply Kept.lit | intro _)

theorem clrB_kept {o : State} (x0 x1 : Nat) (s : State) (h : Kept o s) : Kept o (State.clrB x0 x1 s) := by
  unfold State.clrB
  try dsimp only [State.fresh]
  with_reducible repeat
    (first
     | assumption | split | apply Kept.each | apply Kept.ifc | apply wmod_kept | apply Kept.lit | intro _)

theorem setF_kept {o : State} (x0 x1 x2 x3 : Nat) (s : State) (h : Kept o s) : Kept o (State.setF x0 x1 x2 x3 s) := by
  unfold State.setF
  try dsimp only [State.fresh]
  with_reducible repeat
    (first
     | assumption | split | apply Kept.each | apply Kept.ifc | apply wmod_kept | apply Kept.lit | intro _)

theorem count_kept {o : State} (x0 x1 x2 x3 : Nat) (s : State) (h : Kept o s) : Kept o
    (State.count x0 x1 x2 x3 s) := by
  unfold State.count
  try dsimp only [State.fresh]
  with_reducible repeat
    (first
     | assumption | split | apply Kept.each | apply Kept.ifc | apply setF_kept | apply Kept.lit | intro _)

theorem advance_kept {o : State} (x0 x1 x2 : Nat) (s : State) (h : Kept o s) : Kept o (State.advance x0 x1 x2 s) := by
  unfold State.advance
  try dsimp only [State.fresh]
  with_reducible repeat
    (first
     | assumption | split | apply Kept.each | apply Kept.ifc | apply setF_kept | apply Kept.lit | intro _)

theorem upBe_kept {o : State} (x0 : Beam) (x1 : BeamEng → BeamEng) (s : State) (h : Kept o s) : Kept o
    (State.upBe x0 x1 s) := by
  unfold State.upBe
  try dsimp only [State.fresh]
  with_reducible repeat (first | assumption | split | apply Kept.each | apply Kept.ifc | apply Kept.lit | intro _)

theorem upLd_kept {o : State} (x0 : Beam) (x1 : Laser → Laser) (s : State) (h : Kept o s) : Kept o
    (State.upLd x0 x1 s) := by
  unfold State.upLd
  try dsimp only [State.fresh]
  with_reducible repeat (first | assumption | split | apply Kept.each | apply Kept.ifc | apply Kept.lit | intro _)

theorem upPcu_kept {o : State} (x0 : Beam) (x1 : Pcu → Pcu) (s : State) (h : Kept o s) : Kept o
    (State.upPcu x0 x1 s) := by
  unfold State.upPcu
  try dsimp only [State.fresh]
  with_reducible repeat (first | assumption | split | apply Kept.each | apply Kept.ifc | apply Kept.lit | intro _)

theorem upSlot_kept {o : State} (x0 : Slot) (x1 : JobSlot → JobSlot) (s : State) (h : Kept o s) : Kept o
    (State.upSlot x0 x1 s) := by
  unfold State.upSlot
  try dsimp only [State.fresh]
  with_reducible repeat (first | assumption | split | apply Kept.each | apply Kept.ifc | apply Kept.lit | intro _)

theorem upJob_kept {o : State} (x0 : JobBlock → JobBlock) (s : State) (h : Kept o s) : Kept o (State.upJob x0 s) := by
  unfold State.upJob
  try dsimp only [State.fresh]
  with_reducible repeat (first | assumption | split | apply Kept.each | apply Kept.ifc | apply Kept.lit | intro _)

theorem upDev_kept {o : State} (x0 : Dev → Dev) (s : State) (h : Kept o s) : Kept o (State.upDev x0 s) := by
  unfold State.upDev
  try dsimp only [State.fresh]
  with_reducible repeat (first | assumption | split | apply Kept.each | apply Kept.ifc | apply Kept.lit | intro _)

theorem upTime_kept {o : State} (x0 : TimeBase → TimeBase) (s : State) (h : Kept o s) : Kept o
    (State.upTime x0 s) := by
  unfold State.upTime
  try dsimp only [State.fresh]
  with_reducible repeat (first | assumption | split | apply Kept.each | apply Kept.ifc | apply Kept.lit | intro _)

theorem upLdc_kept {o : State} (x0 : LaserCommon → LaserCommon) (s : State) (h : Kept o s) : Kept o
    (State.upLdc x0 s) := by
  unfold State.upLdc
  try dsimp only [State.fresh]
  with_reducible repeat (first | assumption | split | apply Kept.each | apply Kept.ifc | apply Kept.lit | intro _)

theorem upTel_kept {o : State} (x0 : Fin 2) (x1 : Telemetry → Telemetry) (s : State) (h : Kept o s) : Kept o
    (State.upTel x0 x1 s) := by
  unfold State.upTel
  try dsimp only [State.fresh]
  with_reducible repeat (first | assumption | split | apply Kept.each | apply Kept.ifc | apply Kept.lit | intro _)

theorem upLdg_kept {o : State} (x0 : Ledger → Ledger) (s : State) (h : Kept o s) : Kept o (State.upLdg x0 s) := by
  unfold State.upLdg
  try dsimp only [State.fresh]
  with_reducible repeat (first | assumption | split | apply Kept.each | apply Kept.ifc | apply Kept.lit | intro _)

theorem upZone_kept {o : State} (x0 : Zone → Zone) (s : State) (h : Kept o s) : Kept o (State.upZone x0 s) := by
  unfold State.upZone
  try dsimp only [State.fresh]
  with_reducible repeat (first | assumption | split | apply Kept.each | apply Kept.ifc | apply Kept.lit | intro _)

theorem upFab_kept {o : State} (x0 : Fabric → Fabric) (s : State) (h : Kept o s) : Kept o (State.upFab x0 s) := by
  unfold State.upFab
  try dsimp only [State.fresh]
  with_reducible repeat (first | assumption | split | apply Kept.each | apply Kept.ifc | apply Kept.lit | intro _)

theorem upLe_kept {o : State} (x0 : Engine) (x1 : LoopEng → LoopEng) (s : State) (h : Kept o s) : Kept o
    (State.upLe x0 x1 s) := by
  unfold State.upLe
  try dsimp only [State.fresh]
  with_reducible repeat (first | assumption | split | apply Kept.each | apply Kept.ifc | apply Kept.lit | intro _)

theorem upLs_kept {o : State} (x0 : Engine) (x1 : LSlot) (x2 : LeSlot → LeSlot) (s : State) (h : Kept o s) : Kept o
    (State.upLs x0 x1 x2 s) := by
  unfold State.upLs
  try dsimp only [State.fresh]
  with_reducible repeat
    (first
     | assumption | split | apply Kept.each | apply Kept.ifc | apply upLe_kept | apply Kept.lit | intro _)

theorem upAx_kept {o : State} (x0 : Axis) (x1 : AxisSt → AxisSt) (s : State) (h : Kept o s) : Kept o
    (State.upAx x0 x1 s) := by
  unfold State.upAx
  try dsimp only [State.fresh]
  with_reducible repeat (first | assumption | split | apply Kept.each | apply Kept.ifc | apply Kept.lit | intro _)

theorem upCal_kept {o : State} (x0 : Cal → Cal) (s : State) (h : Kept o s) : Kept o (State.upCal x0 s) := by
  unfold State.upCal
  try dsimp only [State.fresh]
  with_reducible repeat (first | assumption | split | apply Kept.each | apply Kept.ifc | apply Kept.lit | intro _)

theorem upHead_kept {o : State} (x0 : Beam) (x1 : CalHead → CalHead) (s : State) (h : Kept o s) : Kept o
    (State.upHead x0 x1 s) := by
  unfold State.upHead
  try dsimp only [State.fresh]
  with_reducible repeat
    (first
     | assumption | split | apply Kept.each | apply Kept.ifc | apply upCal_kept | apply Kept.lit | intro _)

theorem upSrc_kept {o : State} (x0 : Beam) (x1 : CalSource → CalSource) (s : State) (h : Kept o s) : Kept o
    (State.upSrc x0 x1 s) := by
  unfold State.upSrc
  try dsimp only [State.fresh]
  with_reducible repeat
    (first
     | assumption | split | apply Kept.each | apply Kept.ifc | apply upCal_kept | apply Kept.lit | intro _)

theorem upLane_kept {o : State} (x0 : Lane) (x1 : LaneSt → LaneSt) (s : State) (h : Kept o s) : Kept o
    (State.upLane x0 x1 s) := by
  unfold State.upLane
  try dsimp only [State.fresh]
  with_reducible repeat (first | assumption | split | apply Kept.each | apply Kept.ifc | apply Kept.lit | intro _)

theorem upTwin_kept {o : State} (x0 : Twin → Twin) (s : State) (h : Kept o s) : Kept o (State.upTwin x0 s) := by
  unfold State.upTwin
  try dsimp only [State.fresh]
  with_reducible repeat (first | assumption | split | apply Kept.each | apply Kept.ifc | apply Kept.lit | intro _)

theorem upHub_kept {o : State} (x0 : Hub → Hub) (s : State) (h : Kept o s) : Kept o (State.upHub x0 s) := by
  unfold State.upHub
  try dsimp only [State.fresh]
  with_reducible repeat (first | assumption | split | apply Kept.each | apply Kept.ifc | apply Kept.lit | intro _)

theorem upRec_kept {o : State} (x0 : Recorder → Recorder) (s : State) (h : Kept o s) : Kept o (State.upRec x0 s) := by
  unfold State.upRec
  try dsimp only [State.fresh]
  with_reducible repeat (first | assumption | split | apply Kept.each | apply Kept.ifc | apply Kept.lit | intro _)

theorem upPwr_kept {o : State} (x0 : Power → Power) (s : State) (h : Kept o s) : Kept o (State.upPwr x0 s) := by
  unfold State.upPwr
  try dsimp only [State.fresh]
  with_reducible repeat (first | assumption | split | apply Kept.each | apply Kept.ifc | apply Kept.lit | intro _)

theorem upHost_kept {o : State} (x0 : HostIf → HostIf) (s : State) (h : Kept o s) : Kept o (State.upHost x0 s) := by
  unfold State.upHost
  try dsimp only [State.fresh]
  with_reducible repeat (first | assumption | split | apply Kept.each | apply Kept.ifc | apply Kept.lit | intro _)

theorem upMram_kept {o : State} (x0 : Mram → Mram) (s : State) (h : Kept o s) : Kept o (State.upMram x0 s) := by
  unfold State.upMram
  try dsimp only [State.fresh]
  with_reducible repeat (first | assumption | split | apply Kept.each | apply Kept.ifc | apply Kept.lit | intro _)

theorem wrByte_kept {o s : State} (a : Nat) (v : Byte) (h : Kept o s) : Kept o (s.wrByte a v) :=
  ⟨h.1, fun x => State.memWf_wrByte (h.2.1 x) a v, h.2.2⟩

theorem wrBytes_kept (l : List Byte) : ∀ {o s : State} (a : Nat), Kept o s → Kept o (s.wrBytes a l) := by
  induction l with
  | nil => exact fun _ h => h
  | cons v l ih => exact fun a h => ih (a + 1) (wrByte_kept a v h)

theorem Kept.foldl {o : State} {α : Type} (f : State → α → State) (hf : ∀ a t, Kept o t → Kept o (f t a))
    (l : List α) :
    ∀ {s : State}, Kept o s → Kept o (l.foldl f s) := by
  induction l with
  | nil => exact fun h => h
  | cons a l ih => exact fun h => ih (hf a _ h)

theorem memFilter_kept {o s : State} (f : Host.Cell → Bool) (h : Kept o s) : Kept o
    { s with mem := s.mem.filter f } :=
  ⟨h.1, fun x => SparseWf.filter f (h.2.1 x), h.2.2⟩

theorem regsFilter_kept {o s : State} (f : Nat × Word → Bool) (h : Kept o s) : Kept o
    { s with regs := s.regs.filter f } :=
  ⟨h.1, h.2.1, fun x => SparseWf.filter f (h.2.2 x)⟩

theorem Kept.fst {o t : State} {α : Type} {p : State × α} {c : α} (e : p = (t, c)) (h : Kept o p.1) : Kept o t := by
  rw [e] at h
  exact h

theorem Kept.snd {o t : State} {α : Type} {p : α × State} {c : α} (e : p = (c, t)) (h : Kept o p.2) : Kept o t := by
  rw [e] at h
  exact h

theorem Kept.thd {o t : State} {α β : Type} {p : α × β × State} {c : α} {d : β} (e : p = (c, d, t))
    (h : Kept o p.2.2) :
    Kept o t := by
  rw [e] at h
  exact h

theorem wrN_kept {o : State} (x0 x1 x2 : Nat) (s : State) (h : Kept o s) : Kept o (State.wrN x0 x1 x2 s) := by
  unfold State.wrN
  try dsimp only [State.fresh]
  with_reducible repeat
    (first
     | assumption | split | apply Kept.each | apply Kept.ifc | apply wrBytes_kept | apply Kept.lit | intro _)

theorem fresh_kept {o : State} (s : State) (h : Kept o s) : Kept o s.fresh.2 := Kept.of h rfl rfl rfl

theorem msix_kept {o : State} (x0 : Nat) (s : State) (h : Kept o s) : Kept o (State.msix x0 s) := by
  unfold State.msix
  try dsimp only [State.fresh]
  with_reducible repeat
    (first
     | assumption | split | apply Kept.each | apply Kept.ifc | apply upHost_kept | apply Kept.lit | intro _)

theorem assigned_kept {o : State} (x0 : Nat) (s : State) (h : Kept o s) : Kept o (State.assigned x0 s) := by
  unfold State.assigned
  try dsimp only [State.fresh]
  with_reducible repeat
    (first
     | assumption | split | apply Kept.each | apply Kept.ifc | apply msix_kept | apply Kept.lit | intro _)

theorem upPort_kept {o : State} (x0 : Port) (x1 : PortSt → PortSt) (s : State) (h : Kept o s) : Kept o
    (State.upPort x0 x1 s) := by
  unfold State.upPort
  try dsimp only [State.fresh]
  with_reducible repeat
    (first
     | assumption | split | apply Kept.each | apply Kept.ifc | apply assigned_kept | apply Kept.lit | intro _)

theorem irq_kept {o : State} (x0 x1 x2 x3 : Nat) (s : State) (h : Kept o s) : Kept o (State.irq x0 x1 x2 x3 s) := by
  unfold State.irq
  try dsimp only [State.fresh]
  with_reducible repeat
    (first
     | assumption | split | apply Kept.each | apply Kept.ifc | apply setB_kept | apply msix_kept | apply Kept.lit
      | intro _)

theorem send_kept {o : State} (x0 x1 : Nat) (x2 : Bool) (x3 : Nat) (x4 : List Nat) (s : State) (h : Kept o s) : Kept o
    (State.send x0 x1 x2 x3 x4 s) := by
  unfold State.send
  try dsimp only [State.fresh]
  with_reducible repeat (first | assumption | split | apply Kept.each | apply Kept.ifc | apply Kept.lit | intro _)

theorem digItem_kept {o : State} (x0 x1 x2 : Nat) (x3 : List Byte) (s : State) (h : Kept o s) : Kept o
    (State.digItem x0 x1 x2 x3 s) := by
  unfold State.digItem
  try dsimp only [State.fresh]
  with_reducible repeat
    (first
     | assumption | split | apply Kept.each | apply Kept.ifc | apply upTwin_kept | apply Kept.lit | intro _)

theorem report_kept {o : State} (x0 x1 : Nat) (x2 : Word) (s : State) (h : Kept o s) : Kept o
    (State.report x0 x1 x2 s) := by
  unfold State.report
  try dsimp only [State.fresh]
  with_reducible repeat
    (first
     | assumption | split | apply Kept.each | apply Kept.ifc | apply upHub_kept | apply Kept.lit | intro _)

theorem assertKill_kept {o : State} (x0 : Nat) (s : State) (h : Kept o s) : Kept o (State.assertKill x0 s) := by
  unfold State.assertKill
  try dsimp only [State.fresh]
  with_reducible repeat
    (first
     | assumption | split | apply Kept.each | apply Kept.ifc | apply upLdc_kept | apply Kept.lit | intro _)

theorem shpStop_kept {o : State} (s : State) (h : Kept o s) : Kept o (State.shpStop s) := by
  unfold State.shpStop
  try dsimp only [State.fresh]
  with_reducible repeat
    (first
     | assumption | split | apply Kept.each | apply Kept.ifc | apply Kept.shp | apply upDev_kept | apply Kept.lit
      | intro _)

theorem record_kept {o : State} (x0 : Nat) (x1 : List Byte) (s : State) (h : Kept o s) : Kept o
    (State.record x0 x1 s) := by
  unfold State.record
  try dsimp only [State.fresh]
  with_reducible repeat
    (first
     | assumption | split | apply Kept.each | apply Kept.ifc | apply upRec_kept | apply irq_kept | apply Kept.lit
      | intro _)

theorem refresh_kept {o : State} (x0 : Nat) (s : State) (h : Kept o s) : Kept o (State.refresh x0 s) := by
  unfold State.refresh
  try dsimp only [State.fresh]
  with_reducible repeat
    (first
     | assumption | split | apply Kept.each | apply Kept.ifc | apply upDev_kept | apply record_kept | apply Kept.lit
      | intro _)

theorem lawStep_kept {o : State} (x0 : Engine) (x1 : LSlot) (x2 : LInstr) (s : State) (h : Kept o s) : Kept o
    (State.lawStep x0 x1 x2 s) := by
  unfold State.lawStep
  try dsimp only [State.fresh]
  with_reducible repeat
    (first
     | assumption | split | apply Kept.each | apply Kept.ifc | apply upLs_kept | apply Kept.lit | intro _)

theorem upDom_kept {o : State} (x0 : Dom) (x1 : Domain → Domain) (s : State) (h : Kept o s) : Kept o
    (State.upDom x0 x1 s) := by
  unfold State.upDom
  try dsimp only [State.fresh]
  with_reducible repeat
    (first
     | assumption | split | apply Kept.each | apply Kept.ifc | apply upTime_kept | apply Kept.lit | intro _)

theorem fold_kept {o : State} (x0 : Dom) (s : State) (h : Kept o s) : Kept o (State.fold x0 s) := by
  unfold State.fold
  try dsimp only [State.fresh]
  with_reducible repeat
    (first
     | assumption | split | apply Kept.each | apply Kept.ifc | apply upDom_kept | apply wr_kept | apply Kept.lit
      | intro _)

theorem stepDom_kept {o : State} (x0 : Dom) (x1 : ℤ) (s : State) (h : Kept o s) : Kept o (State.stepDom x0 x1 s) := by
  unfold State.stepDom
  try dsimp only [State.fresh]
  with_reducible repeat
    (first
     | assumption | split | apply Kept.each | apply Kept.ifc | apply wr_kept | apply upTime_kept | apply Kept.lit
      | intro _)

theorem setRate_kept {o : State} (x0 : Dom) (x1 : Word) (s : State) (h : Kept o s) : Kept o
    (State.setRate x0 x1 s) := by
  unfold State.setRate
  try dsimp only [State.fresh]
  with_reducible repeat
    (first
     | assumption | split | apply Kept.each | apply Kept.ifc | apply wr_kept | apply fold_kept | apply Kept.lit
      | intro _)

theorem timeMark_kept {o : State} (x0 : Nat) (s : State) (h : Kept o s) : Kept o (State.timeMark x0 s) := by
  unfold State.timeMark
  try dsimp only [State.fresh]
  with_reducible repeat
    (first
     | assumption | split | apply Kept.each | apply Kept.ifc | apply record_kept | apply Kept.lit | intro _)

theorem ledgerOwes_kept {o : State} (x0 x1 : Nat) (s : State) (h : Kept o s) : Kept o (State.ledgerOwes x0 x1 s) := by
  unfold State.ledgerOwes
  try dsimp only [State.fresh]
  with_reducible repeat
    (first
     | assumption | split | apply Kept.each | apply Kept.ifc | apply upLdg_kept | apply Kept.lit | intro _)

theorem cacheRoom_kept {o : State} (x0 : Nat) (s : State) (h : Kept o s) : Kept o (State.cacheRoom x0 s) := by
  unfold State.cacheRoom
  try dsimp only [State.fresh]
  with_reducible repeat
    (first
     | assumption | split | apply Kept.each | apply Kept.ifc | apply upLdg_kept | apply cell_kept | apply wrN_kept
      | apply ledgerOwes_kept | apply Kept.lit | intro _)

theorem cacheFetch_kept {o : State} (x0 x1 : Nat) (s : State) (h : Kept o s) : Kept o (State.cacheFetch x0 x1 s) := by
  unfold State.cacheFetch
  try dsimp only [State.fresh]
  with_reducible repeat
    (first
     | assumption | split | apply Kept.each | apply Kept.ifc | apply cell_kept | apply cacheRoom_kept
      | apply ledgerOwes_kept | apply upLdg_kept | apply Kept.lit | intro _)

theorem cachePut_kept {o : State} (ix : Nat) (w : DWord) (b : Nat) (s : State) (h : Kept o s) :
    Kept o (State.cachePut ix w b s) := upLdg_kept _ _ (cacheFetch_kept _ _ _ h)

theorem cellWrite_kept {o : State} (x0 : Nat) (x1 : DWord) (s : State) (h : Kept o s) : Kept o
    (State.cellWrite x0 x1 s) := by
  unfold State.cellWrite
  try dsimp only [State.fresh]
  with_reducible repeat
    (first
     | assumption | split | apply Kept.each | apply Kept.ifc | apply upLdg_kept | apply wrN_kept | apply Kept.lit
      | intro _)

theorem kernelFetch_kept {o : State} (x0 : Nat) (x1 x2 : Int) (s : State) (h : Kept o s) :
    Kept o (State.kernelFetch x0 x1 x2 s) := by
  unfold State.kernelFetch
  try dsimp only [State.fresh]
  with_reducible repeat
    (first
     | assumption | split | apply Kept.each | apply Kept.ifc | apply cacheFetch_kept | apply Kept.lit | intro _)

theorem keepChange_kept {o : State} (x0 : Change) (s : State) (h : Kept o s) : Kept o (State.keepChange x0 s) := by
  unfold State.keepChange
  try dsimp only [State.fresh]
  with_reducible repeat
    (first
     | assumption | split | apply Kept.each | apply Kept.ifc | apply Kept.shp | apply upLdg_kept | apply Kept.lit
      | intro _)

theorem readOwes_kept {o : State} (x0 : Nat) (x1 : Pt) (s : State) (h : Kept o s) :
    Kept o (State.readOwes x0 x1 s) := by
  unfold State.readOwes
  try dsimp only [State.fresh]
  with_reducible repeat
    (first
     | assumption | split | apply Kept.each | apply Kept.ifc | apply Kept.shp | apply cell_kept
      | apply ledgerOwes_kept | apply Kept.lit | intro _)

theorem depositOne_kept {o : State} (x0 : Beam) (x1 x2 x3 : Nat) (x4 x5 x6 : Bool) (s : State) (h : Kept o s) : Kept o
    (State.depositOne x0 x1 x2 x3 x4 x5 x6 s).1 := by
  unfold State.depositOne
  try dsimp only [State.fresh]
  with_reducible repeat
    (first
     | assumption | split | apply Kept.each | apply Kept.ifc | apply cachePut_kept | apply Kept.lit | intro _)

theorem riseEvent_kept {o : State} (x0 : Beam) (s : State) (h : Kept o s) : Kept o (State.riseEvent x0 s) := by
  unfold State.riseEvent
  try dsimp only [State.fresh]
  with_reducible repeat
    (first
     | assumption | split | apply Kept.each | apply Kept.ifc | apply count_kept | apply report_kept
      | apply upSlot_kept | apply upLdg_kept | apply Kept.lit | intro _)

theorem commitCell_kept {o : State} (x0 : Beam) (x1 : Nat) (x2 x3 x4 : Bool) (s : State) (x5 : Nat × Option Nat)
    (h : Kept o s) : Kept o (State.commitCell x0 x1 x2 x3 x4 s x5).1 := by
  unfold State.commitCell
  try dsimp only [State.fresh]
  with_reducible repeat
    (first
     | assumption | split | apply Kept.each | apply Kept.ifc | apply count_kept | apply depositOne_kept
      | apply riseEvent_kept | apply Kept.lit | intro _ | refine Kept.fst ‹_› ?_)

theorem commitVisit_kept {o : State} (b : Beam) (v : Visit) (s : State) (h : Kept o s) : Kept o
    (s.commitVisit b v) := by
  have go : ∀ (f : State × List Deposit → (Nat × Option Nat) → State × List Deposit),
      (∀ a x, Kept o x.1 → Kept o (f x a).1) → ∀ (l : List (Nat × Option Nat)) (x : State × List Deposit), Kept o x.1 →
        Kept o (l.foldl f x).1 := by
    intro f hf l
    induction l with
    | nil => exact fun _ g => g
    | cons a l ih => exact fun x g => ih _ (hf a x g)
  unfold State.commitVisit
  dsimp only
  split
  · refine count_kept _ _ _ _ _ (Kept.ifc _ _ (fun _ g => report_kept _ _ _ _ g)
      (keepChange_kept _ _ (digItem_kept _ _ _ _ _ (go _ ?_ _ _ h))))
    exact fun _ _ g => commitCell_kept _ _ _ _ _ _ _ g
  · refine keepChange_kept _ _ (digItem_kept _ _ _ _ _ (go _ ?_ _ _ h))
    exact fun _ _ g => commitCell_kept _ _ _ _ _ _ _ g

theorem clearGrid_kept {o : State} (s : State) (h : Kept o s) : Kept o s.clearGrid :=
  upLdg_kept _ _ (memFilter_kept _ h)

theorem flushCache_kept {o : State} (s : State) (h : Kept o s) : Kept o s.flushCache := by
  refine upLdg_kept _ _ (Kept.foldl _ (fun a t g => ?_) _ h)
  split
  · exact wrN_kept _ _ _ _ g
  · exact g

theorem sweepWrite_kept {o : State} (x0 : Nat) (x1 : DWord) (s : State) (h : Kept o s) :
    Kept o (State.sweepWrite x0 x1 s) := by
  unfold State.sweepWrite
  try dsimp only [State.fresh]
  with_reducible repeat
    (first
     | assumption | split | apply Kept.each | apply Kept.ifc | apply Kept.shp | apply cellWrite_kept
      | apply keepChange_kept | apply Kept.lit | intro _)

theorem cellFull_kept {o : State} (x0 x1 : Nat) (s : State) (h : Kept o s) : Kept o (State.cellFull x0 x1 s) := by
  unfold State.cellFull
  try dsimp only [State.fresh]
  with_reducible repeat
    (first
     | assumption | split | apply Kept.each | apply Kept.ifc | apply Kept.shp | apply cellWrite_kept
      | apply upLdg_kept | apply count_kept | apply report_kept | apply Kept.lit | intro _)

theorem failedAgain_kept {o : State} (s : State) (h : Kept o s) : Kept o (State.failedAgain s) := by
  unfold State.failedAgain
  try dsimp only [State.fresh]
  with_reducible repeat
    (first
     | assumption | split | apply Kept.each | apply Kept.ifc | apply Kept.shp | apply cell_kept | apply upLdg_kept
      | apply Kept.lit | intro _)

theorem ldgStart_kept {o : State} (op : Nat) (q : Bool) (f : State → State) (s : State)
    (hf : ∀ t, Kept o t → Kept o (f t)) (h : Kept o s) : Kept o (s.ldgStart op q f) := by
  unfold State.ldgStart
  split
  · exact setB_kept _ _ _ h
  · exact hf _ (upLdg_kept _ _ h)

theorem applyGeo_kept {o : State} (s : State) (h : Kept o s) : Kept o (State.applyGeo s) := by
  unfold State.applyGeo
  try dsimp only [State.fresh]
  with_reducible repeat
    (first
     | assumption | split | apply Kept.each | apply Kept.ifc | apply clearGrid_kept | apply upLdg_kept
      | apply setB_kept | apply Kept.lit | intro _)

theorem importCells_kept {o : State} (s : State) (h : Kept o s) : Kept o s.importCells :=
  Kept.foldl _ (fun _ _ g => wrByte_kept _ _ g) _ (clearGrid_kept _ h)

theorem askStop_kept {o : State} (x0 : Beam) (x1 : Bool) (s : State) (h : Kept o s) : Kept o
    (State.askStop x0 x1 s) := by
  unfold State.askStop
  try dsimp only [State.fresh]
  with_reducible repeat
    (first
     | assumption | split | apply Kept.each | apply Kept.ifc | apply upBe_kept | apply Kept.lit | intro _)

theorem beIllegal_kept {o : State} (x0 : Beam) (s : State) (h : Kept o s) : Kept o (State.beIllegal x0 s) := by
  unfold State.beIllegal
  try dsimp only [State.fresh]
  with_reducible repeat
    (first
     | assumption | split | apply Kept.each | apply Kept.ifc | apply askStop_kept | apply report_kept | apply Kept.lit
      | intro _)

theorem restore_kept {o : State} (l : List (Nat × Word)) (s : State) (h : Kept o s) : Kept o (s.restore l) :=
  Kept.foldl _ (fun _ _ g => wrN_kept _ _ _ _ g) l h

theorem setDec_kept {o : State} (x0 : Beam) (x1 : PState) (s : State) (h : Kept o s) : Kept o
    (State.setDec x0 x1 s) := by
  unfold State.setDec
  try dsimp only [State.fresh]
  with_reducible repeat
    (first
     | assumption | split | apply Kept.each | apply Kept.ifc | apply upBe_kept | apply Kept.lit | intro _)

theorem prune_kept {o : State} (x0 : Beam) (s : State) (h : Kept o s) : Kept o (State.prune x0 s) := by
  unfold State.prune
  try dsimp only [State.fresh]
  with_reducible repeat
    (first
     | assumption | split | apply Kept.each | apply Kept.ifc | apply upBe_kept | apply Kept.lit | intro _)

theorem decode_kept {o : State} (b : Beam) (i : PInstr) (f : Promise → PState → State → State) (s : State)
    (hf : ∀ r p t, Kept o t → Kept o (f r p t)) (h : Kept o s) : Kept o (s.decode b i f) := by
  unfold State.decode
  dsimp only
  split
  · split
    · split
      · exact beIllegal_kept _ _ h
      · split
        · exact h
        · exact upBe_kept _ _ _ (hf _ _ _ h)
    · exact h
  · exact h

theorem decodeP_kept {o : State} (b : Beam) (i : PInstr) (f : PState → PState) (s : State) (h : Kept o s) :
    Kept o (s.decodeP b i f) := decode_kept _ _ _ _ (fun _ _ _ g => setDec_kept _ _ _ g) h

theorem pushStroke_kept {o : State} (x0 : Beam) (x1 : Promise) (x2 : PState) (x3 : Stroke) (x4 : Nat) (s : State)
    (h : Kept o s) : Kept o (State.pushStroke x0 x1 x2 x3 x4 s) := by
  unfold State.pushStroke
  try dsimp only [State.fresh]
  with_reducible repeat
    (first
     | assumption | split | apply Kept.each | apply Kept.ifc | apply upBe_kept | apply Kept.lit | intro _)

theorem decodeStroke_kept {o : State} (x0 : Beam) (x1 : PInstr) (x2 : StrokeKind) (x3 : StrokeArgs) (s : State) (h : Kept o s) :
    Kept o (State.decodeStroke x0 x1 x2 x3 s) := by
  unfold State.decodeStroke
  try dsimp only [State.fresh]
  with_reducible repeat
    (first
     | assumption | split | apply Kept.each | apply Kept.ifc | apply Kept.shp | apply decode_kept | apply prune_kept
      | apply pushStroke_kept | apply readOwes_kept | apply upBe_kept | apply count_kept | apply Kept.lit | intro _)

theorem zoneHalt_kept {o : State} (s : State) (h : Kept o s) : Kept o (State.zoneHalt s) := by
  unfold State.zoneHalt
  try dsimp only [State.fresh]
  with_reducible repeat
    (first
     | assumption | split | apply Kept.each | apply Kept.ifc | apply upZone_kept | apply Kept.lit | intro _)

theorem zoneStop_kept {o : State} (x0 : Beam) (x1 : Bool) (x2 : Nat) (s : State) (h : Kept o s) : Kept o
    (State.zoneStop x0 x1 x2 s) := by
  unfold State.zoneStop
  try dsimp only [State.fresh]
  with_reducible repeat
    (first
     | assumption | split | apply Kept.each | apply Kept.ifc | apply upZone_kept | apply Kept.lit | intro _)

theorem zonePrep_kept {o : State} (x0 : Slot) (x1 : Beam) (s : State) (h : Kept o s) :
    Kept o (State.zonePrep x0 x1 s) := by
  unfold State.zonePrep
  try dsimp only [State.fresh]
  with_reducible repeat
    (first
     | assumption | split | apply Kept.each | apply Kept.ifc | apply upZone_kept | apply Kept.lit | intro _)

theorem zoneLoad_kept {o : State} (x0 : Slot) (s : State) (h : Kept o s) : Kept o (State.zoneLoad x0 s) := by
  unfold State.zoneLoad
  try dsimp only [State.fresh]
  with_reducible repeat
    (first
     | assumption | split | apply Kept.each | apply Kept.ifc | apply upZone_kept | apply wr_kept | apply Kept.lit
      | intro _)

theorem syncBeams_kept {o : State} (x0 : Slot) (s : State) (h : Kept o s) : Kept o (State.syncBeams x0 s) := by
  unfold State.syncBeams
  try dsimp only [State.fresh]
  with_reducible repeat
    (first
     | assumption | split | apply Kept.each | apply Kept.ifc | apply Kept.shp | apply upSlot_kept | apply Kept.lit
      | intro _)

theorem showSlot_kept {o : State} (x0 : Slot) (s : State) (h : Kept o s) : Kept o (State.showSlot x0 s) := by
  unfold State.showSlot
  try dsimp only [State.fresh]
  with_reducible repeat
    (first
     | assumption | split | apply Kept.each | apply Kept.ifc | apply syncBeams_kept | apply wr_kept | apply Kept.lit
      | intro _)

theorem publish_kept {o : State} (x0 : Slot) (s : State) (h : Kept o s) : Kept o (State.publish x0 s) := by
  unfold State.publish
  try dsimp only [State.fresh]
  with_reducible repeat
    (first
     | assumption | split | apply Kept.each | apply Kept.ifc | apply Kept.shp | apply syncBeams_kept
      | apply upSlot_kept | apply showSlot_kept | apply Kept.lit | intro _)

theorem jobRecord_kept {o : State} (x0 : Slot) (s : State) (h : Kept o s) : Kept o (State.jobRecord x0 s) := by
  unfold State.jobRecord
  try dsimp only [State.fresh]
  with_reducible repeat
    (first
     | assumption | split | apply Kept.each | apply Kept.ifc | apply record_kept | apply Kept.lit | intro _)

theorem jobChange_kept {o : State} (x0 : Slot) (x1 : JobSlot → JobSlot) (s : State) (h : Kept o s) : Kept o
    (State.jobChange x0 x1 s) := by
  unfold State.jobChange
  try dsimp only [State.fresh]
  with_reducible repeat
    (first
     | assumption | split | apply Kept.each | apply Kept.ifc | apply irq_kept | apply jobRecord_kept
      | apply publish_kept | apply upSlot_kept | apply syncBeams_kept | apply Kept.lit | intro _)

theorem keepCourse_kept {o : State} (x0 : Beam) (x1 : Nat) (s : State) (h : Kept o s) :
    Kept o (State.keepCourse x0 x1 s) := by
  unfold State.keepCourse
  try dsimp only [State.fresh]
  with_reducible repeat
    (first
     | assumption | split | apply Kept.each | apply Kept.ifc | apply Kept.shp | apply upBe_kept | apply Kept.lit
      | intro _)

theorem zoneDrop_kept {o : State} (x0 : Beam) (s : State) (h : Kept o s) : Kept o (State.zoneDrop x0 s) := by
  unfold State.zoneDrop
  try dsimp only [State.fresh]
  with_reducible repeat
    (first
     | assumption | split | apply Kept.each | apply Kept.ifc | apply upZone_kept | apply Kept.lit | intro _)

theorem freeBeams_kept {o : State} (x0 : Slot) (s : State) (h : Kept o s) : Kept o (State.freeBeams x0 s) := by
  unfold State.freeBeams
  try dsimp only [State.fresh]
  with_reducible repeat
    (first
     | assumption | split | apply Kept.each | apply Kept.ifc | apply keepCourse_kept | apply zoneDrop_kept
      | apply upBe_kept | apply Kept.lit | intro _)

theorem dropStops_kept {o : State} (x0 : Slot) (s : State) (h : Kept o s) : Kept o (State.dropStops x0 s) := by
  unfold State.dropStops
  try dsimp only [State.fresh]
  with_reducible repeat
    (first
     | assumption | split | apply Kept.each | apply Kept.ifc | apply Kept.shp | apply upBe_kept | apply Kept.lit
      | intro _)

theorem unprepare_kept {o : State} (x0 : Slot) (s : State) (h : Kept o s) : Kept o (State.unprepare x0 s) := by
  unfold State.unprepare
  try dsimp only [State.fresh]
  with_reducible repeat
    (first
     | assumption | split | apply Kept.each | apply Kept.ifc | apply restore_kept | apply zoneDrop_kept
      | apply upBe_kept | apply Kept.lit | intro _)

theorem releaseBeams_kept {o : State} (x0 : Slot) (s : State) (h : Kept o s) : Kept o (State.releaseBeams x0 s) := by
  unfold State.releaseBeams
  try dsimp only [State.fresh]
  with_reducible repeat
    (first
     | assumption | split | apply Kept.each | apply Kept.ifc | apply unprepare_kept | apply freeBeams_kept
      | apply Kept.lit | intro _)

theorem withdraw_kept {o : State} (n : Slot) (s : State) (h : Kept o s) : Kept o (State.withdraw n s) :=
  jobChange_kept _ _ _ (releaseBeams_kept _ _ h)

theorem toHolding_kept {o : State} (x0 : Slot) (s : State) (h : Kept o s) : Kept o (State.toHolding x0 s) := by
  unfold State.toHolding
  try dsimp only [State.fresh]
  with_reducible repeat
    (first
     | assumption | split | apply Kept.each | apply Kept.ifc | apply Kept.shp | apply jobChange_kept
      | apply withdraw_kept | apply zoneHalt_kept | apply upTwin_kept | apply Kept.lit | intro _)

theorem ethOut_kept {o : State} (x0 : Fin 2) (x1 x2 x3 : Nat) (x4 : List Nat) (s : State) (h : Kept o s) :
    Kept o (State.ethOut x0 x1 x2 x3 x4 s) := by
  unfold State.ethOut
  try dsimp only [State.fresh]
  with_reducible repeat
    (first
     | assumption | split | apply Kept.each | apply Kept.ifc | apply upTel_kept | apply Kept.lit | intro _)

theorem ethNext_kept {o : State} (x0 : Fin 2) (s : State) (h : Kept o s) : Kept o (State.ethNext x0 s) := by
  unfold State.ethNext
  try dsimp only [State.fresh]
  with_reducible repeat
    (first
     | assumption | split | apply Kept.each | apply Kept.ifc | apply upTel_kept | apply ethOut_kept | apply Kept.lit
      | intro _)

theorem onLanes_kept {o : State} (x0 : List Nat) (x1 : LaneSt → LaneSt) (s : State) (h : Kept o s) : Kept o
    (State.onLanes x0 x1 s) := by
  unfold State.onLanes
  try dsimp only [State.fresh]
  with_reducible repeat (first | assumption | split | apply Kept.each | apply Kept.ifc | apply Kept.lit | intro _)

theorem cfgPost_kept {o : State} (x0 : Port) (x1 : Nat) (s : State) (h : Kept o s) : Kept o
    (State.cfgPost x0 x1 s) := by
  unfold State.cfgPost
  try dsimp only [State.fresh]
  with_reducible repeat
    (first
     | assumption | split | apply Kept.each | apply Kept.ifc | apply upPort_kept | apply setF_kept
      | apply advance_kept | apply Kept.lit | intro _)

theorem portClear_kept {o : State} (x0 : Port) (s : State) (h : Kept o s) : Kept o (State.portClear x0 s) := by
  unfold State.portClear
  try dsimp only [State.fresh]
  with_reducible repeat
    (first
     | assumption | split | apply Kept.each | apply Kept.ifc | apply upPort_kept | apply cfgPost_kept | apply Kept.lit
      | intro _)

theorem portTrain_kept {o : State} (x0 : Port) (x1 : Bool) (s : State) (h : Kept o s) : Kept o
    (State.portTrain x0 x1 s) := by
  unfold State.portTrain
  try dsimp only [State.fresh]
  with_reducible repeat
    (first
     | assumption | split | apply Kept.each | apply Kept.ifc | apply portClear_kept | apply upPort_kept
      | apply onLanes_kept | apply Kept.lit | intro _)

theorem portOff_kept {o : State} (x0 : Port) (s : State) (h : Kept o s) : Kept o (State.portOff x0 s) := by
  unfold State.portOff
  try dsimp only [State.fresh]
  with_reducible repeat
    (first
     | assumption | split | apply Kept.each | apply Kept.ifc | apply upPort_kept | apply onLanes_kept
      | apply portClear_kept | apply Kept.lit | intro _)

theorem portFall_kept {o : State} (x0 : Port) (s : State) (h : Kept o s) : Kept o (State.portFall x0 s) := by
  unfold State.portFall
  try dsimp only [State.fresh]
  with_reducible repeat
    (first
     | assumption | split | apply Kept.each | apply Kept.ifc | apply Kept.shp | apply portClear_kept
      | apply report_kept | apply upPort_kept | apply portTrain_kept | apply Kept.lit | intro _)

theorem portDown_kept {o : State} (x0 : Port) (s : State) (h : Kept o s) : Kept o (State.portDown x0 s) := by
  unfold State.portDown
  try dsimp only [State.fresh]
  with_reducible repeat
    (first
     | assumption | split | apply Kept.each | apply Kept.ifc | apply Kept.shp | apply portFall_kept | apply Kept.lit
      | intro _)

theorem parcelOut_kept {o : State} (x0 : Port) (x1 : Parcel) (s : State) (h : Kept o s) : Kept o
    (State.parcelOut x0 x1 s) := by
  unfold State.parcelOut
  try dsimp only [State.fresh]
  with_reducible repeat
    (first
     | assumption | split | apply Kept.each | apply Kept.ifc | apply send_kept | apply Kept.lit | intro _)

theorem pumpGo_kept {o : State} (p : Port) (k : Nat) : ∀ {s : State}, Kept o s → Kept o (State.pumpGo p k s) := by
  induction k with
  | zero => exact fun h => h
  | succ k ih =>
    intro s h
    unfold State.pumpGo
    dsimp only
    split
    · exact h
    · split
      · exact h
      · exact ih (upPort_kept _ _ _ (parcelOut_kept _ _ _ h))

theorem parcel_kept {o : State} (x0 : Port) (x1 : Nat) (x2 : List Byte) (s : State) (h : Kept o s) : Kept o
    (State.parcel x0 x1 x2 s) := by
  unfold State.parcel
  try dsimp only [State.fresh]
  with_reducible repeat
    (first
     | assumption | split | apply Kept.each | apply Kept.ifc | apply pumpGo_kept | apply upPort_kept | apply Kept.lit
      | intro _)

theorem ackTo_kept {o : State} (x0 : Port) (x1 : Nat) (s : State) (h : Kept o s) : Kept o (State.ackTo x0 x1 s) := by
  unfold State.ackTo
  try dsimp only [State.fresh]
  with_reducible repeat
    (first
     | assumption | split | apply Kept.each | apply Kept.ifc | apply pumpGo_kept | apply upPort_kept | apply Kept.lit
      | intro _)

theorem replay_kept {o : State} (x0 : Port) (s : State) (h : Kept o s) : Kept o (State.replay x0 s) := by
  unfold State.replay
  try dsimp only [State.fresh]
  with_reducible repeat
    (first
     | assumption | split | apply Kept.each | apply Kept.ifc | apply Kept.shp | apply count_kept | apply upPort_kept
      | apply portFall_kept | apply parcelOut_kept | apply Kept.lit | intro _)

theorem sendAck_kept {o : State} (x0 : Port) (x1 : Bool) (s : State) (h : Kept o s) : Kept o
    (State.sendAck x0 x1 s) := by
  unfold State.sendAck
  try dsimp only [State.fresh]
  with_reducible repeat
    (first
     | assumption | split | apply Kept.each | apply Kept.ifc | apply send_kept | apply Kept.lit | intro _)

theorem sendNak_kept {o : State} (x0 : Port) (s : State) (h : Kept o s) : Kept o (State.sendNak x0 s) := by
  unfold State.sendNak
  try dsimp only [State.fresh]
  with_reducible repeat
    (first
     | assumption | split | apply Kept.each | apply Kept.ifc | apply upPort_kept | apply count_kept
      | apply sendAck_kept | apply Kept.lit | intro _)

theorem rxParcel_kept {o : State} (p : Port) (q : Nat) (f : State → State) (s : State)
    (hf : ∀ t, Kept o t → Kept o (f t)) (h : Kept o s) : Kept o (s.rxParcel p q f) := by
  unfold State.rxParcel
  split
  · exact h
  · split
    · exact hf _ (upPort_kept _ _ _ h)
    · split
      · exact count_kept _ _ _ _ _ h
      · exact sendNak_kept _ _ h

theorem cell_kept {o : State} (x0 x1 x2 : Nat) (x3 : List Nat) (s : State) (h : Kept o s) : Kept o
    (State.cell x0 x1 x2 x3 s) := by
  unfold State.cell
  try dsimp only [State.fresh]
  with_reducible repeat
    (first
     | assumption | split | apply Kept.each | apply Kept.ifc | apply send_kept | apply Kept.lit | intro _)

theorem cellAt_kept {o : State} (x0 x1 x2 x3 : Nat) (x4 : List Nat) (s : State) (h : Kept o s) : Kept o
    (State.cellAt x0 x1 x2 x3 x4 s) := by
  unfold State.cellAt
  try dsimp only [State.fresh]
  with_reducible repeat (first | assumption | split | apply Kept.each | apply Kept.ifc | apply Kept.lit | intro _)

theorem telRec_kept {o : State} (x0 : Beam) (x1 : List Byte) (s : State) (h : Kept o s) : Kept o
    (State.telRec x0 x1 s) := by
  unfold State.telRec
  try dsimp only [State.fresh]
  with_reducible repeat
    (first
     | assumption | split | apply Kept.each | apply Kept.ifc | apply upTel_kept | apply Kept.lit | intro _)

theorem sendEmitOff_kept {o : State} (x0 : Beam) (x1 : Nat) (s : State) (h : Kept o s) : Kept o
    (State.sendEmitOff x0 x1 s) := by
  unfold State.sendEmitOff
  try dsimp only [State.fresh]
  with_reducible repeat
    (first
     | assumption | split | apply Kept.each | apply Kept.ifc | apply cell_kept | apply Kept.lit | intro _)

theorem unsend_kept {o : State} (x0 : Sent → Bool) (s : State) (h : Kept o s) : Kept o (State.unsend x0 s) := by
  unfold State.unsend
  try dsimp only [State.fresh]
  with_reducible repeat
    (first
     | assumption | split | apply Kept.each | apply Kept.ifc | apply Kept.lit | intro _)

theorem gateEdge_kept {o : State} (x0 : Beam) (x1 : Int) (x2 : Bool) (s : State) (h : Kept o s) :
    Kept o (State.gateEdge x0 x1 x2 s) := by
  unfold State.gateEdge
  try dsimp only [State.fresh]
  with_reducible repeat
    (first
     | assumption | split | apply Kept.each | apply Kept.ifc | apply unsend_kept | apply upLd_kept
      | apply cellAt_kept | apply Kept.lit | intro _)

theorem gateEdges_kept {o : State} (x0 : Beam) (x1 : Int) (s : State) (h : Kept o s) :
    Kept o (State.gateEdges x0 x1 s) := by
  unfold State.gateEdges
  try dsimp only [State.fresh]
  with_reducible repeat
    (first
     | assumption | split | apply Kept.each | apply Kept.ifc | apply gateEdge_kept | apply Kept.lit | intro _)

theorem gateSync_kept {o : State} (x0 : Beam) (s : State) (h : Kept o s) : Kept o (State.gateSync x0 s) := by
  unfold State.gateSync
  try dsimp only [State.fresh]
  with_reducible repeat
    (first
     | assumption | split | apply Kept.each | apply Kept.ifc | apply gateEdges_kept | apply gateEdge_kept
      | apply Kept.lit | intro _)

theorem gateDown_kept {o : State} (x0 : Beam) (x1 : Int) (s : State) (h : Kept o s) :
    Kept o (State.gateDown x0 x1 s) := by
  unfold State.gateDown
  try dsimp only [State.fresh]
  with_reducible repeat
    (first
     | assumption | split | apply Kept.each | apply Kept.ifc | apply gateEdge_kept | apply Kept.lit | intro _)

theorem cutItems_kept {o : State} (x0 : Beam) (x1 : Int) (s : State) (h : Kept o s) :
    Kept o (State.cutItems x0 x1 s) := by
  unfold State.cutItems
  try dsimp only [State.fresh]
  with_reducible repeat
    (first
     | assumption | split | apply Kept.each | apply Kept.ifc | apply Kept.shp | apply upTwin_kept | apply Kept.lit
      | intro _)

theorem gateItem_kept {o : State} (x0 : Beam) (x1 : Int) (x2 : Bool) (s : State) (h : Kept o s) :
    Kept o (State.gateItem x0 x1 x2 s) := by
  unfold State.gateItem
  try dsimp only [State.fresh]
  with_reducible repeat
    (first
     | assumption | split | apply Kept.each | apply Kept.ifc | apply Kept.shp | apply cutItems_kept
      | apply digItem_kept | apply Kept.lit | intro _)

theorem emitChange_kept {o : State} (x0 : Beam) (x1 : Bool) (s : State) (h : Kept o s) :
    Kept o (State.emitChange x0 x1 s) := by
  unfold State.emitChange
  try dsimp only [State.fresh]
  with_reducible repeat
    (first
     | assumption | split | apply Kept.each | apply Kept.ifc | apply sendEmitOff_kept | apply upLd_kept
      | apply gateSync_kept | apply Kept.lit | intro _)

theorem withEmit_kept {o : State} (f : State → State) (s : State) (hf : ∀ t, Kept o t → Kept o (f t)) (h : Kept o s) :
    Kept o (s.withEmit f) :=
  Kept.each _ _ (fun _ _ g => emitChange_kept _ _ _ g) (hf s h)

theorem kill_kept {o : State} (x0 : Nat) (s : State) (h : Kept o s) : Kept o (State.kill x0 s) := by
  unfold State.kill
  try dsimp only [State.fresh]
  with_reducible repeat
    (first
     | assumption | split | apply Kept.each | apply Kept.ifc | apply withEmit_kept | apply assertKill_kept
      | apply Kept.lit | intro _)

theorem muster_kept {o : State} (x0 : Beam) (x1 x2 x3 : Nat) (s : State) (h : Kept o s) :
    Kept o (State.muster x0 x1 x2 x3 s) := by
  unfold State.muster
  try dsimp only [State.fresh]
  with_reducible repeat
    (first
     | assumption | split | apply Kept.each | apply Kept.ifc | apply cellAt_kept | apply unsend_kept | apply Kept.lit
      | intro _)

theorem lagNote_kept {o : State} (x0 : Beam) (x1 : Nat) (x2 : Bool) (s : State) (h : Kept o s) :
    Kept o (State.lagNote x0 x1 x2 s) := by
  unfold State.lagNote
  try dsimp only [State.fresh]
  with_reducible repeat
    (first
     | assumption | split | apply Kept.each | apply Kept.ifc | apply Kept.shp | apply wr_kept | apply count_kept
      | apply Kept.lit | intro _)

theorem setStroke_kept {o : State} (x0 : Beam) (x1 : Key) (x2 : Stroke → Stroke) (s : State) (h : Kept o s) : Kept o
    (State.setStroke x0 x1 x2 s) := by
  unfold State.setStroke
  try dsimp only [State.fresh]
  with_reducible repeat
    (first
     | assumption | split | apply Kept.each | apply Kept.ifc | apply upBe_kept | apply Kept.lit | intro _)

theorem openIv_kept {o : State} (x0 : Beam) (x1 : GateIv) (s : State) (h : Kept o s) : Kept o
    (State.openIv x0 x1 s) := by
  unfold State.openIv
  try dsimp only [State.fresh]
  with_reducible repeat
    (first
     | assumption | split | apply Kept.each | apply Kept.ifc | apply upBe_kept | apply Kept.lit | intro _)

theorem closeIv_kept {o : State} (x0 : Beam) (x1 : ℤ) (s : State) (h : Kept o s) : Kept o
    (State.closeIv x0 x1 s) := by
  unfold State.closeIv
  try dsimp only [State.fresh]
  with_reducible repeat
    (first
     | assumption | split | apply Kept.each | apply Kept.ifc | apply upBe_kept | apply Kept.lit | intro _)

theorem placeOn_kept {o : State} (x0 : Beam) (x1 : Nat) (x2 : Stroke) (x3 : Int) (s : State) (h : Kept o s) :
    Kept o (State.placeOn x0 x1 x2 x3 s) := by
  unfold State.placeOn
  try dsimp only [State.fresh]
  with_reducible repeat
    (first
     | assumption | split | apply Kept.each | apply Kept.ifc | apply Kept.shp | apply lagNote_kept
      | apply setStroke_kept | apply openIv_kept | apply cutItems_kept | apply gateEdge_kept | apply gateItem_kept
      | apply gateEdges_kept | apply Kept.lit | intro _)

theorem placeOff_kept {o : State} (x0 : Beam) (x1 : Nat) (x2 : Stroke) (x3 : Int) (s : State) (h : Kept o s) :
    Kept o (State.placeOff x0 x1 x2 x3 s) := by
  unfold State.placeOff
  try dsimp only [State.fresh]
  with_reducible repeat
    (first
     | assumption | split | apply Kept.each | apply Kept.ifc | apply lagNote_kept | apply setStroke_kept
      | apply gateDown_kept | apply closeIv_kept | apply gateItem_kept | apply Kept.lit | intro _)

theorem capTrigger_kept {o : State} (x0 : Beam) (x1 : Nat) (s : State) (h : Kept o s) : Kept o
    (State.capTrigger x0 x1 s) := by
  unfold State.capTrigger
  try dsimp only [State.fresh]
  with_reducible repeat
    (first
     | assumption | split | apply Kept.each | apply Kept.ifc | apply upPcu_kept | apply Kept.lit | intro _)

theorem promiseMiss_kept {o : State} (x0 : Nat) (x1 : Beam) (x2 : Nat) (s : State) (h : Kept o s) : Kept o
    (State.promiseMiss x0 x1 x2 s) := by
  unfold State.promiseMiss
  try dsimp only [State.fresh]
  with_reducible repeat
    (first
     | assumption | split | apply Kept.each | apply Kept.ifc | apply report_kept | apply record_kept | apply wr_kept
      | apply Kept.lit | intro _)

theorem chainPart_kept {o : State} (x0 : Beam) (x1 : Stroke) (s : State) (h : Kept o s) : Kept o
    (State.chainPart x0 x1 s) := by
  unfold State.chainPart
  try dsimp only [State.fresh]
  with_reducible repeat
    (first
     | assumption | split | apply Kept.each | apply Kept.ifc | apply upBe_kept | apply Kept.lit | intro _)

theorem gateCut_kept {o : State} (x0 : Beam) (x1 : List GateIv) (s : State) (h : Kept o s) :
    Kept o (State.gateCut x0 x1 s) := by
  unfold State.gateCut
  try dsimp only [State.fresh]
  with_reducible repeat
    (first
     | assumption | split | apply Kept.each | apply Kept.ifc | apply Kept.shp | apply gateItem_kept
      | apply gateEdge_kept | apply Kept.lit | intro _)

theorem keepStop_kept {o : State} (b : Beam) (form j : Nat) (m : StopMove) (fifo : List Stroke) (gates : List GateIv)
    (r : State.Found) (s : State) (h : Kept o s) : Kept o (State.keepStop b form j m fifo gates r s) := by
  obtain ⟨kind, pc, pt, rem, kept, st, i⟩ := r
  exact upBe_kept _ _ _ (gateCut_kept _ _ _ (restore_kept _ _ h))

theorem stopNow_kept {o : State} (x0 : Beam) (x1 x2 : Nat) (s : State) (h : Kept o s) : Kept o
    (State.stopNow x0 x1 x2 s) := by
  unfold State.stopNow
  try dsimp only [State.fresh]
  with_reducible repeat
    (first
     | assumption | split | apply Kept.each | apply Kept.ifc | apply zoneStop_kept | apply keepStop_kept
      | apply Kept.lit | intro _)

theorem stopAtEnd_kept {o : State} (x0 : Beam) (x1 x2 : Nat) (s : State) (h : Kept o s) : Kept o
    (State.stopAtEnd x0 x1 x2 s) := by
  unfold State.stopAtEnd
  try dsimp only [State.fresh]
  with_reducible repeat
    (first
     | assumption | split | apply Kept.each | apply Kept.ifc | apply zoneStop_kept | apply keepStop_kept
      | apply Kept.lit | intro _)

theorem holdDone_kept {o : State} (s : State) (h : Kept o s) : Kept o (State.holdDone s) := by
  unfold State.holdDone
  try dsimp only [State.fresh]
  with_reducible repeat
    (first
     | assumption | split | apply Kept.each | apply Kept.ifc | apply upDev_kept | apply refresh_kept
      | apply toHolding_kept | apply Kept.lit | intro _)

theorem acceptStop_kept {o : State} (x0 : Beam) (x1 : Bool) (s : State) (h : Kept o s) :
    Kept o (State.acceptStop x0 x1 s) := by
  unfold State.acceptStop
  try dsimp only [State.fresh]
  with_reducible repeat
    (first
     | assumption | split | apply Kept.each | apply Kept.ifc | apply upBe_kept | apply stopNow_kept
      | apply stopAtEnd_kept | apply gateCut_kept | apply zoneStop_kept | apply Kept.lit | intro _)

theorem barDone_kept {o : State} (x0 : Slot) (x1 x2 : Nat) (s : State) (h : Kept o s) :
    Kept o (State.barDone x0 x1 x2 s) := by
  unfold State.barDone
  try dsimp only [State.fresh]
  with_reducible repeat
    (first
     | assumption | split | apply Kept.each | apply Kept.ifc | apply Kept.shp | apply upSlot_kept | apply upBe_kept
      | apply Kept.lit | intro _)

theorem axPlan_kept {o : State} (x0 : Axis) (x1 : Nat) (x2 : AxisSt → AxisSt) (s : State) (h : Kept o s) :
    Kept o (State.axPlan x0 x1 x2 s) := by
  unfold State.axPlan
  try dsimp only [State.fresh]
  with_reducible repeat
    (first
     | assumption | split | apply Kept.each | apply Kept.ifc | apply upAx_kept | apply Kept.lit | intro _)

theorem vmaxFit_kept {o : State} (x0 : Axis) (s : State) (h : Kept o s) : Kept o (State.vmaxFit x0 s) := by
  unfold State.vmaxFit
  try dsimp only [State.fresh]
  with_reducible repeat
    (first
     | assumption | split | apply Kept.each | apply Kept.ifc | apply wr_kept | apply Kept.lit | intro _)

theorem axResult_kept {o : State} (x0 : Axis) (x1 : Nat) (s : State) (h : Kept o s) : Kept o
    (State.axResult x0 x1 s) := by
  unfold State.axResult
  try dsimp only [State.fresh]
  with_reducible repeat
    (first
     | assumption | split | apply Kept.each | apply Kept.ifc | apply setF_kept | apply advance_kept | apply Kept.lit
      | intro _)

theorem axCommand_kept {o : State} (n : Axis) (c : Bool) (f : State → State × Nat) (s : State)
    (hf : ∀ t, Kept o t → Kept o (f t).1) (h : Kept o s) : Kept o (s.axCommand n c f) := by
  unfold State.axCommand
  split
  · exact axResult_kept _ _ _ h
  · split
    · exact axResult_kept _ _ _ h
    · exact axResult_kept _ _ _ (hf _ h)

theorem axRem_kept {o : State} (x0 : Axis) (x1 : Option Int) (x2 : Int) (s : State) (h : Kept o s) :
    Kept o (State.axRem x0 x1 x2 s) := by
  unfold State.axRem
  try dsimp only [State.fresh]
  with_reducible repeat
    (first
     | assumption | split | apply Kept.each | apply Kept.ifc | apply wr_kept | apply upAx_kept | apply Kept.lit
      | intro _)

theorem axHalt_kept {o : State} (x0 : Axis) (x1 x2 : Bool) (s : State) (h : Kept o s) :
    Kept o (State.axHalt x0 x1 x2 s) := by
  unfold State.axHalt
  try dsimp only [State.fresh]
  with_reducible repeat
    (first
     | assumption | split | apply Kept.each | apply Kept.ifc | apply axRem_kept | apply axPlan_kept | apply Kept.lit
      | intro _)

theorem axSafe_kept {o : State} (x0 : Axis) (x1 : Int) (s : State) (h : Kept o s) :
    Kept o (State.axSafe x0 x1 s) := by
  unfold State.axSafe
  try dsimp only [State.fresh]
  with_reducible repeat
    (first
     | assumption | split | apply Kept.each | apply Kept.ifc | apply axRem_kept | apply axPlan_kept | apply Kept.lit
      | intro _)

theorem axFinish_kept {o : State} (x0 : Axis) (s : State) (h : Kept o s) : Kept o (State.axFinish x0 s) := by
  unfold State.axFinish
  try dsimp only [State.fresh]
  with_reducible repeat
    (first
     | assumption | split | apply Kept.each | apply Kept.ifc | apply axRem_kept | apply upAx_kept | apply axPlan_kept
      | apply Kept.lit | intro _)

theorem stopAxes_kept {o : State} (x0 : Slot) (x1 : Bool) (s : State) (h : Kept o s) :
    Kept o (State.stopAxes x0 x1 s) := by
  unfold State.stopAxes
  try dsimp only [State.fresh]
  with_reducible repeat
    (first
     | assumption | split | apply Kept.each | apply Kept.ifc | apply Kept.shp | apply axHalt_kept
      | apply axFinish_kept | apply Kept.lit | intro _)

theorem axResumeQueue_kept {o : State} (x0 : Axis) (s : State) (h : Kept o s) : Kept o
    (State.axResumeQueue x0 s) := by
  unfold State.axResumeQueue
  try dsimp only [State.fresh]
  with_reducible repeat
    (first
     | assumption | split | apply Kept.each | apply Kept.ifc | apply upAx_kept | apply Kept.lit | intro _)

theorem axStep_kept {o : State} (x0 : Axis) (s : State) (h : Kept o s) : Kept o (State.axStep x0 s) := by
  unfold State.axStep
  try dsimp only [State.fresh]
  with_reducible repeat
    (first
     | assumption | split | apply Kept.each | apply Kept.ifc | apply upAx_kept | apply Kept.lit | intro _)

theorem pitchDone_kept {o : State} (x0 : Axis) (s : State) (h : Kept o s) : Kept o (State.pitchDone x0 s) := by
  unfold State.pitchDone
  try dsimp only [State.fresh]
  with_reducible repeat
    (first
     | assumption | split | apply Kept.each | apply Kept.ifc | apply axPlan_kept | apply Kept.lit | intro _)

theorem axLimitStop_kept {o : State} (x0 : Axis) (s : State) (h : Kept o s) : Kept o (State.axLimitStop x0 s) := by
  unfold State.axLimitStop
  try dsimp only [State.fresh]
  with_reducible repeat
    (first
     | assumption | split | apply Kept.each | apply Kept.ifc | apply axHalt_kept | apply setB_kept
      | apply report_kept | apply Kept.lit | intro _)

theorem axLimit_kept {o : State} (x0 : Axis) (s : State) (h : Kept o s) : Kept o (State.axLimit x0 s) := by
  unfold State.axLimit
  try dsimp only [State.fresh]
  with_reducible repeat
    (first
     | assumption | split | apply Kept.each | apply Kept.ifc | apply axLimitStop_kept | apply Kept.lit | intro _)

theorem axMiss_kept {o : State} (x0 : Axis) (x1 : Nat) (s : State) (h : Kept o s) :
    Kept o (State.axMiss x0 x1 s) := by
  unfold State.axMiss
  try dsimp only [State.fresh]
  with_reducible repeat
    (first
     | assumption | split | apply Kept.each | apply Kept.ifc | apply Kept.shp | apply report_kept | apply record_kept
      | apply askStop_kept | apply Kept.lit | intro _)

theorem pitchBegun_kept {o : State} (x0 : Slot) (x1 : Axis) (s : State) (h : Kept o s) :
    Kept o (State.pitchBegun x0 x1 s) := by
  unfold State.pitchBegun
  try dsimp only [State.fresh]
  with_reducible repeat
    (first
     | assumption | split | apply Kept.each | apply Kept.ifc | apply Kept.shp | apply upSlot_kept | apply Kept.lit
      | intro _)

theorem machNext_kept {o : State} (x0 : Nat) (s : State) (h : Kept o s) : Kept o (State.machNext x0 s) := by
  unfold State.machNext
  try dsimp only [State.fresh]
  with_reducible repeat (first | assumption | split | apply Kept.each | apply Kept.ifc | apply Kept.lit | intro _)

theorem holdNow_kept {o : State} (x0 : Nat) (s : State) (h : Kept o s) : Kept o (State.holdNow x0 s) := by
  unfold State.holdNow
  try dsimp only [State.fresh]
  with_reducible repeat
    (first
     | assumption | split | apply Kept.each | apply Kept.ifc | apply Kept.shp | apply askStop_kept
      | apply stopAxes_kept | apply upDev_kept | apply toHolding_kept | apply refresh_kept | apply Kept.lit | intro _)

theorem holdAtEnd_kept {o : State} (x0 : Nat) (s : State) (h : Kept o s) : Kept o (State.holdAtEnd x0 s) := by
  unfold State.holdAtEnd
  try dsimp only [State.fresh]
  with_reducible repeat
    (first
     | assumption | split | apply Kept.each | apply Kept.ifc | apply Kept.shp | apply upDev_kept | apply askStop_kept
      | apply stopAxes_kept | apply Kept.lit | intro _)

theorem visitSample_kept {o : State} (x0 : Beam) (x1 : Nat) (x2 : VSample → VSample) (s : State) (h : Kept o s) :
    Kept o (State.visitSample x0 x1 x2 s) := by
  unfold State.visitSample
  try dsimp only [State.fresh]
  with_reducible repeat
    (first
     | assumption | split | apply Kept.each | apply Kept.ifc | apply upLdg_kept | apply Kept.lit | intro _)

theorem rptRun_kept (b : Beam) (k : Nat) : ∀ {o s : State}, Kept o s → Kept o (State.rptRun b k s) := by
  induction k with
  | zero => exact fun h => h
  | succ k ih =>
    intro o s h
    unfold State.rptRun
    dsimp only
    split
    · exact h
    · exact ih (upLd_kept _ _ _ h)
    · exact ih (Kept.ifc _ _ (fun t g => report_kept _ _ _ _ g) (upLd_kept _ _ _ h))

theorem rptSeen_kept {o : State} (b : Beam) (k : Nat) (lost : Bool) (s : State) (h : Kept o s) :
    Kept o (State.rptSeen b k lost s) := rptRun_kept _ _ (upLd_kept _ _ _ h)

theorem rptLost_kept {o : State} (x0 : Beam) (x1 : Nat) (s : State) (h : Kept o s) :
    Kept o (State.rptLost x0 x1 s) := by
  unfold State.rptLost
  try dsimp only [State.fresh]
  with_reducible repeat
    (first
     | assumption | split | apply Kept.each | apply Kept.ifc | apply rptSeen_kept | apply count_kept
      | apply visitSample_kept | apply Kept.lit | intro _)

theorem emitOpen_kept {o : State} (x0 : Beam) (s : State) (h : Kept o s) : Kept o (State.emitOpen x0 s) := by
  unfold State.emitOpen
  try dsimp only [State.fresh]
  with_reducible repeat
    (first
     | assumption | split | apply Kept.each | apply Kept.ifc | apply report_kept | apply setB_kept | apply Kept.lit
      | intro _)

theorem ivEnd_kept {o : State} (x0 : Beam) (s : State) (h : Kept o s) : Kept o (State.ivEnd x0 s) := by
  unfold State.ivEnd
  try dsimp only [State.fresh]
  with_reducible repeat
    (first
     | assumption | split | apply Kept.each | apply Kept.ifc | apply upLd_kept | apply emitOpen_kept | apply Kept.lit
      | intro _)

theorem openCheck_kept {o : State} (x0 : Beam) (x1 : Nat) (x2 : Bool) (s : State) (h : Kept o s) : Kept o
    (State.openCheck x0 x1 x2 s) := by
  unfold State.openCheck
  try dsimp only [State.fresh]
  with_reducible repeat
    (first
     | assumption | split | apply Kept.each | apply Kept.ifc | apply upLd_kept | apply ivEnd_kept | apply Kept.lit
      | intro _)

theorem stuckCheck_kept {o : State} (x0 : Beam) (x1 : Nat) (x2 : Bool) (s : State) (h : Kept o s) : Kept o
    (State.stuckCheck x0 x1 x2 s) := by
  unfold State.stuckCheck
  try dsimp only [State.fresh]
  with_reducible repeat
    (first
     | assumption | split | apply Kept.each | apply Kept.ifc | apply upLd_kept | apply kill_kept | apply report_kept
      | apply setB_kept | apply Kept.lit | intro _)

theorem winResult_kept {o : State} (x0 : Beam) (s : State) (h : Kept o s) : Kept o (State.winResult x0 s) := by
  unfold State.winResult
  try dsimp only [State.fresh]
  with_reducible repeat
    (first
     | assumption | split | apply Kept.each | apply Kept.ifc | apply setF_kept | apply emitOpen_kept
      | apply report_kept | apply Kept.lit | intro _)

theorem ilkLevels_kept {o : State} (x0 x1 : Bool) (s : State) (h : Kept o s) : Kept o (State.ilkLevels x0 x1 s) := by
  unfold State.ilkLevels
  try dsimp only [State.fresh]
  with_reducible repeat
    (first
     | assumption | split | apply Kept.each | apply Kept.ifc | apply upLdc_kept | apply gateSync_kept
      | apply Kept.lit | intro _)

theorem wordOff_kept {o : State} (x0 : Beam) (s : State) (h : Kept o s) : Kept o (State.wordOff x0 s) := by
  unfold State.wordOff
  try dsimp only [State.fresh]
  with_reducible repeat
    (first
     | assumption | split | apply Kept.each | apply Kept.ifc | apply Kept.lit | intro _)

theorem wordsOff_kept {o : State} (s : State) (h : Kept o s) : Kept o (State.wordsOff s) := by
  unfold State.wordsOff
  try dsimp only [State.fresh]
  with_reducible repeat
    (first
     | assumption | split | apply Kept.each | apply Kept.ifc | apply wordOff_kept | apply Kept.lit | intro _)

theorem ilkSet_kept {o : State} (s : State) (h : Kept o s) : Kept o (State.ilkSet s) := by
  unfold State.ilkSet
  try dsimp only [State.fresh]
  with_reducible repeat
    (first
     | assumption | split | apply Kept.each | apply Kept.ifc | apply withEmit_kept | apply upLdc_kept
      | apply wordsOff_kept | apply count_kept | apply Kept.lit | intro _)

theorem ilkLatch_kept {o : State} (s : State) (h : Kept o s) : Kept o (State.ilkLatch s) := by
  unfold State.ilkLatch
  try dsimp only [State.fresh]
  with_reducible repeat
    (first
     | assumption | split | apply Kept.each | apply Kept.ifc | apply ilkSet_kept | apply holdNow_kept | apply Kept.lit
      | intro _)

theorem lockLost_kept {o : State} (x0 : Nat) (s : State) (h : Kept o s) : Kept o (State.lockLost x0 s) := by
  unfold State.lockLost
  try dsimp only [State.fresh]
  with_reducible repeat
    (first
     | assumption | split | apply Kept.each | apply Kept.ifc | apply Kept.shp | apply onLanes_kept
      | apply portDown_kept | apply Kept.lit | intro _)

theorem headerGood_kept {o : State} (x0 : Nat) (x1 : Port) (s : State) (h : Kept o s) :
    Kept o (State.headerGood x0 x1 s) := by
  unfold State.headerGood
  try dsimp only [State.fresh]
  with_reducible repeat
    (first
     | assumption | split | apply Kept.each | apply Kept.ifc | apply Kept.shp | apply onLanes_kept | apply Kept.lit
      | intro _)

theorem headerBad_kept {o : State} (x0 : Nat) (x1 : Port) (s : State) (h : Kept o s) :
    Kept o (State.headerBad x0 x1 s) := by
  unfold State.headerBad
  try dsimp only [State.fresh]
  with_reducible repeat
    (first
     | assumption | split | apply Kept.each | apply Kept.ifc | apply Kept.shp | apply count_kept | apply onLanes_kept
      | apply lockLost_kept | apply Kept.lit | intro _)

theorem countHeaders_kept {o : State} (x0 : Port) (x1 : List RxBlk) (s : State) (h : Kept o s) :
    Kept o (State.countHeaders x0 x1 s) := by
  unfold State.countHeaders
  try dsimp only [State.fresh]
  with_reducible repeat
    (first
     | assumption | split | apply Kept.each | apply Kept.ifc | apply Kept.shp | apply headerBad_kept
      | apply headerGood_kept | apply Kept.lit | intro _)

theorem sendTrain_kept {o : State} (x0 : Lane) (x1 : Port) (s : State) (h : Kept o s) : Kept o
    (State.sendTrain x0 x1 s) := by
  unfold State.sendTrain
  try dsimp only [State.fresh]
  with_reducible repeat
    (first
     | assumption | split | apply Kept.each | apply Kept.ifc | apply send_kept | apply Kept.lit | intro _)

theorem fillTick_kept {o : State} (s : State) (h : Kept o s) : Kept o (State.fillTick s) := by
  unfold State.fillTick
  try dsimp only [State.fresh]
  with_reducible repeat
    (first
     | assumption | split | apply Kept.each | apply Kept.ifc | apply Kept.shp | apply send_kept
      | apply sendTrain_kept | apply Kept.lit | intro _)

theorem countBy_kept {o : State} (x0 x1 x2 x3 : Nat) (s : State) (h : Kept o s) :
    Kept o (State.countBy x0 x1 x2 x3 s) := by
  unfold State.countBy
  try dsimp only [State.fresh]
  with_reducible repeat
    (first
     | assumption | split | apply Kept.each | apply Kept.ifc | apply setF_kept | apply Kept.lit | intro _)

theorem elasticAm_kept {o : State} (x0 : Lane) (x1 : Port) (x2 : Nat) (s : State) (h : Kept o s) :
    Kept o (State.elasticAm x0 x1 x2 s) := by
  unfold State.elasticAm
  try dsimp only [State.fresh]
  with_reducible repeat
    (first
     | assumption | split | apply Kept.each | apply Kept.ifc | apply upLane_kept | apply countBy_kept
      | apply Kept.lit | intro _)

theorem traceDone_kept {o : State} (x0 : Engine) (s : State) (h : Kept o s) : Kept o (State.traceDone x0 s) := by
  unfold State.traceDone
  try dsimp only [State.fresh]
  with_reducible repeat
    (first
     | assumption | split | apply Kept.each | apply Kept.ifc | apply irq_kept | apply setB_kept | apply upLe_kept
      | apply Kept.lit | intro _)

theorem traceTrigger_kept {o : State} (x0 : Engine) (x1 : Nat) (s : State) (h : Kept o s) : Kept o
    (State.traceTrigger x0 x1 s) := by
  unfold State.traceTrigger
  try dsimp only [State.fresh]
  with_reducible repeat
    (first
     | assumption | split | apply Kept.each | apply Kept.ifc | apply traceDone_kept | apply upLe_kept | apply Kept.lit
      | intro _)

theorem traceWrite_kept {o : State} (x0 : Engine) (x1 : Fin 4) (x2 : Nat) (x3 : ℤ) (s : State) (h : Kept o s) : Kept o
    (State.traceWrite x0 x1 x2 x3 s) := by
  unfold State.traceWrite
  try dsimp only [State.fresh]
  with_reducible repeat
    (first
     | assumption | split | apply Kept.each | apply Kept.ifc | apply wrN_kept | apply wr_kept | apply setF_kept
      | apply upLe_kept | apply traceDone_kept | apply Kept.lit | intro _)

theorem traceLevel_kept {o : State} (x0 : Engine) (x1 : Int) (s : State) (h : Kept o s) :
    Kept o (State.traceLevel x0 x1 s) := by
  unfold State.traceLevel
  try dsimp only [State.fresh]
  with_reducible repeat
    (first
     | assumption | split | apply Kept.each | apply Kept.ifc | apply Kept.shp | apply traceTrigger_kept
      | apply Kept.lit | intro _)

theorem traceUpdate_kept {o : State} (x0 : Engine) (x1 : LSlot) (x2 : Nat) (x3 : Byte → State → Int) (s : State) (h : Kept o s) :
    Kept o (State.traceUpdate x0 x1 x2 x3 s) := by
  unfold State.traceUpdate
  try dsimp only [State.fresh]
  with_reducible repeat
    (first
     | assumption | split | apply Kept.each | apply Kept.ifc | apply Kept.shp | apply upLe_kept
      | apply traceLevel_kept | apply traceWrite_kept | apply Kept.lit | intro _)

theorem ownSafe_kept {o : State} (x0 : Engine) (x1 : LSlot) (s : State) (h : Kept o s) :
    Kept o (State.ownSafe x0 x1 s) := by
  unfold State.ownSafe
  try dsimp only [State.fresh]
  with_reducible repeat
    (first
     | assumption | split | apply Kept.each | apply Kept.ifc | apply Kept.shp | apply upHub_kept | apply Kept.lit
      | intro _)

theorem leSafe_kept {o : State} (x0 : Engine) (x1 : LSlot) (x2 : Nat) (s : State) (h : Kept o s) :
    Kept o (State.leSafe x0 x1 x2 s) := by
  unfold State.leSafe
  try dsimp only [State.fresh]
  with_reducible repeat
    (first
     | assumption | split | apply Kept.each | apply Kept.ifc | apply Kept.shp | apply ownSafe_kept | apply upLs_kept
      | apply irq_kept | apply acceptStop_kept | apply holdDone_kept | apply axSafe_kept | apply traceTrigger_kept
      | apply Kept.lit | intro _)

theorem leSource_kept {o : State} (s : State) (x1 : Engine) (x2 : LSlot) (x3 : Nat) (h : Kept o s) : Kept o
    (State.leSource s x1 x2 x3).2 := by
  unfold State.leSource
  try dsimp only [State.fresh]
  with_reducible repeat
    (first
     | assumption | split | apply Kept.each | apply Kept.ifc | apply fresh_kept | apply Kept.lit | intro _
      | refine Kept.snd ‹_› ?_)

theorem leFeedback_kept {o : State} (x0 : Engine) (x1 : LSlot) (x2 : Nat) (s : State) (h : Kept o s) : Kept o
    (State.leFeedback x0 x1 x2 s) := by
  unfold State.leFeedback
  try dsimp only [State.fresh]
  with_reducible repeat
    (first
     | assumption | split | apply Kept.each | apply Kept.ifc | apply upLs_kept | apply count_kept | apply Kept.lit
      | intro _)

theorem leOverrun_kept {o : State} (x0 : Engine) (x1 : LSlot) (x2 x3 : Bool) (s : State) (h : Kept o s) :
    Kept o (State.leOverrun x0 x1 x2 x3 s) := by
  unfold State.leOverrun
  try dsimp only [State.fresh]
  with_reducible repeat
    (first
     | assumption | split | apply Kept.each | apply Kept.ifc | apply Kept.shp | apply count_kept | apply setB_kept
      | apply record_kept | apply report_kept | apply upLs_kept | apply traceTrigger_kept | apply Kept.lit | intro _)

theorem leMarks_kept {o : State} (x0 : Engine) (x1 : LSlot) (x2 x3 x4 : Bool) (s : State) (h : Kept o s) :
    Kept o (State.leMarks x0 x1 x2 x3 x4 s) := by
  unfold State.leMarks
  try dsimp only [State.fresh]
  with_reducible repeat
    (first
     | assumption | split | apply Kept.each | apply Kept.ifc | apply Kept.shp | apply setB_kept | apply Kept.lit
      | intro _)

theorem leReact_kept {o : State} (x0 : Engine) (x1 : LSlot) (x2 x3 x4 : Bool) (s : State) (h : Kept o s) : Kept o
    (State.leReact x0 x1 x2 x3 x4 s) := by
  unfold State.leReact
  try dsimp only [State.fresh]
  with_reducible repeat
    (first
     | assumption | split | apply Kept.each | apply Kept.ifc | apply leSafe_kept | apply report_kept | apply Kept.lit
      | intro _)

theorem leSupervise_kept {o : State} (x0 : Engine) (x1 : LSlot) (x2 x3 : ℤ) (x4 : Bool) (s : State) (h : Kept o s) :
    Kept o (State.leSupervise x0 x1 x2 x3 x4 s) := by
  unfold State.leSupervise
  try dsimp only [State.fresh]
  with_reducible repeat
    (first
     | assumption | split | apply Kept.each | apply Kept.ifc | apply upLs_kept | apply wmod_kept | apply leReact_kept
      | apply leMarks_kept | apply leOverrun_kept | apply Kept.lit | intro _)

theorem leHistory_kept {o : State} (x0 : Engine) (x1 : LSlot) (x2 x3 : Nat) (x4 : ℤ) (x5 : Bool) (s : State)
    (h : Kept o s) : Kept o (State.leHistory x0 x1 x2 x3 x4 x5 s) := by
  unfold State.leHistory
  try dsimp only [State.fresh]
  with_reducible repeat
    (first
     | assumption | split | apply Kept.each | apply Kept.ifc | apply upBe_kept | apply Kept.lit | intro _)

theorem leSend_kept {o : State} (x0 : Engine) (x1 : LSlot) (x2 : Nat) (x3 : ℤ) (s : State) (h : Kept o s) : Kept o
    (State.leSend x0 x1 x2 x3 s) := by
  unfold State.leSend
  try dsimp only [State.fresh]
  with_reducible repeat
    (first
     | assumption | split | apply Kept.each | apply Kept.ifc | apply upLs_kept | apply wr_kept | apply cell_kept
      | apply Kept.lit | intro _)

theorem leRunLaw_kept {o : State} (x0 : Engine) (x1 : LSlot) (x2 : Nat) (x3 : Bool) (x4 : ℤ) (s : State)
    (h : Kept o s) : Kept o (State.leRunLaw x0 x1 x2 x3 x4 s).2.2 := by
  unfold State.leRunLaw
  try dsimp only [State.fresh]
  with_reducible repeat
    (first
     | assumption | split | apply Kept.each | apply Kept.ifc | apply wrBytes_kept | apply upLs_kept | apply wr_kept
      | apply leSupervise_kept | apply Kept.lit | intro _)

theorem leUpdate_kept {o : State} (x0 : Engine) (x1 : LSlot) (x2 x3 : Nat) (s : State) (h : Kept o s) : Kept o
    (State.leUpdate x0 x1 x2 x3 s) := by
  unfold State.leUpdate
  try dsimp only [State.fresh]
  with_reducible repeat
    (first
     | assumption | split | apply Kept.each | apply Kept.ifc | apply upLs_kept | apply leFeedback_kept
      | apply leSource_kept | apply leRunLaw_kept | apply leHistory_kept | apply digItem_kept | apply leSend_kept
      | apply traceUpdate_kept | apply Kept.lit | intro _ | refine Kept.snd ‹_› ?_ | refine Kept.thd ‹_› ?_)

theorem leResult_kept {o : State} (x0 : Engine) (x1 : LSlot) (x2 x3 : Nat) (s : State) (h : Kept o s) : Kept o
    (State.leResult x0 x1 x2 x3 s) := by
  unfold State.leResult
  try dsimp only [State.fresh]
  with_reducible repeat
    (first
     | assumption | split | apply Kept.each | apply Kept.ifc | apply wr_kept | apply irq_kept | apply Kept.lit
      | intro _)

theorem leCommand_kept {o : State} (k : Engine) (l : LSlot) (f : State → State × Nat × Nat) (s : State)
    (hf : ∀ t, Kept o t → Kept o (f t).1) (h : Kept o s) : Kept o (s.leCommand k l f) := by
  unfold State.leCommand
  split
  · exact leResult_kept _ _ _ _ _ (hf _ h)
  · exact h

theorem lawLoad_kept {o : State} (x0 : Engine) (x1 : LSlot) (x2 : Nat) (s : State) (h : Kept o s) : Kept o
    (State.lawLoad x0 x1 x2 s) := by
  unfold State.lawLoad
  try dsimp only [State.fresh]
  with_reducible repeat
    (first
     | assumption | split | apply Kept.each | apply Kept.ifc | apply wrBytes_kept | apply upLs_kept | apply wr_kept
      | apply Kept.lit | intro _)

theorem leStart_kept {o : State} (x0 : Engine) (x1 : LSlot) (s : State) (h : Kept o s) : Kept o
    (State.leStart x0 x1 s) := by
  unfold State.leStart
  try dsimp only [State.fresh]
  with_reducible repeat
    (first
     | assumption | split | apply Kept.each | apply Kept.ifc | apply upLs_kept | apply Kept.lit | intro _)

theorem leOff_kept {o : State} (x0 : Engine) (x1 : LSlot) (s : State) (h : Kept o s) :
    Kept o (State.leOff x0 x1 s) := by
  unfold State.leOff
  try dsimp only [State.fresh]
  with_reducible repeat
    (first
     | assumption | split | apply Kept.each | apply Kept.ifc | apply Kept.shp | apply ownSafe_kept | apply upLs_kept
      | apply Kept.lit | intro _)

theorem calResult_kept {o : State} (x0 x1 : Nat) (s : State) (h : Kept o s) : Kept o (State.calResult x0 x1 s) := by
  unfold State.calResult
  try dsimp only [State.fresh]
  with_reducible repeat
    (first
     | assumption | split | apply Kept.each | apply Kept.ifc | apply irq_kept | apply wr_kept | apply Kept.lit
      | intro _)

theorem calRecord_kept {o : State} (x0 x1 x2 : Nat) (x3 : Word) (s : State) (h : Kept o s) :
    Kept o (State.calRecord x0 x1 x2 x3 s) := by
  unfold State.calRecord
  try dsimp only [State.fresh]
  with_reducible repeat
    (first
     | assumption | split | apply Kept.each | apply Kept.ifc | apply Kept.shp | apply record_kept | apply Kept.lit
      | intro _)

theorem calCommand_kept {o : State} (f : State → State × Nat × Nat) (s : State)
    (hf : ∀ t, Kept o t → Kept o (f t).1) (h : Kept o s) : Kept o (s.calCommand f) := by
  unfold State.calCommand
  split
  · exact h
  · exact calResult_kept _ _ _ (hf _ h)

theorem dlStart_kept {o : State} (s : State) (h : Kept o s) : Kept o (State.dlStart s) := by
  unfold State.dlStart State.shp
  try dsimp only [State.fresh]
  with_reducible repeat
    (first
     | assumption | split | apply Kept.each | apply Kept.ifc | apply Kept.shp | apply upCal_kept | apply Kept.lit
      | intro _)

theorem dlTrigger_kept {o : State} (s : State) (h : Kept o s) : Kept o (State.dlTrigger s) := by
  unfold State.dlTrigger
  try dsimp only [State.fresh]
  with_reducible repeat
    (first
     | assumption | split | apply Kept.each | apply Kept.ifc | apply upCal_kept | apply dlStart_kept | apply Kept.lit
      | intro _)

theorem refLost_kept {o : State} (s : State) (h : Kept o s) : Kept o (State.refLost s) := by
  unfold State.refLost
  try dsimp only [State.fresh]
  with_reducible repeat
    (first
     | assumption | split | apply Kept.each | apply Kept.ifc | apply Kept.shp | apply upCal_kept | apply report_kept
      | apply Kept.lit | intro _)

theorem dlPair_kept {o : State} (x0 : Nat) (x1 : LineMeas) (s : State) (h : Kept o s) : Kept o
    (State.dlPair x0 x1 s) := by
  unfold State.dlPair
  try dsimp only [State.fresh]
  with_reducible repeat
    (first
     | assumption | split | apply Kept.each | apply Kept.ifc | apply count_kept | apply clrB_kept | apply upCal_kept
      | apply setB_kept | apply Kept.lit | intro _)

theorem recalUpdate_kept {o : State} (x0 : Beam) (s : State) (h : Kept o s) : Kept o (State.recalUpdate x0 s) := by
  unfold State.recalUpdate
  try dsimp only [State.fresh]
  with_reducible repeat
    (first
     | assumption | split | apply Kept.each | apply Kept.ifc | apply Kept.shp | apply upHead_kept | apply irq_kept
      | apply Kept.lit | intro _)

theorem recalSlot_kept {o : State} (x0 : Nat) (s : State) (h : Kept o s) : Kept o (State.recalSlot x0 s) := by
  unfold State.recalSlot
  try dsimp only [State.fresh]
  with_reducible repeat
    (first
     | assumption | split | apply Kept.each | apply Kept.ifc | apply recalUpdate_kept | apply Kept.lit | intro _)

theorem setValidity_kept {o : State} (x0 : Nat) (x1 : Bool) (s : State) (h : Kept o s) : Kept o
    (State.setValidity x0 x1 s) := by
  unfold State.setValidity
  try dsimp only [State.fresh]
  with_reducible repeat
    (first
     | assumption | split | apply Kept.each | apply Kept.ifc | apply recalSlot_kept | apply upCal_kept
      | apply Kept.lit | intro _)

theorem promoteNow_kept {o : State} (x0 : Beam) (s : State) (h : Kept o s) : Kept o (State.promoteNow x0 s) := by
  unfold State.promoteNow
  try dsimp only [State.fresh]
  with_reducible repeat
    (first
     | assumption | split | apply Kept.each | apply Kept.ifc | apply recalUpdate_kept | apply upHead_kept
      | apply Kept.lit | intro _)

theorem driftLoad_kept {o : State} (x0 : Beam) (s : State) (h : Kept o s) : Kept o (State.driftLoad x0 s) := by
  unfold State.driftLoad
  try dsimp only [State.fresh]
  with_reducible repeat
    (first
     | assumption | split | apply Kept.each | apply Kept.ifc | apply upHead_kept | apply Kept.lit | intro _)

theorem driftSend_kept {o : State} (x0 : Beam) (s : State) (h : Kept o s) : Kept o (State.driftSend x0 s) := by
  unfold State.driftSend
  try dsimp only [State.fresh]
  with_reducible repeat
    (first
     | assumption | split | apply Kept.each | apply Kept.ifc | apply parcel_kept | apply Kept.lit | intro _)

theorem driftBad_kept {o : State} (x0 : Beam) (s : State) (h : Kept o s) : Kept o (State.driftBad x0 s) := by
  unfold State.driftBad
  try dsimp only [State.fresh]
  with_reducible repeat
    (first
     | assumption | split | apply Kept.each | apply Kept.ifc | apply report_kept | apply setB_kept | apply Kept.lit
      | intro _)

theorem driftGood_kept {o : State} (x0 : Beam) (x1 : Fit) (s : State) (h : Kept o s) :
    Kept o (State.driftGood x0 x1 s) := by
  unfold State.driftGood
  try dsimp only [State.fresh]
  with_reducible repeat
    (first
     | assumption | split | apply Kept.each | apply Kept.ifc | apply Kept.shp | apply wr_kept | apply upHead_kept
      | apply driftSend_kept | apply Kept.lit | intro _)

theorem driftEnd_kept {o : State} (x0 : Beam) (x1 : DriftCheck) (s : State) (h : Kept o s) :
    Kept o (State.driftEnd x0 x1 s) := by
  unfold State.driftEnd
  try dsimp only [State.fresh]
  with_reducible repeat
    (first
     | assumption | split | apply Kept.each | apply Kept.ifc | apply Kept.shp | apply upHead_kept
      | apply driftGood_kept | apply driftBad_kept | apply irq_kept | apply calRecord_kept | apply driftLoad_kept
      | apply calResult_kept | apply Kept.lit | intro _)

theorem checkCut_kept {o : State} (x0 : Beam) (s : State) (h : Kept o s) : Kept o (State.checkCut x0 s) := by
  unfold State.checkCut
  try dsimp only [State.fresh]
  with_reducible repeat
    (first
     | assumption | split | apply Kept.each | apply Kept.ifc | apply upHead_kept | apply setB_kept
      | apply report_kept | apply Kept.lit | intro _)

theorem expoClose_kept {o : State} (x0 : Beam) (x1 : Nat) (s : State) (h : Kept o s) : Kept o
    (State.expoClose x0 x1 s) := by
  unfold State.expoClose
  try dsimp only [State.fresh]
  with_reducible repeat
    (first
     | assumption | split | apply Kept.each | apply Kept.ifc | apply upBe_kept | apply Kept.lit | intro _)

theorem expoAbort_kept {o : State} (x0 : Beam) (s : State) (h : Kept o s) : Kept o (State.expoAbort x0 s) := by
  unfold State.expoAbort
  try dsimp only [State.fresh]
  with_reducible repeat
    (first
     | assumption | split | apply Kept.each | apply Kept.ifc | apply gateItem_kept | apply expoClose_kept
      | apply gateEdge_kept | apply upSrc_kept | apply setB_kept | apply irq_kept | apply Kept.lit | intro _)

theorem accPut_kept {o : State} (x0 : Beam) (x1 x2 x3 : Nat) (s : State) (h : Kept o s) : Kept o
    (State.accPut x0 x1 x2 x3 s) := by
  unfold State.accPut
  try dsimp only [State.fresh]
  with_reducible repeat
    (first
     | assumption | split | apply Kept.each | apply Kept.ifc | apply wr_kept | apply Kept.lit | intro _)

theorem accClear_kept {o : State} (x0 : Beam) (s : State) (h : Kept o s) : Kept o (State.accClear x0 s) := by
  unfold State.accClear
  try dsimp only [State.fresh]
  with_reducible repeat
    (first
     | assumption | split | apply Kept.each | apply Kept.ifc | apply Kept.shp | apply wr_kept | apply upSrc_kept
      | apply Kept.lit | intro _)

theorem miswired_kept {o : State} (x0 : Port) (s : State) (h : Kept o s) : Kept o (State.miswired x0 s) := by
  unfold State.miswired
  try dsimp only [State.fresh]
  with_reducible repeat
    (first
     | assumption | split | apply Kept.each | apply Kept.ifc | apply portTrain_kept | apply report_kept
      | apply setB_kept | apply Kept.lit | intro _)

theorem cfgStart_kept {o : State} (x0 : Port) (x1 x2 x3 : Nat) (x4 : List Word) (x5 : Bool) (s : State)
    (h : Kept o s) : Kept o (State.cfgStart x0 x1 x2 x3 x4 x5 s) := by
  unfold State.cfgStart
  try dsimp only [State.fresh]
  with_reducible repeat
    (first
     | assumption | split | apply Kept.each | apply Kept.ifc | apply parcel_kept | apply upPort_kept | apply Kept.lit
      | intro _)

theorem eqEnd_kept {o : State} (x0 : Port) (s : State) (h : Kept o s) : Kept o (State.eqEnd x0 s) := by
  unfold State.eqEnd
  try dsimp only [State.fresh]
  with_reducible repeat
    (first
     | assumption | split | apply Kept.each | apply Kept.ifc | apply upPort_kept | apply onLanes_kept | apply Kept.lit
      | intro _)

theorem eqAsk_kept {o : State} (x0 : Lane) (s : State) (h : Kept o s) : Kept o (State.eqAsk x0 s) := by
  unfold State.eqAsk
  try dsimp only [State.fresh]
  with_reducible repeat
    (first
     | assumption | split | apply Kept.each | apply Kept.ifc | apply upLane_kept | apply report_kept
      | apply fresh_kept | apply Kept.lit | intro _ | refine Kept.snd ‹_› ?_)

theorem eqBlock_kept {o : State} (x0 : Lane) (x1 : TrainBlk) (s : State) (h : Kept o s) : Kept o
    (State.eqBlock x0 x1 s) := by
  unfold State.eqBlock
  try dsimp only [State.fresh]
  with_reducible repeat
    (first
     | assumption | split | apply Kept.each | apply Kept.ifc | apply upLane_kept | apply eqAsk_kept | apply Kept.lit
      | intro _)

theorem alignCheck_kept {o : State} (x0 : Port) (s : State) (h : Kept o s) : Kept o (State.alignCheck x0 s) := by
  unfold State.alignCheck
  try dsimp only [State.fresh]
  with_reducible repeat
    (first
     | assumption | split | apply Kept.each | apply Kept.ifc | apply miswired_kept | apply cfgStart_kept
      | apply upPort_kept | apply onLanes_kept | apply Kept.lit | intro _)

theorem twinHeard_kept {o : State} (x0 : BitVec 16) (x1 : Nat) (s : State) (h : Kept o s) :
    Kept o (State.twinHeard x0 x1 s) := by
  unfold State.twinHeard
  try dsimp only [State.fresh]
  with_reducible repeat
    (first
     | assumption | split | apply Kept.each | apply Kept.ifc | apply Kept.shp | apply upTwin_kept | apply Kept.lit
      | intro _)

theorem cfgAnswer_kept {o : State} (x0 : Port) (x1 x2 : Nat) (x3 : List Word) (s : State) (h : Kept o s) : Kept o
    (State.cfgAnswer x0 x1 x2 x3 s) := by
  unfold State.cfgAnswer
  try dsimp only [State.fresh]
  with_reducible repeat
    (first
     | assumption | split | apply Kept.each | apply Kept.ifc | apply parcel_kept | apply upPort_kept | apply Kept.lit
      | intro _)

theorem cfgServe_kept {o : State} (p : Port) (q : Nat) (f : State → State) (s : State)
    (hf : ∀ t, Kept o t → Kept o (f t)) (h : Kept o s) : Kept o (s.cfgServe p q f) := by
  unfold State.cfgServe
  split
  · exact h
  · split
    · exact parcel_kept _ _ _ _ h
    · exact hf _ h

theorem identReply_kept {o : State} (x0 : Port) (x1 : Nat) (x2 : List Word) (s : State) (h : Kept o s) : Kept o
    (State.identReply x0 x1 x2 s) := by
  unfold State.identReply
  try dsimp only [State.fresh]
  with_reducible repeat
    (first
     | assumption | split | apply Kept.each | apply Kept.ifc | apply count_kept | apply upPort_kept
      | apply miswired_kept | apply Kept.lit | intro _)

theorem cfgHost_kept {o : State} (x0 : Port) (x1 : Nat) (x2 : List Word) (s : State) (h : Kept o s) : Kept o
    (State.cfgHost x0 x1 x2 s) := by
  unfold State.cfgHost
  try dsimp only [State.fresh]
  with_reducible repeat
    (first
     | assumption | split | apply Kept.each | apply Kept.ifc | apply setF_kept | apply advance_kept
      | apply cfgStart_kept | apply Kept.lit | intro _)

theorem ctl_kept {o : State} (x0 : Nat) (x1 : List Byte) (s : State) (h : Kept o s) : Kept o (State.ctl x0 x1 s) := by
  unfold State.ctl State.shp
  try dsimp only [State.fresh]
  with_reducible repeat
    (first
     | assumption | split | apply Kept.each | apply Kept.ifc | apply Kept.shp | apply parcel_kept | apply Kept.lit
      | intro _)

theorem ctlCmd_kept {o : State} (x0 x1 x2 : Nat) (s : State) (h : Kept o s) : Kept o (State.ctlCmd x0 x1 x2 s) := by
  unfold State.ctlCmd
  try dsimp only [State.fresh]
  with_reducible repeat
    (first
     | assumption | split | apply Kept.each | apply Kept.ifc | apply ctl_kept | apply Kept.lit | intro _)

theorem fwdObject_kept {o : State} (x0 x1 : Nat) (s : State) (h : Kept o s) : Kept o (State.fwdObject x0 x1 s) := by
  unfold State.fwdObject
  try dsimp only [State.fresh]
  with_reducible repeat
    (first
     | assumption | split | apply Kept.each | apply Kept.ifc | apply Kept.shp | apply ctl_kept | apply parcel_kept
      | apply Kept.lit | intro _)

theorem fwdJob_kept {o : State} (x0 : Slot) (s : State) (h : Kept o s) : Kept o (State.fwdJob x0 s) := by
  unfold State.fwdJob
  try dsimp only [State.fresh]
  with_reducible repeat
    (first
     | assumption | split | apply Kept.each | apply Kept.ifc | apply Kept.shp | apply fwdObject_kept | apply Kept.lit
      | intro _)

theorem putCfgDigest_kept {o : State} (s : State) (h : Kept o s) : Kept o (State.putCfgDigest s) := by
  unfold State.putCfgDigest
  try dsimp only [State.fresh]
  with_reducible repeat
    (first
     | assumption | split | apply Kept.each | apply Kept.ifc | apply wr_kept | apply Kept.lit | intro _)

theorem sendCfg_kept {o : State} (s : State) (h : Kept o s) : Kept o (State.sendCfg s) := by
  unfold State.sendCfg
  try dsimp only [State.fresh]
  with_reducible repeat
    (first
     | assumption | split | apply Kept.each | apply Kept.ifc | apply ctl_kept | apply Kept.lit | intro _)

theorem sendAdm_kept {o : State} (x0 : Slot) (x1 x2 : Nat) (x3 : DWord) (s : State) (h : Kept o s) : Kept o
    (State.sendAdm x0 x1 x2 x3 s) := by
  unfold State.sendAdm
  try dsimp only [State.fresh]
  with_reducible repeat
    (first
     | assumption | split | apply Kept.each | apply Kept.ifc | apply ctl_kept | apply Kept.lit | intro _)

theorem askArm_kept {o : State} (x0 : Slot) (x1 : Bool) (s : State) (h : Kept o s) :
    Kept o (State.askArm x0 x1 s) := by
  unfold State.askArm
  try dsimp only [State.fresh]
  with_reducible repeat
    (first
     | assumption | split | apply Kept.each | apply Kept.ifc | apply Kept.shp | apply putCfgDigest_kept
      | apply upTwin_kept | apply sendCfg_kept | apply ctlCmd_kept | apply Kept.lit | intro _)

theorem sendStop_kept {o : State} (x0 : Beam) (s : State) (h : Kept o s) : Kept o (State.sendStop x0 s) := by
  unfold State.sendStop
  try dsimp only [State.fresh]
  with_reducible repeat
    (first
     | assumption | split | apply Kept.each | apply Kept.ifc | apply ctl_kept | apply Kept.lit | intro _)

theorem sendCells_kept {o : State} (x0 : List Nat) (s : State) (h : Kept o s) : Kept o (State.sendCells x0 s) := by
  unfold State.sendCells
  try dsimp only [State.fresh]
  with_reducible repeat
    (first
     | assumption | split | apply Kept.each | apply Kept.ifc | apply Kept.shp | apply parcel_kept | apply Kept.lit
      | intro _)

theorem startScratch_kept {o : State} (n : Slot) (b : Beam) (s : State) (h : Kept o s) : Kept o
    (s.startScratch n b) := by
  unfold State.startScratch
  split
  · exact h
  · exact wrBytes_kept _ _ (memFilter_kept _ h)

theorem jobPost_kept {o : State} (x0 x1 x2 : Nat) (s : State) (h : Kept o s) : Kept o (State.jobPost x0 x1 x2 s) := by
  unfold State.jobPost
  try dsimp only [State.fresh]
  with_reducible repeat
    (first
     | assumption | split | apply Kept.each | apply Kept.ifc | apply setF_kept | apply clrB_kept | apply advance_kept
      | apply Kept.lit | intro _)

theorem unpost_kept {o : State} (s : State) (h : Kept o s) : Kept o (State.unpost s) := by
  unfold State.unpost
  try dsimp only [State.fresh]
  with_reducible repeat
    (first
     | assumption | split | apply Kept.each | apply Kept.ifc | apply Kept.shp | apply setF_kept | apply Kept.lit
      | intro _)

theorem fixS_kept {o : State} (x0 : Slot) (x1 : Nat) (x2 : Option Nat) (x3 : Option Word) (s : State) (h : Kept o s) :
    Kept o (State.fixS x0 x1 x2 x3 s) := by
  unfold State.fixS
  try dsimp only [State.fresh]
  with_reducible repeat
    (first
     | assumption | split | apply Kept.each | apply Kept.ifc | apply upSlot_kept | apply showSlot_kept
      | apply ctl_kept | apply Kept.lit | intro _)

theorem redateSlot_kept {o : State} (x0 : Slot) (s : State) (h : Kept o s) : Kept o (State.redateSlot x0 s) := by
  unfold State.redateSlot
  try dsimp only [State.fresh]
  with_reducible repeat
    (first
     | assumption | split | apply Kept.each | apply Kept.ifc | apply upSlot_kept | apply showSlot_kept
      | apply Kept.lit | intro _)

theorem redate_kept {o : State} (s : State) (h : Kept o s) : Kept o (State.redate s) := by
  unfold State.redate
  try dsimp only [State.fresh]
  with_reducible repeat
    (first
     | assumption | split | apply Kept.each | apply Kept.ifc | apply redateSlot_kept | apply Kept.lit | intro _)

theorem armJob_kept {o : State} (x0 : Slot) (s : State) (h : Kept o s) : Kept o (State.armJob x0 s) := by
  unfold State.armJob
  try dsimp only [State.fresh]
  with_reducible repeat
    (first
     | assumption | split | apply Kept.each | apply Kept.ifc | apply Kept.shp | apply putCfgDigest_kept
      | apply expoAbort_kept | apply jobChange_kept | apply fixS_kept | apply refresh_kept | apply Kept.lit | intro _)

theorem sampleOnly_kept {o : State} (x0 : Nat → Bool) (x1 : Beam) (s : State) (h : Kept o s) :
    Kept o (State.sampleOnly x0 x1 s) := by
  unfold State.sampleOnly
  try dsimp only [State.fresh]
  with_reducible repeat
    (first
     | assumption | split | apply Kept.each | apply Kept.ifc | apply upBe_kept | apply upLd_kept | apply upPcu_kept
      | apply upSrc_kept | apply Kept.lit | intro _)

theorem sampleBeam_kept {o : State} (x0 : Beam) (s : State) (h : Kept o s) : Kept o (State.sampleBeam x0 s) := by
  unfold State.sampleBeam
  try dsimp only [State.fresh]
  with_reducible repeat
    (first
     | assumption | split | apply Kept.each | apply Kept.ifc | apply sampleOnly_kept | apply Kept.lit | intro _)

theorem endHeads_kept {o : State} (x0 : Slot) (x1 : Bool) (s : State) (h : Kept o s) :
    Kept o (State.endHeads x0 x1 s) := by
  unfold State.endHeads
  try dsimp only [State.fresh]
  with_reducible repeat
    (first
     | assumption | split | apply Kept.each | apply Kept.ifc | apply upHead_kept | apply Kept.lit | intro _)

theorem fallbackEnd_kept {o : State} (x0 : Beam) (s : State) (h : Kept o s) : Kept o (State.fallbackEnd x0 s) := by
  unfold State.fallbackEnd
  try dsimp only [State.fresh]
  with_reducible repeat
    (first
     | assumption | split | apply Kept.each | apply Kept.ifc | apply upPcu_kept | apply Kept.lit | intro _)

theorem endJob_kept {o : State} (x0 : Slot) (s : State) (h : Kept o s) : Kept o (State.endJob x0 s) := by
  unfold State.endJob
  try dsimp only [State.fresh]
  with_reducible repeat
    (first
     | assumption | split | apply Kept.each | apply Kept.ifc | apply endHeads_kept | apply fallbackEnd_kept
      | apply zoneHalt_kept | apply freeBeams_kept | apply Kept.lit | intro _)

theorem lateCmds_kept {o : State} (x0 : Slot) (s : State) (h : Kept o s) : Kept o (State.lateCmds x0 s) := by
  unfold State.lateCmds
  try dsimp only [State.fresh]
  with_reducible repeat
    (first
     | assumption | split | apply Kept.each | apply Kept.ifc | apply Kept.shp | apply upTwin_kept
      | apply jobPost_kept | apply Kept.lit | intro _)

theorem commitJob_kept {o : State} (x0 : Slot) (s : State) (h : Kept o s) : Kept o (State.commitJob x0 s) := by
  unfold State.commitJob
  try dsimp only [State.fresh]
  with_reducible repeat
    (first
     | assumption | split | apply Kept.each | apply Kept.ifc | apply Kept.shp | apply upTwin_kept | apply upBe_kept
      | apply jobChange_kept | apply endJob_kept | apply upJob_kept | apply lateCmds_kept | apply refresh_kept
      | apply Kept.lit | intro _)

theorem withdrawBehind_kept {o : State} (x0 : Slot) (s : State) (h : Kept o s) :
    Kept o (State.withdrawBehind x0 s) := by
  unfold State.withdrawBehind
  try dsimp only [State.fresh]
  with_reducible repeat
    (first
     | assumption | split | apply Kept.each | apply Kept.ifc | apply Kept.shp | apply withdraw_kept | apply Kept.lit
      | intro _)

theorem lockSets_kept {o : State} (x0 : Slot) (x1 : Beam) (s : State) (h : Kept o s) :
    Kept o (State.lockSets x0 x1 s) := by
  unfold State.lockSets
  try dsimp only [State.fresh]
  with_reducible repeat
    (first
     | assumption | split | apply Kept.each | apply Kept.ifc | apply Kept.shp | apply upSlot_kept | apply Kept.lit
      | intro _)

theorem checkGone_kept {o : State} (x0 : Beam) (s : State) (h : Kept o s) : Kept o (State.checkGone x0 s) := by
  unfold State.checkGone
  try dsimp only [State.fresh]
  with_reducible repeat
    (first
     | assumption | split | apply Kept.each | apply Kept.ifc | apply Kept.shp | apply upHead_kept
      | apply calResult_kept | apply Kept.lit | intro _)

theorem prepBeam_kept {o : State} (x0 : Slot) (x1 : Beam) (s : State) (h : Kept o s) :
    Kept o (State.prepBeam x0 x1 s) := by
  unfold State.prepBeam
  try dsimp only [State.fresh]
  with_reducible repeat
    (first
     | assumption | split | apply Kept.each | apply Kept.ifc | apply Kept.shp | apply promoteNow_kept
      | apply startScratch_kept | apply zonePrep_kept | apply upHead_kept | apply driftLoad_kept
      | apply checkGone_kept | apply lockSets_kept | apply upBe_kept | apply Kept.lit | intro _)

theorem ledgerStart_kept {o : State} (x0 : Slot) (x1 : Nat) (s : State) (h : Kept o s) : Kept o
    (State.ledgerStart x0 x1 s) := by
  unfold State.ledgerStart
  try dsimp only [State.fresh]
  with_reducible repeat
    (first
     | assumption | split | apply Kept.each | apply Kept.ifc | apply upLdg_kept | apply Kept.lit | intro _)

theorem twinStartWin_kept {o : State} (x0 : Nat) (s : State) (h : Kept o s) : Kept o (State.twinStartWin x0 s) := by
  unfold State.twinStartWin
  try dsimp only [State.fresh]
  with_reducible repeat
    (first
     | assumption | split | apply Kept.each | apply Kept.ifc | apply upTwin_kept | apply Kept.lit | intro _)

theorem startJob_kept {o : State} (x0 : Slot) (x1 : Nat) (s : State) (h : Kept o s) :
    Kept o (State.startJob x0 x1 s) := by
  unfold State.startJob
  try dsimp only [State.fresh]
  with_reducible repeat
    (first
     | assumption | split | apply Kept.each | apply Kept.ifc | apply sampleBeam_kept | apply upPcu_kept
      | apply checkCut_kept | apply upBe_kept | apply wr_kept | apply ledgerStart_kept | apply zoneLoad_kept
      | apply axResumeQueue_kept | apply upAx_kept | apply twinStartWin_kept | apply traceTrigger_kept
      | apply jobChange_kept | apply upJob_kept | apply refresh_kept | apply Kept.lit | intro _)

theorem axesBar_kept {o : State} (x0 : Slot) (s : State) (h : Kept o s) : Kept o (State.axesBar x0 s) := by
  unfold State.axesBar
  try dsimp only [State.fresh]
  with_reducible repeat
    (first
     | assumption | split | apply Kept.each | apply Kept.ifc | apply Kept.shp | apply upSlot_kept
      | apply withdraw_kept | apply refresh_kept | apply Kept.lit | intro _)

theorem startRun_kept {o : State} (x0 : Slot) (x1 : Nat) (s : State) (h : Kept o s) :
    Kept o (State.startRun x0 x1 s) := by
  unfold State.startRun
  try dsimp only [State.fresh]
  with_reducible repeat
    (first
     | assumption | split | apply Kept.each | apply Kept.ifc | apply Kept.shp | apply axesBar_kept
      | apply startJob_kept | apply holdNow_kept | apply Kept.lit | intro _)

theorem startDue_kept {o : State} (s : State) (h : Kept o s) : Kept o (State.startDue s) := by
  unfold State.startDue
  try dsimp only [State.fresh]
  with_reducible repeat
    (first
     | assumption | split | apply Kept.each | apply Kept.ifc | apply startRun_kept | apply Kept.lit | intro _)

theorem opSubmit_kept {o : State} (n : Slot) (s : State) (h : Kept o s) :
    Kept o ((s.opSubmit n).1) := by
  unfold State.opSubmit
  try dsimp only [State.fresh]
  with_reducible repeat
    (first
     | assumption | split | apply Kept.each | apply Kept.ifc
      | apply upJob_kept
      | apply jobChange_kept
      | apply upPwr_kept
      | apply Kept.lit | intro _)

theorem reAnalyse_kept {o : State} (x0 : Slot) (s : State) (h : Kept o s) : Kept o (State.reAnalyse x0 s) := by
  unfold State.reAnalyse
  try dsimp only [State.fresh]
  with_reducible repeat
    (first
     | assumption | split | apply Kept.each | apply Kept.ifc | apply upPwr_kept | apply jobChange_kept
      | apply upJob_kept | apply refresh_kept | apply Kept.lit | intro _)

theorem opArm_kept {o : State} (x0 : Slot) (s : State) (h : Kept o s) : Kept o (State.opArm x0 s).1 := by
  unfold State.opArm
  try dsimp only [State.fresh]
  with_reducible repeat
    (first
     | assumption | split | apply Kept.each | apply Kept.ifc | apply reAnalyse_kept | apply armJob_kept
      | apply Kept.lit | intro _)

theorem opDisarm_kept {o : State} (n : Slot) (s : State) (h : Kept o s) : Kept o (s.opDisarm n).1 := by
  unfold State.opDisarm
  split
  · exact h
  · exact refresh_kept _ _ (withdraw_kept _ _ (endHeads_kept _ _ _ h))

theorem dropKept_kept {o : State} (x0 : Slot) (s : State) (h : Kept o s) : Kept o (State.dropKept x0 s) := by
  unfold State.dropKept
  try dsimp only [State.fresh]
  with_reducible repeat
    (first
     | assumption | split | apply Kept.each | apply Kept.ifc | apply upAx_kept | apply Kept.lit | intro _)

theorem opAbort_kept {o : State} (n : Slot) (s : State) (h : Kept o s) :
    Kept o ((s.opAbort n).1) := by
  unfold State.opAbort
  try dsimp only [State.fresh]
  with_reducible repeat
    (first
     | assumption | split | apply Kept.each | apply Kept.ifc
      | apply refresh_kept
      | apply jobChange_kept
      | apply upJob_kept
      | apply endJob_kept
      | apply dropKept_kept
      | apply freeBeams_kept
      | apply endHeads_kept
      | apply acceptStop_kept
      | apply stopAxes_kept
      | apply upTwin_kept
      | apply upDev_kept
      | apply withdrawBehind_kept
      | apply dropStops_kept
      | apply Kept.lit | intro _)

theorem opResume_kept {o : State} (n : Slot) (s : State) (h : Kept o s) :
    Kept o ((s.opResume n).1) := by
  unfold State.opResume
  try dsimp only [State.fresh]
  with_reducible repeat
    (first
     | assumption | split | apply Kept.each | apply Kept.ifc
      | apply refresh_kept
      | apply upJob_kept
      | apply jobChange_kept
      | apply upPwr_kept
      | apply keepCourse_kept
      | apply Kept.lit | intro _)

theorem opRelease_kept {o : State} (n : Slot) (s : State) (h : Kept o s) :
    Kept o ((s.opRelease n).1) := by
  unfold State.opRelease
  try dsimp only [State.fresh]
  with_reducible repeat
    (first
     | assumption | split | apply Kept.each | apply Kept.ifc
      | apply refresh_kept
      | apply jobChange_kept
      | apply endJob_kept
      | apply dropKept_kept
      | apply freeBeams_kept
      | apply dropStops_kept
      | apply Kept.lit | intro _)

theorem startEvent_kept {o : State} (x0 : Slot) (x1 : Nat) (s : State) (h : Kept o s) :
    Kept o (State.startEvent x0 x1 s) := by
  unfold State.startEvent
  try dsimp only [State.fresh]
  with_reducible repeat
    (first
     | assumption | split | apply Kept.each | apply Kept.ifc | apply upSlot_kept | apply showSlot_kept
      | apply fixS_kept | apply Kept.lit | intro _)

theorem opGo_kept {o : State} (x0 : Slot) (s : State) (h : Kept o s) : Kept o (State.opGo x0 s).1 := by
  unfold State.opGo
  try dsimp only [State.fresh]
  with_reducible repeat
    (first
     | assumption | split | apply Kept.each | apply Kept.ifc | apply startEvent_kept | apply Kept.lit | intro _)

theorem opHold_kept {o : State} (x0 : Slot) (s : State) (h : Kept o s) : Kept o (State.opHold x0 s).1 := by
  unfold State.opHold
  try dsimp only [State.fresh]
  with_reducible repeat
    (first
     | assumption | split | apply Kept.each | apply Kept.ifc | apply upDev_kept | apply holdAtEnd_kept
      | apply Kept.lit | intro _)

theorem jobDo_kept {o : State} (x0 : Nat) (x1 : Slot) (s : State) (h : Kept o s) : Kept o
    (State.jobDo x0 x1 s).1 := by
  unfold State.jobDo
  try dsimp only [State.fresh]
  with_reducible repeat
    (first
     | assumption | split | apply Kept.each | apply Kept.ifc | apply startDue_kept | apply opHold_kept | apply opSubmit_kept
      | apply opArm_kept | apply opDisarm_kept | apply opAbort_kept | apply opResume_kept | apply opRelease_kept
      | apply opGo_kept | apply Kept.lit | intro _ | refine Kept.fst ‹_› ?_)

theorem cellsSince_kept {o : State} (x0 : Slot) (s : State) (h : Kept o s) : Kept o (State.cellsSince x0 s) := by
  unfold State.cellsSince
  try dsimp only [State.fresh]
  with_reducible repeat
    (first
     | assumption | split | apply Kept.each | apply Kept.ifc | apply Kept.shp | apply cell_kept
      | apply sendCells_kept | apply Kept.lit | intro _)

theorem jobPair_kept {o : State} (x0 : Nat) (x1 : Slot) (s : State) (h : Kept o s) :
    Kept o (State.jobPair x0 x1 s) := by
  unfold State.jobPair
  try dsimp only [State.fresh]
  with_reducible repeat
    (first
     | assumption | split | apply Kept.each | apply Kept.ifc | apply Kept.shp | apply upTwin_kept | apply setB_kept
      | apply ctlCmd_kept | apply askArm_kept | apply jobDo_kept | apply jobPost_kept | apply fwdJob_kept
      | apply sendStop_kept | apply cellsSince_kept | apply Kept.lit | intro _)

theorem jobIssue_kept {o : State} (x0 : Nat) (x1 : Slot) (s : State) (h : Kept o s) :
    Kept o (State.jobIssue x0 x1 s) := by
  unfold State.jobIssue
  try dsimp only [State.fresh]
  with_reducible repeat
    (first
     | assumption | split | apply Kept.each | apply Kept.ifc | apply Kept.shp | apply setB_kept | apply wr_kept
      | apply jobPost_kept | apply jobPair_kept | apply jobDo_kept | apply unpost_kept | apply Kept.lit | intro _)

theorem autoFails_kept {o : State} (x0 : Slot) (x1 : Nat) (s : State) (h : Kept o s) :
    Kept o (State.autoFails x0 x1 s) := by
  unfold State.autoFails
  try dsimp only [State.fresh]
  with_reducible repeat
    (first
     | assumption | split | apply Kept.each | apply Kept.ifc | apply Kept.shp | apply upSlot_kept
      | apply showSlot_kept | apply Kept.lit | intro _)

theorem autoArm_kept {o : State} (x0 : Slot) (s : State) (h : Kept o s) : Kept o (State.autoArm x0 s) := by
  unfold State.autoArm
  try dsimp only [State.fresh]
  with_reducible repeat
    (first
     | assumption | split | apply Kept.each | apply Kept.ifc | apply Kept.shp | apply opArm_kept | apply ctlCmd_kept
      | apply upSlot_kept | apply askArm_kept | apply autoFails_kept | apply Kept.lit | intro _)

theorem leaveWalk_kept {o : State} (x0 : Slot) (x1 : Analysis) (s : State) (h : Kept o s) : Kept o
    (State.leaveWalk x0 x1 s) := by
  unfold State.leaveWalk
  try dsimp only [State.fresh]
  with_reducible repeat
    (first
     | assumption | split | apply Kept.each | apply Kept.ifc | apply upSlot_kept | apply upJob_kept | apply Kept.lit
      | intro _)

theorem reject_kept {o : State} (x0 : Slot) (x1 : Analysis) (x2 : Nat) (x3 : Word) (x4 : Nat) (s : State)
    (h : Kept o s) : Kept o (State.reject x0 x1 x2 x3 x4 s) := by
  unfold State.reject
  try dsimp only [State.fresh]
  with_reducible repeat
    (first
     | assumption | split | apply Kept.each | apply Kept.ifc | apply jobChange_kept | apply leaveWalk_kept
      | apply refresh_kept | apply Kept.lit | intro _)

theorem accept_kept {o : State} (x0 : Slot) (x1 : Analysis) (s : State) (h : Kept o s) : Kept o
    (State.accept x0 x1 s) := by
  unfold State.accept
  try dsimp only [State.fresh]
  with_reducible repeat
    (first
     | assumption | split | apply Kept.each | apply Kept.ifc | apply refresh_kept | apply jobChange_kept
      | apply leaveWalk_kept | apply autoArm_kept | apply ctlCmd_kept | apply sendCfg_kept | apply upSlot_kept
      | apply publish_kept | apply Kept.lit | intro _ | refine Kept.fst ‹_› ?_)

theorem finishWalk_kept {o : State} (x0 : Slot) (x1 : Analysis) (x2 : Promise) (s : State) (h : Kept o s) :
    Kept o (State.finishWalk x0 x1 x2 s) := by
  unfold State.finishWalk
  try dsimp only [State.fresh]
  with_reducible repeat
    (first
     | assumption | split | apply Kept.each | apply Kept.ifc | apply Kept.shp | apply upSlot_kept
      | apply showSlot_kept | apply accept_kept | apply reject_kept | apply ctlCmd_kept | apply sendAdm_kept
      | apply Kept.lit | intro _)

theorem endWalk_kept {o : State} (x0 : Slot) (x1 : Analysis) (s : State) (h : Kept o s) :
    Kept o (State.endWalk x0 x1 s) := by
  unfold State.endWalk
  try dsimp only [State.fresh]
  with_reducible repeat
    (first
     | assumption | split | apply Kept.each | apply Kept.ifc | apply Kept.shp | apply reject_kept
      | apply sendAdm_kept | apply ctlCmd_kept | apply finishWalk_kept | apply Kept.lit | intro _)

theorem walkOn_kept {o : State} (x0 : Slot) (s : State) (h : Kept o s) : Kept o (State.walkOn x0 s) := by
  unfold State.walkOn
  try dsimp only [State.fresh]
  with_reducible repeat
    (first
     | assumption | split | apply Kept.each | apply Kept.ifc | apply upSlot_kept | apply showSlot_kept
      | apply publish_kept | apply Kept.lit | intro _)

theorem pcuIntake_kept {o : State} (x0 : Beam) (x1 : Nat) (x2 : Bool) (s : State) (h : Kept o s) : Kept o
    (State.pcuIntake x0 x1 x2 s).1 := by
  unfold State.pcuIntake
  try dsimp only [State.fresh]
  with_reducible repeat
    (first
     | assumption | split | apply Kept.each | apply Kept.ifc | apply upPcu_kept | apply count_kept | apply Kept.lit
      | intro _)

theorem enterFallback_kept {o : State} (x0 : Beam) (x1 x2 : Nat) (s : State) (h : Kept o s) : Kept o
    (State.enterFallback x0 x1 x2 s) := by
  unfold State.enterFallback
  try dsimp only [State.fresh]
  with_reducible repeat
    (first
     | assumption | split | apply Kept.each | apply Kept.ifc | apply upPcu_kept | apply report_kept | apply setB_kept
      | apply capTrigger_kept | apply count_kept | apply Kept.lit | intro _)

theorem pcuDetect_kept {o : State} (x0 : Beam) (x1 x2 x3 : Bool) (s : State) (h : Kept o s) : Kept o
    (State.pcuDetect x0 x1 x2 x3 s) := by
  unfold State.pcuDetect
  try dsimp only [State.fresh]
  with_reducible repeat
    (first
     | assumption | split | apply Kept.each | apply Kept.ifc | apply enterFallback_kept | apply upPcu_kept
      | apply Kept.lit | intro _)

theorem fetchAhead_kept {o : State} (x0 : Beam) (x1 : Nat) (s : State) (h : Kept o s) :
    Kept o (State.fetchAhead x0 x1 s) := by
  unfold State.fetchAhead
  try dsimp only [State.fresh]
  with_reducible repeat
    (first
     | assumption | split | apply Kept.each | apply Kept.ifc | apply Kept.shp | apply kernelFetch_kept
      | apply Kept.lit | intro _)

theorem deposit_kept {o : State} (x0 : Beam) (x1 x2 : Nat) (x3 : Bool) (s : State) (h : Kept o s) :
    Kept o (State.deposit x0 x1 x2 x3 s) := by
  unfold State.deposit
  try dsimp only [State.fresh]
  with_reducible repeat
    (first
     | assumption | split | apply Kept.each | apply Kept.ifc | apply kernelFetch_kept | apply upLdg_kept
      | apply Kept.lit | intro _)

theorem noDeposit_kept {o : State} (x0 : Beam) (s : State) (h : Kept o s) : Kept o (State.noDeposit x0 s) := by
  unfold State.noDeposit
  try dsimp only [State.fresh]
  with_reducible repeat
    (first
     | assumption | split | apply Kept.each | apply Kept.ifc | apply upLdg_kept | apply Kept.lit | intro _)

theorem pcuExposure_kept {o : State} (x0 : Beam) (x1 : Bool) (x2 : Nat) (x3 : Prof) (s : State) (h : Kept o s) :
    Kept o (State.pcuExposure x0 x1 x2 x3 s) := by
  unfold State.pcuExposure
  try dsimp only [State.fresh]
  with_reducible repeat
    (first
     | assumption | split | apply Kept.each | apply Kept.ifc | apply upPcu_kept | apply Kept.lit | intro _)

theorem pcuForm_kept {o : State} (x0 : Beam) (x1 : Nat) (x2 : Nominal) (x3 x4 x5 : Bool) (s : State) (h : Kept o s) :
    Kept o (State.pcuForm x0 x1 x2 x3 x4 x5 s).1 := by
  unfold State.pcuForm
  try dsimp only [State.fresh]
  with_reducible repeat
    (first
     | assumption | split | apply Kept.each | apply Kept.ifc | apply upPcu_kept | apply pcuExposure_kept
      | apply upSlot_kept | apply Kept.lit | intro _)

theorem powerWord_kept {o : State} (x0 : Beam) (x1 x2 : Nat) (x3 : Bool) (s : State) (h : Kept o s) : Kept o
    (State.powerWord x0 x1 x2 x3 s) := by
  unfold State.powerWord
  try dsimp only [State.fresh]
  with_reducible repeat
    (first
     | assumption | split | apply Kept.each | apply Kept.ifc | apply upLd_kept | apply digItem_kept | apply cellAt_kept
      | apply Kept.lit | intro _)

theorem sampleRec_kept {o : State} (x0 : Beam) (x1 : Nat) (x2 : Bool) (s : State) (h : Kept o s) : Kept o
    (State.sampleRec x0 x1 x2 s) := by
  unfold State.sampleRec
  try dsimp only [State.fresh]
  with_reducible repeat
    (first
     | assumption | split | apply Kept.each | apply Kept.ifc | apply telRec_kept | apply Kept.lit | intro _)

theorem pcuDeposit_kept {o : State} (x0 : Beam) (x1 : Nat) (x2 : Nominal) (x3 : Option (Nat × Nat)) (s : State)
    (h : Kept o s) : Kept o (State.pcuDeposit x0 x1 x2 x3 s) := by
  unfold State.pcuDeposit
  try dsimp only [State.fresh]
  with_reducible repeat
    (first
     | assumption | split | apply Kept.each | apply Kept.ifc | apply deposit_kept | apply noDeposit_kept
      | apply Kept.lit | intro _)

theorem pcuStore_kept {o : State} (x0 : Beam) (x1 : Nat) (x2 : Nominal) (x3 : State.PcuOut) (s : State) (h : Kept o s) :
    Kept o (State.pcuStore x0 x1 x2 x3 s) := by
  unfold State.pcuStore
  try dsimp only [State.fresh]
  with_reducible repeat
    (first
     | assumption | split | apply Kept.each | apply Kept.ifc | apply Kept.shp | apply upPcu_kept | apply count_kept
      | apply Kept.lit | intro _)

theorem pcuSample_kept {o : State} (x0 : Beam) (x1 : Nat) (s : State) (h : Kept o s) :
    Kept o (State.pcuSample x0 x1 s) := by
  unfold State.pcuSample
  try dsimp only [State.fresh]
  with_reducible repeat
    (first
     | assumption | split | apply Kept.each | apply Kept.ifc | apply Kept.shp | apply pcuIntake_kept
      | apply upPcu_kept | apply pcuDetect_kept | apply fetchAhead_kept | apply pcuForm_kept | apply pcuDeposit_kept
      | apply pcuStore_kept | apply powerWord_kept | apply sampleRec_kept | apply Kept.lit | intro _ | refine Kept.fst ‹_› ?_)

theorem dropFrame_kept {o : State} (x0 : Beam) (s : State) (h : Kept o s) : Kept o (State.dropFrame x0 s) := by
  unfold State.dropFrame
  try dsimp only [State.fresh]
  with_reducible repeat
    (first
     | assumption | split | apply Kept.each | apply Kept.ifc | apply count_kept | apply upPcu_kept | apply Kept.lit
      | intro _)

theorem capStop_kept {o : State} (x0 : Beam) (s : State) (h : Kept o s) : Kept o (State.capStop x0 s) := by
  unfold State.capStop
  try dsimp only [State.fresh]
  with_reducible repeat
    (first
     | assumption | split | apply Kept.each | apply Kept.ifc | apply Kept.shp | apply upPcu_kept | apply setB_kept
      | apply msix_kept | apply Kept.lit | intro _)

theorem capStore_kept {o : State} (x0 : Beam) (x1 : Frame) (x2 : Bool) (s : State) (h : Kept o s) : Kept o
    (State.capStore x0 x1 x2 s) := by
  unfold State.capStore
  try dsimp only [State.fresh]
  with_reducible repeat
    (first
     | assumption | split | apply Kept.each | apply Kept.ifc | apply capStop_kept | apply wrBytes_kept
      | apply count_kept | apply upPcu_kept | apply Kept.lit | intro _)

theorem capFrame_kept {o : State} (x0 : Beam) (x1 : Frame) (x2 : Features) (s : State) (h : Kept o s) : Kept o
    (State.capFrame x0 x1 x2 s) := by
  unfold State.capFrame
  try dsimp only [State.fresh]
  with_reducible repeat
    (first
     | assumption | split | apply Kept.each | apply Kept.ifc | apply capStore_kept | apply upPcu_kept | apply Kept.lit
      | intro _)

theorem featureRegs_kept {o : State} (x0 : Beam) (x1 : Frame) (x2 : Features) (s : State) (h : Kept o s) : Kept o
    (State.featureRegs x0 x1 x2 s) := by
  unfold State.featureRegs
  try dsimp only [State.fresh]
  with_reducible repeat
    (first
     | assumption | split | apply Kept.each | apply Kept.ifc | apply wr_kept | apply setF_kept | apply advance_kept
      | apply Kept.lit | intro _)

theorem featureRec_kept {o : State} (x0 : Beam) (x1 : Frame) (x2 : Features) (x3 x4 : Bool) (x5 : ℤ) (s : State)
    (h : Kept o s) : Kept o (State.featureRec x0 x1 x2 x3 x4 x5 s) := by
  unfold State.featureRec
  try dsimp only [State.fresh]
  with_reducible repeat
    (first
     | assumption | split | apply Kept.each | apply Kept.ifc | apply telRec_kept | apply Kept.lit | intro _)

theorem publishFrame_kept {o : State} (x0 : Beam) (x1 : Frame) (s : State) (h : Kept o s) :
    Kept o (State.publishFrame x0 x1 s) := by
  unfold State.publishFrame
  try dsimp only [State.fresh]
  with_reducible repeat
    (first
     | assumption | split | apply Kept.each | apply Kept.ifc | apply Kept.shp | apply upPcu_kept
      | apply featureRegs_kept | apply count_kept | apply featureRec_kept | apply capFrame_kept | apply Kept.lit
      | intro _)

theorem imgBegin_kept {o : State} (b : Beam) (num : Nat) (s : State) (h : Kept o s) : Kept o (s.imgBegin b num).1 := by
  unfold State.imgBegin
  dsimp only
  refine upPcu_kept _ _ _ ?_
  split
  · exact dropFrame_kept _ _ h
  · exact h

theorem imgLine_kept {o : State} (x0 : Beam) (x1 : Bool) (x2 x3 x4 x5 x6 x7 : Nat) (x8 : List Nat) (s : State)
    (h : Kept o s) : Kept o (State.imgLine x0 x1 x2 x3 x4 x5 x6 x7 x8 s) := by
  unfold State.imgLine
  try dsimp only [State.fresh]
  with_reducible repeat
    (first
     | assumption | split | apply Kept.each | apply Kept.ifc | apply dropFrame_kept | apply imgBegin_kept | apply upPcu_kept
      | apply Kept.lit | intro _)

theorem freeBit_kept {o : State} (x0 : Bool) (s : State) (h : Kept o s) : Kept o (State.freeBit x0 s).2 := by
  unfold State.freeBit
  try dsimp only [State.fresh]
  with_reducible repeat
    (first
     | assumption | split | apply Kept.each | apply Kept.ifc | apply fresh_kept | apply Kept.lit | intro _
      | refine Kept.snd ‹_› ?_)

theorem cancelBest_kept {o : State} (s : State) (h : Kept o s) : Kept o (State.cancelBest s) := by
  unfold State.cancelBest
  try dsimp only [State.fresh]
  with_reducible repeat
    (first
     | assumption | split | apply Kept.each | apply Kept.ifc | apply upFab_kept | apply count_kept | apply Kept.lit
      | intro _)

theorem issue_kept {o : State} (x0 : XferKind) (s : State) (h : Kept o s) : Kept o (State.issue x0 s) := by
  unfold State.issue
  try dsimp only [State.fresh]
  with_reducible repeat
    (first
     | assumption | split | apply Kept.each | apply Kept.ifc | apply Kept.shp | apply upFab_kept | apply upLdg_kept
      | apply Kept.lit | intro _)

theorem bestAsk_kept {o : State} (x0 : Fin 16) (s : State) (h : Kept o s) : Kept o (State.bestAsk x0 s) := by
  unfold State.bestAsk
  try dsimp only [State.fresh]
  with_reducible repeat
    (first
     | assumption | split | apply Kept.each | apply Kept.ifc | apply freeBit_kept | apply upFab_kept | apply Kept.lit
      | intro _ | refine Kept.snd ‹_› ?_)

theorem fabRebase_kept {o : State} (s : State) (h : Kept o s) : Kept o (State.fabRebase s) := by
  unfold State.fabRebase
  try dsimp only [State.fresh]
  with_reducible repeat
    (first
     | assumption | split | apply Kept.each | apply Kept.ifc | apply Kept.shp | apply upFab_kept | apply Kept.lit
      | intro _)

theorem arbitrate_kept {o : State} (s : State) (h : Kept o s) : Kept o (State.arbitrate s) := by
  unfold State.arbitrate
  try dsimp only [State.fresh]
  with_reducible repeat
    (first
     | assumption | split | apply Kept.each | apply Kept.ifc | apply Kept.shp | apply bestAsk_kept | apply upFab_kept
      | apply count_kept | apply issue_kept | apply Kept.lit | intro _)

theorem fabWindows_kept {o : State} (s : State) (h : Kept o s) : Kept o (State.fabWindows s) := by
  unfold State.fabWindows
  try dsimp only [State.fresh]
  with_reducible repeat
    (first
     | assumption | split | apply Kept.each | apply Kept.ifc | apply upFab_kept | apply Kept.lit | intro _)

theorem shadowKeep_kept {o : State} (s : State) (h : Kept o s) : Kept o (State.shadowKeep s) := by
  unfold State.shadowKeep
  try dsimp only [State.fresh]
  with_reducible repeat
    (first
     | assumption | split | apply Kept.each | apply Kept.ifc | apply Kept.shp | apply upFab_kept | apply Kept.lit
      | intro _)

theorem swapDo_kept {o : State} (s : State) (h : Kept o s) : Kept o (State.swapDo s) := by
  unfold State.swapDo
  try dsimp only [State.fresh]
  with_reducible repeat
    (first
     | assumption | split | apply Kept.each | apply Kept.ifc | apply upFab_kept | apply setB_kept | apply Kept.lit
      | intro _)

theorem reF_kept {o : State} (s : State) (h : Kept o s) : Kept o (State.reF s) := by
  unfold State.reF
  try dsimp only [State.fresh]
  with_reducible repeat
    (first
     | assumption | split | apply Kept.each | apply Kept.ifc | apply Kept.shp | apply Kept.lit | intro _)

theorem setPair_kept {o : State} (x0 x1 : Nat) (x2 : Bool) (s : State) (h : Kept o s) :
    Kept o (State.setPair x0 x1 x2 s) := by
  unfold State.setPair
  try dsimp only [State.fresh]
  with_reducible repeat
    (first
     | assumption | split | apply Kept.each | apply Kept.ifc | apply Kept.shp | apply withEmit_kept
      | apply upTwin_kept | apply reF_kept | apply irq_kept | apply Kept.lit | intro _)

theorem twinPost_kept {o : State} (x0 : Nat) (s : State) (h : Kept o s) : Kept o (State.twinPost x0 s) := by
  unfold State.twinPost
  try dsimp only [State.fresh]
  with_reducible repeat
    (first
     | assumption | split | apply Kept.each | apply Kept.ifc | apply irq_kept | apply setF_kept | apply clrB_kept
      | apply advance_kept | apply Kept.lit | intro _)

theorem gridHome_kept {o : State} (s : State) (h : Kept o s) : Kept o (State.gridHome s) := by
  unfold State.gridHome
  try dsimp only [State.fresh]
  with_reducible repeat
    (first
     | assumption | split | apply Kept.each | apply Kept.ifc | apply Kept.shp | apply upTwin_kept | apply Kept.lit
      | intro _)

theorem armAlone_kept {o : State} (x0 : TimedCmd) (s : State) (h : Kept o s) : Kept o (State.armAlone x0 s) := by
  unfold State.armAlone
  try dsimp only [State.fresh]
  with_reducible repeat
    (first
     | assumption | split | apply Kept.each | apply Kept.ifc | apply Kept.shp | apply opArm_kept
      | apply autoFails_kept | apply jobPost_kept | apply Kept.lit | intro _)

theorem twinClear_kept {o : State} (s : State) (h : Kept o s) : Kept o (State.twinClear s) := by
  unfold State.twinClear
  try dsimp only [State.fresh]
  with_reducible repeat
    (first
     | assumption | split | apply Kept.each | apply Kept.ifc | apply Kept.shp | apply upTwin_kept
      | apply armAlone_kept | apply gridHome_kept | apply Kept.lit | intro _)

theorem joinFail_kept {o : State} (x0 : Nat) (s : State) (h : Kept o s) : Kept o (State.joinFail x0 s) := by
  unfold State.joinFail
  try dsimp only [State.fresh]
  with_reducible repeat
    (first
     | assumption | split | apply Kept.each | apply Kept.ifc | apply Kept.shp | apply ctl_kept | apply setPair_kept
      | apply twinClear_kept | apply twinPost_kept | apply Kept.lit | intro _)

theorem joined_kept {o : State} (s : State) (h : Kept o s) : Kept o (State.joined s) := by
  unfold State.joined
  try dsimp only [State.fresh]
  with_reducible repeat
    (first
     | assumption | split | apply Kept.each | apply Kept.ifc | apply Kept.shp | apply setPair_kept
      | apply upTwin_kept | apply Kept.lit | intro _)

theorem dissolve_kept {o : State} (s : State) (h : Kept o s) : Kept o (State.dissolve s) := by
  unfold State.dissolve
  try dsimp only [State.fresh]
  with_reducible repeat
    (first
     | assumption | split | apply Kept.each | apply Kept.ifc | apply twinClear_kept | apply setPair_kept
      | apply Kept.lit | intro _)

theorem diverge_kept {o : State} (x0 : Bool) (s : State) (h : Kept o s) : Kept o (State.diverge x0 s) := by
  unfold State.diverge
  try dsimp only [State.fresh]
  with_reducible repeat
    (first
     | assumption | split | apply Kept.each | apply Kept.ifc | apply irq_kept | apply count_kept | apply report_kept
      | apply dissolve_kept | apply ctlCmd_kept | apply Kept.lit | intro _)

theorem sendRtts_kept {o : State} (s : State) (h : Kept o s) : Kept o (State.sendRtts s) := by
  unfold State.sendRtts
  try dsimp only [State.fresh]
  with_reducible repeat
    (first
     | assumption | split | apply Kept.each | apply Kept.ifc | apply Kept.shp | apply ctl_kept | apply upTwin_kept
      | apply Kept.lit | intro _)

theorem putSkew_kept {o : State} (x0 : Nat × Nat) (s : State) (h : Kept o s) : Kept o (State.putSkew x0 s) := by
  unfold State.putSkew
  try dsimp only [State.fresh]
  with_reducible repeat
    (first
     | assumption | split | apply Kept.each | apply Kept.ifc | apply wr_kept | apply Kept.lit | intro _)

theorem copyGo_kept {o : State} (n k : Nat) :
    ∀ (p : Nat) (l : List Nat) (s : State), Kept o s → Kept o (State.copyGo n k p l s) := by
  induction k with
  | zero =>
    intro p l s h
    cases l <;> exact h
  | succ k ih =>
    intro p l s h
    cases l with
    | nil =>
      unfold State.copyGo
      split
      · exact ctl_kept _ _ _ h
      · exact h
    | cons c l =>
      unfold State.copyGo
      dsimp only
      refine ih _ _ _ (upTwin_kept _ _ (parcel_kept _ _ _ _ ?_))
      split
      · exact ctl_kept _ _ _ h
      · exact h

theorem sendState_kept {o : State} (s : State) (h : Kept o s) : Kept o (State.sendState s) := by
  unfold State.sendState
  try dsimp only [State.fresh]
  with_reducible repeat
    (first
     | assumption | split | apply Kept.each | apply Kept.ifc | apply ctl_kept | apply Kept.lit | intro _)

theorem joinCopy_kept {o : State} (s : State) (h : Kept o s) : Kept o (State.joinCopy s) := by
  unfold State.joinCopy
  try dsimp only [State.fresh]
  with_reducible repeat
    (first
     | assumption | split | apply Kept.each | apply Kept.ifc | apply Kept.shp | apply flushCache_kept
      | apply upTwin_kept | apply copyGo_kept | apply wr_kept | apply Kept.lit | intro _)

theorem joinEnd_kept {o : State} (s : State) (h : Kept o s) : Kept o (State.joinEnd s) := by
  unfold State.joinEnd
  try dsimp only [State.fresh]
  with_reducible repeat
    (first
     | assumption | split | apply Kept.each | apply Kept.ifc | apply Kept.shp | apply sendState_kept
      | apply driftSend_kept | apply ctl_kept | apply joined_kept | apply twinPost_kept | apply Kept.lit | intro _)

theorem joinSkew_kept {o : State} (s : State) (h : Kept o s) : Kept o (State.joinSkew s) := by
  unfold State.joinSkew
  try dsimp only [State.fresh]
  with_reducible repeat
    (first
     | assumption | split | apply Kept.each | apply Kept.ifc | apply Kept.shp | apply putSkew_kept
      | apply joinFail_kept | apply upTwin_kept | apply joinCopy_kept | apply Kept.lit | intro _)

theorem putOfs_kept {o : State} (x0 : Int) (s : State) (h : Kept o s) : Kept o (State.putOfs x0 s) := by
  unfold State.putOfs
  try dsimp only [State.fresh]
  with_reducible repeat
    (first
     | assumption | split | apply Kept.each | apply Kept.ifc | apply Kept.shp | apply wr_kept | apply Kept.lit
      | intro _)

theorem joinTime_kept {o : State} (s : State) (h : Kept o s) : Kept o (State.joinTime s) := by
  unfold State.joinTime
  try dsimp only [State.fresh]
  with_reducible repeat
    (first
     | assumption | split | apply Kept.each | apply Kept.ifc | apply Kept.shp | apply joinFail_kept
      | apply upTwin_kept | apply putOfs_kept | apply sendRtts_kept | apply joinSkew_kept | apply Kept.lit | intro _)

theorem joinGone_kept {o : State} (s : State) (h : Kept o s) : Kept o (State.joinGone s) := by
  unfold State.joinGone
  try dsimp only [State.fresh]
  with_reducible repeat
    (first
     | assumption | split | apply Kept.each | apply Kept.ifc | apply Kept.shp | apply joinFail_kept | apply Kept.lit
      | intro _)

theorem takeSend_kept {o : State} (x0 : Nat) (s : State) (h : Kept o s) : Kept o (State.takeSend x0 s) := by
  unfold State.takeSend
  try dsimp only [State.fresh]
  with_reducible repeat
    (first
     | assumption | split | apply Kept.each | apply Kept.ifc | apply upTwin_kept | apply cell_kept | apply Kept.lit
      | intro _)

theorem swapGrid_kept {o : State} (s : State) (h : Kept o s) : Kept o (State.swapGrid s) := by
  unfold State.swapGrid
  try dsimp only [State.fresh]
  with_reducible repeat
    (first
     | assumption | split | apply Kept.each | apply Kept.ifc | apply Kept.shp | apply upTwin_kept | apply putOfs_kept
      | apply Kept.lit | intro _)

theorem leadStep_kept {o : State} (s : State) (h : Kept o s) : Kept o (State.leadStep s) := by
  unfold State.leadStep
  try dsimp only [State.fresh]
  with_reducible repeat
    (first
     | assumption | split | apply Kept.each | apply Kept.ifc | apply Kept.shp | apply upTwin_kept
      | apply setPair_kept | apply swapGrid_kept | apply setF_kept | apply twinClear_kept | apply Kept.lit | intro _)

theorem decideStep_kept {o : State} (s : State) (h : Kept o s) : Kept o (State.decideStep s) := by
  unfold State.decideStep
  try dsimp only [State.fresh]
  with_reducible repeat
    (first
     | assumption | split | apply Kept.each | apply Kept.ifc | apply Kept.shp | apply upTwin_kept | apply Kept.lit
      | intro _)

theorem timeJudge_kept {o : State} (x0 x1 : Int) (s : State) (h : Kept o s) : Kept o (State.timeJudge x0 x1 s) := by
  unfold State.timeJudge
  try dsimp only [State.fresh]
  with_reducible repeat
    (first
     | assumption | split | apply Kept.each | apply Kept.ifc | apply Kept.shp | apply wr_kept | apply upTwin_kept
      | apply report_kept | apply Kept.lit | intro _)

theorem judgeSkew_kept {o : State} (s : State) (h : Kept o s) : Kept o (State.judgeSkew s) := by
  unfold State.judgeSkew
  try dsimp only [State.fresh]
  with_reducible repeat
    (first
     | assumption | split | apply Kept.each | apply Kept.ifc | apply Kept.shp | apply putSkew_kept
      | apply upTwin_kept | apply report_kept | apply Kept.lit | intro _)

theorem compareDigests_kept {o : State} (x0 x1 : Nat) (x2 x3 : DWord) (s : State) (h : Kept o s) : Kept o
    (State.compareDigests x0 x1 x2 x3 s) := by
  unfold State.compareDigests
  try dsimp only [State.fresh]
  with_reducible repeat
    (first
     | assumption | split | apply Kept.each | apply Kept.ifc | apply wr_kept | apply upTwin_kept | apply diverge_kept
      | apply Kept.lit | intro _)

theorem leadRejects_kept {o : State} (x0 : Slot) (s : State) (h : Kept o s) : Kept o (State.leadRejects x0 s) := by
  unfold State.leadRejects
  try dsimp only [State.fresh]
  with_reducible repeat
    (first
     | assumption | split | apply Kept.each | apply Kept.ifc | apply Kept.shp | apply upSlot_kept
      | apply jobChange_kept | apply refresh_kept | apply Kept.lit | intro _)

theorem cmdSecond_kept {o : State} (x0 : Nat) (x1 : Slot) (x2 : Nat) (s : State) (h : Kept o s) :
    Kept o (State.cmdSecond x0 x1 x2 s) := by
  unfold State.cmdSecond
  try dsimp only [State.fresh]
  with_reducible repeat
    (first
     | assumption | split | apply Kept.each | apply Kept.ifc | apply Kept.shp | apply diverge_kept
      | apply upTwin_kept | apply wr_kept | apply opSubmit_kept | apply reAnalyse_kept | apply opArm_kept
      | apply sendCfg_kept | apply sendAdm_kept | apply leadRejects_kept | apply jobDo_kept | apply Kept.lit
      | intro _ | refine Kept.fst ‹_› ?_)

theorem armAnswer_kept {o : State} (x0 : TimedCmd) (x1 : Slot) (x2 : Nat) (s : State) (h : Kept o s) :
    Kept o (State.armAnswer x0 x1 x2 s) := by
  unfold State.armAnswer
  try dsimp only [State.fresh]
  with_reducible repeat
    (first
     | assumption | split | apply Kept.each | apply Kept.ifc | apply Kept.shp | apply upTwin_kept | apply armJob_kept
      | apply ctlCmd_kept | apply jobPost_kept | apply autoFails_kept | apply Kept.lit | intro _)

theorem rxTwin_kept {o : State} (x0 : BitVec 16) (x1 : State → State) (s : State) (hx1 : ∀ t, Kept o t → Kept o
    (x1 t)) (h : Kept o s) : Kept o (State.rxTwin x0 x1 s) := by
  unfold State.rxTwin
  with_reducible repeat
    (first
     | assumption | split | apply Kept.each | apply Kept.ifc | apply Kept.shp | apply rxParcel_kept | apply hx1 | apply Kept.lit
      | intro _)

theorem adoptStop_kept {o : State} (x0 : StopMsg) (s : State) (h : Kept o s) : Kept o (State.adoptStop x0 s) := by
  unfold State.adoptStop
  try dsimp only [State.fresh]
  with_reducible repeat
    (first
     | assumption | split | apply Kept.each | apply Kept.ifc | apply Kept.shp | apply restore_kept | apply upBe_kept
      | apply Kept.lit | intro _)

theorem freeTail_kept {o : State} (n k : Nat) : ∀ (s : State), Kept o s → Kept o (State.freeTail n k s) := by
  induction k with
  | zero => exact fun _ h => h
  | succ k ih =>
    intro s h
    unfold State.freeTail
    dsimp only
    split
    · exact h
    · refine ih _ ?_
      split
      · exact upRec_kept _ _ h
      · exact count_kept _ _ _ _ _ (upRec_kept _ _ h)

theorem saveCb_kept {o : State} (s : State) (h : Kept o s) : Kept o (State.saveCb s) := by
  unfold State.saveCb
  try dsimp only [State.fresh]
  with_reducible repeat
    (first
     | assumption | split | apply Kept.each | apply Kept.ifc | apply Kept.shp | apply upRec_kept | apply upMram_kept
      | apply Kept.lit | intro _)

theorem recBegin_kept {o : State} (x0 : Rec) (s : State) (h : Kept o s) : Kept o (State.recBegin x0 s) := by
  unfold State.recBegin
  try dsimp only [State.fresh]
  with_reducible repeat
    (first
     | assumption | split | apply Kept.each | apply Kept.ifc | apply Kept.shp | apply freeTail_kept
      | apply wrBytes_kept | apply saveCb_kept | apply upRec_kept | apply Kept.lit | intro _)

theorem recPart_kept {o : State} (x0 : RecRun) (x1 : Bool) (x2 x3 : Nat) (s : State) (h : Kept o s) :
    Kept o (State.recPart x0 x1 x2 x3 s) := by
  unfold State.recPart
  try dsimp only [State.fresh]
  with_reducible repeat
    (first
     | assumption | split | apply Kept.each | apply Kept.ifc | apply Kept.shp | apply wrBytes_kept | apply Kept.lit
      | intro _)

theorem freezeNow_kept {o : State} (s : State) (h : Kept o s) : Kept o (State.freezeNow s) := by
  unfold State.freezeNow
  try dsimp only [State.fresh]
  with_reducible repeat
    (first
     | assumption | split | apply Kept.each | apply Kept.ifc | apply Kept.shp | apply upRec_kept | apply Kept.lit
      | intro _)

theorem recStep_kept {o : State} (s : State) (h : Kept o s) : Kept o (State.recStep s) := by
  unfold State.recStep State.shp
  try dsimp only [State.fresh]
  with_reducible repeat
    (first
     | assumption | split | apply Kept.each | apply Kept.ifc | apply Kept.shp | apply upRec_kept | apply recPart_kept
      | apply irq_kept | apply saveCb_kept | apply freezeNow_kept | apply Kept.lit | intro _)

theorem recFinish_kept {o : State} (s : State) (h : Kept o s) : Kept o (State.recFinish s) := by
  unfold State.recFinish
  try dsimp only [State.fresh]
  with_reducible repeat
    (first
     | assumption | split | apply Kept.each | apply Kept.ifc | apply Kept.shp | apply recStep_kept | apply Kept.lit
      | intro _)

theorem commitRecord_kept {o : State} (x0 : Rec) (s : State) (h : Kept o s) : Kept o (State.commitRecord x0 s) := by
  unfold State.commitRecord State.shp
  try dsimp only [State.fresh]
  with_reducible repeat
    (first
     | assumption | split | apply Kept.each | apply Kept.ifc | apply Kept.shp | apply recFinish_kept
      | apply recBegin_kept | apply Kept.lit | intro _)

theorem flushRecords_kept {o : State} (s : State) (h : Kept o s) : Kept o (State.flushRecords s) :=
  Kept.foldl _ (fun _ _ g => commitRecord_kept _ _ g) _ (upRec_kept _ _ (recFinish_kept _ h))

theorem unfreeze_kept {o : State} (s : State) (h : Kept o s) : Kept o (State.unfreeze s) := by
  unfold State.unfreeze
  try dsimp only [State.fresh]
  with_reducible repeat
    (first
     | assumption | split | apply Kept.each | apply Kept.ifc | apply upRec_kept | apply setF_kept | apply Kept.lit
      | intro _)

theorem recoverRing_kept {o : State} (k : Nat) : ∀ {s : State}, Kept o s → Kept o (State.recoverRing k s) := by
  induction k with
  | zero => exact fun h => h
  | succ k ih =>
    intro s h
    unfold State.recoverRing
    dsimp only
    split
    · exact ih (upRec_kept _ _ h)
    · exact h

theorem recoverCairn_kept {o : State} (k : Nat) : ∀ {s : State}, Kept o s → Kept o (State.recoverCairn k s) := by
  induction k with
  | zero => exact fun h => h
  | succ k ih =>
    intro s h
    unfold State.recoverCairn
    dsimp only
    split
    · exact ih (upRec_kept _ _ h)
    · exact h

theorem recoverTorn_kept {o : State} (x0 : Bool) (s : State) (h : Kept o s) : Kept o (State.recoverTorn x0 s) := by
  unfold State.recoverTorn
  try dsimp only [State.fresh]
  with_reducible repeat
    (first
     | assumption | split | apply Kept.each | apply Kept.ifc | apply Kept.shp | apply wrBytes_kept | apply upRec_kept
      | apply count_kept | apply irq_kept | apply record_kept | apply Kept.lit | intro _)

theorem loadCb_kept {o : State} (s : State) (h : Kept o s) : Kept o (State.loadCb s) := by
  unfold State.loadCb
  try dsimp only [State.fresh]
  with_reducible repeat
    (first
     | assumption | split | apply Kept.each | apply Kept.ifc | apply Kept.shp | apply upRec_kept | apply setB_kept
      | apply record_kept | apply Kept.lit | intro _)

theorem recoverMram_kept {o : State} (s : State) (h : Kept o s) : Kept o s.recoverMram := by
  unfold State.recoverMram
  split
  · exact h
  · exact recoverTorn_kept _ _ (recoverTorn_kept _ _ (recoverCairn_kept _ (recoverRing_kept _ h)))

theorem enterReset_kept {o : State} (c : Nat) (s : State) (h : Kept o s) : Kept o (s.enterReset c) :=
  ⟨h.1, fun x => SparseWf.filter _ (h.2.1 x), fun x => SparseWf.filter _ (h.2.2 x)⟩

theorem bootRecord_kept {o : State} (x0 : Nat) (s : State) (h : Kept o s) : Kept o (State.bootRecord x0 s) := by
  unfold State.bootRecord
  try dsimp only [State.fresh]
  with_reducible repeat
    (first
     | assumption | split | apply Kept.each | apply Kept.ifc | apply record_kept | apply Kept.lit | intro _)

theorem restoreCal_kept {o : State} (s : State) (h : Kept o s) : Kept o (State.restoreCal s) := by
  unfold State.restoreCal
  try dsimp only [State.fresh]
  with_reducible repeat
    (first
     | assumption | split | apply Kept.each | apply Kept.ifc | apply Kept.shp | apply upCal_kept | apply wr_kept
      | apply Kept.lit | intro _)

theorem patchBoot_kept {o : State} (s : State) (h : Kept o s) : Kept o (State.patchBoot s) := by
  unfold State.patchBoot
  try dsimp only [State.fresh]
  with_reducible repeat
    (first
     | assumption | split | apply Kept.each | apply Kept.ifc | apply upMram_kept | apply record_kept | apply Kept.lit
      | intro _)

theorem ddrBoot_kept {o : State} (s : State) (h : Kept o s) : Kept o (State.ddrBoot s) := by
  unfold State.ddrBoot
  try dsimp only [State.fresh]
  with_reducible repeat
    (first
     | assumption | split | apply Kept.each | apply Kept.ifc | apply wr_kept | apply upTime_kept | apply Kept.lit
      | intro _)

theorem portsBoot_kept {o : State} (s : State) (h : Kept o s) : Kept o (State.portsBoot s) := by
  unfold State.portsBoot
  try dsimp only [State.fresh]
  with_reducible repeat
    (first
     | assumption | split | apply Kept.each | apply Kept.ifc | apply Kept.shp | apply wr_kept | apply portTrain_kept
      | apply Kept.lit | intro _)

theorem enterBoot_kept {o : State} (s : State) (h : Kept o s) : Kept o (State.enterBoot s) := by
  unfold State.enterBoot
  try dsimp only [State.fresh]
  with_reducible repeat
    (first
     | assumption | split | apply Kept.each | apply Kept.ifc | apply Kept.shp | apply upDev_kept | apply upLdc_kept
      | apply ilkSet_kept | apply loadCb_kept | apply upRec_kept | apply recoverMram_kept | apply bootRecord_kept
      | apply record_kept | apply restoreCal_kept | apply patchBoot_kept | apply ddrBoot_kept | apply portsBoot_kept
      | apply Kept.lit | intro _)

theorem leaveReset_kept {o : State} (s : State) (h : Kept o s) : Kept o (State.leaveReset s) := by
  unfold State.leaveReset
  try dsimp only [State.fresh]
  with_reducible repeat
    (first
     | assumption | split | apply Kept.each | apply Kept.ifc | apply enterBoot_kept | apply Kept.lit | intro _)

theorem warmReset_kept {o : State} (c : Nat) (s : State) (h : Kept o s) : Kept o (s.warmReset c) :=
  leaveReset_kept _ (enterReset_kept _ _ (flushRecords_kept _ h))

theorem clockLost_kept {o : State} (x0 : Nat) (s : State) (h : Kept o s) : Kept o (State.clockLost x0 s) := by
  unfold State.clockLost
  try dsimp only [State.fresh]
  with_reducible repeat
    (first
     | assumption | split | apply Kept.each | apply Kept.ifc | apply report_kept | apply setB_kept | apply kill_kept
      | apply Kept.lit | intro _)

theorem setDomSt_kept {o : State} (x0 : Dom) (x1 : Nat) (s : State) (h : Kept o s) :
    Kept o (State.setDomSt x0 x1 s) := by
  unfold State.setDomSt
  try dsimp only [State.fresh]
  with_reducible repeat
    (first
     | assumption | split | apply Kept.each | apply Kept.ifc | apply Kept.shp | apply upDom_kept | apply setB_kept
      | apply msix_kept | apply timeMark_kept | apply Kept.lit | intro _)

theorem ptpRestart_kept {o : State} (x0 : Dom) (s : State) (h : Kept o s) : Kept o (State.ptpRestart x0 s) := by
  unfold State.ptpRestart
  try dsimp only [State.fresh]
  with_reducible repeat
    (first
     | assumption | split | apply Kept.each | apply Kept.ifc | apply setDomSt_kept | apply upDom_kept | apply Kept.lit
      | intro _)

theorem ptpDiscard_kept {o : State} (x0 : Dom) (s : State) (h : Kept o s) : Kept o (State.ptpDiscard x0 s) := by
  unfold State.ptpDiscard
  try dsimp only [State.fresh]
  with_reducible repeat
    (first
     | assumption | split | apply Kept.each | apply Kept.ifc | apply count_kept | apply Kept.lit | intro _)

theorem rateTo_kept {o : State} (x0 : Dom) (x1 : Word) (s : State) (h : Kept o s) :
    Kept o (State.rateTo x0 x1 s) := by
  unfold State.rateTo
  try dsimp only [State.fresh]
  with_reducible repeat
    (first
     | assumption | split | apply Kept.each | apply Kept.ifc | apply setRate_kept | apply redate_kept
      | apply Kept.lit | intro _)

theorem servoRun_kept {o : State} (x0 : Dom) (x1 : Int) (x2 : Q) (s : State) (h : Kept o s) :
    Kept o (State.servoRun x0 x1 x2 s) := by
  unfold State.servoRun
  try dsimp only [State.fresh]
  with_reducible repeat
    (first
     | assumption | split | apply Kept.each | apply Kept.ifc | apply wr_kept | apply stepDom_kept | apply upDom_kept
      | apply count_kept | apply rateTo_kept | apply Kept.lit | intro _)

theorem servoLock_kept {o : State} (x0 : Dom) (x1 : ℤ) (s : State) (h : Kept o s) : Kept o
    (State.servoLock x0 x1 s) := by
  unfold State.servoLock
  try dsimp only [State.fresh]
  with_reducible repeat
    (first
     | assumption | split | apply Kept.each | apply Kept.ifc | apply upDom_kept | apply setDomSt_kept | apply Kept.lit
      | intro _)

theorem holdover_kept {o : State} (x0 : Dom) (s : State) (h : Kept o s) : Kept o (State.holdover x0 s) := by
  unfold State.holdover
  try dsimp only [State.fresh]
  with_reducible repeat
    (first
     | assumption | split | apply Kept.each | apply Kept.ifc | apply setDomSt_kept | apply rateTo_kept
      | apply Kept.lit | intro _)

theorem applySet_kept {o : State} (s : State) (h : Kept o s) : Kept o (State.applySet s) := by
  unfold State.applySet
  try dsimp only [State.fresh]
  with_reducible repeat
    (first
     | assumption | split | apply Kept.each | apply Kept.ifc | apply timeMark_kept | apply upTime_kept
      | apply Kept.lit | intro _)

theorem upTp_kept {o : State} (x0 : Fin 8) (x1 : PulseOut → PulseOut) (s : State) (h : Kept o s) : Kept o
    (State.upTp x0 x1 s) := by
  unfold State.upTp
  try dsimp only [State.fresh]
  with_reducible repeat
    (first
     | assumption | split | apply Kept.each | apply Kept.ifc | apply upTime_kept | apply Kept.lit | intro _)

theorem tcTake_kept {o : State} (x0 : Fin 8) (x1 : Bool) (x2 : Nat) (s : State) (h : Kept o s) :
    Kept o (State.tcTake x0 x1 x2 s) := by
  unfold State.tcTake
  try dsimp only [State.fresh]
  with_reducible repeat
    (first
     | assumption | split | apply Kept.each | apply Kept.ifc | apply Kept.shp | apply upTime_kept | apply count_kept
      | apply msix_kept | apply startEvent_kept | apply Kept.lit | intro _)

theorem setPath_kept {o : State} (x0 : Dom) (x1 : ℤ) (s : State) (h : Kept o s) : Kept o (State.setPath x0 x1 s) := by
  unfold State.setPath
  try dsimp only [State.fresh]
  with_reducible repeat
    (first
     | assumption | split | apply Kept.each | apply Kept.ifc | apply wr_kept | apply upDom_kept | apply Kept.lit
      | intro _)

theorem quietRestart_kept {o : State} (s : State) (h : Kept o s) : Kept o (State.quietRestart s) := by
  unfold State.quietRestart
  try dsimp only [State.fresh]
  with_reducible repeat
    (first
     | assumption | split | apply Kept.each | apply Kept.ifc | apply upHub_kept | apply Kept.lit | intro _)

theorem ladderRecord_kept {o : State} (x0 x1 x2 x3 : Nat) (x4 : Bool) (s : State) (h : Kept o s) :
    Kept o (State.ladderRecord x0 x1 x2 x3 x4 s) := by
  unfold State.ladderRecord
  try dsimp only [State.fresh]
  with_reducible repeat
    (first
     | assumption | split | apply Kept.each | apply Kept.ifc | apply Kept.shp | apply record_kept | apply Kept.lit
      | intro _)

theorem ladderPost_kept {o : State} (x0 x1 x2 x3 : Nat) (x4 : Bool) (s : State) (h : Kept o s) :
    Kept o (State.ladderPost x0 x1 x2 x3 x4 s) := by
  unfold State.ladderPost
  try dsimp only [State.fresh]
  with_reducible repeat
    (first
     | assumption | split | apply Kept.each | apply Kept.ifc | apply Kept.shp | apply advance_kept | apply setF_kept
      | apply ladderRecord_kept | apply Kept.lit | intro _)

theorem stepBeam_kept {o : State} (x0 : Beam) (x1 : Nat) (s : State) (h : Kept o s) : Kept o
    (State.stepBeam x0 x1 s) := by
  unfold State.stepBeam
  try dsimp only [State.fresh]
  with_reducible repeat
    (first
     | assumption | split | apply Kept.each | apply Kept.ifc | apply upBe_kept | apply Kept.lit | intro _)

theorem stepPcu_kept {o : State} (x0 : Beam) (x1 : Nat) (s : State) (h : Kept o s) : Kept o
    (State.stepPcu x0 x1 s) := by
  unfold State.stepPcu
  try dsimp only [State.fresh]
  with_reducible repeat
    (first
     | assumption | split | apply Kept.each | apply Kept.ifc | apply upPcu_kept | apply Kept.lit | intro _)

theorem stepLe_kept {o : State} (x0 : Engine) (x1 : Nat) (s : State) (h : Kept o s) :
    Kept o (State.stepLe x0 x1 s) := by
  unfold State.stepLe
  try dsimp only [State.fresh]
  with_reducible repeat
    (first
     | assumption | split | apply Kept.each | apply Kept.ifc | apply Kept.shp | apply leOff_kept | apply leStart_kept
      | apply upHub_kept | apply Kept.lit | intro _)

theorem stepPort_kept {o : State} (x0 : Port) (x1 : Nat) (s : State) (h : Kept o s) : Kept o
    (State.stepPort x0 x1 s) := by
  unfold State.stepPort
  try dsimp only [State.fresh]
  with_reducible repeat
    (first
     | assumption | split | apply Kept.each | apply Kept.ifc | apply portTrain_kept | apply portDown_kept
      | apply portOff_kept | apply Kept.lit | intro _)

theorem stepLane_kept {o : State} (x0 x1 : Nat) (s : State) (h : Kept o s) : Kept o (State.stepLane x0 x1 s) := by
  unfold State.stepLane
  try dsimp only [State.fresh]
  with_reducible repeat
    (first
     | assumption | split | apply Kept.each | apply Kept.ifc | apply portDown_kept | apply onLanes_kept
      | apply upPort_kept | apply portTrain_kept | apply Kept.lit | intro _)

theorem stepEye_kept {o : State} (x0 : Beam) (x1 : Nat) (s : State) (h : Kept o s) : Kept o
    (State.stepEye x0 x1 s) := by
  unfold State.stepEye
  try dsimp only [State.fresh]
  with_reducible repeat
    (first
     | assumption | split | apply Kept.each | apply Kept.ifc | apply dropFrame_kept | apply upPcu_kept
      | apply Kept.lit | intro _)

theorem stepLedger_kept {o : State} (x0 : Nat) (s : State) (h : Kept o s) : Kept o (State.stepLedger x0 s) := by
  unfold State.stepLedger
  try dsimp only [State.fresh]
  with_reducible repeat
    (first
     | assumption | split | apply Kept.each | apply Kept.ifc | apply Kept.shp | apply failedAgain_kept
      | apply upLdg_kept | apply flushCache_kept | apply Kept.lit | intro _)

theorem stepTime_kept {o : State} (x0 : Dom) (x1 : Nat) (s : State) (h : Kept o s) : Kept o
    (State.stepTime x0 x1 s) := by
  unfold State.stepTime
  try dsimp only [State.fresh]
  with_reducible repeat
    (first
     | assumption | split | apply Kept.each | apply Kept.ifc | apply ptpRestart_kept | apply upDom_kept
      | apply setDomSt_kept | apply Kept.lit | intro _)

theorem stepAct_kept {o : State} (x0 x1 x2 : Nat) (s : State) (h : Kept o s) : Kept o (State.stepAct x0 x1 x2 s) := by
  unfold State.stepAct
  try dsimp only [State.fresh]
  with_reducible repeat
    (first
     | assumption | split | apply Kept.each | apply Kept.ifc | apply stepBeam_kept | apply stepPcu_kept
      | apply stepLe_kept | apply stepPort_kept | apply stepLane_kept | apply stepEye_kept | apply stepLedger_kept
      | apply stepTime_kept | apply Kept.lit | intro _)

theorem stepBegin_kept {o : State} (x0 x1 x2 : Nat) (x3 : Bool) (s : State) (h : Kept o s) : Kept o
    (State.stepBegin x0 x1 x2 x3 s) := by
  unfold State.stepBegin
  try dsimp only [State.fresh]
  with_reducible repeat
    (first
     | assumption | split | apply Kept.each | apply Kept.ifc | apply upHub_kept | apply quietRestart_kept
      | apply stepAct_kept | apply Kept.lit | intro _)

theorem preReset_kept {o : State} (x0 : Nat) (s : State) (h : Kept o s) : Kept o (State.preReset x0 s) := by
  unfold State.preReset
  try dsimp only [State.fresh]
  with_reducible repeat
    (first
     | assumption | split | apply Kept.each | apply Kept.ifc | apply wr_kept | apply Kept.lit | intro _)

theorem stepWhole_kept {o : State} (k : Nat) (s : State) (h : Kept o s) : Kept o (s.stepWhole k) := by
  have g := preReset_kept k _ h
  unfold State.stepWhole
  dsimp only
  split
  · exact warmReset_kept _ _ (ladderPost_kept _ _ _ _ _ _ (upHub_kept _ _ g))
  · exact upHub_kept _ _ (flushRecords_kept _ (ladderRecord_kept _ _ _ _ _ _ g))

theorem stepRequest_kept {o : State} (x0 x1 x2 : Nat) (x3 : Bool) (s : State) (h : Kept o s) : Kept o
    (State.stepRequest x0 x1 x2 x3 s) := by
  unfold State.stepRequest
  try dsimp only [State.fresh]
  with_reducible repeat
    (first
     | assumption | split | apply Kept.each | apply Kept.ifc | apply ladderPost_kept | apply stepBegin_kept
      | apply upHub_kept | apply takeSend_kept | apply stepWhole_kept | apply Kept.lit | intro _)

theorem stepDue_kept {o : State} (s : State) (h : Kept o s) : Kept o (State.stepDue s) := by
  unfold State.stepDue
  try dsimp only [State.fresh]
  with_reducible repeat
    (first
     | assumption | split | apply Kept.each | apply Kept.ifc | apply stepWhole_kept | apply Kept.lit | intro _)

theorem stepAuto_kept {o : State} (s : State) (h : Kept o s) : Kept o (State.stepAuto s) := by
  unfold State.stepAuto State.shp
  try dsimp only [State.fresh]
  with_reducible repeat
    (first
     | assumption | split | apply Kept.each | apply Kept.ifc | apply Kept.shp | apply stepRequest_kept
      | apply Kept.lit | intro _)

theorem followOn_kept {o : State} (x0 : Nat) (s : State) (h : Kept o s) : Kept o (State.followOn x0 s) := by
  unfold State.followOn
  try dsimp only [State.fresh]
  with_reducible repeat
    (first
     | assumption | split | apply Kept.each | apply Kept.ifc | apply Kept.shp | apply upHub_kept
      | apply stepBegin_kept | apply Kept.lit | intro _)

theorem stepFollow_kept {o : State} (x0 : Nat) (s : State) (h : Kept o s) : Kept o (State.stepFollow x0 s) := by
  unfold State.stepFollow State.shp
  try dsimp only [State.fresh]
  with_reducible repeat
    (first
     | assumption | split | apply Kept.each | apply Kept.ifc | apply Kept.shp | apply followOn_kept | apply Kept.lit
      | intro _)

theorem followDone_kept {o : State} (x0 : Nat) (s : State) (h : Kept o s) : Kept o (State.followDone x0 s) := by
  unfold State.followDone
  try dsimp only [State.fresh]
  with_reducible repeat
    (first
     | assumption | split | apply Kept.each | apply Kept.ifc | apply Kept.shp | apply upHub_kept
      | apply stepBegin_kept | apply Kept.lit | intro _)

theorem stepEnd_kept {o : State} (x0 : LadderRun) (x1 : Nat) (s : State) (h : Kept o s) :
    Kept o (State.stepEnd x0 x1 s) := by
  unfold State.stepEnd
  try dsimp only [State.fresh]
  with_reducible repeat
    (first
     | assumption | split | apply Kept.each | apply Kept.ifc | apply Kept.shp | apply upHub_kept
      | apply ladderPost_kept | apply quietRestart_kept | apply stepFollow_kept | apply followDone_kept
      | apply Kept.lit | intro _)

theorem setSticky_kept {o : State} (x0 : Nat) (s : State) (h : Kept o s) : Kept o (State.setSticky x0 s) := by
  unfold State.setSticky
  try dsimp only [State.fresh]
  with_reducible repeat
    (first
     | assumption | split | apply Kept.each | apply Kept.ifc | apply irq_kept | apply upHub_kept | apply upDev_kept
      | apply Kept.lit | intro _)

theorem belayTwin_kept {o : State} (s : State) (h : Kept o s) : Kept o (State.belayTwin s) := by
  unfold State.belayTwin
  try dsimp only [State.fresh]
  with_reducible repeat
    (first
     | assumption | split | apply Kept.each | apply Kept.ifc | apply takeSend_kept | apply twinClear_kept
      | apply setPair_kept | apply ctl_kept | apply Kept.lit | intro _)

theorem belayEnter_kept {o : State} (s : State) (h : Kept o s) : Kept o (State.belayEnter s) := by
  unfold State.belayEnter
  try dsimp only [State.fresh]
  with_reducible repeat
    (first
     | assumption | split | apply Kept.each | apply Kept.ifc | apply upDev_kept | apply irq_kept | apply upHub_kept
      | apply refresh_kept | apply belayTwin_kept | apply holdNow_kept | apply Kept.lit | intro _)

theorem classReact_kept {o : State} (x0 : Nat) (s : State) (h : Kept o s) : Kept o (State.classReact x0 s) := by
  unfold State.classReact
  try dsimp only [State.fresh]
  with_reducible repeat
    (first
     | assumption | split | apply Kept.each | apply Kept.ifc | apply Kept.shp | apply kill_kept
      | apply belayEnter_kept | apply quietRestart_kept | apply upHub_kept | apply Kept.lit | intro _)

theorem fltRecord_kept {o : State} (x0 : Report) (x1 x2 x3 x4 : Nat) (s : State) (h : Kept o s) : Kept o
    (State.fltRecord x0 x1 x2 x3 x4 s) := by
  unfold State.fltRecord
  try dsimp only [State.fresh]
  with_reducible repeat
    (first
     | assumption | split | apply Kept.each | apply Kept.ifc | apply record_kept | apply Kept.lit | intro _)

theorem setHint_kept {o : State} (x0 : Report) (x1 : Nat) (s : State) (h : Kept o s) : Kept o
    (State.setHint x0 x1 s) := by
  unfold State.setHint
  try dsimp only [State.fresh]
  with_reducible repeat
    (first
     | assumption | split | apply Kept.each | apply Kept.ifc | apply upHub_kept | apply wr_kept | apply Kept.lit
      | intro _)

theorem upLatch_kept {o : State} (x0 : Nat) (x1 : Latch → Latch) (s : State) (h : Kept o s) : Kept o
    (State.upLatch x0 x1 s) := by
  unfold State.upLatch
  try dsimp only [State.fresh]
  with_reducible repeat
    (first
     | assumption | split | apply Kept.each | apply Kept.ifc | apply upHub_kept | apply Kept.lit | intro _)

theorem latchFirst_kept {o : State} (x0 : Report) (x1 x2 : Nat) (s : State) (h : Kept o s) :
    Kept o (State.latchFirst x0 x1 x2 s) := by
  unfold State.latchFirst
  try dsimp only [State.fresh]
  with_reducible repeat
    (first
     | assumption | split | apply Kept.each | apply Kept.ifc | apply Kept.shp | apply upLatch_kept | apply upHub_kept
      | apply setHint_kept | apply irq_kept | apply fltRecord_kept | apply setSticky_kept | apply classReact_kept
      | apply stepAuto_kept | apply Kept.lit | intro _)

theorem latchOver_kept {o : State} (x0 : Report) (x1 x2 : Nat) (s : State) (h : Kept o s) : Kept o
    (State.latchOver x0 x1 x2 s) := by
  unfold State.latchOver
  try dsimp only [State.fresh]
  with_reducible repeat
    (first
     | assumption | split | apply Kept.each | apply Kept.ifc | apply upLatch_kept | apply fltRecord_kept
      | apply upHub_kept | apply quietRestart_kept | apply belayEnter_kept | apply setSticky_kept | apply Kept.lit
      | intro _)

theorem fltHandle_kept {o : State} (x0 : Nat × Report) (s : State) (h : Kept o s) : Kept o
    (State.fltHandle x0 s) := by
  unfold State.fltHandle
  try dsimp only [State.fresh]
  with_reducible repeat
    (first
     | assumption | split | apply Kept.each | apply Kept.ifc | apply setB_kept | apply fltRecord_kept
      | apply count_kept | apply upHub_kept | apply upLatch_kept | apply latchFirst_kept | apply latchOver_kept
      | apply irq_kept | apply Kept.lit | intro _)

theorem hubTake_kept {o : State} (s : State) (h : Kept o s) : Kept o (State.hubTake s) := by
  unfold State.hubTake
  try dsimp only [State.fresh]
  with_reducible repeat
    (first
     | assumption | split | apply Kept.each | apply Kept.ifc | apply Kept.shp | apply upHub_kept
      | apply fltHandle_kept | apply refresh_kept | apply Kept.lit | intro _)

theorem stopAll_kept {o : State} (s : State) (h : Kept o s) : Kept o (State.stopAll s) := by
  unfold State.stopAll
  try dsimp only [State.fresh]
  with_reducible repeat
    (first
     | assumption | split | apply Kept.each | apply Kept.ifc | apply Kept.shp | apply askStop_kept | apply Kept.lit
      | intro _)

theorem roundChannel_kept {o : State} (x0 : Nat → ℤ) (x1 : Fin 48) (s : State) (h : Kept o s) : Kept o
    (State.roundChannel x0 x1 s) := by
  unfold State.roundChannel
  try dsimp only [State.fresh]
  with_reducible repeat
    (first
     | assumption | split | apply Kept.each | apply Kept.ifc | apply upPwr_kept | apply wr_kept | apply irq_kept
      | apply report_kept | apply Kept.lit | intro _)

theorem roundRails_kept {o : State} (s : State) (h : Kept o s) : Kept o (State.roundRails s) := by
  unfold State.roundRails
  try dsimp only [State.fresh]
  with_reducible repeat
    (first
     | assumption | split | apply Kept.each | apply Kept.ifc | apply upPwr_kept | apply upTime_kept | apply count_kept
      | apply irq_kept | apply Kept.lit | intro _)

theorem roundChannels_kept {o : State} (x0 : List Int) (s : State) (h : Kept o s) :
    Kept o (State.roundChannels x0 s) := by
  unfold State.roundChannels
  try dsimp only [State.fresh]
  with_reducible repeat
    (first
     | assumption | split | apply Kept.each | apply Kept.ifc | apply Kept.shp | apply roundChannel_kept
      | apply wr_kept | apply roundRails_kept | apply Kept.lit | intro _)

theorem roundModel_kept {o : State} (s : State) (h : Kept o s) : Kept o (State.roundModel s) := by
  unfold State.roundModel
  try dsimp only [State.fresh]
  with_reducible repeat
    (first
     | assumption | split | apply Kept.each | apply Kept.ifc | apply each_kept | apply upPwr_kept | apply Kept.lit
      | intro _)

theorem roundLevels_kept {o : State} (s : State) (h : Kept o s) : Kept o (State.roundLevels s) := by
  unfold State.roundLevels
  try dsimp only [State.fresh]
  with_reducible repeat
    (first
     | assumption | split | apply Kept.each | apply Kept.ifc | apply upPwr_kept | apply irq_kept | apply report_kept
      | apply stopAll_kept | apply holdAtEnd_kept | apply Kept.lit | intro _)

theorem roundPublish_kept {o : State} (s : State) (h : Kept o s) : Kept o (State.roundPublish s) := by
  unfold State.roundPublish
  try dsimp only [State.fresh]
  with_reducible repeat
    (first
     | assumption | split | apply Kept.each | apply Kept.ifc | apply Kept.shp | apply wr_kept | apply Kept.lit
      | intro _)

theorem powerRecord_kept {o : State} (x0 x1 : Nat) (x2 : Option Nat) (s : State) (h : Kept o s) : Kept o
    (State.powerRecord x0 x1 x2 s) := by
  unfold State.powerRecord
  try dsimp only [State.fresh]
  with_reducible repeat
    (first
     | assumption | split | apply Kept.each | apply Kept.ifc | apply record_kept | apply fresh_kept | apply Kept.lit
      | intro _ | refine Kept.snd ‹_› ?_)

theorem dlAuto_kept {o : State} (s : State) (h : Kept o s) : Kept o (State.dlAuto s) := by
  unfold State.dlAuto
  try dsimp only [State.fresh]
  with_reducible repeat
    (first
     | assumption | split | apply Kept.each | apply Kept.ifc | apply Kept.shp | apply dlTrigger_kept | apply Kept.lit
      | intro _)

theorem asForced_kept {o : State} (i u : Nat) (d : Word) (f : State → State) (s : State)
    (hf : ∀ t, Kept o t → Kept o (f t)) (h : Kept o s) : Kept o (s.asForced i u d f) := by
  unfold State.asForced
  dsimp only
  refine upHub_kept _ _ ?_
  split
  · exact hf _ (upHub_kept _ _ h)
  · exact report_kept _ _ _ _ (hf _ (upHub_kept _ _ h))

theorem stopBeams_kept {o : State} (x0 : List Beam) (s : State) (h : Kept o s) : Kept o (State.stopBeams x0 s) := by
  unfold State.stopBeams
  try dsimp only [State.fresh]
  with_reducible repeat
    (first
     | assumption | split | apply Kept.each | apply Kept.ifc | apply Kept.shp | apply askStop_kept | apply Kept.lit
      | intro _)

theorem openVisit_kept {o : State} (x0 : Beam) (x1 : Visit → Visit) (s : State) (h : Kept o s) :
    Kept o (State.openVisit x0 x1 s) := by
  unfold State.openVisit
  try dsimp only [State.fresh]
  with_reducible repeat
    (first
     | assumption | split | apply Kept.each | apply Kept.ifc | apply Kept.shp | apply upLdg_kept | apply Kept.lit
      | intro _)

theorem forceMore_id'_kept {o : State} (s : State) (h : Kept o s) : Kept o (State.forceMore.id' s) := h

theorem forceMore_kept {o : State} (x0 x1 : Nat) (s : State) (h : Kept o s) : Kept o (State.forceMore x0 x1 s) := by
  unfold State.forceMore
  try dsimp only [State.fresh]
  with_reducible repeat
    (first
     | assumption | split | apply Kept.each | apply Kept.ifc | apply Kept.shp | apply asForced_kept
      | apply axHalt_kept | apply setB_kept | apply rptLost_kept | apply openVisit_kept | apply cellFull_kept
      | apply portDown_kept | apply onLanes_kept | apply miswired_kept | apply diverge_kept | apply upTwin_kept
      | apply setPair_kept | apply twinClear_kept | apply holdover_kept | apply refLost_kept | apply upRec_kept
      | apply stopAll_kept | apply upPwr_kept | apply leSafe_kept | apply upLs_kept | apply Kept.lit | apply forceMore_id'_kept | intro _)

theorem bootBreak_kept {o : State} (x0 : Nat) (s : State) (h : Kept o s) : Kept o (State.bootBreak x0 s) := by
  unfold State.bootBreak
  try dsimp only [State.fresh]
  with_reducible repeat
    (first
     | assumption | split | apply Kept.each | apply Kept.ifc | apply Kept.shp | apply upDev_kept | apply wr_kept
      | apply setSticky_kept | apply shpStop_kept | apply report_kept | apply Kept.lit | intro _)

theorem forceOne_kept {o : State} (x0 x1 : Nat) (s : State) (h : Kept o s) : Kept o (State.forceOne x0 x1 s) := by
  unfold State.forceOne
  try dsimp only [State.fresh]
  with_reducible repeat
    (first
     | assumption | split | apply Kept.each | apply Kept.ifc | apply Kept.shp | apply asForced_kept
      | apply bootBreak_kept | apply shpStop_kept | apply kill_kept | apply stopAll_kept | apply stopBeams_kept
      | apply enterFallback_kept | apply upPcu_kept | apply setB_kept | apply forceMore_kept | apply Kept.lit
      | intro _)

theorem forceSram_kept {o : State} (x0 x1 : Nat) (s : State) (h : Kept o s) : Kept o (State.forceSram x0 x1 s) := by
  unfold State.forceSram
  try dsimp only [State.fresh]
  with_reducible repeat
    (first
     | assumption | split | apply Kept.each | apply Kept.ifc | apply fresh_kept | apply asForced_kept
      | apply stopBeams_kept | apply Kept.lit | intro _ | refine Kept.snd ‹_› ?_)

theorem forceBit_kept {o : State} (x0 : Nat) (s : State) (h : Kept o s) : Kept o (State.forceBit x0 s) := by
  unfold State.forceBit
  try dsimp only [State.fresh]
  with_reducible repeat
    (first
     | assumption | split | apply Kept.each | apply Kept.ifc | apply forceSram_kept | apply forceOne_kept
      | apply Kept.lit | intro _)

theorem bootFail_kept {o : State} (x0 : Nat) (s : State) (h : Kept o s) : Kept o (State.bootFail x0 s) := by
  unfold State.bootFail
  try dsimp only [State.fresh]
  with_reducible repeat
    (first
     | assumption | split | apply Kept.each | apply Kept.ifc | apply bootBreak_kept | apply report_kept
      | apply hubTake_kept | apply refresh_kept | apply Kept.lit | intro _)

theorem bootDone_kept {o : State} (s : State) (h : Kept o s) : Kept o (State.bootDone s) := by
  unfold State.bootDone
  try dsimp only [State.fresh]
  with_reducible repeat
    (first
     | assumption | split | apply Kept.each | apply Kept.ifc | apply upHub_kept | apply wr_kept | apply fresh_kept | apply upTime_kept
      | apply upHost_kept | apply ifc_kept | apply dlStart_kept | apply timeMark_kept | apply withEmit_kept
      | apply upLdc_kept | apply refresh_kept | apply upDev_kept | apply Kept.lit | intro _ | refine Kept.snd ‹_› ?_)

theorem ringByte_kept {o : State} (b : Beam) (a : Nat) (s : State) (h : Kept o s) : Kept o (State.ringByte b a s).2 := by
  unfold State.ringByte
  try dsimp only [State.fresh]
  with_reducible repeat (first | assumption | split | apply upBe_kept | apply Kept.lit | intro _)

theorem hostByte_kept {o : State} (s : State) (x1 : Nat) (h : Kept o s) : Kept o (State.hostByte s x1).2 := by
  unfold State.hostByte
  try dsimp only [State.fresh]
  with_reducible repeat
    (first
     | assumption | split | apply Kept.each | apply Kept.ifc | apply fresh_kept | apply ringByte_kept | apply Kept.lit | intro _
      | refine Kept.snd ‹_› ?_)

theorem hostBytes_kept {o : State} (n : Nat) : ∀ (a : Nat) (s : State), Kept o s → Kept o
    (State.hostBytes a n s).2 := by
  induction n with
  | zero => exact fun _ _ h => h
  | succ n ih => exact fun a s h => ih _ _ (hostByte_kept _ _ h)

theorem hostPut_kept {o : State} (x0 : Nat) (x1 : Byte) (s : State) (h : Kept o s) :
    Kept o (State.hostPut x0 x1 s) := by
  unfold State.hostPut
  try dsimp only [State.fresh]
  with_reducible repeat
    (first
     | assumption | split | apply Kept.each | apply Kept.ifc | apply upBe_kept | apply wrByte_kept | apply setB_kept
      | apply setValidity_kept | apply Kept.lit | intro _)

theorem hostPuts_kept {o : State} (l : List Byte) : ∀ (a : Nat) {s : State}, Kept o s → Kept o (s.hostPuts a l) := by
  induction l with
  | nil => exact fun _ _ h => h
  | cons v l ih => exact fun a _ h => ih (a + 1) (hostPut_kept _ _ _ h)

theorem latchRead_kept {o : State} (x0 : Path) (x1 : Nat) (s : State) (h : Kept o s) : Kept o
    (State.latchRead x0 x1 s) := by
  unfold State.latchRead
  try dsimp only [State.fresh]
  with_reducible repeat
    (first
     | assumption | split | apply Kept.each | apply Kept.ifc | apply upHost_kept | apply Kept.lit | intro _)

theorem mbxPlace_kept {o : State} (x0 x1 : Nat) (x2 : List Byte) (s : State) (h : Kept o s) :
    Kept o (State.mbxPlace x0 x1 x2 s) := by
  unfold State.mbxPlace
  try dsimp only [State.fresh]
  with_reducible repeat
    (first
     | assumption | split | apply Kept.each | apply Kept.ifc | apply Kept.shp | apply wr_kept | apply Kept.lit
      | intro _)

theorem mbxPost_kept {o : State} (x0 x1 : Nat) (x2 : Bool) (x3 : List Word) (s : State) (h : Kept o s) :
    Kept o (State.mbxPost x0 x1 x2 x3 s) := by
  unfold State.mbxPost
  try dsimp only [State.fresh]
  with_reducible repeat
    (first
     | assumption | split | apply Kept.each | apply Kept.ifc | apply Kept.shp | apply advance_kept | apply setF_kept
      | apply wr_kept | apply msix_kept | apply Kept.lit | intro _)

theorem mbxDone_kept {o : State} (x0 : Nat) (x1 : Word) (x2 x3 : Nat) (x4 : List Word) (s : State) (h : Kept o s) :
    Kept o (State.mbxDone x0 x1 x2 x3 x4 s) := by
  unfold State.mbxDone
  try dsimp only [State.fresh]
  with_reducible repeat
    (first
     | assumption | split | apply Kept.each | apply Kept.ifc | apply upHost_kept | apply mbxPost_kept | apply Kept.lit
      | intro _)

theorem mbxJobIssue_kept {o : State} (x0 : MbxRun) (s : State) (h : Kept o s) : Kept o (State.mbxJobIssue x0 s) := by
  unfold State.mbxJobIssue
  try dsimp only [State.fresh]
  with_reducible repeat
    (first
     | assumption | split | apply Kept.each | apply Kept.ifc | apply Kept.shp | apply setF_kept | apply wr_kept
      | apply jobIssue_kept | apply Kept.lit | intro _)

theorem mbxFinish_kept {o : State} (x0 : MbxRun) (x1 : Word) (s : State) (h : Kept o s) :
    Kept o (State.mbxFinish x0 x1 s) := by
  unfold State.mbxFinish
  try dsimp only [State.fresh]
  with_reducible repeat
    (first
     | assumption | split | apply Kept.each | apply Kept.ifc | apply Kept.shp | apply upHost_kept
      | apply mbxDone_kept | apply Kept.lit | intro _)

theorem mbxGo_kept {o : State} (s : State) (h : Kept o s) : Kept o (State.mbxGo s) := by
  unfold State.mbxGo State.shp
  try dsimp only [State.fresh]
  with_reducible repeat
    (first
     | assumption | split | apply Kept.each | apply Kept.ifc | apply Kept.shp | apply mbxFinish_kept
      | apply upHost_kept | apply mbxJobIssue_kept | apply Kept.lit | intro _)

theorem patchStage_kept {o : State} (x0 x1 : Nat) (s : State) (h : Kept o s) : Kept o
    (State.patchStage x0 x1 s).1 := by
  unfold State.patchStage
  try dsimp only [State.fresh]
  with_reducible repeat
    (first
     | assumption | split | apply Kept.each | apply Kept.ifc | apply upMram_kept | apply Kept.lit | intro _)

theorem mbxServe_kept {o : State} (x0 : Nat) (x1 : Word) (x2 : Nat) (x3 : List Byte) (s : State) (h : Kept o s) :
    Kept o (State.mbxServe x0 x1 x2 x3 s) := by
  unfold State.mbxServe
  try dsimp only [State.fresh]
  with_reducible repeat
    (first
     | assumption | split | apply Kept.each | apply Kept.ifc | apply mbxDone_kept | apply patchStage_kept
      | apply upMram_kept | apply fresh_kept | apply upHost_kept | apply Kept.lit | intro _ | refine Kept.fst ‹_› ?_
      | refine Kept.snd ‹_› ?_)

theorem mbxRun_kept {o : State} (x0 : Nat) (x1 : Word) (x2 : Nat) (x3 : List Byte) (s : State) (h : Kept o s) : Kept o
    (State.mbxRun x0 x1 x2 x3 s) := by
  unfold State.mbxRun
  try dsimp only [State.fresh]
  with_reducible repeat
    (first
     | assumption | split | apply Kept.each | apply Kept.ifc | apply mbxDone_kept | apply mbxGo_kept
      | apply upHost_kept | apply mbxServe_kept | apply Kept.lit | intro _)

theorem mbxRing_kept {o : State} (s : State) (h : Kept o s) : Kept o (State.mbxRing s) := by
  unfold State.mbxRing State.shp
  try dsimp only [State.fresh]
  with_reducible repeat
    (first
     | assumption | split | apply Kept.each | apply Kept.ifc | apply Kept.shp | apply setB_kept | apply mbxPost_kept
      | apply mbxRun_kept | apply Kept.lit | intro _)

theorem mbxSend_kept {o : State} (x0 : BitVec 16) (x1 : Nat) (x2 : List Byte) (s : State) (h : Kept o s) : Kept o
    (State.mbxSend x0 x1 x2 s) := by
  unfold State.mbxSend
  try dsimp only [State.fresh]
  with_reducible repeat
    (first
     | assumption | split | apply Kept.each | apply Kept.ifc | apply mbxRing_kept | apply mbxPlace_kept
      | apply Kept.lit | intro _)

theorem dmaEnd_kept {o : State} (x0 : Fin 4) (x1 : Nat) (x2 : Bool) (s : State) (h : Kept o s) :
    Kept o (State.dmaEnd x0 x1 x2 s) := by
  unfold State.dmaEnd
  try dsimp only [State.fresh]
  with_reducible repeat
    (first
     | assumption | split | apply Kept.each | apply Kept.ifc | apply Kept.shp | apply upHost_kept | apply clrB_kept
      | apply setB_kept | apply setF_kept | apply assigned_kept | apply Kept.lit | intro _)

theorem store_kept {o : State} (x0 : Nat) (x1 : Word) (s : State) (h : Kept o s) : Kept o (State.store x0 x1 s) := by
  unfold State.store
  try dsimp only [State.fresh]
  with_reducible repeat
    (first
     | assumption | split | apply Kept.each | apply Kept.ifc | apply wmod_kept | apply Kept.lit | intro _)

theorem writeJob_kept {o : State} (x0 x1 : Nat) (x2 : Word) (s : State) (h : Kept o s) : Kept o
    (State.writeJob x0 x1 x2 s) := by
  unfold State.writeJob
  try dsimp only [State.fresh]
  with_reducible repeat
    (first
     | assumption | split | apply Kept.each | apply Kept.ifc | apply setF_kept | apply jobIssue_kept | apply setB_kept
      | apply jobPost_kept | apply wr_kept | apply store_kept | apply Kept.lit | intro _)

theorem sampleLdg_kept {o : State} (x0 : Nat) (s : State) (h : Kept o s) : Kept o (State.sampleLdg x0 s) := by
  unfold State.sampleLdg
  try dsimp only [State.fresh]
  with_reducible repeat
    (first
     | assumption | split | apply Kept.each | apply Kept.ifc | apply Kept.shp | apply upLdg_kept | apply Kept.lit
      | intro _)

theorem oscEdge_kept {o : State} (s : State) (h : Kept o s) : Kept o (State.oscEdge s) := by
  unfold State.oscEdge
  try dsimp only [State.fresh]
  with_reducible repeat
    (first
     | assumption | split | apply Kept.each | apply Kept.ifc | apply upTime_kept | apply fresh_kept | apply wr_kept
      | apply applySet_kept | apply Kept.lit | intro _ | refine Kept.snd ‹_› ?_)

theorem oscTick_kept {o : State} (s : State) (h : Kept o s) : Kept o (State.oscTick s) := by
  unfold State.oscTick
  try dsimp only [State.fresh]
  with_reducible repeat
    (first
     | assumption | split | apply Kept.each | apply Kept.ifc | apply upTime_kept | apply oscEdge_kept | apply Kept.lit
      | intro _)

theorem slewTick_kept {o : State} (s : State) (h : Kept o s) : Kept o (State.slewTick s) := by
  unfold State.slewTick
  try dsimp only [State.fresh]
  with_reducible repeat
    (first
     | assumption | split | apply Kept.each | apply Kept.ifc | apply upTime_kept | apply Kept.lit | intro _)

theorem axItems_kept {o : State} (s : State) (h : Kept o s) : Kept o (State.axItems s) := by
  unfold State.axItems
  try dsimp only [State.fresh]
  with_reducible repeat
    (first
     | assumption | split | apply Kept.each | apply Kept.ifc | apply Kept.shp | apply digItem_kept | apply Kept.lit
      | intro _)

theorem joinLost_kept {o : State} (s : State) (h : Kept o s) : Kept o (State.joinLost s) := by
  unfold State.joinLost
  try dsimp only [State.fresh]
  with_reducible repeat
    (first
     | assumption | split | apply Kept.each | apply Kept.ifc | apply joinFail_kept | apply Kept.lit | intro _)

theorem opTime_kept {o : State} (s : State) (h : Kept o s) : Kept o (State.opTime s) := by
  unfold State.opTime
  try dsimp only [State.fresh]
  with_reducible repeat
    (first
     | assumption | split | apply Kept.each | apply Kept.ifc | apply Kept.shp | apply upRec_kept | apply saveCb_kept
      | apply Kept.lit | intro _)

theorem tickOn_kept {o : State} (s : State) (h : Kept o s) : Kept o (State.tickOn s) := by
  unfold State.tickOn
  try dsimp only [State.fresh]
  with_reducible repeat
    (first
     | assumption | split | apply Kept.each | apply Kept.ifc | apply Kept.shp | apply slewTick_kept
      | apply opTime_kept | apply recStep_kept | apply axLimit_kept | apply axStep_kept | apply axItems_kept
      | apply fillTick_kept | apply leadStep_kept | apply decideStep_kept | apply gridHome_kept | apply stepDue_kept
      | apply mbxGo_kept | apply joinLost_kept | apply joinGone_kept | apply joinEnd_kept | apply ethNext_kept
      | apply holdDone_kept | apply Kept.lit | intro _)

theorem idle_kept {o : State} (s : State) (h : Kept o s) : Kept o (State.idle s) := by
  unfold State.idle
  try dsimp only [State.fresh]
  with_reducible repeat
    (first
     | assumption | split | apply Kept.each | apply Kept.ifc | apply hubTake_kept | apply oscTick_kept
      | apply tickOn_kept | apply Kept.lit | intro _)

end Sys2Proof.Machine
end

