-- ==== Sys2Proof/WellFormed.lean ====
section
/-! DEFINITION. What a sender is bound to in a command's operands beyond their types. -/

namespace Sys2Proof

/-- The operands lie within what the message or event can carry. -/
def Instr.wf : Instr → Bool
  | .imgLine _ _ _ _ _ w8 h8 d12 pix =>
    0 < w8.val && 0 < h8.val && pix.length == 8 * w8.val &&
      pix.all fun p => p.toNat < (if d12 then 4096 else 1024)
  | .hkRound ch => ch.length == 48
  | .dlRunComplete m =>
    m.length == 32 && m.all fun x => x.elem1.length == 80 && x.bypass1.length == 80 && x.elem2.length == 80 &&
      x.bypass2.length == 80
  | .auxData _ _ _ data => 1 ≤ data.length && data.length ≤ 56
  | .twinRtt _ _ rtts => 1 ≤ rtts.length && rtts.length ≤ 28
  | .twinLdg _ _ cells => 1 ≤ cells.length && cells.length ≤ 7
  | .twinFwd _ _ data => 1 ≤ data.length && data.length ≤ 60
  | .cfgWr _ _ _ _ data => 1 ≤ data.length && data.length ≤ 12
  | .cfgRd _ _ _ _ count => 1 ≤ count.toNat && count.toNat ≤ 12
  | .cfgRsp _ _ _ _ data => data.length ≤ 12
  | .ptpSync _ m => -7 ≤ m.logInt && m.logInt ≤ 7
  | _ => true

end Sys2Proof
end

