-- ==== Sys2Proof/Laws/PerInstr.lean ====
section
/-! SUPPORT. A family of statements with one lemma per command: the parcel that a well-formed command stands for has a
length that the link carries (R384, R416). -/

namespace Sys2Proof.Laws.Parcel

/-- LEN of the TC1 parcel that a command stands for, from the layouts of R384 and R416; none for the other commands. -/
def len : Instr → Option Nat
  | .cfgRd _ _ _ _ _ => some 8
  | .cfgWr _ _ _ _ data => some (8 + 4 * data.length)
  | .cfgRsp _ _ _ _ data => some (4 + 4 * data.length)
  | .refMeas _ _ _ _ _ _ _ => some 16
  | .auxData _ _ _ data => some (8 + data.length)
  | .twinFwd _ _ data => some (4 + data.length)
  | .twinLdg _ _ cells => some (4 + 8 * cells.length)
  | .twinCtlCmd _ _ _ _ => some 16
  | .twinObj _ _ _ _ => some 20
  | .twinAdm _ _ _ _ _ => some 24
  | .twinStart _ _ _ => some 16
  | .twinStop _ _ => some 32
  | .twinDrift _ _ _ _ _ _ _ _ => some 32
  | .twinZero _ _ _ => some 12
  | .twinState _ _ => some 26
  | .twinLeave _ _ => some 5
  | .twinCfg _ _ => some 16
  | .twinJoined _ => some 4
  | .twinRtt _ _ rtts => some (8 + 2 * rtts.length)
  | _ => none

/-- A parcel that a well-formed command stands for has between 4 and 64 bytes. -/
def Statement (i : Instr) : Prop := i.wf = true → ∀ n, len i = some n → 4 ≤ n ∧ n ≤ 64

/-- A command whose length is a number between 4 and 64. -/
theorem of_fixed {i : Instr} (k : Nat) (e : len i = some k) (lo : 4 ≤ k) (hi : k ≤ 64) : Statement i := by
  intro _ n h
  rw [e] at h
  exact Option.some.inj h ▸ ⟨lo, hi⟩

/-- A command that stands for no parcel. -/
theorem of_none {i : Instr} (e : len i = none) : Statement i := by
  intro _ n h
  rw [e] at h
  cases h

theorem rstNAssert : Statement .rstNAssert := of_none rfl
theorem rstNRelease : Statement .rstNRelease := of_none rfl
theorem bootStepTimeout (step : Fin 8) : Statement (.bootStepTimeout step) := of_none rfl
theorem bootComplete : Statement .bootComplete := of_none rfl
theorem submit (slot : Slot) : Statement (.submit slot) := of_none rfl
theorem arm (slot : Slot) : Statement (.arm slot) := of_none rfl
theorem disarm (slot : Slot) : Statement (.disarm slot) := of_none rfl
theorem abort (slot : Slot) : Statement (.abort slot) := of_none rfl
theorem resume (slot : Slot) : Statement (.resume slot) := of_none rfl
theorem release (slot : Slot) : Statement (.release slot) := of_none rfl
theorem go (slot : Slot) : Statement (.go slot) := of_none rfl
theorem jobHold : Statement .jobHold := of_none rfl
theorem walkStart : Statement .walkStart := of_none rfl
theorem analysisEnd : Statement .analysisEnd := of_none rfl
theorem walkLimit : Statement .walkLimit := of_none rfl
theorem statusPublish (slot : Slot) : Statement (.statusPublish slot) := of_none rfl
theorem autoArm (slot : Slot) : Statement (.autoArm slot) := of_none rfl
theorem preparationBegin (slot : Slot) : Statement (.preparationBegin slot) := of_none rfl
theorem preparationEnd (slot : Slot) : Statement (.preparationEnd slot) := of_none rfl
theorem driftCutoff (head : Beam) : Statement (.driftCutoff head) := of_none rfl
theorem jobStart (slot : Slot) : Statement (.jobStart slot) := of_none rfl
theorem jobCommit : Statement .jobCommit := of_none rfl
theorem strokeStart (b : Beam) : Statement (.strokeStart b) := of_none rfl
theorem gateEdge (b : Beam) : Statement (.gateEdge b) := of_none rfl
theorem mark (b : Beam) (a : StrokeArgs) : Statement (.mark b a) := of_none rfl
theorem jump (b : Beam) (a : StrokeArgs) : Statement (.jump b a) := of_none rfl
theorem arc (b : Beam) (a : StrokeArgs) : Statement (.arc b a) := of_none rfl
theorem spot (b : Beam) (a : StrokeArgs) : Statement (.spot b a) := of_none rfl
theorem zacq (b : Beam) (set : BitVec 16) : Statement (.zacq b set) := of_none rfl
theorem zrel (b : Beam) : Statement (.zrel b) := of_none rfl
theorem muster (b : Beam) (id : Byte) (cell : Bool) (mask : BitVec 16) : Statement (.muster b id cell mask) :=
    of_none rfl
theorem waitt (b : Beam) (rel : Bool) (target : BitVec 48) : Statement (.waitt b rel target) := of_none rfl
theorem mov (b : Beam) (a : IntArgs) : Statement (.mov b a) := of_none rfl
theorem add (b : Beam) (a : IntArgs) : Statement (.add b a) := of_none rfl
theorem sub (b : Beam) (a : IntArgs) : Statement (.sub b a) := of_none rfl
theorem mul (b : Beam) (a : IntArgs) : Statement (.mul b a) := of_none rfl
theorem band (b : Beam) (a : IntArgs) : Statement (.band b a) := of_none rfl
theorem bor (b : Beam) (a : IntArgs) : Statement (.bor b a) := of_none rfl
theorem bxor (b : Beam) (a : IntArgs) : Statement (.bxor b a) := of_none rfl
theorem shl (b : Beam) (a : IntArgs) : Statement (.shl b a) := of_none rfl
theorem shr (b : Beam) (a : IntArgs) : Statement (.shr b a) := of_none rfl
theorem sar (b : Beam) (a : IntArgs) : Statement (.sar b a) := of_none rfl
theorem cmp (b : Beam) (a : IntArgs) : Statement (.cmp b a) := of_none rfl
theorem mulh (b : Beam) (a : IntArgs) : Statement (.mulh b a) := of_none rfl
theorem ld (b : Beam) (a : IntArgs) : Statement (.ld b a) := of_none rfl
theorem st (b : Beam) (a : IntArgs) : Statement (.st b a) := of_none rfl
theorem rdp (b : Beam) (a : IntArgs) : Statement (.rdp b a) := of_none rfl
theorem loop (b : Beam) (creg : Bool) (rc : Fin 16) (bound body : BitVec 24) :
    Statement (.loop b creg rc bound body) :=
    of_none rfl
theorem endl (b : Beam) (back : BitVec 24) : Statement (.endl b back) := of_none rfl
theorem br (b : Beam) (cond : Fin 16) (offset : BitVec 24) : Statement (.br b cond offset) := of_none rfl
theorem lgq (b : Beam) (rd rx ry : Fin 16) (useP : Bool) : Statement (.lgq b rd rx ry useP) := of_none rfl
theorem pset (b : Beam) (reg : Bool) (rs sel : Fin 16) (imm32 : Word) : Statement (.pset b reg rs sel imm32) :=
    of_none rfl
theorem focus (b : Beam) (reg rel : Bool) (rs : Fin 16) (imm32 : Word) : Statement (.focus b reg rel rs imm32) :=
    of_none rfl
theorem markev (b : Beam) (reg irq : Bool) (rs : Fin 16) (code : BitVec 16) (imm32 : Word) :
    Statement (.markev b reg irq rs code imm32) :=
    of_none rfl
theorem halt (b : Beam) : Statement (.halt b) := of_none rfl
theorem markevRelease (b : Beam) : Statement (.markevRelease b) := of_none rfl
theorem musterRelease (id : Byte) : Statement (.musterRelease id) := of_none rfl
theorem zacqWaitExpiry (b : Beam) : Statement (.zacqWaitExpiry b) := of_none rfl
theorem beStop (b : Beam) : Statement (.beStop b) := of_none rfl
theorem stopComplete (b : Beam) : Statement (.stopComplete b) := of_none rfl
theorem beEvPop (b : Beam) : Statement (.beEvPop b) := of_none rfl
theorem evClr (b : Beam) : Statement (.evClr b) := of_none rfl
theorem beCntClr (b : Beam) : Statement (.beCntClr b) := of_none rfl
theorem pdSample (b : Beam) (f : Bool) (sidx : BitVec 16) (pdA pdB : BitVec 16) :
    Statement (.pdSample b f sidx pdA pdB) :=
    of_none rfl
theorem pcuWord (b : Beam) : Statement (.pcuWord b) := of_none rfl
theorem pcuCntClr (b : Beam) : Statement (.pcuCntClr b) := of_none rfl
theorem imgLine (b : Beam) (f : Bool) (sidx frame : BitVec 16) (line : Fin 128) (w8 h8 : Fin 16) (depth12 : Bool)
    (pix : List (BitVec 16)) : Statement (.imgLine b f sidx frame line w8 h8 depth12 pix) := of_none rfl
theorem featurePublish (b : Beam) : Statement (.featurePublish b) := of_none rfl
theorem trimApply (b : Beam) : Statement (.trimApply b) := of_none rfl
theorem eyeLoss (b : Beam) : Statement (.eyeLoss b) := of_none rfl
theorem pcuCapArm (b : Beam) : Statement (.pcuCapArm b) := of_none rfl
theorem datagramSend (eth : Fin 2) : Statement (.datagramSend eth) := of_none rfl
theorem pwrReport (b : Beam) (f : Bool) (sidx : BitVec 16) (pwr : BitVec 16) (emit ready fault : Bool) :
    Statement (.pwrReport b f sidx pwr emit ready fault) :=
    of_none rfl
theorem reportLost (b : Beam) : Statement (.reportLost b) := of_none rfl
theorem diagWindowEnd (b : Beam) : Statement (.diagWindowEnd b) := of_none rfl
theorem pwmPeriodStart (b : Beam) : Statement (.pwmPeriodStart b) := of_none rfl
theorem musterGrid (b : Beam) : Statement (.musterGrid b) := of_none rfl
theorem interlockTrip (a b : Bool) (widthPs : Nat) : Statement (.interlockTrip a b widthPs) := of_none rfl
theorem ilkDiscrep : Statement .ilkDiscrep := of_none rfl
theorem rearm : Statement .rearm := of_none rfl
theorem emitOffRepeat (b : Beam) : Statement (.emitOffRepeat b) := of_none rfl
theorem emitOffWrite (b : Beam) (v : Bool) : Statement (.emitOffWrite b v) := of_none rfl
theorem ldEnable (b : Beam) (v : Bool) : Statement (.ldEnable b v) := of_none rfl
theorem killForce : Statement .killForce := of_none rfl
theorem ldCntClr (b : Beam) : Statement (.ldCntClr b) := of_none rfl
theorem visitCommit (b : Beam) : Statement (.visitCommit b) := of_none rfl
theorem sweepStep : Statement .sweepStep := of_none rfl
theorem sweepLate : Statement .sweepLate := of_none rfl
theorem ldgEcc (b : Beam) (cell : BitVec 26) : Statement (.ldgEcc b cell) := of_none rfl
theorem ldgFlush : Statement .ldgFlush := of_none rfl
theorem ldgClear : Statement .ldgClear := of_none rfl
theorem ldgApply : Statement .ldgApply := of_none rfl
theorem ldgImport : Statement .ldgImport := of_none rfl
theorem ldgOpDone : Statement .ldgOpDone := of_none rfl
theorem ldgQryGo : Statement .ldgQryGo := of_none rfl
theorem ldgQryDone : Statement .ldgQryDone := of_none rfl
theorem ldgCntClr : Statement .ldgCntClr := of_none rfl
theorem zoneRound : Statement .zoneRound := of_none rfl
theorem quotaWindowEnd : Statement .quotaWindowEnd := of_none rfl
theorem zoneCntClr : Statement .zoneCntClr := of_none rfl
theorem fabSlot : Statement .fabSlot := of_none rfl
theorem fabQuotaWindowEnd : Statement .fabQuotaWindowEnd := of_none rfl
theorem crookPreempt (chan : Fin 2) (debug : Bool) : Statement (.crookPreempt chan debug) := of_none rfl
theorem transferComplete (e : XferEnd) : Statement (.transferComplete e) := of_none rfl
theorem swap : Statement .swap := of_none rfl
theorem swapApply : Statement .swapApply := of_none rfl
theorem fabCntClr : Statement .fabCntClr := of_none rfl
theorem leUpdate (k : Engine) (l : LSlot) (retry : Nat) : Statement (.leUpdate k l retry) := of_none rfl
theorem axisFb (p : Port) (axis : Fin 16) (f : Bool) (sidx : BitVec 16) (pos : Word) (cur : BitVec 16) (aux : Word) :
    Statement (.axisFb p axis f sidx pos cur aux) :=
    of_none rfl
theorem load (k : Engine) (l : LSlot) : Statement (.load k l) := of_none rfl
theorem enable (k : Engine) (l : LSlot) : Statement (.enable k l) := of_none rfl
theorem disable (k : Engine) (l : LSlot) : Statement (.disable k l) := of_none rfl
theorem coefSwap (k : Engine) (l : LSlot) : Statement (.coefSwap k l) := of_none rfl
theorem leImgCheck (k : Engine) : Statement (.leImgCheck k) := of_none rfl
theorem clr (k : Engine) (l : LSlot) (acc : Fin 4) : Statement (.clr k l acc) := of_none rfl
theorem lda (k : Engine) (l : LSlot) (acc : Fin 4) (sh : Fin 32) (sa : Byte) : Statement (.lda k l acc sh sa) :=
    of_none rfl
theorem mac (k : Engine) (l : LSlot) (acc : Fin 4) (sa : Byte) (kk : Fin 64) : Statement (.mac k l acc sa kk) :=
    of_none rfl
theorem msu (k : Engine) (l : LSlot) (acc : Fin 4) (sa : Byte) (kk : Fin 64) : Statement (.msu k l acc sa kk) :=
    of_none rfl
theorem ada (k : Engine) (l : LSlot) (acc : Fin 4) (neg : Bool) (sh : Fin 32) (sa : Byte) :
    Statement (.ada k l acc neg sh sa) :=
    of_none rfl
theorem sta (k : Engine) (l : LSlot) (acc : Fin 4) (sh : Fin 32) (dst : Byte) : Statement (.sta k l acc sh dst) :=
    of_none rfl
theorem clp (k : Engine) (l : LSlot) (dst sa : Byte) (kk : Fin 64) : Statement (.clp k l dst sa kk) := of_none rfl
theorem sel (k : Engine) (l : LSlot) (dst sa sb sc : Byte) : Statement (.sel k l dst sa sb sc) := of_none rfl
theorem lawMov (k : Engine) (l : LSlot) (dst sa : Byte) : Statement (.lawMov k l dst sa) := of_none rfl
theorem lawHalt (k : Engine) (l : LSlot) : Statement (.lawHalt k l) := of_none rfl
theorem trArm (k : Engine) : Statement (.trArm k) := of_none rfl
theorem trTrig (k : Engine) : Statement (.trTrig k) := of_none rfl
theorem leCntClr (k : Engine) : Statement (.leCntClr k) := of_none rfl
theorem axAppend (n : Axis) : Statement (.axAppend n) := of_none rfl
theorem axReplace (n : Axis) : Statement (.axReplace n) := of_none rfl
theorem axStop (n : Axis) : Statement (.axStop n) := of_none rfl
theorem axResume (n : Axis) : Statement (.axResume n) := of_none rfl
theorem axHome (n : Axis) : Statement (.axHome n) := of_none rfl
theorem setPos (n : Axis) : Statement (.setPos n) := of_none rfl
theorem el1Move (n : Axis) : Statement (.el1Move n) := of_none rfl
theorem el1Set (n : Axis) : Statement (.el1Set n) := of_none rfl
theorem axClear (n : Axis) : Statement (.axClear n) := of_none rfl
theorem pitchStart (n : Axis) : Statement (.pitchStart n) := of_none rfl
theorem pitchEnd (n : Axis) : Statement (.pitchEnd n) := of_none rfl
theorem limitInput (n : Axis) (pos active : Bool) : Statement (.limitInput n pos active) := of_none rfl
theorem homeEdge (n : Axis) (active : Bool) : Statement (.homeEdge n active) := of_none rfl
theorem mmove (axis : Fin 16) (rel : Bool) (v a : BitVec 24) (tgt : Word) : Statement (.mmove axis rel v a tgt) :=
    of_none rfl
theorem mwait (mask : BitVec 16) : Statement (.mwait mask) := of_none rfl
theorem mdwell (ns : BitVec 48) : Statement (.mdwell ns) := of_none rfl
theorem machHalt : Statement .machHalt := of_none rfl
theorem calRefLoss : Statement .calRefLoss := of_none rfl
theorem dlRun : Statement .dlRun := of_none rfl
theorem dlRunComplete (m : List LineMeas) : Statement (.dlRunComplete m) := of_none rfl
theorem dlSwap (m : Fin 32) : Statement (.dlSwap m) := of_none rfl
theorem validate (q : BitVec 16) : Statement (.validate q) := of_none rfl
theorem invalidate (q : BitVec 16) : Statement (.invalidate q) := of_none rfl
theorem promote (n : BitVec 16) : Statement (.promote n) := of_none rfl
theorem drift (n : BitVec 16) : Statement (.drift n) := of_none rfl
theorem pcalPoint (arg : BitVec 16) : Statement (.pcalPoint arg) := of_none rfl
theorem pcalExposureEnd (b : Beam) : Statement (.pcalExposureEnd b) := of_none rfl
theorem pcalEnter (arg : BitVec 16) : Statement (.pcalEnter arg) := of_none rfl
theorem pcalCommit (n : BitVec 16) : Statement (.pcalCommit n) := of_none rfl
theorem pcalClear (n : BitVec 16) : Statement (.pcalClear n) := of_none rfl
theorem calCntClr : Statement .calCntClr := of_none rfl
theorem headTemp (b : Beam) (f : Bool) (temp : BitVec 16) : Statement (.headTemp b f temp) := of_none rfl
theorem headTempStale (b : Beam) : Statement (.headTempStale b) := of_none rfl
theorem refReq (b : Beam) : Statement (.refReq b) := of_none rfl
theorem refMeas (b : Beam) (seq tag : BitVec 16) (point : Fin 4) (signal : Bool) (mx my : Word) :
    Statement (.refMeas b seq tag point signal mx my) :=
    of_fixed _ rfl (by decide) (by decide)
theorem train (n : Lane) (blk : TrainBlk) (eye : Byte) : Statement (.train n blk eye) := of_none rfl
theorem am (n : Lane) (blk : AmBlk) : Statement (.am n blk) := of_none rfl
theorem amSend (p : Port) : Statement (.amSend p) := of_none rfl
theorem trainTimeout (p : Port) : Statement (.trainTimeout p) := of_none rfl
theorem laneLockLoss (n : Lane) : Statement (.laneLockLoss n) := of_none rfl
theorem hbLoss (p : Port) : Statement (.hbLoss p) := of_none rfl
theorem heartbeat (p : Port) : Statement (.heartbeat p) := of_none rfl
theorem farHeartbeat (p : Port) (f : Bool) (sidx echo turn : BitVec 16) (role : Fin 4) :
    Statement (.farHeartbeat p f sidx echo turn role) :=
    of_none rfl
theorem cellDrop (p : Port) (blocks : List RxBlk) : Statement (.cellDrop p blocks) := of_none rfl
theorem parcelBad (p : Port) (crcBad : Bool) (seq : BitVec 16) : Statement (.parcelBad p crcBad seq) := of_none rfl
theorem ack (p : Port) (next : BitVec 16) : Statement (.ack p next) := of_none rfl
theorem nak (p : Port) (next : BitVec 16) : Statement (.nak p next) := of_none rfl
theorem ackSend (p : Port) : Statement (.ackSend p) := of_none rfl
theorem replayTimeout (p : Port) : Statement (.replayTimeout p) := of_none rfl
theorem cfgRd (p : Port) (seq tag : BitVec 16) (addr : Word) (count : Byte) :
    Statement (.cfgRd p seq tag addr count) :=
    of_fixed _ rfl (by decide) (by decide)
theorem cfgWr (p : Port) (seq tag : BitVec 16) (addr : Word) (data : List Word) :
    Statement (.cfgWr p seq tag addr data) := by
  intro w m h
  simp only [Instr.wf, len, Option.some.injEq, Bool.and_eq_true, decide_eq_true_eq] at w h
  omega

theorem cfgRsp (p : Port) (seq tag : BitVec 16) (status : Byte) (data : List Word) :
    Statement (.cfgRsp p seq tag status data) := by
  intro w m h
  simp only [Instr.wf, len, Option.some.injEq, decide_eq_true_eq] at w h
  omega

theorem cfgTimeout (p : Port) : Statement (.cfgTimeout p) := of_none rfl
theorem cfgRead (p : Port) : Statement (.cfgRead p) := of_none rfl
theorem cfgWrite (p : Port) : Statement (.cfgWrite p) := of_none rfl
theorem retrain (p : Port) : Statement (.retrain p) := of_none rfl
theorem portCntClr (p : Port) : Statement (.portCntClr p) := of_none rfl
theorem laneCntClr (n : Lane) : Statement (.laneCntClr n) := of_none rfl
theorem auxData (seq stream : BitVec 16) (sidx : Word) (data : List Byte) :
    Statement (.auxData seq stream sidx data) := by
  intro w m h
  simp only [Instr.wf, len, Option.some.injEq, Bool.and_eq_true, decide_eq_true_eq] at w h
  omega

theorem ropeUp : Statement .ropeUp := of_none rfl
theorem handover : Statement .handover := of_none rfl
theorem confirmSolo : Statement .confirmSolo := of_none rfl
theorem releaseLead : Statement .releaseLead := of_none rfl
theorem roleCfgWrite (v : Fin 4) : Statement (.roleCfgWrite v) := of_none rfl
theorem twinTimeSend : Statement .twinTimeSend := of_none rfl
theorem twinTime (launch lastArr : Word) : Statement (.twinTime launch lastArr) := of_none rfl
theorem twinSkewCheck : Statement .twinSkewCheck := of_none rfl
theorem checkpointDigest : Statement .checkpointDigest := of_none rfl
theorem twinDigest (num : Word) (digest : DWord) : Statement (.twinDigest num digest) := of_none rfl
theorem digestTimeout : Statement .digestTimeout := of_none rfl
theorem twinHbMissing : Statement .twinHbMissing := of_none rfl
theorem twinTake (m : TakeMsg) : Statement (.twinTake m) := of_none rfl
theorem takeover : Statement .takeover := of_none rfl
theorem twinCmdEffective : Statement .twinCmdEffective := of_none rfl
theorem twinCtlCmd (seq : BitVec 16) (op slot : Byte) (at_ : BitVec 64) : Statement (.twinCtlCmd seq op slot at_) :=
    of_fixed _ rfl (by decide) (by decide)
theorem twinObj (seq : BitVec 16) (addr : BitVec 64) (len crc : Word) : Statement (.twinObj seq addr len crc) :=
    of_fixed _ rfl (by decide) (by decide)
theorem twinFwd (seq : BitVec 16) (ofs : Word) (data : List Byte) : Statement (.twinFwd seq ofs data) := by
  intro w m h
  simp only [Instr.wf, len, Option.some.injEq, Bool.and_eq_true, decide_eq_true_eq] at w h
  omega

theorem twinLdg (seq : BitVec 16) (ofs : Word) (cells : List DWord) : Statement (.twinLdg seq ofs cells) := by
  intro w m h
  simp only [Instr.wf, len, Option.some.injEq, Bool.and_eq_true, decide_eq_true_eq] at w h
  omega

theorem twinAdm (seq : BitVec 16) (slot code : Byte) (jtFin digest : BitVec 64) :
    Statement (.twinAdm seq slot code jtFin digest) :=
    of_fixed _ rfl (by decide) (by decide)
theorem twinStart (seq : BitVec 16) (slot : Byte) (at_ : BitVec 64) : Statement (.twinStart seq slot at_) :=
    of_fixed _ rfl (by decide) (by decide)
theorem twinStop (seq : BitVec 16) (m : StopMsg) : Statement (.twinStop seq m) :=
    of_fixed _ rfl (by decide) (by decide)
theorem twinDrift (seq : BitVec 16) (head : Byte) (m00 m01 m10 m11 ox oy : Word) :
    Statement (.twinDrift seq head m00 m01 m10 m11 ox oy) :=
    of_fixed _ rfl (by decide) (by decide)
theorem twinZero (seq : BitVec 16) (first count : Word) : Statement (.twinZero seq first count) :=
    of_fixed _ rfl (by decide) (by decide)
theorem twinState (seq : BitVec 16) (m : StateMsg) : Statement (.twinState seq m) :=
    of_fixed _ rfl (by decide) (by decide)
theorem twinLeave (seq : BitVec 16) (cause : Byte) : Statement (.twinLeave seq cause) :=
    of_fixed _ rfl (by decide) (by decide)
theorem twinCfg (seq : BitVec 16) (digest : DWord) : Statement (.twinCfg seq digest) :=
    of_fixed _ rfl (by decide) (by decide)
theorem twinJoined (seq : BitVec 16) : Statement (.twinJoined seq) := of_fixed _ rfl (by decide) (by decide)
theorem twinRtt (seq : BitVec 16) (first : Byte) (rtts : List (BitVec 16)) : Statement (.twinRtt seq first rtts) := by
  intro w m h
  simp only [Instr.wf, len, Option.some.injEq, Bool.and_eq_true, decide_eq_true_eq] at w h
  omega

theorem faultReport (id unit : Byte) (detail : BitVec 16) : Statement (.faultReport id unit detail) := of_none rfl
theorem fltAck (cls : Fin 4) (seq : Byte) : Statement (.fltAck cls seq) := of_none rfl
theorem fltForce (k : Fin 8) (bits : Word) : Statement (.fltForce k bits) := of_none rfl
theorem shadowClose : Statement .shadowClose := of_none rfl
theorem quietPeriodEnd : Statement .quietPeriodEnd := of_none rfl
theorem fltCntClr : Statement .fltCntClr := of_none rfl
theorem ladderRequest (func : Fin 16) (unit : Fin 64) (step : Fin 8) : Statement (.ladderRequest func unit step) :=
    of_none rfl
theorem ladderKey (key : BitVec 16) : Statement (.ladderKey key) := of_none rfl
theorem ladderStepDone (func : Fin 16) (unit : Fin 64) (ok : Bool) : Statement (.ladderStepDone func unit ok) :=
    of_none rfl
theorem pwrCycEnd : Statement .pwrCycEnd := of_none rfl
theorem recordWrite : Statement .recordWrite := of_none rfl
theorem optimeSave : Statement .optimeSave := of_none rfl
theorem crcModeEnd : Statement .crcModeEnd := of_none rfl
theorem freeze (path : Path) (on : Bool) : Statement (.freeze path on) := of_none rfl
theorem freezeTimeout : Statement .freezeTimeout := of_none rfl
theorem recRdData (path : Path) : Statement (.recRdData path) := of_none rfl
theorem recClrKey (path : Path) (key : BitVec 16) : Statement (.recClrKey path key) := of_none rfl
theorem clrRing (path : Path) : Statement (.clrRing path) := of_none rfl
theorem clrCairn (path : Path) : Statement (.clrCairn path) := of_none rfl
theorem recCntClr : Statement .recCntClr := of_none rfl
theorem vwarnFall : Statement .vwarnFall := of_none rfl
theorem vwarnRise (low : BitVec 16) : Statement (.vwarnRise low) := of_none rfl
theorem vstopFall : Statement .vstopFall := of_none rfl
theorem vstopRise (low : BitVec 16) : Statement (.vstopRise low) := of_none rfl
theorem vresetFall : Statement .vresetFall := of_none rfl
theorem vresetRise : Statement .vresetRise := of_none rfl
theorem hkRound (ch : List Int) : Statement (.hkRound ch) := of_none rfl
theorem pwrCntClr : Statement .pwrCntClr := of_none rfl
theorem clkLoss (which : Fin 8) : Statement (.clkLoss which) := of_none rfl
theorem rtcStartTimeout : Statement .rtcStartTimeout := of_none rfl
theorem timeFold : Statement .timeFold := of_none rfl
theorem timeRateWrite (d : Dom) (v : Word) : Statement (.timeRateWrite d v) := of_none rfl
theorem timeOfsWrite (d : Dom) (v : Word) : Statement (.timeOfsWrite d v) := of_none rfl
theorem timeStepWrite (d : Dom) (v : Word) : Statement (.timeStepWrite d v) := of_none rfl
theorem bellwetherWrite (b : Bool) : Statement (.bellwetherWrite b) := of_none rfl
theorem timeSnap : Statement .timeSnap := of_none rfl
theorem tpArm (n : Fin 8) : Statement (.tpArm n) := of_none rfl
theorem tpulseFire (n : Fin 8) : Statement (.tpulseFire n) := of_none rfl
theorem tpulseEnd (n : Fin 8) : Statement (.tpulseEnd n) := of_none rfl
theorem tcapEdge (n : Fin 8) (rising : Bool) (width : Nat) (err : Fin 3) : Statement (.tcapEdge n rising width err) :=
    of_none rfl
theorem tcRawPop (n : Fin 8) : Statement (.tcRawPop n) := of_none rfl
theorem ptpSync (d : Dom) (m : SyncMsg) : Statement (.ptpSync d m) := of_none rfl
theorem ptpAnnounce (d : Dom) (m : AnnounceMsg) : Statement (.ptpAnnounce d m) := of_none rfl
theorem ptpEventSend (d : Dom) (e : PtpEvent) : Statement (.ptpEventSend d e) := of_none rfl
theorem ptpResponse (d : Dom) (r : PtpResp) : Statement (.ptpResponse d r) := of_none rfl
theorem ptpParentLoss (d : Dom) : Statement (.ptpParentLoss d) := of_none rfl
theorem timeServoWrite (d : Dom) (v : Word) : Statement (.timeServoWrite d v) := of_none rfl
theorem arpRequest (eth : Fin 2) (ip : Word) (who : ArpSender) : Statement (.arpRequest eth ip who) := of_none rfl
theorem rtcSet : Statement .rtcSet := of_none rfl
theorem rtcSnap : Statement .rtcSnap := of_none rfl
theorem rtcTrimStep : Statement .rtcTrimStep := of_none rfl
theorem backupBrownout : Statement .backupBrownout := of_none rfl
theorem dmaGo (c : Fin 4) : Statement (.dmaGo c) := of_none rfl
theorem dmaDone (c : Fin 4) (e : XferEnd) (host : List Byte) : Statement (.dmaDone c e host) := of_none rfl
theorem auxEnable (v : Bool) : Statement (.auxEnable v) := of_none rfl
theorem hostWinLoWrite (v : Word) : Statement (.hostWinLoWrite v) := of_none rfl
theorem flr : Statement .flr := of_none rfl
theorem info (tag : BitVec 16) : Statement (.info tag) := of_none rfl
theorem mbxJob (tag : BitVec 16) (op slot : Byte) (daddr : BitVec 64) : Statement (.mbxJob tag op slot daddr) :=
    of_none rfl
theorem mbxHold (tag : BitVec 16) : Statement (.mbxHold tag) := of_none rfl
theorem patchLoad (tag : BitVec 16) (addr : BitVec 64) (len : Word) : Statement (.patchLoad tag addr len) :=
    of_none rfl
theorem bootCfgSave (tag : BitVec 16) : Statement (.bootCfgSave tag) := of_none rfl
theorem ddrCfgSave (tag : BitVec 16) (cfg : BitVec 64) : Statement (.ddrCfgSave tag cfg) := of_none rfl
theorem dbgChallenge (tag : BitVec 16) : Statement (.dbgChallenge tag) := of_none rfl
theorem dbgUnlock (tag : BitVec 16) (addr : BitVec 64) : Statement (.dbgUnlock tag addr) := of_none rfl
theorem sysLock : Statement .sysLock := of_none rfl
theorem tapInstruction (i : TapInstr) : Statement (.tapInstruction i) := of_none rfl
theorem loReadLatch (path : Path) (addr : BitVec 24) : Statement (.loReadLatch path addr) := of_none rfl
theorem registerWrite (path : Path) (addr : BitVec 24) (v : Word) : Statement (.registerWrite path addr v) :=
    of_none rfl
theorem bar2Access (write : Bool) (ofs : BitVec 28) (data : Word) (be : BitVec 4) :
    Statement (.bar2Access write ofs data be) :=
    of_none rfl
theorem ilkInputRise (b : Bool) : Statement (.ilkInputRise b) := of_none rfl
theorem calRefEdge (dev : Int) : Statement (.calRefEdge dev) := of_none rfl
theorem rtcOscStart : Statement .rtcOscStart := of_none rfl
theorem slewEnd : Statement .slewEnd := of_none rfl
theorem calendarEnd : Statement .calendarEnd := of_none rfl
theorem ethLink (n : Fin 2) (blockLock up : Bool) : Statement (.ethLink n blockLock up) := of_none rfl
theorem ethFrameDiscard (n : Fin 2) (badFcs : Bool) (f : EthFrame) : Statement (.ethFrameDiscard n badFcs f) := of_none rfl
theorem axAtRest (n : Axis) : Statement (.axAtRest n) := of_none rfl

end Sys2Proof.Laws.Parcel
end

