-- ==== Sys2Proof/Tests/Slice0.lean ====
section
/-! SUPPORT. Tests. -/

namespace Sys2Proof.Tests

open Sys2Proof.Machine

set_option Elab.async false
set_option linter.unusedSimpArgs false
set_option linter.unusedTactic false
set_option linter.unreachableTactic false
set_option linter.unnecessarySeqFocus false
set_option maxRecDepth 100000

/-- `SparseWf` as it is decided on data. -/
def sparseOk {α : Type} [DecidableEq α] (d : Nat → α) : List (Nat × α) → Bool
  | [] => true
  | (k, v) :: l => v != d k && l.all (fun p => decide (k < p.1)) && sparseOk d l

theorem sparse_iff {α : Type} [DecidableEq α] (d : Nat → α) (l : List (Nat × α)) :
    SparseWf d l ↔ sparseOk d l = true := by
  induction l with
  | nil => simp [SparseWf, sparseOk]
  | cons p l ih => simp [SparseWf, sparseOk, ih, and_assoc]

/-- `State.noStartDue` as it is decided on data. -/
theorem noStart_iff (s : State) :
    s.noStartDue ↔ ∀ k : Slot, (s.js k).st = .armed → ∀ t ∈ (s.js k).s, s.tick < t ∨ (s.js k).prepAt = none :=
  ⟨fun h k ha t ht => h k t ha ht, fun h k t ha ht => h k ha t ht⟩

/-- A block of 16 beams, booted and IDLE, at a tick that begins a sample and a fabric slot. -/
def s0 : State :=
  { State.reset with
    tick := 320000000
    dev := { State.reset.dev with state := .idle, booted := true, variant := 12 }
    ldc := { State.reset.ldc with kill := false, cause := 0 }
    recd := { State.reset.recd with queue := [] } }
/-- A descriptor of JOB_ID 7 that names beam 1 alone, with more fields. -/
def desc (mode param : Nat) (more : List (Nat × Nat)) : BitVec 1024 :=
  BitVec.ofNat 1024 (7 + mode * 2 ^ 32 + 2 * 2 ^ 48 + param * 2 ^ 64 + (more.map fun x => x.2 * 2 ^ (8 * x.1)).sum)
def prom : Promise :=
  { jtFin := 5000, finish := [(1, 5000)], begins := [], ends := [], blends := [], waits := [], merges := [], code := [],
    needs := [], peak := 0, start := 0, digest := 0, strokes := [], slots := [], machFin := 0, last := [], bars := [],
    axEnds := [], axLast := [] }
/-- Slot 2 of `s` in a state, with its job naming beam 1. -/
def slot (st : JobState) (f : JobSlot → JobSlot) (s : State) : State :=
  s.upSlot 2 fun j => f { j with st := st, desc := desc 0 0 [] }
/-- Slot 2 ARMED, prepared, with S on a past tick. -/
def armedJ : State := (slot .armed (fun j => { j with promise := some prom }) s0).upDev fun d => { d with state := .armed }
def accJ : State := slot .accepted (fun j => { j with promise := some { prom with jtFin := 0 } }) s0
def runJ0 : State := slot .running (fun j => { j with promise := some prom, prepAt := some 319000000, s := some 319999000, started := true }) s0
def runJ : State := (runJ0.upDev fun d => { d with state := .run }).upBe 1 fun e => { e with job := some 2 }
def belay : State := slot .accepted (fun j => { j with promise := some prom }) (s0.upDev fun d => { d with state := .belay, inBelay := true })
def up (l : List Nat) (s : State) : State := { s with port := l.foldl (fun v p => vupdN v p fun x => { x with st := .up }) s.port }
def at_ (t : Nat) (s : State) : State := { s with tick := t }
/-- Channel 1 enabled with its port up. -/
def lp1 : State := up [1, 17] (s0.setB (R.LDn_CTL 1) 0)

namespace T1


def stInReset : State := s0.upDev fun d => { d with state := .reset, booted := false }
def stSubmitOk : State := ((s0.wr R.DDR_STATUS 0x200002#32).wr (R.JOB_SLOTn_DADDR_HI 2) 1).wrBytes 0x100000000 [1,2,3]
def stHoldingJ : State := slot .holding id (s0.upDev fun d => { d with state := .hold })
def stGoJ : State := (armedJ.upSlot 2 fun j => { j with desc := desc 3 8 [], ready := true })
def stWalkQ : State := (slot .analysing id s0).upJob fun j => { j with queue := [2, 3] }
def stWalking : State := (slot .analysing (fun j => { j with phase := 1 }) s0).upJob fun j => { j with walking := some 2 }
/-- A job that names no beam and no program, and passes the analysis: TAU 1, a kernel of sum 65,536. -/
def bareN : Nat := 7 + 2 ^ 800 + 65535 * 2 ^ 848 + 2 ^ 864
def stBare : State :=
  s0.upSlot 2 fun j => { j with st := .analysing, desc := BitVec.ofNat 1024 (bareN + (crc32 (toBytes 124 bareN)).toNat * 2 ^ 992) }
def ana (v : Option Viol) : Analysis :=
  { viol := v, promise := if v.isSome then none else some prom, walked := 0, fin := 5000, beams := [], hotspot := 0 }
def settled (v : Option Viol) : State := (slot .analysing (fun j => { j with phase := 1, decided := some (ana v) }) s0).upJob
  fun j => { j with walking := some 2 }
def stStartJ : State := armedJ.upSlot 2 fun j => { j with prepAt := some 319000000, tPrep := 1000, s := some 320000000 }
/-- The job of `stStartJ` with a machine program that moves axis 3, which is in FAULT. -/
def stAxMove : State :=
  (((stStartJ.upAx 3 fun a => { a with st := .fault }).upSlot 2 fun j => { j with desc := desc 0 0 [(24, 0x100001)] }).wrBytes 0x100001000
    (toBytes 4 0x314E4C50 ++ toBytes 4 0x10001 ++ toBytes 4 3 ++ toBytes 52 0)).wrBytes 0x100001040
    ((mmoveWords 3 true 5 6 100).flatMap (fun w => toBytes 8 w.toNat) ++ toBytes 8 (0x7F * 2 ^ 56))
def stAutoW : State := accJ.upSlot 2 fun j => { j with autoWait := true }
def stReady : State := armedJ.upSlot 2 fun j => { j with prepAt := some 319000000, tPrep := 1000 }
def stDriftPrep : State := (armedJ.upBe 1 fun e => { e with job := some 2 }).upHead 1 fun h => { h with check := some { got := [], inPrep := true, asked := none, legAt := 320000000 } }
def stMissFin : State := runJ.upSlot 2 fun j => { j with s := some 310000000 }
def stCommitJ : State := runJ.upBe 1 fun e => { e with dec := { e.dec with halted := true } }

theorem test_StepKeepsCanonical_met :
    (∃ (s : State) (t : State), s.memWf ∧ s.regsWf ∧ step s = Host.Outcome.next t) := by
  refine ⟨stInReset, State.idle stInReset, ?_, ?_, rfl⟩
  · rw [State.memWf, sparse_iff]; decide +kernel
  · rw [State.regsWf, sparse_iff]; decide +kernel

theorem test_OneJobHeld_met :
    (∃ (s : State) (t : State), s.oneHeld ∧ (∃ n : Slot, (s.js n).st = JobState.running) ∧
      step s = Host.Outcome.next t) := by
  refine ⟨{ runJ with pending := [.sysLock] }, runJ.upDev fun d => { d with lock := true }, ?_, ?_, rfl⟩
  · simp -decide only [State.oneHeld]; decide +kernel
  · decide +kernel

theorem test_BootAndReset_met :
    (∃ (s : State), s.dev.state = DevState.reset ∧ s.dev.belowVreset = false) ∧
    (∃ (step : Fin 8) (s : State), s.dev.state = DevState.boot ∧ s.dev.bootFailed = false ∧ step ≠ 0) ∧
    (∃ (s : State), s.dev.state = DevState.boot ∧ s.dev.bootFailed = false ∧ s.tick ≤ 240000000 ∧ s.dev.inBelay =
      false ∧ s.dev.rstLow = false ∧ s.dev.belowVreset = false ∧ (∀ (n : Slot), (s.js n).st = JobState.empty) ∧
      s.hub.latch[2].seq = 0) ∧
    (∃ (s : State), s.pending = [] ∧ s.hub.pending = [] ∧ s.dev.state = DevState.reset) := by
  refine ⟨⟨stInReset, ?_⟩, ⟨1, State.reset, ?_⟩, ⟨State.reset, ?_⟩, ⟨stInReset, ?_⟩⟩ <;>
    (try simp -decide only [State.regsWf, State.memWf, sparse_iff, State.Decodes, State.LawRuns, State.MbxFree,
      State.noArmWaits, State.TakesTwin, State.armedFresh, noStart_iff]) <;> decide +kernel

theorem test_JobQueueCommands_met :
    (∃ (n : Slot) (s : State), s.twin.pair = 0 ∧ s.rb R.JOB_RESULT 23 = false ∧ s.dev.inBelay = false ∧ s.regsWf ∧
      s.noStartDue ∧ (s.js n).st = JobState.empty ∧ s.descAddr n % 128 = 0 ∧ s.inDdr (s.descAddr n) 128 = true ∧ ∀ (k
      : Slot), (s.js k).st = JobState.empty ∨ (s.js k).jobId ≠
      ({ State.resetSlot with desc := BitVec.ofNat 1024 (s.rdN (s.descAddr n) 128) }).jobId) ∧
    (∃ (n : Slot) (s : State), s.twin.pair = 0 ∧ s.rb R.JOB_RESULT 23 = false ∧ s.dev.inBelay = false ∧ s.regsWf ∧
      s.noStartDue ∧ (s.js n).st = JobState.accepted ∧ s.twin.confirm = false ∧ (s.js n).promise.isSome = true ∧
      s.armCheck n = 0) ∧
    (∃ (n : Slot) (s : State), s.twin.pair = 0 ∧ s.rb R.JOB_RESULT 23 = false ∧ s.dev.inBelay = false ∧ s.regsWf ∧
      s.noStartDue ∧ (s.js n).st = JobState.armed) ∧
    (∃ (n : Slot) (s : State), s.twin.pair = 0 ∧ s.rb R.JOB_RESULT 23 = false ∧ s.dev.inBelay = false ∧ s.regsWf ∧
      s.noStartDue ∧ (s.js n).st = JobState.holding) ∧
    (∃ (n : Slot) (s : State), s.twin.pair = 0 ∧ s.rb R.JOB_RESULT 23 = false ∧ s.dev.inBelay = false ∧ s.regsWf ∧
      s.noStartDue ∧ ((s.js n).st = JobState.accepted ∨ (s.js n).st = JobState.rejected ∨ (s.js n).st = JobState.done
      ∨ (s.js n).st = JobState.aborted)) ∧
    (∃ (c : Slot → Instr) (s : State), (c = Instr.submit ∨ c = Instr.arm ∨ c = Instr.resume) ∧ s.twin.pair = 0 ∧ s.rb
      R.JOB_RESULT 23 = false ∧ s.dev.inBelay = true ∧ s.regsWf ∧ s.noStartDue) ∧
    (∃ (n : Slot) (s : State), s.armedSlots = [n] ∧ s.twin.pair = 0 ∧ s.rb R.JOB_RESULT 23 = false ∧ s.dev.inBelay =
      false ∧ s.regsWf ∧ (s.js n).prepAt.isSome = true ∧ s.otherRuns n = false ∧ s.axesRest n = true ∧ ∃ s0 ∈ (s.js
      n).s, s0 ≤ s.tick) ∧
    (∃ (n : Slot) (s : State), s.armedSlots = [n] ∧ s.twin.pair = 0 ∧ s.rb R.JOB_RESULT 23 = false ∧ s.dev.inBelay =
      false ∧ s.regsWf ∧ (s.js n).prepAt.isSome = true ∧ s.otherRuns n = false ∧ s.axesRest n = false ∧ ∃ s0 ∈ (s.js
      n).s, s0 ≤ s.tick) := by
  refine ⟨⟨2, stSubmitOk, ?_⟩, ⟨2, accJ, ?_⟩, ⟨2, armedJ, ?_⟩, ⟨2, stHoldingJ, ?_⟩, ⟨2, accJ, ?_⟩, ⟨(![.submit 0,
    .submit 1, .submit 2, .submit 3]), belay, ?_⟩, ⟨2, stStartJ, ?_⟩, ⟨2, stAxMove, ?_⟩⟩ <;>
    (try simp -decide only [State.regsWf, State.memWf, sparse_iff, State.Decodes, State.LawRuns, State.MbxFree,
      State.noArmWaits, State.TakesTwin, State.armedFresh, noStart_iff]) <;> decide +kernel

theorem test_JobControlCommands_met :
    (∃ (n : Slot) (s : State), s.twin.pair = 0 ∧ s.rb R.JOB_RESULT 23 = false ∧ s.noStartDue ∧ ((s.js n).st =
      JobState.analysing ∧ ((s.js n).remainder = true ∨ ∀ (b : Beam), s.be[b].job ≠ some n) ∨ (s.js n).st =
      JobState.armed ∨ (s.js n).st = JobState.holding ∨ (s.js n).st = JobState.running ∧ s.commitReady n = false)) ∧
    (∃ (n : Slot) (s : State), s.twin.pair = 0 ∧ s.rb R.JOB_RESULT 23 = false ∧ s.noStartDue ∧ (s.js n).st =
      JobState.armed ∧ (s.js n).startMode = 3 ∧ (s.js n).param % 16 = 8 ∧ (s.js n).ready = true ∧ (s.js n).started =
      false) ∧
    (∃ (s : State), s.twin.pair = 0 ∧ s.rb R.JOB_RESULT 23 = false ∧ s.dev.holdReq = 0 ∧ ∃ n ∈ s.runSlot,
      s.commitReady n = false) ∧
    (∃ (n : Slot) (s : State), ((s.js n).st = JobState.running ∨ (s.js n).st = JobState.holding) ∧ s.walkSlot ≠ some n
      ∧ (s.js n).pubRound ≠ s.tick / 1000000) := by
  refine ⟨⟨2, armedJ, ?_⟩, ⟨2, stGoJ, ?_⟩, ⟨runJ, ?_⟩, ⟨2, runJ, ?_⟩⟩ <;>
    (try simp -decide only [State.regsWf, State.memWf, sparse_iff, State.Decodes, State.LawRuns, State.MbxFree,
      State.noArmWaits, State.TakesTwin, State.armedFresh, noStart_iff]) <;> decide +kernel

theorem test_AdmissionCommands_met :
    (∃ (n : Slot) (rest : List Slot) (s : State), s.job.queue = n :: rest ∧ s.job.walking = none ∧ s.ldg.op < 2 ∧
      State.stopping n s = false) ∧
    (∃ (s : State), s.twin.pair = 0 ∧ s.dev.shpHalt = false ∧ ∃ n ∈ s.job.walking, (s.js n).st = JobState.analysing ∧
      ∃ v ∈ (s.analysisOf n).viol, True) ∧
    (∃ (s : State), s.twin.pair = 0 ∧ s.dev.shpHalt = false ∧ ∃ n ∈ s.job.walking, (s.js n).st = JobState.analysing ∧
      (s.analysisOf n).viol = none ∧ ∃ p ∈ (s.analysisOf n).promise, True) ∧
    (∃ (n : Slot) (s : State), (analyse s n).viol = none) ∧
    (∃ (s : State), s.twin.pair = 0 ∧ s.dev.shpHalt = false ∧ ∃ n ∈ s.job.walking, (s.js n).st = JobState.analysing ∧
      ∃ v ∈ (s.analysisOf n).viol, v.code = 76) ∧
    (∃ (n : Slot) (s : State), s.twin.pair = 0 ∧ (s.js n).autoWait = true ∧ (s.js n).st = JobState.accepted ∧
      s.armedSlots = [] ∧ s.dev.inBelay = false ∧ s.twin.confirm = false ∧ (s.js n).promise.isSome = true ∧ s.armCheck
      n = 0) := by
  refine ⟨⟨2, ([3]), stWalkQ, ?_⟩, ⟨settled (some ⟨0x4C, 5, 0, 0, 0⟩), ?_⟩, ⟨settled none, ?_⟩, ⟨2, stBare, ?_⟩,
    ⟨settled (some ⟨0x4C, 5, 0, 0, 0⟩), ?_⟩, ⟨2, stAutoW, ?_⟩⟩ <;>
    (try simp -decide only [State.regsWf, State.memWf, sparse_iff, State.Decodes, State.LawRuns, State.MbxFree,
      State.noArmWaits, State.TakesTwin, State.armedFresh, noStart_iff]) <;> decide +kernel

theorem test_JobLife_met :
    (∃ (n : Slot) (s : State), s.twin.pair = 0 ∧ (s.js n).st = JobState.armed ∧ (s.js n).prepAt = none ∧ s.otherRuns n
      = false ∧ s.axesRest n = true ∧ (s.js n).startMode = 0) ∧
    (∃ (n : Slot) (s : State), (s.js n).st = JobState.armed ∧ (s.js n).ready = false ∧ ∃ t0 ∈ (s.js n).prepAt, t0 +
      (s.js n).tPrep ≤ s.tick) ∧
    (∃ (b : Beam) (s : State), s.regsWf ∧ ∃ c ∈ s.cal.head[b].check, c.inPrep = true ∧ s.checkLate b c = true) ∧
    (∃ (n : Slot) (s : State), (s.js n).st = JobState.armed ∧ (s.js n).prepAt.isSome = true ∧ s.otherRuns n = false ∧
      s.axesRest n = true ∧ s.dev.inBelay = false ∧ s.dev.booted = true ∧ s.dev.rstLow = false ∧ s.dev.belowVreset =
      false ∧ ∃ s0 ∈ (s.js n).s, s0 ≤ s.tick) ∧
    (∃ (s : State), ∃ n ∈ s.runSlot, s.missedFin n = none ∧ s.commitReady n = true) ∧
    (∃ (s : State), s.dev.holdReq = 0 ∧ ∃ n ∈ s.runSlot, ∃ fin ∈ s.missedFin n, True) := by
  refine ⟨⟨2, armedJ, ?_⟩, ⟨2, stReady, ?_⟩, ⟨1, stDriftPrep, ?_⟩, ⟨2, stStartJ, ?_⟩, ⟨stCommitJ, ?_⟩, ⟨stMissFin,
    ?_⟩⟩ <;>
    (try simp -decide only [State.regsWf, State.memWf, sparse_iff, State.Decodes, State.LawRuns, State.MbxFree,
      State.noArmWaits, State.TakesTwin, State.armedFresh, noStart_iff]) <;> decide +kernel

end T1

namespace T2

/-- Beam 1, which slot 1 of the fabric fetches for, decodes `i` at the start of its image, in a job whose S lies ahead. -/
def dec (i : PInstr) (f : BeamEng → BeamEng := id) : State :=
  (slot .running (fun j => { j with promise := some { prom with code := [(1, 0, i)] }, prepAt := some 319000000,
                                    s := some 320000000 })
      ((s0.upDev fun d => { d with state := .run }).upFab fun x => { x with live := x.live.set 1 0x81 })).upBe 1
    fun e => f { e with job := some 2 }
def ia : IntArgs := { rd := 3, ra := 4, rb := 5, imm := false, imm32 := 0x10 }
def g4 (x y : Word) (e : BeamEng) : BeamEng := { e with dec := { e.dec with g := (e.dec.g.set 4 x).set 5 y, window := 7, waits := 5 } }
/-- A stroke of beam 1 whose slot begins at JT `at_`. -/
def stk (at_ : Nat) : Stroke :=
  { kind := .mark, flags := 0, key := ⟨0, []⟩, snap := State.resetPState, undo := [], slotAt := at_, tBr := 0, tRu := 0,
    tPath := 2000, tRo := 0, m0 := ⟨0, 0⟩, q0 := ⟨0, 0⟩, p0 := ⟨0, 0⟩, p1 := ⟨1000, 0⟩, cen := ⟨0, 0⟩, q1 := ⟨1000, 0⟩,
    speed := 1000, vIn := ⟨0, 1⟩, vOut := ⟨0, 1⟩, acc := 1000, runup := 0, runout := 0, tol := 0, lon := 0, loff := 0,
    blendIn := false, blendOut := false, fixed := true, filA := 0, filR := 0, gOn := none, gOff := none, power := 0x8000,
    profile := 0, irefScale := 0x8000, fbHold := false, z0 := 0, z1 := 0, began := false, tau := 0, onDone := false,
    offDone := false, isRerun := false, back := 0, skip := false }
def withStk (y : Stroke) (f : BeamEng → BeamEng := id) : State := runJ.upBe 1 fun e => f { e with fifo := [y] }
def giv (on_ : Int) (off : Option Int) : GateIv := { on_ := on_, off := off, tau := 0, parts := [] }
def T : Int := 8 * 320000000
def dec0 (i : PInstr) : State := dec i (g4 5 40)
def decL (i : PInstr) : State := dec i fun e =>
  { (g4 0 11 e) with dec := { (g4 0 11 e).dec with loops := [⟨2, 2, 0⟩], held := some 4 }, fifo := [{ stk 5000 with fixed := false }] }
def decL1 (i : PInstr) : State := dec i fun e =>
  { (g4 11 0x7FFFFFFF e) with dec := { (g4 0 11 e).dec with loops := [⟨2, 1, 3⟩, ⟨9, 3, 0⟩] } }
def stStkNow : State := withStk (stk 1000)
def stStkLate : State := withStk (stk 400)
def stEdgeOn : State := withStk { stk 900 with began := true, gOn := some (8 * 1010), gOff := some (8 * 3000) }
def stEdgeOff : State := withStk { stk 900 with began := true, onDone := true, gOn := some (8 * 910), gOff := some (8 * 1100) } fun e => { e with gates := [giv (T - 800) none] }
def stMev : State := runJ.upBe 1 fun e => { e with pendEv := [⟨4, 5, 900, true⟩, ⟨5, 5, 2900, false⟩] }
def stMust : State := (runJ.upSlot 2 fun j => { j with promise := some { prom with bars := [(3, 0, 2, false, 900)] } }).upBe 1 fun e => { e with barrier := [(3, 2, false, 0, 900)] }
def stPassed : State := stMust.upBe 1 fun e => { e with dec := { e.dec with passed := [(3, 1)] } }
def stZexp : State := ((runJ.upSlot 2 fun j => { j with promise := some { prom with waits := [(1, ⟨0, []⟩, 50)] } }).upZone fun z => { z with beam := vupd z.beam 1 fun x => { x with reqs := [⟨5, 900, 0, ⟨0, []⟩⟩] } })
def stZin : State := stZexp.upZone fun z => { z with beam := vupd z.beam 1 fun x => { x with reqs := [⟨5, 990, 0, ⟨0, []⟩⟩] } }
def stStkMiss : State := stStkLate.wr R.JOB_MISS 0x10004#32
def stEdgeOffB : State := withStk { stk 900 with began := true, onDone := true, blendIn := true, gOn := some (8 * 910), gOff := some (8 * 1100) } fun e => { e with gates := [giv (T - 800) none] }
def sargs : StrokeArgs := { flags := 0, speed := 1000, power := 0x8000, profile := 2, w1 := 0x100000002000, w2 := 0 }
def stMevFull : State := runJ.upBe 1 fun e => { e with pendEv := [⟨4, 5, 900, false⟩], events := List.replicate 64 ⟨1, 1, 1, false⟩ }
def stStopT : State := runJ.upBe 1 fun e => { e with stopReq := some true, gates := [giv (T - 800) none], fifo := [{ stk 900 with began := true }], pendEv := [⟨4, 5, 900, true⟩, ⟨5, 5, 2900, false⟩], barrier := [(3, 2, false, 0, 900)] }
def stStopC : State := runJ.upBe 1 fun e => { e with move := some ⟨1, 319999999, ⟨1, 1⟩, ⟨⟨0, 1⟩, ⟨0, 1⟩⟩, ⟨0, 1⟩, ⟨0, 1⟩, 320000000, false⟩ }
def stStopCH : State := ((runJ.upBe 1 fun e => { e with move := some ⟨1, 319999999, ⟨1, 1⟩, ⟨⟨0, 1⟩, ⟨0, 1⟩⟩, ⟨0, 1⟩, ⟨0, 1⟩, 320000000, false⟩ }).upDev fun d => { d with holdReq := 1 })

theorem test_StrokesDecode_met :
    (∃ (b : Beam) (a : StrokeArgs) (s : State), s.rejoinOf b = none ∧ s.Decodes b (PInstr.mark a)) ∧
    (∃ (b : Beam) (a : StrokeArgs) (s : State), s.rejoinOf b = none ∧ s.Decodes b (PInstr.jump a)) ∧
    (∃ (b : Beam) (a : StrokeArgs) (s : State), s.rejoinOf b = none ∧ s.Decodes b (PInstr.arc a)) ∧
    (∃ (b : Beam) (a : StrokeArgs) (s : State), s.rejoinOf b = none ∧ s.Decodes b (PInstr.spot a)) := by
  refine ⟨⟨1, sargs, dec0 (.mark sargs), ?_⟩, ⟨1, sargs, dec0 (.jump sargs), ?_⟩, ⟨1, sargs, dec0 (.arc sargs), ?_⟩,
    ⟨1, sargs, dec0 (.spot sargs), ?_⟩⟩ <;>
    (try simp -decide only [State.regsWf, State.memWf, sparse_iff, State.Decodes, State.LawRuns, State.MbxFree,
      State.noArmWaits, State.TakesTwin, State.armedFresh, noStart_iff]) <;> decide +kernel

theorem test_SynchronizationDecode_met :
    (∃ (b : Beam) (s : State) (set : BitVec 16), s.Decodes b (PInstr.zacq set)) ∧
    (∃ (b : Beam) (s : State), s.Decodes b PInstr.zrel) ∧
    (∃ (b : Beam) (s : State) (id : Byte) (cell : Bool) (mask : BitVec 16), s.Decodes b (PInstr.muster id cell mask))
      ∧
    (∃ (b : Beam) (s : State) (rel : Bool) (target : BitVec 48), s.Decodes b (PInstr.waitt rel target)) ∧
    (∃ (b : Beam) (s : State) (reg : Bool) (irq : Bool) (rs : Fin 16) (code : BitVec 16) (imm32 : Word), s.Decodes b
      (PInstr.markev reg irq rs code imm32)) ∧
    (∃ (b : Beam) (s : State), s.Decodes b PInstr.halt) := by
  refine ⟨⟨1, (dec0 (.zacq 0x5#16)), 0x5#16, ?_⟩, ⟨1, (dec0 (.zrel)), ?_⟩, ⟨1, (dec0 (.muster 0x3#8 true 0x6#16)),
    0x3#8, true, 0x6#16, ?_⟩, ⟨1, (dec0 (.waitt true 0x64#48)), true, 0x64#48, ?_⟩, ⟨1, (dec0 (.markev true true 4
    0x9#16 0x0#32)), true, true, 4, 0x9#16, 0x0#32, ?_⟩, ⟨1, (dec0 (.halt)), ?_⟩⟩ <;>
    (try simp -decide only [State.regsWf, State.memWf, sparse_iff, State.Decodes, State.LawRuns, State.MbxFree,
      State.noArmWaits, State.TakesTwin, State.armedFresh, noStart_iff]) <;> decide +kernel

theorem test_IntegerInstructions_met :
    (∃ (b : Beam) (a : IntArgs) (s : State), s.Decodes b (PInstr.alu AluOp.mov a)) ∧
    (∃ (b : Beam) (a : IntArgs) (s : State), s.Decodes b (PInstr.alu AluOp.add a)) ∧
    (∃ (b : Beam) (a : IntArgs) (s : State), s.Decodes b (PInstr.alu AluOp.sub a)) ∧
    (∃ (b : Beam) (a : IntArgs) (s : State), s.Decodes b (PInstr.alu AluOp.cmp a)) ∧
    (∃ (b : Beam) (a : IntArgs) (s : State), s.Decodes b (PInstr.alu AluOp.mul a)) ∧
    (∃ (b : Beam) (a : IntArgs) (s : State), s.Decodes b (PInstr.alu AluOp.mulh a)) ∧
    (∃ (b : Beam) (a : IntArgs) (s : State), s.Decodes b (PInstr.alu AluOp.band a)) ∧
    (∃ (b : Beam) (a : IntArgs) (s : State), s.Decodes b (PInstr.alu AluOp.bor a)) ∧
    (∃ (b : Beam) (a : IntArgs) (s : State), s.Decodes b (PInstr.alu AluOp.bxor a)) ∧
    (∃ (b : Beam) (a : IntArgs) (s : State), s.Decodes b (PInstr.alu AluOp.shl a)) ∧
    (∃ (b : Beam) (a : IntArgs) (s : State), s.Decodes b (PInstr.alu AluOp.shr a)) ∧
    (∃ (b : Beam) (a : IntArgs) (s : State), s.Decodes b (PInstr.alu AluOp.sar a)) := by
  refine ⟨⟨1, ia, (dec (.alu .mov ia) (g4 0xFFFFFFFF 1)), ?_⟩, ⟨1, ia, (dec (.alu .add ia) (g4 0xFFFFFFFF 1)), ?_⟩,
    ⟨1, ia, (dec (.alu .sub ia) (g4 0xFFFFFFFF 1)), ?_⟩, ⟨1, ia, (dec (.alu .cmp ia) (g4 0xFFFFFFFF 1)), ?_⟩, ⟨1, ia,
    (dec (.alu .mul ia) (g4 0xFFFFFFFF 1)), ?_⟩, ⟨1, ia, (dec (.alu .mulh ia) (g4 0xFFFFFFFF 1)), ?_⟩, ⟨1, ia, (dec
    (.alu .band ia) (g4 0xFFFFFFFF 1)), ?_⟩, ⟨1, ia, (dec (.alu .bor ia) (g4 0xFFFFFFFF 1)), ?_⟩, ⟨1, ia, (dec (.alu
    .bxor ia) (g4 0xFFFFFFFF 1)), ?_⟩, ⟨1, ia, (dec (.alu .shl ia) (g4 0xFFFFFFFF 1)), ?_⟩, ⟨1, ia, (dec (.alu .shr
    ia) (g4 0xFFFFFFFF 1)), ?_⟩, ⟨1, ia, (dec (.alu .sar ia) (g4 0xFFFFFFFF 1)), ?_⟩⟩ <;>
    (try simp -decide only [State.regsWf, State.memWf, sparse_iff, State.Decodes, State.LawRuns, State.MbxFree,
      State.noArmWaits, State.TakesTwin, State.armedFresh, noStart_iff]) <;> decide +kernel

theorem test_ScratchAndPosition_met :
    (∃ (b : Beam) (a : IntArgs) (s : State), s.Decodes b (PInstr.ld a)) ∧
    (∃ (b : Beam) (a : IntArgs) (s : State), s.Decodes b (PInstr.st a) ∧ s.memWf) ∧
    (∃ (b : Beam) (a : IntArgs) (s : State), s.Decodes b (PInstr.rdp a)) := by
  refine ⟨⟨1, ia, (dec0 (.ld ia)), ?_⟩, ⟨1, ia, (dec0 (.st ia)), ?_⟩, ⟨1,
    ({ rd := 3, ra := 4, rb := 5, imm := false, imm32 := 0x3#32 }), (dec0 (.rdp
    { rd := 3, ra := 4, rb := 5, imm := false, imm32 := 0x3#32 })), ?_⟩⟩ <;>
    (try simp -decide only [State.regsWf, State.memWf, sparse_iff, State.Decodes, State.LawRuns, State.MbxFree,
      State.noArmWaits, State.TakesTwin, State.armedFresh, noStart_iff]) <;> decide +kernel

theorem test_LoopsAndBranches_met :
    (∃ (b : Beam) (s : State) (creg : Bool) (rc : Fin 16) (bound : BitVec 24) (body : BitVec 24), s.Decodes b
      (PInstr.loop creg rc bound body) ∧ (if creg = true then BitVec.toNat ((s.decAt b).gr rc) else bound.toNat) ≤
      bound.toNat) ∧
    (∃ (b : Beam) (s : State) (rc : Fin 16) (bound : BitVec 24) (body : BitVec 24), s.Decodes b (PInstr.loop true rc
      bound body) ∧ bound.toNat < BitVec.toNat ((s.decAt b).gr rc) ∧ ∃ j ∈ s.be[b].job, True) ∧
    (∃ (b : Beam) (s : State) (back : BitVec 24) (e : LoopEntry) (rest : List LoopEntry), (s.decAt b).loops = e ::
      rest ∧ s.Decodes b (PInstr.endl back)) ∧
    (∃ (b : Beam) (s : State) (cond : Fin 16) (offset : BitVec 24), s.Decodes b (PInstr.br cond offset)) ∧
    (∃ (b : Beam) (a : IntArgs) (s : State), s.Decodes b (PInstr.alu AluOp.cmp a)) := by
  refine ⟨⟨1, (dec0 (.loop false 4 0xa#24 0x3#24)), false, 4, 0xa#24, 0x3#24, ?_⟩, ⟨1, (dec0 (.loop true 5 0xa#24
    0x3#24)), 5, 0xa#24, 0x3#24, ?_⟩, ⟨1, (decL (.endl 0x4#24)), 0x4#24, ({ start := 2, remaining := 2, iter := 0 }),
    ([]), ?_⟩, ⟨1, (dec0 (.br 1 0x5#24)), 1, 0x5#24, ?_⟩, ⟨1, ia, (dec (.alu .cmp ia) (g4 0xFFFFFFFF 1)), ?_⟩⟩ <;>
    (try simp -decide only [State.regsWf, State.memWf, sparse_iff, State.Decodes, State.LawRuns, State.MbxFree,
      State.noArmWaits, State.TakesTwin, State.armedFresh, noStart_iff]) <;> decide +kernel

theorem test_LedgerQueryAndScales_met :
    (∃ (b : Beam) (s : State) (rd : Fin 16) (rx : Fin 16) (ry : Fin 16) (useP : Bool), s.Decodes b (PInstr.lgq rd rx
      ry useP) ∧ s.viewReady b (s.decAt b).count.time = true) ∧
    (∃ (b : Beam) (s : State) (reg : Bool) (rs : Fin 16) (sel : Fin 16) (imm32 : Word), s.Decodes b (PInstr.pset reg
      rs sel imm32)) ∧
    (∃ (b : Beam) (s : State) (reg : Bool) (rel : Bool) (rs : Fin 16) (imm32 : Word), s.Decodes b (PInstr.focus reg
      rel rs imm32)) := by
  refine ⟨⟨1, (dec0 (.lgq 3 4 5 true)), 3, 4, 5, true, ?_⟩, ⟨1, (dec0 (.pset false 4 0 0x11170#32)), false, 4, 0,
    0x11170#32, ?_⟩, ⟨1, (dec0 (.focus false true 4 0x64#32)), false, true, 4, 0x64#32, ?_⟩⟩ <;>
    (try simp -decide only [State.regsWf, State.memWf, sparse_iff, State.Decodes, State.LawRuns, State.MbxFree,
      State.noArmWaits, State.TakesTwin, State.armedFresh, noStart_iff]) <;> decide +kernel

theorem test_IllegalWordStops_met :
    ∃ (b : Beam) (s : State) (c : Instr) (i : PInstr) (a : IntArgs) (w : StrokeArgs), ((c, i) = (Instr.add b a,
      PInstr.alu AluOp.add a) ∨ (c, i) = (Instr.mark b w, PInstr.mark w) ∨ (c, i) = (Instr.halt b, PInstr.halt) ∨ (c,
      i) = (Instr.zrel b, PInstr.zrel) ∨ (c, i) = (Instr.st b a, PInstr.st a)) ∧ s.decoding b = true ∧ (s.promiseOf
      b).isSome = true ∧ s.walkedAt b ≠ some i := by
  refine ⟨1, (dec0 (.mark sargs)), (.halt 1), (.halt), ia, sargs, ?_⟩ <;>
    (try simp -decide only [State.regsWf, State.memWf, sparse_iff, State.Decodes, State.LawRuns, State.MbxFree,
      State.noArmWaits, State.TakesTwin, State.armedFresh, noStart_iff]) <;> decide +kernel

theorem test_StrokesAndGates_met :
    (∃ (b : Beam) (s : State), s.be[b].move = none ∧ s.be[b].stopReq = none ∧ s.regsWf ∧ ∃ s0 ∈ s.running b, ∃ y ∈
      List.find? (fun (x : Stroke) => !x.began) s.be[b].fifo, s.tick = s0 + y.slotAt) ∧
    (∃ (b : Beam) (s : State), s.be[b].move = none ∧ s.be[b].stopReq = none ∧ s.regsWf ∧ s.rd R.JOB_MISS = 0 ∧ ∃ s0 ∈
      s.running b, ∃ y ∈ List.find? (fun (x : Stroke) => !x.began) s.be[b].fifo, s0 + y.slotAt < s.tick) ∧
    (∃ (b : Beam) (s : State), s.be[b].move = none ∧ s.be[b].stopReq = none ∧ s.regsWf ∧ s.rd R.JOB_MISS ≠ 0 ∧ ∃ s0 ∈
      s.running b, ∃ y ∈ List.find? (fun (x : Stroke) => !x.began) s.be[b].fifo, s0 + y.slotAt < s.tick) ∧
    (∃ (b : Beam) (s0 : Nat) (y : Stroke) (e : Int) (s : State), s.nextEdge b = some (s0, y, e, true) ∧ e ≤ 8 *
      ((↑s.tick : Int) + 500)) ∧
    (∃ (b : Beam) (s0 : Nat) (y : Stroke) (e : Int) (h : GateIv) (rest : List GateIv) (s : State), s.nextEdge b = some
      (s0, y, e, false) ∧ s.be[b].gates = h :: rest ∧ e ≤ 8 * ((↑s.tick : Int) + 500) ∧ y.blendIn = true) ∧
    (∃ (b : Beam) (s0 : Nat) (y : Stroke) (e : Int) (h : GateIv) (rest : List GateIv) (s : State), s.nextEdge b = some
      (s0, y, e, false) ∧ s.be[b].gates = h :: rest ∧ e ≤ 8 * ((↑s.tick : Int) + 500) ∧ y.blendIn = false) := by
  refine ⟨⟨1, stStkNow, ?_⟩, ⟨1, stStkLate, ?_⟩, ⟨1, stStkMiss, ?_⟩, ⟨1, 319999000, _, 2560000080, stEdgeOn, rfl, ?_⟩,
    ⟨1, 319999000, _, 2560000800, giv (T - 800) none, [], stEdgeOffB, rfl, ?_⟩, ⟨1, 319999000, _, 2560000800,
    ({ on_ := 2559999200, off := none, tau := 0, parts := [] }), [], stEdgeOff, rfl, ?_⟩⟩ <;>
    (try simp -decide only [State.regsWf, State.memWf, sparse_iff, State.Decodes, State.LawRuns, State.MbxFree,
      State.noArmWaits, State.TakesTwin, State.armedFresh, noStart_iff]) <;> decide +kernel

theorem test_BeamEvents_met :
    (∃ (b : Beam) (v : PEvent) (rest : List PEvent) (s : State), s.be[b].pendEv = v :: rest ∧ s.be[b].move = none ∧
      v.irq = true ∧ ∃ s0 ∈ s.beS b, s0 + v.time ≤ s.tick) ∧
    (∃ (id : Byte) (mask : Nat) (n : Nat) (rel : Nat) (cell : Bool) (s : State) (b : Beam), nbit mask (↑b : Nat) =
      true ∧ s.be[b].dec.passedOf (BitVec.toNat id) ≤ n ∧ ∃ j ∈ s.runSlot, s.barrierOf j (BitVec.toNat id) = some (n,
      mask, cell, rel) ∧ ∃ s0 ∈ (s.js j).s, s0 + rel ≤ s.tick) ∧
    (∃ (id : Byte) (mask : Nat) (n : Nat) (rel : Nat) (cell : Bool) (s : State), (∀ (b : Beam), nbit mask (↑b : Nat) =
      true → n < s.be[b].dec.passedOf (BitVec.toNat id)) ∧ ∃ j ∈ s.runSlot, s.barrierOf j (BitVec.toNat id) = some (n,
      mask, cell, rel) ∧ ∃ s0 ∈ (s.js j).s, s0 + rel ≤ s.tick) ∧
    (∃ (b : Beam) (w : Nat) (q : ZReq) (rest : List ZReq) (s : State), s.zone.beam[b].reqs = q :: rest ∧ ∃ s0 ∈
      s.running b, s0 + q.time + w < s.tick ∧ ∃ pr ∈ s.promiseOf b, ((↑b : Nat), q.key, w) ∈ pr.waits ∧ ∀ x ∈
      pr.waits, x.1 = (↑b : Nat) → x.2.1 = q.key → x.2.2 = w) ∧
    (∃ (b : Beam) (w : Nat) (q : ZReq) (rest : List ZReq) (s : State), s.zone.beam[b].reqs = q :: rest ∧ ∃ s0 ∈
      s.running b, s.tick ≤ s0 + q.time + w ∧ ∃ pr ∈ s.promiseOf b, ((↑b : Nat), q.key, w) ∈ pr.waits ∧ ∀ x ∈
      pr.waits, x.1 = (↑b : Nat) → x.2.1 = q.key → x.2.2 = w) ∧
    (∃ (b : Beam) (v : PEvent) (rest : List PEvent) (s : State), s.be[b].events = v :: rest) ∧
    (∃ (b : Beam) (s : State), s.be[b].events = []) ∧
    (∃ (s : State), s.regsWf) := by
  refine ⟨⟨1, ({ code := 4, value := 0x5#32, time := 900, irq := true }),
    ([{ code := 5, value := 0x5#32, time := 2900, irq := false }]), stMev, ?_⟩, ⟨0x3#8, 2, 0, 900, false, stMust, 1,
    ?_⟩, ⟨0x3#8, 2, 0, 900, false, stPassed, ?_⟩, ⟨1, 50,
    ({ set := 5, time := 900, lost := 0, key := { pc := 0, iters := [] } }), ([]), stZexp, ?_⟩, ⟨1, 50, ⟨5, 990, 0,
    ⟨0, []⟩⟩, [], stZin, ?_⟩, ⟨1, ({ code := 1, value := 0x1#32, time := 1, irq := false }), (List.replicate 63
    { code := 1, value := 0x1#32, time := 1, irq := false }), stMevFull, ?_⟩, ⟨1, stMev, ?_⟩, ⟨stStkNow, ?_⟩⟩ <;>
    (try simp -decide only [State.regsWf, State.memWf, sparse_iff, State.Decodes, State.LawRuns, State.MbxFree,
      State.noArmWaits, State.TakesTwin, State.armedFresh, noStart_iff]) <;> decide +kernel

theorem test_BeamStops_met :
    (∃ (b : Beam) (s : State), s.be[b].move = none ∧ s.dev.holdReq = 0 ∧ ∃ a ∈ s.be[b].stopReq, ∃ s0 ∈ s.beS b, s0 ≤
      s.tick) ∧
    (∃ (b : Beam) (s : State), s.dev.holdReq = 0 ∧ ∃ m ∈ s.be[b].move, m.endAt ≤ s.tick ∧ m.done = false) ∧
    (∃ (b : Beam) (s : State), s.dev.holdReq ≠ 0 ∧ s.armedFresh ∧ ∃ m ∈ s.be[b].move, m.endAt ≤ s.tick ∧ m.done =
      false ∧ ∃ n ∈ s.runSlot, ∀ k ∈ (s.js n).named, k ≠ b → ∃ (x : StopMove), s.be[k].move = some x ∧ x.done = true) := by
  refine ⟨⟨1, stStopT, ?_⟩, ⟨1, stStopC, ?_⟩, ⟨1, stStopCH, ?_⟩⟩ <;>
    (try simp -decide only [State.regsWf, State.memWf, sparse_iff, State.Decodes, State.LawRuns, State.MbxFree,
      State.noArmWaits, State.TakesTwin, State.armedFresh, noStart_iff]) <;> decide +kernel

end T2

namespace T3

def frm : Frame := { num := 6, mid := 77, w := 64, h := 64, depth := 0, pix := [1,2,3], lines := 1, frc := 0, firstAt := 0 }
def pc1 (f : Pcu → Pcu) (s : State) : State := s.upPcu 1 f
def vis (i : Int) (op : Bool) (l : List VSample) : Visit := { i := i, j := 100, samples := l, open_ := op, susp := false, rise := false }
def withVis (v : List Visit) (s : State) : State := s.upLdg fun g => { g with visits := vupd g.visits 1 fun _ => v }
def small1 : State := s0.upDev fun d => { d with variant := 10 }
def stLp1b : State := at_ 320000020 lp1
def stTel1 : State := s0.upTel 1 fun t => { t with recs := [[1,2,3]], openAt := 300000000 }
def stTelBusy : State := stTel1.upTel 1 fun t => { t with wireEnd := 320000100 }
def stEye : State := pc1 (fun p => { p with cfg := p.cfg.set 3 0x40400001#32 }) lp1
def stNoeye : State := up [1, 17] small1
def stFull : State := pc1 (fun p => { p with full := some frm }) lp1
def stEyeloss : State :=
  (pc1 (fun p => { p with eyeFrom := some 300000000, opn := true }) (up [1, 17] (runJ.setB (R.LDn_CTL 1) 0))).wrN 94 1 4
def stCap1 : State := lp1.wr (R.PCUn_CAP_CTL 1) 0x10000#32
def stPwm : State := (up [1, 17] (runJ.setB (R.LDn_CTL 1) 0)).upLd 1 fun l => { l with cfg := (l.cfg.set 0 0x2310#32), words := [(6400000, 30000)] }
def stGateRun : State := (((runJ.setB (R.LDn_CTL 1) 0)).upBe 1 fun e => { e with gates := [⟨8*319999990, none, 0, []⟩] })
def stGateExpo : State := (s0.setB (R.LDn_CTL 1) 0).upSrc 1 fun c => { c with expo := some (0, 319999990, 320100000) }
def stLatA : State := s0.upLdc fun c => { c with latch := true, a := false }
def stDiff : State := s0.upLdc fun c => { c with diffAt := some 300000000, a := false }
def stLp1lat : State := at_ 320000020 (lp1.upLdc fun c => { c with latch := true })
def stVisit : State := withVis [vis 100 false [⟨6400000, true, some 30000, false⟩, ⟨6400001, false, none, true⟩], vis
    101 true []] lp1

def stRpt (f : Laser → Laser) : State := lp1.upLd 1 fun l => f { l with next := 6400000 }
def stAlone : State := (lp1.upLd 1 fun l => { l with alone := true }).setB (R.LDn_CTL 1) 13
def visV : Visit := vis 100 false [⟨6400000, true, some 30000, false⟩, ⟨6400001, false, none, true⟩]
def stBarred : State := (at_ 320000020 stVisit).upLdg fun g => { g with changes :=
  [.visit { at_ := 320000020, lt := 0, beam := 2, ended := 320000000, visit := visV, par := s0.ldgPar, fs := 0, kernel := [], suspect := false, lit := true, deps := [] }] }

theorem test_CounterClears_met :
    (∃ (s : State), s.regsWf ∧ s.ldg.op = 0) ∧
    (∃ (s : State), s.regsWf ∧ s.ldg.op ≠ 0) := by
  refine ⟨⟨s0, ?_⟩, ⟨s0.upLdg fun g => { g with op := 1 }, ?_⟩⟩ <;>
    (try simp -decide only [State.regsWf, State.memWf, sparse_iff, State.Decodes, State.LawRuns, State.MbxFree,
      State.noArmWaits, State.TakesTwin, State.armedFresh, noStart_iff]) <;> decide +kernel

theorem test_PowerWords_met :
    (∃ (b : Beam) (sidx : BitVec 16) (m : Nat) (s : State), s.beamOn (↑b : Nat) = true ∧ s.portUp (↑b : Nat) = true ∧
      s.extSidx sidx.toNat = (↑m : Int) ∧ s.pcu[b].next ≤ m + pdLag s.pcu[b] ∧ s.tick ≤ s.sampleAt (m + pdLag
      s.pcu[b]) + 17 ∧ (∀ (i : Nat), s.pcu[b].lastIdx = some i → i < m) ∧ ∀ c ∈ s.pcu[b].inbox, c.1 ≠ m) ∧
    (∃ (b : Beam) (s : State), s.beamOn (↑b : Nat) = true ∧ s.dev.state ≠ DevState.reset ∧ s.dev.state ≠ DevState.boot
      ∧ s.pcu[b].next ≤ s.sample ∧ s.sampleAt s.sample + 17 ≤ s.tick ∧ s.ldOn (↑b : Nat) = true ∧ s.portUp (16 + (↑b :
      Nat)) = true) ∧
    (∃ (b : Beam) (s : State), s.beamOn (↑b : Nat) = true ∧ s.dev.state ≠ DevState.reset ∧ s.dev.state ≠ DevState.boot
      ∧ s.pcu[b].next ≤ s.sample ∧ s.sampleAt s.sample + 17 ≤ s.tick ∧ s.ldg.cache.length ≤ 65000) ∧
    (∃ (b : Beam) (s : State) (a : Nat), s.beamOn (↑b : Nat) = true ∧ s.dev.state ≠ DevState.reset ∧ s.dev.state ≠
      DevState.boot ∧ s.pcu[b].next ≤ s.sample ∧ s.sampleAt s.sample + 17 ≤ s.tick ∧ s.memWf ∧ a < s.ldgBase) ∧
    (∃ (e : Fin 2) (s : State), s.tel[e].recs ≠ [] ∧ (1408 ≤ s.telBytes e ∨ s.tel[e].openAt + 20000 ≤ s.tick) ∧
      s.tel[e].egress = [] ∧ s.tel[e].wireEnd ≤ s.tick) ∧
    (∃ (e : Fin 2) (s : State), s.tel[e].recs ≠ [] ∧ (1408 ≤ s.telBytes e ∨ s.tel[e].openAt + 20000 ≤ s.tick) ∧ s.tick
      < s.tel[e].wireEnd) := by
  refine ⟨⟨1, 0xa800#16, 6400000, lp1, ?_⟩, ⟨1, stLp1b, ?_⟩, ⟨1, stLp1b, ?_⟩, ⟨1, stLp1b, 0, ?_⟩, ⟨1, stTel1, ?_⟩, ⟨1,
    stTelBusy, ?_⟩⟩ <;>
    (try simp -decide only [State.regsWf, State.memWf, sparse_iff, State.Decodes, State.LawRuns, State.MbxFree,
      State.noArmWaits, State.TakesTwin, State.armedFresh, noStart_iff]) <;> decide +kernel

theorem test_PoolEye_met :
    (∃ (b : Beam) (w : Fin 16) (h : Fin 16) (d : Bool) (pix : List (BitVec 16)) (s : State), bit s.pcu[b].cfg[3] 8 = d
      ∧ s.beamOn (↑b : Nat) = true ∧ s.portUp (↑b : Nat) = true ∧ s.eyeOn b = true ∧ s.pcu[b].full = none ∧ fld
      s.pcu[b].cfg[3] 23 16 = 8 * ((↑w : Nat) + 1) ∧ fld s.pcu[b].cfg[3] 31 24 = 8 * ((↑h : Nat) + 1) ∧ pix.length = 8
      * ((↑w : Nat) + 1)) ∧
    (∃ (b : Beam) (s : State), s.beamOn (↑b : Nat) = true ∧ s.portUp (↑b : Nat) = true ∧ s.hasEye = false ∧ s.regsWf)
      ∧
    (∃ (b : Beam) (s : State), s.regsWf ∧ ∃ f ∈ s.pcu[b].full, True) ∧
    (∃ (b : Beam) (s : State), s.pcu[b].hold = true ∨ ∀ q ∈ s.pcu[b].trimQ, s.sample < q.at_ ∨ q.epoch ≠
      s.pcu[b].epoch) ∧
    (∃ (b : Beam) (s : State), s.pcu[b].eyeLost = false ∧ s.pcu[b].opn = true ∧ s.eyeWanted b = true ∧ s.regsWf ∧ ∃ t0
      ∈ s.pcu[b].eyeFrom, t0 + oneIfZero (fld s.pcu[b].cfg[5] 31 16) * 1000 ≤ s.tick) ∧
    (∃ (b : Beam) (s : State), s.beamOn (↑b : Nat) = true ∧ s.hasEye = true ∧ 1 ≤ s.rf (R.PCUn_CAP_CTL (↑b : Nat)) 18
      16 ∧ s.rf (R.PCUn_CAP_CTL (↑b : Nat)) 18 16 ≤ 4 ∧ s.regsWf) := by
  refine ⟨⟨1, 7, 7, false, List.replicate 64 900, stEye, ?_⟩, ⟨1, stNoeye, ?_⟩, ⟨1, stFull, ?_⟩, ⟨1, stEyeloss, ?_⟩,
    ⟨1, stEyeloss, ?_⟩, ⟨1, stCap1, ?_⟩⟩ <;>
    (try simp -decide only [State.regsWf, State.memWf, sparse_iff, State.Decodes, State.LawRuns, State.MbxFree,
      State.noArmWaits, State.TakesTwin, State.armedFresh, noStart_iff]) <;> decide +kernel

theorem test_PowerReports_met :
    (∃ (b : Beam) (sidx : BitVec 16) (k : Nat) (s : State), s.ld[b].next = k ∧ s.ldOn (↑b : Nat) = true ∧ s.portUp (16
      + (↑b : Nat)) = true ∧ s.extSidx sidx.toNat = (↑k : Int) ∧ k ≤ s.sample ∧ s.tick < s.sampleAt (k + s.rptWin b +
      1) ∧ s.rptHas b k = false ∧ s.regsWf ∧ ∀ x ∈ s.ld[b].seen, x.1 < k) ∧
    (∃ (b : Beam) (sidx : BitVec 16) (k : Nat) (s : State), s.ld[b].next = k ∧ s.ldOn (↑b : Nat) = true ∧ s.portUp (16
      + (↑b : Nat)) = true ∧ s.extSidx sidx.toNat = (↑k : Int) ∧ k ≤ s.sample ∧ s.tick < s.sampleAt (k + s.rptWin b +
      1) ∧ s.rptHas b k = false ∧ s.regsWf ∧ (∀ x ∈ s.ld[b].seen, x.1 < k) ∧ s.ld[b].lossUp = false ∧ s.rf
      (R.LDn_RPT_CFG (↑b : Nat)) 31 16 < s.ld[b].lost + 1) ∧
    (∃ (b : Beam) (sidx : BitVec 16) (k : Nat) (s : State), s.ld[b].next = k ∧ s.ldOn (↑b : Nat) = true ∧ s.portUp (16
      + (↑b : Nat)) = true ∧ s.extSidx sidx.toNat = (↑k : Int) ∧ k ≤ s.sample ∧ s.tick < s.sampleAt (k + s.rptWin b +
      1) ∧ s.rptHas b k = false ∧ s.regsWf ∧ (∀ x ∈ s.ld[b].seen, x.1 < k) ∧ (s.ld[b].lossUp = true ∨ s.ld[b].lost + 1
      ≤ s.rf (R.LDn_RPT_CFG (↑b : Nat)) 31 16)) ∧
    (∃ (b : Beam) (k : Nat) (s : State), s.ld[b].next = k ∧ s.ldOn (↑b : Nat) = true ∧ s.sample = k + s.rptWin b + 1 ∧
      s.rptHas b k = false ∧ ∀ x ∈ s.ld[b].seen, x.1 < k) ∧
    (∃ (b : Beam) (s : State), s.ldOn (↑b : Nat) = true ∧ (s.ld[b].winAt / s.diagWin b + 1) * s.diagWin b ≤ s.sample ∧
      s.regsWf ∧ s.rb (R.LDn_CTL (↑b : Nat)) 13 = true ∧ s.ld[b].alone = true) ∧
    (∃ (b : Beam) (s : State), s.ldOn (↑b : Nat) = true ∧ (s.ld[b].winAt / s.diagWin b + 1) * s.diagWin b ≤ s.sample ∧
      s.regsWf ∧ s.rb (R.LDn_CTL (↑b : Nat)) 13 = true ∧ s.ld[b].alone = false ∧ s.ld[b].failed = false ∧ s.ld[b].acc
      = 0) ∧
    (∃ (b : Beam) (s : State), s.pwmMode b = true ∧ (s.running b).isSome = true ∧ ∃ t0 ∈ s.pwmStart b, Option.map (fun
      (x : Int × Int) => x.1) s.ld[b].pwm ≠ some t0) ∧
    (∃ (b : Beam) (s : State), s.rb R.LD_MUSTER_CFG 16 = true ∧ s.ldOn (↑b : Nat) = true ∧ s.portUp (16 + (↑b : Nat))
      = true ∧ s.sample % clampN 1000 65535 (s.rf R.LD_MUSTER_CFG 15 0) = 0 ∧ ∀ x ∈ s.sent, x.port = 16 + (↑b : Nat) →
      x.msg ≠ 5) := by
  refine ⟨⟨1, 0xa800#16, 6400000, stRpt id, ?_⟩, ⟨1, 0xa800#16, 6400000, stRpt fun l => { l with lost := 65535 }, ?_⟩,
    ⟨1, 0xa800#16, 6400000, stRpt fun l => { l with lossUp := true }, ?_⟩, ⟨1, 6399995, lp1.upLd 1 fun l =>
    { l with next := 6399995 }, ?_⟩, ⟨1, stAlone, ?_⟩, ⟨1, lp1, ?_⟩, ⟨1, stPwm, ?_⟩, ⟨1, lp1, ?_⟩⟩ <;>
    (try simp -decide only [State.regsWf, State.memWf, sparse_iff, State.Decodes, State.LawRuns, State.MbxFree,
      State.noArmWaits, State.TakesTwin, State.armedFresh, noStart_iff]) <;> decide +kernel

theorem test_GateNeedsAll_met :
    (∃ (s : State) (b : Beam), s.lgate b = true ∧ s.dev.state = DevState.run) ∧
    (∃ (s : State) (b : Beam), s.lgate b = true ∧ s.dev.state = DevState.idle) := by
  refine ⟨⟨stGateRun, 1, ?_⟩, ⟨stGateExpo, 1, ?_⟩⟩ <;>
    (try simp -decide only [State.regsWf, State.memWf, sparse_iff, State.Decodes, State.LawRuns, State.MbxFree,
      State.noArmWaits, State.TakesTwin, State.armedFresh, noStart_iff]) <;> decide +kernel

theorem test_InterlockAndKill_met :
    (∃ (a : Bool) (b : Bool) (w : Nat) (s : State), (a || b) = true ∧ 3000 ≤ w ∧ s.ldc.latch = false ∧ s.dev.state ≠
      DevState.reset ∧ s.armedFresh) ∧
    (∃ (a : Bool) (b : Bool) (w : Nat) (s : State), (a || b) = true ∧ 3000 ≤ w ∧ s.ldc.latch = false ∧ s.dev.state ≠
      DevState.reset ∧ ∃ n ∈ s.runSlot, True) ∧
    (∃ (a : Bool) (b : Bool) (w : Nat), (a || b) = true ∧ w < 1000) ∧
    (∃ (a : Bool) (b : Bool) (s : State), (a || b) = true ∧ s.dev.state = DevState.reset) ∧
    (∃ (b : Bool) (s : State), (if b = true then s.ldc.b else s.ldc.a) = false) ∧
    (∃ (s : State), s.ldc.diffRaised = false ∧ ∃ t0 ∈ s.ldc.diffAt, t0 + 10000000 < s.tick) ∧
    (∃ (s : State), s.ldc.latch = true ∧ s.regsWf ∧ s.ldc.a = true ∧ s.ldc.b = true ∧ s.ldc.highAt + oneIfZero (s.rf
      R.LD_ILK_CTL 15 8) * 1000000 ≤ s.tick) ∧
    (∃ (s : State), s.ldc.latch = true ∧ s.regsWf ∧ ((s.ldc.a && s.ldc.b) = false ∨ s.tick < s.ldc.highAt + oneIfZero
      (s.rf R.LD_ILK_CTL 15 8) * 1000000)) ∧
    (∃ (b : Beam) (s : State), s.ldOn (↑b : Nat) = true ∧ s.portUp (16 + (↑b : Nat)) = true ∧ s.ld[b].offNext ≤ s.tick
      ∧ (s.offCause (↑b : Nat) = true ∨ s.ld[b].relLeft ≠ 0)) ∧
    (∃ (b : Beam) (v : Bool) (s : State), s.beamOn (↑b : Nat) = true ∧ v ≠ s.rb (R.LDn_CTL (↑b : Nat)) 12 ∧ s.regsWf ∧
      (s.naming b fun (j : JobSlot) => decide (j.st = JobState.running)) = false) ∧
    (∃ (b : Beam) (v : Bool) (s : State), s.beamOn (↑b : Nat) = true ∧ v ≠ s.rb (R.LDn_CTL (↑b : Nat)) 12 ∧ s.regsWf ∧
      (s.naming b fun (j : JobSlot) => decide (j.st = JobState.running)) = true) ∧
    (∃ (b : Beam) (s : State), s.beamOn (↑b : Nat) = true ∧ s.regsWf ∧ s.rb (R.LDn_CTL (↑b : Nat)) 0 = false) ∧
    (∃ (b : Beam) (s : State), s.beamOn (↑b : Nat) = true ∧ s.regsWf ∧ s.rb (R.LDn_CTL (↑b : Nat)) 0 = true ∧ s.naming
      b JobSlot.busy = true) ∧
    (∃ (b : Beam) (s : State), s.beamOn (↑b : Nat) = true ∧ s.regsWf ∧ s.rb (R.LDn_CTL (↑b : Nat)) 0 = true ∧ s.naming
      b JobSlot.busy = false) := by
  refine ⟨⟨false, true, 3000, s0, ?_⟩, ⟨false, true, 3000, runJ, ?_⟩, ⟨false, true, 999, ?_⟩, ⟨true, false, s0.upDev
    fun d => { d with state := .reset, booted := false }, ?_⟩, ⟨false, stLatA, ?_⟩, ⟨stDiff, ?_⟩, ⟨stLp1lat, ?_⟩,
    ⟨stLatA, ?_⟩, ⟨1, stLp1lat, ?_⟩, ⟨1, true, s0, ?_⟩, ⟨1, true, stPwm, ?_⟩, ⟨1, s0, ?_⟩, ⟨1, stPwm, ?_⟩, ⟨1, lp1,
    ?_⟩⟩ <;>
    (try simp -decide only [State.regsWf, State.memWf, sparse_iff, State.Decodes, State.LawRuns, State.MbxFree,
      State.noArmWaits, State.TakesTwin, State.armedFresh, noStart_iff]) <;> decide +kernel

theorem test_VisitCommits_met :
    (∃ (b : Beam) (v : Visit) (rest : List Visit) (s : State), s.ldg.visits[b] = v :: rest ∧ v.open_ = false ∧ (∀ x ∈
      v.samples, x.pwr.isSome = true ∨ x.lost = true) ∧ s.commitBarred b = true) ∧
    (∃ (b : Beam) (v : Visit) (rest : List Visit) (s : State), s.ldg.visits[b] = v :: rest ∧ v.open_ = false ∧ (∀ x ∈
      v.samples, x.pwr.isSome = true ∨ x.lost = true) ∧ s.commitBarred b = false) := by
  refine ⟨⟨1, visV, [vis 101 true []], stBarred, ?_⟩, ⟨1, visV, [vis 101 true []], stVisit, ?_⟩⟩ <;>
    (try simp -decide only [State.regsWf, State.memWf, sparse_iff, State.Decodes, State.LawRuns, State.MbxFree,
      State.noArmWaits, State.TakesTwin, State.armedFresh, noStart_iff]) <;> decide +kernel

theorem test_SweepKeepsEnergies_met :
    (∃ (s : State), s.ldg.op ≠ 0 ∨ s.twin.pair = 1 ∧ 4 ≤ s.twin.step) ∧
    (∃ (s : State), s.ldg.op = 0 ∧ ¬(s.twin.pair = 1 ∧ 4 ≤ s.twin.step) ∧ s.memWf ∧ s.ldgKl ≤ 65536) := by
  refine ⟨⟨s0.upLdg fun g => { g with op := 1 }, ?_⟩, ⟨s0, ?_⟩⟩ <;>
    (try simp -decide only [State.regsWf, State.memWf, sparse_iff, State.Decodes, State.LawRuns, State.MbxFree,
      State.noArmWaits, State.TakesTwin, State.armedFresh, noStart_iff]) <;> decide +kernel

end T3

namespace T4

def lg (f : Ledger → Ledger) (s : State) : State := s.upLdg f
def ddr : State := s0.wr R.DDR_STATUS 0x200002#32
def zb (f : ZoneBeam → ZoneBeam) (b : Beam) (s : State) : State := s.upZone fun z => { z with beam := vupd z.beam b f }
def zrun : State := runJ.upZone fun z => { z with active := true, map := true, sets := [(0, 0, 7, 7), (4, 4, 9, 9), (40, 40, 50, 50)] }
def fb (f : Fabric → Fabric) (s : State) : State := s.upFab f
def ls1 (f : LeSlot → LeSlot) (s : State) : State := s.upLs 1 3 f
def lawc : LawCtx := { State.resetLaw with acc := #v[2^62, -(2^62), 12345678901, -5], s := State.resetLaw.s.set 2 (-7), t := State.resetLaw.t.set 1 1234567, inp := State.resetLaw.inp.set 3 0x7FFFFFFF }
def imgB : List Byte :=
  let h := toBytes 4 0x314C4C50 ++ toBytes 2 1 ++ [2, 0] ++ toBytes 4 1 ++ toBytes 2 0 ++ [0, 0] ++ toBytes 8 0 ++ toBytes 4 1
  let body := toBytes 8 (0x7F * 2 ^ 56)
  let h := h ++ toBytes 4 0 ++ toBytes 4 (crc32 body).toNat ++ List.replicate 24 0
  h ++ toBytes 4 (crc32 h).toNat ++ body
def leIdle : State := (s0.wr (R.LEk_IMG_HI 1) 1).wrBytes 0x100000000 imgB
def ramped : State := ls1 (fun x => { x with st := .run, ncoef := 0, words := 1, master := 0x100000000, cycles := 3 }) (up [1] (s0.wr (R.LEk_SLOTl_CFG 1 3) 0x00100001#32))
def stLdgBusy : State := lg (fun g => { g with op := 1 }) ddr
def stQry : State := lg (fun g => { g with qryAt := some (0, 0, 319999000), qry := true }) (ddr.wrN (0x100000000 + 8 *
    (4096 * 8192 + 4096)) 8 0x0000123400001234)
def stLate : State := at_ 140000000000 s0
def stQryOpen : State := lg (fun g => { g with visits := vupd g.visits 1 fun _ =>
  [{ i := 9, j := 9, samples := [⟨6399970, true, none, false⟩], open_ := true, susp := false, rise := false }] }) stQry
def cent : CacheEnt := { cell := 5, word := 0x77, dirty := true, beam := 1, last := 0 }
def stCache : State := lg (fun g => { g with cache := [cent] }) s0
def stLate2 : State := lg (fun g => { g with sweepLate := true }) stLate
def stZfut : State := zrun.upZone fun z => { z with round := 100000 }
def stZq : State := zb (fun x => { x with quota := 7, masked := true }) 1 (zrun.upZone fun z => { z with window := 0 })
    |> at_ 420000000
def stDbg : State := fb (fun f => { f with dbgAt := f.dbgAt.set 0 (some 319999999) }) s0
def stOwn : State := fb (fun f => { f with live := f.live.set 0 0x81#8, flight := [⟨.bestEffort 3, 319999990⟩] }) runJ
def stFlight : State := fb (fun f => { f with flight := [⟨.fetch 1, 319999000⟩, ⟨.ledger 1, 319999100⟩] }) runJ
def stSwapP : State := fb (fun f => { f with swapPend := true, swapAt := 5 }) (at_ 327680000 s0)
def stSwapB : State := fb (fun f => { f with swapPend := true, swapAt := 5 }) (at_ 327680000 (s0.wr (R.FAB_SLOT_SHDWk 0)
    0xBF#32))
def stLaw : State := ls1 (fun x => { x with st := .run, ncoef := 64, ctx := lawc }) ((s0.wrN (State.lawCoef 1 3) 4
    0x7FFFFFFF).wrN (State.lawCoef 1 3 + 12) 4 5)
def stNoLe : State := s0.upDev fun d => { d with variant := 1 }
def stInUse : State := runJ.wr (R.LEk_SLOTl_CFG 1 3) 1#32
def stLoadOk : State := leIdle.wr R.DDR_STATUS 0x200002#32
def stLoaded : State := ls1 (fun x => { x with st := .loaded }) leIdle
def stRunT : State := at_ 320000300 ramped
def stRan : State := ls1 (fun x => { x with ran := some 128000 }) ramped
def stChk : State := (ramped.setB (R.LEk_CTL 1) 0).upLe 1 fun e => { e with check := 128 * 3 }
def stChkBad : State := ((ramped.wrN (State.lawBase 1 3) 1 9).setB (R.LEk_CTL 1) 0).upLe 1 fun e => { e with check := 128 * 3 }
def stRunLoaded : State := ls1 (fun x => { x with st := .loaded }) stRunT
def stChkLoaded : State := ls1 (fun x => { x with st := .loaded }) stChkBad
def stChkJob : State := { stChkBad with
  dev := runJ.dev, job := runJ.job, be := vupd runJ.be 1 fun e => { e with cfg := e.cfg.set 0 0x13#32 } }
def stTr : State := s0.wr (R.LEk_TR_CTL 1) 0x10#32
def stTrArmed : State := (s0.wr (R.LEk_TR_CTL 1) 0x10#32).upLe 1 fun e => { e with armed := true }

theorem test_LedgerOperations_met :
    (∃ (c : Instr) (s : State), (c = Instr.ldgFlush ∨ c = Instr.ldgClear ∨ c = Instr.ldgApply ∨ c = Instr.ldgImport) ∧
      s.ldg.op ≠ 0 ∧ s.regsWf) ∧
    (∃ (s : State) (e : CacheEnt), s.ldg.op = 0 ∧ s.memWf ∧ (List.map (fun (x : CacheEnt) => x.cell)
      s.ldg.cache).Nodup ∧ e ∈ s.ldg.cache ∧ e.dirty = true) ∧
    (∃ (s : State), s.ldg.op = 0 ∧ s.slotsQuiet = true) ∧
    (∃ (s : State), s.ldg.op = 0 ∧ s.slotsQuiet = true ∧ s.regsWf ∧ s.geoOk = true) ∧
    (∃ (s : State), s.ldg.op = 0 ∧ s.slotsQuiet = true ∧ s.regsWf ∧ s.geoOk = false) ∧
    (∃ (s : State), s.ldg.op = 0 ∧ s.slotsQuiet = true ∧ s.memWf) ∧
    (∃ (s : State), s.ldg.op ≠ 0) := by
  refine ⟨⟨(.ldgFlush), stLdgBusy, ?_⟩, ⟨stCache, cent, ?_⟩, ⟨s0, ?_⟩, ⟨ddr, ?_⟩, ⟨s0, ?_⟩, ⟨s0, ?_⟩, ⟨stLdgBusy, ?_⟩⟩ <;>
    (try simp -decide only [State.regsWf, State.memWf, sparse_iff, State.Decodes, State.LawRuns, State.MbxFree,
      State.noArmWaits, State.TakesTwin, State.armedFresh, noStart_iff]) <;> decide +kernel

theorem test_LedgerQuery_met :
    (∃ (s : State) (x : Int) (y : Int) (t0 : Nat), s.ldg.qryAt = some (x, y, t0) ∧ s.regsWf ∧ s.viewFinal t0 = false)
      ∧
    (∃ (s : State) (x : Int) (y : Int) (t0 : Nat), s.ldg.qryAt = some (x, y, t0) ∧ s.regsWf ∧ s.viewFinal t0 = true ∧
      ∃ ix ∈ s.ldgIx (s.ldgIJ { x := x, y := y }).1 (s.ldgIJ { x := x, y := y }).2, True) ∧
    (∃ (s : State), s.tick ≤ s.ldg.sweepFrom + 2 ^ 21 * 64000) ∧
    (∃ (s : State), s.ldg.sweepFrom + 2 ^ 21 * 64000 < s.tick ∧ s.regsWf ∧ s.ldg.sweepLate = false) ∧
    (∃ (s : State), s.ldg.sweepFrom + 2 ^ 21 * 64000 < s.tick ∧ s.regsWf ∧ s.ldg.sweepLate = true) ∧
    (∃ (s : State), s.memWf) := by
  refine ⟨⟨stQryOpen, 0, 0, 319999000, ?_⟩, ⟨stQry, 0, 0, 319999000, ?_⟩, ⟨s0, ?_⟩, ⟨stLate, ?_⟩, ⟨stLate2, ?_⟩, ⟨s0,
    ?_⟩⟩ <;>
    (try simp -decide only [State.regsWf, State.memWf, sparse_iff, State.Decodes, State.LawRuns, State.MbxFree,
      State.noArmWaits, State.TakesTwin, State.armedFresh, noStart_iff]) <;> decide +kernel

theorem test_ZonesStayApart_met :
    (∃ (s : State), s.zoneApart ∧ ∃ s0 ∈ s.zoneS, s0 + 256 * s.zone.round ≤ s.tick) ∧
    (∃ (s : State), ∃ s0 ∈ s.zoneS, s.tick < s0 + 256 * s.zone.round) ∧
    (∃ (s : State), ∃ s0 ∈ s.zoneS, s0 ≤ s.tick ∧ s.zone.window < (s.tick - s0) / (s.zoneCfg.win * 1000)) := by
  have h : ∀ j k : Beam, j ≠ k → ∀ x ∈ zrun.zone.beam[j].held, ∀ y ∈ zrun.zone.beam[k].held,
      padConflict zrun.zoneCfg (zrun.zone.padOf x) (zrun.zone.padOf y) = false := by decide +kernel
  refine ⟨⟨zrun, fun j k hjk x y hx hy => h j k hjk x hx y hy, ?_⟩, ⟨stZfut, ?_⟩, ⟨stZq, ?_⟩⟩ <;> decide +kernel

theorem test_FabricCommands_met :
    (∃ (s : State), s.tick % 64 = 0 ∧ s.fab.slotAt ≠ some s.tick ∧ s.dev.state ≠ DevState.reset ∧ s.swapDue = false ∧
      ∀ x ∈ s.fab.flight, x.at_ < s.tick) ∧
    (∃ (s : State), s.tick % 64 = 0 ∧ s.fab.slotAt ≠ some s.tick ∧ s.dev.state ≠ DevState.reset ∧ s.swapDue = true) ∧
    (∃ (s : State), s.fab.window ≠ s.tick / (oneIfZero (s.rf R.FAB_QUOTA 31 16) * 1000)) ∧
    (∃ (c : Fin 2) (s : State), (↑c : Nat) < s.ddrChans ∧ s.regsWf ∧ ∃ t0 ∈ s.fab.dbgAt[c], s.tick < t0 + 1000) ∧
    (∃ (x : Xfer) (rest : List Xfer) (n : Beam) (s : State), s.fab.flight = x :: rest ∧ x.kind = XferKind.fetch (↑n :
      Nat)) ∧
    (∃ (s : State), s.fab.swapPend = true) ∧
    (∃ (s : State), s.fab.swapPend = false) ∧
    (∃ (s : State), s.fab.swapPend = true ∧ s.fab.swapAt < s.tick ∧ s.tick % 4096 = 0 ∧ s.regsWf ∧ ∃ e ∈
      s.shadowIn.toList, entRes e = true ∧ ownerKind (entOwner e) = none) ∧
    (∃ (s : State), s.fab.swapPend = true ∧ s.fab.swapAt < s.tick ∧ s.tick % 4096 = 0 ∧ s.regsWf ∧ (∀ e ∈
      s.shadowIn.toList, entRes e = true → ownerKind (entOwner e) ≠ none) ∧ ∀ (n : Slot), (s.js n).st ≠ JobState.armed
      ∧ (s.js n).st ≠ JobState.running) := by
  refine ⟨⟨s0, ?_⟩, ⟨stSwapP, ?_⟩, ⟨s0, ?_⟩, ⟨0, stDbg, ?_⟩, ⟨({ kind := .fetch 1, at_ := 319999000 }),
    ([{ kind := .ledger 1, at_ := 319999100 }]), 1, stFlight, ?_⟩, ⟨stSwapP, ?_⟩, ⟨s0, ?_⟩, ⟨stSwapB, ?_⟩, ⟨stSwapP,
    ?_⟩⟩ <;>
    (try simp -decide only [State.regsWf, State.memWf, sparse_iff, State.Decodes, State.LawRuns, State.MbxFree,
      State.noArmWaits, State.TakesTwin, State.armedFresh, noStart_iff]) <;> decide +kernel

theorem test_LawInstructions_met :
    (∃ (k : Engine) (l : LSlot) (a : Fin 4) (s : State), s.LawRuns k l (LInstr.clr a)) ∧
    (∃ (k : Engine) (l : LSlot) (a : Fin 4) (sh : Fin 32) (x : Byte) (s : State), s.LawRuns k l (LInstr.lda a sh x)) ∧
    (∃ (k : Engine) (l : LSlot) (a : Fin 4) (x : Byte) (n : Fin 64) (s : State), s.LawRuns k l (LInstr.mac a x n)) ∧
    (∃ (k : Engine) (l : LSlot) (a : Fin 4) (x : Byte) (n : Fin 64) (s : State), s.LawRuns k l (LInstr.msu a x n)) ∧
    (∃ (k : Engine) (l : LSlot) (a : Fin 4) (sh : Fin 32) (x : Byte) (neg : Bool) (s : State), s.LawRuns k l
      (LInstr.ada a neg sh x)) ∧
    (∃ (k : Engine) (l : LSlot) (a : Fin 4) (sh : Fin 32) (d : Byte) (s : State), s.LawRuns k l (LInstr.sta a sh d)) ∧
    (∃ (k : Engine) (l : LSlot) (d : Byte) (x : Byte) (n : Fin 64) (s : State), s.LawRuns k l (LInstr.clp d x n)) ∧
    (∃ (k : Engine) (l : LSlot) (d : Byte) (x : Byte) (y : Byte) (z : Byte) (s : State), s.LawRuns k l (LInstr.sel d x
      y z)) ∧
    (∃ (k : Engine) (l : LSlot) (d : Byte) (x : Byte) (s : State), s.LawRuns k l (LInstr.mov d x)) ∧
    (∃ (k : Engine) (l : LSlot) (s : State), s.LawRuns k l LInstr.halt) := by
  refine ⟨⟨1, 3, 1, stLaw, ?_⟩, ⟨1, 3, 1, 0, 0x2#8, stLaw, ?_⟩, ⟨1, 3, 1, 0x2#8, 0, stLaw, ?_⟩, ⟨1, 3, 1, 0x2#8, 0,
    stLaw, ?_⟩, ⟨1, 3, 1, 0, 0x2#8, false, stLaw, ?_⟩, ⟨1, 3, 1, 0, 0x2#8, stLaw, ?_⟩, ⟨1, 3, 0x2#8, 0x2#8, 0, stLaw,
    ?_⟩, ⟨1, 3, 0x2#8, 0x2#8, 0x2#8, 0x2#8, stLaw, ?_⟩, ⟨1, 3, 0x2#8, 0x2#8, stLaw, ?_⟩, ⟨1, 3, stLaw, ?_⟩⟩ <;>
    (try simp -decide only [State.regsWf, State.memWf, sparse_iff, State.Decodes, State.LawRuns, State.MbxFree,
      State.noArmWaits, State.TakesTwin, State.armedFresh, noStart_iff]) <;> decide +kernel

theorem test_LoopSlotCommands_met :
    (∃ (k : Engine) (s : State), s.regsWf ∧ s.memWf ∧ s.leOn (↑k : Nat) = false) ∧
    (∃ (k : Engine) (l : LSlot) (s : State) (c : Instr), s.regsWf ∧ s.memWf ∧ s.leOn (↑k : Nat) = true ∧ s.leInUse k l
      = true ∧ (c = Instr.load k l ∨ c = Instr.coefSwap k l)) ∧
    (∃ (k : Engine) (l : LSlot) (s : State), s.regsWf ∧ s.memWf ∧ s.leOn (↑k : Nat) = true ∧ s.leInUse k l = false ∧
      ((s.ls k l).st = LeState.off ∨ (s.ls k l).st = LeState.loaded) ∧ s.lawCheck (BitVec.toNat (s.rd (R.LEk_IMG_HI
      (↑k : Nat))) * 2 ^ 32 + BitVec.toNat (s.rd (R.LEk_IMG_LO (↑k : Nat)))) = 0) ∧
    (∃ (k : Engine) (l : LSlot) (s : State), s.regsWf ∧ s.memWf ∧ s.leOn (↑k : Nat) = true ∧ s.leInUse k l = false ∧
      ((s.ls k l).st = LeState.off ∨ (s.ls k l).st = LeState.loaded) ∧ s.lawCheck (BitVec.toNat (s.rd (R.LEk_IMG_HI
      (↑k : Nat))) * 2 ^ 32 + BitVec.toNat (s.rd (R.LEk_IMG_LO (↑k : Nat)))) ≠ 0) ∧
    (∃ (k : Engine) (l : LSlot) (s : State), s.regsWf ∧ s.memWf ∧ s.leOn (↑k : Nat) = true ∧ (s.ls k l).st =
      LeState.loaded ∧ s.leSchedOk k l = true ∧ s.leTwice k l = false) ∧
    (∃ (k : Engine) (l : LSlot) (s : State), s.regsWf ∧ s.memWf ∧ s.leOn (↑k : Nat) = true ∧ (s.leInUse k l = false ∨
      (s.ls k l).st = LeState.safe) ∧ ((s.ls k l).st = LeState.start ∨ (s.ls k l).st = LeState.ramp ∨ (s.ls k l).st =
      LeState.run ∨ (s.ls k l).st = LeState.safe)) ∧
    (∃ (k : Engine) (l : LSlot) (s : State), s.regsWf ∧ s.memWf ∧ s.leOn (↑k : Nat) = true ∧ s.leInUse k l = false ∧ ∀
      i < 64, s.rdN (State.lawShadow (↑k : Nat) (↑l : Nat) + 8 * i + 4) 4 ≤ 31) ∧
    (∃ (k : Engine) (l : LSlot) (s : State), s.leOn (↑k : Nat) = true ∧ (s.ls k l).st ≠ LeState.off ∧ s.leRuns k l
      s.leFrame = true ∧ (s.ls k l).ran ≠ some s.leFrame ∧ s.leFrameAt s.leFrame + s.leOfs k l + (s.ls k l).total ≤
      s.tick ∧ s.portUp (if s.leMach k l = true then 33 else (↑(s.lePort k l) : Nat)) = true ∧ (s.ls k l).st =
      LeState.loaded) ∧
    (∃ (k : Engine) (l : LSlot) (s : State), s.leOn (↑k : Nat) = true ∧ (s.ls k l).st ≠ LeState.off ∧ s.leRuns k l
      s.leFrame = true ∧ (s.ls k l).ran ≠ some s.leFrame ∧ s.leFrameAt s.leFrame + s.leOfs k l + (s.ls k l).total ≤
      s.tick ∧ s.portUp (if s.leMach k l = true then 33 else (↑(s.lePort k l) : Nat)) = true ∧ ((s.ls k l).st =
      LeState.loaded ∨ (s.ls k l).st = LeState.safe)) ∧
    (∃ (k : Engine) (l : LSlot) (s : State), s.leOn (↑k : Nat) = true ∧ (s.ls k l).st ≠ LeState.off ∧ s.leRuns k l
      s.leFrame = true ∧ (s.ls k l).ran ≠ some s.leFrame ∧ s.leFrameAt s.leFrame + s.leOfs k l + (s.ls k l).total ≤
      s.tick ∧ s.portUp (if s.leMach k l = true then 33 else (↑(s.lePort k l) : Nat)) = true ∧ s.dev.holdReq = 0) ∧
    (∃ (k : Engine) (l : LSlot) (s : State), (s.ls k l).ran = some s.leFrame) ∧
    (∃ (p : Port) (ax : Fin 16) (sidx : BitVec 16) (k : Engine) (l : LSlot) (j : Nat) (s : State), s.portUp (↑p : Nat)
      = true ∧ s.extSidx sidx.toNat = (↑j : Int) ∧ s.leOn (↑k : Nat) = true ∧ ((s.ls k l).st = LeState.start ∨ (s.ls k
      l).st = LeState.ramp ∨ (s.ls k l).st = LeState.run) ∧ (if s.leMach k l = true then (↑p : Nat) = 33 ∧ s.lePort k
      l = ax else (↑p : Nat) = (↑(s.lePort k l) : Nat) ∧ s.leAxis k l = (↑ax : Nat)) ∧ (j + s.leLag k l) % 50 = 0 ∧
      s.leRuns k l ((j + s.leLag k l) / 50) = true ∧ s.tick ≤ s.leFrameAt ((j + s.leLag k l) / 50) + s.leOfs k l) ∧
    (∃ (k : Engine) (s : State), s.leReads (↑k : Nat) = false) ∧
    (∃ (k : Engine) (l : LSlot) (n : Nat) (s : State), s.leReads (↑k : Nat) = true ∧ s.le[k].check = 128 * (↑l : Nat)
      + n ∧ n < 128 ∧ (s.ls k l).st ≠ LeState.off ∧ n * 8 < (s.ls k l).words ∧ s.rdBytes (State.lawBase (↑k : Nat) (↑l
      : Nat) + 64 * n) (min 64 (8 * (s.ls k l).words - 64 * n)) = s.rdBytes ((s.ls k l).master + 64 + 64 * n) (min 64
      (8 * (s.ls k l).words - 64 * n))) ∧
    (∃ (k : Engine) (l : LSlot) (n : Nat) (s : State), s.leReads (↑k : Nat) = true ∧ s.le[k].check = 128 * (↑l : Nat)
      + n ∧ n < 128 ∧ (s.ls k l).st ≠ LeState.off ∧ n * 8 < (s.ls k l).words ∧ s.rdBytes (State.lawBase (↑k : Nat) (↑l
      : Nat) + 64 * n) (min 64 (8 * (s.ls k l).words - 64 * n)) ≠ s.rdBytes ((s.ls k l).master + 64 + 64 * n) (min 64
      (8 * (s.ls k l).words - 64 * n)) ∧ (s.ls k l).st ≠ LeState.ramp ∧ (s.ls k l).st ≠ LeState.run) ∧
    (∃ (k : Engine) (l : LSlot) (n : Nat) (s : State) (b : Beam), s.leReads (↑k : Nat) = true ∧ s.le[k].check = 128 *
      (↑l : Nat) + n ∧ n < 128 ∧ (s.ls k l).st ≠ LeState.off ∧ n * 8 < (s.ls k l).words ∧ s.rdBytes (State.lawBase (↑k
      : Nat) (↑l : Nat) + 64 * n) (min 64 (8 * (s.ls k l).words - 64 * n)) ≠ s.rdBytes ((s.ls k l).master + 64 + 64 *
      n) (min 64 (8 * (s.ls k l).words - 64 * n)) ∧ ((s.ls k l).st = LeState.ramp ∨ (s.ls k l).st = LeState.run) ∧
      s.dev.holdReq = 0 ∧ b ∈ s.leBeams k l ∧ s.be[b].move = none ∧ ∃ s0 ∈ s.beS b, s0 ≤ s.tick) ∧
    (∃ (k : Engine) (s : State), s.leOn (↑k : Nat) = true ∧ 1 ≤ s.rf (R.LEk_TR_CTL (↑k : Nat)) 6 4 ∧ s.rf
      (R.LEk_TR_CTL (↑k : Nat)) 6 4 ≤ 6 ∧ s.regsWf) ∧
    (∃ (k : Engine) (s : State), s.le[k].armed = true ∧ s.le[k].trig = false ∧ s.rf (R.LEk_TR_CTL (↑k : Nat)) 6 4 = 1) := by
  refine ⟨⟨3, stNoLe, ?_⟩, ⟨1, 3, stInUse, (.load 1 3), ?_⟩, ⟨1, 1, stLoadOk, ?_⟩, ⟨1, 1, s0, ?_⟩, ⟨1, 3, stLoaded,
    ?_⟩, ⟨1, 3, ramped, ?_⟩, ⟨1, 3, stLoaded, ?_⟩, ⟨1, 3, stRunLoaded, ?_⟩, ⟨1, 3, stRunLoaded, ?_⟩, ⟨1, 3, stRunT,
    ?_⟩, ⟨1, 3, stRan, ?_⟩, ⟨1, 0, 0xa800#16, 1, 3, 6400000, ramped, ?_⟩, ⟨1, s0, ?_⟩, ⟨1, 3, 0, stChk, ?_⟩, ⟨1, 3, 0,
    stChkLoaded, ?_⟩, ⟨1, 3, 0, stChkJob, 1, ?_⟩, ⟨1, stTr, ?_⟩, ⟨1, stTrArmed, ?_⟩⟩ <;>
    (try simp -decide only [State.regsWf, State.memWf, sparse_iff, State.Decodes, State.LawRuns, State.MbxFree,
      State.noArmWaits, State.TakesTwin, State.armedFresh, noStart_iff]) <;> decide +kernel

end T4

namespace T5

def ax3 (f : AxisSt → AxisSt) (s : State) : State := s.upAx 3 f
def axc (cfg : Word) (tgt : Word) : State :=
  ((((((s0.wr (R.AXn_CFG 3) cfg).wr (R.AXn_VMAX 3) 1000000).wr (R.AXn_AMAX 3) 1000000).wr (R.AXn_CMD_TGT 3) tgt).wr (R.AXn_CMD_V 3) 5000).wr (R.AXn_CMD_A 3) 7000) |> ax3 fun x => { x with st := .idle }
def pit (t : Int) : Pitch := { tgt := t, v := 1000, a := 2000 }
def seg : Seg := { t0 := 319999000, dur := 5000, ex := ⟨0, 1⟩, off := ⟨0, 1⟩, p := ⟨0, 1⟩, v := ⟨100, 1⟩, a := ⟨0, 1⟩ }
def mj (w : List DWord) (s : State) : State :=
  ((((w.zipIdx.foldl (fun (s : State) (x : DWord × Nat) => s.wrN (0x100001040 + 8 * x.2) 8 x.1.toNat) s).upSlot 2 fun j => { j with desc := desc 0 0 [(24, 0x100001)] }) |> fun z => { z with mach := { z.mach with job := some 2, time := 100 } }))
def c1 (f : Cal → Cal) (s : State) : State := s.upCal f
def hd (f : CalHead → CalHead) (s : State) : State := s.upHead 1 f
def chk (n : Nat) (a : Option Nat) (s : State) : State := hd (fun h => { h with check := some { got := List.replicate n (100, 200), inPrep := false, asked := a, legAt := 300000000 } }) s
def prt (p : Port) (f : PortSt → PortSt) (s : State) : State := { s with port := vupd s.port p f }
def src1 (f : CalSource → CalSource) (s : State) : State := s.upSrc 1 f
def stIdle : State := axc 1 500
def stQ16 : State := ax3 (fun x => { x with st := .moving, queue := List.replicate 16 (pit 5) }) (axc 1 500)
def stBusy : State := ax3 (fun x => { x with st := .moving, queue := [pit 100], running := true, segs := [seg] }) (axc 1
    500)
def stRem : State := ax3 (fun x => { x with remValid := true, kept := [pit 9, pit 10] }) (axc 1 500)
def stRemLim : State := stRem.wr (R.AXn_CFG 3) 0x21
def stEl1 : State := axc 9 500
def stEl1m : State := ax3 (fun x => { x with st := .moving, queue := [pit 100], running := true, segs := [seg] }) (axc 9
    (-500))
def stBusyH : State := ax3 (fun x => { x with st := .moving, queue := [pit 100], running := true, segs := [seg] }) (axc 0x41 500)
def stBusyH2 : State := ax3 (fun x => { x with st := .moving, queue := [pit 100], running := false }) (axc 0x41 500)
def stEl1m2 : State := ax3 (fun x => { x with st := .moving, queue := [pit 100], running := true }) (axc 9 (500))
def stPmiss : State := ax3 (fun x => { x with st := .moving, queue := [pit 100], running := true, schedEnd := some 319999999 }) runJ
def stHom1 : State := ax3 (fun x => { x with st := .homing, homing := 1, segs := [seg] }) (axc 1 500)
def stStopping : State := ax3 (fun x => { x with st := .stopping }) (axc 1 500)
def stHom3 : State := ax3 (fun x => { x with st := .homing, homing := 3 }) (axc 1 500)
def stMm : State := mj (mmoveWords 3 true 5 6 100) (ax3 (fun x => { x with st := .idle, lastTgt := 77 }) runJ)
def stAxUse : State := stMm.wrN 0x100001008 4 2
def stMw : State := mj [BitVec.ofNat 64 (0x91 * 2 ^ 56 + 9)] runJ
def stMd : State := mj [BitVec.ofNat 64 (0x92 * 2 ^ 56 + 100)] runJ
def stMh : State := mj [BitVec.ofNat 64 (0x7F * 2 ^ 56)] runJ
def stRef1 : State := c1 (fun c => { c with refAt := some 319000000, refGood := 2 }) (s0.wr R.CAL_CTL 1)
def stLoss2 : State := c1 (fun c => { c with refAt := some 319999800, refGood := 3, refOk := true }) (s0.wr R.CAL_CTL 2)
def stRun : State := c1 (fun c => { c with refOk := true, running := true, due := true }) s0
def stRefBad : State := c1 (fun c => { c with refAt := some 319000000, refGood := 3, refOk := true }) (s0.wr R.CAL_CTL 1)
def stSwapLp : State := c1 (fun c => { c with pair := c.pair.set 17 { State.resetPair with swap := true } }) s0
def stSwapO : State := (c1 (fun c => { c with pair := c.pair.set 1 { State.resetPair with swap := true } }) runJ).upBe 1
    fun e => { e with gates := [⟨8*319999990, none, 0, []⟩] }
def stSwap : State := c1 (fun c => { c with pair := c.pair.set 1 { State.resetPair with swap := true } }) s0
def stChk0 : State := chk 0 none (up [1] s0)
def stChk1 : State := chk 1 (some 6) (prt 1 (fun p => { p with rxNext := 9, tag := 5 }) (up [1] s0))
def chkC (n : Nat) (a : Nat) : DriftCheck := { got := List.replicate n (100, 200), inPrep := false, asked := none, legAt := a }
/-- The tick at which the mirror of head `b` has rested at the reference point of a check. -/
def restTick (s : State) (b : Beam) (c : DriftCheck) : Nat :=
  let k := c.got.length % 4
  let way := if c.got.isEmpty then Config.refTravel b.val k (s.be[b]).m else Config.refLeg b.val ((k + 3) % 4) k
  let pos := match c.inPrep, (s.be[b]).job with
    | true, some j => (s.js j).prepCfg[0]
    | _, _ => s.rd R.JOB_POS
  c.legAt + moveNs way (State.posV pos) (State.posA pos) + oneIfZero (s.rf R.CAL_DRIFT_TOL 31 24) * 1000
theorem rests_iff (s : State) (b : Beam) (c : DriftCheck) : s.checkRests b c = decide (restTick s b c ≤ s.tick) := rfl
theorem rest_at (t : Nat) (s : State) (b : Beam) (c : DriftCheck) : restTick (at_ t s) b c = restTick s b c := rfl
theorem rests_there (s : State) (b : Beam) (c : DriftCheck) : (at_ (restTick s b c) s).checkRests b c = true := by
  rw [rests_iff, rest_at]; exact decide_eq_true (Nat.le_refl _)
theorem rests_not (s : State) (b : Beam) (c : DriftCheck) (h : s.tick < c.legAt) : s.checkRests b c = false := by
  rw [rests_iff]; exact decide_eq_false (by simp only [restTick]; omega)
def stChkN : State := hd (fun h => { h with check := some (chkC 0 400000000) }) (up [1] s0)
def stExpo1 : State := src1 (fun c => { c with expo := some (4, 320000000, 329000000) }) lp1
def stLock3 : State := slot .accepted (fun j => { j with locks := [3] }) s0
/-- A correction set of head 3: its header, with the CRC words `w` and `h`, over grids of zeros. -/
def setHdr (w h : Word) : List Byte :=
  toBytes 4 0x31434650 ++ [1, 0, 3, 3] ++ toBytes 8 0 ++ toBytes 4 1000000 ++ toBytes 28 0 ++ toBytes 4 w.toNat ++ toBytes 8 0 ++
    toBytes 4 h.toNat
def setW : Word := crc32 (s0.rdBytes (setBase 6 + 64) (setBytes - 64))
def setH : Word := crc32 ((setHdr setW 0).take 60)
theorem w32_ofBytes (w : Word) : w32 (ofBytes (toBytes 4 w.toNat)) = w := by
  have h := w.isLt
  apply BitVec.eq_of_toNat_eq
  simp only [w32, ofBytes, toBytes, BitVec.toNat_ofNat]
  omega
theorem rdBytes_wrBytes (s : State) (hs : s.memWf) (a k n : Nat) (l : List Byte) (h : k + n ≤ l.length) :
    (s.wrBytes a l).rdBytes (a + k) n = (l.drop k).take n := by
  apply List.ext_getElem
  · simp [State.rdBytes]; omega
  · intro i h1 h2
    have h3 : k + i < l.length := by simp [State.rdBytes] at h1; omega
    have h4 := State.rdByte_wrBytes_in l s a (k + i) hs h3
    simp only [State.rdBytes, List.getElem_map, List.getElem_range, List.getElem_take, List.getElem_drop]
    rw [Nat.add_assoc, h4]
theorem rdBytes_wrBytes_out (s : State) (a k n : Nat) (l : List Byte) (h : l.length ≤ k) :
    (s.wrBytes a l).rdBytes (a + k) n = s.rdBytes (a + k) n := by
  apply List.map_congr_left
  intro i _
  exact State.rdByte_wrBytes_out _ _ _ _ (Or.inr (by omega))
theorem setHdr_take (w h : Word) : (setHdr w h).take 60 = (setHdr w 0).take 60 := rfl
theorem setHdr_length (w h : Word) : (setHdr w h).length = 64 := rfl
theorem s0_memWf : s0.memWf := by rw [State.memWf, sparse_iff]; decide +kernel
/-- A set whose header and body carry their CRC words passes the checks of its own bytes, wherever it stands. -/
theorem setCheck_hdr (t : State) (q : Nat) (w h : Word)
    (r : ∀ k n, k + n ≤ 64 → t.rdBytes (setBase q + k) n = ((setHdr w h).drop k).take n)
    (r0 : ∀ n, n ≤ 64 → t.rdBytes (setBase q) n = (setHdr w h).take n)
    (h1 : t.small = false) (h2 : t.setLocked q = false)
    (hw : crc32 (t.rdBytes (setBase q + 64) (setBytes - 64)) = w) (hh : crc32 ((setHdr w h).take 60) = h) :
    t.setCheck q 3 = 0 := by
  have f (k n v : Nat) (hk : k + n ≤ 64) (hv : ofBytes (((setHdr w h).drop k).take n) = v) : t.rdN (setBase q + k) n = v := by
    rw [State.rdN, r k n hk]; exact hv
  have g (n v : Nat) (hk : n ≤ 64) (hv : ofBytes ((setHdr w h).take n) = v) : t.rdN (setBase q) n = v := by
    rw [State.rdN, r0 n hk]; exact hv
  have f0 := g 4 0x31434650 (by decide) (by simp [setHdr, toBytes, ofBytes])
  have f4 := f 4 2 1 (by decide) (by simp [setHdr, toBytes, ofBytes])
  have f6 := f 6 1 3 (by decide) (by simp [setHdr, toBytes, ofBytes])
  have f7 := f 7 1 3 (by decide) (by simp [setHdr, toBytes, ofBytes])
  have f16 := f 16 4 1000000 (by decide) (by simp [setHdr, toBytes, ofBytes])
  have f22 := f 22 2 0 (by decide) (by simp [setHdr, toBytes, ofBytes])
  have f28 := f 28 4 0 (by decide) (by simp [setHdr, toBytes, ofBytes])
  have f32 := f 32 4 0 (by decide) (by simp [setHdr, toBytes, ofBytes])
  have f36 := f 36 4 0 (by decide) (by simp [setHdr, toBytes, ofBytes])
  have f52 := f 52 8 0 (by decide) (by simp [setHdr, toBytes, ofBytes])
  have f48 : t.rd32 (setBase q + 48) = w := by rw [State.rd32, State.rdN, r 48 4 (by decide)]; exact w32_ofBytes w
  have f60 : t.rd32 (setBase q + 60) = h := by rw [State.rd32, State.rdN, r 60 4 (by decide)]; exact w32_ofBytes h
  have f64 : crc32 (t.rdBytes (setBase q) 60) = h := by rw [r0 60 (by decide)]; exact hh
  simp [State.setCheck, State.setI32, f0, f4, f6, f7, f16, f22, f28, f32, f36, f52, f48, f60, f64, hw, h1, h2]
def stSet : State := s0.wrBytes (setBase 6) (setHdr setW setH)
theorem stSet_ok : stSet.setCheck 6 3 = 0 :=
  setCheck_hdr stSet 6 setW setH (fun k n h => rdBytes_wrBytes s0 s0_memWf _ k n _ h)
    (fun n h => rdBytes_wrBytes s0 s0_memWf _ 0 n _ (by rw [Nat.zero_add]; exact h)) (by decide +kernel) (by decide +kernel)
    (congrArg crc32 (rdBytes_wrBytes_out s0 _ 64 _ _ (Nat.le_of_eq (setHdr_length _ _)))) (by rw [setHdr_take, setH])
def stChk7 : State := chk 7 (some 6) (prt 1 (fun p => { p with rxNext := 9, tag := 5 }) (up [1] s0))
def stDrawn : State := hd (fun h => { h with drawn := some (0, 1, 5) }) s0
def stSmall : State := s0.upDev fun d => { d with variant := 4 }
def stValid3 : State := c1 (fun c => { c with valid := c.valid.set 3 true }) s0
def stValid3J : State := c1 (fun c => { c with valid := c.valid.set 3 true }) accJ
def stLatch : State := lp1.upLdc fun c => { c with latch := true }
def stExpo : State := at_ 330000000 (src1 (fun c => { c with expo := some (4, 320000000, 329000000) }) lp1)
def stExpoL : State := (src1 (fun c => { c with expo := some (4, 320000000, 329000000) }) lp1).upLdc fun c => { c with
    latch := true }
def stDone : State := src1 (fun c => { c with done := some 4 }) (lp1.wr R.CAL_PCAL_READ 1000000)
def stDone1 : State := (src1 (fun c => { c with done := some 4 }) (lp1.wr R.CAL_PCAL_READ 1000000)).wr (R.CAL_Pn_ACCp 1
    4) (w32 (2^30 + 1000001))
def stDone1b : State := (src1 (fun c => { c with done := some 4 }) (lp1.wr R.CAL_PCAL_READ 1000000)).wr (R.CAL_Pn_ACCp 1
    4) (w32 (2^30 + 9))
def stCurve : State := (List.range 33).foldl (fun s i => s.wr (R.CAL_Pn_ACCp 1 i) (w32 (2^31 + 1000 * i))) lp1

theorem test_AxisCommands_met :
    (∃ (n : Axis) (s : State), s.regsWf ∧ s.axInUse n = false ∧ s.axKind n ≠ 0 ∧ s.ax[n].st ≠ AxState.fault ∧ s.axEl1
      n = false ∧ (s.ax[n].st = AxState.idle ∨ s.ax[n].st = AxState.moving) ∧ s.ax[n].queue.length < 16 ∧ s.axTarget n
      (s.axCmdPitch n).tgt (s.axTail n) = 0) ∧
    (∃ (n : Axis) (s : State), s.regsWf ∧ s.axInUse n = false ∧ s.axKind n ≠ 0 ∧ s.ax[n].st ≠ AxState.fault ∧ s.axEl1
      n = false ∧ (s.ax[n].st = AxState.idle ∨ s.ax[n].st = AxState.moving) ∧ 16 ≤ s.ax[n].queue.length) ∧
    (∃ (n : Axis) (s : State), s.regsWf ∧ s.axInUse n = false ∧ s.axKind n ≠ 0 ∧ s.ax[n].st ≠ AxState.fault ∧ s.axEl1
      n = false ∧ (s.ax[n].st = AxState.idle ∨ s.ax[n].st = AxState.moving) ∧ s.axTarget n (s.axCmdPitch n).tgt
      (s.axPos n s.tick) = 0) ∧
    (∃ (n : Axis) (s : State) (p : Pitch) (l : List Pitch), s.ax[n].queue = p :: l ∧ s.regsWf ∧ s.axInUse n = false ∧
      s.axKind n ≠ 0 ∧ s.ax[n].st ≠ AxState.fault ∧ s.ax[n].st = AxState.moving ∧ s.rb (R.AXn_CFG (↑n : Nat)) 6 = true
      ∧ s.ax[n].running = true) ∧
    (∃ (n : Axis) (s : State) (q : Pitch) (l : List Pitch), s.ax[n].kept = q :: l ∧ s.regsWf ∧ s.axInUse n = false ∧
      s.axKind n ≠ 0 ∧ s.ax[n].st ≠ AxState.fault ∧ s.ax[n].remValid = true ∧ s.ax[n].st = AxState.idle ∧ s.axTarget n
      q.tgt (s.axPos n s.tick) ≠ 0) ∧
    (∃ (n : Axis) (s : State), s.regsWf ∧ s.axInUse n = false ∧ s.axKind n ≠ 0 ∧ s.ax[n].st ≠ AxState.fault ∧
      s.ax[n].remValid = true ∧ s.ax[n].st = AxState.idle ∧ (∀ q ∈ List.take 1 s.ax[n].kept, s.axTarget n q.tgt
      (s.axPos n s.tick) = 0) ∧ (∀ q ∈ List.drop 1 s.ax[n].kept, s.axInLimits n q.tgt = true) ∧ s.ax[n].kept ≠ []) ∧
    (∃ (n : Axis) (s : State), s.regsWf ∧ s.axInUse n = false ∧ s.axKind n ≠ 0 ∧ s.ax[n].st ≠ AxState.fault ∧ s.axIdle
      n = true ∧ s.axBlocked n (if s.rb (R.AXn_HOME (↑n : Nat)) 31 = true then 1 else -1) = false) ∧
    (∃ (n : Axis) (s : State), s.regsWf ∧ s.axInUse n = false ∧ s.axKind n ≠ 0 ∧ s.ax[n].st ≠ AxState.fault ∧ s.axIdle
      n = true ∧ s.axEl1 n = true ∧ s.axTarget n (s.axCmdPitch n).tgt (s.axPos n s.tick) = 0) ∧
    (∃ (n : Axis) (s : State) (p : Pitch) (l : List Pitch), s.ax[n].queue = p :: l ∧ s.regsWf ∧ s.axInUse n = false ∧
      s.axKind n ≠ 0 ∧ s.ax[n].st ≠ AxState.fault ∧ s.axEl1 n = true ∧ s.ax[n].st = AxState.moving ∧ s.ax[n].running =
      true) ∧
    (∃ (n : Axis) (c : Instr) (s : State), s.axInUse n = true ∧ s.regsWf ∧ (c = Instr.axAppend n ∨ c = Instr.axReplace
      n ∨ c = Instr.axStop n ∨ c = Instr.axResume n ∨ c = Instr.axHome n ∨ c = Instr.setPos n ∨ c = Instr.el1Move n ∨
      c = Instr.el1Set n ∨ c = Instr.axClear n)) := by
  refine ⟨⟨3, stIdle, ?_⟩, ⟨3, stQ16, ?_⟩, ⟨3, stIdle, ?_⟩, ⟨3, stBusyH, pit 100, [], ?_⟩, ⟨3, stRemLim, pit 9, [pit
    10], ?_⟩, ⟨3, stRem, ?_⟩, ⟨3, stIdle, ?_⟩, ⟨3, stEl1, ?_⟩, ⟨3, stEl1m, ({ tgt := 100, v := 1000, a := 2000 }),
    ([]), ?_⟩, ⟨3, .axAppend 3, stAxUse, ?_⟩⟩ <;>
    (try simp -decide only [State.regsWf, State.memWf, sparse_iff, State.Decodes, State.LawRuns, State.MbxFree,
      State.noArmWaits, State.TakesTwin, State.armedFresh, noStart_iff]) <;> decide +kernel

theorem test_AxisEvents_met :
    (∃ (n : Axis) (s : State) (k : Pitch) (rest : List Pitch), s.ax[n].queue = k :: rest ∧ s.ax[n].running = false ∧
      (s.ax[n].st = AxState.idle ∨ s.ax[n].st = AxState.moving)) ∧
    (∃ (n : Axis) (s : State) (k : Pitch), s.ax[n].queue = [k] ∧ s.ax[n].running = true ∧ segsEnd s.tick s.ax[n].segs
      ≤ s.tick ∧ (∀ (e : Nat), s.ax[n].schedEnd = some e → s.tick ≤ e) ∧ s.axKind n ≠ 0) ∧
    (∃ (n : Axis) (s : State) (k : Pitch) (rest : List Pitch), s.ax[n].queue = k :: rest ∧ s.ax[n].running = true ∧
      segsEnd s.tick s.ax[n].segs ≤ s.tick ∧ ∃ e ∈ s.ax[n].schedEnd, e < s.tick ∧ ∃ j ∈ s.runSlot, True) ∧
    (∃ (n : Axis) (s : State) (lv : Bool), lv ≠ s.rb (R.AXn_CFG (↑n : Nat)) 8 ∨ (s.axVel n s.tick).isZero = true) ∧
    (∃ (n : Axis) (s : State), s.ax[n].st = AxState.moving ∧ sgnQ (s.axVel n s.tick) = 1 ∧ s.regsWf) ∧
    (∃ (n : Axis) (s : State), s.ax[n].st = AxState.homing ∧ s.ax[n].homing = 1 ∧ s.regsWf) ∧
    (∃ (n : Axis) (s : State), segsEnd s.tick s.ax[n].segs ≤ s.tick ∧ s.axKind n ≠ 0 ∧ s.ax[n].st = AxState.stopping)
      ∧
    (∃ (n : Axis) (s : State), segsEnd s.tick s.ax[n].segs ≤ s.tick ∧ s.axKind n ≠ 0 ∧ s.ax[n].st = AxState.homing ∧
      s.ax[n].homing = 3) := by
  refine ⟨⟨3, stBusyH2, ({ tgt := 100, v := 1000, a := 2000 }), ([]), ?_⟩, ⟨3, stEl1m2, pit 100, ?_⟩, ⟨3, stPmiss,
    ({ tgt := 100, v := 1000, a := 2000 }), ([]), ?_⟩, ⟨3, stIdle, false, ?_⟩, ⟨3, stBusy, ?_⟩, ⟨3, stHom1, ?_⟩, ⟨3,
    stStopping, ?_⟩, ⟨3, stHom3, ?_⟩⟩ <;>
    (try simp -decide only [State.regsWf, State.memWf, sparse_iff, State.Decodes, State.LawRuns, State.MbxFree,
      State.noArmWaits, State.TakesTwin, State.armedFresh, noStart_iff]) <;> decide +kernel

theorem test_MachineProgram_met :
    (∃ (a : Axis) (rel : Bool) (v : BitVec 24) (acc : BitVec 24) (tgt : Word) (s : State), ∃ s0 ∈ s.machDue
      (mmoveWords a rel v acc tgt), True) ∧
    (∃ (mask : BitVec 16) (s : State), (∀ (a : Axis), nbit mask.toNat (↑a : Nat) = true → s.ax[a].running = false ∧
      s.ax[a].queue = []) ∧ ∃ s0 ∈ s.machDue [BitVec.ofNat 64 (145 * 2 ^ 56 + mask.toNat)], True) ∧
    (∃ (ns : BitVec 48) (s : State), ∃ s0 ∈ s.machDue [BitVec.ofNat 64 (146 * 2 ^ 56 + ns.toNat)], True) ∧
    (∃ (s : State), ∃ s0 ∈ s.machDue [BitVec.ofNat 64 (127 * 2 ^ 56)], True) := by
  refine ⟨⟨3, true, 0x5#24, 0x6#24, 0x64#32, stMm, ?_⟩, ⟨0x9#16, stMw, ?_⟩, ⟨0x64#48, stMd, ?_⟩, ⟨stMh, ?_⟩⟩ <;>
    (try simp -decide only [State.regsWf, State.memWf, sparse_iff, State.Decodes, State.LawRuns, State.MbxFree,
      State.noArmWaits, State.TakesTwin, State.armedFresh, noStart_iff]) <;> decide +kernel

theorem test_ReferenceAndDelayLines_met :
    (∃ (dev : Int) (s : State), (s.rf R.CAL_CTL 1 0 = 1 ∨ s.rf R.CAL_CTL 1 0 = 2) ∧ s.regsWf ∧ dev.natAbs ≤ 50000 ∧ ∃
      t0 ∈ s.cal.refAt, True) ∧
    (∃ (dev : Int) (s : State), (s.rf R.CAL_CTL 1 0 = 1 ∨ s.rf R.CAL_CTL 1 0 = 2) ∧ s.regsWf ∧ 50000 < dev.natAbs ∧
      s.cal.refOk = true ∧ ∃ t0 ∈ s.cal.refAt, True) ∧
    (∃ (s : State), s.cal.refOk = true ∧ ∃ t0 ∈ s.cal.refAt, s.rf R.CAL_CTL 1 0 = 1 ∧ t0 + 1500000000 < s.tick ∨ s.rf
      R.CAL_CTL 1 0 = 2 ∧ t0 + 150 < s.tick) ∧
    (∃ (s : State), s.calBusy = false ∧ s.dev.shpHalt = false ∧ s.regsWf ∧ s.cal.running = true) ∧
    (∃ (s : State), s.calBusy = false ∧ s.dev.shpHalt = false ∧ s.regsWf ∧ s.cal.running = false) ∧
    (∃ (s : State), s.cal.running = true ∧ s.cal.again = false ∧ s.dev.shpHalt = false ∧ s.regsWf) ∧
    (∃ (b : Beam) (m : Fin 32) (s : State), (↑m : Nat) = (↑b : Nat) ∧ s.cal.pair[m].swap = true ∧ s.lgate b = true) ∧
    (∃ (b : Beam) (m : Fin 32) (s : State), (↑m : Nat) = (↑b : Nat) ∧ s.cal.pair[m].swap = true ∧ s.lgate b = false ∧
      s.gateOpen b s.tick = false ∧ ∀ g ∈ s.be[b].gates, g.on_ < 8 * (↑s.tick : Int) ∨ 8 * (↑s.tick : Int) + 128 <
      g.on_) ∧
    (∃ (b : Beam) (m : Fin 32) (s : State), (↑m : Nat) = 16 + (↑b : Nat) ∧ s.cal.pair[m].swap = true ∧ s.sampleAt
      s.sample = s.tick ∧ ∀ x ∈ s.sent, x.port = 16 + (↑b : Nat) → x.msg = 5 → x.at_ < s.tick) ∧
    (∃ (n : BitVec 16) (s : State), s.calBusy = false ∧ s.regsWf ∧ ¬(s.twin.role = 2 ∧ s.twin.pair ≠ 0) ∧ ∃ b ∈
      s.argBeam n.toNat, s.naming b JobSlot.busy = false ∧ s.cal.src[b].expo = none) ∧
    (∃ (n : BitVec 16) (s : State), s.calBusy = false ∧ s.regsWf ∧ ∃ b ∈ s.argBeam n.toNat, s.naming b JobSlot.busy =
      false ∧ (s.twin.role = 2 ∧ s.twin.pair ≠ 0 ∨ s.cal.src[b].expo.isSome = true)) ∧
    (∃ (n : BitVec 16) (s : State), s.calBusy = false ∧ s.regsWf ∧ ∃ b ∈ s.argBeam n.toNat, s.naming b JobSlot.busy =
      true) ∧
    (∃ (b : Beam) (p : Port) (s : State), (↑p : Nat) = (↑b : Nat) ∧ ∃ c ∈ s.cal.head[b].check, c.asked = none ∧
      (c.inPrep = true → s.checkOpen b = true ∧ s.checkLate b c = false) ∧ s.checkRests b c = true) ∧
    (∃ (b : Beam) (p : Port) (s : State), (↑p : Nat) = (↑b : Nat) ∧ ∃ c ∈ s.cal.head[b].check, c.asked = none ∧
      (c.inPrep = true → s.checkOpen b = true ∧ s.checkLate b c = false) ∧ s.checkRests b c = false) ∧
    (∃ (b : Beam) (p : Port) (seq : BitVec 16) (tag : BitVec 16) (pt : Fin 4) (s : State), (↑p : Nat) = (↑b : Nat) ∧
      s.portTalks p = true ∧ seq.toNat = s.port[p].rxNext ∧ s.dev.shpHalt = false ∧ ∃ c ∈ s.cal.head[b].check, c.asked
      = some tag.toNat ∧ (↑pt : Nat) = c.got.length % 4 ∧ (c.inPrep = true → s.checkLate b c = false) ∧ c.got.length <
      7) ∧
    (∃ (b : Beam) (p : Port) (seq : BitVec 16) (tag : BitVec 16) (pt : Fin 4) (s : State), (↑p : Nat) = (↑b : Nat) ∧
      s.portTalks p = true ∧ seq.toNat = s.port[p].rxNext ∧ s.dev.shpHalt = false ∧ ∃ c ∈ s.cal.head[b].check, c.asked
      = some tag.toNat ∧ (↑pt : Nat) = c.got.length % 4 ∧ (c.inPrep = true → s.checkLate b c = false) ∧ c.got.length <
      8) ∧
    (∃ (b : Beam) (p : Port) (seq : BitVec 16) (tag : BitVec 16) (pt : Fin 4) (s : State), (↑p : Nat) = (↑b : Nat) ∧
      s.portTalks p = true ∧ seq.toNat = s.port[p].rxNext ∧ s.dev.shpHalt = false ∧ ∃ c ∈ s.cal.head[b].check, c.asked
      = some tag.toNat ∧ (↑pt : Nat) = c.got.length % 4 ∧ (c.inPrep = true → s.checkLate b c = false) ∧ c.got.length =
      7) ∧
    (∃ (b : Beam) (s : State), s.portUp (↑b : Nat) = true) ∧
    (∃ (b : Beam) (s : State), s.beamOn (↑b : Nat) = true ∧ s.cal.head[b].tempAt.getD 0 + 10000000 ≤ s.tick) := by
  refine ⟨⟨100, stRef1, ?_⟩, ⟨(-50001), stRefBad, ?_⟩, ⟨stLoss2, ?_⟩, ⟨stRun, ?_⟩, ⟨s0, ?_⟩, ⟨stRun, ?_⟩, ⟨1, 1,
    stSwapO, ?_⟩, ⟨1, 1, stSwap, ?_⟩, ⟨1, 17, stSwapLp, ?_⟩, ⟨0x6#16, s0, ?_⟩, ⟨0x1#16, stExpo1, ?_⟩, ⟨0x1#16,
    stSwapO, ?_⟩, ⟨1, 1, at_ (restTick stChkN 1 (chkC 0 400000000)) stChkN, rfl, chkC 0 400000000, rfl, rfl, nofun,
    rests_there _ _ _⟩, ⟨1, 1, stChkN, rfl, chkC 0 400000000, rfl, rfl, nofun, rests_not _ _ _ (by decide +kernel)⟩,
    ⟨1, 1, 0x9#16, 0x6#16, 1, stChk1, ?_⟩, ⟨1, 1, 0x9#16, 0x6#16, 1, stChk1, ?_⟩, ⟨1, 1, 0x9#16, 0x6#16, 3, stChk7,
    ?_⟩, ⟨1, stChk0, ?_⟩, ⟨3, s0, ?_⟩⟩ <;>
    (try simp -decide only [State.regsWf, State.memWf, sparse_iff, State.Decodes, State.LawRuns, State.MbxFree,
      State.noArmWaits, State.TakesTwin, State.armedFresh, noStart_iff]) <;> decide +kernel

theorem test_CorrectionSets_met :
    (∃ (s : State) (q : BitVec 16), s.calBusy = false ∧ s.dev.shpHalt = false ∧ s.regsWf ∧ q.toNat < 32 ∧ ∃ h ∈
      s.slotHead q.toNat, s.setCheck q.toNat h = 0) ∧
    (∃ (s : State) (q : BitVec 16), s.calBusy = false ∧ s.dev.shpHalt = false ∧ s.regsWf ∧ q.toNat < 32 ∧ ∃ h ∈
      s.slotHead q.toNat, s.setCheck q.toNat h ≠ 0) ∧
    (∃ (s : State) (q : BitVec 16), s.calBusy = false ∧ s.dev.shpHalt = false ∧ s.regsWf ∧ q.toNat < 32 ∧ s.setLocked
      q.toNat = false ∧ ∃ h ∈ s.slotHead q.toNat, True) ∧
    (∃ (s : State) (q : BitVec 16), s.calBusy = false ∧ s.dev.shpHalt = false ∧ s.regsWf ∧ q.toNat < 32 ∧ s.setLocked
      q.toNat = true ∧ ∃ h ∈ s.slotHead q.toNat, True) ∧
    (∃ (s : State), s.calBusy = false ∧ s.dev.shpHalt = false ∧ s.regsWf ∧ s.small = true) ∧
    (∃ (s : State) (n : BitVec 16), s.calBusy = false ∧ s.dev.shpHalt = false ∧ s.regsWf ∧ s.small = false ∧ ∃ b ∈
      s.argBeam n.toNat, s.setValid (2 * (↑b : Nat) + (1 - s.cal.head[b].active)) = true ∧ s.naming b JobSlot.live =
      false) ∧
    (∃ (s : State) (n : BitVec 16), s.calBusy = false ∧ s.dev.shpHalt = false ∧ s.regsWf ∧ s.small = false ∧ ∃ b ∈
      s.argBeam n.toNat, s.setValid (2 * (↑b : Nat) + (1 - s.cal.head[b].active)) = true ∧ s.naming b JobSlot.live =
      true ∧ s.sameGeom (2 * (↑b : Nat) + s.cal.head[b].active) (2 * (↑b : Nat) + (1 - s.cal.head[b].active)) false =
      true) := by
  refine ⟨⟨stSet, 0x6#16, (by decide +kernel), (by decide +kernel),
    (by (simp -decide only [State.regsWf, sparse_iff]; decide +kernel)), (by decide), 3, (by decide +kernel),
    stSet_ok⟩, ⟨s0, 0x6#16, ?_⟩, ⟨s0, 0x6#16, ?_⟩, ⟨stLock3, 0x3#16, ?_⟩, ⟨stSmall, ?_⟩, ⟨stValid3, 0x1#16, ?_⟩,
    ⟨stValid3J, 0x1#16, ?_⟩⟩ <;>
    (try simp -decide only [State.regsWf, State.memWf, sparse_iff, State.Decodes, State.LawRuns, State.MbxFree,
      State.noArmWaits, State.TakesTwin, State.armedFresh, noStart_iff]) <;> decide +kernel

theorem test_PowerCurves_met :
    (∃ (b : Beam) (arg : BitVec 16) (s : State), s.calBusy = false ∧ s.dev.shpHalt = false ∧ s.regsWf ∧ s.beamOn (↑b :
      Nat) = true ∧ nfld arg.toNat 3 0 = (↑b : Nat) ∧ nfld arg.toNat 15 8 ≤ 32 ∧ s.dev.state = DevState.idle ∧
      s.armedSlots = [] ∧ s.rb (R.LDn_CTL (↑b : Nat)) 0 = true ∧ s.portUp (16 + (↑b : Nat)) = true ∧ s.rb (R.LDn_CTL
      (↑b : Nat)) 12 = false ∧ s.ldc.latch = false ∧ s.ldc.kill = false ∧ s.cal.src[b].expo = none) ∧
    (∃ (b : Beam) (arg : BitVec 16) (s : State), s.calBusy = false ∧ s.dev.shpHalt = false ∧ s.regsWf ∧ s.beamOn (↑b :
      Nat) = true ∧ nfld arg.toNat 3 0 = (↑b : Nat) ∧ nfld arg.toNat 15 8 ≤ 32 ∧ s.ldc.latch = true) ∧
    (∃ (b : Beam) (arg : BitVec 16) (s : State) (t0 : Nat) (t1 : Nat), s.cal.src[b].expo = some (nfld arg.toNat 15 8,
      t0, t1) ∧ s.calBusy = false ∧ s.dev.shpHalt = false ∧ s.regsWf ∧ s.beamOn (↑b : Nat) = true ∧ nfld arg.toNat 3 0
      = (↑b : Nat) ∧ nfld arg.toNat 15 8 ≤ 32 ∧ s.ldc.latch = false ∧ s.ldc.kill = false ∧ s.armedSlots = [] ∧ t1 ≤
      s.tick) ∧
    (∃ (b : Beam) (arg : BitVec 16) (s : State) (t0 : Nat) (t1 : Nat), s.cal.src[b].expo = some (nfld arg.toNat 15 8,
      t0, t1) ∧ s.calBusy = false ∧ s.dev.shpHalt = false ∧ s.regsWf ∧ s.beamOn (↑b : Nat) = true ∧ nfld arg.toNat 3 0
      = (↑b : Nat) ∧ nfld arg.toNat 15 8 ≤ 32 ∧ (s.ldc.latch = true ∨ s.ldc.kill = true ∨ s.armedSlots ≠ [])) ∧
    (∃ (b : Beam) (arg : BitVec 16) (s : State), s.calBusy = false ∧ s.dev.shpHalt = false ∧ s.regsWf ∧ s.beamOn (↑b :
      Nat) = true ∧ nfld arg.toNat 3 0 = (↑b : Nat) ∧ nfld arg.toNat 15 8 ≤ 32 ∧ s.cal.src[b].done ≠ some (nfld
      arg.toNat 15 8)) ∧
    (∃ (b : Beam) (arg : BitVec 16) (s : State), s.cal.src[b].done = some (nfld arg.toNat 15 8) ∧ s.calBusy = false ∧
      s.dev.shpHalt = false ∧ s.regsWf ∧ s.beamOn (↑b : Nat) = true ∧ nfld arg.toNat 3 0 = (↑b : Nat) ∧ nfld arg.toNat
      15 8 ≤ 32 ∧ s.accHeld b (nfld arg.toNat 15 8) = 0) ∧
    (∃ (b : Beam) (arg : BitVec 16) (s : State), s.cal.src[b].done = some (nfld arg.toNat 15 8) ∧ s.calBusy = false ∧
      s.dev.shpHalt = false ∧ s.regsWf ∧ s.beamOn (↑b : Nat) = true ∧ nfld arg.toNat 3 0 = (↑b : Nat) ∧ nfld arg.toNat
      15 8 ≤ 32 ∧ s.accHeld b (nfld arg.toNat 15 8) = 1 ∧ s.accAgree (s.accVal b (nfld arg.toNat 15 8)) (BitVec.toNat
      (s.rd R.CAL_PCAL_READ)) = true) ∧
    (∃ (b : Beam) (arg : BitVec 16) (s : State), s.cal.src[b].done = some (nfld arg.toNat 15 8) ∧ s.calBusy = false ∧
      s.dev.shpHalt = false ∧ s.regsWf ∧ s.beamOn (↑b : Nat) = true ∧ nfld arg.toNat 3 0 = (↑b : Nat) ∧ nfld arg.toNat
      15 8 ≤ 32 ∧ s.accHeld b (nfld arg.toNat 15 8) = 1 ∧ s.accAgree (s.accVal b (nfld arg.toNat 15 8)) (BitVec.toNat
      (s.rd R.CAL_PCAL_READ)) = false) ∧
    (∃ (b : Beam) (arg : BitVec 16) (s : State) (n : BitVec 16), s.calBusy = false ∧ s.dev.shpHalt = false ∧ s.regsWf
      ∧ s.beamOn (↑b : Nat) = true ∧ nfld arg.toNat 3 0 = (↑b : Nat) ∧ nfld arg.toNat 15 8 ≤ 32 ∧ n.toNat = (↑b : Nat)
      ∧ s.naming b JobSlot.live = false ∧ s.curveOk b = true) ∧
    (∃ (b : Beam) (arg : BitVec 16) (s : State) (n : BitVec 16), s.calBusy = false ∧ s.dev.shpHalt = false ∧ s.regsWf
      ∧ s.beamOn (↑b : Nat) = true ∧ nfld arg.toNat 3 0 = (↑b : Nat) ∧ nfld arg.toNat 15 8 ≤ 32 ∧ n.toNat = (↑b : Nat)
      ∧ s.naming b JobSlot.live = false ∧ s.curveOk b = false) := by
  refine ⟨⟨1, 0x1#16, lp1, ?_⟩, ⟨3, 0x3#16, stLatch, ?_⟩, ⟨1, 0x401#16, stExpo, 320000000, 329000000, ?_⟩, ⟨1,
    0x401#16, stExpoL, 320000000, 329000000, ?_⟩, ⟨3, 0x3#16, lp1, ?_⟩, ⟨1, 0x401#16, stDone, ?_⟩, ⟨1, 0x401#16,
    stDone1, ?_⟩, ⟨1, 0x401#16, stDone1b, ?_⟩, ⟨1, 0x1#16, stCurve, 0x1#16, ?_⟩, ⟨3, 0x3#16, lp1, 0x3#16, ?_⟩⟩ <;>
    (try simp -decide only [State.regsWf, State.memWf, sparse_iff, State.Decodes, State.LawRuns, State.MbxFree,
      State.noArmWaits, State.TakesTwin, State.armedFresh, noStart_iff]) <;> decide +kernel

end T5

namespace T6

def prt (p : Port) (f : PortSt → PortSt) (s : State) : State := { s with port := vupd s.port p f }
def lan (n : Lane) (f : LaneSt → LaneSt) (s : State) : State := { s with lane := vupd s.lane n f }
def lanes (l : List Nat) (st : LaneState) (s : State) : State := l.foldl (fun s n => { s with lane := vupdN s.lane n fun x => { x with st := st } }) s
def en (p : Nat) (s : State) : State := s.setB (R.PORTp_CTL p) 0
def pc (n : Nat) : Parcel := { seq := n, msg := 0x80, data := List.replicate 64 0 }
def creq (i : Bool) (r : Nat) : CfgReq := { tag := 6, msg := 0x80, data := [], repeats := r, at_ := 0, ident := i }
def u1 : State := up [1] s0
def stTr : State := en 1 (prt 1 (fun p => { p with st := .train }) (lanes [2, 3] .lock s0))
def stInp : State := lanes [2, 3] .inPort u1
def stBusyPort : State := (en 1 runJ)
def stNak : State := prt 1 (fun p => { p with nakOut := true, ackDue := 2, unacked := [pc 5, pc 6, pc 7] }) u1
def stUnack255 : State := prt 1 (fun p => { p with replays := 254, unacked := [pc 5, pc 6, pc 7] }) u1
def stAux2 : State := ((prt 34 (fun p => { p with rxNext := 9 }) (up [34] s0)).setB R.HOST_AUX_CTL 0).wr R.HOST_AUX_SIZE
    4096
def stAux : State := (prt 34 (fun p => { p with rxNext := 9 }) (up [34] s0)).setB R.HOST_AUX_CTL 0
def stAmb : State := lan 2 (fun x => { x with amBad := 1, st := .inPort, pos := 0 }) (lanes [3] .inPort u1)
def stAmAt : State := lan 2 (fun x => { x with amAt := some 319991000 }) stInp
/-- A data block on the first lane. -/
def dat (w : DWord) : RxBlk := { pos := 0, hdr := 1, data := w }
def amb (ok there : Bool) : AmBlk := { present := there, portId := 1, lane := 0, bipOk := ok, delay := 0, gap := 16384 }
def tblk (req : Fin 16) : TrainBlk := { st := 0, lane := 0, req := req, resp := 0, reqSeq := 9, ackSeq := 0, pre := 0, main_ := 48, post := 4 }
def stEq : State := en 1 (prt 1 (fun p => { p with st := .train }) (lanes [2, 3] .eq s0))
theorem stInp_am : stInp.port[(1 : Port)].amNext = none := by decide +kernel
def stAmDue : State := prt 1 (fun p => { p with amNext := some (9000000000, 8999983616) }) stInp
def stReplayed : State := prt 1 (fun p => { p with replays := 255, unacked := [pc 5, pc 6, pc 7] }) u1
def stHbSeen : State := prt 1 (fun p => { p with hbSeen := true, hbSent := [(6399980, 319999000)] }) u1
def hdrBad : RxBlk := { pos := 1, hdr := 3, data := 0 }
def stBad15 : State := lan 3 (fun x => { x with bad := List.replicate 15 124999990 }) stInp
def stHb : State := prt 1 (fun p => { p with hbMiss := 255 }) u1
def stCfg : State := prt 1 (fun p => { p with rxNext := 9, cfg := some (creq false 0) }) u1
def stCfgI : State := prt 1 (fun p => { p with rxNext := 9, st := .ident, cfg := some (creq true 0) }) u1
def stCfg3 : State := prt 1 (fun p => { p with rxNext := 9, cfg := some (creq false 3) }) u1

theorem test_LinkTraining_met :
    (∃ (n : Lane) (s : State), s.lane[n].st = LaneState.lock ∧ ∃ p ∈ s.lanePort (↑n : Nat), s.port[p].st =
      PortState.train ∧ (s.lane[n].block || decide (64 * s.blockPs (↑p : Nat) ≤ (s.tick - s.lane[n].goodAt.getD
      s.tick) * 1000)) = false) ∧
    (∃ (n : Lane) (s : State), s.lane[n].st = LaneState.lock ∧ ∃ p ∈ s.lanePort (↑n : Nat), s.port[p].st =
      PortState.train ∧ (s.lane[n].st = LaneState.eq ∨ s.lane[n].st = LaneState.lock ∧ (s.lane[n].block || decide (64
      * s.blockPs (↑p : Nat) ≤ (s.tick - s.lane[n].goodAt.getD s.tick) * 1000)) = true)) ∧
    (∃ (n : Lane) (blk : TrainBlk) (s : State), ((↑blk.req : Nat) = 0 ∨ s.lane[n].farSeq = some (BitVec.toNat
      blk.reqSeq)) ∧ ∃ p ∈ s.lanePort (↑n : Nat), s.port[p].st = PortState.train ∧ (s.lane[n].st = LaneState.eq ∨
      s.lane[n].st = LaneState.lock ∧ (s.lane[n].block || decide (64 * s.blockPs (↑p : Nat) ≤ (s.tick -
      s.lane[n].goodAt.getD s.tick) * 1000)) = true)) ∧
    (∃ (n : Lane) (blk : TrainBlk) (s : State), (↑blk.req : Nat) ≠ 0 ∧ s.lane[n].farSeq ≠ some (BitVec.toNat
      blk.reqSeq) ∧ s.lane[n].pre + s.lane[n].main_ + s.lane[n].post ≤ 63 ∧ ∃ p ∈ s.lanePort (↑n : Nat), s.port[p].st
      = PortState.train ∧ (s.lane[n].st = LaneState.eq ∨ s.lane[n].st = LaneState.lock ∧ (s.lane[n].block || decide
      (64 * s.blockPs (↑p : Nat) ≤ (s.tick - s.lane[n].goodAt.getD s.tick) * 1000)) = true)) ∧
    (∃ (n : Lane) (blk : TrainBlk) (s : State), (↑blk.req : Nat) ≠ 0 ∧ s.lane[n].farSeq ≠ some (BitVec.toNat
      blk.reqSeq) ∧ (↑blk.req : Nat) = 7 ∧ ∃ p ∈ s.lanePort (↑n : Nat), s.port[p].st = PortState.train ∧ (s.lane[n].st
      = LaneState.eq ∨ s.lane[n].st = LaneState.lock ∧ (s.lane[n].block || decide (64 * s.blockPs (↑p : Nat) ≤ (s.tick
      - s.lane[n].goodAt.getD s.tick) * 1000)) = true)) ∧
    (∃ (p : Port) (s : State) (due : Nat) (last : Nat), s.port[p].amNext = some (due, last) ∧ s.usedLanes (↑p : Nat) ≠
      [] ∧ (∀ n ∈ s.usedLanes (↑p : Nat), (s.laneIs n fun (x : LaneSt) => x.st == LaneState.inPort) = true) ∧
      s.blockSlot p s.tick < due) ∧
    (∃ (p : Port) (s : State), s.usedLanes (↑p : Nat) ≠ [] ∧ (∀ n ∈ s.usedLanes (↑p : Nat), (s.laneIs n fun (x :
      LaneSt) => x.st == LaneState.inPort) = true) ∧ ∀ (due last : Nat), s.port[p].amNext = some (due, last) → due ≤
      s.blockSlot p s.tick) ∧
    (∃ (p : Port) (s : State), (s.port[p].st = PortState.train ∨ s.port[p].st = PortState.align_ ∨ s.port[p].st =
      PortState.ident) ∧ s.port[p].trainAt + 20000000 ≤ s.tick ∧ s.portOn (↑p : Nat) = true ∧ s.portEn (↑p : Nat) =
      true ∧ s.rateOk (↑p : Nat) = true ∧ s.regsWf) ∧
    (∃ (p : Port) (s : State), s.regsWf ∧ s.portNamed p JobSlot.busy = true) ∧
    (∃ (p : Port) (s : State), s.regsWf ∧ s.portNamed p JobSlot.busy = false ∧ s.portOn (↑p : Nat) = true ∧ s.portEn
      (↑p : Nat) = true ∧ s.rateOk (↑p : Nat) = true) := by
  refine ⟨⟨2, stTr, ?_⟩, ⟨2, lan 2 (fun x => { x with goodAt := some 5 }) stTr, ?_⟩, ⟨2, tblk 0, stEq, ?_⟩, ⟨2, tblk
    2, stEq, ?_⟩, ⟨2, tblk 7, stEq, ?_⟩, ⟨1, stAmDue, 9000000000, 8999983616, ?_⟩, ⟨1, stInp, (by decide +kernel),
    (by decide +kernel), fun _ _ h => absurd (stInp_am.symm.trans h) nofun⟩, ⟨1, stTr, ?_⟩, ⟨1, stBusyPort, ?_⟩, ⟨1,
    stTr, ?_⟩⟩ <;>
    (try simp -decide only [State.regsWf, State.memWf, sparse_iff, State.Decodes, State.LawRuns, State.MbxFree,
      State.noArmWaits, State.TakesTwin, State.armedFresh, noStart_iff]) <;> decide +kernel

theorem test_LinkParcels_met :
    (∃ (p : Port) (s : State), s.portTalks p = true ∧ s.regsWf ∧ s.port[p].nakOut = false) ∧
    (∃ (p : Port) (s : State), s.portTalks p = true ∧ s.regsWf ∧ s.port[p].nakOut = true) ∧
    (∃ (p : Port) (s : State), s.portTalks p = true ∧ s.regsWf ∧ s.port[p].waiting = []) ∧
    (∃ (p : Port) (s : State) (next : BitVec 16), s.portTalks p = true ∧ s.regsWf ∧ s.port[p].waiting = [] ∧
      s.port[p].replays = 0 ∧ List.filter (fun (x : Parcel) => !State.seqBefore x.seq next.toNat) s.port[p].unacked ≠
      [] ∧ 2 ≤ s.rf (R.PORTp_TC1_CFG (↑p : Nat)) 7 0) ∧
    (∃ (p : Port) (s : State), s.portTalks p = true ∧ s.regsWf ∧ 1 ≤ s.port[p].ackDue) ∧
    (∃ (p : Port) (s : State), s.portTalks p = true ∧ s.regsWf ∧ s.port[p].unacked ≠ [] ∧ s.port[p].replayAt + 1000 *
      oneIfZero (s.rf (R.PORTp_TC1_CFG (↑p : Nat)) 15 8) ≤ s.tick ∧ s.port[p].replays + 1 < oneIfZero (s.rf
      (R.PORTp_TC1_CFG (↑p : Nat)) 7 0)) ∧
    (∃ (p : Port) (s : State), s.portTalks p = true ∧ s.regsWf ∧ s.port[p].unacked ≠ [] ∧ s.port[p].replayAt + 1000 *
      oneIfZero (s.rf (R.PORTp_TC1_CFG (↑p : Nat)) 15 8) ≤ s.tick ∧ oneIfZero (s.rf (R.PORTp_TC1_CFG (↑p : Nat)) 7 0)
      ≤ s.port[p].replays + 1) ∧
    (∃ (p : Port) (s : State) (seq : BitVec 16) (data : List Byte) (o : Nat) (nxt : Nat), auxPlace (s.rf
      R.HOST_AUX_SIZE 24 0) s.host.auxHead (s.rf R.HOST_AUX_TAIL 23 0) (cdiv (16 + data.length) 16 * 16) = some (o,
      nxt) ∧ s.portTalks p = true ∧ s.regsWf ∧ (↑p : Nat) = 34 ∧ seq.toNat = s.port[p].rxNext ∧ s.rb R.HOST_AUX_CTL 0
      = true) ∧
    (∃ (p : Port) (s : State) (seq : BitVec 16) (data : List Byte), s.portTalks p = true ∧ s.regsWf ∧ (↑p : Nat) = 34
      ∧ seq.toNat = s.port[p].rxNext ∧ s.rb R.HOST_AUX_CTL 0 = true ∧ auxPlace (s.rf R.HOST_AUX_SIZE 24 0)
      s.host.auxHead (s.rf R.HOST_AUX_TAIL 23 0) (cdiv (16 + data.length) 16 * 16) = none) ∧
    (∃ (s : State) (n : Lane) (blk : AmBlk), s.regsWf ∧ blk.present = true ∧ blk.bipOk = false ∧ 16380 ≤ blk.gap.toNat
      ∧ blk.gap.toNat ≤ 16388 ∧ (↑blk.lane : Nat) = s.lane[n].pos ∧ ∃ p ∈ s.lanePort (↑n : Nat), s.port[p].st =
      PortState.up ∧ BitVec.toNat blk.portId = (↑p : Nat)) ∧
    (∃ (s : State) (n : Lane) (blk : AmBlk) (del : Nat) (ins : Nat) (lv : Int), s.regsWf ∧ blk.bipOk = true ∧
      blk.present = true ∧ 16380 ≤ blk.gap.toNat ∧ blk.gap.toNat ≤ 16388 ∧ (↑blk.lane : Nat) = s.lane[n].pos ∧ ∃ p ∈
      s.lanePort (↑n : Nat), s.port[p].st = PortState.up ∧ BitVec.toNat blk.portId = (↑p : Nat) ∧ ∃ t0 ∈
      s.lane[n].amAt, State.fillAdjust (s.blockPs (↑p : Nat)) (Config.elasticDepth (↑n : Nat) * s.blockPs (↑p : Nat))
      (s.lane[n].elastic + (↑(blk.gap.toNat * s.blockPs (↑p : Nat)) : Int) - (↑((s.tick - t0) * 1000) : Int)) = (del,
      ins, lv)) ∧
    (∃ (s : State) (n : Lane) (blk : AmBlk), s.regsWf ∧ blk.bipOk = true ∧ blk.present = false ∧ s.lane[n].amBad = 0 ∧
      ∃ p ∈ s.lanePort (↑n : Nat), s.port[p].st = PortState.up) ∧
    (∃ (s : State) (n : Lane) (blk : AmBlk), s.regsWf ∧ blk.bipOk = true ∧ blk.present = false ∧ s.lane[n].amBad ≠ 0 ∧
      ∃ p ∈ s.lanePort (↑n : Nat), s.port[p].st = PortState.up) ∧
    (∃ (s : State) (n : Lane), s.regsWf ∧ s.lane[n].st = LaneState.inPort ∧ ∃ p ∈ s.lanePort (↑n : Nat), s.port[p].st
      = PortState.up ∧ (↑n : Nat) ∈ s.usedLanes (↑p : Nat)) ∧
    (∃ (p : Port) (s : State), s.regsWf ∧ (↑p : Nat) ≠ 32 ∧ s.port[p].st = PortState.up ∧ oneIfZero (s.rf (R.PORTp_CTL
      (↑p : Nat)) 31 24) ≤ s.port[p].hbMiss) ∧
    (∃ (p : Port) (s : State), s.regsWf ∧ s.portTalks p = true ∧ s.sample % 20 = 0 ∧ s.sampleAt s.sample = s.tick ∧
      s.port[p].hbSeen = true) ∧
    (∃ (p : Port) (s : State), s.regsWf ∧ s.portTalks p = true ∧ s.sample % 20 = 0 ∧ s.sampleAt s.sample = s.tick ∧
      s.port[p].hbSeen = false ∧ s.port[p].st = PortState.up) ∧
    (∃ (p : Port) (s : State), s.regsWf ∧ s.portTalks p = true ∧ (↑p : Nat) = 32) ∧
    (∃ (p : Port) (s : State), s.regsWf ∧ s.portTalks p = true ∧ (↑p : Nat) ≠ 32) ∧
    (∃ (p : Port) (s : State) (echo : BitVec 16) (turn : BitVec 16) (k : Nat) (t0 : Nat), List.find? (fun (x : Nat ×
      Nat) => decide (x.1 % 65536 = echo.toNat)) s.port[p].hbSent = some (k, t0) ∧ s.regsWf ∧ s.portTalks p = true ∧
      (↑p : Nat) ≠ 32 ∧ turn.toNat ≠ 65535) ∧
    (∃ (p : Port) (s : State) (l : List RxBlk), s.regsWf ∧ s.portTalks p = true ∧ (∀ x ∈ l, rxBad x = false) ∧ rxDrop
      p l = some DropCause.crc) ∧
    (∃ (p : Port) (s : State) (l : List RxBlk), s.regsWf ∧ s.portTalks p = true ∧ (∀ x ∈ l, rxBad x = false) ∧ (rxDrop
      p l = some DropCause.unknown ∨ rxDrop p l = some DropCause.cut)) ∧
    (∃ (p : Port) (s : State) (l : List RxBlk), s.regsWf ∧ s.portTalks p = true ∧ (∀ x ∈ l, rxBad x = false) ∧ rxDrop
      p l = none) ∧
    (∃ (p : Port) (s : State) (x : RxBlk) (n : Lane), (s.usedLanes (↑p : Nat))[(↑x.pos : Nat)]? = some (↑n : Nat) ∧
      s.regsWf ∧ s.portTalks p = true ∧ rxBad x = true ∧ s.lane[n].bad.length < 15) ∧
    (∃ (p : Port) (s : State) (x : RxBlk) (n : Lane), (s.usedLanes (↑p : Nat))[(↑x.pos : Nat)]? = some (↑n : Nat) ∧
      s.regsWf ∧ s.portTalks p = true ∧ rxBad x = true ∧ 15 ≤ s.lane[n].bad.length ∧ s.blockSlot p s.tick < (List.take
      15 s.lane[n].bad).getLastD (s.blockSlot p s.tick) + 64) := by
  refine ⟨⟨1, stInp, ?_⟩, ⟨1, stNak, ?_⟩, ⟨1, stInp, ?_⟩, ⟨1, stNak, 0x6#16, ?_⟩, ⟨1, stNak, ?_⟩, ⟨1, stNak, ?_⟩, ⟨1,
    stReplayed, ?_⟩, ⟨34, stAux2, 0x9#16, ([0x1#8, 0x2#8, 0x3#8, 0x4#8]), 0, 32, ?_⟩, ⟨34, stAux, 0x9#16, ([0x1#8,
    0x2#8, 0x3#8, 0x4#8]), ?_⟩, ⟨stInp, 2, amb false true, ?_⟩, ⟨stAmAt, 2, amb true true, _, _, _,
    (by (simp -decide only [State.regsWf, sparse_iff]; decide +kernel)), (by decide), (by decide), (by decide),
    (by decide), (by decide +kernel), 1, (by decide +kernel), (by decide +kernel), (by decide), 319991000,
    (by decide +kernel), rfl⟩, ⟨stInp, 2, amb true false, ?_⟩, ⟨stAmb, 2, amb true false, ?_⟩, ⟨stInp, 2, ?_⟩, ⟨1,
    stHb, ?_⟩, ⟨1, stHbSeen, ?_⟩, ⟨1, stInp, ?_⟩, ⟨32, up [32] s0, ?_⟩, ⟨1, stInp, ?_⟩, ⟨1, stHbSeen, BitVec.ofNat 16
    6399980, 5, 6399980, 319999000, ?_⟩, ⟨1, stInp, [dat (headBlock 1 false 7 0 + 1)], ?_⟩, ⟨1, stInp, [dat (headBlock
    8 false 7 0)], ?_⟩, ⟨1, stInp, [dat (headBlock 1 true 7 0)], ?_⟩, ⟨1, stInp, hdrBad, 3, ?_⟩, ⟨1, stBad15, hdrBad,
    3, ?_⟩⟩ <;>
    (try simp -decide only [State.regsWf, State.memWf, sparse_iff, State.Decodes, State.LawRuns, State.MbxFree,
      State.noArmWaits, State.TakesTwin, State.armedFresh, noStart_iff]) <;> decide +kernel

/-- The check values of CRC-8 (0x07) and CRC-16 (0x1021, from 0xFFFF), of the bytes "123456789" (R374, R375). -/
theorem test_crcs : crc8 ((List.range 9).map fun i => BitVec.ofNat 8 (0x31 + i)) = 0xF4 ∧
    crc16 ((List.range 9).map fun i => BitVec.ofNat 8 (0x31 + i)) = 0x29B1 := by decide +kernel

/-- A cell of several blocks that a device sends on TP is one that its partner takes (R375). -/
theorem test_cellTaken : rxDrop 32 ((Sent.blocks { at_ := 0, port := 32, msg := 0x30, f := true, sidx := 9, data := [5, 77] }).map
    fun w => { pos := 0, hdr := 1, data := w }) = none := by decide +kernel

theorem test_LinkConfiguration_met :
    (∃ (p : Port) (seq : BitVec 16) (tag : BitVec 16) (s : State) (a : Word) (n : Byte), s.regsWf ∧ s.portTalks p =
      true ∧ seq.toNat = s.port[p].rxNext ∧ 16 ≤ (↑p : Nat) ∧ List.find? (fun (x : Nat × List Byte) => decide (x.1 =
      tag.toNat)) s.port[p].answers = none ∧ 16 ≤ BitVec.toNat a ∧ n ≠ 0) ∧
    (∃ (p : Port) (seq : BitVec 16) (tag : BitVec 16) (s : State), s.regsWf ∧ s.portTalks p = true ∧ seq.toNat =
      s.port[p].rxNext ∧ ∃ q ∈ s.port[p].cfg, q.tag = tag.toNat ∧ q.ident = false ∧ q.msg = 128) ∧
    (∃ (p : Port) (seq : BitVec 16) (tag : BitVec 16) (s : State) (f : Word), s.regsWf ∧ s.portTalks p = true ∧
      seq.toNat = s.port[p].rxNext ∧ fld f 7 0 = State.portProfile p ∧ ∃ q ∈ s.port[p].cfg, q.tag = tag.toNat ∧
      q.ident = true) ∧
    (∃ (p : Port) (s : State), s.regsWf ∧ ∃ q ∈ s.port[p].cfg, q.at_ + 1000 * oneIfZero (s.rf (R.PORTp_CFG_CMD (↑p :
      Nat)) 31 16) ≤ s.tick ∧ q.repeats < 3) ∧
    (∃ (p : Port) (s : State), s.regsWf ∧ ∃ q ∈ s.port[p].cfg, q.at_ + 1000 * oneIfZero (s.rf (R.PORTp_CFG_CMD (↑p :
      Nat)) 31 16) ≤ s.tick ∧ 3 ≤ q.repeats ∧ q.ident = false) ∧
    (∃ (p : Port) (s : State), s.regsWf ∧ s.port[p].cfg.isSome = true) ∧
    (∃ (p : Port) (s : State), s.regsWf ∧ s.port[p].cfg = none ∧ s.port[p].st = PortState.up) ∧
    (∃ (p : Port) (s : State), s.regsWf ∧ s.port[p].cfg = none ∧ s.port[p].st ≠ PortState.up) := by
  refine ⟨⟨34, 0x9#16, 0x6#16, stAux, 0x64#32, 0x1#8, ?_⟩, ⟨1, 0x9#16, 0x6#16, stCfg, ?_⟩, ⟨1, 0x9#16, 0x6#16, stCfgI,
    0x301#32, ?_⟩, ⟨1, stCfg, ?_⟩, ⟨1, stCfg3, ?_⟩, ⟨1, stCfg, ?_⟩, ⟨1, u1, ?_⟩, ⟨1, stTr, ?_⟩⟩ <;>
    (try simp -decide only [State.regsWf, State.memWf, sparse_iff, State.Decodes, State.LawRuns, State.MbxFree,
      State.noArmWaits, State.TakesTwin, State.armedFresh, noStart_iff]) <;> decide +kernel

end T6

namespace T7

def prt (p : Port) (f : PortSt → PortSt) (s : State) : State := { s with port := vupd s.port p f }
def tw (f : Twin → Twin) (s : State) : State := { s with twin := f s.twin }
def base : State := (prt 32 (fun p => { p with rxNext := 9 }) (up [32] s0)).upDev fun d => { d with variant := 12 }
def stNoTwin : State := base.upDev fun d => { d with variant := 11 }
def lead : State := tw (fun x => { x with role := 1, pair := 2, lead := true }) base
def sec : State := tw (fun x => { x with role := 2, pair := 2, lead := false }) base
def secUn : State := tw (fun x => { x with role := 2, pair := 0, lead := false }) base
def secJ : State := tw (fun x => { x with role := 2, pair := 1, lead := false }) base
def win (s : State) : State := tw (fun x => { x with winAt := some 10, winNo := 4, items := [⟨10, 1, 0, [1]⟩, ⟨12, 1, 0, [2]⟩] }) s
def secA : State := { (slot .armed (fun j => { j with promise := some prom }) sec) with twin := sec.twin }
def stFarSec : State := tw (fun x => { x with farRole := some 2 }) (prt 32 (fun p => { p with farProf := 5 }) base)
def stLead1 : State := tw (fun x => { x with role := 1, pair := 1, step := 1 }) base
def stSecBusy : State := secUn.upDev fun d => { d with state := .run }
def step_ (n : Nat) : State := tw (fun x => { x with role := 1, pair := 1, step := n }) base
def stTx : State := tw (fun x => { x with txAt := [319999500] }) lead
/-- A pair whose partner's cell took 400 ns, held 600 ns: launches at 319,998,000 here. -/
def timed (role tick bad : Nat) (ok : Bool) : State :=
  let t := fun x : Twin => { x with rxAt := some 319000000, farExt := 319999000, timeBad := bad, timeOk := ok }
  tw (fun x => t { x with role := role, pair := 2, lead := decide (role = 1), txAt := [tick] }) base
def stSkew (ago far : Nat) : State := tw (fun x => { x with skewAt := some (320000000 - ago), farRtt := [(1, far), (32, 0)] }) (up [1] (lead.setB (R.PORTp_CTL 1) 0))
def stHbNow : State := tw (fun x => { x with hbLast := some 6399990 }) lead
def stLeadB : State := lead.upDev fun d => { d with inBelay := true }
def stTakeRun : State := { runJ with twin := { sec.twin with decideAt := some 319999000, decided := some (true, false), hbTake := true } }
def stSecT : State := tw (fun x => { x with txAt := [319999000], rxAt := some 319998000, timeBad := 2, timeOk := true }) sec
def stBroken : State := tw (fun x => { x with role := 1, pair := 3 }) base
def stLead2 : State := tw (fun x => { x with hbMiss := 2 }) lead
def stSec2 : State := (tw (fun x => { x with hbMiss := 2 }) sec).setB R.TWIN_CTL 2
def stDecB : State := (tw (fun x => { x with decideAt := some 319999000, hbTake := true }) sec).upDev fun d => { d with
    inBelay := true }
def stDec : State := tw (fun x => { x with decideAt := some 319999000 }) sec
def stWin : State := win lead
def stMine : State := tw (fun x => { x with mine := [(100, 50, 77)], hbGood := 3 }) lead
def stTimedF : State := tw (fun x => { x with timed := [⟨3, 2, 330000000, false⟩] }) sec
def stTimed : State := tw (fun x => { x with timed := [⟨3, 2, 5, false⟩] }) sec
def cmdF : TimedCmd := ⟨3, 2, 330000000, false⟩
def cmdN : TimedCmd := ⟨3, 2, 5, false⟩
def stBusyN : State := tw (fun x => { x with timed := [cmdN] }) (sec.setB R.JOB_RESULT 23)
def stObj : State := tw (fun x => { x with obj := some (0x100000000, 64, 0) }) (sec.wr R.DDR_STATUS 0x00100000#32)
def stStop : State := sec.upBe 3 fun e => { e with stop := some ⟨1, 0, 5, ⟨0, 0⟩, 0, 319000000, e.dec, none, none, none, 2, 0, [], e.dec, []⟩ }

/-- No digest is its own successor. -/
theorem digest_ne_succ (d : DWord) : d + 1 ≠ d := by bv_omega

theorem test_TwinJoin_met :
    (∃ (s : State), s.regsWf ∧ s.noArmWaits ∧ s.hasTwin = true ∧ s.rb R.TWIN_RESULT 23 = false ∧ s.rf R.TWIN_CTL 1 0 ≠
      2 ∧ s.twin.pair = 0 ∧ s.joinOk = true ∧ s.portUp 32 = true ∧ BitVec.toNat s.port[State.tp].farProf % 256 = 5 ∧
      s.twin.farRole = some 2) ∧
    (∃ (s : State), s.regsWf ∧ s.noArmWaits ∧ s.hasTwin = true ∧ s.rb R.TWIN_RESULT 23 = false ∧ s.rf R.TWIN_CTL 1 0 ≠
      2 ∧ s.twin.pair = 0 ∧ s.joinOk = true ∧ s.portUp 32 = false) ∧
    (∃ (s : State), s.regsWf ∧ s.noArmWaits ∧ s.hasTwin = true ∧ s.rb R.TWIN_RESULT 23 = false ∧ s.twin.pair ≠ 0) ∧
    (∃ (s : State) (seq : BitVec 16), s.regsWf ∧ s.noArmWaits ∧ State.TakesTwin seq s ∧ s.twin.role = 1 ∧ s.twin.pair
      = 1 ∧ s.twin.step = 1) ∧
    (∃ (s : State) (seq : BitVec 16) (d : DWord), s.regsWf ∧ s.noArmWaits ∧ State.TakesTwin seq s ∧ s.twin.role = 1 ∧
      s.twin.pair = 1 ∧ s.twin.step = 1 ∧ d ≠ s.cfgDigest) ∧
    (∃ (s : State) (seq : BitVec 16), s.regsWf ∧ s.noArmWaits ∧ State.TakesTwin seq s ∧ s.twin.role = 2 ∧ s.twin.pair
      = 0 ∧ s.joinOk = true) ∧
    (∃ (s : State) (seq : BitVec 16), s.regsWf ∧ s.noArmWaits ∧ State.TakesTwin seq s ∧ s.twin.role = 2 ∧ s.twin.pair
      = 0 ∧ s.joinOk = false) ∧
    (∃ (s : State) (seq : BitVec 16), s.regsWf ∧ s.noArmWaits ∧ State.TakesTwin seq s ∧ s.twin.role = 2 ∧ s.twin.pair
      = 1) ∧
    (∃ (s : State) (seq : BitVec 16), s.regsWf ∧ s.noArmWaits ∧ State.TakesTwin seq s ∧ s.pairLead = true) ∧
    (∃ (s : State) (seq : BitVec 16), s.regsWf ∧ s.noArmWaits ∧ State.TakesTwin seq s ∧ s.twin.role = 1 ∧ s.twin.pair
      = 1 ∧ s.twin.step = 2) ∧
    (∃ (s : State) (seq : BitVec 16), s.regsWf ∧ s.noArmWaits ∧ State.TakesTwin seq s ∧ s.twin.role = 1 ∧ s.twin.pair
      = 1 ∧ s.twin.step = 3) ∧
    (∃ (s : State) (seq : BitVec 16) (l : List (BitVec 16)) (i : Nat), s.regsWf ∧ s.noArmWaits ∧ State.TakesTwin seq s
      ∧ s.rttsIn = false ∧ s.twin.pair ≠ 2 ∧ s.twin.step ≠ 3 ∧ ∃ r ∈ l[i]?, True) ∧
    (∃ (s : State), s.portUp 32 = true ∧ Option.all (fun (u : Nat) => decide ((u + if s.twin.pair = 1 then 10000 else
      1000000) ≤ s.tick)) s.twin.txAt.head? = true) ∧
    (∃ (s : State) (u : Nat) (rest : List Nat), s.twin.txAt = u :: rest ∧ s.portUp 32 = true ∧ s.tick < u + if
      s.twin.pair = 1 then 10000 else 1000000) ∧
    (∃ (s : State), s.twin.pair = 0) ∧
    (∃ (l : Word) (a : Word) (s : State), s.regsWf ∧ s.twin.pair = 2 ∧ s.twin.rxAt.isSome = true ∧ 0 ≤
      (↑(s.twin.farExt + BitVec.toNat (l - w32 s.twin.farExt)) : Int) - ((↑(s.twin.farExt + BitVec.toNat (l - w32
      s.twin.farExt)) : Int) + diff32 a (w32 (s.twin.farExt + BitVec.toNat (l - w32 s.twin.farExt)))) ∧ ∃ tx ∈
      List.find? (fun (u : Nat) => decide ((↑u : Int) ≤ (↑s.tick : Int) - ((↑(s.twin.farExt + BitVec.toNat (l - w32
      s.twin.farExt)) : Int) - ((↑(s.twin.farExt + BitVec.toNat (l - w32 s.twin.farExt)) : Int) + diff32 a (w32
      (s.twin.farExt + BitVec.toNat (l - w32 s.twin.farExt))))))) s.twin.txAt, 4 < ((if s.twin.role = 2 then
      (↑(s.twin.farExt + BitVec.toNat (l - w32 s.twin.farExt)) : Int) + diff32 a (w32 (s.twin.farExt + BitVec.toNat (l
      - w32 s.twin.farExt))) - (↑tx : Int) - ((↑s.tick : Int) - (↑(s.twin.farExt + BitVec.toNat (l - w32
      s.twin.farExt)) : Int)) else (↑s.tick : Int) - (↑(s.twin.farExt + BitVec.toNat (l - w32 s.twin.farExt)) : Int) -
      ((↑(s.twin.farExt + BitVec.toNat (l - w32 s.twin.farExt)) : Int) + diff32 a (w32 (s.twin.farExt + BitVec.toNat
      (l - w32 s.twin.farExt))) - (↑tx : Int))) - 2 * s.twin.timeRef).natAbs) ∧
    (∃ (l : Word) (a : Word) (s : State), s.regsWf ∧ s.twin.pair = 2 ∧ s.twin.rxAt.isSome = true ∧ 0 ≤
      (↑(s.twin.farExt + BitVec.toNat (l - w32 s.twin.farExt)) : Int) - ((↑(s.twin.farExt + BitVec.toNat (l - w32
      s.twin.farExt)) : Int) + diff32 a (w32 (s.twin.farExt + BitVec.toNat (l - w32 s.twin.farExt)))) ∧ ∃ tx ∈
      List.find? (fun (u : Nat) => decide ((↑u : Int) ≤ (↑s.tick : Int) - ((↑(s.twin.farExt + BitVec.toNat (l - w32
      s.twin.farExt)) : Int) - ((↑(s.twin.farExt + BitVec.toNat (l - w32 s.twin.farExt)) : Int) + diff32 a (w32
      (s.twin.farExt + BitVec.toNat (l - w32 s.twin.farExt))))))) s.twin.txAt, ((if s.twin.role = 2 then
      (↑(s.twin.farExt + BitVec.toNat (l - w32 s.twin.farExt)) : Int) + diff32 a (w32 (s.twin.farExt + BitVec.toNat (l
      - w32 s.twin.farExt))) - (↑tx : Int) - ((↑s.tick : Int) - (↑(s.twin.farExt + BitVec.toNat (l - w32
      s.twin.farExt)) : Int)) else (↑s.tick : Int) - (↑(s.twin.farExt + BitVec.toNat (l - w32 s.twin.farExt)) : Int) -
      ((↑(s.twin.farExt + BitVec.toNat (l - w32 s.twin.farExt)) : Int) + diff32 a (w32 (s.twin.farExt + BitVec.toNat
      (l - w32 s.twin.farExt))) - (↑tx : Int))) - 2 * s.twin.timeRef).natAbs ≤ 4) ∧
    (∃ (l : Word) (a : Word) (s : State), s.regsWf ∧ s.twin.pair = 2 ∧ s.twin.rxAt.isSome = true ∧ 0 ≤
      (↑(s.twin.farExt + BitVec.toNat (l - w32 s.twin.farExt)) : Int) - ((↑(s.twin.farExt + BitVec.toNat (l - w32
      s.twin.farExt)) : Int) + diff32 a (w32 (s.twin.farExt + BitVec.toNat (l - w32 s.twin.farExt)))) ∧ s.twin.timeBad
      = 2 ∧ s.twin.timeOk = true ∧ s.twin.role = 2 ∧ ∃ tx ∈ List.find? (fun (u : Nat) => decide ((↑u : Int) ≤ (↑s.tick
      : Int) - ((↑(s.twin.farExt + BitVec.toNat (l - w32 s.twin.farExt)) : Int) - ((↑(s.twin.farExt + BitVec.toNat (l
      - w32 s.twin.farExt)) : Int) + diff32 a (w32 (s.twin.farExt + BitVec.toNat (l - w32 s.twin.farExt)))))))
      s.twin.txAt, 4 < ((if s.twin.role = 2 then (↑(s.twin.farExt + BitVec.toNat (l - w32 s.twin.farExt)) : Int) +
      diff32 a (w32 (s.twin.farExt + BitVec.toNat (l - w32 s.twin.farExt))) - (↑tx : Int) - ((↑s.tick : Int) -
      (↑(s.twin.farExt + BitVec.toNat (l - w32 s.twin.farExt)) : Int)) else (↑s.tick : Int) - (↑(s.twin.farExt +
      BitVec.toNat (l - w32 s.twin.farExt)) : Int) - ((↑(s.twin.farExt + BitVec.toNat (l - w32 s.twin.farExt)) : Int)
      + diff32 a (w32 (s.twin.farExt + BitVec.toNat (l - w32 s.twin.farExt))) - (↑tx : Int))) - 2 *
      s.twin.timeRef).natAbs) ∧
    (∃ (l : Word) (a : Word) (s : State), s.regsWf ∧ s.twin.pair = 2 ∧ s.twin.rxAt.isSome = true ∧ 0 ≤
      (↑(s.twin.farExt + BitVec.toNat (l - w32 s.twin.farExt)) : Int) - ((↑(s.twin.farExt + BitVec.toNat (l - w32
      s.twin.farExt)) : Int) + diff32 a (w32 (s.twin.farExt + BitVec.toNat (l - w32 s.twin.farExt)))) ∧ s.twin.timeBad
      = 2 ∧ s.twin.timeOk = true ∧ s.twin.role ≠ 2 ∧ ∃ tx ∈ List.find? (fun (u : Nat) => decide ((↑u : Int) ≤ (↑s.tick
      : Int) - ((↑(s.twin.farExt + BitVec.toNat (l - w32 s.twin.farExt)) : Int) - ((↑(s.twin.farExt + BitVec.toNat (l
      - w32 s.twin.farExt)) : Int) + diff32 a (w32 (s.twin.farExt + BitVec.toNat (l - w32 s.twin.farExt)))))))
      s.twin.txAt, 4 < ((if s.twin.role = 2 then (↑(s.twin.farExt + BitVec.toNat (l - w32 s.twin.farExt)) : Int) +
      diff32 a (w32 (s.twin.farExt + BitVec.toNat (l - w32 s.twin.farExt))) - (↑tx : Int) - ((↑s.tick : Int) -
      (↑(s.twin.farExt + BitVec.toNat (l - w32 s.twin.farExt)) : Int)) else (↑s.tick : Int) - (↑(s.twin.farExt +
      BitVec.toNat (l - w32 s.twin.farExt)) : Int) - ((↑(s.twin.farExt + BitVec.toNat (l - w32 s.twin.farExt)) : Int)
      + diff32 a (w32 (s.twin.farExt + BitVec.toNat (l - w32 s.twin.farExt))) - (↑tx : Int))) - 2 *
      s.twin.timeRef).natAbs) ∧
    (∃ (s : State), s.twin.pair = 2 ∧ ∃ u ∈ s.twin.skewAt, s.tick < u + 1000000) ∧
    (∃ (s : State), s.twin.pair = 2 ∧ (∀ (u : Nat), s.twin.skewAt = some u → u + 1000000 ≤ s.tick) ∧ s.rttsIn = false)
      ∧
    (∃ (s : State), s.twin.pair = 2 ∧ (∀ (u : Nat), s.twin.skewAt = some u → u + 1000000 ≤ s.tick) ∧ s.rttsIn = true ∧
      400 ≤ s.skewMax.1 ∧ s.twin.skewBad = false) ∧
    (∃ (s : State), s.twin.pair = 2 ∧ (∀ (u : Nat), s.twin.skewAt = some u → u + 1000000 ≤ s.tick) ∧ s.rttsIn = true ∧
      (s.skewMax.1 < 400 ∨ s.twin.skewBad = true)) := by
  refine ⟨⟨stFarSec, ?_⟩, ⟨s0, ?_⟩, ⟨lead, ?_⟩, ⟨stLead1, 0x9#16, ?_⟩, ⟨stLead1, 0x9#16, stLead1.cfgDigest + 1, ?_,
    ?_, ?_, ?_, ?_, ?_, digest_ne_succ _⟩, ⟨secUn, 0x9#16, ?_⟩, ⟨stSecBusy, 0x9#16, ?_⟩, ⟨secJ, 0x9#16, ?_⟩, ⟨lead,
    0x9#16, ?_⟩, ⟨step_ 2, 0x9#16, ?_⟩, ⟨step_ 3, 0x9#16, ?_⟩, ⟨step_ 1, 0x9#16, [5, 6], 1, ?_⟩, ⟨lead, ?_⟩, ⟨stTx,
    319999500, [], ?_⟩, ⟨base, ?_⟩, ⟨319999600, 319999000, timed 1 319998000 0 false, ?_⟩, ⟨319999600, 319999000,
    timed 2 319998600 0 false, ?_⟩, ⟨319999600, 319999000, timed 2 319998000 2 true, ?_⟩, ⟨319999600, 319999000, timed
    1 319998000 2 true, ?_⟩, ⟨stSkew 5 400, ?_⟩, ⟨lead, ?_⟩, ⟨stSkew 2000000 800, ?_⟩, ⟨stSkew 2000000 798, ?_⟩⟩ <;>
    (try simp -decide only [State.regsWf, State.memWf, sparse_iff, State.Decodes, State.LawRuns, State.MbxFree,
      State.noArmWaits, State.TakesTwin, State.armedFresh, noStart_iff]) <;> decide +kernel

theorem test_TwinLead_met :
    (∃ (s : State), s.hasTwin = true ∧ s.regsWf ∧ s.rb R.TWIN_RESULT 23 = false ∧ s.pairLead = true ∧ s.dev.state =
      DevState.idle ∧ s.twin.leadAt = none) ∧
    (∃ (s : State), s.hasTwin = true ∧ s.regsWf ∧ s.rb R.TWIN_RESULT 23 = false ∧ s.pairLead = false) ∧
    (∃ (s : State), s.hasTwin = true ∧ s.regsWf ∧ s.rb R.TWIN_RESULT 23 = false ∧ s.twin.pair = 3) ∧
    (∃ (s : State), s.hasTwin = true ∧ s.regsWf ∧ s.rb R.TWIN_RESULT 23 = false ∧ s.twin.pair = 3 ∧ s.runSlot = none)
      ∧
    (∃ (s : State), s.hasTwin = true ∧ s.regsWf ∧ s.rb R.TWIN_RESULT 23 = false ∧ s.twin.pair ≠ 3) ∧
    (∃ (s : State), s.hasTwin = true ∧ s.regsWf ∧ s.twin.pair = 0 ∧ s.slotsQuiet = true) ∧
    (∃ (s : State), s.hasTwin = true ∧ s.regsWf ∧ (s.twin.pair ≠ 0 ∨ s.slotsQuiet = false)) ∧
    (∃ (s : State), s.hasTwin = false) ∧
    (∃ (s : State), s.regsWf ∧ s.noArmWaits ∧ s.twin.pair = 2 ∧ s.sample % 20 = 0 ∧ s.sampleAt s.sample = s.tick ∧ (∀
      (j : Nat), s.twin.hbLast = some j → j + 20 < s.sample) ∧ s.twin.hbMiss < 2) ∧
    (∃ (s : State), s.regsWf ∧ s.noArmWaits ∧ s.twin.pair = 2 ∧ s.sample % 20 = 0 ∧ s.sampleAt s.sample = s.tick ∧ (∀
      (j : Nat), s.twin.hbLast = some j → j + 20 < s.sample) ∧ 2 ≤ s.twin.hbMiss ∧ s.twin.role = 1) ∧
    (∃ (s : State), s.regsWf ∧ s.noArmWaits ∧ s.twin.pair = 2 ∧ s.sample % 20 = 0 ∧ s.sampleAt s.sample = s.tick ∧ (∀
      (j : Nat), s.twin.hbLast = some j → j + 20 < s.sample) ∧ 2 ≤ s.twin.hbMiss ∧ s.twin.role = 2 ∧ s.rb R.TWIN_CTL 2
      = true ∧ s.twin.decideAt = none ∧ s.twin.decided = none) ∧
    (∃ (s : State), s.twin.pair = 2 ∧ ∃ (j : Nat), s.twin.hbLast = some j ∧ s.sample ≤ j + 20) ∧
    (∃ (m : TakeMsg) (s : State), s.pairSecond = true ∧ m.cause = 0) ∧
    (∃ (m : TakeMsg) (s : State), s.pairSecond = true ∧ (m.cause = 1 ∨ m.cause = 2)) ∧
    (∃ (m : TakeMsg) (s : State), s.pairLead = true ∧ m.cause = 1 ∧ s.dev.inBelay = true ∧ s.portUp 32 = true ∧
      s.twin.leadAt = none) ∧
    (∃ (s : State), ((Option.map (fun (x : Bool × Bool) => x.1) s.twin.decided).getD !s.dev.inBelay) = false ∧ ∃ d ∈
      s.twin.decideAt, s.sampleAt (s.sampleOf d + 1) ≤ s.tick) ∧
    (∃ (s : State), s.regsWf ∧ s.noArmWaits ∧ ((Option.map (fun (x : Bool × Bool) => x.1) s.twin.decided).getD
      !s.dev.inBelay) = true ∧ s.pairSecond = true ∧ s.runSlot = none ∧ ∃ d ∈ s.twin.decideAt, s.sampleAt (s.sampleOf
      d + 1) ≤ s.tick) ∧
    (∃ (s : State), s.regsWf ∧ s.noArmWaits ∧ ((Option.map (fun (x : Bool × Bool) => x.1) s.twin.decided).getD
      !s.dev.inBelay) = true ∧ s.pairSecond = true ∧ (Option.map (fun (x : Bool × Bool) => x.2) s.twin.decided).getD
      s.takeReady = false ∧ s.dev.holdReq = 0 ∧ ∃ d ∈ s.twin.decideAt, s.sampleAt (s.sampleOf d + 1) ≤ s.tick ∧ ∃ n ∈
      s.runSlot, True) := by
  refine ⟨⟨lead, ?_⟩, ⟨base, ?_⟩, ⟨stBroken, ?_⟩, ⟨stBroken, ?_⟩, ⟨lead, ?_⟩, ⟨base, ?_⟩, ⟨lead, ?_⟩, ⟨stNoTwin, ?_⟩,
    ⟨lead, ?_⟩, ⟨stLead2, ?_⟩, ⟨stSec2, ?_⟩, ⟨stHbNow, (by decide +kernel), 6399990, (by decide +kernel),
    (by decide +kernel)⟩, ⟨⟨0, 5⟩, sec, ?_⟩, ⟨⟨1, 5⟩, sec, ?_⟩, ⟨⟨1, 5⟩, stLeadB, ?_⟩, ⟨stDecB, ?_⟩, ⟨stDec, ?_⟩,
    ⟨stTakeRun, ?_⟩⟩ <;>
    (try simp -decide only [State.regsWf, State.memWf, sparse_iff, State.Decodes, State.LawRuns, State.MbxFree,
      State.noArmWaits, State.TakesTwin, State.armedFresh, noStart_iff]) <;> decide +kernel

theorem test_TwinCheckpoints_met :
    (∃ (s : State), s.twin.pair = 2 ∧ s.regsWf ∧ s.noArmWaits ∧ List.find? (fun (x : Nat × DWord) => decide (x.1 =
      s.twin.winNo)) s.twin.theirs = none ∧ s.twin.winEnd = none ∧ ∃ k0 ∈ s.twin.winAt, s.winLast k0 + 20 ≤ s.sample)
      ∧
    (∃ (s : State) (num : Word), s.twin.pair = 2 ∧ s.regsWf ∧ s.noArmWaits ∧ List.find? (fun (y : Nat × Nat × DWord)
      => decide (y.1 = BitVec.toNat num)) s.twin.mine = none) ∧
    (∃ (s : State) (num : Word) (x : DWord) (last : Nat) (d : DWord), List.find? (fun (y : Nat × Nat × DWord) =>
      decide (y.1 = BitVec.toNat num)) s.twin.mine = some (BitVec.toNat num, last, d) ∧ d = x ∧ s.twin.pair = 2 ∧
      s.regsWf ∧ s.noArmWaits) ∧
    (∃ (s : State) (num : Word) (x : DWord) (last : Nat) (d : DWord), List.find? (fun (y : Nat × Nat × DWord) =>
      decide (y.1 = BitVec.toNat num)) s.twin.mine = some (BitVec.toNat num, last, d) ∧ s.twin.pair = 2 ∧ s.regsWf ∧
      s.noArmWaits ∧ d ≠ x) ∧
    (∃ (s : State) (y : Nat × Nat × DWord), s.twin.pair = 2 ∧ s.regsWf ∧ s.noArmWaits ∧ y ∈ s.twin.mine ∧ y.2.1 + 20 *
      clampN 5 255 (s.rf R.TWIN_CHECK 23 16) ≤ s.sample ∧ 3 ≤ s.twin.hbGood) ∧
    (∃ (s : State) (c : TimedCmd) (rest : List TimedCmd), s.twin.timed = c :: rest ∧ s.twin.pair = 2 ∧ s.regsWf ∧
      s.noArmWaits ∧ s.tick < c.at_) ∧
    (∃ (s : State) (c : TimedCmd) (rest : List TimedCmd), s.twin.timed = c :: rest ∧ s.twin.pair = 2 ∧ s.regsWf ∧
      s.noArmWaits ∧ c.at_ ≤ s.tick ∧ c.op = 3 ∧ s.noStartDue ∧ (∀ (n : Slot), (↑n : Nat) = c.slot % 4 → (s.js n).st ≠
      JobState.armed) ∧ s.rb R.JOB_RESULT 23 = true) ∧
    (∃ (s : State) (c : TimedCmd) (rest : List TimedCmd), s.twin.timed = c :: rest ∧ s.twin.pair = 2 ∧ s.regsWf ∧
      s.noArmWaits ∧ c.at_ ≤ s.tick ∧ s.rb R.JOB_RESULT 23 = true) ∧
    (∃ (s : State) (seq : BitVec 16) (op : Byte) (a : BitVec 64), s.twin.pair = 2 ∧ s.regsWf ∧ s.noArmWaits ∧
      State.TakesTwin seq s ∧ s.twin.role = 2 ∧ op ≠ 16 ∧ a ≠ 0 ∧ s.tick ≤ s.ofPair a.toNat) ∧
    (∃ (s : State) (seq : BitVec 16) (op : Byte) (a : BitVec 64), s.twin.pair = 2 ∧ s.regsWf ∧ s.noArmWaits ∧
      State.TakesTwin seq s ∧ s.twin.role = 2 ∧ op ≠ 16 ∧ a ≠ 0 ∧ s.ofPair a.toNat < s.tick) := by
  refine ⟨⟨stWin, ?_⟩, ⟨stWin, 0x64#32, ?_⟩, ⟨stMine, 0x64#32, 77, 50, 77, ?_⟩, ⟨stMine, 0x64#32, 0x12000000000#64,
    50, 0x4d#64, ?_⟩, ⟨stMine, ((100, 50, 0x4d#64)), ?_⟩, ⟨stTimedF, cmdF, [], ?_⟩, ⟨stBusyN, cmdN, [], ?_⟩, ⟨stBusyN,
    cmdN, [], ?_⟩, ⟨sec, 0x9#16, 0x0#8, 0x12000000000#64, ?_⟩, ⟨sec, 0x9#16, 0x0#8, 0x4d#64, ?_⟩⟩ <;>
    (try simp -decide only [State.regsWf, State.memWf, sparse_iff, State.Decodes, State.LawRuns, State.MbxFree,
      State.noArmWaits, State.TakesTwin, State.armedFresh, noStart_iff]) <;> decide +kernel

theorem test_TwinForwarding_met :
    (∃ (seq : BitVec 16) (s : State), State.TakesTwin seq s ∧ s.regsWf ∧ s.memWf ∧ s.noArmWaits ∧ s.twin.role = 2) ∧
    (∃ (seq : BitVec 16) (s : State) (ofs : Word) (l : List Byte), State.TakesTwin seq s ∧ s.regsWf ∧ s.memWf ∧
      s.noArmWaits ∧ ∃ o ∈ s.twin.obj, s.inDdr (o.1 + BitVec.toNat ofs) l.length = true) ∧
    (∃ (seq : BitVec 16) (s : State) (l : List DWord) (i : Nat), State.TakesTwin seq s ∧ s.regsWf ∧ s.memWf ∧
      s.noArmWaits ∧ s.twin.role = 2 ∧ s.twin.pair ≠ 0 ∧ ∃ w ∈ l[i]?, True) ∧
    (∃ (seq : BitVec 16) (s : State) (b : Beam) (h : Byte), State.TakesTwin seq s ∧ s.regsWf ∧ s.memWf ∧ s.noArmWaits
      ∧ s.twin.role = 2 ∧ s.twin.pair ≠ 0 ∧ BitVec.toNat h = (↑b : Nat)) ∧
    (∃ (seq : BitVec 16) (s : State) (slot : Byte) (n : Slot) (a : BitVec 64), State.TakesTwin seq s ∧ s.regsWf ∧
      s.memWf ∧ s.noArmWaits ∧ s.pairSecond = true ∧ (↑n : Nat) = BitVec.toNat slot % 4 ∧ (s.js n).st = JobState.armed
      ∧ s.tick ≤ s.ofPair a.toNat) ∧
    (∃ (seq : BitVec 16) (s : State) (slot : Byte) (n : Slot) (a : BitVec 64), State.TakesTwin seq s ∧ s.regsWf ∧
      s.memWf ∧ s.noArmWaits ∧ s.pairSecond = true ∧ (↑n : Nat) = BitVec.toNat slot % 4 ∧ (s.js n).st = JobState.armed
      ∧ s.ofPair a.toNat < s.tick) ∧
    (∃ (seq : BitVec 16) (s : State) (slot : Byte) (n : Slot), State.TakesTwin seq s ∧ s.regsWf ∧ s.memWf ∧
      s.noArmWaits ∧ s.pairLead = true ∧ (↑n : Nat) = BitVec.toNat slot % 4) := by
  refine ⟨⟨0x9#16, sec, ?_⟩, ⟨0x9#16, stObj, 0x64#32, ([0x1#8, 0x2#8, 0x3#8, 0x4#8]), ?_⟩, ⟨0x9#16, sec, [0x5#64], 0,
    ⟨by decide +kernel, (by decide +kernel), (by decide +kernel)⟩,
    (by (rw [State.regsWf, sparse_iff]; decide +kernel)), (by (rw [State.memWf, sparse_iff]; decide +kernel)),
    (by (rw [State.noArmWaits]; decide +kernel)), (by decide +kernel), (by decide +kernel), 0x5#64, rfl, trivial⟩,
    ⟨0x9#16, sec, 1, 0x1#8, ?_⟩, ⟨0x9#16, secA, 0x2#8, 2, 0x12000000000#64, ?_⟩, ⟨0x9#16, secA, 0x2#8, 2, 0x4d#64,
    ?_⟩, ⟨0x9#16, lead, 0x0#8, 0, ?_⟩⟩ <;>
    (try simp -decide only [State.regsWf, State.memWf, sparse_iff, State.Decodes, State.LawRuns, State.MbxFree,
      State.noArmWaits, State.TakesTwin, State.armedFresh, noStart_iff]) <;> decide +kernel

end T7

namespace T8

def hu (f : Hub → Hub) (s : State) : State := { s with hub := f s.hub }
def rc (f : Recorder → Recorder) (s : State) : State := { s with recd := f s.recd }
def dv (f : Dev → Dev) (s : State) : State := s.upDev f
def ti (f : TimeBase → TimeBase) (s : State) : State := { s with time := f s.time }
def lr (f u st : Nat) : LadderRun := { func := f, unit := u, step := st, at_ := 319000000, auto := false }
def rec1 (t : Nat) : Rec := { type := t, payload := [1,2,3,4], opMs := 6, held := false }
def tpc (m : Nat) (tgt : Word) : State := (s0.wr (R.TIME_TPn_CTL 3) (w32 m)).wr (R.TIME_TPn_TGT 3) tgt
def tpS (f : PulseOut → PulseOut) (s : State) : State := ti (fun t => { t with tp := t.tp.set 3 (f (t.tp[3])) }) s
def stFrcen : State := s0.setB R.FLT_CTL 4
def rep (id unit : Nat) : Report := { id := id, unit := unit, detail := 6, at_ := 320000000, forced := false }
def reps (l : List Report) : State := hu (fun h => { h with pending := l }) s0
def stLatch (v : Bool) : State := hu (fun h => { h with latch := h.latch.set 0 { h.latch[0] with valid := v, seq := 7 } }) s0
def recRun (part : Nat) : RecRun := { rec_ := { type := 1, payload := [1, 2, 3, 4], opMs := 6, held := false }, crc := false, at_ := 64, len := 36, part := part }
def recWrites (part : Nat) (s : State) : State := { s with recd := { s.recd with cur := some (recRun part) } }
def stQuiet : State := (hu (fun h => { h with quietAt := 5 }) s0).upDev fun d => { d with inBelay := true }
def stQuietT : State := (hu (fun h => { h with quietAt := 5, exits := [10, 9, 8, 7,6,5,4,3,2,1] }) (rc (fun r => { r with opMs := 20 }) s0)).upDev fun d => { d with inBelay := true }
def stL7 : State := hu (fun h => { h with ladder := [lr 7 0 1] }) s0
def stPwr : State := hu (fun h => { h with pwrCyc := some 319000000 }) s0
def stQ1 : State := rc (fun r => { r with queue := [rec1 1, rec1 2] }) s0
def stQ3 : State := rc (fun r => { r with queue := [rec1 3] }) s0
def stFrz : State := rc (fun r => { r with frozen := true, frzAt := 5, queue := [rec1 1] }) (s0.setB R.REC_CTL 0)
def stAbove : State := rc (fun r => { r with aboveAt := some 5, warnCrc := true }) s0
def stFrz0 : State := at_ (30000000000) (rc (fun r => { r with frozen := true, frzAt := 5 }) s0)
def stKey : State := rc (fun r => { r with clrKey := some (.pcie, 319999990) }) s0
def stWarn : State := { (dv (fun d => { d with belowVwarn := true }) s0) with pwr := { s0.pwr with warnAt := some 5 } }
def stStop : State := dv (fun d => { d with belowVstop := true }) s0
def stRst : State := dv (fun d => { d with state := .reset, belowVreset := true }) s0
def stSet : State := (s0.wr R.TIME_RTC_SET_DATE 0x180B0C#32).wr R.TIME_RTC_SET_TOD 0x0A0B0C#32
def stBad : State := (s0.wr R.TIME_RTC_SET_DATE 0x180B0C#32).wr R.TIME_RTC_SET_TOD 0x180B0C#32
def stTrim : State := (ti (fun t => { t with rtc := { t.rtc with trimCyc := 2^20 + 5, secs := 100, sub := 3 } }) s0).wr
    R.TIME_RTC_TRIM 0xF0
def stEnd : State := ti (fun t => { t with rtc := { t.rtc with secs := calendarEnd, sub := 32767, valid := true, stopped := true } }) s0
def stLate : State := ti (fun t => { t with rtc := { t.rtc with supplyNs := 2000000000 } }) s0
def stAhead : State := armedJ.upSlot 2 fun j => { j with s := some 330000000, startAt := 330000000 }
def stFold : State := at_ (5 * 2^30) (s0.wr (R.TIME_AB_RATE 0) (-3000))
def stT1 : State := tpc 1 320000100
def stT1p : State := tpc 1 319999999
def stF1 : State := tpS (fun p => { p with armed := true, tgt := 320000000, width := 50, period := 1000 }) (tpc 1 0)
def stF2 : State := tpS (fun p => { p with armed := true, tgt := 320000000, width := 50, period := 1000 }) (tpc 2 0)
def stAct : State := tpS (fun p => { p with active := true, endAt := 319999990 }) (tpc 1 0)
def stC3 : State := s0.wr (R.TIME_TCn_CTL 3) 0x43
def stFull : State := ti (fun t => { t with tc := t.tc.set 3 (List.replicate 16 (7, true)) }) (s0.wr (R.TIME_TCn_CTL 3)
    0x43)

theorem test_FaultHub_met :
    (∃ (id : Byte) (s : State), s.dev.state ≠ DevState.reset ∧ fltKnown (BitVec.toNat id) = true ∧ id ≠ 1 ∧ id ≠ 5) ∧
    (∃ (s : State), s.dev.state ≠ DevState.reset ∧ s.dev.state ≠ DevState.boot) ∧
    (∃ (id : Byte) (s : State), s.dev.state = DevState.reset ∨ fltKnown (BitVec.toNat id) = false) ∧
    (∃ (r : Report) (s : State), s.hub.pending = [r] ∧ s.pending = [] ∧ s.dev.state ≠ DevState.reset ∧ s.dev.state ≠
      DevState.boot ∧ (∀ h ∈ s.hub.shadows, h.until_ ≤ s.tick) ∧ s.hub.latch[State.clsIx (s.fltClass r)].valid = false
      ∧ s.fltClass r ≠ 0) ∧
    (∃ (x : Report) (y : Report) (l : List Report) (s : State), s.hub.pending = l ∧ s.pending = [] ∧ (l = [x, y] ∨ l =
      [y, x]) ∧ s.dev.state ≠ DevState.reset ∧ s.dev.state ≠ DevState.boot ∧ s.fltClass x = 2 ∧ s.fltClass y = 2 ∧
      x.id < y.id ∧ s.hub.latch[2].valid = false) ∧
    (∃ (cls : Fin 4) (seq : Byte) (k : Fin 3) (s : State) (m : Fin 3), (↑cls : Nat) = (↑k : Nat) + 1 ∧
      s.hub.latch[k].valid = true ∧ s.hub.latch[k].seq = BitVec.toNat seq ∧ m ≠ k) ∧
    (∃ (cls : Fin 4) (seq : Byte) (k : Fin 3) (s : State), (↑cls : Nat) = (↑k : Nat) + 1 ∧ ¬(s.hub.latch[k].valid =
      true ∧ s.hub.latch[k].seq = BitVec.toNat seq) ∧ s.regsWf) ∧
    (∃ (k : Fin 8) (b : Fin 32) (s : State), s.rb R.FLT_CTL 4 = true ∧ fltKnown (32 * (↑k : Nat) + (↑b : Nat)) = true
      ∧ (fltSram (32 * (↑k : Nat) + (↑b : Nat)) = false ∧ s.forceUnit (32 * (↑k : Nat) + (↑b : Nat)) (s.rf
      R.FLT_FORCE_UNIT 5 0) = true ∨ fltSram (32 * (↑k : Nat) + (↑b : Nat)) = true ∧ ∃ (f : Nat), f ≠ 0 ∧ f < 10 ∧
      s.unitThere f (s.rf R.FLT_FORCE_UNIT 5 0) = true)) ∧
    (∃ (s : State), s.rb R.FLT_CTL 4 = false) ∧
    (∃ (s : State), s.dev.sticky = false ∧ s.tally + 1 < oneIfZero (s.rf R.FLT_TALLY_CFG 3 0) ∧ ∃ e ∈ s.quietEnd, e ≤
      s.tick) ∧
    (∃ (s : State), s.dev.sticky = false ∧ oneIfZero (s.rf R.FLT_TALLY_CFG 3 0) ≤ s.tally + 1 ∧ ∃ e ∈ s.quietEnd, e ≤
      s.tick) := by
  refine ⟨⟨0x2#8, s0, ?_⟩, ⟨s0, ?_⟩, ⟨0x0#8, s0, ?_⟩, ⟨rep 2 0, reps [rep 2 0], ?_⟩, ⟨rep 1 0, rep 2 0, [rep 2 0, rep
    1 0], reps [rep 2 0, rep 1 0], ?_⟩, ⟨1, 7, 0, stLatch true, 1, ?_⟩, ⟨1, 7, 0, stLatch false, ?_⟩, ⟨0, 2, stFrcen,
    (by decide +kernel), (by decide +kernel), .inl (by decide +kernel)⟩, ⟨s0, ?_⟩, ⟨stQuiet, ?_⟩, ⟨stQuietT, ?_⟩⟩ <;>
    (try simp -decide only [State.regsWf, State.memWf, sparse_iff, State.Decodes, State.LawRuns, State.MbxFree,
      State.noArmWaits, State.TakesTwin, State.armedFresh, noStart_iff]) <;> decide +kernel

theorem test_RecoveryLadder_met :
    (∃ (func : Fin 16) (step : Fin 8) (s : State), s.hub.ladder = [] ∧ (step = 0 ∨ 5 ≤ (↑step : Nat) ∨ func = 0 ∨ 10 ≤
      (↑func : Nat) ∨ func = 9 ∧ (↑step : Nat) ≤ 2 ∨ (↑func : Nat) < 9 ∧ 3 ≤ (↑step : Nat)) ∧ s.regsWf) ∧
    (∃ (s : State), s.hub.ladder = [] ∧ s.dev.sticky = false ∧ s.runSlot = none) ∧
    (∃ (s : State), s.hub.ladder ≠ []) ∧
    (∃ (key : BitVec 16), key ≠ 49573#16 ∧ key ≠ 15962#16) ∧
    (∃ (func : Fin 16) (unit : Fin 64) (x : LadderRun) (s : State), s.hub.ladder = [x] ∧ x.func = (↑func : Nat) ∧
      x.unit = (↑unit : Nat) ∧ x.func ∉ [3, 4, 5, 9] ∧ s.regsWf) ∧
    (∃ (s : State), s.dev.state ≠ DevState.reset ∧ s.dev.rstLow = false ∧ s.dev.belowVreset = false ∧ s.regsWf ∧ (∀ x
      ∈ s.mram.curves, x.1 < 16 ∧ x.2.length ≤ 33) ∧ (∀ x ∈ s.mram.ports, x.1 < 35) ∧ ∃ e ∈ s.hub.pwrCyc, e ≤ s.tick) := by
  refine ⟨⟨0, 0, s0, ?_⟩, ⟨s0, ?_⟩, ⟨stL7, ?_⟩, ⟨0x1#16, ?_⟩, ⟨7, 0,
    ({ func := 7, unit := 0, step := 1, at_ := 319000000, auto := false }), stL7, ?_⟩, ⟨stPwr, ?_⟩⟩ <;>
    (try simp -decide only [State.regsWf, State.memWf, sparse_iff, State.Decodes, State.LawRuns, State.MbxFree,
      State.noArmWaits, State.TakesTwin, State.armedFresh, noStart_iff]) <;> decide +kernel

theorem test_EventRecorder_met :
    (∃ (r : Rec) (q : List Rec) (s : State), s.recd.queue = r :: q ∧ s.recd.frozen = false ∧ s.recd.cur = none ∧
      s.dev.shpHalt = false ∧ r.type ≠ 3 ∧ s.recd.head + State.recLen s.crcMode r.payload.length ≤ ringSize) ∧
    (∃ (r : Rec) (q : List Rec) (s : State), s.recd.queue = r :: q ∧ s.recd.frozen = false ∧ s.recd.cur = none ∧
      s.dev.shpHalt = false ∧ r.type = 3) ∧
    (∃ (s : State), s.recd.frozen = true ∨ s.recd.cur.isSome = true ∨ s.recd.queue = []) ∧
    (∃ (s : State), s.pending = [] ∧ s.hub.pending = [] ∧ s.dev.state ≠ DevState.reset ∧ s.dev.shpHalt = false ∧
      s.hub.ladder = [] ∧ s.host.mbx = none ∧ ∃ x ∈ s.recd.cur, x.part = 8) ∧
    (∃ (s : State), s.dev.shpHalt = false) ∧
    (∃ (s : State), s.dev.belowVwarn = false ∧ ∃ a ∈ s.recd.aboveAt, a + 10000000 ≤ s.tick) ∧
    (∃ (s : State), s.regsWf ∧ s.recd.frozen = false ∧ s.recd.cur = none) ∧
    (∃ (s : State), s.regsWf ∧ s.recd.frozen = false ∧ s.recd.cur.isSome = true) ∧
    (∃ (s : State), s.regsWf ∧ s.recd.frozen = true) ∧
    (∃ (s : State), s.recd.frozen = true ∧ s.recd.frzAt + oneIfZero (s.rf R.REC_FREEZE_CFG 7 0) * 1000000000 ≤ s.tick
      ∧ s.regsWf) ∧
    (∃ (s : State), s.regsWf) ∧
    (∃ (p : Sys2Proof.Path) (s : State), s.clrAllowed p = true ∧ s.recd.head + 32 ≤ ringSize ∧ s.recd.cur = none ∧
      s.dev.shpHalt = false ∧ (s.rb R.REC_CTL 0 = true → s.recd.frozen = true)) ∧
    (∃ (p : Sys2Proof.Path) (s : State), s.clrAllowed p = false ∧ s.regsWf) := by
  refine ⟨⟨({ type := 1, payload := [0x1#8, 0x2#8, 0x3#8, 0x4#8], opMs := 6, held := false }),
    ([{ type := 2, payload := [0x1#8, 0x2#8, 0x3#8, 0x4#8], opMs := 6, held := false }]), stQ1, ?_⟩,
    ⟨({ type := 3, payload := [0x1#8, 0x2#8, 0x3#8, 0x4#8], opMs := 6, held := false }), ([]), stQ3, ?_⟩, ⟨stFrz, ?_⟩,
    ⟨recWrites 8 s0, ?_⟩, ⟨stQ1, ?_⟩, ⟨stAbove, ?_⟩, ⟨stQ1, ?_⟩, ⟨recWrites 2 s0, ?_⟩, ⟨stFrz, ?_⟩, ⟨stFrz0, ?_⟩,
    ⟨stQ1, ?_⟩, ⟨(.pcie), stKey, ?_⟩, ⟨.pcie, s0, ?_⟩⟩ <;>
    (try simp -decide only [State.regsWf, State.memWf, sparse_iff, State.Decodes, State.LawRuns, State.MbxFree,
      State.noArmWaits, State.TakesTwin, State.armedFresh, noStart_iff]) <;> decide +kernel

theorem test_SuppliesAndRounds_met :
    (∃ (s : State), s.dev.belowVwarn = false ∧ s.dev.state ≠ DevState.reset) ∧
    (∃ (s : State), s.dev.belowVwarn = true ∧ s.dev.state ≠ DevState.reset ∧ s.regsWf ∧ ∃ a ∈ s.pwr.warnAt, True) ∧
    (∃ (s : State), s.dev.belowVstop = false ∧ s.dev.state ≠ DevState.reset ∧ ∃ n ∈ s.runSlot, True) ∧
    (∃ (s : State), s.dev.belowVstop = true ∧ s.dev.state ≠ DevState.reset) ∧
    (∃ (s : State), s.dev.state = DevState.reset ∧ s.dev.rstLow = false) ∧
    (∃ (r : Nat) (s : State), s.dev.state ≠ DevState.reset ∧ s.tick = 1000000 * r ∧ BitVec.toNat (s.rd R.PWR_ROUND) <
      r ∧ s.regsWf) := by
  refine ⟨⟨s0, ?_⟩, ⟨stWarn, ?_⟩, ⟨runJ, ?_⟩, ⟨stStop, ?_⟩, ⟨stRst, ?_⟩, ⟨320, s0, ?_⟩⟩ <;>
    (try simp -decide only [State.regsWf, State.memWf, sparse_iff, State.Decodes, State.LawRuns, State.MbxFree,
      State.noArmWaits, State.TakesTwin, State.armedFresh, noStart_iff]) <;> decide +kernel

theorem test_ClocksAndCalendar_met :
    (∃ (w : Fin 8) (s : State), ((↑w : Nat) = 0 ∨ (↑w : Nat) = 7 → s.time.rtc.oscRun = true) ∧ s.dev.state ≠
      DevState.reset ∧ s.regsWf ∧ s.ldc.kill = false) ∧
    (∃ (s : State), s.time.rtc.started = false ∧ 2000000000 ≤ s.time.rtc.supplyNs ∧ s.dev.state ≠ DevState.reset ∧
      s.regsWf ∧ s.ldc.kill = false) ∧
    (∃ (s : State), s.time.rtc.oscRun = false) ∧
    (∃ (s : State), s.time.rtc.started = true ∨ s.time.rtc.supplyNs < 2000000000) ∧
    (∃ (s : State), ∃ n ∈ secsOf (2000 + s.rf R.TIME_RTC_SET_DATE 23 16) (s.rf R.TIME_RTC_SET_DATE 15 8) (s.rf
      R.TIME_RTC_SET_DATE 7 0) (s.rf R.TIME_RTC_SET_TOD 23 16) (s.rf R.TIME_RTC_SET_TOD 15 8) (s.rf R.TIME_RTC_SET_TOD
      7 0), True) ∧
    (∃ (s : State), s.rf R.TIME_RTC_SET_TOD 23 16 = 24 ∧ s.regsWf) ∧
    (∃ (s : State), s.regsWf) ∧
    (∃ (s : State), 2 ^ 20 ≤ s.time.rtc.trimCyc ∧ s.time.rtc.sub < 32768 ∧ s.time.rtc.stopped = false ∧ -max (-127)
      (sext 8 (s.rf R.TIME_RTC_TRIM 7 0)) ≤ (↑s.time.rtc.secs : Int) * 32768 + (↑s.time.rtc.sub : Int) ∧
      (↑s.time.rtc.secs : Int) * 32768 + (↑s.time.rtc.sub : Int) + max (-127) (sext 8 (s.rf R.TIME_RTC_TRIM 7 0)) ≤
      (↑(calendarEnd * 32768 + 32767) : Int)) ∧
    (∃ (s : State), s.time.rtc.stopped = true) ∧
    (∃ (s : State), s.time.rtc.stopped = true) ∧
    (∃ (s : State), s.regsWf) := by
  refine ⟨⟨2, s0, ?_⟩, ⟨stLate, ?_⟩, ⟨stEnd, ?_⟩, ⟨stEnd, ?_⟩, ⟨stSet, ?_⟩, ⟨stBad, ?_⟩, ⟨s0, ?_⟩, ⟨stTrim, ?_⟩,
    ⟨stEnd, ?_⟩, ⟨stEnd, ?_⟩, ⟨s0, ?_⟩⟩ <;>
    (try simp -decide only [State.regsWf, State.memWf, sparse_iff, State.Decodes, State.LawRuns, State.MbxFree,
      State.noArmWaits, State.TakesTwin, State.armedFresh, noStart_iff]) <;> decide +kernel

theorem test_TimeDomains_met :
    (∃ (s : State), s.tick % 2 ^ 30 = 0 ∧ s.regsWf ∧ ∀ (d : Dom), -2 ^ 71 ≤ s.corr d s.frc ∧ s.corr d s.frc < 2 ^ 71)
      ∧
    (∃ (d : Dom) (s : State), s.regsWf ∧ -2 ^ 71 ≤ s.corr d s.frc ∧ s.corr d s.frc < 2 ^ 71 ∧ (d ≠ s.bell ∨ ∀ (n :
      Slot), (s.js n).s = none)) ∧
    (∃ (s : State) (n : Slot), s.regsWf ∧ -2 ^ 71 ≤ s.corr s.bell s.frc ∧ s.corr s.bell s.frc < 2 ^ 71 ∧ (s.js n).st =
      JobState.armed ∧ s.tick < (s.js n).startAt ∧ ∃ s0 ∈ (s.js n).s, True) ∧
    (∃ (s : State), s.regsWf) ∧
    (∃ (s : State), s.regsWf) ∧
    (∃ (b : Bool) (s : State), s.regsWf ∧ s.rb R.TIME_CTL 0 ≠ b ∧ s.time.slew = 0 ∧ ∀ (n : Slot), (s.js n).s = none) ∧
    (∃ (s : State), s.time.slew.natAbs ≤ s.slewStep) := by
  refine ⟨⟨stFold, (by decide +kernel), (by (rw [State.regsWf, sparse_iff]; decide +kernel)), fun d => (by cases d <;> decide +kernel)⟩, ⟨.a, s0, ?_⟩, ⟨stAhead, 2, ?_⟩, ⟨stFold, ?_⟩, ⟨stFold, ?_⟩, ⟨true, stFold, ?_⟩, ⟨stFold, ?_⟩⟩ <;>
    (try simp -decide only [State.regsWf, State.memWf, sparse_iff, State.Decodes, State.LawRuns, State.MbxFree,
      State.noArmWaits, State.TakesTwin, State.armedFresh, noStart_iff]) <;> decide +kernel

theorem test_PulsesAndCaptures_met :
    (∃ (n : Fin 8) (s : State), (s.tpMode n = 1 ∨ s.tpMode n = 2) ∧ BitVec.toNat (s.rd (R.TIME_TPn_TGT (↑n : Nat)) -
      s.tpTime n) < 2 ^ 31) ∧
    (∃ (n : Fin 8) (s : State), s.tpMode n = 1 ∧ 2 ^ 31 ≤ BitVec.toNat (s.rd (R.TIME_TPn_TGT (↑n : Nat)) - s.tpTime n)
      ∧ s.regsWf) ∧
    (∃ (n : Fin 8) (s : State), s.time.tp[n].armed = true ∧ (s.tpMode n = 1 ∨ s.tpMode n = 2) ∧ s.tpTime n =
      s.time.tp[n].tgt ∧ s.tpMode n = 1) ∧
    (∃ (n : Fin 8) (s : State), s.time.tp[n].armed = true ∧ (s.tpMode n = 1 ∨ s.tpMode n = 2) ∧ s.tpTime n =
      s.time.tp[n].tgt ∧ s.tpMode n = 2) ∧
    (∃ (n : Fin 8) (s : State), s.time.tp[n].active = true ∧ if BitVec.toNat s.time.tp[n].curWidth ≤ 2 ^ 31 then
      BitVec.toNat (s.tpTime n - s.time.tp[n].endAt) < 2 ^ 31 else BitVec.toNat s.time.tp[n].curWidth ≤ BitVec.toNat
      (s.tpTime n - (s.time.tp[n].endAt - s.time.tp[n].curWidth))) ∧
    (∃ (n : Fin 8) (rising : Bool) (width : Nat) (s : State), (s.rf (R.TIME_TCn_CTL (↑n : Nat)) 1 0 = 3 ∨ s.rf
      (R.TIME_TCn_CTL (↑n : Nat)) 1 0 = 1 ∧ rising = true ∨ s.rf (R.TIME_TCn_CTL (↑n : Nat)) 1 0 = 2 ∧ rising = false)
      ∧ s.tcFilt n ≤ width ∧ 4 ≤ width ∧ s.time.tc[n].length < 16) ∧
    (∃ (n : Fin 8) (rising : Bool) (width : Nat) (s : State), (s.rf (R.TIME_TCn_CTL (↑n : Nat)) 1 0 = 3 ∨ s.rf
      (R.TIME_TCn_CTL (↑n : Nat)) 1 0 = 1 ∧ rising = true ∨ s.rf (R.TIME_TCn_CTL (↑n : Nat)) 1 0 = 2 ∧ rising = false)
      ∧ s.tcFilt n ≤ width ∧ 4 ≤ width ∧ 16 ≤ s.time.tc[n].length) ∧
    (∃ (n : Fin 8) (rising : Bool) (width : Nat) (s : State), (s.rf (R.TIME_TCn_CTL (↑n : Nat)) 1 0 = 3 ∨ s.rf
      (R.TIME_TCn_CTL (↑n : Nat)) 1 0 = 1 ∧ rising = true ∨ s.rf (R.TIME_TCn_CTL (↑n : Nat)) 1 0 = 2 ∧ rising = false)
      ∧ s.tcFilt n ≤ width ∧ 4 ≤ width ∧ s.rb (R.TIME_TCn_CTL (↑n : Nat)) 6 = true) ∧
    (∃ (n : Fin 8) (width : Nat) (s : State), s.rf (R.TIME_TCn_CTL (↑n : Nat)) 1 0 = 0 ∨ width < s.tcFilt n) ∧
    (∃ (n : Fin 8) (f : Word) (e : Bool) (l : List (Word × Bool)) (s : State), s.time.tc[n] = (f, e) :: l ∧ s.regsWf) := by
  refine ⟨⟨3, stT1, ?_⟩, ⟨3, stT1p, ?_⟩, ⟨3, stF1, ?_⟩, ⟨3, stF2, ?_⟩, ⟨3, stAct, ?_⟩, ⟨3, true, 4, stC3, ?_⟩, ⟨3,
    true, 4, stFull, ?_⟩, ⟨3, true, 4, stC3, ?_⟩, ⟨0, 0, stT1, ?_⟩, ⟨3, 0x7#32, true, ([(0x7#32, true), (0x7#32,
    true), (0x7#32, true), (0x7#32, true), (0x7#32, true), (0x7#32, true), (0x7#32, true), (0x7#32, true), (0x7#32,
    true), (0x7#32, true), (0x7#32, true), (0x7#32, true), (0x7#32, true), (0x7#32, true), (0x7#32, true)]), stFull,
    ?_⟩⟩ <;>
    (try simp -decide only [State.regsWf, State.memWf, sparse_iff, State.Decodes, State.LawRuns, State.MbxFree,
      State.noArmWaits, State.TakesTwin, State.armedFresh, noStart_iff]) <;> decide +kernel

end T8

namespace T9

def dm (d : Dom) (f : Domain → Domain) (s : State) : State := s.upDom d f
def ho (f : HostIf → HostIf) (s : State) : State := { s with host := f s.host }
def eon : State := ((s0.setB (R.ETHn_CTL 0) 0).setB (R.ETHn_CTL 1) 0).wr (R.TIME_AB_SERVO 0) 0x00000201
def ma : PtpMaster := ⟨128, 5, 128, 77, 0, 99, -4, 5⟩
def dr (h : Bool) : DmaRun := { haddr := 0x5000, daddr := 0x100000040, len := 4, toHost := h }
def ddr (s : State) : State := s.wr R.DDR_STATUS 0x00100000#32
def stPar : State := dm .a (fun d => { d with st := 2, parent := some ma, masters := [ma] }) eon
def stEon : State := dm .a (fun d => { d with st := 1 }) eon
def stParM : State := stPar.wr (R.TIME_AB_SERVO 0) 0x00000202#32
def frame : EthFrame := { len := 3000, tags := 0, ptp := none }
def stMbx : State := ho (fun h => { h with mbx := some { tag := 5, digest := 0, cmd := 5, op := 1, slot := 2, daddr := 0, issued := true, held := none } }) s0
def stLocked : State := s0.upDev fun d => { d with lock := true }
def stPar3 : State := dm .a (fun d => { d with st := 3, parent := some ma, masters := [ma], lastSync := some (319000000, 319000500), reqSent := some 319500000 }) eon
def stP2p : State := dm .a (fun d => { d with st := 3, parent := some ma, masters := [ma], lastSync := some (319000000, 319000500), reqSent := some 319500000 }) (eon.wr (R.TIME_AB_SERVO 0) 0x00020201)
def stDmaH : State := ho (fun h => { h with dma := h.dma.set 1 (some (dr true)) }) (ddr s0)
def stDmaD : State := ho (fun h => { h with dma := h.dma.set 1 (some (dr false)) }) (ddr s0)
def stDdr : State := ho (fun h => { h with win := 0x100000000 }) (ddr s0)
def stNone : State := ho (fun h => { h with win := 0xE0000000 }) s0
def stLatched : State := ho (fun h => { h with latched := [(.pcie, 200724, 77)] }) s0
def stBusy : State := ho (fun h => { h with mbx := some { tag := 5, digest := 0, cmd := 5, op := 1, slot := 2, daddr := 0, issued := true, held := none } }) s0
def stDone : State := slot .done (fun j => j) s0

theorem test_PtpAndEthernet_met :
    (∃ (d : Dom) (m : SyncMsg) (s : State), s.ptpOn d m.eth = true ∧ BitVec.toNat m.dom = s.rf (R.TIME_AB_SERVO (domIx
      d)) 31 24 ∧ m.via = s.ptpVia d true ∧ -4 ≤ m.logInt ∧ m.logInt ≤ 1 ∧ s.regsWf ∧ s.servoMode d = 2 ∧ ∃ p ∈ (s.dom
      d).parent, p.srcId = m.srcId.toNat) ∧
    (∃ (d : Dom) (m : AnnounceMsg) (s : State), s.ptpOn d m.eth = true ∧ BitVec.toNat m.dom = s.rf (R.TIME_AB_SERVO
      (domIx d)) 31 24 ∧ m.via = s.ptpVia d false ∧ (s.dom d).st = 1) ∧
    (∃ (d : Dom) (e : PtpEvent) (s : State), s.ptpOn d (s.ptpPort d) = true ∧ (e = PtpEvent.delayReq ↔ s.rb
      (R.TIME_AB_SERVO (domIx d)) 17 = false) ∧ (e = PtpEvent.delayReq → (s.dom d).parent.isSome = true) ∧ e ≠
      PtpEvent.pdelayResp) ∧
    (∃ (d : Dom) (e : Fin 2) (lg : Int) (t1 : Int) (t2 : Int) (s : State), (s.dom d).lastSync = some (t1, t2) ∧
      s.ptpOn d e = true ∧ s.rb (R.TIME_AB_SERVO (domIx d)) 17 = false ∧ -4 ≤ lg ∧ lg ≤ 1 ∧ s.regsWf ∧ ∃ t3 ∈ (s.dom
      d).reqSent, True) ∧
    (∃ (d : Dom) (e : Fin 2) (s : State), s.ptpOn d e = true ∧ s.rb (R.TIME_AB_SERVO (domIx d)) 17 = true ∧ s.regsWf ∧
      ∃ t1 ∈ (s.dom d).reqSent, True) ∧
    (∃ (d : Dom) (s : State), ((s.dom d).st = 2 ∨ (s.dom d).st = 3) ∧ (∀ (n : Slot), (s.js n).s = none) ∧ ∃ p ∈ (s.dom
      d).parent, p.heardAt + s.rf (R.TIME_AB_SERVO (domIx d)) 11 8 * State.intervalNs p.logInt ≤ s.tick ∨ (s.dom
      d).syncAt + 4 * State.intervalNs (s.dom d).syncLog ≤ s.tick) ∧
    (∃ (s : State), s.regsWf) ∧
    (∃ (eth : Fin 2) (s : State), s.rb (R.ETHn_CTL (↑eth : Nat)) 0 = true) ∧
    (∃ (n : Fin 2) (f : EthFrame) (s : State), s.rb (R.ETHn_CTL (↑n : Nat)) 0 = true ∧ s.regsWf ∧ (2048 < f.len ∨ 1 <
      (↑f.tags : Nat))) := by
  refine ⟨⟨.a, ({ srcId := 0x63#80, eth := 0, via := .ether, dom := 0x0#8, t1 := 0x1312cc18#32, logInt := 0 }),
    stParM, ?_⟩, ⟨(.a),
    ({ srcId := 0x63#80, eth := 0, via := .ether, dom := 0x0#8, prio1 := 0x1#8, quality := 0x5#32, prio2 := 0x80#8, gmId := 0x7#64, steps := 0x0#16, logInt := 0 }),
    stEon, ?_⟩, ⟨(.a), (.delayReq), stPar, ?_⟩, ⟨(.a), 0, 0, 319000000, 319000500, stPar3, ?_⟩, ⟨(.a), 0, stP2p, ?_⟩,
    ⟨(.a), stPar, ?_⟩, ⟨s0, ?_⟩, ⟨0, stEon, ?_⟩, ⟨0, frame, stEon, ?_⟩⟩ <;>
    (try simp -decide only [State.regsWf, State.memWf, sparse_iff, State.Decodes, State.LawRuns, State.MbxFree,
      State.noArmWaits, State.TakesTwin, State.armedFresh, noStart_iff]) <;> decide +kernel

theorem test_HostAccess_met :
    (∃ (c : Fin 4) (s : State), s.host.dma[c] = none ∧ s.regsWf) ∧
    (∃ (c : Fin 4) (s : State), ∃ x ∈ s.host.dma[c], True) ∧
    (∃ (c : Fin 4) (s : State), s.regsWf ∧ ∃ x ∈ s.host.dma[c], x.toHost = true ∧ ∀ i < x.len, s.region (x.daddr + i)
      = State.Region.ddr) ∧
    (∃ (c : Fin 4) (host : List Byte) (s : State), s.regsWf ∧ s.memWf ∧ ∃ x ∈ s.host.dma[c], x.toHost = false ∧
      host.length = x.len ∧ ∀ i < x.len, s.region (x.daddr + i) = State.Region.ddr) ∧
    (∃ (s : State), s.regsWf) ∧
    (∃ (ofs : BitVec 28) (s : State), s.dev.state ≠ DevState.reset ∧ (∀ i < 4, s.region (s.host.win + ofs.toNat / 4 *
      4 + i) = State.Region.ddr) ∧ s.memWf) ∧
    (∃ (ofs : BitVec 28) (s : State), s.dev.state ≠ DevState.reset ∧ (∀ i < 4, s.region (s.host.win + ofs.toNat / 4 *
      4 + i) = State.Region.nothing) ∧ s.regsWf) ∧
    (∃ (s : State), s.regsWf ∧ s.rb R.HOST_AUX_CTL 0 = false) ∧
    (∃ (s : State), s.regsWf) ∧
    (∃ (i : TapInstr), i = TapInstr.extest ∨ i = TapInstr.clamp ∨ i = TapInstr.highz) ∧
    (∃ (p : Sys2Proof.Path) (addr : BitVec 24) (s : State), s.pathOpen p addr.toNat = false) ∧
    (∃ (p : Sys2Proof.Path) (addr : BitVec 24) (s : State), s.pathOpen p addr.toNat = true ∧ ∃ hi ∈ State.loPair
      addr.toNat, True) ∧
    (∃ (p : Sys2Proof.Path) (addr : BitVec 24) (i : Nat) (r : Nat) (v : Word) (s : State), blkOf addr.toNat = some
      (Blk.job, i, r) ∧ List.find? (fun (x : Sys2Proof.Path × Nat × Word) => x.1 == p && x.2.1 == addr.toNat)
      s.host.latched = some (p, addr.toNat, v) ∧ s.pathOpen p addr.toNat = true ∧ State.loPair addr.toNat = none) ∧
    (∃ (p : Sys2Proof.Path) (addr : BitVec 24) (i : Nat) (r : Nat) (s : State), blkOf addr.toNat = some (Blk.eth, i,
      r) ∧ s.pathOpen p addr.toNat = true ∧ s.unitOn addr.toNat = true ∧ s.regsWf ∧ ∃ w ∈ rowAt addr.toNat, True) := by
  refine ⟨⟨0, s0, ?_⟩, ⟨1, stDmaH, ?_⟩, ⟨1, stDmaH, ?_⟩, ⟨1, ([0x1#8, 0x2#8, 0x3#8, 0x4#8]), stDmaD, ?_⟩, ⟨s0, ?_⟩,
    ⟨0x10#28, stDdr, ?_⟩, ⟨0x10#28, stNone, ?_⟩, ⟨s0, ?_⟩, ⟨s0, ?_⟩, ⟨.clamp, ?_⟩, ⟨(.i2c), 0x31010#24, s0, ?_⟩,
    ⟨(.pcie), 0x18#24, s0, ?_⟩, ⟨(.pcie), 0x31014#24, 0, 4116, 0x4d#32, stLatched, ?_⟩, ⟨(.pcie), 0x550100#24, 0, 256,
    s0, ?_⟩⟩ <;>
    (try simp -decide only [State.regsWf, State.memWf, sparse_iff, State.Decodes, State.LawRuns, State.MbxFree,
      State.noArmWaits, State.TakesTwin, State.armedFresh, noStart_iff]) <;> decide +kernel

theorem test_Mailbox_met :
    (∃ (tag : BitVec 16) (s : State), State.MbxFree tag s ∧ s.regsWf) ∧
    (∃ (s : State), s.host.mbx = none ∧ s.dev.shpHalt = false ∧ s.regsWf) ∧
    (∃ (s : State), s.host.mbx.isSome = true ∧ s.dev.shpHalt = false ∧ s.regsWf) ∧
    (∃ (tag : BitVec 16) (slot : Byte) (n : Slot) (s : State), State.MbxFree tag s ∧ s.regsWf ∧ BitVec.toNat slot % 4
      = (↑n : Nat) ∧ s.twin.pair = 0 ∧ s.rb R.JOB_RESULT 23 = false ∧ (s.js n).st = JobState.done) ∧
    (∃ (tag : BitVec 16) (s : State), State.MbxFree tag s ∧ s.regsWf ∧ s.twin.pair = 0 ∧ s.rb R.JOB_RESULT 23 = false
      ∧ s.noStartDue ∧ s.committed = false ∧ s.runSlot = none ∧ s.dev.state ≠ DevState.hold) ∧
    (∃ (tag : BitVec 16) (s : State), State.MbxFree tag s ∧ s.regsWf ∧ s.twin.pair = 0 ∧ s.rb R.JOB_RESULT 23 = false
      ∧ s.dev.holdReq = 0 ∧ ∃ n ∈ s.runSlot, s.commitReady n = false) ∧
    (∃ (s : State), s.pending = [] ∧ s.hub.pending = [] ∧ s.hub.ladder = [] ∧ s.dev.state ≠ DevState.reset ∧
      s.dev.shpHalt = false ∧ s.twin.pair = 0 ∧ s.twin.leadAt = none ∧ s.rb R.JOB_RESULT 23 = false ∧ ∃ x ∈
      s.host.mbx, x.issued = true) ∧
    (∃ (tag : BitVec 16) (s : State), State.MbxFree tag s ∧ s.regsWf ∧ s.dev.state ≠ DevState.boot) ∧
    (∃ (tag : BitVec 16) (s : State), State.MbxFree tag s ∧ s.regsWf) ∧
    (∃ (tag : BitVec 16) (s : State), State.MbxFree tag s ∧ s.regsWf) ∧
    (∃ (tag : BitVec 16) (s : State), State.MbxFree tag s ∧ s.regsWf ∧ s.dev.lock = false) ∧
    (∃ (tag : BitVec 16) (s : State), State.MbxFree tag s ∧ s.regsWf ∧ s.dev.lock = false) ∧
    (∃ (tag : BitVec 16) (s : State), State.MbxFree tag s ∧ s.regsWf ∧ s.dev.lock = true) := by
  refine ⟨⟨0x6#16, s0, ?_⟩, ⟨s0, ?_⟩, ⟨stBusy, ?_⟩, ⟨0x6#16, 0x2#8, 2, stDone, ?_⟩, ⟨0x6#16, s0, ?_⟩, ⟨0x6#16, runJ,
    ?_⟩, ⟨stMbx, ?_⟩, ⟨0x6#16, s0, ?_⟩, ⟨0x6#16, s0, ?_⟩, ⟨0x6#16, s0, ?_⟩, ⟨0x6#16, s0, ?_⟩, ⟨0x6#16, s0, ?_⟩,
    ⟨0x6#16, stLocked, ?_⟩⟩ <;>
    (try simp -decide only [State.regsWf, State.memWf, sparse_iff, State.Decodes, State.LawRuns, State.MbxFree,
      State.noArmWaits, State.TakesTwin, State.armedFresh, noStart_iff]) <;> decide +kernel

theorem test_SnapshotIsCoherent_met :
    ∃ (s : State), s.regsWf := by
  refine ⟨s0, ?_⟩ <;>
    (try simp -decide only [State.regsWf, State.memWf, sparse_iff, State.Decodes, State.LawRuns, State.MbxFree,
      State.noArmWaits, State.TakesTwin, State.armedFresh, noStart_iff]) <;> decide +kernel

theorem test_SlewRate_met :
    ∃ (s : State), s.pending = [] ∧ s.hub.pending = [] ∧ s.hub.ladder = [] ∧ s.dev.state ≠ DevState.reset := by
  refine ⟨s0, ?_⟩ <;>
    (try simp -decide only [State.regsWf, State.memWf, sparse_iff, State.Decodes, State.LawRuns, State.MbxFree,
      State.noArmWaits, State.TakesTwin, State.armedFresh, noStart_iff]) <;> decide +kernel

end T9

end Sys2Proof.Tests
end

section
/-! SUPPORT. Frames of light, pairs and held jobs: what a change of role, the end of what a pair shares, and a HOLD at the end of the
strokes leave as it is (R181, R390, R391, R395, R410). -/

namespace Sys2Proof.Machine

namespace State

/-! Which registers a chain of writes touches. -/

theorem OnlyRegs.refl (l : List Nat) (s : State) : s.OnlyRegs l s := ⟨rfl, fun _ _ => rfl⟩

theorem OnlyRegs.wr {l : List Nat} {s t : State} (h : s.OnlyRegs l t) {a : Nat} (ha : a ∈ l) (v : Word) :
    s.OnlyRegs l (t.wr a v) :=
  ⟨h.1, fun q hq => (rd_wr_ne t v (ne_of_mem_of_not_mem ha hq).symm).trans (h.2 q hq)⟩

theorem OnlyRegs.setB {l : List Nat} {s t : State} (h : s.OnlyRegs l t) {a : Nat} (ha : a ∈ l) (i : Nat) :
    s.OnlyRegs l (t.setB a i) := h.wr ha _

theorem OnlyRegs.clrB {l : List Nat} {s t : State} (h : s.OnlyRegs l t) {a : Nat} (ha : a ∈ l) (i : Nat) :
    s.OnlyRegs l (t.clrB a i) := h.wr ha _

theorem OnlyRegs.setF {l : List Nat} {s t : State} (h : s.OnlyRegs l t) {a : Nat} (ha : a ∈ l) (hi lo v : Nat) :
    s.OnlyRegs l (t.setF a hi lo v) := h.wr ha _

/-- A change of registers and then an interrupt change registers and the MSI-X vectors at most. -/
theorem irq_frame_of {o s : State} (h : { s with regs := o.regs } = o) (st en v i : Nat) :
    { s.irq st en v i with regs := o.regs, host := o.host } = o :=
  (congrArg (fun t : State => { t with regs := o.regs, host := o.host }) (irq_frame s st en v i)).trans
    (congrArg (fun t : State => { t with host := o.host }) h)

/-! What a change of the emission causes touches (R189, R196, R518). -/

/-- `t` differs from `o` in the light drive channels and in what was handed to the transmitters at most. -/
def OnlyLight (o t : State) : Prop := { t with ld := o.ld, sent := o.sent } = o

theorem unsend_onlyLight {o s : State} (p : Sent → Bool) (h : o.OnlyLight s) : o.OnlyLight (s.unsend p) := h

theorem upLd_onlyLight {o s : State} (b : Beam) (f : Laser → Laser) (h : o.OnlyLight s) : o.OnlyLight (s.upLd b f) := h

theorem reF_onlyLight {o s : State} (h : o.OnlyLight s) : o.OnlyLight s.reF := h

theorem cell_onlyLight {o s : State} (p m i : Nat) (d : List Nat) (h : o.OnlyLight s) : o.OnlyLight (s.cell p m i d) := by
  unfold cell
  split <;> exact h

theorem cellAt_onlyLight {o s : State} (t p m i : Nat) (d : List Nat) (h : o.OnlyLight s) :
    o.OnlyLight (s.cellAt t p m i d) := by
  unfold cellAt
  split <;> exact h

theorem ite_onlyLight {o s t : State} {c : Prop} [Decidable c] (hs : o.OnlyLight s) (ht : o.OnlyLight t) :
    o.OnlyLight (if c then s else t) := by
  split
  · exact hs
  · exact ht

theorem gateEdge_onlyLight {o s : State} (b : Beam) (e : Int) (rise : Bool) (h : o.OnlyLight s) :
    o.OnlyLight (s.gateEdge b e rise) := by
  unfold gateEdge
  refine ite_onlyLight (upLd_onlyLight _ _ ?_) (cellAt_onlyLight _ _ _ _ _ (upLd_onlyLight _ _ ?_)) <;>
    exact each_ind o.OnlyLight _ _ (fun _ _ _ g => unsend_onlyLight _ g) s h

theorem gateEdges_onlyLight {o s : State} (b : Beam) (e : Int) (h : o.OnlyLight s) : o.OnlyLight (s.gateEdges b e) := by
  unfold gateEdges
  split
  · exact h
  · exact gateEdge_onlyLight _ _ _ h
  · split
    · exact gateEdge_onlyLight _ _ _ h
    · exact gateEdge_onlyLight _ _ _ (gateEdge_onlyLight _ _ _ h)

theorem gateSync_onlyLight {o s : State} (b : Beam) (h : o.OnlyLight s) : o.OnlyLight (s.gateSync b) := by
  unfold gateSync
  split
  · exact gateEdges_onlyLight _ _ h
  · exact gateEdge_onlyLight _ _ _ h

theorem sendEmitOff_onlyLight {o s : State} (b : Beam) (n : Nat) (h : o.OnlyLight s) : o.OnlyLight (s.sendEmitOff b n) :=
  cell_onlyLight _ _ _ _ h

theorem emitChange_onlyLight {o s : State} (b : Beam) (before : Bool) (h : o.OnlyLight s) :
    o.OnlyLight (s.emitChange b before) := by
  unfold emitChange
  dsimp only
  have hs (n : Nat) : o.OnlyLight (if s.ldOn b.val then s.sendEmitOff b n else s) := by
    split
    · exact sendEmitOff_onlyLight _ _ h
    · exact h
  split
  · exact gateSync_onlyLight _ (upLd_onlyLight _ _ (hs 1))
  · split
    · exact gateSync_onlyLight _ (upLd_onlyLight _ _ (hs 0))
    · exact h

/-- A change of the emission causes adds to that change light and cells at most. -/
theorem withEmit_onlyLight {o s : State} (f : State → State) (h : o.OnlyLight (f s)) : o.OnlyLight (s.withEmit f) :=
  each_ind (o.OnlyLight) _ _ (fun _ _ _ g => emitChange_onlyLight _ _ g) (f s) h

/-! Roles and what a pair shares (R390, R395, R408). -/

/-- A change of role and pairing changes these and the lead bit, light and cells, and the interrupt of TWIN_IRQ_STATUS. -/
theorem setPair_frame (s : State) (role pair : Nat) (lead : Bool) :
    { s.setPair role pair lead with ld := s.ld, sent := s.sent, regs := s.regs, host := s.host } =
      s.upTwin fun t => { t with role := role, pair := pair, lead := lead } := by
  have h : (s.upTwin fun t => { t with role := role, pair := pair, lead := lead }).OnlyLight
      (s.withEmit fun s => (s.upTwin fun t => { t with role := role, pair := pair, lead := lead }).reF) :=
    withEmit_onlyLight _ (reF_onlyLight rfl)
  have h' := congrArg (fun t : State => { t with regs := s.regs, host := s.host }) h
  unfold setPair
  dsimp only
  split
  · exact h'
  · have hi := congrArg (fun t : State => { t with ld := s.ld, sent := s.sent, regs := s.regs, host := s.host })
      (irq_frame (s.withEmit fun s => (s.upTwin fun t => { t with role := role, pair := pair, lead := lead }).reF)
        R.TWIN_IRQ_STATUS R.TWIN_IRQ_EN 3 0)
    exact hi.trans h'

variable (s : State)

/-- Registers read alike where the words are the same. -/
theorem rd_congr {s t : State} (h : t.regs = s.regs) (q : Nat) : t.rd q = s.rd q := by
  unfold rd
  rw [h]

theorem setPair_rd_ne (role pair : Nat) (lead : Bool) {q : Nat} (h : q ≠ R.TWIN_IRQ_STATUS) :
    (s.setPair role pair lead).rd q = s.rd q := by
  have hl : (s.upTwin fun t => { t with role := role, pair := pair, lead := lead }).OnlyLight
      (s.withEmit fun s => (s.upTwin fun t => { t with role := role, pair := pair, lead := lead }).reF) :=
    withEmit_onlyLight _ (reF_onlyLight rfl)
  have hr := rd_congr (congrArg State.regs hl) q
  unfold setPair
  dsimp only
  split
  · exact hr
  · exact (irq_rd_ne _ _ _ _ _ h).trans hr

@[simp] theorem setPair_twin (role pair : Nat) (lead : Bool) :
    (s.setPair role pair lead).twin = { s.twin with role := role, pair := pair, lead := lead } := by
  have h := congrArg State.twin (setPair_frame s role pair lead)
  exact h
@[simp] theorem setPair_job (role pair : Nat) (lead : Bool) : (s.setPair role pair lead).job = s.job := by
  have h := congrArg State.job (setPair_frame s role pair lead)
  exact h
@[simp] theorem setPair_hub (role pair : Nat) (lead : Bool) : (s.setPair role pair lead).hub = s.hub := by
  have h := congrArg State.hub (setPair_frame s role pair lead)
  exact h
@[simp] theorem setPair_dev (role pair : Nat) (lead : Bool) : (s.setPair role pair lead).dev = s.dev := by
  have h := congrArg State.dev (setPair_frame s role pair lead)
  exact h

/-- The slot whose job runs depends on the job slots alone. -/
theorem runSlot_congr {s t : State} (h : t.job = s.job) : t.runSlot = s.runSlot := by
  unfold runSlot js
  rw [h]

/-- No gate is high without the lead bit (R391). -/
theorem lgate_of_no_lead {s : State} (h : s.twin.lead = false) (b : Beam) : s.lgate b = false := by
  simp [lgate, gateAllowed, h]

/-- A result of TWIN_CMD changes TWIN_RESULT and TWIN_IRQ_STATUS with its vector, and no other part of the state. -/
theorem twinPost_frame (code : Nat) : { s.twinPost code with regs := s.regs, host := s.host } = s := by
  have hm : R.TWIN_RESULT ∈ [R.TWIN_RESULT] := List.mem_singleton_self _
  have hr : s.OnlyRegs [R.TWIN_RESULT] (((s.advance R.TWIN_RESULT 31 24).clrB R.TWIN_RESULT 23).setF R.TWIN_RESULT 7 0 code) :=
    (((OnlyRegs.refl _ s).setF hm 31 24 _).clrB hm 23).setF hm 7 0 code
  exact irq_frame_of hr.1 _ _ _ _

/-- What agrees but for registers and the host interface agrees in the twin record and in the jobs. -/
theorem twin_job_of_frame {o t : State} (h : { t with regs := o.regs, host := o.host } = o) :
    t.twin = o.twin ∧ t.job = o.job := by
  have hw := congrArg State.twin h
  have hj := congrArg State.job h
  exact ⟨hw, hj⟩

@[simp] theorem twinPost_twin (code : Nat) : (s.twinPost code).twin = s.twin := (twin_job_of_frame (twinPost_frame s code)).1
@[simp] theorem twinPost_job (code : Nat) : (s.twinPost code).job = s.job := (twin_job_of_frame (twinPost_frame s code)).2

theorem twinPost_code {s : State} (h : s.regsWf) (code : Nat) : (s.twinPost code).rf R.TWIN_RESULT 7 0 = code % 256 := by
  have hw : ((s.advance R.TWIN_RESULT 31 24).clrB R.TWIN_RESULT 23).regsWf :=
    (clrB_kept _ _ _ (advance_kept _ _ _ s (Kept.refl s))).2.2 h
  have hq : R.TWIN_RESULT ≠ R.TWIN_IRQ_STATUS := by decide
  unfold twinPost rf
  rw [irq_rd_ne _ _ _ _ _ hq]
  exact rf_setF hw _ 7 0 code (by decide) (by decide)

/-- Going home to the own sample grid changes the offset of the grid at most. -/
theorem gridHome_frame : { s.gridHome with twin := { s.gridHome.twin with ofs := s.twin.ofs } } = s := by
  unfold gridHome
  split <;> rfl

@[simp] theorem gridHome_job : s.gridHome.job = s.job := by
  have h := congrArg State.job (gridHome_frame s)
  exact h
@[simp] theorem gridHome_hub : s.gridHome.hub = s.hub := by
  have h := congrArg State.hub (gridHome_frame s)
  exact h
@[simp] theorem gridHome_dev : s.gridHome.dev = s.dev := by
  have h := congrArg State.dev (gridHome_frame s)
  exact h
@[simp] theorem gridHome_role : s.gridHome.twin.role = s.twin.role := by
  have h := congrArg (·.twin.role) (gridHome_frame s)
  exact h
@[simp] theorem gridHome_pair : s.gridHome.twin.pair = s.twin.pair := by
  have h := congrArg (·.twin.pair) (gridHome_frame s)
  exact h
@[simp] theorem gridHome_lead : s.gridHome.twin.lead = s.twin.lead := by
  have h := congrArg (·.twin.lead) (gridHome_frame s)
  exact h
@[simp] theorem gridHome_confirm : s.gridHome.twin.confirm = s.twin.confirm := by
  have h := congrArg (·.twin.confirm) (gridHome_frame s)
  exact h
@[simp] theorem gridHome_decideAt : s.gridHome.twin.decideAt = s.twin.decideAt := by
  have h := congrArg (·.twin.decideAt) (gridHome_frame s)
  exact h

end State

/-- The twin record without what a pair shares. -/
def Twin.endShared (t : Twin) : Twin :=
  { t with winAt := none, winEnd := none, items := [], mine := [], theirs := [], agreed := none, step := 0, deltas := []
           decideAt := none, decided := none, obj := none, timed := t.timed.filter (·.op ≠ 2) }

namespace State

variable (s : State)

/-- What a pair shares ends; with no ARM that waits for the SECOND the record and the grid change, and no job. -/
theorem twinClear_eq {s : State} (h : s.noArmWaits) : s.twinClear = (s.upTwin Twin.endShared).gridHome := by
  have hl : s.twin.timed.filter (·.op = 2) = [] := List.filter_eq_nil_iff.2 fun c hc => by simpa using h c hc
  unfold twinClear
  rw [hl]
  rfl

/-- The TAKE of a LEAD lists a cell and sets when the lead bit is to be cleared; nothing else changes. -/
theorem takeSend_frame (cause : Nat) : { s.takeSend cause with sent := s.sent, twin := s.twin } = s := by
  unfold takeSend cell
  split <;> rfl

theorem takeSend_twin (cause : Nat) : (s.takeSend cause).twin =
    { s.twin with leadAt := some (s.twin.leadAt.getD (s.sampleAt (s.sample + 1), false)), sentCause := cause } := by
  unfold takeSend cell
  split <;> rfl

@[simp] theorem takeSend_job (cause : Nat) : (s.takeSend cause).job = s.job := by
  have h := congrArg State.job (takeSend_frame s cause)
  exact h

/-! A HOLD at the end of the strokes (R181, R324). -/

/-- The running pitches of an axis that moves complete: AXn_REM reads 0, and the axis alone changes. -/
theorem axFinish_eq (n : Axis) : s.axFinish n = s ∨ ∃ f, s.axFinish n = (s.axRem n none 0).upAx n f := by
  unfold axFinish
  dsimp only
  split
  · exact .inl rfl
  · split
    · exact .inr ⟨_, rfl⟩
    · split <;> exact .inr ⟨_, rfl⟩

theorem axFinish_frame (n : Axis) : { s.axFinish n with ax := s.ax, regs := s.regs } = s := by
  obtain h | ⟨f, h⟩ := axFinish_eq s n <;> rw [h]
  rfl

/-- An end-of-stroke stop of a job's axes changes axes and their AXn_REM at most. -/
theorem stopAxes_atEnd_frame (n : Slot) : { s.stopAxes n false with ax := s.ax, regs := s.regs } = s :=
  each_ind (fun t : State => { t with ax := s.ax, regs := s.regs } = s) _ _
    (fun a _ t h => (congrArg (fun u : State => { u with ax := s.ax, regs := s.regs }) (axFinish_frame t a)).trans h) s rfl

/-- Asking beams to stop changes beam engines alone. -/
theorem each_askStop_frame (l : List Beam) (atOnce : Bool) :
    { s.each l (fun b t => t.askStop b atOnce) with be := s.be } = s :=
  each_ind (fun t : State => { t with be := s.be } = s) l (fun b t => t.askStop b atOnce) (fun _ _ _ h => h) s rfl

/-- A HOLD at the end of the strokes changes beam engines, axes with their AXn_REM, and what the device notes of the HOLD. -/
theorem holdAtEnd_frame (cause : Nat) :
    { s.holdAtEnd cause with be := s.be, ax := s.ax, regs := s.regs, dev := s.dev } = s := by
  unfold holdAtEnd
  split
  · rfl
  next n _ =>
    split
    · split <;> rfl
    · have ha := stopAxes_atEnd_frame (s.each (s.js n).named fun b t => t.askStop b false) n
      have hb := each_askStop_frame s (s.js n).named false
      exact (congrArg (fun t : State => { t with be := s.be, ax := s.ax, regs := s.regs, dev := s.dev }) ha).trans
        (congrArg (fun t : State => { t with ax := s.ax, regs := s.regs, dev := s.dev }) hb)

theorem holdAtEnd_twin (cause : Nat) : (s.holdAtEnd cause).twin = s.twin := by
  have h := congrArg State.twin (holdAtEnd_frame s cause)
  exact h
theorem holdAtEnd_hub (cause : Nat) : (s.holdAtEnd cause).hub = s.hub := by
  have h := congrArg State.hub (holdAtEnd_frame s cause)
  exact h

/-- While a job runs and no HOLD waits, the HOLD waits with its cause. -/
theorem holdAtEnd_holdReq {s : State} {n : Slot} (cause : Nat) (hn : s.runSlot = some n) (h : s.dev.holdReq = 0) :
    (s.holdAtEnd cause).dev.holdReq = cause := by
  simp [holdAtEnd, hn, h]

end State
end Sys2Proof.Machine
end

section
/-! SUPPORT. Who holds the lead: what each command of TWIN_CMD and TWIN_CTL, a missing heartbeat, TWIN_TAKE and TAKEOVER answer,
and what that leaves of the twin record (R7, R390, R409 to R414). -/

namespace Sys2Proof.Machine
namespace State

/-! The commands of TWIN_CMD and TWIN_CTL (R390, R397, R413, R414). -/

theorem handover_lead {s : State} (ht : s.hasTwin = true) (hb : s.rb R.TWIN_RESULT 23 = false) (hl : s.pairLead = true)
    (hi : s.dev.state = .idle) : exec .handover s = .next ((s.takeSend 0).twinPost 0) := by
  change execHandover s = _
  simp [execHandover, ht, hb, hl, hi]

theorem handover_other {s : State} (ht : s.hasTwin = true) (hb : s.rb R.TWIN_RESULT 23 = false)
    (hl : s.pairLead = false) : exec .handover s = .next (s.twinPost 1) := by
  change execHandover s = _
  simp [execHandover, ht, hb, hl]

/-- A BROKEN device that becomes unpaired in a role, with its lead bit, goes home to its own grid. -/
def unbroken (role : Nat) (lead : Bool) (ctl : Nat) (s : State) : State :=
  (((s.setPair role 0 lead).gridHome).upTwin fun t => { t with confirm := false }).setF R.TWIN_CTL 1 0 ctl

theorem unbroken_kept (role : Nat) (lead : Bool) (ctl : Nat) (s : State) : Kept s (s.unbroken role lead ctl) :=
  setF_kept _ _ _ _ _ (upTwin_kept _ _ (gridHome_kept _ (setPair_kept _ _ _ _ (Kept.refl s))))

theorem confirmSolo_broken {s : State} (ht : s.hasTwin = true) (hb : s.rb R.TWIN_RESULT 23 = false) (hp : s.twin.pair = 3) :
    exec .confirmSolo s = .next ((s.unbroken 0 true 1).twinPost 0) := by
  change execConfirmSolo s = _
  simp only [execConfirmSolo, ht, hb, hp, Bool.not_true, Bool.false_eq_true, or_self, if_false, if_true]
  rfl

theorem confirmSolo_other {s : State} (ht : s.hasTwin = true) (hb : s.rb R.TWIN_RESULT 23 = false) (hp : s.twin.pair ≠ 3) :
    exec .confirmSolo s = .next (s.twinPost 1) := by
  change execConfirmSolo s = _
  simp [execConfirmSolo, ht, hb, hp]

theorem releaseLead_broken {s : State} (ht : s.hasTwin = true) (hb : s.rb R.TWIN_RESULT 23 = false) (hp : s.twin.pair = 3)
    (hr : s.runSlot = none) : exec .releaseLead s = .next ((s.unbroken 2 false 2).twinPost 0) := by
  change execReleaseLead s = _
  simp only [execReleaseLead, ht, hb, hp, hr, Option.isNone_none, Bool.not_true, Bool.false_eq_true, or_self, if_false,
    and_self, if_true]
  rfl

theorem roleCfgWrite_free {s : State} (v : Fin 4) (ht : s.hasTwin = true) (hp : s.twin.pair = 0)
    (hq : s.slotsQuiet = true) : exec (.roleCfgWrite v) s =
      .next ((s.setF R.TWIN_CTL 1 0 v.val).setPair (if v.val = 2 then 2 else 0) 0 (decide (v.val ≠ 2))) := by
  change execRoleCfgWrite v s = _
  by_cases hv : v.val = 2 <;> simp [execRoleCfgWrite, ht, hp, hq, hv]

theorem roleCfgWrite_held {s : State} (v : Fin 4) (ht : s.hasTwin = true) (h : s.twin.pair ≠ 0 ∨ s.slotsQuiet = false) :
    exec (.roleCfgWrite v) s = .next (s.setB R.TWIN_STATUS 6) := by
  have hc : s.twin.pair ≠ 0 ∨ (!s.slotsQuiet) = true := h.imp id fun q => by simp [q]
  change execRoleCfgWrite v s = _
  unfold execRoleCfgWrite
  rw [ht, if_neg (by decide), if_pos hc]

/-- A part without the twin port ignores what is written to TWIN_CMD and TWIN_CTL (R7). -/
theorem twinCommands_absent {s : State} (h : s.hasTwin = false) : exec .ropeUp s = .next s ∧ exec .handover s = .next s ∧
    exec .confirmSolo s = .next s ∧ exec .releaseLead s = .next s ∧ ∀ v : Fin 4, exec (.roleCfgWrite v) s = .next s := by
  refine ⟨?_, ?_, ?_, ?_, fun v => ?_⟩
  · change execRopeUp s = _
    simp [execRopeUp, h]
  · change execHandover s = _
    simp [execHandover, h]
  · change execConfirmSolo s = _
    simp [execConfirmSolo, h]
  · change execReleaseLead s = _
    simp [execReleaseLead, h]
  · change execRoleCfgWrite v s = _
    simp [execRoleCfgWrite, h]

/-! Reports. -/

theorem reports_report {s t : State} {id : Byte} (n unit : Nat) (detail : Word) (hn : (n : Byte) = id) (h : t.hub = s.hub) :
    s.Reports id (t.report n unit detail) := by
  refine ⟨⟨n, unit, detail, t.tick, false⟩, ?_, hn⟩
  rw [report_hub, h]

/-! Heartbeats (R409, R411, R413). -/

/-- One heartbeat of the partner more is missing. -/
def hbMissed (s : State) : State :=
  (s.count R.TWIN_CNT 15 0).upTwin fun t => { t with hbMiss := min 3 (t.hbMiss + 1), hbGood := 0 }

/-- The third missing heartbeat in a row decides a takeover on this tick. -/
def hbDecision (s : State) : State :=
  (s.hbMissed.upTwin fun t => { t with decideAt := some s.tick, hbTake := true }).decideStep

/-- The tick is that of a heartbeat sample of a pair, and the heartbeat of the sample 20 before has not come. -/
def hbOverdue (s : State) : Prop :=
  s.twin.pair = 2 ∧ s.sample % 20 = 0 ∧ s.sampleAt s.sample = s.tick ∧ ∀ j, s.twin.hbLast = some j → j + 20 < s.sample

theorem hbMissed_rb (s : State) (i : Nat) : s.hbMissed.rb R.TWIN_CTL i = s.rb R.TWIN_CTL i := by
  have hq : R.TWIN_CTL ≠ R.TWIN_CNT := by decide
  exact congrArg (bit · i) (rd_wr_ne s _ hq)

/-- What TWIN_HB_MISSING does on a tick on which a heartbeat is overdue. -/
theorem twinHbMissing_due {s : State} (h : s.hbOverdue) : exec .twinHbMissing s =
    if s.twin.hbMiss < 2 then .next s.hbMissed
    else if s.twin.role = 2 then
      if s.rb R.TWIN_CTL 2 = true ∧ s.twin.decideAt.isNone = true then
        .next s.hbDecision
      else .next s.hbMissed
    else .next ((((s.hbMissed.setPair 1 3 true).twinClear).upTwin fun t => { t with confirm := true }).report 0x4A 32 0) := by
  obtain ⟨hp, hk, ht, hl⟩ := h
  have hany : (s.twin.hbLast.any fun j => decide (s.sample ≤ j + 20)) = false := by
    cases hj : s.twin.hbLast with
    | none => rfl
    | some j => simpa using hl j hj
  have hmin (k : Nat) : min 3 (k + 1) < 3 ↔ k < 2 := by omega
  have hmiss : s.hbMissed.twin.hbMiss < 3 ↔ s.twin.hbMiss < 2 := hmin _
  have hc : ¬ (s.twin.pair ≠ 2 ∨ s.sample % 20 ≠ 0 ∨ s.sampleAt s.sample ≠ s.tick ∨
      (s.twin.hbLast.any fun j => decide (s.sample ≤ j + 20)) = true) := by simp [hp, hk, ht, hany]
  change execTwinHbMissing s = _
  rw [← if_congr hmiss rfl rfl, ← hbMissed_rb]
  exact if_neg hc

theorem twinHbMissing_heard {s : State} (h : ∃ j, s.twin.hbLast = some j ∧ s.sample ≤ j + 20) :
    exec .twinHbMissing s = .next s := by
  obtain ⟨j, hj, hk⟩ := h
  change execTwinHbMissing s = _
  simp [execTwinHbMissing, hj, hk]

/-! TWIN_TAKE and TAKEOVER (R410 to R414). -/

/-- On the SECOND the TAKE of a HANDOVER sets the tick on which its lead bit is to be set (R414). -/
theorem twinTake_handover {m : TakeMsg} {s : State} (hs : s.pairSecond = true) (hc : m.cause = 0) :
    exec (.twinTake m) s = .next (s.upTwin fun t =>
      { t with leadAt := some (s.sampleAt (s.sampleNear m.sidx + 2), true), takeCause := 0 }) := by
  have h0 : m.cause.val = 0 := congrArg Fin.val hc
  change execTwinTake m s = _
  unfold execTwinTake
  rw [h0]
  exact if_pos hs

/-- On the SECOND a TAKE of a LEAD in BELAY sets the decision tick (R410, R411). -/
theorem twinTake_decide {m : TakeMsg} {s : State} (hs : s.pairSecond = true) (hc : m.cause = 1 ∨ m.cause = 2) :
    exec (.twinTake m) s = .next (s.upTwin fun t =>
      { t with leadAt := none, decideAt := some (s.tick + 500), decided := none, hbTake := false
               takeCause := m.cause.val }) := by
  have h0 : m.cause.val ≠ 0 := by rcases hc with hc | hc <;> rw [hc] <;> decide
  have h2 : m.cause.val ≤ 2 := by rcases hc with hc | hc <;> rw [hc] <;> decide
  change execTwinTake m s = _
  unfold execTwinTake
  exact (if_pos hs).trans ((if_neg h0).trans (if_pos h2))

theorem twinTake_lead {m : TakeMsg} {s : State} (hl : s.pairLead = true) (hc : m.cause = 1) (hb : s.dev.inBelay = true) :
    exec (.twinTake m) s = .next (s.takeSend 1) := by
  have hs : s.pairSecond = false := by
    simp only [pairLead, Bool.and_eq_true, beq_iff_eq] at hl
    simp [pairSecond, hl.1]
  change execTwinTake m s = _
  simp [execTwinTake, hs, hl, hc, hb]

/-- On a port in UP the TAKE is one cell of MSG 0x31 that carries its cause. -/
theorem takeSend_sent {s : State} (cause : Nat) (h : s.portUp 32 = true) :
    (s.takeSend cause).sent = ⟨s.tick, 32, 0x31, s.cellF 32, s.sample % 65536, [cause]⟩ :: s.sent := by
  simp [takeSend, cell, h]

/-- The device has the lead alone: BROKEN where heartbeats were lost, else SOLO. -/
def leadAlone (s : State) : State :=
  if s.twin.hbTake then (s.setPair 1 3 true).upTwin fun t => { t with confirm := true, took := 1 }
  else (s.setPair 0 0 true).upTwin fun t => { t with took := 2 }

/-- The SECOND has taken the lead: what the pair shared has ended, and TWIN_TAKEOVER is counted and reported. -/
def takenOver (s : State) : State :=
  (((s.leadAlone.twinClear).count R.TWIN_CNT 31 24).report 0x49 0 0).setF R.TWIN_CTL 1 0 1

theorem leadAlone_twin (s : State) : s.leadAlone.twin = { s.twin with
    role := if s.twin.hbTake then 1 else 0, pair := if s.twin.hbTake then 3 else 0, lead := true
    confirm := s.twin.hbTake || s.twin.confirm, took := if s.twin.hbTake then 1 else 2 } := by
  unfold leadAlone
  cases s.twin.hbTake <;> simp

theorem leadAlone_job (s : State) : s.leadAlone.job = s.job := by
  unfold leadAlone
  split <;> simp

theorem leadAlone_hub (s : State) : s.leadAlone.hub = s.hub := by
  unfold leadAlone
  split <;> simp

theorem leadAlone_dev (s : State) : s.leadAlone.dev = s.dev := by
  unfold leadAlone
  split <;> simp

theorem leadAlone_noArmWaits {s : State} (h : s.noArmWaits) : s.leadAlone.noArmWaits := by
  unfold noArmWaits
  rw [leadAlone_twin]
  exact h

section
variable {s : State} (h : s.noArmWaits)
include h

/-- What TAKEOVER leaves of the twin record: the lead alone, without what the pair shared and on its own grid. -/
theorem takenOver_twin : s.takenOver.twin = ((s.leadAlone.upTwin Twin.endShared).gridHome).twin := by
  unfold takenOver
  rw [setF_eq, wr_twin, report_twin, count_eq, wr_twin, twinClear_eq (leadAlone_noArmWaits h)]

theorem takenOver_job : s.takenOver.job = s.job := by
  unfold takenOver
  rw [setF_eq, wr_job, report_job, count_eq, wr_job, twinClear_eq (leadAlone_noArmWaits h), gridHome_job, upTwin_job,
    leadAlone_job]

theorem takenOver_dev : s.takenOver.dev = s.dev := by
  unfold takenOver
  rw [setF_eq, wr_dev, report_dev, count_eq, wr_dev, twinClear_eq (leadAlone_noArmWaits h), gridHome_dev, upTwin_dev,
    leadAlone_dev]

theorem takenOver_pending : ∃ n, s.takenOver.hub.pending = s.hub.pending ++ [⟨0x49, 0, 0, n, false⟩] := by
  unfold takenOver
  rw [setF_eq, wr_hub, report_hub, count_eq, wr_hub, twinClear_eq (leadAlone_noArmWaits h), gridHome_hub, upTwin_hub,
    leadAlone_hub]
  exact ⟨_, rfl⟩

end

theorem takenOver_kept (s : State) : Kept s s.takenOver := by
  have hl : Kept s s.leadAlone := by
    unfold leadAlone
    split
    · exact upTwin_kept _ _ (setPair_kept _ _ _ _ (Kept.refl s))
    · exact upTwin_kept _ _ (setPair_kept _ _ _ _ (Kept.refl s))
  exact setF_kept _ _ _ _ _ (report_kept _ _ _ _ (count_kept _ _ _ _ _ (twinClear_kept _ hl)))

section
variable {s : State} {d : Nat} (hd : s.twin.decideAt = some d) (ht : s.sampleAt (s.sampleOf d + 1) ≤ s.tick)
include hd ht

/-- A device that was in BELAY on the decision tick drops the takeover. -/
theorem takeover_barred (h : (s.twin.decided.map (·.1)).getD (!s.dev.inBelay) = false) :
    exec .takeover s = .next (s.upTwin fun t => { t with decideAt := none, decided := none }) := by
  have hm : (s.twin.decided.getD (!s.dev.inBelay, s.takeReady)).1 = false := by
    rw [← h]
    cases s.twin.decided <;> rfl
  change execTakeover s = _
  simp [execTakeover, hd, Nat.not_lt.2 ht, hm]

/-- A SECOND that may lead takes the lead; without READY a running job is held at the end of its strokes (R412). -/
theorem takeover_taken (h : (s.twin.decided.map (·.1)).getD (!s.dev.inBelay) = true) (hs : s.pairSecond = true) :
    exec .takeover s = .next
      (if (s.twin.decided.map (·.2)).getD s.takeReady = true ∨ s.takenOver.runSlot.isNone = true then s.takenOver
       else (s.takenOver.holdAtEnd 1).setB R.TWIN_STATUS 7) := by
  have hm : (s.twin.decided.getD (!s.dev.inBelay, s.takeReady)).1 = true := by
    rw [← h]
    cases s.twin.decided <;> rfl
  have hr : (s.twin.decided.getD (!s.dev.inBelay, s.takeReady)).2 = (s.twin.decided.map (·.2)).getD s.takeReady := by
    cases s.twin.decided <;> rfl
  change execTakeover s = _
  unfold execTakeover
  rw [hd]
  dsimp only
  rw [if_neg (Nat.not_lt.2 ht), hm, hs, if_neg (by decide), hr]
  exact (apply_ite Host.Outcome.next _ _ _).symm

end

end State
end Sys2Proof.Machine
end

section
/-! SUPPORT. The state behind each command of the lead, and O44 from it (R7, R390, R409 to R414). -/

namespace Sys2Proof.Machine
namespace State

/-! What each command of the lead leaves. -/

theorem takeSend_idle_twin {s : State} (cause : Nat) (hn : s.twin.leadAt = none) : (s.takeSend cause).twin =
    { s.twin with leadAt := some (s.sampleAt (s.sample + 1), false), sentCause := cause } := by
  rw [takeSend_twin, hn]
  rfl

theorem regsWf_takeSend {s : State} (h : s.regsWf) (cause : Nat) : (s.takeSend cause).regsWf :=
  (takeSend_kept cause s (Kept.refl s)).2.2 h

theorem unbroken_twin (role : Nat) (lead : Bool) (ctl : Nat) (s : State) :
    (s.unbroken role lead ctl).twin.role = role ∧ (s.unbroken role lead ctl).twin.pair = 0 ∧
      (s.unbroken role lead ctl).twin.lead = lead ∧ (s.unbroken role lead ctl).twin.confirm = false := by
  unfold unbroken
  rw [setF_eq, wr_twin]
  simp

theorem unbroken_job (role : Nat) (lead : Bool) (ctl : Nat) (s : State) : (s.unbroken role lead ctl).job = s.job := by
  unfold unbroken
  rw [setF_eq, wr_job, upTwin_job, gridHome_job, setPair_job]

theorem regsWf_unbroken {s : State} (h : s.regsWf) (role : Nat) (lead : Bool) (ctl : Nat) :
    (s.unbroken role lead ctl).regsWf := (unbroken_kept role lead ctl s).2.2 h

/-- TWIN_CTL.ROLE_CFG reads as it was written, also behind the change of role. -/
theorem roleCfg_read {s : State} (h : s.regsWf) (v : Fin 4) (role : Nat) (lead : Bool) :
    ((s.setF R.TWIN_CTL 1 0 v.val).setPair role 0 lead).rf R.TWIN_CTL 1 0 = v.val := by
  have hq : R.TWIN_CTL ≠ R.TWIN_IRQ_STATUS := by decide
  have hv := rf_setF h R.TWIN_CTL 1 0 v.val (by decide) (by decide)
  rw [rf, setPair_rd_ne _ _ _ _ hq]
  exact hv.trans (Nat.mod_eq_of_lt v.isLt)

/-- The LEAD of a pair whose third heartbeat in a row is missing is BROKEN, reports TWIN_LOSS, and keeps its jobs (R413). -/
theorem hbMissed_breaks {s t : State} (hw : s.noArmWaits)
    (ht : t = (((s.hbMissed.setPair 1 3 true).twinClear).upTwin fun x => { x with confirm := true }).report 0x4A 32 0) :
    t.twin.pair = 3 ∧ t.twin.confirm = true ∧ s.Reports 0x4A t ∧ t.job = s.job := by
  have hm : s.hbMissed.job = s.job ∧ s.hbMissed.hub = s.hub := ⟨rfl, rfl⟩
  have hn : (s.hbMissed.setPair 1 3 true).noArmWaits := by
    unfold noArmWaits
    rw [setPair_twin]
    exact hw
  subst ht
  rw [twinClear_eq hn]
  refine ⟨?_, rfl, reports_report 0x4A _ _ rfl ?_, ?_⟩
  · simp [Twin.endShared]
  · rw [upTwin_hub, gridHome_hub, upTwin_hub, setPair_hub, hm.2]
  · rw [report_job, upTwin_job, gridHome_job, upTwin_job, setPair_job, hm.1]

/-- With the decision it is fixed whether the device may lead and whether its beams go on. -/
theorem hbDecision_twin {s : State} (hn : s.twin.decided = none) :
    ∃ ready, s.hbDecision.twin = { s.hbMissed.twin with
      decideAt := some s.tick, hbTake := true, decided := some (!s.dev.inBelay, ready) } := by
  refine ⟨(s.hbMissed.upTwin fun t => { t with decideAt := some s.tick, hbTake := true }).takeReady, ?_⟩
  have hc : (s.hbMissed.upTwin fun t => { t with decideAt := some s.tick, hbTake := true }).twin.decided.isNone = true ∧
      (some s.tick).any (fun d => decide (d ≤ s.tick)) = true := by
    refine ⟨?_, by simp⟩
    change s.twin.decided.isNone = true
    rw [hn]
    rfl
  unfold hbDecision decideStep
  exact congrArg State.twin (if_pos hc)

section
variable {s : State} (hr : s.regsWf) (hw : s.noArmWaits)
include hr hw

/-- A SECOND that takes the lead: its twin record and its report, and the jobs unless one is held without READY (R411 to R413). -/
theorem takenOver_next {t : State} (ready : Bool)
    (ht : t = if ready = true ∨ s.takenOver.runSlot.isNone = true then s.takenOver
      else (s.takenOver.holdAtEnd 1).setB R.TWIN_STATUS 7) :
    t.twin.lead = true ∧ t.twin.decideAt = none ∧ t.twin.pair = (if s.twin.hbTake then 3 else 0) ∧
      t.twin.confirm = (s.twin.hbTake || s.twin.confirm) ∧ (∃ r ∈ t.hub.pending, r.id = 0x49) ∧
      (s.runSlot = none → s.Reports 0x49 t ∧ t.job = s.job) ∧
      (∀ n : Slot, s.runSlot = some n → ready = false → s.dev.holdReq = 0 →
        t.dev.holdReq = 1 ∧ t.rb R.TWIN_STATUS 7 = true) := by
  obtain ⟨n49, hpend⟩ := takenOver_pending hw
  have hrun : s.takenOver.runSlot = s.runSlot := runSlot_congr (takenOver_job hw)
  have htwin : t.twin = s.takenOver.twin := by
    rw [ht]
    split
    · rfl
    · rw [setB_eq, wr_twin, holdAtEnd_twin]
  have hhub : t.hub = s.takenOver.hub := by
    rw [ht]
    split
    · rfl
    · rw [setB_eq, wr_hub, holdAtEnd_hub]
  rw [htwin, hhub, takenOver_twin hw]
  refine ⟨?_, ?_, ?_, ?_, ?_, fun hnone => ?_, fun n hn hready hreq => ?_⟩
  · simp [Twin.endShared, leadAlone_twin]
  · simp [Twin.endShared]
  · simp [Twin.endShared, leadAlone_twin]
  · simp [Twin.endShared, leadAlone_twin]
  · exact ⟨_, hpend ▸ List.mem_append_right _ (List.mem_singleton_self _), rfl⟩
  · have htk : t = s.takenOver := ht.trans (if_pos (Or.inr (by rw [hrun, hnone]; rfl)))
    exact htk ▸ ⟨⟨_, hpend, rfl⟩, takenOver_job hw⟩
  · have hh : t = (s.takenOver.holdAtEnd 1).setB R.TWIN_STATUS 7 := ht.trans (if_neg (by simp [hready, hrun, hn]))
    subst hh
    refine ⟨?_, rb_setB ((holdAtEnd_kept 1 _ (takenOver_kept s)).2.2 hr) _ _ (by decide)⟩
    rw [setB_eq, wr_dev]
    exact holdAtEnd_holdReq 1 (hrun.trans hn) (by rw [takenOver_dev hw, hreq])

end

end State

open State

/-- Settles O44, command by command: each clause from what its command answers and what that leaves of the twin record. -/
theorem twinLead : Obligations.TwinLead := by
  unfold Obligations.TwinLead
  refine ⟨fun s ht hr hb hl hi hn => ⟨_, handover_lead ht hb hl hi, ?_⟩,
    fun s ht hr hb hl => ⟨_, handover_other ht hb hl, twinPost_twin _ _, twinPost_code hr 1⟩,
    fun s ht hr hb hp => ⟨_, confirmSolo_broken ht hb hp, ?_⟩,
    fun s ht hr hb hp hn => ⟨_, releaseLead_broken ht hb hp hn, ?_⟩,
    fun s ht hr hb hp => ⟨_, confirmSolo_other ht hb hp, twinPost_twin _ _, twinPost_code hr 1⟩,
    fun v s ht hr hp hq => ⟨_, roleCfgWrite_free v ht hp hq, roleCfg_read hr v _ _, ?_⟩,
    fun v s ht hr h => ⟨_, roleCfgWrite_held v ht h, rfl, rb_setB hr _ _ (by decide),
      (OnlyRegs.refl _ s).setB (List.mem_singleton_self _) 6⟩,
    fun s => twinCommands_absent, ?_, fun s _ h => twinHbMissing_heard h, ?_, ?_, ?_, ?_⟩
  case refine_1 =>
    rw [twinPost_twin, twinPost_job, takeSend_idle_twin 0 hn]
    exact ⟨rfl, rfl, rfl, twinPost_code (regsWf_takeSend hr 0) 0, takeSend_job s 0⟩
  case refine_2 =>
    obtain ⟨hrole, hpair, hlead, hconf⟩ := unbroken_twin 0 true 1 s
    rw [twinPost_twin, twinPost_job]
    exact ⟨hpair, hrole, hlead, hconf, twinPost_code (regsWf_unbroken hr _ _ _) 0, unbroken_job _ _ _ s⟩
  case refine_3 =>
    obtain ⟨hrole, hpair, hlead, -⟩ := unbroken_twin 2 false 2 s
    have htw := twinPost_twin (s.unbroken 2 false 2) 0
    rw [twinPost_job]
    exact ⟨htw ▸ hpair, htw ▸ hrole, htw ▸ hlead, twinPost_code (regsWf_unbroken hr _ _ _) 0, unbroken_job _ _ _ s,
      fun b => lgate_of_no_lead (htw ▸ hlead) b⟩
  case refine_4 =>
    rw [setPair_twin, setPair_job]
    exact ⟨rfl, rfl, rfl, rfl⟩
  case refine_5 =>
    intro s hr hw hp hk ht hl
    have hx := twinHbMissing_due ⟨hp, hk, ht, hl⟩
    refine ⟨fun h => ⟨_, hx.trans (if_pos h), Nat.min_eq_right (Nat.succ_le_succ h.le), rfl, hp, rfl⟩, fun h h1 => ?_,
      fun h h2 hc hd hn => ?_⟩
    · rw [if_neg (Nat.not_lt.2 h), if_neg (by rw [h1]; decide)] at hx
      exact ⟨_, hx, hbMissed_breaks hw rfl⟩
    · rw [if_neg (Nat.not_lt.2 h), if_pos h2, if_pos ⟨hc, by rw [hd]; rfl⟩] at hx
      refine ⟨_, hx, ?_⟩
      obtain ⟨ready, hd⟩ := hbDecision_twin hn
      rw [hd]
      exact ⟨rfl, rfl, hp, rfl⟩
  case refine_6 =>
    intro m s hs
    exact ⟨fun hc => ⟨_, twinTake_handover hs hc, rfl, rfl⟩, fun hc => ⟨_, twinTake_decide hs hc, rfl, rfl⟩⟩
  case refine_7 =>
    intro m s hl hc hb hu hn
    exact ⟨_, _, twinTake_lead hl hc hb, takeSend_sent 1 hu, rfl, rfl, rfl, takeSend_idle_twin 1 hn⟩
  case refine_8 =>
    intro d s hd ht h
    exact ⟨_, takeover_barred hd ht h, rfl, rfl⟩
  case refine_9 =>
    intro d s hr hw hd ht h hs
    exact ⟨_, takeover_taken hd ht h hs, takenOver_next hr hw _ rfl⟩

end Sys2Proof.Machine
end

section
/-! SUPPORT. Bits of STATUS words, changes beside registers, bytes of populated DDR5 as the host reaches them, and DMA channels
(R468, R470, R482, R490). -/

namespace Sys2Proof.Machine

/-! Entries of vectors. -/

theorem vupd_get_same {α : Type} {n : Nat} (v : Vector α n) (i : Fin n) (f : α → α) : (vupd v i f)[i] = f v[i] :=
  Vector.getElem_set_self ..

theorem vupd_get_ne {α : Type} {n : Nat} (v : Vector α n) {i k : Fin n} (f : α → α) (h : k ≠ i) : (vupd v i f)[k] = v[k] :=
  Vector.getElem_set_ne _ _ fun e => h (Fin.ext e.symm)

/-! Bits of words. -/

theorem bit_eq_getLsbD (w : Word) (i : Nat) : bit w i = w.getLsbD i := by
  rw [BitVec.getLsbD, Nat.testBit_eq_decide_div_mod_eq]
  rfl

theorem w32_two_pow (i : Nat) : w32 (2 ^ i) = BitVec.twoPow 32 i :=
  BitVec.eq_of_toNat_eq (by rw [w32, BitVec.toNat_ofNat, BitVec.toNat_twoPow])

theorem bit_setBit_ne (w : Word) {i j : Nat} (h : j ≠ i) : bit (setBit w j) i = bit w i := by
  simp [bit_eq_getLsbD, setBit, w32_two_pow, h]

theorem bit_clrBit (w : Word) (i : Nat) : bit (clrBit w i) i = false := by
  simp [bit_eq_getLsbD, clrBit, w32_two_pow]

/-- A replaced field leaves the bits below it alone. -/
theorem bit_setFld_below (w : Word) {i lo : Nat} (hi v : Nat) (h : i < lo) (hlo : lo ≤ 32) :
    bit (setFld w hi lo v) i = bit w i := by
  have hle : 2 ^ lo * (w.toNat / 2 ^ lo % 2 ^ (hi + 1 - lo)) ≤ w.toNat :=
    (Nat.mul_le_mul_left _ (Nat.mod_le _ _)).trans (Nat.mul_div_le _ _)
  have hmod : (setFld w hi lo v).toNat % 2 ^ lo = w.toNat % 2 ^ lo := by
    simp only [setFld, w32, BitVec.toNat_ofNat]
    rw [Nat.mod_mod_of_dvd _ (Nat.pow_dvd_pow 2 hlo), Nat.add_mul_mod_self_right, Nat.mul_comm, Nat.sub_mul_mod hle]
  have hbit (x : Word) : bit x i = (x.toNat % 2 ^ lo).testBit i := by
    rw [bit_eq_getLsbD, BitVec.getLsbD, Nat.testBit_mod_two_pow, decide_eq_true h, Bool.true_and]
  rw [hbit, hbit, hmod]

namespace State

/-! Changes beside the registers of a list. -/

theorem upHost_frame (f : HostIf → HostIf) (s : State) : { s.upHost f with host := s.host } = s := rfl

theorem upHost_regs_frame {s t : State} (f : HostIf → HostIf) (h : { t with regs := s.regs } = s) :
    { t.upHost f with host := s.host, regs := s.regs } = s := congrArg (fun x : State => { x with host := s.host }) h

/-- A change of the host interface alone, behind changes of registers. -/
theorem OnlyRegs.host {l : List Nat} {s t u : State} (h : s.OnlyRegs l t) (hu : { u with host := t.host } = t) :
    s.OnlyRegs l { u with host := s.host } := by
  have hregs := congrArg State.regs hu
  refine ⟨?_, fun a ha => (rd_congr hregs a).trans (h.2 a ha)⟩
  exact (congrArg (fun x : State => { x with host := s.host, regs := s.regs }) hu).trans
    (congrArg (fun x : State => { x with host := s.host }) h.1)

/-- Changes of registers and of the host interface behind a change of the host interface alone. -/
theorem OnlyRegs.afterHost {l : List Nat} {o s t : State} (hs : { s with host := o.host } = o)
    (h : s.OnlyRegs l { t with host := s.host }) : o.OnlyRegs l { t with host := o.host } := by
  have hregs := congrArg State.regs hs
  have h1 := congrArg (fun x : State => { x with host := o.host }) h.1
  dsimp only at hregs
  refine ⟨?_, fun a ha => (h.2 a ha).trans (rd_congr hregs a)⟩
  rw [← hregs]
  exact h1.trans hs

theorem OnlyRegs.mono {l m : List Nat} {s t : State} (h : s.OnlyRegs l t) (hs : l ⊆ m) : s.OnlyRegs m t :=
  ⟨h.1, fun a ha => h.2 a fun hl => ha (hs hl)⟩

/-- Changes of registers and of the host interface behind a change of memory alone. -/
theorem OnlyRegs.afterMem {l : List Nat} {o s t : State} (hs : { s with mem := o.mem } = o)
    (h : s.OnlyRegs l { t with host := s.host }) : o.OnlyRegs l { t with host := o.host, mem := o.mem } := by
  have hregs := congrArg State.regs hs
  have hhost := congrArg State.host hs
  dsimp only at hregs hhost
  have h1 := congrArg (fun x : State => { x with mem := o.mem }) h.1
  refine ⟨?_, fun a ha => (h.2 a ha).trans (rd_congr hregs a)⟩
  rw [← hregs, ← hhost]
  exact h1.trans hs

variable {s : State}

/-! Bytes as the host reaches them (R468). -/

theorem region_wrByte (s : State) (a : Nat) (v : Byte) (q : Nat) : (s.wrByte a v).region q = s.region q := rfl

/-- Of the registers, regions depend on DDR_STATUS alone. -/
theorem region_wr (s : State) {a : Nat} (v : Word) (h : R.DDR_STATUS ≠ a) (q : Nat) : (s.wr a v).region q = s.region q := by
  have he : (s.wr a v).ddrEnd = s.ddrEnd := by
    unfold ddrEnd rf
    rw [rd_wr_ne _ _ h]
  unfold region
  rw [he]
  rfl

theorem hostByte_ddr {a : Nat} (h : s.region a = .ddr) : s.hostByte a = (s.rdByte a, s) := by
  unfold hostByte
  rw [h]

theorem hostPut_ddr {a : Nat} (v : Byte) (h : s.region a = .ddr) : s.hostPut a v = s.wrByte a v := by
  unfold hostPut
  rw [h]

theorem hostPut_nothing {a : Nat} (v : Byte) (h : s.region a = .nothing) : s.hostPut a v = s := by
  unfold hostPut
  rw [h]

theorem hostReads_ddr {a : Nat} (h : s.region a = .ddr) : s.hostReads a = true := by
  unfold hostReads
  rw [h]

theorem hostWrites_ddr {a : Nat} (h : s.region a = .ddr) : s.hostWrites a = true := by
  unfold hostWrites
  rw [h]

theorem rdBytes_succ (s : State) (a n : Nat) : s.rdBytes a (n + 1) = s.rdByte a :: s.rdBytes (a + 1) n := by
  simp [rdBytes, List.range_succ_eq_map, Function.comp_def, Nat.add_assoc, Nat.add_comm 1]

/-- Bytes of populated DDR5 read as they stand, with no side effect. -/
theorem hostBytes_ddr (n : Nat) : ∀ a, (∀ i, i < n → s.region (a + i) = .ddr) → hostBytes a n s = (s.rdBytes a n, s) := by
  induction n with
  | zero => exact fun _ _ => rfl
  | succ n ih =>
    intro a h
    have hrest : ∀ i, i < n → s.region (a + 1 + i) = .ddr := fun i hi => by
      rw [Nat.add_assoc, Nat.add_comm 1]
      exact h (i + 1) (Nat.succ_lt_succ hi)
    have h0 : s.region a = .ddr := h 0 (Nat.succ_pos n)
    rw [hostBytes, hostByte_ddr h0]
    dsimp only
    rw [ih (a + 1) hrest, rdBytes_succ]

/-- Bytes written to populated DDR5 are stored. -/
theorem hostPuts_ddr (l : List Byte) : ∀ (s : State) (a : Nat), (∀ i, i < l.length → s.region (a + i) = .ddr) →
    hostPuts a l s = s.wrBytes a l := by
  induction l with
  | nil => exact fun _ _ _ => rfl
  | cons v l ih =>
    intro s a h
    have hrest : ∀ i, i < l.length → (s.wrByte a v).region (a + 1 + i) = .ddr := fun i hi => by
      rw [region_wrByte, Nat.add_assoc, Nat.add_comm 1]
      exact h (i + 1) (Nat.succ_lt_succ hi)
    have h0 : s.region a = .ddr := h 0 (Nat.succ_pos _)
    rw [hostPuts, hostPut_ddr v h0, ih _ _ hrest, wrBytes]

theorem rdBytes_congr {t : State} (h : t.mem = s.mem) (a n : Nat) : t.rdBytes a n = s.rdBytes a n := by
  unfold rdBytes rdByte
  rw [h]

/-- Bytes written read back as a list. -/
theorem rdBytes_wrBytes (h : s.memWf) (a : Nat) (l : List Byte) : (s.wrBytes a l).rdBytes a l.length = l := by
  refine List.ext_getElem (by simp [rdBytes]) fun i h1 h2 => ?_
  simp only [rdBytes, List.getElem_map, List.getElem_range]
  exact rdByte_wrBytes_in l s a i h h2

/-! DMA (R470, R482, R490). -/

/-- The transfer that the registers of a channel hold. -/
def dmaProg (s : State) (n : Nat) : DmaRun :=
  { haddr := (s.rd (R.HOST_DMAc_HADDR_LO n)).toNat + (s.rd (R.HOST_DMAc_HADDR_HI n)).toNat * 2 ^ 32
    daddr := (s.rd (R.HOST_DMAc_DADDR_LO n)).toNat + (s.rd (R.HOST_DMAc_DADDR_HI n)).toNat * 2 ^ 32
    len := s.rf (R.HOST_DMAc_LEN n) 24 0, toHost := s.rb (R.HOST_DMAc_CTL n) 0 }

/-- The STATUS of a channel that starts: BUSY, with no error code. -/
def dmaBusy (c : Fin 4) (s : State) : State :=
  (s.setB (R.HOST_DMAc_STATUS c.val) 0).setF (R.HOST_DMAc_STATUS c.val) 11 8 0

theorem dmaGo_free {c : Fin 4} (h : s.host.dma[c] = none) : exec (.dmaGo c) s =
    .next ((s.dmaBusy c).upHost fun q => { q with dma := vupd q.dma c fun _ => some (s.dmaProg c.val) }) := by
  change execDmaGo c s = _
  unfold execDmaGo
  rw [h]
  rfl

theorem dmaGo_busy {c : Fin 4} {x : DmaRun} (h : s.host.dma[c] = some x) : exec (.dmaGo c) s = .next s := by
  change execDmaGo c s = _
  simp [execDmaGo, h]

/-- A channel whose transfer ended well: free, with DONE and no error code. -/
def dmaFreed (c : Fin 4) (s : State) : State :=
  (((s.upHost fun h => { h with dma := vupd h.dma c fun _ => none }).clrB (R.HOST_DMAc_STATUS c.val) 0).setF
    (R.HOST_DMAc_STATUS c.val) 11 8 0).setB (R.HOST_DMAc_STATUS c.val) 1

theorem dmaEnd_ok (c : Fin 4) (s : State) : s.dmaEnd c 0 false =
    (s.dmaFreed c).ifc ((s.dmaFreed c).rb (R.HOST_DMAc_CTL c.val) 1) (assigned (c.val + 1)) := rfl

/-- The event of an assignable source raises a vector or does nothing. -/
theorem assigned_eq (s : State) (src : Nat) : s.assigned src = s ∨ ∃ v, s.assigned src = s.msix v := by
  unfold assigned
  exact (ite_eq_or_eq _ _ _).symm.imp id fun h => ⟨_, h⟩

theorem assigned_host (s : State) (src : Nat) : { (s.assigned src).host with msix := s.host.msix } = s.host := by
  obtain h | ⟨v, h⟩ := assigned_eq s src <;> rw [h]
  rfl

/-- The MSI-X vectors raised are all that a conditional event of an assignable source changes. -/
theorem ifc_assigned_frame (s : State) (b : Bool) (src : Nat) :
    { s.ifc b (assigned src) with host := { (s.ifc b (assigned src)).host with msix := s.host.msix } } = s := by
  cases b
  · rfl
  · have hf := assigned_frame s src
    rw [ifc_true, assigned_host]
    exact hf

theorem dmaFreed_rd (h : s.regsWf) (c : Fin 4) : (s.dmaFreed c).rd (R.HOST_DMAc_STATUS c.val) =
    setBit (setFld (clrBit (s.rd (R.HOST_DMAc_STATUS c.val)) 0) 11 8 0) 1 := by
  have h0 : (s.upHost fun h => { h with dma := vupd h.dma c fun _ => none }).regsWf := h
  have h1 := regsWf_wr h0 (R.HOST_DMAc_STATUS c.val) (clrBit (s.rd (R.HOST_DMAc_STATUS c.val)) 0)
  have h2 := regsWf_wr h1 (R.HOST_DMAc_STATUS c.val) (setFld (clrBit (s.rd (R.HOST_DMAc_STATUS c.val)) 0) 11 8 0)
  unfold dmaFreed
  rw [clrB_eq, upHost_rd, setF_eq, rd_wr h0, setB_eq, rd_wr h1, rd_wr h2]

theorem dmaFreed_onlyRegs (c : Fin 4) (s : State) :
    s.OnlyRegs [R.HOST_DMAc_STATUS c.val] { s.dmaFreed c with host := s.host } := by
  have hm : R.HOST_DMAc_STATUS c.val ∈ [R.HOST_DMAc_STATUS c.val] := List.mem_singleton_self _
  have h : (s.upHost fun h => { h with dma := vupd h.dma c fun _ => none }).OnlyRegs [R.HOST_DMAc_STATUS c.val]
      (s.dmaFreed c) := (((OnlyRegs.refl _ _).clrB hm 0).setF hm 11 8 0).setB hm 1
  exact (h.host rfl).afterHost (upHost_frame _ s)

end State
end Sys2Proof.Machine
end

section
/-! SUPPORT. What the host's accesses answer: DMA, the window and BAR2, the aux ring, FLR, the TAP and registers over a path
(R4, R11, R467 to R471, R484, R487 to R492). -/

namespace Sys2Proof.Machine
namespace State

theorem dmaBusy_bit {s : State} (h : s.regsWf) (c : Fin 4) : (s.dmaBusy c).rb (R.HOST_DMAc_STATUS c.val) 0 = true := by
  unfold dmaBusy rb
  rw [setF_eq, setB_eq, rd_wr h, rd_wr (regsWf_wr h _ _), bit_setFld_below _ _ _ (by decide) (by decide)]
  exact bit_setBit _ _ (by decide)

theorem dmaBusy_onlyRegs (c : Fin 4) (s : State) : s.OnlyRegs [R.HOST_DMAc_STATUS c.val] (s.dmaBusy c) := by
  have hm : R.HOST_DMAc_STATUS c.val ∈ [R.HOST_DMAc_STATUS c.val] := List.mem_singleton_self _
  exact ((OnlyRegs.refl _ s).setB hm 0).setF hm 11 8 0

theorem dmaBusy_host (c : Fin 4) (s : State) : (s.dmaBusy c).host = s.host := by
  unfold dmaBusy
  rw [setF_eq, wr_host, setB_eq, wr_host]

/-- `t` is `s` behind the end of a transfer of channel `c` without an error. -/
structure DmaEnded (c : Fin 4) (s t : State) : Prop where
  free : t.host.dma[c] = none
  toHost : t.host.toHost = s.host.toHost
  busy : t.rb (R.HOST_DMAc_STATUS c.val) 0 = false
  done : t.rb (R.HOST_DMAc_STATUS c.val) 1 = true
  mem : t.mem = s.mem
  regs : s.OnlyRegs [R.HOST_DMAc_STATUS c.val] { t with host := s.host }

theorem dmaEnded {s : State} (h : s.regsWf) (c : Fin 4) : DmaEnded c s (s.dmaEnd c 0 false) := by
  have hf := ifc_assigned_frame (s.dmaFreed c) ((s.dmaFreed c).rb (R.HOST_DMAc_CTL c.val) 1) (c.val + 1)
  rw [dmaEnd_ok]
  generalize (s.dmaFreed c).ifc _ _ = t at hf ⊢
  have hregs := congrArg State.regs hf
  have hmem := congrArg State.mem hf
  have hdma := congrArg (·.host.dma) hf
  have hto := congrArg (·.host.toHost) hf
  dsimp only at hregs hmem hdma hto
  have hhost : (s.dmaFreed c).host = { s.host with dma := vupd s.host.dma c fun _ => none } := by
    unfold dmaFreed
    rw [setB_eq, wr_host, setF_eq, wr_host, clrB_eq, wr_host, upHost_host]
  have hword := dmaFreed_rd h c
  rw [← rd_congr hregs] at hword
  have hframe : { t with host := s.host } = { s.dmaFreed c with host := s.host } :=
    congrArg (fun x : State => { x with host := s.host }) hf
  refine ⟨?_, ?_, ?_, ?_, ?_, ?_⟩
  · rw [hdma, hhost]
    exact vupd_get_same _ _ _
  · rw [hto, hhost]
  · rw [rb, hword, bit_setBit_ne _ (by decide), bit_setFld_below _ _ _ (by decide) (by decide), bit_clrBit]
  · rw [rb, hword]
    exact bit_setBit _ _ (by decide)
  · rw [hmem]
    unfold dmaFreed
    rw [setB_eq, wr_mem, setF_eq, wr_mem, clrB_eq, wr_mem, upHost_mem]
  · rw [hframe]
    exact dmaFreed_onlyRegs c s

/-- Bytes handed to the host at an address. -/
def toldHost (y : Nat × List Byte) (s : State) : State := s.upHost fun q => { q with toHost := y :: q.toHost }

theorem toldHost_frame (y : Nat × List Byte) (s : State) : { s.toldHost y with host := s.host } = s := rfl

/-- A transfer from populated DDR5 to the host ends well. -/
theorem dmaDone_toHost {s : State} {c : Fin 4} {x : DmaRun} (host : List Byte) (h : s.host.dma[c] = some x)
    (hx : x.toHost = true) (hd : ∀ i, i < x.len → s.region (x.daddr + i) = .ddr) : exec (.dmaDone c .ok host) s =
      .next ((s.toldHost (x.haddr, s.rdBytes x.daddr x.len)).dmaEnd c 0 false) := by
  have hr : (((List.range x.len).map (x.daddr + ·)).any fun a => !s.hostReads a) = false := by
    simpa using fun i hi => hostReads_ddr (hd i hi)
  change execDmaDone c .ok host s = _
  unfold execDmaDone
  rw [h]
  simp only [hx, hr, hostBytes_ddr x.len x.daddr hd, beq_self_eq_true, Bool.true_or, if_true]
  rfl

/-- A transfer from the host to populated DDR5 ends well. -/
theorem dmaDone_fromHost {s : State} {c : Fin 4} {x : DmaRun} {host : List Byte} (h : s.host.dma[c] = some x)
    (hx : x.toHost = false) (hlen : host.length = x.len) (hd : ∀ i, i < x.len → s.region (x.daddr + i) = .ddr) :
    exec (.dmaDone c .ok host) s = .next ((s.wrBytes x.daddr host).dmaEnd c 0 false) := by
  have hr : (((List.range x.len).map (x.daddr + ·)).any fun a => !s.hostWrites a) = false := by
    simpa using fun i hi => hostWrites_ddr (hd i hi)
  have hp : hostPuts x.daddr host s = s.wrBytes x.daddr host := hostPuts_ddr host s x.daddr (hlen ▸ hd)
  have ht : host.take x.len = host := List.take_of_length_le (Nat.le_of_eq hlen)
  change execDmaDone c .ok host s = _
  unfold execDmaDone
  rw [h]
  simp only [hx, hr, hp, ht, beq_self_eq_true, Bool.true_or, if_true, Bool.false_eq_true, if_false]

/-! The window and the aux ring (R468, R471, R490). -/

theorem hostWinLoWrite_next (v : Word) (s : State) : exec (.hostWinLoWrite v) s = .next
    ((s.wr R.HOST_WIN_LO (v &&& 0xFFF00000#32)).upHost fun h => { h with
      win := ((s.wr R.HOST_WIN_LO (v &&& 0xFFF00000#32)).rd R.HOST_WIN_LO).toNat +
        ((s.wr R.HOST_WIN_LO (v &&& 0xFFF00000#32)).rd R.HOST_WIN_HI).toNat * 2 ^ 32 }) := rfl

theorem region_ne_nothing {s : State} {a : Nat} (h : s.region a = .ddr) : s.region a ≠ .nothing := by
  rw [h]
  decide

/-- A read of populated DDR5 through the window. -/
theorem bar2Read_ddr {s : State} {ofs : BitVec 28} (data : Word) (be : BitVec 4) (hs : s.dev.state ≠ .reset)
    (hd : ∀ i, i < 4 → s.region (s.host.win + ofs.toNat / 4 * 4 + i) = .ddr) : exec (.bar2Access false ofs data be) s =
      .next (s.upHost fun h => { h with rdData := s.rd32 (s.host.win + ofs.toNat / 4 * 4) }) := by
  have h0 : s.region (s.host.win + ofs.toNat / 4 * 4) ≠ .nothing := region_ne_nothing (hd 0 (by decide))
  change execBar2Access false ofs data be s = _
  unfold execBar2Access
  simp only [if_neg hs, if_neg h0, hostBytes_ddr 4 _ hd, Bool.false_eq_true, if_false]
  rfl

/-- Bytes of one word at `a` written, each with its lane of `data`. -/
def wrLanes (a : Nat) (data : Word) (l : List Nat) (s : State) : State :=
  s.each l fun i t => t.wrByte (a + i) (BitVec.ofNat 8 (data.toNat / 2 ^ (8 * i)))

theorem wrLanes_frame (a : Nat) (data : Word) (l : List Nat) (s : State) : { s.wrLanes a data l with mem := s.mem } = s := by
  refine each_ind (fun t : State => { t with mem := s.mem } = s) l _ ?_ s rfl
  exact fun _ _ _ h => h

/-- A byte reads as its lane where it was written, and as before elsewhere. -/
theorem rdByte_wrLanes (a : Nat) (data : Word) (l : List Nat) : ∀ {s : State}, s.memWf → ∀ i,
    (s.wrLanes a data l).rdByte (a + i) =
      if i ∈ l then BitVec.ofNat 8 (data.toNat / 2 ^ (8 * i)) else s.rdByte (a + i) := by
  induction l with
  | nil => exact fun _ _ => rfl
  | cons j l ih =>
    intro s h i
    refine (ih (memWf_wrByte h _ _) i).trans ?_
    by_cases hl : i ∈ l
    · rw [if_pos hl, if_pos (List.mem_cons_of_mem _ hl)]
    · rw [if_neg hl]
      by_cases hj : i = j
      · rw [hj, rdByte_wrByte h, if_pos (List.mem_cons_self ..)]
      · rw [rdByte_wrByte_ne s _ (by omega), if_neg (by simp [hl, hj])]

theorem rdByte_wrLanes_out (a : Nat) (data : Word) (l : List Nat) (hl : ∀ i ∈ l, i < 4) {q : Nat}
    (hq : q < a ∨ a + 4 ≤ q) (s : State) : (s.wrLanes a data l).rdByte q = s.rdByte q :=
  each_ind (fun t => t.rdByte q = s.rdByte q) l _
    (fun i hi t h => (rdByte_wrByte_ne t _ (by have := hl i hi; omega)).trans h) s rfl

theorem mem_onesOf {n v i : Nat} : i ∈ onesOf n v ↔ i < n ∧ nbit v i = true := by
  simp [onesOf]

/-- The enabled bytes of a word, by the bits of the byte enables. -/
theorem mem_onesOf_toNat {n i : Nat} (be : BitVec n) : i ∈ onesOf n be.toNat ↔ i < n ∧ be.getLsbD i = true := by
  rw [mem_onesOf, nbit, BitVec.getLsbD, Nat.testBit_eq_decide_div_mod_eq, beq_iff_eq, decide_eq_true_iff]

theorem each_hostPut_ddr (a : Nat) (data : Word) (l : List Nat) : ∀ {s : State},
    (∀ i ∈ l, s.region (a + i) = .ddr) →
    s.each l (fun i t => t.hostPut (a + i) (BitVec.ofNat 8 (data.toNat / 2 ^ (8 * i)))) = s.wrLanes a data l := by
  induction l with
  | nil => exact fun _ => rfl
  | cons j l ih =>
    intro s h
    rw [each_cons, hostPut_ddr _ (h j (List.mem_cons_self ..)),
      ih fun i hi => (region_wrByte ..).trans (h i (List.mem_cons_of_mem _ hi))]
    rfl

/-- A write of populated DDR5 through the window stores the enabled bytes. -/
theorem bar2Write_ddr {s : State} {ofs : BitVec 28} (data : Word) (be : BitVec 4) (hs : s.dev.state ≠ .reset)
    (hd : ∀ i, i < 4 → s.region (s.host.win + ofs.toNat / 4 * 4 + i) = .ddr) : exec (.bar2Access true ofs data be) s =
      .next (s.wrLanes (s.host.win + ofs.toNat / 4 * 4) data (onesOf 4 be.toNat)) := by
  have h0 : s.region (s.host.win + ofs.toNat / 4 * 4) ≠ .nothing := region_ne_nothing (hd 0 (by decide))
  change execBar2Access true ofs data be s = _
  unfold execBar2Access
  simp only [if_neg hs, if_neg h0, if_true]
  rw [each_hostPut_ddr _ _ _ fun i hi => hd i (mem_onesOf.1 hi).1]

/-- A write that touches no region sets WIN_ERR. -/
theorem bar2Write_nothing {s : State} {ofs : BitVec 28} (data : Word) (be : BitVec 4) (hs : s.dev.state ≠ .reset)
    (hd : ∀ i, i < 4 → s.region (s.host.win + ofs.toNat / 4 * 4 + i) = .nothing) :
    exec (.bar2Access true ofs data be) s = .next (s.setB R.HOST_STATUS 0) := by
  have h0 : s.region (s.host.win + ofs.toNat / 4 * 4) = .nothing := hd 0 (by decide)
  have hput : ∀ i ∈ onesOf 4 be.toNat, ∀ t, t = s.setB R.HOST_STATUS 0 →
      t.hostPut (s.host.win + ofs.toNat / 4 * 4 + i) (BitVec.ofNat 8 (data.toNat / 2 ^ (8 * i))) = s.setB R.HOST_STATUS 0 := by
    intro i hi t ht
    rw [ht, setB_eq]
    exact hostPut_nothing _ ((region_wr s _ (by decide) _).trans (hd i (mem_onesOf.1 hi).1))
  change execBar2Access true ofs data be s = _
  unfold execBar2Access
  simp only [if_neg hs, if_pos h0, if_true]
  exact congrArg Host.Outcome.next (each_ind (· = s.setB R.HOST_STATUS 0) _ _ hput _ rfl)

theorem auxEnable_off (s : State) : exec (.auxEnable false) s = .next (s.wr R.HOST_AUX_CTL 0) := rfl

/-- HOST_AUX_CTL.EN from 0 to 1 sets HEAD and TAIL to 0. -/
theorem auxEnable_on {s : State} (h : s.rb R.HOST_AUX_CTL 0 = false) : exec (.auxEnable true) s =
    .next (((s.wr R.HOST_AUX_CTL 1).wr R.HOST_AUX_TAIL 0).upHost fun q => { q with auxHead := 0 }) := by
  change execAuxEnable true s = _
  unfold execAuxEnable
  rw [h]
  rfl

/-! FLR (R492). -/

/-- Every register of a list written 0. -/
def zeroRegs (l : List Nat) (s : State) : State := s.each l fun a t => t.wr a 0

theorem zeroRegs_onlyRegs (l : List Nat) (s : State) : s.OnlyRegs l (s.zeroRegs l) :=
  each_ind (s.OnlyRegs l) l _ (fun _ ha _ g => g.wr ha 0) s (OnlyRegs.refl l s)

theorem rd_zeroRegs {a : Nat} (l : List Nat) : ∀ {s : State}, s.regsWf → a ∈ l → (s.zeroRegs l).rd a = 0 := by
  induction l with
  | nil => exact fun _ h => absurd h List.not_mem_nil
  | cons b l ih =>
    intro s h ha
    have hb := regsWf_wr h b 0
    by_cases hl : a ∈ l
    · exact ih hb hl
    · have hab : a = b := (List.mem_cons.1 ha).resolve_right hl
      refine ((zeroRegs_onlyRegs l (s.wr b 0)).2 a hl).trans ?_
      rw [hab, rd_wr h]

/-- The registers that FLR sets to 0 (R492). -/
def flrRegs : List Nat :=
  [R.HOST_WIN_LO, R.HOST_WIN_HI, R.HOST_VEC0, R.HOST_VEC1, R.HOST_AUX_CTL, R.MBX_IRQ_EN] ++
    (List.range 4).flatMap fun c => (List.range 7).map fun i => R.HOST_DMAc_HADDR_LO c + 4 * i

theorem dmaReg_mem_flrRegs (c : Fin 4) {a i : Nat} (hi : i < 7) (ha : R.HOST_DMAc_HADDR_LO c.val + 4 * i = a) :
    a ∈ flrRegs :=
  List.mem_append_right _ (List.mem_flatMap.2 ⟨c, List.mem_range.2 c.isLt, List.mem_map.2 ⟨i, List.mem_range.2 hi, ha⟩⟩)

/-- The registers of R492 reset, and the FLR counted. -/
def flrDone (s : State) : State := (s.zeroRegs flrRegs).count R.HOST_STATUS 31 16

/-- What FLR leaves: beside the registers, the window, the DMA channels and the vectors of BAR4. -/
def afterFlr (s : State) : State :=
  s.flrDone.upHost fun h => { h with win := 0, dma := Vector.replicate 4 none, msix := 0, table := [] }

theorem flr_next (s : State) : exec .flr s = .next s.afterFlr := by
  have h : s.zeroRegs flrRegs = (s.each [R.HOST_WIN_LO, R.HOST_WIN_HI, R.HOST_VEC0, R.HOST_VEC1, R.HOST_AUX_CTL,
      R.MBX_IRQ_EN] fun a t => t.wr a 0).each (List.range 4) fun c t =>
        t.each (List.range 7) fun i u => u.wr (R.HOST_DMAc_HADDR_LO c + 4 * i) 0 := by
    simp only [flrRegs, zeroRegs, each, List.foldl_append, List.foldl_flatMap, List.foldl_map]
  change execFlr s = _
  rw [afterFlr, flrDone, h]
  rfl

theorem afterFlr_rd {s : State} (h : s.regsWf) {a : Nat} (ha : a ∈ flrRegs) : s.afterFlr.rd a = 0 := by
  have hs : R.HOST_STATUS ∉ flrRegs := by decide
  rw [afterFlr, upHost_rd, flrDone, count_eq, rd_wr_ne _ _ (ne_of_mem_of_not_mem ha hs)]
  exact rd_zeroRegs _ h ha

/-- A DMA channel behind FLR: idle, with CTL and STATUS 0. -/
theorem afterFlr_dma {s : State} (h : s.regsWf) (c : Fin 4) : s.afterFlr.host.dma[c] = none ∧
    s.afterFlr.rd (R.HOST_DMAc_CTL c.val) = 0 ∧ s.afterFlr.rd (R.HOST_DMAc_STATUS c.val) = 0 := by
  refine ⟨Vector.getElem_replicate c.isLt, afterFlr_rd h (dmaReg_mem_flrRegs c (i := 5) (by decide) ?_),
    afterFlr_rd h (dmaReg_mem_flrRegs c (i := 6) (by decide) ?_)⟩
  · unfold R.HOST_DMAc_CTL R.HOST_DMAc_HADDR_LO
    omega
  · unfold R.HOST_DMAc_STATUS R.HOST_DMAc_HADDR_LO
    omega

theorem flrDone_frame (s : State) : { s.flrDone with regs := s.regs } = s := by
  have h : s.OnlyRegs (R.HOST_STATUS :: flrRegs) s.flrDone := by
    rw [flrDone, count_eq]
    exact ((zeroRegs_onlyRegs flrRegs s).mono (List.subset_cons_self ..)).wr (List.mem_cons_self ..) _
  exact h.1

theorem afterFlr_hist (s : State) : s.afterFlr.host.hist = s.host.hist := by
  have h := congrArg State.host (flrDone_frame s)
  dsimp only at h
  rw [afterFlr, upHost_host, h]

theorem afterFlr_frame (s : State) : { s.afterFlr with host := s.host, regs := s.regs } = s :=
  upHost_regs_frame _ (flrDone_frame s)

/-! The TAP (R484). -/

theorem tapInstruction_frame (i : TapInstr) (s : State) : ∃ h, exec (.tapInstruction i) s = .next { s with host := h } ∧
    (i = .idcode → h.tap = 1 ∧ h.rdData = 0xCE2A0B5F#32) ∧ (i = .bypass → h.tap = 0) ∧
    (i = .extest ∨ i = .clamp ∨ i = .highz → (h.tap = 0 ↔ s.dev.state ≠ .reset ∧ s.dev.state ≠ .boot)) := by
  refine ⟨_, rfl, ?_, ?_, ?_⟩
  · rintro rfl
    exact ⟨rfl, rfl⟩
  · rintro rfl
    rfl
  · rintro (rfl | rfl | rfl) <;> simp

/-! Registers over a path (R4, R11, R467, R487, R489). -/

theorem registerWrite_closed {s : State} {p : Path} {addr : BitVec 24} (v : Word) (h : s.pathOpen p addr.toNat = false) :
    exec (.registerWrite p addr v) s = .next s := by
  change execRegisterWrite p addr v s = _
  simp [execRegisterWrite, h]

theorem loReadLatch_closed {s : State} {p : Path} {addr : BitVec 24} (h : s.pathOpen p addr.toNat = false) :
    exec (.loReadLatch p addr) s = .next (s.upHost fun q => { q with rdData := 0 }) := by
  change execLoReadLatch p addr s = _
  simp [execLoReadLatch, h]

/-- A read of a register outside the engines, the timebase and the recorder has no effect but its latches. -/
theorem loReadLatch_plain {s : State} {p : Path} {addr : BitVec 24} (h : s.pathOpen p addr.toNat = true)
    (hb : ∀ i r, blkOf addr.toNat ≠ some (.be, i, 0x6C) ∧ blkOf addr.toNat ≠ some (.rec_, i, r) ∧
      blkOf addr.toNat ≠ some (.time, i, r)) : exec (.loReadLatch p addr) s = .next (s.latchRead p addr.toNat) := by
  change execLoReadLatch p addr s = _
  unfold execLoReadLatch
  simp only [h, Bool.not_true, Bool.false_eq_true, if_false]
  split
  · rfl
  · split
    next b e => exact absurd e (hb b 0).1
    next b e => exact absurd e (hb b _).2.1
    next b r e => exact absurd e (hb b r).2.2
    next => rfl

/-- No LO register pops an entry. -/
theorem loPair_plain {a hi : Nat} (h : loPair a = some hi) (i r : Nat) :
    blkOf a ≠ some (.be, i, 0x6C) ∧ blkOf a ≠ some (.rec_, i, r) ∧ blkOf a ≠ some (.time, i, r) := by
  refine ⟨fun e => ?_, fun e => ?_, fun e => ?_⟩ <;> simp [loPair, e] at h

/-- A LO register completes with its word and latches its HI word for the path. -/
theorem latchRead_lo {a hi : Nat} (p : Path) (s : State) (h : loPair a = some hi) : ∃ l, s.latchRead p a =
    s.upHost fun q => { q with rdData := s.readReg a, latched := (p, hi, s.readReg hi) :: l } := by
  unfold latchRead
  rw [h]
  exact ⟨_, rfl⟩

/-- A register with a latch of the path completes with the latched word. -/
theorem latchRead_hi {a : Nat} {p : Path} {s : State} {v : Word} (h : loPair a = none)
    (hl : s.host.latched.find? (fun x => x.1 == p && x.2.1 == a) = some (p, a, v)) : ∃ l, s.latchRead p a =
    s.upHost fun q => { q with rdData := v, latched := l } := by
  unfold latchRead
  rw [h]
  dsimp only
  rw [hl]
  exact ⟨_, rfl⟩

/-- A write of an Ethernet register is a write by access type (R11). -/
theorem registerWrite_eth {s : State} {p : Path} {addr : BitVec 24} {i r : Nat} {w : RegRow} (v : Word)
    (h : s.pathOpen p addr.toNat = true) (hu : s.unitOn addr.toNat = true) (hb : blkOf addr.toNat = some (.eth, i, r))
    (hw : rowAt addr.toNat = some w) : exec (.registerWrite p addr v) s = .next (s.wmod addr.toNat fun x =>
      ((x &&& ~~~(w32 w.rw)) ||| (v &&& w32 w.rw)) &&& ~~~(v &&& w32 w.w1c)) := by
  have hr : s.writeReg p addr.toNat v = s.store addr.toNat v := by
    unfold writeReg
    rw [hb]
    rfl
  have hst : s.store addr.toNat v = s.wmod addr.toNat fun x =>
      ((x &&& ~~~(w32 w.rw)) ||| (v &&& w32 w.rw)) &&& ~~~(v &&& w32 w.w1c) := by
    unfold store
    rw [hw]
  change execRegisterWrite p addr v s = _
  unfold execRegisterWrite
  dsimp only
  rw [h, hu, hw, if_neg (by simp), hr, hst]

end State
end Sys2Proof.Machine
end

section
/-! SUPPORT. O55 from what the host's accesses answer (R4, R11, R12, R467, R468, R470, R471, R477, R482 to R492). -/

namespace Sys2Proof.Machine

open State

/-- Settles O55, access by access: each clause from what its command answers. A transfer and a BAR2 access of populated DDR5
come down to reads and writes of bytes, FLR to zeros in a list of registers, and a read over a path to its latches. -/
theorem hostAccess : Obligations.HostAccess := by
  unfold Obligations.HostAccess
  refine ⟨⟨?_, fun c x s h => dmaGo_busy h, ?_, ?_, ?_, ?_, ?_, ?_, ?_, fun s => ⟨_, rfl, rfl, rfl⟩, ?_⟩,
    fun p addr v s h => ⟨registerWrite_closed v h, _, loReadLatch_closed h, rfl, rfl⟩, ?_, ?_, ?_⟩
  case refine_1 =>
    rintro c n s rfl h hr
    refine ⟨_, dmaGo_free h, ?_, dmaBusy_bit hr c, fun k hk => ?_, ?_⟩
    · rw [upHost_host]
      exact vupd_get_same _ _ _
    · rw [upHost_host, dmaBusy_host]
      exact vupd_get_ne _ _ hk
    · exact (dmaBusy_onlyRegs c s).host (upHost_frame _ _)
  case refine_2 =>
    intro c x host s h hx hr hd
    obtain ⟨hfree, hto, hbusy, hdone, hmem, hregs⟩ := dmaEnded (s := s.toldHost (x.haddr, s.rdBytes x.daddr x.len)) hr c
    exact ⟨_, dmaDone_toHost host h hx hd, hfree, hto, hbusy, hdone, hmem, hregs.afterHost (toldHost_frame _ s)⟩
  case refine_3 =>
    intro c x host s h hx hr hm hlen hd
    have hfr := wrBytes_frame host s x.daddr
    obtain ⟨hfree, -, hbusy, hdone, hmem, hregs⟩ := dmaEnded
      ((wrBytes_kept host x.daddr (Kept.refl s)).2.2 hr) c
    refine ⟨_, dmaDone_fromHost h hx hlen hd, hfree, ?_, fun a ha => ?_, hbusy, hdone, hregs.afterMem hfr⟩
    · rw [rdBytes_congr hmem, ← hlen]
      exact rdBytes_wrBytes hm x.daddr host
    · rw [rdByte, hmem]
      exact rdByte_wrBytes_out host s x.daddr a (hlen ▸ ha)
  case refine_4 =>
    intro v s hr
    have hq : R.HOST_WIN_HI ≠ R.HOST_WIN_LO := by decide
    refine ⟨_, hostWinLoWrite_next v s, ?_, ?_, ?_⟩
    · rw [upHost_rd, rd_wr hr]
    · rw [upHost_host, rd_wr hr, rd_wr_ne _ _ hq]
    · exact ((OnlyRegs.refl _ s).wr (List.mem_singleton_self _) _).host (upHost_frame _ _)
  case refine_5 =>
    rintro ofs data be a s rfl hs hd
    refine ⟨⟨_, bar2Read_ddr data be hs hd, rfl, upHost_frame _ s⟩, fun hm => ⟨_, bar2Write_ddr data be hs hd, wrLanes_frame _ _ _ s,
      fun i hi => ?_, fun q hq => rdByte_wrLanes_out _ data _ (fun i hi => (mem_onesOf.1 hi).1) hq s⟩⟩
    rw [rdByte_wrLanes _ data _ hm]
    exact if_congr ((mem_onesOf_toNat be).trans (and_iff_right hi)) rfl rfl
  case refine_6 =>
    rintro ofs data be a s rfl hs hd hr
    exact ⟨_, bar2Write_nothing data be hs hd, rb_setB hr _ _ (by decide),
      (OnlyRegs.refl _ s).setB (List.mem_singleton_self _) 0⟩
  case refine_7 =>
    intro v s hr h
    have hq : R.HOST_AUX_CTL ≠ R.HOST_AUX_TAIL := by decide
    have hc (w : Word) : s.OnlyRegs [R.HOST_AUX_CTL, R.HOST_AUX_TAIL] (s.wr R.HOST_AUX_CTL w) :=
      (OnlyRegs.refl _ s).wr (List.mem_cons_self ..) w
    cases v with
    | false =>
      refine ⟨_, auxEnable_off s, ?_, fun h => absurd h (by decide), hc 0⟩
      rw [rb, rd_wr hr]
      rfl
    | true =>
      refine ⟨_, auxEnable_on h, ?_, fun _ => ⟨rfl, ?_⟩,
        ((hc 1).wr (List.mem_cons_of_mem _ (List.mem_cons_self ..)) 0).host (upHost_frame _ _)⟩
      · rw [rb, upHost_rd, rd_wr_ne _ _ hq, rd_wr hr]
        rfl
      · rw [upHost_rd, rd_wr (regsWf_wr hr _ _)]
  case refine_8 =>
    intro s hr
    have hz : ∀ a ∈ [R.HOST_WIN_LO, R.HOST_WIN_HI, R.HOST_VEC0, R.HOST_VEC1, R.HOST_AUX_CTL, R.MBX_IRQ_EN],
        s.afterFlr.rd a = 0 := fun a ha => afterFlr_rd hr (List.mem_append_left _ ha)
    exact ⟨_, flr_next s, rfl, hz _ (by decide), hz _ (by decide), hz _ (by decide), hz _ (by decide), hz _ (by decide),
      hz _ (by decide), afterFlr_dma hr, afterFlr_hist s, afterFlr_frame s⟩
  case refine_9 =>
    intro i s
    obtain ⟨h, he, hid, hby, hpins⟩ := tapInstruction_frame i s
    exact ⟨_, he, rfl, hid, hby, hpins⟩
  case refine_10 =>
    intro p addr hi s ho hl
    obtain ⟨l, he⟩ := latchRead_lo p s hl
    refine ⟨_, (loReadLatch_plain ho (loPair_plain hl)).trans (congrArg _ he), rfl, ?_, rfl⟩
    simp
  case refine_11 =>
    intro p addr i r v s ho hb hl hf
    obtain ⟨l, he⟩ := latchRead_hi hl hf
    exact ⟨_, (loReadLatch_plain ho fun _ _ => by simp [hb]).trans (congrArg _ he), rfl, rfl⟩
  case refine_12 =>
    intro p addr i r w v s ho hu hb hw hr
    exact ⟨_, registerWrite_eth v ho hu hb hw, (OnlyRegs.refl _ s).wr (List.mem_singleton_self _) _, rd_wr hr _ _⟩

end Sys2Proof.Machine
end

section
/-! SUPPORT. The state right after reset, and O3 from it (R31, R205, R491). -/

namespace Sys2Proof.Machine

/-- No LGATE is high after reset: the device is neither in RUN nor in IDLE (R196, R205). -/
theorem reset_lgate (b : Beam) : State.reset.lgate b = false := by
  have h : State.reset.gateFree b = false := by
    unfold State.gateFree
    rw [Bool.and_eq_false_iff]
    exact .inr rfl
  rw [State.lgate, State.gateAllowed, h]
  rfl

/-- Settles O3: each clause reads a field of the record that reset is. -/
theorem resetState : Obligations.ResetState := by
  have hbe (b : Beam) : State.reset.be[b] = State.resetBeam b.val := Vector.getElem_ofFn _
  have hjs (n : Slot) : State.reset.js n = State.resetSlot := Vector.getElem_replicate _
  unfold Obligations.ResetState
  refine ⟨⟨rfl, rfl, rfl, rfl, rfl, rfl, fun n => ?_, fun b => ⟨?_, ?_, reset_lgate b⟩, fun _ => rfl, rfl, rfl⟩, trivial, trivial⟩
  · rw [hjs]
    exact ⟨rfl, rfl⟩
  · rw [hbe]
    rfl
  · rw [hbe]
    rfl

end Sys2Proof.Machine
end

section
/-! SUPPORT. What a slot shows, and what a change of a job's state leaves alone (R39, R163). -/

namespace Sys2Proof.Machine

namespace State

/-! What a slot shows: its registers from 0x031000 on (R163). -/

/-- `t` differs from `s` in registers from those of the slots on at most. -/
def SlotRegs (s t : State) : Prop := { t with regs := s.regs } = s ∧ ∀ a < 0x031000, t.rd a = s.rd a

theorem SlotRegs.wr {s t : State} (h : s.SlotRegs t) {a : Nat} (ha : 0x031000 ≤ a) (v : Word) : s.SlotRegs (t.wr a v) :=
  ⟨h.1, fun q hq => (rd_wr_ne t v (Nat.ne_of_lt (hq.trans_le ha))).trans (h.2 q hq)⟩

theorem slotReg_le {k : Nat} (h : 0x031000 ≤ k) (x : Nat) : 0x031000 ≤ k + x := h.trans (Nat.le_add_right k x)

theorem showSlot_slotRegs (n : Slot) (s : State) : s.SlotRegs (s.showSlot n) := by
  unfold showSlot
  extract_lets j i live k timed d loc aux proc s₁ s₂ s₃
  have h₀ : s.SlotRegs s := ⟨rfl, fun _ _ => rfl⟩
  have h₁ : s.SlotRegs s₁ := (((h₀.wr (slotReg_le (by decide) _) _).wr (slotReg_le (by decide) _) _).wr
    (slotReg_le (by decide) _) _).wr (slotReg_le (by decide) _) _
  have h₂ : s.SlotRegs s₂ := (((h₁.wr (slotReg_le (by decide) _) _).wr (slotReg_le (by decide) _) _).wr
    (slotReg_le (by decide) _) _).wr (slotReg_le (by decide) _) _
  have h₃ : s.SlotRegs s₃ := (((h₂.wr (slotReg_le (by decide) _) _).wr (slotReg_le (by decide) _) _).wr
    (slotReg_le (by decide) _) _).wr (slotReg_le (by decide) _) _
  refine each_ind s.SlotRegs _ _ (fun b _ t h => ?_) s₃ h₃
  exact (((h.wr (slotReg_le (slotReg_le (by decide) _) _) _).wr (slotReg_le (slotReg_le (by decide) _) _) _).wr
    (slotReg_le (slotReg_le (by decide) _) _) _).wr (slotReg_le (slotReg_le (by decide) _) _) _

theorem showSlot_job (n : Slot) (s : State) : (s.showSlot n).job = s.job := by
  have h := congrArg State.job (showSlot_slotRegs n s).1
  exact h

theorem upSlot_js (n : Slot) (f : JobSlot → JobSlot) (s : State) : (s.upSlot n f).js n = f (s.js n) :=
  vupd_get_same _ _ _

theorem upSlot_js_ne {n k : Slot} (f : JobSlot → JobSlot) (s : State) (h : k ≠ n) : (s.upSlot n f).js k = s.js k :=
  vupd_get_ne _ _ h

/-- Slots read from the job block alone. -/
theorem js_congr {s t : State} (h : t.job = s.job) (n : Slot) : t.js n = s.js n := congrArg (fun q : JobBlock => q.slot[n]) h

end State
/-- `k` is `j` but for what the slot shows of its beams and its SEQ. -/
def JobSlot.SameBut (j k : JobSlot) : Prop := { k with bTime := j.bTime, bStrokes := j.bStrokes, seq := j.seq } = j

theorem JobSlot.SameBut.refl (j : JobSlot) : j.SameBut j := rfl

section
variable {j k : JobSlot} (h : j.SameBut k)
include h

theorem JobSlot.SameBut.get {α : Type} (g : JobSlot → α) :
    g { k with bTime := j.bTime, bStrokes := j.bStrokes, seq := j.seq } = g j := congrArg g h

theorem JobSlot.SameBut.st : k.st = j.st := h.get JobSlot.st
theorem JobSlot.SameBut.promise : k.promise = j.promise := h.get JobSlot.promise
theorem JobSlot.SameBut.s : k.s = j.s := h.get JobSlot.s
theorem JobSlot.SameBut.armAt : k.armAt = j.armAt := h.get JobSlot.armAt
theorem JobSlot.SameBut.commitAt : k.commitAt = j.commitAt := h.get JobSlot.commitAt
theorem JobSlot.SameBut.withdrawn : k.withdrawn = j.withdrawn := h.get JobSlot.withdrawn
theorem JobSlot.SameBut.remainder : k.remainder = j.remainder := h.get JobSlot.remainder
theorem JobSlot.SameBut.desc : k.desc = j.desc := h.get JobSlot.desc

end

theorem JobSlot.SameBut.trans {j k l : JobSlot} (h : j.SameBut k) (g : k.SameBut l) : j.SameBut l := by
  unfold JobSlot.SameBut at *
  exact (congrArg (fun x : JobSlot => { x with bTime := j.bTime, bStrokes := j.bStrokes, seq := j.seq }) g).trans h

namespace State

/-! What a change of a job's state leaves alone (R39, R163). -/

/-- `t` differs from `s` in slot `n`, registers, the recorder and the host interface at most. -/
def Told (n : Slot) (s t : State) : Prop :=
  { t with job := s.job, regs := s.regs, recd := s.recd, host := s.host } = s ∧ { t.job with slot := s.job.slot } = s.job ∧
    ∀ k : Slot, k ≠ n → t.js k = s.js k

theorem Told.refl (n : Slot) (s : State) : Told n s s := ⟨rfl, rfl, fun _ _ => rfl⟩

theorem Told.trans {n : Slot} {s t u : State} (h : Told n s t) (g : Told n t u) : Told n s u := by
  obtain ⟨h1, h2, h3⟩ := h
  obtain ⟨g1, g2, g3⟩ := g
  exact ⟨(congrArg (fun x : State => { x with job := s.job, regs := s.regs, recd := s.recd, host := s.host }) g1).trans h1,
    (congrArg (fun x : JobBlock => { x with slot := s.job.slot }) g2).trans h2, fun k hk => (g3 k hk).trans (h3 k hk)⟩

/-- A change of registers, the recorder and the host interface. -/
theorem Told.of_mask {n : Slot} {s t : State} (h : { t with regs := s.regs, recd := s.recd, host := s.host } = s) :
    Told n s t := by
  have hj : t.job = s.job := by have e := congrArg State.job h; exact e
  exact ⟨(congrArg (fun x : State => { x with job := s.job }) h), congrArg (fun x : JobBlock => { x with slot := s.job.slot }) hj,
    fun k _ => js_congr hj k⟩

theorem upSlot_told (n : Slot) (f : JobSlot → JobSlot) (s : State) : Told n s (s.upSlot n f) :=
  ⟨rfl, rfl, fun _ hk => upSlot_js_ne f s hk⟩

theorem showSlot_told (n : Slot) (s : State) : Told n s (s.showSlot n) :=
  .of_mask (congrArg (fun x : State => { x with recd := s.recd, host := s.host }) (showSlot_slotRegs n s).1)

theorem showSlot_js (n k : Slot) (s : State) : (s.showSlot n).js k = s.js k := js_congr (showSlot_job n s) k

theorem syncBeams_told (n : Slot) (s : State) : Told n s (s.syncBeams n) ∧ (s.js n).SameBut ((s.syncBeams n).js n) := by
  have h₀ : Told n s s ∧ (s.js n).SameBut (s.js n) := ⟨Told.refl n s, .refl _⟩
  unfold syncBeams
  extract_lets j
  split
  · refine each_ind (fun t => Told n s t ∧ (s.js n).SameBut (t.js n)) _ _ (fun b _ t h => ?_) s h₀
    dsimp only
    split
    · refine ⟨h.1.trans (upSlot_told n _ t), h.2.trans ?_⟩
      rw [upSlot_js]
      rfl
    · exact h
  · exact h₀

theorem publish_told (n : Slot) (s : State) : Told n s (s.publish n) ∧ (s.js n).SameBut ((s.publish n).js n) ∧
    ((s.publish n).js n).seq = (((s.syncBeams n).js n).seq + 1) % 128 := by
  obtain ⟨h, g⟩ := syncBeams_told n s
  unfold publish
  refine ⟨(h.trans (upSlot_told n _ _)).trans (showSlot_told n _), g.trans ?_, ?_⟩ <;> rw [showSlot_js, upSlot_js]
  rfl

theorem jobRecord_mask (n : Slot) (s : State) :
    { s.jobRecord n with regs := s.regs, recd := s.recd, host := s.host } = s := record_frame s _ _

theorem jobChange_told (n : Slot) (f : JobSlot → JobSlot) (s : State) : Told n s (s.jobChange n f) ∧
    ∃ k, (s.js n).SameBut k ∧ (f k).SameBut ((s.jobChange n f).js n) := by
  obtain ⟨h₁, g₁⟩ := syncBeams_told n s
  have hu := upSlot_js n f (s.syncBeams n)
  obtain ⟨h₂, g₂, -⟩ := publish_told n ((s.syncBeams n).upSlot n f)
  rw [hu] at g₂
  unfold jobChange
  generalize ((s.syncBeams n).upSlot n f).publish n = u at h₂ g₂
  have h₃ : Told n u (u.jobRecord n) := .of_mask (jobRecord_mask n u)
  have j₃ : (u.jobRecord n).job = u.job := by have e := congrArg State.job (jobRecord_mask n u); exact e
  generalize u.jobRecord n = v at h₃ j₃
  have hi := irq_frame v R.JOB_IRQ_STATUS R.JOB_IRQ_EN 1 n.val
  have h₄ : Told n v (v.irq R.JOB_IRQ_STATUS R.JOB_IRQ_EN 1 n.val) :=
    .of_mask (congrArg (fun x : State => { x with recd := v.recd }) hi)
  have j₄ : (v.irq R.JOB_IRQ_STATUS R.JOB_IRQ_EN 1 n.val).job = v.job := by have e := congrArg State.job hi; exact e
  refine ⟨(((h₁.trans (upSlot_told n f _)).trans h₂).trans h₃).trans h₄, _, g₁, ?_⟩
  rw [js_congr j₄, js_congr j₃]
  exact g₂

/-- What is told of a slot leaves these. -/
theorem Told.kept {n : Slot} {s t : State} (h : Told n s t) : t.be = s.be ∧ t.mem = s.mem ∧ t.dev = s.dev ∧ t.tick = s.tick ∧
    t.twin = s.twin ∧ t.job.queue = s.job.queue := by
  obtain ⟨h1, h2, -⟩ := h
  have e1 := congrArg State.be h1
  have e2 := congrArg State.mem h1
  have e3 := congrArg State.dev h1
  have e4 := congrArg State.tick h1
  have e5 := congrArg State.twin h1
  have e6 := congrArg JobBlock.queue h2
  exact ⟨e1, e2, e3, e4, e5, e6⟩

/-- The end of a change of a job's state: the device state brought up to date. -/
theorem refresh_js (cause : Nat) (n : Slot) (s : State) : (s.refresh cause).js n = s.js n := js_congr (refresh_job s cause) n

end State

end Sys2Proof.Machine
end

section
/-! SUPPORT. BOOT and RESET: what each part of the work of BOOT leaves, and O5 from it (R31, R49, R205, R431, R476). -/

namespace Sys2Proof.Machine

namespace State

/-! What leaves the device record, the tick and the jobs alone. -/

/-- `t` has the device record, the tick and the jobs of `o`. -/
def Steady (o t : State) : Prop := t.dev = o.dev ∧ t.tick = o.tick ∧ t.job = o.job

theorem Steady.refl (o : State) : o.Steady o := ⟨rfl, rfl, rfl⟩

theorem Steady.trans {o s t : State} (h : o.Steady s) (g : s.Steady t) : o.Steady t := 
  ⟨g.1.trans h.1, g.2.1.trans h.2.1, g.2.2.trans h.2.2⟩

/-- A frame of other fields leaves them. -/
theorem Steady.of_frame {s t u : State} (h : u = s) (hd : t.dev = u.dev) (ht : t.tick = u.tick) (hj : t.job = u.job) :
    s.Steady t := h ▸ ⟨hd, ht, hj⟩

theorem Steady.ite {o s t : State} {c : Prop} [Decidable c] (hs : o.Steady s) (ht : o.Steady t) :
    o.Steady (if c then s else t) := by
  split
  · exact hs
  · exact ht

theorem Steady.each {o s : State} {α : Type} (l : List α) {f : α → State → State} (hf : ∀ (a : α) (t : State), t.Steady (f a t))
    (h : o.Steady s) : o.Steady (s.each l f) :=
  each_ind o.Steady l f (fun a _ t k => k.trans (hf a t)) s h

variable (s : State)

theorem assigned_steady (src : Nat) : s.Steady (s.assigned src) :=
  .of_frame (assigned_frame s src) rfl rfl rfl

theorem wr_steady (a : Nat) (v : Word) : s.Steady (s.wr a v) := ⟨rfl, rfl, rfl⟩

theorem irq_steady (st en v i : Nat) : s.Steady (s.irq st en v i) :=
  .of_frame (irq_frame s st en v i) rfl rfl rfl

theorem record_steady (ty : Nat) (p : List Byte) : s.Steady (s.record ty p) :=
  .of_frame (record_frame s ty p) rfl rfl rfl

theorem wrBytes_steady (a : Nat) (l : List Byte) : s.Steady (s.wrBytes a l) :=
  .of_frame (wrBytes_frame l s a) rfl rfl rfl

theorem upPort_steady (p : Port) (f : PortSt → PortSt) : s.Steady (s.upPort p f) :=
  .of_frame (upPort_frame s p f) rfl rfl rfl

theorem withEmit_steady {o : State} {f : State → State} (h : o.Steady (f s)) : o.Steady (s.withEmit f) :=
  h.trans (.of_frame (withEmit_onlyLight (s := s) f rfl) rfl rfl rfl)

/-! The work of BOOT (R476). -/

theorem wordOff_steady (b : Beam) : s.Steady (s.wordOff b) := by
  unfold wordOff
  extract_lets is_
  split
  · exact Steady.refl s
  · split
    · exact Steady.ite (Steady.refl s) ⟨rfl, rfl, rfl⟩
    · exact Steady.refl s

theorem ilkSet_steady : s.Steady s.ilkSet := by
  have h : s.Steady (s.withEmit fun t => t.upLdc fun l => { l with latch := true }) := withEmit_steady s ⟨rfl, rfl, rfl⟩
  exact (Steady.each (List.finRange 16) (fun b t => wordOff_steady t b) h).trans (wr_steady _ _ _)

theorem loadCb_steady : s.Steady s.loadCb := by
  unfold loadCb
  split
  · exact ⟨rfl, rfl, rfl⟩
  · dsimp -zeta only
    extract_lets n u
    have h : s.Steady u := ⟨rfl, rfl, rfl⟩
    exact (h.trans (wr_steady _ _ _)).trans (record_steady _ _ _)

theorem recoverRing_steady (k : Nat) : ∀ s : State, s.Steady (recoverRing k s) := by
  induction k with
  | zero => exact Steady.refl
  | succ k ih =>
    intro s
    exact Steady.ite (Steady.trans ⟨rfl, rfl, rfl⟩ (ih _)) (Steady.refl s)

theorem recoverCairn_steady (k : Nat) : ∀ s : State, s.Steady (recoverCairn k s) := by
  induction k with
  | zero => exact Steady.refl
  | succ k ih =>
    intro s
    exact Steady.ite (Steady.trans ⟨rfl, rfl, rfl⟩ (ih _)) (Steady.refl s)

theorem recoverTorn_steady (cairn : Bool) : s.Steady (s.recoverTorn cairn) := by
  unfold recoverTorn
  extract_lets base size h len t₁ t₂ t₃
  have h₁ : s.Steady t₁ := wrBytes_steady s _ _
  have h₂ : s.Steady t₂ := h₁.trans ⟨rfl, rfl, rfl⟩
  have h₃ : s.Steady t₃ := (h₂.trans (wr_steady _ _ _)).trans (irq_steady _ _ _ _ _)
  exact Steady.ite (h₃.trans (record_steady _ _ _)) (Steady.refl s)

theorem recoverMram_steady : s.Steady s.recoverMram := by
  unfold recoverMram
  exact Steady.ite (Steady.refl s) ((((recoverRing_steady _ s).trans (recoverCairn_steady _ _)).trans
    (recoverTorn_steady _ _)).trans (recoverTorn_steady _ _))

theorem restoreCal_steady : s.Steady s.restoreCal := by
  refine Steady.each _ (fun x t => ?_) ⟨rfl, rfl, rfl⟩
  have h : t.Steady (t.each x.2.zipIdx fun y u => u.wr (R.CAL_Pn_Wp x.1 y.2) (w32 y.1)) :=
    Steady.each _ (fun y u => wr_steady u _ _) (Steady.refl t)
  exact h.trans ⟨rfl, rfl, rfl⟩

theorem patchBoot_steady : s.Steady s.patchBoot :=
  Steady.ite (Steady.refl s) (Steady.trans ⟨rfl, rfl, rfl⟩ (record_steady _ _ _))

theorem upTime_steady (f : TimeBase → TimeBase) : s.Steady (s.upTime f) := ⟨rfl, rfl, rfl⟩

theorem ddrBoot_steady : s.Steady s.ddrBoot := by
  unfold ddrBoot
  split
  · exact Steady.refl s
  · exact (((wr_steady s _ _).trans (wr_steady _ _ _)).trans (wr_steady _ _ _)).trans (upTime_steady _ _)

theorem cfgPost_steady (p : Port) (code : Nat) : s.Steady (s.cfgPost p code) := by
  unfold cfgPost
  split
  · exact Steady.refl s
  · have h := upPort_steady s p fun x => { x with cfg := none }
    exact Steady.ite h ((h.trans (wr_steady _ _ _)).trans (wr_steady _ _ _))

theorem onLanes_steady (l : List Nat) (f : LaneSt → LaneSt) : s.Steady (s.onLanes l f) := ⟨rfl, rfl, rfl⟩

theorem portTrain_steady (p : Port) (full : Bool) : s.Steady (s.portTrain p full) := by
  have h : s.Steady (s.portClear p) := (cfgPost_steady s p 5).trans (upPort_steady _ _ _)
  unfold portTrain
  extract_lets t half l
  split
  · exact (h.trans ((onLanes_steady t _ _).trans (onLanes_steady _ _ _))).trans (upPort_steady _ _ _)
  · exact h

theorem portsBoot_steady : s.Steady s.portsBoot := by
  refine Steady.each _ (fun x t => ?_) (Steady.refl s)
  have h := wr_steady t (R.PORTp_CTL x.1) (x.2 ||| 0x08000000#32)
  dsimp only
  split
  · exact h.trans (portTrain_steady _ _ _)
  · exact h

/-- BOOT is entered: the clock starts from 0. -/
theorem enterBoot_steady :
    ({ s with tick := 0, dev := { s.dev with state := .boot, prev := .reset, stateFrc := 0 } } : State).Steady s.enterBoot := by
  unfold enterBoot
  extract_lets d cause s₁ s₂ s₃ s₄ s₅ s₆ s₇ s₈
  have h₃ : s₂.Steady s₃ := ⟨rfl, rfl, rfl⟩
  have h₄ : s₃.Steady s₄ := ifc_ind s₃ s₃.Steady _ _ (Steady.refl s₃) fun _ => ilkSet_steady s₃
  have h₅ : s₄.Steady s₅ := loadCb_steady s₄
  have h₇ : s₅.Steady s₇ := ⟨rfl, rfl, rfl⟩
  have h₈ : s₇.Steady s₈ := ((recoverMram_steady s₇).trans (record_steady _ _ _)).trans (record_steady _ _ _)
  have hb := (((restoreCal_steady s₈).trans (patchBoot_steady _)).trans (ddrBoot_steady _)).trans (portsBoot_steady _)
  exact ((((h₃.trans h₄).trans h₅).trans h₇).trans h₈).trans hb

end State
namespace State

variable (s : State)

/-! A step of BOOT that fails (R431, R476). -/

theorem setSticky_dev (cause : Nat) : (s.setSticky cause).dev = { s.dev with sticky := true } := by
  unfold setSticky
  split
  next h => rw [← h]
  · exact (irq_steady _ _ _ _ _).1

/-- What a failed step of BOOT shows in the device record. -/
def bootFailedAt (step : Nat) (t : State) : Prop := t.dev.bootFailed = true ∧ t.dev.bootStep = step ∧ t.dev.sticky = true

theorem bootBreak_dev {s : State} (step : Nat) (hb : s.dev.state = .boot) (hf : s.dev.bootFailed = false) :
    (s.bootBreak step).bootFailedAt step := by
  unfold bootBreak
  rw [if_neg (by simp [hb, hf])]
  extract_lets s₁ s₂
  have h₂ : s₁.Steady s₂ := Steady.ite (wr_steady _ _ _) (Steady.refl _)
  have hs (c : Nat) : (s₂.setSticky c).bootFailedAt step := by
    unfold bootFailedAt
    rw [setSticky_dev, h₂.1]
    exact ⟨rfl, rfl, rfl⟩
  exact ifc_ind _ (bootFailedAt step) _ _ (hs _) fun h => h

theorem bootFail_dev {s : State} (step : Nat) (hb : s.dev.state = .boot) (hf : s.dev.bootFailed = false) :
    (s.bootFail step).bootFailedAt step :=
  ifc_ind _ (bootFailedAt step) _ _ (ifc_ind _ (bootFailedAt step) _ _ (bootBreak_dev step hb hf) fun h => h) fun h => h

/-! The end of BOOT (R31, R205, R476). -/

/-- Bringing the device state up to date leaves the rest of the device record but for what a transition notes. -/
theorem refresh_dev (cause : Nat) : { (s.refresh cause).dev with
    state := s.dev.state, prev := s.dev.prev, stateFrc := s.dev.stateFrc, holdCause := s.dev.holdCause } = s.dev := by
  unfold refresh
  dsimp only
  split
  · rfl
  · rw [record_dev]
    rfl

theorem refresh_tick (cause : Nat) : (s.refresh cause).tick = s.tick := by
  have h := congrArg State.tick (refresh_frame s cause)
  exact h

theorem refresh_ldc (cause : Nat) : (s.refresh cause).ldc = s.ldc := by
  have h := congrArg State.ldc (refresh_frame s cause)
  exact h

/-- A booted device without a reset, BELAY or a job is IDLE. -/
theorem devState_idle {t : State} (hr : t.dev.rstLow = false) (hv : t.dev.belowVreset = false) (hb : t.dev.booted = true)
    (hi : t.dev.inBelay = false) (hj : ∀ n : Slot, (t.js n).st = .empty) : t.devState = .idle := by
  simp [devState, hr, hv, hb, hi, hj]

/-- `t` has the tick, the memory, the jobs, the engines, the device and light-path records, the fault hub and the reports of
`o`. -/
def Still (o t : State) : Prop := t.dev = o.dev ∧ t.tick = o.tick ∧ t.job = o.job ∧ t.hub = o.hub ∧ t.pending = o.pending ∧
  t.mem = o.mem ∧ t.be = o.be ∧ t.ldc = o.ldc

theorem Still.refl (o : State) : o.Still o := ⟨rfl, rfl, rfl, rfl, rfl, rfl, rfl, rfl⟩

theorem Still.trans {o s t : State} (h : o.Still s) (g : s.Still t) : o.Still t := by
  obtain ⟨h1, h2, h3, h4, h5, h6, h7, h8⟩ := h
  obtain ⟨g1, g2, g3, g4, g5, g6, g7, g8⟩ := g
  exact ⟨g1.trans h1, g2.trans h2, g3.trans h3, g4.trans h4, g5.trans h5, g6.trans h6, g7.trans h7, g8.trans h8⟩

/-- A mask of other fields leaves them. -/
theorem Still.of_mask {s t u : State} (h : u = s) (g : u.Still t) : s.Still t := h ▸ g

theorem record_still (ty : Nat) (p : List Byte) : s.Still (s.record ty p) :=
  .of_mask (record_frame s ty p) ⟨rfl, rfl, rfl, rfl, rfl, rfl, rfl, rfl⟩

theorem upTime_still (f : TimeBase → TimeBase) : s.Still (s.upTime f) := ⟨rfl, rfl, rfl, rfl, rfl, rfl, rfl, rfl⟩

/-- What a change of conditions shows in the light leaves the rest. -/
theorem withEmit_still (f : State → State) : (f s).Still (s.withEmit f) :=
  .of_mask (withEmit_onlyLight (s := s) f rfl) ⟨rfl, rfl, rfl, rfl, rfl, rfl, rfl, rfl⟩

theorem dlStart_still : s.Still s.dlStart := by
  unfold dlStart shp
  split
  · exact Still.refl s
  · exact ⟨rfl, rfl, rfl, rfl, rfl, rfl, rfl, rfl⟩

/-- The block boots: booted, and out of BOOT into the state that R31 gives, with LASER_KILL_N released where nothing was
latched in class F. -/
theorem bootDone_spec : s.bootDone.dev.booted = true ∧ s.bootDone.tick = s.tick ∧
    (s.dev.rstLow = false → s.dev.belowVreset = false → s.dev.inBelay = false → (∀ n : Slot, (s.js n).st = .empty) →
      s.bootDone.dev.state = .idle) ∧ (s.hub.latch[2].seq = 0 → s.bootDone.ldc.kill = false) := by
  unfold bootDone
  dsimp -zeta only
  extract_lets ch s₁ n sd width s₂ s₃ s₄ s₅ v s₆
  let s₇ := s₆.upDev fun d => { d with booted := true }
  have b₄ : s.Still s₄ := ifc_ind _ s.Still _ _ ((show s.Still s₃ from ⟨rfl, rfl, rfl, rfl, rfl, rfl, rfl, rfl⟩).trans
    (record_still _ _ _)) fun h => h.trans (dlStart_still _)
  obtain ⟨hd₄, ht₄, hj₄, hh₄, -⟩ := b₄
  have e₅ : s₄.Steady s₅ ∧ (s.hub.latch[2].seq = 0 → s₅.ldc.kill = false) := by
    obtain ⟨hd, ht, hj, -, -, -, -, hl⟩ := s₄.withEmit_still fun t => t.upLdc fun l => { l with kill := false, cause := 0 }
    unfold s₅
    rw [hh₄]
    split
    · exact ⟨⟨hd, ht, hj⟩, fun _ => congrArg (·.kill) hl⟩
    next h => exact ⟨Steady.refl _, fun g => absurd g h⟩
  obtain ⟨h₅, k₅⟩ := e₅
  have e₆ : s₅.Steady s₆ ∧ s₆.ldc = s₅.ldc :=
    ifc_ind s₅ (fun t => s₅.Steady t ∧ t.ldc = s₅.ldc) _ _ ⟨Steady.refl _, rfl⟩ fun h => h
  obtain ⟨h₆, l₆⟩ := e₆
  obtain ⟨hd, ht, hj⟩ : s.Steady s₆ := (Steady.trans ⟨hd₄, ht₄, hj₄⟩ h₅).trans h₆
  have d₇ : s₇.dev = { s.dev with booted := true } := congrArg (fun d : Dev => { d with booted := true }) hd
  refine ⟨?_, (refresh_tick _ _).trans ht, fun hr hv hi hs => ?_, fun h => ?_⟩
  · exact (congrArg (·.booted) (refresh_dev s₇ 0)).trans (congrArg (·.booted) d₇)
  · rw [refresh_state]
    refine devState_idle ?_ ?_ ?_ ?_ fun n => ?_
    · rw [d₇]
      exact hr
    · rw [d₇]
      exact hv
    · rw [d₇]
    · rw [d₇]
      exact hi
    · exact (congrArg (fun q : JobBlock => (q.slot[n]).st) hj).trans (hs n)
  · rw [refresh_ldc]
    exact (congrArg (·.kill) l₆).trans (k₅ h)

/-! A tick in RESET (R49). -/

theorem applySet_still : s.Still s.applySet := by
  unfold applySet
  split
  · exact Still.refl s
  · exact (upTime_still s _).trans (record_still _ _ _)

theorem oscEdge_still : s.Still s.oscEdge := by
  unfold oscEdge
  extract_lets r s₁ s₂
  have h₂ : s₁.Still s₂ := by
    unfold s₂
    split
    · exact ⟨rfl, rfl, rfl, rfl, rfl, rfl, rfl, rfl⟩
    · exact Still.refl s₁
  exact ((upTime_still s _).trans h₂).trans (applySet_still _)

theorem oscTick_still : s.Still s.oscTick := by
  unfold oscTick
  extract_lets s₁ r p t
  have h₁ : s.Still s₁ := upTime_still s _
  split
  · exact h₁
  · have h : s.Still t := h₁.trans (upTime_still s₁ _)
    split
    · exact h
    · exact h.trans (oscEdge_still t)

end State

/-- Settles O5: what RESET restores is read off its record; BOOT and its end through what each part of the work leaves. -/
theorem bootAndReset : Obligations.BootAndReset := by
  unfold Obligations.BootAndReset
  refine ⟨⟨fun s => ?_, fun s hr hv => ?_, fun step s hb hf h0 => ?_, fun s hb hf ht hi hr hv hj => ?_⟩, fun s hp hh hr => ?_⟩
  · refine ⟨_, rfl, rfl, rfl, rfl, rfl, fun b => ?_, rfl, rfl, rfl, rfl, rfl⟩
    exact congrArg BeamEng.gates (Vector.getElem_ofFn (f := fun i : Fin 16 => State.resetBeam i.val) b.isLt)
  · obtain ⟨hd, ht, -⟩ := State.enterBoot_steady (s.upDev fun d => { d with rstLow := false })
    have hl : (s.upDev fun d => { d with rstLow := false }).leaveReset =
        (s.upDev fun d => { d with rstLow := false }).enterBoot := if_pos ⟨hr, rfl, by simp [hv]⟩
    refine ⟨_, rfl, ?_, ?_, ?_⟩ <;> rw [hl]
    · rw [hd]
    · rw [hd]
      rfl
    · exact ht
  · have h := State.bootFail_dev step.val hb hf
    refine ⟨s.bootFail step.val, congrArg Host.Outcome.next (if_pos ⟨hb, ?_, ?_⟩), h⟩
    · simp [hf]
    · exact fun e => h0 (Fin.ext e)
  · obtain ⟨h1, h2, h3, h4⟩ := s.bootDone_spec
    refine ⟨s.bootDone, ?_, h1, h3 hr hv hi hj, h2, h4⟩
    change execBootComplete s = _
    unfold execBootComplete
    rw [if_neg (by simp [hb, hf]), if_pos ht]
  · obtain ⟨h1, h2, h3, -, h5, h6, h7, h8⟩ := s.oscTick_still
    refine ⟨s.oscTick, ?_, h5.trans hp, h2, h6, h3, h7, h1, h8⟩
    simp [step, hp, State.idle, hh, hr]

end Sys2Proof.Machine
end

section
/-! SUPPORT. Time domains and the device times reported, and O52 from them (R24, R51 to R53, R56, R57). -/

namespace Sys2Proof.Machine

namespace State

/-! Time as it is read: a domain's registers, its record and the tick (R51, R56). -/

/-- `t` has the time base, the tick and the registers below the slots' of `s`. -/
def TimeAlike (s t : State) : Prop := t.time = s.time ∧ t.tick = s.tick ∧ ∀ a < 0x030000, t.rd a = s.rd a

theorem timeReg_lt {k : Nat} (h : k + 0x100 < 0x030000) (d : Dom) : k + domIx d * 0x100 < 0x030000 := by
  cases d <;> simp only [domIx] <;> omega

/-- A correction reads OFS, RATE and the record of its domain. -/
theorem corr_congr {s t : State} {d : Dom} {f : Word} (ho : t.rd (R.TIME_AB_OFS (domIx d)) = s.rd (R.TIME_AB_OFS (domIx d)))
    (hr : t.rd (R.TIME_AB_RATE (domIx d)) = s.rd (R.TIME_AB_RATE (domIx d))) (hd : t.dom d = s.dom d) :
    t.corr d f = s.corr d f := by
  unfold corr ofs State.rate
  rw [ho, hr, hd]

theorem tOf_congr {s t : State} {d : Dom} {f : Word} (h : t.corr d f = s.corr d f) : t.tOf d f = s.tOf d f :=
  congrArg (fun c => f + i32 (rshr c 40)) h

section
variable {s t : State} (h : s.TimeAlike t)
include h

theorem TimeAlike.frc : t.frc = s.frc := congrArg w32 h.2.1

theorem TimeAlike.rate (d : Dom) : t.rate d = s.rate d := congrArg BitVec.toInt (h.2.2 _ (timeReg_lt (by decide) d))

theorem TimeAlike.dom (d : Dom) : t.dom d = s.dom d := by
  cases d
  · exact congrArg TimeBase.a h.1
  · exact congrArg TimeBase.b h.1

theorem TimeAlike.tOf (d : Dom) (f : Word) : t.tOf d f = s.tOf d f :=
  tOf_congr (corr_congr (h.2.2 _ (timeReg_lt (by decide) d)) (h.2.2 _ (timeReg_lt (by decide) d)) (h.dom d))

theorem TimeAlike.bell : t.bell = s.bell := by
  unfold State.bell rb
  rw [h.2.2 _ (by decide)]

theorem TimeAlike.dtAt (f : Word) : t.dtAt f = s.dtAt f := by
  unfold State.dtAt resid
  rw [h.bell, h.tOf, h.1]

theorem TimeAlike.trans {u : State} (g : t.TimeAlike u) : s.TimeAlike u :=
  ⟨g.1.trans h.1, g.2.1.trans h.2.1, fun a ha => (g.2.2 a ha).trans (h.2.2 a ha)⟩

end

theorem TimeAlike.refl (s : State) : s.TimeAlike s := ⟨rfl, rfl, fun _ _ => rfl⟩

/-! The device times that a slot reports (R24). -/

/-- A slot's reported device times formed anew. -/
def datesOf (s : State) (s0 : Nat) (j : JobSlot) : JobSlot :=
  { j with
    dtStart := if s.tick < j.startAt then s.dtAt (w32 j.startAt) else j.dtStart
    dtFin := if s.tick < s0 + (j.promise.map (·.jtFin)).getD 0 then s.dtAt (w32 (s0 + (j.promise.map (·.jtFin)).getD 0))
      else j.dtFin }

theorem redateSlot_timeAlike (n : Slot) (s : State) : s.TimeAlike (s.redateSlot n) := by
  have h (f : JobSlot → JobSlot) : s.TimeAlike ((s.upSlot n f).showSlot n) := by
    obtain ⟨hr, ha⟩ := showSlot_slotRegs n (s.upSlot n f)
    exact ⟨by have e := congrArg State.time hr; exact e, by have e := congrArg State.tick hr; exact e,
      fun a h => ha a (h.trans (by decide))⟩
  unfold redateSlot
  extract_lets j a
  split
  · exact TimeAlike.refl s
  · extract_lets fin f
    split
    · exact TimeAlike.refl s
    · exact h _

/-- A slot without S reports no device times. -/
theorem redateSlot_none {n : Slot} {s : State} (h : (s.js n).s = none) : s.redateSlot n = s := by
  unfold redateSlot
  dsimp only
  rw [h, ite_self]

theorem redateSlot_js {n : Slot} {s : State} {s0 : Nat} (ha : (s.js n).st = .armed) (hs : (s.js n).s = some s0) :
    (s.redateSlot n).js n = s.datesOf s0 (s.js n) := by
  unfold redateSlot
  extract_lets j a
  rw [if_pos (.inl ha), show j.s = some s0 from hs]
  dsimp -zeta only
  extract_lets fin f
  have e : s.datesOf s0 (s.js n) = { s.js n with dtStart := a, dtFin := f } := rfl
  rw [e]
  split
  next h => rw [h.1, h.2]
  · rw [js_congr (showSlot_job _ _), upSlot_js]

theorem redateSlot_js_ne {n k : Slot} (s : State) (h : k ≠ n) : (s.redateSlot n).js k = s.js k := by
  unfold redateSlot
  extract_lets j a
  split
  · rfl
  · extract_lets fin f
    split
    · rfl
    · rw [js_congr (showSlot_job _ _), upSlot_js_ne _ _ h]

theorem redate_timeAlike (s : State) : s.TimeAlike s.redate :=
  each_ind s.TimeAlike _ _ (fun k _ t h => h.trans (redateSlot_timeAlike k t)) s (TimeAlike.refl s)

theorem redate_none {s : State} (h : ∀ n : Slot, (s.js n).s = none) : s.redate = s :=
  each_ind (· = s) _ _ (fun k _ t e => by rw [e]; exact redateSlot_none (h k)) s rfl

/-- The device time reported of a start that lies ahead, and its S (R24; log entry 86). -/
theorem redate_js {s : State} {n : Slot} {s0 : Nat} (ha : (s.js n).st = .armed) (hs : (s.js n).s = some s0)
    (hl : s.tick < (s.js n).startAt) :
    (s.redate.js n).dtStart = s.dtAt (w32 (s.js n).startAt) ∧ (s.redate.js n).s = some s0 := by
  have hd : s.datesOf s0 (s.datesOf s0 (s.js n)) = s.datesOf s0 (s.js n) := by
    unfold datesOf
    simp only [hl, if_true]
    split <;> rfl
  have hk (l : List Slot) : ∀ t : State, s.TimeAlike t → (t.js n = s.js n ∧ n ∈ l ∨ t.js n = s.datesOf s0 (s.js n)) →
      (t.each l redateSlot).js n = s.datesOf s0 (s.js n) := by
    induction l with
    | nil => exact fun t _ h => h.elim (fun h => absurd h.2 (List.not_mem_nil)) id
    | cons k l ih =>
      intro t ht h
      refine ih _ (ht.trans (redateSlot_timeAlike k t)) ?_
      have hdates (j : JobSlot) : t.datesOf s0 j = s.datesOf s0 j := by
        unfold datesOf
        rw [ht.2.1, ht.dtAt, ht.dtAt]
      by_cases e : n = k
      · subst e
        refine .inr ?_
        rcases h with ⟨h, -⟩ | h
        · rw [redateSlot_js (h ▸ ha) (h ▸ hs), hdates, h]
        · rw [redateSlot_js (by rw [h]; exact ha) (by rw [h]; exact hs), hdates, h, hd]
      · rw [redateSlot_js_ne t e]
        exact h.imp (fun h => ⟨h.1, (List.mem_cons.1 h.2).resolve_left e⟩) id
  have h := hk (List.finRange 4) s (TimeAlike.refl s) (.inl ⟨rfl, List.mem_finRange n⟩)
  have e : s.redate.js n = s.datesOf s0 (s.js n) := h
  rw [e]
  exact ⟨if_pos hl, hs⟩

/-! A fold of a domain (R52). -/

theorem upDom_dom (d : Dom) (f : Domain → Domain) (s : State) : (s.upDom d f).dom d = f (s.dom d) := by
  cases d <;> rfl

theorem upDom_dom_ne {d x : Dom} (f : Domain → Domain) (s : State) (h : x ≠ d) : (s.upDom d f).dom x = s.dom x := by
  cases d <;> cases x <;> first | rfl | exact absurd rfl h

theorem wr_dom (s : State) (a : Nat) (v : Word) (d : Dom) : (s.wr a v).dom d = s.dom d := by
  cases d <;> rfl

/-- A change of a domain changes its record and nothing else. -/
theorem upDom_frame (d : Dom) (f : Domain → Domain) (s : State) :
    { s.upDom d f with time := s.time } = s ∧ (s.upDom d f).time.slew = s.time.slew := by
  cases d <;> exact ⟨rfl, rfl⟩

theorem domIx_ne {d x : Dom} (h : x ≠ d) : domIx x ≠ domIx d := by
  cases d <;> cases x <;> simp [domIx] at h ⊢

theorem ofs_ne_ofs {d x : Dom} (h : x ≠ d) : R.TIME_AB_OFS (domIx x) ≠ R.TIME_AB_OFS (domIx d) := by
  have := domIx_ne h
  unfold R.TIME_AB_OFS
  omega

theorem rate_ne_rate {d x : Dom} (h : x ≠ d) : R.TIME_AB_RATE (domIx x) ≠ R.TIME_AB_RATE (domIx d) := by
  have := domIx_ne h
  unfold R.TIME_AB_RATE
  omega

theorem ofs_ne_rate (x d : Dom) : R.TIME_AB_OFS (domIx x) ≠ R.TIME_AB_RATE (domIx d) := by
  cases d <;> cases x <;> decide

/-- `t` shows domain `d` of `s` folded: the correction of its FRC in OFS and the fraction, with the anchor there. -/
def Folded (s t : State) (d : Dom) : Prop :=
  t.rd (R.TIME_AB_OFS (domIx d)) = i32 (s.corr d s.frc / 2 ^ 40) ∧ (t.dom d).frac = (s.corr d s.frc % 2 ^ 40).toNat ∧
    (t.dom d).anchor = s.frc

/-- A folded domain reads the same time at its anchor, whatever its rate. -/
theorem Folded.tOf {s t : State} {d : Dom} (h : s.Folded t d) (h1 : -2 ^ 71 ≤ s.corr d s.frc) (h2 : s.corr d s.frc < 2 ^ 71) :
    t.tOf d s.frc = s.tOf d s.frc := by
  obtain ⟨ho, hf, ha⟩ := h
  have hi : (i32 (s.corr d s.frc / 2 ^ 40)).toInt = s.corr d s.frc / 2 ^ 40 :=
    BitVec.toInt_ofInt_eq_self (by decide) (by omega) (by omega)
  have hz : diff32 s.frc s.frc = 0 := by rw [diff32, BitVec.sub_self]; rfl
  have hc : t.corr d s.frc = (t.rd (R.TIME_AB_OFS (domIx d))).toInt * 2 ^ 40 + (t.dom d).frac +
    t.rate d * diff32 s.frc (t.dom d).anchor := rfl
  rw [ho, hf, ha, hz, hi, Int.mul_zero, Int.add_zero] at hc
  have he : t.corr d s.frc = s.corr d s.frc := by omega
  exact tOf_congr he

/-- A fold changes OFS of its domain and its record. -/
theorem fold_onlyRegs (d : Dom) (s : State) :
    s.OnlyRegs [R.TIME_AB_OFS (domIx d)] { s.fold d with time := s.time } ∧ (s.fold d).time.slew = s.time.slew := by
  have h := (OnlyRegs.refl [R.TIME_AB_OFS (domIx d)] s).wr (List.mem_singleton_self _) (i32 (s.corr d s.frc / 2 ^ 40))
  cases d <;> exact ⟨h, rfl⟩

theorem fold_folded {s : State} (h : s.regsWf) (d : Dom) : s.Folded (s.fold d) d := by
  have hr : (s.fold d).rd (R.TIME_AB_OFS (domIx d)) = i32 (s.corr d s.frc / 2 ^ 40) := by
    cases d <;> exact rd_wr h _ _
  have hd := upDom_dom d (fun x => { x with frac := (s.corr d s.frc % 2 ^ 40).toNat, anchor := s.frc })
    (s.wr (R.TIME_AB_OFS (domIx d)) (i32 (s.corr d s.frc / 2 ^ 40)))
  exact ⟨hr, congrArg Domain.frac hd, congrArg Domain.anchor hd⟩

theorem fold_dom_ne {d x : Dom} (s : State) (h : x ≠ d) : (s.fold d).dom x = s.dom x := upDom_dom_ne _ _ h

theorem fold_rd_ne (d : Dom) (s : State) {a : Nat} (h : a ≠ R.TIME_AB_OFS (domIx d)) : (s.fold d).rd a = s.rd a :=
  (fold_onlyRegs d s).1.2 a (by simpa using h)

theorem fold_tick (d : Dom) (s : State) : (s.fold d).tick = s.tick := by
  have h := congrArg State.tick (fold_onlyRegs d s).1.1
  exact h

theorem fold_corr_ne {d x : Dom} (s : State) (f : Word) (h : x ≠ d) : (s.fold d).corr x f = s.corr x f :=
  corr_congr (fold_rd_ne d s (ofs_ne_ofs h)) (fold_rd_ne d s (ofs_ne_rate d x).symm) (fold_dom_ne s h)

theorem Folded.fold_ne {s t : State} {d x : Dom} (h : s.Folded t d) (hx : d ≠ x) : s.Folded (t.fold x) d := by
  obtain ⟨ho, hf, ha⟩ := h
  have hd := fold_dom_ne t hx
  exact ⟨(fold_rd_ne x t (ofs_ne_ofs hx)).trans ho, (congrArg Domain.frac hd).trans hf, (congrArg Domain.anchor hd).trans ha⟩

/-- Two changes of registers of a list and of the time base. -/
theorem OnlyRegs.trans_time {l : List Nat} {s u t : State} (h : s.OnlyRegs l { u with time := s.time })
    (g : u.OnlyRegs l { t with time := u.time }) : s.OnlyRegs l { t with time := s.time } :=
  ⟨(congrArg (fun x : State => { x with time := s.time, regs := s.regs }) g.1).trans h.1,
    fun a ha => (g.2 a ha).trans (h.2 a ha)⟩

/-- A write of RATE folds its domain first, so that its time does not step (R53). -/
theorem setRate_spec {s : State} (hw : s.regsWf) (d : Dom) (v : Word) :
    (s.setRate d v).rate d = v.toInt ∧ s.Folded (s.setRate d v) d ∧
      (∀ x : Dom, x ≠ d → (s.setRate d v).dom x = s.dom x ∧ ∀ f, (s.setRate d v).corr x f = s.corr x f) ∧
      s.OnlyRegs [R.TIME_AB_OFS (domIx d), R.TIME_AB_RATE (domIx d)] { s.setRate d v with time := s.time } := by
  have hk : (s.fold d).regsWf := (fold_kept d s (Kept.refl s)).2.2 hw
  have hn {a : Nat} (h : a ≠ R.TIME_AB_RATE (domIx d)) : (s.setRate d v).rd a = (s.fold d).rd a := rd_wr_ne _ v h
  obtain ⟨ho, hf, ha⟩ := fold_folded hw d
  refine ⟨congrArg BitVec.toInt (rd_wr hk _ v), ⟨(hn (ofs_ne_rate d d)).trans ho, ?_, ?_⟩, fun x hx => ?_, ?_⟩
  · exact (congrArg Domain.frac (wr_dom (s.fold d) _ v d)).trans hf
  · exact (congrArg Domain.anchor (wr_dom (s.fold d) _ v d)).trans ha
  · have hd := (wr_dom (s.fold d) (R.TIME_AB_RATE (domIx d)) v x).trans (fold_dom_ne s hx)
    refine ⟨hd, fun f => corr_congr ?_ ?_ hd⟩
    · exact (hn (ofs_ne_rate x d)).trans (fold_rd_ne d s (ofs_ne_ofs hx))
    · exact (hn (rate_ne_rate hx)).trans (fold_rd_ne d s (ofs_ne_rate d x).symm)
  · exact ((fold_onlyRegs d s).1.mono (by simp)).wr (by simp) v

/-- A step of a domain: OFS moves, and under STEP_GUARD the step of the bellwether goes into D (R53, R59). -/
theorem stepDom_spec {s : State} (h : s.regsWf) (d : Dom) (n : Int) :
    (s.stepDom d n).rd (R.TIME_AB_OFS (domIx d)) = i32 (s.ofs d + n) ∧ (s.stepDom d n).dom d = s.dom d ∧
      (s.stepDom d n).time.slew =
        s.time.slew + (if d = s.bell ∧ s.rb R.TIME_CTL 2 = true then n * State.slewUnit else 0) ∧
      s.OnlyRegs [R.TIME_AB_OFS (domIx d)] { s.stepDom d n with time := s.time } := by
  have hw := (OnlyRegs.refl [R.TIME_AB_OFS (domIx d)] s).wr (List.mem_singleton_self _) (i32 (s.ofs d + n))
  have hr := rd_wr h (R.TIME_AB_OFS (domIx d)) (i32 (s.ofs d + n))
  unfold stepDom
  dsimp only
  split
  · exact ⟨hr, by cases d <;> rfl, rfl, hw⟩
  · exact ⟨hr, rfl, (Int.add_zero _).symm, hw⟩

/-- A domain's record with another residual. -/
theorem upTime_slew_dom (k : Int) (s : State) (d : Dom) : (s.upTime fun x => { x with slew := k }).dom d = s.dom d := by
  cases d <;> rfl

/-- DT with a residual of a whole number of units (R57). -/
theorem dt_of_slew {t : State} {k : Int} (h : t.time.slew = k * slewUnit) : t.dt = t.tOf t.bell t.frc - i32 k := by
  have hk : t.resid = k := by
    unfold resid rdiv slewUnit at *
    omega
  unfold State.dt State.dtAt
  rw [hk]

end State

theorem i32_diff32 (a b : Word) : i32 (diff32 a b) = a - b := BitVec.ofInt_toInt

theorem i32_add_toInt (r v : Word) : i32 (r.toInt + v.toInt) = r + v := by
  rw [i32, BitVec.ofInt_add, BitVec.ofInt_toInt, BitVec.ofInt_toInt]

theorem add_sub_word (r v : Word) : r + (v - r) = v := by
  rw [BitVec.add_comm, BitVec.sub_add_cancel]

/-- A fold of both domains (R52). -/
theorem timeFold_spec {s : State} (ht : s.tick % 2 ^ 30 = 0) (hw : s.regsWf)
    (hr : ∀ d : Dom, -2 ^ 71 ≤ s.corr d s.frc ∧ s.corr d s.frc < 2 ^ 71) :
    ∃ t, exec .timeFold s = .next t ∧ (∀ d : Dom, t.tOf d t.frc = s.tOf d s.frc ∧ (t.dom d).anchor = s.frc ∧
      t.rate d = s.rate d) ∧ t.time.slew = s.time.slew ∧
      s.OnlyRegs [R.TIME_AB_OFS 0, R.TIME_AB_OFS 1] { t with time := s.time } := by
  have hb : s.Folded ((s.fold .a).fold .b) .b := by
    have h := State.fold_folded (s := s.fold .a) ((fold_kept .a s (Kept.refl s)).2.2 hw) .b
    unfold State.Folded at h
    rw [State.frc, State.fold_tick, ← State.frc, State.fold_corr_ne s _ (by decide)] at h
    exact h
  have hf : ((s.fold .a).fold .b).frc = s.frc := congrArg w32 ((State.fold_tick .b _).trans (State.fold_tick .a s))
  refine ⟨_, congrArg Host.Outcome.next (if_pos ht), fun d => ?_,
    (State.fold_onlyRegs .b _).2.trans (State.fold_onlyRegs .a s).2,
    ((State.fold_onlyRegs .a s).1.mono (by simp [domIx])).trans_time ((State.fold_onlyRegs .b _).1.mono (by simp [domIx]))⟩
  have hd : s.Folded ((s.fold .a).fold .b) d := by
    cases d
    · exact (State.fold_folded hw .a).fold_ne (by decide)
    · exact hb
  refine ⟨?_, hd.2.2, ?_⟩
  · rw [hf]
    exact hd.tOf (hr d).1 (hr d).2
  · unfold State.rate
    rw [State.fold_rd_ne _ _ (State.ofs_ne_rate _ _).symm, State.fold_rd_ne _ _ (State.ofs_ne_rate _ _).symm]

/-- A write of RATE (R24, R53). -/
theorem timeRateWrite_spec {s : State} (d : Dom) (v : Word) (hw : s.regsWf) (h1 : -2 ^ 71 ≤ s.corr d s.frc)
    (h2 : s.corr d s.frc < 2 ^ 71) :
    ∃ t, exec (.timeRateWrite d v) s = .next t ∧ t.rate d = v.toInt ∧ t.tOf d t.frc = s.tOf d s.frc ∧
      (∀ x : Dom, x ≠ d → t.dom x = s.dom x ∧ t.tOf x t.frc = s.tOf x s.frc) ∧
      (d ≠ s.bell ∨ (∀ n : Slot, (s.js n).s = none) →
        s.OnlyRegs [R.TIME_AB_OFS (domIx d), R.TIME_AB_RATE (domIx d)] { t with time := s.time }) ∧
      ∀ (n : Slot) (s0 : Nat), d = s.bell → (s.js n).st = .armed → (s.js n).s = some s0 → s.tick < (s.js n).startAt →
        (t.js n).dtStart = t.dtAt (w32 (s.js n).startAt) ∧ (t.js n).s = some s0 := by
  obtain ⟨hr, hf, hx, ho⟩ := State.setRate_spec hw d v
  have hj : (s.setRate d v).job = s.job := by have h := congrArg State.job ho.1; exact h
  have ht : (s.setRate d v).tick = s.tick := by have h := congrArg State.tick ho.1; exact h
  have ha : (s.setRate d v).TimeAlike (s.rateTo d v) := by
    unfold State.rateTo
    dsimp only
    split
    · exact State.redate_timeAlike _
    · exact State.TimeAlike.refl _
  have hfrc : (s.rateTo d v).frc = s.frc := ha.frc.trans (congrArg w32 ht)
  refine ⟨s.rateTo d v, rfl, (ha.rate d).trans hr, ?_, fun x hn => ?_, fun h => ?_, fun n s0 hb hst hs hl => ?_⟩
  · rw [hfrc, ha.tOf]
    exact hf.tOf h1 h2
  · obtain ⟨hd, hc⟩ := hx x hn
    rw [hfrc, ha.tOf, ha.dom]
    exact ⟨hd, State.tOf_congr (hc _)⟩
  · have e : s.rateTo d v = s.setRate d v := by
      unfold State.rateTo
      dsimp only
      split
      next hd => exact State.redate_none fun n => by rw [State.js_congr hj]; exact h.resolve_left (not_not.2 hd) n
      · rfl
    rw [e]
    exact ho
  · have e : s.rateTo d v = (s.setRate d v).redate := if_pos hb
    rw [ha.dtAt, e]
    have h := State.redate_js (s := s.setRate d v) (n := n) (s0 := s0)
    rw [State.js_congr hj, ht] at h
    exact h hst hs hl

/-- The bellwether is `b`, with D as before. -/
def State.bellTo (b : Bool) (s : State) : State := s.setF R.TIME_CTL 0 0 (b2n b)

/-- What a change of bellwether to `b` adds to D (R57). -/
def State.bellDiff (b : Bool) (s : State) : Int :=
  diff32 ((s.bellTo b).tOf (s.bellTo b).bell (s.bellTo b).frc) (s.tOf s.bell s.frc)

/-- The bellwether is `b`, and DT does not step. -/
def State.bellMoved (b : Bool) (s : State) : State :=
  (s.bellTo b).upTime fun x => { x with slew := x.slew + s.bellDiff b * State.slewUnit }

/-- A change of bellwether (R57). -/
theorem bellwetherWrite_spec {s : State} {b : Bool} (hw : s.regsWf) (hb : s.rb R.TIME_CTL 0 ≠ b) (hz : s.time.slew = 0) :
    ∃ t, exec (.bellwetherWrite b) s = .next t ∧ t.rb R.TIME_CTL 0 = b ∧ t.dt = s.dt ∧
      t.time.slew = diff32 (s.tOf t.bell s.frc) s.dt * State.slewUnit ∧
      ((∀ n : Slot, (s.js n).s = none) → s.OnlyRegs [R.TIME_CTL] { t with time := s.time }) := by
  have ho : s.OnlyRegs [R.TIME_CTL] (s.bellTo b) := (State.OnlyRegs.refl _ s).setF (List.mem_singleton_self _) _ _ _
  have hbit : (s.bellTo b).rb R.TIME_CTL 0 = b := by
    have h : (s.bellTo b).rf R.TIME_CTL 0 0 = b2n b % 2 := State.rf_setF hw R.TIME_CTL 0 0 (b2n b) (by decide) (by decide)
    have e : (s.bellTo b).rb R.TIME_CTL 0 = ((s.bellTo b).rf R.TIME_CTL 0 0 == 1) := rfl
    rw [e, h]
    cases b <;> rfl
  have hk (x : Dom) (f : Word) : (s.bellTo b).tOf x f = s.tOf x f :=
    State.tOf_congr (State.corr_congr (ho.2 _ (by cases x <;> decide)) (ho.2 _ (by cases x <;> decide))
      (State.wr_dom s _ _ x))
  have hslew : (s.bellMoved b).time.slew = s.bellDiff b * State.slewUnit := by
    have e : (s.bellMoved b).time.slew = s.time.slew + s.bellDiff b * State.slewUnit := rfl
    rw [e, hz, Int.zero_add]
  have hs : s.dt = s.tOf s.bell s.frc :=
    (State.dt_of_slew (k := 0) (hz.trans (Int.zero_mul _).symm)).trans (BitVec.sub_zero _)
  have hu : (s.bellMoved b).dt = s.dt := by
    have e : (s.bellMoved b).tOf (s.bellMoved b).bell (s.bellMoved b).frc =
        (s.bellTo b).tOf (s.bellTo b).bell (s.bellTo b).frc :=
      State.tOf_congr (State.corr_congr rfl rfl ((s.bellTo b).upTime_slew_dom _ _))
    rw [State.dt_of_slew hslew, e, State.bellDiff, i32_diff32, hs]
    exact sub_sub_cancel _ _
  have ha := (s.bellMoved b).redate_timeAlike
  refine ⟨(s.bellMoved b).redate, congrArg Host.Outcome.next (if_neg hb), ?_, ?_, ?_, fun h => ?_⟩
  · unfold State.rb
    rw [ha.2.2 _ (by decide)]
    exact hbit
  · unfold State.dt at hu ⊢
    rw [ha.frc, ha.dtAt]
    exact hu
  · have e : (s.bellMoved b).bell = (s.bellTo b).bell := rfl
    rw [ha.1, ha.bell, hslew, hs, e, ← hk]
    rfl
  · have e : (s.bellMoved b).redate = s.bellMoved b := State.redate_none h
    rw [e]
    exact ho

/-- Settles O52: a fold keeps the correction at its anchor, a step moves OFS by its amount, and what a change of bellwether
adds to D is taken back by it. -/
theorem timeDomains : Obligations.TimeDomains := by
  unfold Obligations.TimeDomains
  refine ⟨fun s ht hw hr => timeFold_spec ht hw hr, fun d v s hw h1 h2 => timeRateWrite_spec d v hw h1 h2,
    fun d v s hw => ?_, fun d v s hw => ?_, fun b s hw hb hz => bellwetherWrite_spec hw hb hz, fun s h => ?_⟩
  · obtain ⟨ho, hd, hs, hf⟩ := State.stepDom_spec hw d (diff32 v (s.rd (R.TIME_AB_OFS (domIx d))))
    exact ⟨_, rfl, ho.trans ((i32_add_toInt _ _).trans (add_sub_word _ _)), congrArg Domain.frac hd, hs, hf⟩
  · have hn : R.TIME_AB_OFS (domIx d) ≠ R.TIME_AB_STEP (domIx d) := by
      unfold R.TIME_AB_OFS R.TIME_AB_STEP
      omega
    have hc : R.TIME_CTL ≠ R.TIME_AB_STEP (domIx d) := by
      unfold R.TIME_CTL R.TIME_AB_STEP
      omega
    obtain ⟨ho, -, hs, hf⟩ := State.stepDom_spec (State.regsWf_wr hw (R.TIME_AB_STEP (domIx d)) v) d v.toInt
    unfold State.ofs State.bell State.rb at *
    rw [State.rd_wr_ne s v hn] at ho
    rw [State.rd_wr_ne s v hc] at hs
    refine ⟨_, rfl, ho.trans (i32_add_toInt _ _), ?_, hs, ?_⟩
    · exact (hf.2 _ (by simpa using hn.symm)).trans (State.rd_wr hw _ v)
    · exact (((State.OnlyRegs.refl _ s).wr (by simp) v).trans_time (u := s.wr (R.TIME_AB_STEP (domIx d)) v)
        (hf.mono (by simp)))
  · refine ⟨_, congrArg Host.Outcome.next (if_pos h), rfl, ?_, rfl⟩
    have hd := State.dt_of_slew (t := s.upTime fun x => { x with slew := 0 }) (k := 0) (Int.zero_mul _).symm
    rw [hd]
    exact (BitVec.sub_zero _).trans (State.tOf_congr (State.corr_congr rfl rfl (s.upTime_slew_dom 0 _)))

end Sys2Proof.Machine
end

section
/-! SUPPORT. A stroke that begins, the edges of a gate, and O17 from them (R25, R93, R161, R177, R178). -/

namespace Sys2Proof.Machine

namespace State

variable (s : State)

/-! What light and the checkpoint window leave alone. -/

/-- `t` has the engines, the memory, the jobs and the fault hub of `o`. -/
def BeamsKept (o t : State) : Prop := t.be = o.be ∧ t.mem = o.mem ∧ t.job = o.job ∧ t.hub = o.hub

theorem BeamsKept.trans {o s t : State} (h : o.BeamsKept s) (g : s.BeamsKept t) : o.BeamsKept t :=
  ⟨g.1.trans h.1, g.2.1.trans h.2.1, g.2.2.1.trans h.2.2.1, g.2.2.2.trans h.2.2.2⟩

/-- A mask of other fields leaves them. -/
theorem BeamsKept.of_mask {s t u : State} (h : u = s) (g : u.BeamsKept t) : s.BeamsKept t := h ▸ g

theorem gateEdge_beamsKept (b : Beam) (e : Int) (rise : Bool) : s.BeamsKept (s.gateEdge b e rise) :=
  .of_mask (gateEdge_onlyLight (s := s) b e rise rfl) ⟨rfl, rfl, rfl, rfl⟩

theorem gateEdges_beamsKept (b : Beam) (e : Int) : s.BeamsKept (s.gateEdges b e) :=
  .of_mask (gateEdges_onlyLight (s := s) b e rfl) ⟨rfl, rfl, rfl, rfl⟩

theorem cutItems_beamsKept (b : Beam) (e : Int) : s.BeamsKept (s.cutItems b e) := by
  unfold cutItems
  dsimp only
  split <;> exact ⟨rfl, rfl, rfl, rfl⟩

theorem digItem_beamsKept (k ord rank : Nat) (l : List Byte) : s.BeamsKept (s.digItem k ord rank l) :=
  .of_mask (digItem_frame s k ord rank l) ⟨rfl, rfl, rfl, rfl⟩

theorem gateItem_beamsKept (b : Beam) (e : Int) (rise : Bool) : s.BeamsKept (s.gateItem b e rise) := by
  unfold gateItem
  extract_lets g was t
  split
  · exact cutItems_beamsKept s b e
  · exact (cutItems_beamsKept s b e).trans (digItem_beamsKept t _ _ _ _)

theorem gateDown_beamsKept (b : Beam) (e : Int) : s.BeamsKept (s.gateDown b e) := by
  unfold gateDown
  split
  · exact ⟨rfl, rfl, rfl, rfl⟩
  · split
    · exact gateEdge_beamsKept s _ _ _
    · split
      · exact gateEdge_beamsKept s _ _ _
      · split <;> exact gateEdge_beamsKept s _ _ _

theorem wr_beamsKept (a : Nat) (v : Word) : s.BeamsKept (s.wr a v) := ⟨rfl, rfl, rfl, rfl⟩

theorem lagNote_beamsKept (b : Beam) (tau : Nat) (moved : Bool) : s.BeamsKept (s.lagNote b tau moved) := by
  exact ifc_ind _ s.BeamsKept moved _ (wr_beamsKept s _ _) fun h => h.trans (wr_beamsKept _ _ _)

/-! An engine that changes. -/

/-- `t` differs from `s` in the engines at most. -/
def OnlyBe (s t : State) : Prop := { t with be := s.be } = s

theorem upBe_onlyBe (b : Beam) (f : BeamEng → BeamEng) : s.OnlyBe (s.upBe b f) := rfl

theorem OnlyBe.trans {s t u : State} (h : s.OnlyBe t) (g : t.OnlyBe u) : s.OnlyBe u := by
  unfold OnlyBe at *
  exact (congrArg (fun x : State => { x with be := s.be }) g).trans h

theorem OnlyBe.digItem {s t : State} (h : s.OnlyBe t) (k ord rank : Nat) (l : List Byte) :
    { t.digItem k ord rank l with be := s.be, twin := s.twin } = s := by
  unfold OnlyBe at h
  exact (congrArg (fun x : State => { x with be := s.be, twin := s.twin }) (digItem_frame t k ord rank l)).trans
    (congrArg (fun x : State => { x with twin := s.twin }) h)

theorem upBe_be_same (b : Beam) (f : BeamEng → BeamEng) : (s.upBe b f).be[b] = f s.be[b] := vupd_get_same _ _ _

theorem upBe_be_ne {b k : Beam} (f : BeamEng → BeamEng) (h : k ≠ b) : (s.upBe b f).be[k] = s.be[k] := vupd_get_ne _ _ h

/-- Every stroke of the key has what a change of it gives. -/
theorem setStroke_mem {b : Beam} {key : Key} {f : Stroke → Stroke} {P : Stroke → Prop} (hp : ∀ x, P (f x)) : ∀ x ∈ ((s.setStroke b key f).be[b]).fifo, x.key = key → P x := by
  intro x hx he
  have e : ((s.setStroke b key f).be[b]).fifo = (s.be[b]).fifo.map fun x => if x.key = key then f x else x :=
    congrArg BeamEng.fifo (s.upBe_be_same b _)
  rw [e] at hx
  obtain ⟨y, -, rfl⟩ := List.mem_map.1 hx
  by_cases h : y.key = key
  · rw [if_pos h]
    exact hp y
  · rw [if_neg h] at he
    exact absurd he h

/-- What a chained stroke adds to the newest interval leaves the rest. -/
theorem chainPart_be (b : Beam) (y : Stroke) : s.OnlyBe (s.chainPart b y) ∧
    (∀ k : Beam, k ≠ b → (s.chainPart b y).be[k] = s.be[k]) ∧ ((s.chainPart b y).be[b]).fifo = (s.be[b]).fifo := by
  unfold chainPart
  split
  · exact ⟨rfl, fun k hk => upBe_be_ne s _ hk, by rw [upBe_be_same]⟩
  · exact ⟨rfl, fun _ _ => rfl, rfl⟩

/-! A stroke begins (R161). -/

/-- A stroke that begins on its tick, before it is judged. -/
def strokeBegun (b : Beam) (s0 : Nat) (y : Stroke) (s : State) : State :=
  let t := (s.setStroke b y.key fun x => { x with began := true }).chainPart b y
  let t := t.upBe b fun e => { e with lastStart := y.startAt }
  t.digItem (t.sampleOf (s0 + y.slotAt)) 4 b.val (BitVec.ofNat 8 b.val :: toBytes 3 y.key.pc)

theorem strokeStart_eq {b : Beam} {s0 : Nat} {y : Stroke} {s : State} (hr : s.running b = some s0)
    (hm : (s.be[b]).move = none) (hq : (s.be[b]).stopReq = none) (hf : (s.be[b]).fifo.find? (fun x => !x.began) = some y) :
    exec (.strokeStart b) s = .next (if s.tick - s0 < y.slotAt then s
      else if y.slotAt < s.tick - s0 then ((s.strokeBegun b s0 y).promiseMiss 1 b y.startAt).askStop b true
      else s.strokeBegun b s0 y) := by
  change execStrokeStart b s = _
  unfold execStrokeStart
  rw [hr]
  dsimp only
  rw [hm, hq, hf]
  dsimp only
  rw [if_neg (by simp)]
  split
  · rfl
  · split <;> rfl

theorem strokeBegun_spec (b : Beam) (s0 : Nat) (y : Stroke) :
    ((s.strokeBegun b s0 y).be[b]).lastStart = y.startAt ∧
      (∀ x ∈ ((s.strokeBegun b s0 y).be[b]).fifo, x.key = y.key → x.began = true) ∧
      ((s.strokeBegun b s0 y).be[b]).fifo.length = (s.be[b]).fifo.length ∧
      (∀ k : Beam, k ≠ b → (s.strokeBegun b s0 y).be[k] = s.be[k]) ∧
      { s.strokeBegun b s0 y with be := s.be, twin := s.twin } = s := by
  unfold strokeBegun
  extract_lets t₁ t₂
  obtain ⟨hfr, hne, hfifo⟩ := chainPart_be (s.setStroke b y.key fun x => { x with began := true }) b y
  have h₂ : ((t₂).be[b]) = { t₁.be[b] with lastStart := y.startAt } := upBe_be_same t₁ b _
  have hb := (digItem_beamsKept t₂ (t₂.sampleOf (s0 + y.slotAt)) 4 b.val (BitVec.ofNat 8 b.val :: toBytes 3 y.key.pc)).1
  rw [hb, h₂]
  refine ⟨rfl, ?_, ?_, fun k hk => ?_, ?_⟩
  · change ∀ x ∈ (t₁.be[b]).fifo, _
    rw [hfifo]
    exact setStroke_mem s fun _ => rfl
  · change (t₁.be[b]).fifo.length = _
    rw [hfifo]
    exact (congrArg (fun e : BeamEng => e.fifo.length) (upBe_be_same s b _)).trans (List.length_map _)
  · rw [upBe_be_ne t₁ _ hk, hne k hk]
    exact upBe_be_ne s _ hk
  · exact (((upBe_onlyBe s b _).trans hfr).trans (upBe_onlyBe t₁ b _)).digItem _ _ _ _

/-- A mask of the engines and the checkpoint window leaves these. -/
theorem masked_kept {o t : State} (h : { t with be := o.be, twin := o.twin } = o) :
    t.regs = o.regs ∧ t.mem = o.mem ∧ t.job = o.job ∧ t.hub = o.hub := by
  have hr := congrArg State.regs h
  have hm := congrArg State.mem h
  have hj := congrArg State.job h
  have hh := congrArg State.hub h
  exact ⟨hr, hm, hj, hh⟩

theorem regsWf_congr {s t : State} (h : t.regs = s.regs) (hw : s.regsWf) : t.regsWf := by
  unfold regsWf
  rw [h]
  exact hw

/-! A missed promise (R25). -/

/-- The context of the first miss since the last acknowledge. -/
theorem promiseMiss_jobMiss {s : State} (h : s.regsWf) (kind : Nat) (b : Beam) (t : Nat) :
    (s.rd R.JOB_MISS = 0 → (s.promiseMiss kind b t).rd R.JOB_MISS_JT = w32 t) ∧
      (s.rd R.JOB_MISS ≠ 0 → (s.promiseMiss kind b t).rd R.JOB_MISS_JT = s.rd R.JOB_MISS_JT) := by
  unfold promiseMiss
  extract_lets slot s₁ s₂
  have hw : s₂.regsWf := (record_kept _ _ _ (report_kept _ _ _ s (Kept.refl s))).2.2 h
  have hr {q : Nat} (hq : q ≠ R.REC_IRQ_STATUS) : s₂.rd q = s.rd q := record_rd_ne s₁ _ _ hq
  rw [hr (by decide)]
  split
  next hz => exact ⟨fun _ => rd_wr (regsWf_wr hw _ _) _ _, fun hn => absurd hz hn⟩
  next hn => exact ⟨fun hz => absurd hz hn, fun _ => hr (by decide)⟩

theorem promiseMiss_kept (kind : Nat) (b : Beam) (t : Nat) : (s.promiseMiss kind b t).be = s.be ∧
    (s.promiseMiss kind b t).mem = s.mem ∧ (s.promiseMiss kind b t).job = s.job ∧
    (s.promiseMiss kind b t).hub = (s.report 0x04 0 0).hub := by
  unfold promiseMiss
  extract_lets slot s₁ s₂
  have h : s₁.BeamsKept s₂ := .of_mask (record_frame s₁ _ _) ⟨rfl, rfl, rfl, rfl⟩
  clear_value s₂
  split
  · exact h.trans ((wr_beamsKept _ _ _).trans (wr_beamsKept _ _ _))
  · exact h

/-! The edges of the gate (R177, R178). -/

theorem gateEdge_eq {b : Beam} {s0 : Nat} {y : Stroke} {e : Int} {on : Bool} {s : State}
    (h : s.nextEdge b = some (s0, y, e, on)) (he : e ≤ 8 * ((s.tick : Int) + 500)) :
    exec (.gateEdge b) s = .next (if on then s.placeOn b s0 y e else s.placeOff b s0 y e) := by
  change execGateEdge b s = _
  unfold execGateEdge
  rw [h]
  exact if_neg (Int.not_lt.2 he)

/-- The lag term lies within its limit (R178). -/
theorem lagLimited_le (b : Beam) (e : Int) : (s.lagLimited b e).1 ≤ 8 * s.lagMax b := by
  unfold lagLimited
  dsimp only
  omega

theorem setStroke_gates (b : Beam) (k : Key) (f : Stroke → Stroke) : ((s.setStroke b k f).be[b]).gates = (s.be[b]).gates := by
  unfold setStroke
  rw [upBe_be_same]

theorem setStroke_be_ne {b k : Beam} (key : Key) (f : Stroke → Stroke) (h : k ≠ b) : (s.setStroke b key f).be[k] = s.be[k] :=
  upBe_be_ne s _ h

theorem openIv_be_ne {b k : Beam} (g : GateIv) (h : k ≠ b) : (s.openIv b g).be[k] = s.be[k] := upBe_be_ne s _ h

theorem openIv_gates (b : Beam) (g : GateIv) : ∃ rest, ((s.openIv b g).be[b]).gates = g :: rest ∧
    ((s.openIv b g).be[b]).fifo = (s.be[b]).fifo := by
  unfold openIv
  rw [upBe_be_same]
  exact ⟨_, rfl, rfl⟩

theorem closeIv_be_ne {b k : Beam} (off : Int) (h : k ≠ b) : (s.closeIv b off).be[k] = s.be[k] := upBe_be_ne s _ h

theorem closeIv_gates {b : Beam} {h : GateIv} {rest : List GateIv} (off : Int) (hg : (s.be[b]).gates = h :: rest) :
    ((s.closeIv b off).be[b]).gates = if off < h.on_ + 16 then rest else { h with off := some off } :: rest := by
  unfold closeIv
  rw [upBe_be_same, hg]

/-- What a gate-on edge places (R177, R178). -/
theorem placeOn_spec (b : Beam) (s0 : Nat) (y : Stroke) (e : Int) :
    ∃ g rest, ((s.placeOn b s0 y e).be[b]).gates = g :: rest ∧ g.tau ≤ 8 * s.lagMax b ∧
      g.on_ = max (e + g.tau) (8 * (s0 + y.slotAt + y.tBr) : Nat) ∧ g.off = none ∧
      (∀ k : Beam, k ≠ b → (s.placeOn b s0 y e).be[k] = s.be[k]) ∧ (s.placeOn b s0 y e).mem = s.mem ∧
      (s.placeOn b s0 y e).job = s.job ∧ (s.placeOn b s0 y e).hub = s.hub ∧
      (∀ x ∈ ((s.placeOn b s0 y e).be[b]).fifo, x.key = y.key → x.onDone = true) := by
  unfold placeOn
  dsimp -zeta only
  extract_lets low at_ s₁ old s₂ s₃
  have h₃ : s₂.BeamsKept s₃ := by
    unfold s₃
    clear_value old
    cases old with
    | none => exact ⟨rfl, rfl, rfl, rfl⟩
    | some o =>
      dsimp only
      split
      · exact (cutItems_beamsKept s₂ _ _).trans (gateEdge_beamsKept _ _ _ _)
      · exact ⟨rfl, rfl, rfl, rfl⟩
  obtain ⟨hbe, hmem, hjob, hhub⟩ := h₃.trans ((gateItem_beamsKept s₃ b at_ true).trans (gateEdges_beamsKept _ b 0))
  obtain ⟨hn, hm, hj, hh⟩ := lagNote_beamsKept s b (s.lagLimited b e).1 ((s.lagLimited b e).2 || at_ ≠ e + (s.lagLimited b e).1)
  obtain ⟨rest, hg, hf⟩ := openIv_gates s₁ b ⟨at_, none, (s.lagLimited b e).1, chainParts (s₁.be[b]).fifo y⟩
  rw [hbe]
  refine ⟨_, rest, hg, lagLimited_le s b e, rfl, rfl, fun k hk => ?_, hmem.trans hm, hjob.trans hj, hhub.trans hh, ?_⟩
  · rw [openIv_be_ne s₁ _ hk, setStroke_be_ne _ _ _ hk, hn]
  · rw [hf]
    exact setStroke_mem _ fun _ => rfl

/-- What a gate-off edge places; a blended chain keeps the lag term of its interval (R177, R178; log entry 36). -/
theorem placeOff_spec {b : Beam} {h : GateIv} {rest : List GateIv} {s : State} (s0 : Nat) (y : Stroke) (e : Int)
    (hg : (s.be[b]).gates = h :: rest) :
    ∃ (tau : Nat) (off : Int), (y.blendIn = true → tau = h.tau) ∧ (y.blendIn = false → tau ≤ 8 * s.lagMax b) ∧
      off = min (e + tau) (8 * (s0 + y.slotEnd) : Nat) ∧
      ((s.placeOff b s0 y e).be[b]).gates = (if off < h.on_ + 16 then rest else { h with off := some off } :: rest) ∧
      (∀ k : Beam, k ≠ b → (s.placeOff b s0 y e).be[k] = s.be[k]) ∧ (s.placeOff b s0 y e).mem = s.mem ∧
      (s.placeOff b s0 y e).job = s.job ∧ (s.placeOff b s0 y e).hub = s.hub := by
  unfold placeOff
  generalize hp : (if y.blendIn then (((s.be[b]).gates.head?.map (·.tau)).getD 0, false) else s.lagLimited b e) = p
  obtain ⟨tau, m1⟩ := p
  dsimp -zeta only
  extract_lets high at_ s₁ end_
  obtain ⟨hbe, hmem, hjob, hhub⟩ := (gateItem_beamsKept s₁ b end_ false).trans (gateDown_beamsKept _ b at_)
  obtain ⟨hn, hm, hj, hh⟩ := lagNote_beamsKept s b tau (m1 || at_ ≠ e + tau)
  have hg₁ : (s₁.be[b]).gates = h :: rest := by
    have e₁ : (s₁.be[b]).gates = ((s.lagNote b tau (m1 || at_ ≠ e + tau)).be[b]).gates := setStroke_gates _ b y.key _
    rw [e₁, hn, hg]
  have hd : (((s₁.gateItem b end_ false).gateDown b at_).be[b]).gates = h :: rest := by rw [hbe, hg₁]
  refine ⟨tau, at_, fun hb => ?_, fun hb => ?_, rfl, closeIv_gates _ at_ hd, fun k hk => ?_, hmem.trans hm, hjob.trans hj,
    hhub.trans hh⟩
  · rw [if_pos hb, hg] at hp
    exact (congrArg Prod.fst hp).symm
  · rw [if_neg (by simp [hb])] at hp
    have hl := s.lagLimited_le b e
    rw [hp] at hl
    exact hl
  · rw [closeIv_be_ne _ at_ hk, hbe, setStroke_be_ne _ _ _ hk, hn]

end State

/-- Settles O17: a stroke that begins changes its engine alone, a late one is the miss of R25, and an edge is placed at its
scheduled instant plus the lag term within its slot. -/
theorem strokesAndGates : Obligations.StrokesAndGates := by
  unfold Obligations.StrokesAndGates
  refine ⟨fun b s0 y s hr hv hq hf hw => ⟨fun ht => ?_, fun ht => ?_⟩, fun b s0 y e s hn he => ?_,
    fun b s0 y e h rest s hn he hg => ?_⟩
  · refine ⟨s.strokeBegun b s0 y, ?_, s.strokeBegun_spec b s0 y⟩
    rw [State.strokeStart_eq hr hv hq hf, if_neg (by omega), if_neg (by omega)]
  · obtain ⟨-, -, -, -, hk⟩ := s.strokeBegun_spec b s0 y
    obtain ⟨hregs, hmem, hjob, hhub⟩ := State.masked_kept hk
    have hrd := State.rd_congr hregs
    obtain ⟨-, hm, hj, hh⟩ := (s.strokeBegun b s0 y).promiseMiss_kept 1 b y.startAt
    obtain ⟨h0, h1⟩ := State.promiseMiss_jobMiss (State.regsWf_congr hregs hw) 1 b y.startAt
    rw [hrd] at h0
    rw [hrd, hrd] at h1
    have hp := (congrArg Hub.pending hh).trans (congrArg (fun x : Hub => x.pending ++ _) hhub)
    refine ⟨((s.strokeBegun b s0 y).promiseMiss 1 b y.startAt).askStop b true, _, ?_, hp, rfl, ?_, hm.trans hmem,
      hj.trans hjob, h0, h1⟩
    · rw [State.strokeStart_eq hr hv hq hf, if_neg (by omega), if_pos (by omega)]
    · rw [State.askStop, State.upBe_be_same]
      rfl
  · rw [State.gateEdge_eq hn he]
    obtain ⟨g, rest, h⟩ := s.placeOn_spec b s0 y e
    exact ⟨_, g, rest, rfl, h⟩
  · rw [State.gateEdge_eq hn he]
    obtain ⟨tau, off, h1, h2, h3, h4⟩ := State.placeOff_spec s0 y e hg
    exact ⟨_, tau, off, rfl, h1, h2, h3, h4⟩

end Sys2Proof.Machine
end

section
/-! SUPPORT. The start and the end of a job on its beams (R40, R41, R151, R152). -/

namespace Sys2Proof.Machine

namespace State

variable (s : State)

/-! The parts of a start (R151, R152). -/

theorem sampleBeam_steady (b : Beam) : s.Steady (s.sampleBeam b) := by
  unfold sampleBeam sampleOnly
  exact ⟨rfl, rfl, rfl⟩

theorem checkCut_steady (b : Beam) : s.Steady (s.checkCut b) := ⟨rfl, rfl, rfl⟩

theorem ledgerStart_steady (n : Slot) (s0 : Nat) : s.Steady (s.ledgerStart n s0) := ⟨rfl, rfl, rfl⟩

theorem zoneLoad_steady (n : Slot) : s.Steady (s.zoneLoad n) := by
  unfold zoneLoad
  extract_lets z u
  exact Steady.each _ (fun _ _ => ⟨rfl, rfl, rfl⟩) (⟨rfl, rfl, rfl⟩ : s.Steady u)

theorem twinStartWin_steady (s0 : Nat) : s.Steady (s.twinStartWin s0) := Steady.ite ⟨rfl, rfl, rfl⟩ (Steady.refl s)

theorem upLe_steady (k : Engine) (f : LoopEng → LoopEng) : s.Steady (s.upLe k f) := ⟨rfl, rfl, rfl⟩

theorem traceTrigger_steady (k : Engine) (m : Nat) : s.Steady (s.traceTrigger k m) := by
  have h (t : State) : t.Steady (t.traceDone k) := by
    unfold traceDone
    extract_lets e
    exact Steady.ite (((upLe_steady t k _).trans (wr_steady _ _ _)).trans (irq_steady _ _ _ _ _)) (Steady.refl t)
  exact Steady.ite ((upLe_steady s k _).trans (h _)) (Steady.refl s)

/-- A start leaves its slot RUNNING; no other slot and nothing of the device record changes before the device state is
brought up to date. -/
theorem startJob_eq (n : Slot) (s0 : Nat) : ∃ u : State, s.startJob n s0 = u.refresh ∧ u.dev = s.dev ∧ u.tick = s.tick ∧
    (u.js n).st = .running ∧ (u.js n).s = (s.js n).s ∧ ∀ k : Slot, k ≠ n → u.js k = s.js k := by
  unfold startJob
  extract_lets j s₁ s₂ s₃ a axes time m r v s₄ s₅ s₆ s₇
  have h₁ : s.Steady s₁ := Steady.each _ (fun b t => (sampleBeam_steady t b).trans ⟨rfl, rfl, rfl⟩) (Steady.refl s)
  clear_value s₁
  have h₂ : s₁.Steady s₂ := by
    refine Steady.each _ (fun b t => ?_) (Steady.refl s₁)
    extract_lets u
    have hu : t.Steady u := Steady.ite (checkCut_steady t b) (Steady.refl t)
    exact hu.trans ⟨rfl, rfl, rfl⟩
  clear_value s₂
  have h₃ : s₂.Steady s₃ := (ledgerStart_steady s₂ n s0).trans (zoneLoad_steady _ n)
  clear_value s₃
  have hr : s₃.Steady r := ⟨rfl, rfl, rfl⟩
  have hv : s₃.Steady v := ⟨rfl, rfl, rfl⟩
  have h₄ : s₃.Steady s₄ := by
    unfold s₄
    clear_value r v
    refine Steady.ite (Steady.refl _) (Steady.ite ?_ ?_)
    · exact Steady.each _ (fun _ _ => ⟨rfl, rfl, rfl⟩) hr
    · exact Steady.each _ (fun _ _ => ⟨rfl, rfl, rfl⟩) hv
  clear_value s₄
  have h₅ : s₄.Steady s₅ := twinStartWin_steady s₄ s0
  clear_value s₅
  have h₆ : s₅.Steady s₆ := Steady.each _ (fun k t => traceTrigger_steady t k 6) (Steady.refl s₅)
  clear_value s₆
  obtain ⟨hd, ht, hj⟩ := ((((h₁.trans h₂).trans h₃).trans h₄).trans h₅).trans h₆
  obtain ⟨h₇, k, hk, hn⟩ := jobChange_told n (fun j => { j with st := .running, loc := 0, locAux := 0 }) s₆
  obtain ⟨-, -, hd₇, ht₇, -, -⟩ := h₇.kept
  refine ⟨_, rfl, hd₇.trans hd, ht₇.trans ht, hn.st, ?_, fun k hk => (h₇.2.2 k hk).trans (js_congr hj k)⟩
  exact hn.s.trans (hk.s.trans (congrArg JobSlot.s (js_congr hj n)))

/-- The job of a slot runs where its axes are at rest outside BELAY. -/
theorem startRun_eq {s : State} {n : Slot} (s0 : Nat) (hr : s.axesRest n = true) (hi : s.dev.inBelay = false) :
    s.startRun n s0 = s.startJob n s0 := by
  obtain ⟨u, hu, hd, -⟩ := s.startJob_eq n s0
  have hb : (s.startJob n s0).dev.inBelay = false := by
    have h := congrArg Dev.inBelay (refresh_dev u 0)
    rw [hu]
    exact h.trans ((congrArg Dev.inBelay hd).trans hi)
  unfold startRun
  rw [if_neg (by simp [hr])]
  exact if_neg (by simp [hb])

theorem not_held_of_otherRuns {s : State} {n k : Slot} (h : s.otherRuns n = false) (hk : k ≠ n) :
    (s.js k).st ≠ .running ∧ (s.js k).st ≠ .holding := by
  unfold otherRuns otherSlot at h
  have h := List.any_eq_false.1 h k (List.mem_finRange k)
  simpa [hk] using h

theorem runSlot_spec {s : State} {n : Slot} (h : s.runSlot = some n) : (s.js n).st = .running := by
  simpa using List.find?_some h

/-- The one job that runs. -/
theorem runSlot_of_only {s : State} {n : Slot} (hn : (s.js n).st = .running) (h : ∀ k : Slot, k ≠ n → (s.js k).st ≠ .running) :
    s.runSlot = some n := by
  cases hr : s.runSlot with
  | none => simpa [hn] using List.find?_eq_none.1 hr n (List.mem_finRange n)
  | some k => exact congrArg some (by_contra fun e => h k e (runSlot_spec hr))

/-- A booted device outside BELAY with a job that runs is in RUN (R31). -/
theorem devState_run {t : State} {n : Slot} (hr : t.dev.rstLow = false) (hv : t.dev.belowVreset = false)
    (hb : t.dev.booted = true) (hi : t.dev.inBelay = false) (hn : (t.js n).st = .running) : t.devState = .run := by
  have ha : ((List.finRange 4).any fun n => decide ((t.js n).st = .running)) = true :=
    List.any_eq_true.2 ⟨n, List.mem_finRange n, by simp [hn]⟩
  simp [devState, hr, hv, hb, hi, ha]

end State
namespace State

variable (s : State)

/-! The end of a job on its beams (R40, R41). -/

/-- A change over a list that holds `a`: what the change at `a` gives and every change keeps. -/
theorem each_mem {α : Type} {P : State → Prop} {l : List α} {f : α → State → State} {a : α} (hm : a ∈ l)
    (hk : ∀ x t, P t → P (f x t)) (ha : ∀ t, P (f a t)) : P (s.each l f) := by
  induction l generalizing s with
  | nil => exact absurd hm List.not_mem_nil
  | cons x l ih =>
    rcases List.mem_cons.1 hm with rfl | h
    · exact each_ind P l f (fun y _ t h => hk y t h) _ (ha s)
    · exact ih (f x s) h

theorem keepCourse_steady (b : Beam) (u : Nat) : s.Steady (s.keepCourse b u) := by
  unfold keepCourse
  split
  · exact Steady.ite (Steady.refl s) ⟨rfl, rfl, rfl⟩
  · exact Steady.refl s

theorem keepCourse_be_ne {b k : Beam} (u : Nat) (h : k ≠ b) : (s.keepCourse b u).be[k] = s.be[k] := by
  unfold keepCourse
  split
  · split
    · rfl
    · exact vupd_get_ne _ _ h
  · rfl

theorem freeBeams_steady (n : Slot) : s.Steady (s.freeBeams n) := by
  refine Steady.each _ (fun b t => ?_) (Steady.refl s)
  dsimp only
  refine Steady.ite ?_ (Steady.refl t)
  exact (keepCourse_steady t b _).trans ⟨rfl, rfl, rfl⟩

/-- No beam belongs to the job any more. -/
theorem freeBeams_free (n : Slot) (k : Beam) : ((s.freeBeams n).be[k]).job ≠ some n := by
  refine each_mem (P := fun t => (t.be[k]).job ≠ some n) s (List.mem_finRange k) (fun b t h => ?_) fun t => ?_
  · dsimp only
    split
    next hb =>
      have e : k ≠ b := by
        rintro rfl
        exact h hb
      have ez : ((t.keepCourse b (t.restPt b).2).zoneDrop b).be[k] = t.be[k] := keepCourse_be_ne t _ e
      have eu (f : BeamEng → BeamEng) : (((t.keepCourse b (t.restPt b).2).zoneDrop b).upBe b f).be[k] = t.be[k] :=
        (vupd_get_ne _ _ e).trans ez
      rw [eu]
      exact h
    · exact h
  · dsimp only
    split
    · have eu (f : BeamEng → BeamEng) (u : State) : (u.upBe k f).be[k] = f u.be[k] := vupd_get_same _ _ _
      rw [eu]
      exact nofun
    next h => exact h

theorem endHeads_steady (n : Slot) (all : Bool) : s.Steady (s.endHeads n all) :=
  Steady.each _ (fun _ t => Steady.ite ⟨rfl, rfl, rfl⟩ (Steady.refl t)) (Steady.refl s)

theorem endJob_steady (n : Slot) : s.Steady (s.endJob n) := by
  unfold endJob
  extract_lets s₁ s₂ l s₃
  have h₁ : s.Steady s₁ := endHeads_steady s n true
  clear_value s₁
  have h₂ : s₁.Steady s₂ := Steady.ite ⟨rfl, rfl, rfl⟩ (Steady.refl s₁)
  clear_value s₂
  have h₃ : s₂.Steady s₃ := Steady.each l (fun b t => (⟨rfl, rfl, rfl⟩ : t.Steady (t.fallbackEnd b))) (Steady.refl s₂)
  clear_value s₃
  refine ((h₁.trans h₂).trans h₃).trans (Steady.trans ?_ (freeBeams_steady _ n))
  exact Steady.ite (Steady.refl s₃) ⟨rfl, rfl, rfl⟩

theorem endJob_free (n : Slot) (k : Beam) : ((s.endJob n).be[k]).job ≠ some n := freeBeams_free _ n k

/-- A change of registers alone. -/
theorem OnlyRegs.of_wr {l : List Nat} {s t : State} (h : s.OnlyRegs l t) : t.be = s.be ∧ t.job = s.job ∧ t.mem = s.mem := by
  have e1 := congrArg State.be h.1
  have e2 := congrArg State.job h.1
  have e3 := congrArg State.mem h.1
  exact ⟨e1, e2, e3⟩

theorem jobPost_onlyRegs (op slot code : Nat) : s.OnlyRegs [R.JOB_RESULT] (s.jobPost op slot code) := by
  have hm := List.mem_singleton_self R.JOB_RESULT
  exact ((((OnlyRegs.refl _ s).setF hm _ _ _).clrB hm _).setF hm _ _ _ |>.setF hm _ _ _).setF hm _ _ _

/-- The results of timed commands that come too late (R403). -/
theorem lateCmds_kept (n : Slot) : (s.lateCmds n).be = s.be ∧ (s.lateCmds n).job = s.job := by
  unfold lateCmds
  extract_lets late l t
  have ht : t.be = s.be ∧ t.job = s.job := ⟨rfl, rfl⟩
  split
  · refine each_ind (fun x => x.be = s.be ∧ x.job = s.job) _ _
      (fun c _ x h => ?_) t ht
    obtain ⟨hb, hj, -⟩ := (jobPost_onlyRegs x c.op c.slot (if c.op = 0 then 0x0C else 4)).of_wr
    exact ⟨hb.trans h.1, hj.trans h.2⟩
  · exact ht

/-- At its commit point a job is DONE without a promise, and its beams are free (R40). -/
theorem commitJob_spec (n : Slot) : ((s.commitJob n).js n).st = .done ∧ ((s.commitJob n).js n).promise = none ∧
    ((s.commitJob n).js n).commitAt = some s.tick ∧ ∀ b : Beam, ((s.commitJob n).be[b]).job ≠ some n := by
  unfold commitJob
  extract_lets s₁ s₂ s₃
  have h₂ : s.Steady s₂ := Steady.each _ (fun _ _ => ⟨rfl, rfl, rfl⟩) (⟨rfl, rfl, rfl⟩ : s.Steady s₁)
  clear_value s₂
  obtain ⟨-, k, -, hn⟩ : Told n s₂ s₃ ∧ ∃ k, (s₂.js n).SameBut k ∧
      ({ k with st := .done, promise := none, commitAt := some s₂.tick } : JobSlot).SameBut (s₃.js n) := jobChange_told n (fun j => { j with st := .done, promise := none, commitAt := some s₂.tick }) s₂
  obtain ⟨-, -, hj⟩ := endJob_steady s₃ n
  obtain ⟨hb, hl⟩ := lateCmds_kept ((s₃.endJob n).upJob fun q => { q with left := some n }) n
  have hf (b : Beam) : ((s₃.endJob n).be[b]).job ≠ some n := endJob_free s₃ n b
  clear_value s₃
  generalize s₃.endJob n = u at hj hb hl hf ⊢
  have hjs : (((u.upJob fun q => { q with left := some n }).lateCmds n).refresh).js n = s₃.js n := by
    rw [refresh_js, js_congr hl]
    exact js_congr hj n
  rw [hjs, refresh_be, hb]
  exact ⟨hn.st, hn.promise, hn.commitAt.trans (congrArg some h₂.2.1), hf⟩

end State

end Sys2Proof.Machine
end

section
/-! SUPPORT. The preparation of a job, and O9 from it (R149 to R151). -/

namespace Sys2Proof.Machine

namespace State

/-! The preparation of a beam (R149). -/

/-- `t` differs from `s` in what a preparation of the beams `l` changes at most: not in time, in the positioning limits or
the pairing, in a slot but for its correction sets, or in another engine. -/
def Prepared (l : List Beam) (s t : State) : Prop :=
  t.tick = s.tick ∧ t.rd R.JOB_POS = s.rd R.JOB_POS ∧ t.twin = s.twin ∧
    (∀ m : Slot, { t.js m with locks := (s.js m).locks } = s.js m) ∧ ∀ b ∉ l, t.be[b] = s.be[b]

theorem Prepared.refl (l : List Beam) (s : State) : Prepared l s s := ⟨rfl, rfl, rfl, fun _ => rfl, fun _ _ => rfl⟩

theorem Prepared.trans {l m : List Beam} {s t u : State} (h : Prepared l s t) (g : Prepared m t u) : Prepared (l ++ m) s u := by
  obtain ⟨h1, h2, h3, h4, h5⟩ := h
  obtain ⟨g1, g2, g3, g4, g5⟩ := g
  refine ⟨g1.trans h1, g2.trans h2, g3.trans h3, fun k => ?_, fun b hb => ?_⟩
  · exact (congrArg (fun x : JobSlot => { x with locks := (s.js k).locks }) (g4 k)).trans (h4 k)
  · rw [List.mem_append, not_or] at hb
    exact (g5 b hb.2).trans (h5 b hb.1)

theorem Prepared.ite {l : List Beam} {s t u : State} {c : Prop} [Decidable c] (ht : Prepared l s t) (hu : Prepared l s u) :
    Prepared l s (if c then t else u) := by
  split
  · exact ht
  · exact hu

variable (s : State)

theorem upHead_prepared (b : Beam) (f : CalHead → CalHead) : Prepared [] s (s.upHead b f) := Prepared.refl [] s

theorem wr_prepared {a : Nat} (v : Word) (h : R.JOB_POS ≠ a) : Prepared [] s (s.wr a v) :=
  ⟨rfl, rd_wr_ne s v h, rfl, fun _ => rfl, fun _ _ => rfl⟩

/-- A change of registers, memory and the host interface. -/
theorem Prepared.of_mask {s t : State} (h : { t with regs := s.regs, mem := s.mem, host := s.host } = s)
    (hr : t.rd R.JOB_POS = s.rd R.JOB_POS) : Prepared [] s t := by
  have ht := congrArg State.tick h
  have hw := congrArg State.twin h
  have hj := congrArg State.job h
  have hb := congrArg State.be h
  exact ⟨ht, hr, hw, fun m => congrArg (fun x : JobSlot => { x with locks := (s.js m).locks }) (js_congr hj m),
    fun b _ => congrArg (·[b]) hb⟩

theorem irq_prepared {st : Nat} (en v i : Nat) (h : R.JOB_POS ≠ st) : Prepared [] s (s.irq st en v i) :=
  .of_mask (congrArg (fun x : State => { x with mem := s.mem }) (irq_frame s st en v i)) (irq_rd_ne s _ _ _ _ h)

theorem promoteNow_prepared (b : Beam) : Prepared [] s (s.promoteNow b) := by
  have h (t : State) : Prepared [] t (t.recalUpdate b) := by
    unfold recalUpdate
    extract_lets r was
    exact ifc_ind _ (Prepared [] t) _ _ (upHead_prepared t b _) fun g => g.trans (irq_prepared _ _ _ _ (by decide))
  exact Prepared.ite ((upHead_prepared s b _).trans (h _)) (Prepared.refl [] s)

theorem wrBytes_prepared (a : Nat) (l : List Byte) : Prepared [] s (s.wrBytes a l) := by
  have hr := congrArg State.regs (wrBytes_frame l s a)
  exact .of_mask (congrArg (fun x : State => { x with regs := s.regs, host := s.host }) (wrBytes_frame l s a)) (rd_congr hr _)

theorem startScratch_prepared (n : Slot) (b : Beam) : Prepared [] s (s.startScratch n b) := by
  unfold startScratch
  extract_lets a lo t
  refine Prepared.ite (Prepared.refl [] s) ?_
  exact (Prepared.refl [] s : Prepared [] s t).trans (wrBytes_prepared t _ _)

theorem checkGone_prepared (b : Beam) : Prepared [] s (s.checkGone b) := by
  have h (t : State) : Prepared [] t (t.calResult 8 0) :=
    (wr_prepared t _ (by decide)).trans (irq_prepared _ _ _ _ (by decide))
  unfold checkGone
  split
  · exact Prepared.ite (Prepared.refl [] s) ((upHead_prepared s b _).trans (h _))
  · exact Prepared.refl [] s

theorem lockSets_prepared (n : Slot) (b : Beam) : Prepared [] s (s.lockSets n b) := by
  refine ⟨rfl, rfl, rfl, fun m => ?_, fun _ _ => rfl⟩
  unfold lockSets
  dsimp only
  by_cases h : m = n
  · rw [h, upSlot_js]
  · rw [upSlot_js_ne _ _ h]

/-- What a beam shows that was prepared for the job of slot `n`: it moves from `x`. -/
def PreparedFor (n : Slot) (x : Nat × Pt) (e : BeamEng) : Prop := e.job = some n ∧ e.fifo = [] ∧ e.posFrom = some x

/-- The engine of a beam set up, after all else of its preparation. -/
theorem Prepared.upBe {s u : State} {b : Beam} {n : Slot} {x : Pt} (f : BeamEng → BeamEng) (h : Prepared [] s u)
    (hf : ∀ e, PreparedFor n (u.tick, x) (f e)) :
    Prepared [b] s (u.upBe b f) ∧ PreparedFor n (s.tick, x) ((u.upBe b f).be[b]) := by
  have h₁ : Prepared [b] u (u.upBe b f) :=
    ⟨rfl, rfl, rfl, fun _ => rfl, fun k hk => vupd_get_ne _ _ (List.ne_of_not_mem_cons hk)⟩
  have e : (u.upBe b f).be[b] = f u.be[b] := vupd_get_same _ _ _
  rw [e, ← h.1]
  exact ⟨h.trans h₁, hf _⟩

/-- One beam is prepared: it belongs to the job, with an empty FIFO, and moves from where it is. -/
theorem prepBeam_spec (n : Slot) (b : Beam) : Prepared [b] s (s.prepBeam n b) ∧
    PreparedFor n (s.tick, s.pos b) ((s.prepBeam n b).be[b]) := by
  unfold prepBeam
  extract_lets p z d w from_ z0 t r e done s₁ s₂ s₃ check s₄
  have h₁ : Prepared [] s s₁ := ((promoteNow_prepared s b).trans (startScratch_prepared _ n b)).trans (Prepared.refl [] _)
  clear_value s₁
  have h₂ : Prepared [] s₁ s₂ := (upHead_prepared s₁ b _).trans ((upHead_prepared _ b _).trans (checkGone_prepared _ b))
  clear_value s₂
  have h₃ : Prepared [] s₂ s₃ := lockSets_prepared s₂ n b
  clear_value s₃
  have h₄ : Prepared [] s₃ s₄ := Prepared.ite (upHead_prepared s₃ b _) (Prepared.refl [] s₃)
  clear_value s₄
  exact Prepared.upBe _ (((h₁.trans h₂).trans h₃).trans h₄) fun _ => ⟨rfl, rfl, rfl⟩

/-- Where a beam is depends on its engine, the tick, the starts and the positioning limits. -/
theorem pos_congr {s t : State} {b : Beam} (hb : t.be[b] = s.be[b]) (ht : t.tick = s.tick)
    (hr : t.rd R.JOB_POS = s.rd R.JOB_POS) (hs : ∀ m : Slot, (t.js m).s = (s.js m).s)
    (hp : ∀ m : Slot, (t.js m).prepCfg = (s.js m).prepCfg) : t.pos b = s.pos b := by
  unfold pos posAt planAt posWord
  simp only [hb, ht, hr, hs, hp]

theorem Prepared.pos {l : List Beam} {s t : State} (h : Prepared l s t) {b : Beam} (hb : b ∉ l) : t.pos b = s.pos b := by
  obtain ⟨h1, h2, -, h4, h5⟩ := h
  refine pos_congr (h5 b hb) h1 h2 (fun m => ?_) fun m => ?_
  · have e := congrArg JobSlot.s (h4 m)
    exact e
  · have e := congrArg JobSlot.prepCfg (h4 m)
    exact e

/-- The beams of a job are prepared one after another, each from where it is. -/
theorem prepBeams_spec (n : Slot) (l : List Beam) (hl : l.Nodup) : ∀ s : State, Prepared l s (s.each l (prepBeam n)) ∧
    ∀ b ∈ l, PreparedFor n (s.tick, s.pos b) ((s.each l (prepBeam n)).be[b]) := by
  induction l with
  | nil => exact fun s => ⟨Prepared.refl [] s, fun b hb => absurd hb List.not_mem_nil⟩
  | cons k l ih =>
    intro s
    obtain ⟨hk, hl⟩ := List.nodup_cons.1 hl
    obtain ⟨h₁, e₁⟩ := prepBeam_spec s n k
    obtain ⟨h₂, e₂⟩ := ih hl (s.prepBeam n k)
    refine ⟨h₁.trans h₂, fun b hb => ?_⟩
    by_cases h : b = k
    · subst h
      have e := h₂.2.2.2.2 b hk
      exact e ▸ e₁
    · have hm := e₂ b ((List.mem_cons.1 hb).resolve_left h)
      rw [h₁.1, h₁.pos (by simpa using h)] at hm
      exact hm

/-! A start is fixed on an unpaired device (R150). -/

/-- The slot whose S is fixed at `at_`. -/
def fixedSlot (n : Slot) (at_ : Nat) (bound : Option Nat) (dt : Option Word) (s : State) (j : JobSlot) : JobSlot :=
  { j with
    s := some at_, startAt := bound.getD at_, dtStart := dt.getD (s.dtAt (w32 (bound.getD at_)))
    dtFin := s.dtAt (w32 (at_ + ((s.js n).promise.map (·.jtFin)).getD 0)) }

theorem fixS_eq {s : State} (h : s.twin.pair = 0) (n : Slot) (at_ : Nat) (bound : Option Nat) (dt : Option Word) :
    s.fixS n at_ bound dt = (s.upSlot n (fixedSlot n at_ bound dt s)).showSlot n := by
  have hf : (((s.upSlot n (fixedSlot n at_ bound dt s)).showSlot n).pairLead) = false := by
    have e := congrArg State.twin (showSlot_slotRegs n (s.upSlot n (fixedSlot n at_ bound dt s))).1
    have e : ((s.upSlot n (fixedSlot n at_ bound dt s)).showSlot n).twin = s.twin := e
    unfold pairLead
    rw [e, h]
    exact Bool.and_false _
  exact if_neg (ne_true_of_eq_false hf)

/-- S is told in the slot alone. -/
theorem fixS_spec {s : State} (h : s.twin.pair = 0) (n : Slot) (at_ : Nat) (bound : Option Nat) (dt : Option Word) :
    Told n s (s.fixS n at_ bound dt) ∧ (s.fixS n at_ bound dt).js n = fixedSlot n at_ bound dt s (s.js n) := by
  rw [fixS_eq h]
  refine ⟨(upSlot_told n _ s).trans (showSlot_told n _), ?_⟩
  rw [showSlot_js, upSlot_js]

/-- The slot whose preparation begins now. -/
def prepSlot (n : Slot) (s : State) (j : JobSlot) : JobSlot :=
  { j with prepAt := some s.tick, tPrep := s.prepNs n, driftAt := s.tick + s.settleNs n }

/-- The slot and the beams of a job whose preparation begins. -/
def beamsPrepared (n : Slot) (s : State) : State := (s.upSlot n (s.prepSlot n)).each (s.js n).named (prepBeam n)

theorem beamsPrepared_spec (n : Slot) (s : State) : (s.beamsPrepared n).twin = s.twin ∧
    (∃ l, { (s.beamsPrepared n).js n with locks := l } = s.prepSlot n (s.js n)) ∧
    ∀ b ∈ (s.js n).named, PreparedFor n (s.tick, s.pos b) ((s.beamsPrepared n).be[b]) := by
  obtain ⟨⟨-, -, hw, hj, -⟩, hb⟩ := prepBeams_spec n (s.js n).named ((List.nodup_finRange 16).filter _)
    (s.upSlot n (s.prepSlot n))
  refine ⟨hw, ⟨_, (hj n).trans (upSlot_js n _ s)⟩, fun b h => ?_⟩
  have e : (s.upSlot n (s.prepSlot n)).pos b = s.pos b := by
    have hk {α : Type} (g : JobSlot → α) (hg : ∀ j, g (s.prepSlot n j) = g j) (m : Slot) :
        g ((s.upSlot n (s.prepSlot n)).js m) = g (s.js m) := by
      by_cases h : m = n
      · rw [h, upSlot_js, hg]
      · rw [upSlot_js_ne _ _ h]
    exact pos_congr rfl rfl rfl (hk JobSlot.s fun _ => rfl) (hk JobSlot.prepCfg fun _ => rfl)
  exact e ▸ hb b h

end State
/-- PREPARATION_BEGIN of an IMMEDIATE start: S at the end of the preparation, and the beams of the job from where they are
(R149, R150). -/
theorem preparationBegin_spec {n : Slot} {s : State} (hp : s.twin.pair = 0) (ha : (s.js n).st = .armed)
    (hn : (s.js n).prepAt = none) (ho : s.otherRuns n = false) (hr : s.axesRest n = true) (hm : (s.js n).startMode = 0) :
    ∃ t, exec (.preparationBegin n) s = .next t ∧ (t.js n).st = .armed ∧ (t.js n).prepAt = some s.tick ∧
      (t.js n).tPrep = s.prepNs n ∧ (t.js n).s = some (s.tick + s.prepNs n) ∧
      ∀ b ∈ (s.js n).named, State.PreparedFor n (s.tick, s.pos b) t.be[b] := by
  obtain ⟨hw, ⟨l, hl⟩, hb⟩ := s.beamsPrepared_spec n
  have hpair : (s.beamsPrepared n).twin.pair = 0 := (congrArg Twin.pair hw).trans hp
  have hq : (s.beamsPrepared n).pairSecond = false := by
    unfold State.pairSecond
    rw [hpair]
    exact Bool.and_false _
  have he : exec (.preparationBegin n) s = .next ((s.beamsPrepared n).fixS n (s.tick + s.prepNs n) none none) := by
    change execPreparationBegin n s = _
    unfold execPreparationBegin
    extract_lets j tp end_ drift u₀ u
    have hu : u.pairSecond = false := hq
    rw [if_neg (by simp [j, ha, hn, ho]), if_neg (by simp [hr]), if_neg (by simp [hu]), if_pos hm]
    rfl
  obtain ⟨ht, hjs⟩ := State.fixS_spec hpair n (s.tick + s.prepNs n) none none
  rw [he]
  refine ⟨_, rfl, ?_, ?_, ?_, ?_, fun b hn => ?_⟩
  · rw [hjs]
    exact (congrArg JobSlot.st hl).trans ha
  · rw [hjs]
    exact congrArg JobSlot.prepAt hl
  · rw [hjs]
    exact congrArg JobSlot.tPrep hl
  · rw [hjs]
    rfl
  · rw [ht.kept.1]
    exact hb b hn

/-- PREPARATION_END: READY (R149). -/
theorem preparationEnd_spec {n : Slot} {t0 : Nat} {s : State} (ha : (s.js n).st = .armed) (hr : (s.js n).ready = false)
    (hp : (s.js n).prepAt = some t0) (ht : t0 + (s.js n).tPrep ≤ s.tick) :
    ∃ t, exec (.preparationEnd n) s = .next t ∧ (t.js n).ready = true ∧ (t.js n).st = .armed ∧ t.be = s.be ∧
      t.mem = s.mem := by
  have h (f : JobSlot → JobSlot) (hf : ∀ j, (f j).ready = true ∧ (f j).st = j.st) :
      (((s.upSlot n f).showSlot n).js n).ready = true ∧ (((s.upSlot n f).showSlot n).js n).st = .armed ∧
        ((s.upSlot n f).showSlot n).be = s.be ∧ ((s.upSlot n f).showSlot n).mem = s.mem := by
    obtain ⟨hb, hm, -⟩ := ((State.upSlot_told n f s).trans (State.showSlot_told n _)).kept
    rw [State.showSlot_js, State.upSlot_js]
    exact ⟨(hf _).1, (hf _).2.trans ha, hb, hm⟩
  change ∃ t, execPreparationEnd n s = _ ∧ _
  unfold execPreparationEnd
  extract_lets j
  rw [show j.prepAt = some t0 from hp]
  dsimp only
  rw [if_pos ⟨ha, by simp [j, hr], ht⟩]
  exact ⟨_, rfl, h _ fun _ => ⟨rfl, rfl⟩⟩

/-- DRIFT_CUTOFF ends the check (R349). -/
theorem driftCutoff_spec {b : Beam} {c : DriftCheck} {s : State} (hc : (s.cal.head[b]).check = some c) (hp : c.inPrep = true)
    (hl : s.checkLate b c = true) (hw : s.regsWf) :
    ∃ t, exec (.driftCutoff b) s = .next t ∧ (t.cal.head[b]).check = none ∧ t.rb (R.CAL_Hn_STATUS b.val) 5 = true ∧
      (∃ r, t.hub.pending = s.hub.pending ++ [r] ∧ r.id = 0x5B) ∧ (t.cal.head[b]).eng = (s.cal.head[b]).eng := by
  have he : exec (.driftCutoff b) s = .next (s.checkCut b) := by
    change execDriftCutoff b s = _
    unfold execDriftCutoff
    rw [hc]
    exact congrArg Host.Outcome.next (if_pos ⟨hp, hl⟩)
  have hh : (s.upHead b fun h => { h with check := none }).cal.head[b] = { s.cal.head[b] with check := none } :=
    vupd_get_same _ _ _
  have hc' := congrArg CalHead.check hh
  have hg := congrArg CalHead.eng hh
  rw [he]
  refine ⟨_, rfl, hc', ?_, ⟨_, rfl, rfl⟩, hg⟩
  exact State.rb_setB (s := s.upHead b fun h => { h with check := none }) hw _ 5 (by decide)

/-- JOB_START at S: the job runs, and JT counts from S (R40, R151). -/
theorem jobStart_spec {n : Slot} {s0 : Nat} {s : State} (hst : (s.js n).st = .armed) (hs : (s.js n).s = some s0)
    (ht : s0 ≤ s.tick) (hp : (s.js n).prepAt.isSome = true) (ho : s.otherRuns n = false) (hr : s.axesRest n = true)
    (hi : s.dev.inBelay = false) (hb : s.dev.booted = true) (hl : s.dev.rstLow = false) (hv : s.dev.belowVreset = false) :
    ∃ t, exec (.jobStart n) s = .next t ∧ (t.js n).st = .running ∧ t.dev.state = .run ∧ t.jt = some (s.tick - s0) ∧
      t.tick = s.tick := by
  obtain ⟨u, hu, hd, htick, hn, hs', hk⟩ := s.startJob_eq n s0
  have he : exec (.jobStart n) s = .next (s.startRun n s0) := by
    change execJobStart n s = _
    unfold execJobStart
    extract_lets j
    rw [show j.s = some s0 from hs]
    dsimp only
    rw [if_neg (by simp [j, hst, ht]), if_neg (by simp [j, ho, Option.isSome_iff_ne_none.1 hp])]
  have hrun : u.refresh.runSlot = some n := by
    rw [State.runSlot_congr (State.refresh_job u 0)]
    refine State.runSlot_of_only hn fun k h => ?_
    rw [hk k h]
    exact (State.not_held_of_otherRuns ho h).1
  rw [he, State.startRun_eq s0 hr hi, hu]
  refine ⟨_, rfl, ?_, ?_, ?_, (State.refresh_tick u 0).trans htick⟩
  · rw [State.refresh_js]
    exact hn
  · rw [State.refresh_state]
    exact State.devState_run (by rw [hd]; exact hl) (by rw [hd]; exact hv) (by rw [hd]; exact hb) (by rw [hd]; exact hi) hn
  · unfold State.jt State.jtAt
    rw [hrun]
    dsimp only
    rw [State.refresh_js, hs', hs, State.refresh_tick, htick]
    exact if_pos ht

/-- Settles O9: each command of a job's life by what its parts leave alone. -/
theorem jobLife : Obligations.JobLife := by
  unfold Obligations.JobLife
  refine ⟨fun n s hp ha hn ho hr hm => preparationBegin_spec hp ha hn ho hr hm,
    fun n t0 s ha hr hp ht => preparationEnd_spec ha hr hp ht, fun b c s hc hp hl hw => driftCutoff_spec hc hp hl hw,
    fun n s0 s hst hs ht hp ho hr hi hb hl hv => jobStart_spec hst hs ht hp ho hr hi hb hl hv,
    fun n s hn hm hc => ?_, fun n fin s hn hm hq => ?_⟩
  · refine ⟨s.commitJob n, ?_, s.commitJob_spec n⟩
    change execJobCommit s = _
    unfold execJobCommit
    rw [hn]
    dsimp only
    rw [hm]
    exact if_pos hc
  · obtain ⟨hb, hmem, hj, hh⟩ := s.promiseMiss_kept 2 0 fin
    refine ⟨s.promiseMiss 2 0 fin, _, ?_, ?_, congrArg Hub.pending hh, rfl, hj, hb, hmem⟩
    · change execJobCommit s = _
      unfold execJobCommit
      rw [hn]
      dsimp only
      rw [hm]
      exact if_pos hq
    · rw [State.js_congr hj]
      exact State.runSlot_spec hn

end Sys2Proof.Machine
end

section
/-! SUPPORT. Job commands of an unpaired device, and O6 from them (R141, R142, R145, R147, R148). -/

namespace Sys2Proof.Machine

namespace State

variable (s : State)

/-! A job command notes the time of its result (R141): JOB_RESULT_FRC changes, and no check reads it. -/

/-- The state in which a job command of an unpaired device is carried out. -/
def asked (s : State) : State := s.wr R.JOB_RESULT_FRC s.frc

theorem asked_rd {a : Nat} (h : a ≠ R.JOB_RESULT_FRC) : s.asked.rd a = s.rd a := rd_wr_ne s _ h

/-! What is read of memory alone. -/

section
variable {s} {t : State} (h : t.mem = s.mem)
include h

theorem rdN_congr (a n : Nat) : t.rdN a n = s.rdN a n := congrArg ofBytes (rdBytes_congr h a n)

theorem machAxesGo_congr (a n k : Nat) : ∀ i m, machAxesGo t a n k i m = machAxesGo s a n k i m := by
  have hw (i : Nat) : t.imgWord a i = s.imgWord a i := congrArg (BitVec.ofNat 64) (rdN_congr h _ 8)
  induction k with
  | zero => exact fun _ _ => rfl
  | succ k ih =>
    intro i m
    unfold machAxesGo
    simp only [hw, ih]

theorem machAxes_congr (a : Nat) : t.machAxes a = s.machAxes a := by
  unfold machAxes imgCode imgEntry
  rw [rdN_congr h, rdN_congr h, machAxesGo_congr h]

theorem jobAxes_congr (hj : t.job = s.job) (n : Slot) : t.jobAxes n = s.jobAxes n := by
  unfold jobAxes
  simp only [js_congr hj, machAxes_congr h]

theorem axesRest_congr (hj : t.job = s.job) (hx : t.ax = s.ax) (n : Slot) : t.axesRest n = s.axesRest n := by
  unfold axesRest axReady
  rw [jobAxes_congr h hj, hx]

end

theorem asked_axesRest (n : Slot) : s.asked.axesRest n = s.axesRest n :=
  axesRest_congr (s := s) (t := s.asked) rfl rfl rfl n

theorem asked_commitReady (n : Slot) : s.asked.commitReady n = s.commitReady n := by
  unfold commitReady
  rw [asked_axesRest]
  rfl

/-! A job command of an unpaired device (R141). -/

theorem unpost_onlyRegs (t : State) : t.OnlyRegs [R.JOB_RESULT] t.unpost :=
  (OnlyRegs.refl _ t).setF (List.mem_singleton_self _) _ _ _

theorem OnlyRegs.trans {l : List Nat} {s t u : State} (h : s.OnlyRegs l t) (g : t.OnlyRegs l u) : s.OnlyRegs l u :=
  ⟨(congrArg (fun x : State => { x with regs := s.regs }) g.1).trans h.1, fun a ha => (g.2 a ha).trans (h.2 a ha)⟩

theorem asked_unpaired {s : State} (hp : s.twin.pair = 0) : s.asked.twin.pair ≠ 1 ∧ s.asked.pairLead = false := by
  have e : s.asked.twin.pair = 0 := hp
  unfold pairLead
  rw [e]
  exact ⟨nofun, Bool.and_false _⟩

theorem jobPost_code {t : State} (h : t.regsWf) (op slot code : Nat) : (t.jobPost op slot code).rf R.JOB_RESULT 7 0 = code % 256 :=
  rf_setF (regsWf_wr (regsWf_wr (regsWf_wr (regsWf_wr h _ _) _ _) _ _) _ _) _ 7 0 code (by decide) (by decide)

/-- What a job command does, but for its results. -/
theorem jobIssue_regs {s : State} (hp : s.twin.pair = 0) (hb : s.rb R.JOB_RESULT 23 = false) (op : Nat) (n : Slot) :
    (s.asked.jobDo op n).1.OnlyRegs [R.JOB_RESULT] (s.jobIssue op n) := by
  obtain ⟨h1, h2⟩ := asked_unpaired hp
  unfold jobIssue
  rw [if_neg (by simp [hb]), if_neg (by simp [hp])]
  extract_lets u held m0
  change u.twin.pair ≠ 1 at h1
  change u.pairLead = false at h2
  rw [if_neg h1, if_neg (ne_true_of_eq_false h2)]
  change (u.jobDo op n).1.OnlyRegs _ _
  obtain ⟨t, c, m⟩ := u.jobDo op n
  dsimp -zeta only
  extract_lets t₁ t₂
  have h₁ : t.OnlyRegs [R.JOB_RESULT] t₁ := by
    unfold t₁
    split
    · exact unpost_onlyRegs t
    · exact OnlyRegs.refl _ t
  have h₂ : t.OnlyRegs [R.JOB_RESULT] t₂ := h₁.trans (jobPost_onlyRegs t₁ _ _ _)
  split
  · exact h₂.trans (jobPost_onlyRegs t₂ _ _ _)
  · exact h₂

/-- The result that a job command posts, but for an ABORT. -/
theorem jobIssue_code {s : State} (hp : s.twin.pair = 0) (hb : s.rb R.JOB_RESULT 23 = false) (hw : s.regsWf) {op : Nat}
    (ho : op ≠ 4) (n : Slot) : (s.jobIssue op n).rf R.JOB_RESULT 7 0 = (s.asked.jobDo op n).2.1 % 256 := by
  obtain ⟨h1, h2⟩ := asked_unpaired hp
  have hk : (s.asked.jobDo op n).1.regsWf :=
    (jobDo_kept op n s.asked (Kept.refl _)).2.2 (regsWf_wr hw _ _)
  unfold jobIssue
  rw [if_neg (by simp [hb]), if_neg (by simp [hp])]
  extract_lets u held m0
  change u.twin.pair ≠ 1 at h1
  change u.pairLead = false at h2
  rw [if_neg h1, if_neg (ne_true_of_eq_false h2)]
  change _ = (u.jobDo op n).2.1 % 256
  change (u.jobDo op n).1.regsWf at hk
  generalize u.jobDo op n = r at hk ⊢
  have hf (c : Nat) : ¬(held ∧ c = 0) := fun h => ho h.1.1
  obtain ⟨t, c, m⟩ := r
  dsimp only
  rw [if_neg (hf c), if_neg (hf c)]
  exact jobPost_code hk op m c

end State
namespace State

variable (s : State)

/-! No start is due (R147). -/

theorem mem_armedSlots {s : State} {k : Slot} (h : k ∈ s.armedSlots) : (s.js k).st = .armed := by
  simpa using (List.mem_filter.1 h).2

theorem startDue_id {s : State} (h : s.noStartDue) : s.startDue = s := by
  unfold startDue
  split
  next k l hk =>
    split
    next s0 hs =>
      refine if_pos ?_
      rcases h k s0 (mem_armedSlots (hk ▸ List.mem_cons_self)) hs with h | h
      · exact .inl h
      · exact .inr (.inl (by rw [h]; rfl))
    · rfl
  · rfl

theorem startDue_of_running {s : State} {n : Slot} (h : s.runSlot = some n) : s.startDue = s := by
  have hn := runSlot_spec h
  unfold startDue
  split
  next k l hk =>
    split
    · refine if_pos (.inr (.inr ?_))
      have ha := mem_armedSlots (s := s) (k := k) (hk ▸ List.mem_cons_self)
      have e : n ≠ k := by
        rintro rfl
        rw [hn] at ha
        exact absurd ha nofun
      exact List.any_eq_true.2 ⟨n, List.mem_finRange n, by simp [e, hn]⟩
    · rfl
  · rfl

/-! SUBMIT (R145). -/

/-- A new job in an EMPTY slot, its JOB_ID in no other (R145). -/
theorem opSubmit_spec {s : State} {n : Slot} {d : BitVec 1024} (hi : s.dev.inBelay = false) (he : (s.js n).st = .empty)
    (ha : s.descAddr n % 128 = 0) (hd : s.inDdr (s.descAddr n) 128 = true)
    (hr : BitVec.ofNat 1024 (s.rdN (s.descAddr n) 128) = d)
    (hk : ∀ k : Slot, (s.js k).st = .empty ∨ (s.js k).jobId ≠ ({ resetSlot with desc := d } : JobSlot).jobId) :
    ∃ v, s.opSubmit n = (v, 0, n.val) ∧ (v.js n).st = .analysing ∧ v.job.queue = s.job.queue ++ [n] ∧ (v.js n).desc = d ∧
      v.mem = s.mem := by
  subst hr
  unfold opSubmit
  extract_lets a desc r j u same twin
  have hne (k : Slot) : ¬((u.js k).st ≠ .empty ∧ (u.js k).jobId = j.jobId) :=
    fun h => (hk k).elim h.1 fun e => e h.2
  have hs : same = none := List.find?_eq_none.2 fun k _ h => hne k (of_decide_eq_true h)
  have ht : twin = none := List.find?_eq_none.2 fun k _ h => hne k ((of_decide_eq_true h).imp_right And.left)
  rw [if_neg (by simp [hi]), if_neg (by simp [he]), if_neg (by simp [a, ha, hd]), hs, ht]
  obtain ⟨hu, k, -, hn⟩ := jobChange_told n (fun _ => { j with st := .analysing }) u
  obtain ⟨-, hm, -, -, -, hq⟩ := hu.kept
  exact ⟨_, rfl, hn.st, congrArg (· ++ [n]) hq, hn.desc, hm⟩

/-! ARM (R148). -/

/-- `t` has the device record, the tick, the jobs and the pairing of `o`. -/
def PairSteady (o t : State) : Prop := o.Steady t ∧ t.twin.pair = o.twin.pair

theorem PairSteady.refl (o : State) : o.PairSteady o := ⟨Steady.refl o, rfl⟩

theorem PairSteady.trans {o s t : State} (h : o.PairSteady s) (g : s.PairSteady t) : o.PairSteady t :=
  ⟨h.1.trans g.1, g.2.trans h.2⟩

/-- A mask of other fields leaves them. -/
theorem PairSteady.of_mask {s t u : State} (h : u = s) (g : u.PairSteady t) : s.PairSteady t := h ▸ g

theorem wr_pairSteady (a : Nat) (v : Word) : s.PairSteady (s.wr a v) := ⟨wr_steady s a v, rfl⟩

theorem cutItems_pairSteady (b : Beam) (e : Int) : s.PairSteady (s.cutItems b e) := by
  unfold cutItems
  extract_lets g
  split
  · exact PairSteady.refl s
  · exact ⟨⟨rfl, rfl, rfl⟩, rfl⟩

theorem digItem_pairSteady (k ord rank : Nat) (l : List Byte) : s.PairSteady (s.digItem k ord rank l) := by
  unfold digItem
  split
  · exact ⟨⟨rfl, rfl, rfl⟩, rfl⟩
  · exact PairSteady.refl s

theorem gateItem_pairSteady (b : Beam) (e : Int) (rise : Bool) : s.PairSteady (s.gateItem b e rise) := by
  unfold gateItem
  extract_lets g was t
  split
  · exact cutItems_pairSteady s b e
  · exact (cutItems_pairSteady s b e).trans (digItem_pairSteady t _ _ _ _)

theorem gateEdge_pairSteady (b : Beam) (e : Int) (rise : Bool) : s.PairSteady (s.gateEdge b e rise) :=
  .of_mask (gateEdge_onlyLight (s := s) b e rise rfl) ⟨⟨rfl, rfl, rfl⟩, rfl⟩

theorem irq_pairSteady (st en v i : Nat) : s.PairSteady (s.irq st en v i) :=
  .of_mask (irq_frame s st en v i) ⟨⟨rfl, rfl, rfl⟩, rfl⟩

theorem expoClose_pairSteady (b : Beam) (k : Nat) : s.PairSteady (s.expoClose b k) := ⟨⟨rfl, rfl, rfl⟩, rfl⟩

theorem upSrc_pairSteady (b : Beam) (f : CalSource → CalSource) : s.PairSteady (s.upSrc b f) := ⟨⟨rfl, rfl, rfl⟩, rfl⟩

theorem expoAbort_pairSteady (b : Beam) : s.PairSteady (s.expoAbort b) := by
  unfold expoAbort
  split
  · exact PairSteady.refl s
  · extract_lets s₁ s₂
    have h₁ : s.PairSteady s₁ :=
      ((gateItem_pairSteady s b _ _).trans (expoClose_pairSteady _ b _)).trans (gateEdge_pairSteady _ b _ _)
    clear_value s₁
    exact ((h₁.trans (upSrc_pairSteady s₁ b _)).trans (wr_pairSteady _ _ _)).trans (irq_pairSteady _ _ _ _ _)

theorem expoAborts_pairSteady : s.PairSteady (s.each (List.finRange 16) expoAbort) :=
  each_ind s.PairSteady _ _ (fun b _ t h => h.trans (expoAbort_pairSteady t b)) s (PairSteady.refl s)

/-- What ARM makes of the slot's state. -/
def armSlot (u : State) (j : JobSlot) : JobSlot :=
  { j with
    st := .armed, ready := false, early := 0, s := none, dtStart := 0, dtFin := 0, prepAt := none, started := false
    armAt := u.tick, prepCfg := #v[u.rd R.JOB_POS, u.rd R.JOB_SETTLE, u.rd R.JOB_PREP]
    predSlot := if j.mode = 2 && !j.remainder then u.runSlot else none, autoWait := false }

/-- The start that an ARM with start mode 1 fixes (R148). -/
def armStart (n : Slot) (j : JobSlot) (u : State) : State :=
  if (u.js n).startMode = 1 ∧ !u.pairSecond then
    match u.tickOfDt (w32 j.param) with
    | some t => u.fixS n t none (some (w32 j.param))
    | none => u
  else u

/-- The work of ARM behind the digest of a paired one. -/
def armWork (n : Slot) (j : JobSlot) (s : State) : State :=
  (armStart n j (s.jobChange n (armSlot s))).refresh

theorem armJob_eq (s : State) (n : Slot) : s.armJob n =
    armWork n (s.js n) ((if s.twin.pair = 2 then s.putCfgDigest else s).each (List.finRange 16) expoAbort) := rfl


/-- Fixing S of a slot keeps its state, its promise and the tick of its ARM. -/
theorem armStart_js {u : State} (hp : u.twin.pair = 0) (n : Slot) (j : JobSlot) :
    ((armStart n j u).js n).st = (u.js n).st ∧ ((armStart n j u).js n).promise = (u.js n).promise ∧
      ((armStart n j u).js n).armAt = (u.js n).armAt := by
  unfold armStart
  split
  · split
    · rw [(fixS_spec hp n _ none _).2]
      exact ⟨rfl, rfl, rfl⟩
    · exact ⟨rfl, rfl, rfl⟩
  · exact ⟨rfl, rfl, rfl⟩

/-- An ARM of an unpaired device: ARMED with its promise, at the tick of the command (R148). -/
theorem armJob_spec {s : State} (hp : s.twin.pair = 0) (n : Slot) : ((s.armJob n).js n).st = .armed ∧
    ((s.armJob n).js n).promise = (s.js n).promise ∧ ((s.armJob n).js n).armAt = s.tick := by
  obtain ⟨⟨-, htick, hjob⟩, hpair⟩ := s.expoAborts_pairSteady
  rw [armJob_eq, if_neg (by omega), ← htick, ← js_congr hjob n]
  generalize s.each (List.finRange 16) expoAbort = u at htick hjob hpair ⊢
  unfold armWork
  rw [refresh_js]
  obtain ⟨h, k, hk, hn⟩ := jobChange_told n (armSlot u) u
  obtain ⟨-, -, -, -, ht, -⟩ := h.kept
  obtain ⟨h1, h2, h3⟩ := armStart_js ((congrArg Twin.pair ht).trans (hpair.trans hp)) n (u.js n)
  exact ⟨h1.trans hn.st, h2.trans (hn.promise.trans hk.promise), h3.trans hn.armAt⟩

end State
namespace State

variable (s : State)

/-! No check of ARM reads the time of a result. -/

theorem asked_timeAlike : s.TimeAlike s.asked :=
  ⟨rfl, rfl, fun _ h => s.asked_rd (Nat.ne_of_lt (h.trans (by decide)))⟩

theorem asked_tickOfDt (v : Word) : s.asked.tickOfDt v = s.tickOfDt v := by
  have h := s.asked_timeAlike
  have hc (d : Dom) (f : Word) : s.asked.corr d f = s.corr d f :=
    corr_congr (h.2.2 _ (timeReg_lt (by decide) d)) (h.2.2 _ (timeReg_lt (by decide) d)) (h.dom d)
  have ha (x : Nat) : s.asked.dtAhead x = s.dtAhead x := by
    unfold dtAhead slewStep rf
    simp only [h.bell, hc, h.frc, h.rate, h.1, h.2.2 R.TIME_SLEW (by decide)]
  have hs (d : Int) (k : Nat) : ∀ lo, s.asked.dtSearch d k lo = s.dtSearch d k lo := by
    induction k with
    | zero => exact fun _ => rfl
    | succ k ih =>
      intro lo
      unfold dtSearch
      simp only [ha, ih]
  unfold tickOfDt dt
  simp only [h.frc, h.dtAt, hs]
  rfl

theorem asked_pos (b : Beam) : s.asked.pos b = s.pos b :=
  pos_congr rfl rfl (s.asked_rd (by decide)) (fun _ => rfl) fun _ => rfl

theorem asked_focusAt (b : Beam) (t : Nat) : s.asked.focusAt b t = s.focusAt b t := by
  unfold focusAt focusQ posWord
  rw [s.asked_rd (by decide)]
  rfl

theorem asked_travelNs (n : Slot) (b : Beam) : s.asked.travelNs n b = s.travelNs n b := by
  unfold travelNs headFrom startPoint startFocus imgStart imgStartZ rd32
  simp only [asked_pos, asked_focusAt, rdN_congr (s := s) (t := s.asked) rfl]
  rfl

theorem asked_prepNs (n : Slot) : s.asked.prepNs n = s.prepNs n := by
  unfold prepNs settleNs
  rw [show s.asked.travelNs n = s.travelNs n from funext (asked_travelNs s n)]
  rfl

theorem asked_axesReady (n : Slot) : s.asked.axesReady n = s.axesReady n := by
  unfold axesReady
  simp only [jobAxes_congr (s := s) (t := s.asked) rfl rfl]
  rfl

theorem asked_thermOk (n : Slot) : s.asked.thermOk n = s.thermOk n := rfl

theorem asked_fabOk (n : Slot) : s.asked.fabOk n = s.fabOk n := rfl


theorem asked_armCheck (hp : s.twin.pair = 0) (n : Slot) : s.asked.armCheck n = s.armCheck n := by
  have hs : s.pairSecond = false := by
    unfold pairSecond
    rw [hp]
    exact Bool.and_false _
  have hr (k : Nat) : s.asked.rd (R.TIME_TCn_CTL (k % 16)) = s.rd (R.TIME_TCn_CTL (k % 16)) :=
    s.asked_timeAlike.2.2 _ (by unfold R.TIME_TCn_CTL; omega)
  have hu (f : JobSlot → JobSlot) : (s.asked.upSlot n f).prepNs n = (s.upSlot n f).prepNs n := asked_prepNs (s.upSlot n f) n
  have hrest : s.asked.armRest n = s.armRest n := by
    unfold armRest rf
    simp only [asked_thermOk, asked_fabOk, asked_axesReady, asked_tickOfDt, hr, hu, s.asked_rd (a := R.JOB_POS) (by decide),
      s.asked_rd (a := R.JOB_SETTLE) (by decide), s.asked_rd (a := R.JOB_PREP) (by decide), hs,
      show s.asked.pairSecond = s.pairSecond from rfl]
    rfl
  unfold armCheck
  rw [hrest]
  rfl

end State
namespace State

variable (s : State)

/-! A job that returns to ACCEPTED. -/

theorem restore_steady (l : List (Nat × Word)) : s.Steady (s.restore l) := by
  unfold restore
  induction l generalizing s with
  | nil => exact Steady.refl s
  | cons w l ih => exact (wrBytes_steady s w.1 _).trans (ih (s.wrN w.1 4 w.2.toNat))

theorem unprepare_steady (n : Slot) : s.Steady (s.unprepare n) := by
  refine Steady.each _ (fun b t => ?_) (Steady.refl s)
  dsimp only
  refine Steady.ite (Steady.ite (Steady.refl t) ?_) (Steady.refl t)
  exact (restore_steady t _).trans ⟨rfl, rfl, rfl⟩

theorem releaseBeams_steady (n : Slot) : s.Steady (s.releaseBeams n) :=
  Steady.ite (unprepare_steady s n) (freeBeams_steady s n)

/-- A withdrawn slot: ACCEPTED again, without promise or S (R147). -/
theorem withdraw_spec (n : Slot) : ((s.withdraw n).js n).st = .accepted ∧ ((s.withdraw n).js n).promise = none ∧
    ((s.withdraw n).js n).withdrawn = true ∧ ((s.withdraw n).js n).s = none := by
  unfold withdraw
  generalize s.releaseBeams n = u
  obtain ⟨-, k, -, hn⟩ := jobChange_told n (fun j => { j with
    st := .accepted, promise := none, withdrawn := true, ready := false, early := 0, s := none, dtStart := 0, dtFin := 0,
    prepAt := none, predSlot := none, started := false }) u
  exact ⟨hn.st, hn.promise, hn.withdrawn, hn.s⟩

/-! The commands on a slot in its state (R142). -/

theorem opArm_spec {s : State} {n : Slot} (hi : s.dev.inBelay = false) (hs : (s.js n).st = .accepted)
    (hc : s.twin.confirm = false) (hm : (s.js n).promise.isSome = true) (ha : s.armCheck n = 0) :
    s.opArm n = (s.armJob n, 0, n.val) := by
  have hm' : ¬(s.js n).promise.isNone = true := by
    rw [← Option.not_isSome, hm]
    exact nofun
  have hk : s.armCode n = 0 := by
    unfold armCode
    rw [if_neg (by simp [hi]), if_neg (by simp [hs, hc]), if_neg hm', ha]
  unfold opArm
  rw [hk]
  exact congrArg (·, 0, n.val) ((if_neg (fun h => h rfl)).trans (if_neg hm'))

theorem opDisarm_spec {s : State} {n : Slot} (h : (s.js n).st = .armed) : ∃ v, s.opDisarm n = (v, 0, n.val) ∧
    (v.js n).st = .accepted ∧ (v.js n).promise = none ∧ (v.js n).withdrawn = true ∧ (v.js n).s = none := by
  refine ⟨_, if_neg fun g => g h, ?_⟩
  rw [refresh_js]
  exact withdraw_spec _ n

theorem opDisarm_refused {s : State} {n : Slot} (h : (s.js n).st ≠ .armed) : s.opDisarm n = (s, 2, n.val) := if_pos h

theorem opResume_spec {s : State} {n : Slot} (hi : s.dev.inBelay = false) (hs : (s.js n).st = .holding) :
    ∃ v, s.opResume n = (v, 0, n.val) ∧ (v.js n).st = .analysing ∧ (v.js n).remainder = true ∧
      v.job.queue = n :: s.job.queue := by
  unfold opResume
  rw [if_neg (by simp [hi]), if_neg fun g => g hs]
  extract_lets s₁ s₂ s₃
  have h₁ : s.Steady s₁ := Steady.each _ (fun b t => keepCourse_steady t b _) (Steady.refl s)
  clear_value s₁
  have h₂ : s.Steady s₂ := h₁.trans ⟨rfl, rfl, rfl⟩
  clear_value s₂
  obtain ⟨h₃, k, -, hn⟩ := jobChange_told n (fun j =>
      { noBeams j with
        st := .analysing, phase := 0, remainder := true, code := 0, walked := 0, fin := 0, s := none, dtStart := 0
        dtFin := 0, ready := false, prepAt := none, early := 0, twinAns := none }) s₂
  obtain ⟨-, -, -, -, -, hq⟩ := h₃.kept
  refine ⟨_, rfl, ?_⟩
  rw [refresh_js, refresh_job]
  exact ⟨hn.st, hn.remainder, congrArg (n :: ·) (hq.trans (congrArg JobBlock.queue h₂.2.2))⟩

theorem opRelease_spec {s : State} {n : Slot} (h : (s.js n).st = .accepted ∨ (s.js n).st = .rejected ∨ (s.js n).st = .done ∨
    (s.js n).st = .aborted) : ∃ v, s.opRelease n = (v, 0, n.val) ∧ (v.js n).st = .empty ∧ (v.js n).promise = none := by
  unfold opRelease
  extract_lets j u
  generalize u.dropStops n = w
  obtain ⟨-, k, -, hn⟩ := jobChange_told n (fun j => { resetSlot with seq := j.seq }) w
  refine ⟨_, if_pos h, ?_⟩
  rw [refresh_js]
  exact ⟨hn.st, hn.promise⟩

/-- In BELAY no job is submitted, armed or resumed (R36). -/
theorem jobDo_belay {s : State} {op : Nat} (n : Slot) (ho : op = 1 ∨ op = 2 ∨ op = 5) (hi : s.dev.inBelay = true)
    (hd : s.startDue = s) : s.jobDo op n = (s, 3, n.val) := by
  have ha : s.opArm n = (s, 3, n.val) := by
    unfold opArm armCode
    rw [if_pos hi]
    rfl
  rcases ho with rfl | rfl | rfl
  · exact (congrArg (opSubmit n) hd).trans (if_pos hi)
  · exact (congrArg (opArm n) hd).trans ha
  · exact (congrArg (opResume n) hd).trans (if_pos hi)

/-! A start that is due (R147). -/

/-- The promise of a job whose axes are not ready is withdrawn (R331). -/
theorem axesBar_spec (n : Slot) : ((s.axesBar n).js n).st = .accepted ∧ ((s.axesBar n).js n).promise = none ∧
    ((s.axesBar n).js n).withdrawn = true := by
  unfold axesBar
  rw [refresh_js]
  obtain ⟨h1, h2, h3, -⟩ := withdraw_spec (s.upSlot n fun j => { j with locAux := 2 }) n
  exact ⟨h1, h2, h3⟩

theorem startDue_due {s : State} {n : Slot} {s0 : Nat} (ha : s.armedSlots = [n]) (hs : (s.js n).s = some s0) (hl : s0 ≤ s.tick)
    (hp : (s.js n).prepAt.isSome = true) (ho : s.otherRuns n = false) : s.startDue = s.startRun n s0 := by
  unfold startDue
  rw [ha]
  dsimp only
  rw [hs]
  refine if_neg ?_
  rintro (h | h | h)
  · exact absurd h (Nat.not_lt.2 hl)
  · rw [Option.isNone_iff_eq_none.1 h] at hp
    exact absurd hp nofun
  · exact absurd (h.symm.trans ho) nofun

/-- A DISARM that comes with a start that is due finds the slot started, or withdrawn (R147). -/
theorem disarm_due {s : State} {n : Slot} {s0 : Nat} (hi : s.dev.inBelay = false) (hd : s.startDue = s.startRun n s0) :
    s.jobDo 3 n = (s.startRun n s0, 2, n.val) ∧ (s.axesRest n = true → ((s.startRun n s0).js n).st = .running) ∧
      (s.axesRest n = false → ((s.startRun n s0).js n).st = .accepted ∧ ((s.startRun n s0).js n).promise = none ∧
        ((s.startRun n s0).js n).withdrawn = true) := by
  have h1 (h : s.axesRest n = true) : ((s.startRun n s0).js n).st = .running := by
    obtain ⟨u, hu, -, -, hst, -⟩ := s.startJob_eq n s0
    rw [startRun_eq s0 h hi, hu, refresh_js]
    exact hst
  have h2 (h : s.axesRest n = false) : s.startRun n s0 = s.axesBar n := if_pos (by simp [h])
  refine ⟨?_, h1, fun h => ?_⟩
  · have hne : ((s.startRun n s0).js n).st ≠ .armed := by
      cases h : s.axesRest n with
      | true => rw [h1 h]; exact nofun
      | false => rw [h2 h, (axesBar_spec s n).1]; exact nofun
    unfold jobDo
    rw [hd]
    exact opDisarm_refused hne
  · rw [h2 h]
    exact axesBar_spec s n

end State
namespace State

/-- What a job command other than an ABORT leaves of its work `u`, with the code that it posts. -/
theorem jobIssue_spec {s u : State} (op : Nat) {c m : Nat} {n : Slot} (hp : s.twin.pair = 0) (hb : s.rb R.JOB_RESULT 23 = false)
    (hw : s.regsWf) (ho : op ≠ 4) (hd : s.asked.jobDo op n = (u, c, m)) :
    (∀ k, (s.jobIssue op n).js k = u.js k) ∧ (s.jobIssue op n).job = u.job ∧ (s.jobIssue op n).be = u.be ∧
      (s.jobIssue op n).mem = u.mem ∧ (s.jobIssue op n).rf R.JOB_RESULT 7 0 = c % 256 := by
  have h := jobIssue_regs hp hb op n
  have hc := jobIssue_code hp hb hw ho n
  rw [hd] at h hc
  obtain ⟨h1, h2, h3⟩ := h.of_wr
  exact ⟨js_congr h2, h2, h1, h3, hc⟩

theorem asked_descAddr (s : State) (n : Slot) : s.asked.descAddr n = s.descAddr n := by
  unfold descAddr
  rw [s.asked_rd (by unfold R.JOB_SLOTn_DADDR_HI R.JOB_RESULT_FRC; omega),
    s.asked_rd (by unfold R.JOB_SLOTn_DADDR_LO R.JOB_RESULT_FRC; omega)]

theorem asked_inDdr (s : State) (a n : Nat) : s.asked.inDdr a n = s.inDdr a n := by
  unfold inDdr ddrEnd rf
  rw [s.asked_rd (by decide)]

end State

/-- Settles O6: each command is its operation in the state that notes the time of the result, where every check reads as
before; a DISARM that comes with a start that is due finds the slot RUNNING or withdrawn. -/
theorem jobQueueCommands : Obligations.JobQueueCommands := by
  refine ⟨fun n s hp hb hi hw hd => ?_, fun c n s hc hp hb hi hw hd => ?_, fun n s0 s hp hb hi hw ha hs hl hq ho => ?_⟩
  · have hdue := State.startDue_id (s := s.asked) hd
    refine ⟨fun hs ha hin hk => ?_, fun hs hc hm ha => ?_, fun hs => ?_, fun hs => ?_, fun hs => ?_⟩
    · have hdesc := s.asked_descAddr n
      have hrd : s.asked.rdN (s.asked.descAddr n) 128 = s.rdN (s.descAddr n) 128 := by
        rw [hdesc]
        exact State.rdN_congr (t := s.asked) rfl _ _
      generalize hd : BitVec.ofNat 1024 (s.rdN (s.descAddr n) 128) = d at hk ⊢
      obtain ⟨v, h, hst, hq, hde, hm⟩ := State.opSubmit_spec (s := s.asked) (n := n) hi hs (by rw [hdesc]; exact ha)
        (by rw [s.asked_inDdr, hdesc]; exact hin) (by rw [hrd]; exact hd) hk
      obtain ⟨gj, gjob, -, gm, gc⟩ := State.jobIssue_spec 1 hp hb hw (by decide) ((congrArg (State.opSubmit n) hdue).trans h)
      exact ⟨_, rfl, (congrArg JobSlot.st (gj n)).trans hst, (congrArg JobBlock.queue gjob).trans hq,
        (congrArg JobSlot.desc (gj n)).trans hde, gc, gm.trans hm⟩
    · have hcheck : s.asked.armCheck n = 0 := (s.asked_armCheck hp n).trans ha
      have h := State.opArm_spec (s := s.asked) (n := n) hi hs hc hm hcheck
      obtain ⟨hst, hpr, hat⟩ := State.armJob_spec (s := s.asked) hp n
      obtain ⟨gj, -, -, -, gc⟩ := State.jobIssue_spec 2 hp hb hw (by decide) ((congrArg (State.opArm n) hdue).trans h)
      rw [← gj n] at hst hpr hat
      exact ⟨_, rfl, hst, hpr, hat, gc⟩
    · obtain ⟨v, h, hv⟩ := State.opDisarm_spec (s := s.asked) (n := n) hs
      obtain ⟨gj, -, -, -, gc⟩ := State.jobIssue_spec 3 hp hb hw (by decide) ((congrArg (State.opDisarm n) hdue).trans h)
      rw [← gj n] at hv
      obtain ⟨h1, h2, h3, h4⟩ := hv
      exact ⟨_, rfl, h1, h2, h3, h4, gc⟩
    · obtain ⟨v, h, hst, hr, hq⟩ := State.opResume_spec (s := s.asked) (n := n) hi hs
      obtain ⟨gj, gjob, -, -, gc⟩ := State.jobIssue_spec 5 hp hb hw (by decide) ((congrArg (State.opResume n) hdue).trans h)
      rw [← gj n] at hst hr
      exact ⟨_, rfl, hst, hr, (congrArg JobBlock.queue gjob).trans hq, gc⟩
    · obtain ⟨v, h, hst, hpr⟩ := State.opRelease_spec (s := s.asked) (n := n) hs
      obtain ⟨gj, -, -, -, gc⟩ := State.jobIssue_spec 6 hp hb hw (by decide) ((congrArg (State.opRelease n) hdue).trans h)
      rw [← gj n] at hst hpr
      exact ⟨_, rfl, hst, hpr, gc⟩
  · have hdue := State.startDue_id (s := s.asked) hd
    have hcode (op : Nat) (ho : op = 1 ∨ op = 2 ∨ op = 5) : (s.jobIssue op n).job = s.job ∧
        (s.jobIssue op n).rf R.JOB_RESULT 7 0 = 3 ∧ (s.jobIssue op n).be = s.be ∧ (s.jobIssue op n).mem = s.mem := by
      obtain ⟨-, gjob, gbe, gm, gc⟩ := State.jobIssue_spec op hp hb hw (by omega)
        (State.jobDo_belay (s := s.asked) n ho hi hdue)
      exact ⟨gjob, gc, gbe, gm⟩
    rcases hc with rfl | rfl | rfl
    · exact ⟨_, rfl, hcode 1 (.inl rfl)⟩
    · exact ⟨_, rfl, hcode 2 (.inr (.inl rfl))⟩
    · exact ⟨_, rfl, hcode 5 (.inr (.inr rfl))⟩
  · obtain ⟨hd, h1, h2⟩ := State.disarm_due (s := s.asked) hi (State.startDue_due (s := s.asked) ha hs hl hq ho)
    obtain ⟨gj, -, -, -, gc⟩ := State.jobIssue_spec 3 hp hb hw (by decide) hd
    rw [State.asked_axesRest, ← gj n] at h1 h2
    exact ⟨_, rfl, gc, h1, h2⟩

end Sys2Proof.Machine
end

section
/-! SUPPORT. ABORT, GO, a HOLD request and a publish, and O7 from them (R41, R151, R163, R168). -/

namespace Sys2Proof.Machine

namespace State

variable (s : State)

/-! ABORT (R41). -/

/-- No beam belongs to the job of the slot. -/
def Unheld (n : Slot) (s : State) : Prop := ∀ b : Beam, (s.be[b]).job ≠ some n

theorem Unheld.congr {n : Slot} {s t : State} (h : s.Unheld n) (e : t.be = s.be) : t.Unheld n := fun b => by
  rw [e]
  exact h b

/-- A change of an engine that gives its beam to no job. -/
theorem Unheld.upBe {n : Slot} {s : State} (h : s.Unheld n) (b : Beam) (f : BeamEng → BeamEng)
    (hf : ∀ e, (f e).job = e.job ∨ (f e).job = none) : (s.upBe b f).Unheld n := fun k => by
  by_cases e : k = b
  · subst e
    have hk : (s.upBe k f).be[k] = f s.be[k] := vupd_get_same _ _ _
    rw [hk]
    rcases hf s.be[k] with g | g <;> rw [g]
    · exact h k
    · exact nofun
  · have hk : (s.upBe b f).be[k] = s.be[k] := vupd_get_ne _ _ e
    rw [hk]
    exact h k

theorem Unheld.each {α : Type} {n : Slot} {s : State} (h : s.Unheld n) (l : List α) (f : α → State → State)
    (hf : ∀ a t, State.Unheld n t → State.Unheld n (f a t)) : (s.each l f).Unheld n :=
  each_ind (Unheld n) l f (fun a _ t k => hf a t k) s h

theorem Unheld.dropStops {n : Slot} {s : State} (h : s.Unheld n) (m : Slot) : (s.dropStops m).Unheld n :=
  h.each _ _ fun b _ g => g.upBe b _ fun _ => .inl rfl

theorem Unheld.jobChange {n : Slot} {s : State} (h : s.Unheld n) (m : Slot) (f : JobSlot → JobSlot) :
    (s.jobChange m f).Unheld n := h.congr (jobChange_told m f s).1.kept.1

theorem Unheld.refresh {n : Slot} {s : State} (h : s.Unheld n) : s.refresh.Unheld n := h.congr (refresh_be s _)

theorem Unheld.keepCourse {n : Slot} {s : State} (h : s.Unheld n) (b : Beam) (u : Nat) : (s.keepCourse b u).Unheld n := by
  unfold State.keepCourse
  split
  · split
    · exact h
    · exact h.upBe b _ fun _ => .inl rfl
  · exact h

theorem Unheld.freeBeams {n : Slot} {s : State} (h : s.Unheld n) (m : Slot) : (s.freeBeams m).Unheld n := by
  refine h.each _ _ fun b t g => ?_
  dsimp only
  split
  · refine Unheld.upBe ?_ b _ fun _ => .inr rfl
    exact (g.keepCourse b _).congr rfl
  · exact g

theorem restore_be (l : List (Nat × Word)) : (s.restore l).be = s.be := by
  unfold restore
  induction l generalizing s with
  | nil => rfl
  | cons w l ih =>
    have e : (s.wrN w.1 4 w.2.toNat).be = s.be := by
      have e := congrArg State.be (wrBytes_frame (toBytes 4 w.2.toNat) s w.1)
      exact e
    exact (ih (s.wrN w.1 4 w.2.toNat)).trans e

theorem Unheld.unprepare {n : Slot} {s : State} (h : s.Unheld n) (m : Slot) : (s.unprepare m).Unheld n := by
  refine h.each _ _ fun b t g => ?_
  dsimp only
  split
  · split
    · exact g
    · refine Unheld.upBe ?_ b _ fun _ => .inl rfl
      exact g.congr (restore_be t _)
  · exact g

theorem Unheld.withdraw {n : Slot} {s : State} (h : s.Unheld n) (m : Slot) : (s.withdraw m).Unheld n := by
  refine Unheld.jobChange ?_ m _
  unfold releaseBeams
  split
  · exact h.unprepare m
  · exact h.freeBeams m

/-- Another slot is withdrawn. -/
theorem withdraw_js_ne {n k : Slot} (h : n ≠ k) : (s.withdraw k).js n = s.js n := by
  unfold withdraw
  exact ((jobChange_told k _ (s.releaseBeams k)).1.2.2 n h).trans (js_congr (releaseBeams_steady s k).2.2 n)

/-- What an ABORT leaves: the slot ABORTED without a promise, no beam its. -/
def Aborted (n : Slot) (s : State) : Prop := (s.js n).st = .aborted ∧ (s.js n).promise = none ∧ s.Unheld n

theorem jobChange_aborted {s : State} {n : Slot} (h : s.Unheld n) {f : JobSlot → JobSlot}
    (hf : ∀ j, (f j).st = .aborted ∧ (f j).promise = none) : (s.jobChange n f).Aborted n := by
  obtain ⟨-, k, -, hn⟩ := jobChange_told n f s
  obtain ⟨h1, h2⟩ := hf k
  exact ⟨hn.st.trans h1, hn.promise.trans h2, h.jobChange n f⟩

theorem Aborted.refresh {s : State} {n : Slot} (h : s.Aborted n) : s.refresh.Aborted n := by
  obtain ⟨h1, h2, h3⟩ := h
  refine ⟨?_, ?_, h3.refresh⟩ <;> rw [refresh_js]
  · exact h1
  · exact h2

/-- The jobs behind an aborted one are withdrawn; it is none of them. -/
theorem Aborted.withdrawBehind {s : State} {n : Slot} (h : s.Aborted n) : (s.withdrawBehind n).Aborted n := by
  refine each_ind (Aborted n) _ _ (fun k hk t g => ?_) s h
  have e : n ≠ k := by
    rintro rfl
    exact absurd (h.1.symm.trans (mem_armedSlots hk)) nofun
  have hw : (t.withdraw k).Aborted n := by
    obtain ⟨g1, g2, g3⟩ := g
    refine ⟨?_, ?_, g3.withdraw k⟩ <;> rw [withdraw_js_ne t e]
    · exact g1
    · exact g2
  dsimp only
  split
  · exact hw
  · split
    · exact hw
    · exact g

theorem dropStops_steady (n : Slot) : s.Steady (s.dropStops n) :=
  Steady.each (List.finRange 16) (fun b t => (⟨rfl, rfl, rfl⟩ : t.Steady (t.upBe b fun e =>
    { e with stop := e.stop.filter fun r => r.slot != n }))) (Steady.refl s)

theorem endJob_unheld (n : Slot) : (s.endJob n).Unheld n := endJob_free s n

/-- An ABORT before the commit point. -/
theorem opAbort_spec {s : State} {n : Slot}
    (h : ((s.js n).st = .analysing ∧ ((s.js n).remainder = true ∨ s.Unheld n)) ∨ (s.js n).st = .armed ∨
      (s.js n).st = .holding ∨ ((s.js n).st = .running ∧ s.commitReady n = false)) : (s.opAbort n).1.Aborted n := by
  have hg (t : State) (ht : t.Unheld n) : (((t.dropStops n).jobChange n fun j =>
      { j with st := .aborted, promise := none, ready := false, prepAt := none, decided := none }).refresh).Aborted n :=
    (jobChange_aborted (ht.dropStops n) fun _ => ⟨rfl, rfl⟩).refresh
  unfold opAbort
  extract_lets gone t s₁ s₂ s₃ s₄ s₅
  rcases h with ⟨h, hr⟩ | h | h | ⟨h, hc⟩ <;> rw [h] <;> dsimp only
  · refine hg _ ?_
    split
    · exact endJob_unheld _ n
    next hn => exact (hr.resolve_left hn).congr rfl
  · refine hg _ ?_
    split
    · exact endJob_unheld _ n
    · exact freeBeams_free _ n
  · exact hg _ (endJob_unheld _ n)
  · rw [if_neg (ne_true_of_eq_false hc)]
    have h₅ : (s₅.js n).st = .aborted ∧ (s₅.js n).promise = none := by
      obtain ⟨-, k, -, hn⟩ := jobChange_told n (fun j => { j with st := .aborted, promise := none }) s₄
      exact ⟨hn.st, hn.promise⟩
    clear_value s₅
    have he := js_congr ((endJob_steady s₅ n).trans (dropStops_steady _ n)).2.2 n
    have ha : ((s₅.endJob n).dropStops n).Aborted n := by
      unfold Aborted
      rw [he]
      exact ⟨h₅.1, h₅.2, (endJob_unheld s₅ n).dropStops n⟩
    have hb := ha.withdrawBehind.refresh
    dsimp only
    exact hb

end State
namespace State

variable (s : State)

/-! GO (R151). -/

theorem opGo_spec {s : State} {n : Slot} (hp : s.twin.pair = 0) (hs : (s.js n).st = .armed) (hm : (s.js n).startMode = 3)
    (hq : (s.js n).param % 16 = 8) (hr : (s.js n).ready = true) (hg : (s.js n).started = false) :
    (((s.opGo n).1.js n).s = some (s.tick + 4096)) ∧ ((s.opGo n).1.js n).started = true ∧
      ((s.opGo n).1.js n).st = .armed := by
  have h2 : ¬s.pairSecond = true := by
    unfold pairSecond
    rw [hp, show ((0 : Nat) == 2) = false from rfl, Bool.and_false]
    exact Bool.false_ne_true
  have he : (s.opGo n).1 = (s.upSlot n fun j => { j with started := true }).fixS n (s.tick + 4096) none none := by
    unfold opGo startEvent
    dsimp only
    rw [if_pos ⟨hs, hm, hq⟩, if_neg h2, hg, hr]
    rfl
  have hf := (fixS_spec (s := s.upSlot n fun j => { j with started := true }) hp n (s.tick + 4096) none none).2
  rw [upSlot_js] at hf
  rw [he, hf]
  exact ⟨rfl, rfl, hs⟩

/-! A HOLD (R168). -/

theorem each_askStop_be (l : List Beam) (b : Beam) :
    (b ∈ l → ((s.each l fun b t => t.askStop b false).be[b]).stopReq.isSome = true) ∧
      (b ∉ l → (s.each l fun b t => t.askStop b false).be[b] = s.be[b]) := by
  have he (k : Beam) (t : State) : (t.askStop k false).be[b] = if b = k then { t.be[b] with
      stopReq := some (false || t.be[b].stopReq == some true) } else t.be[b] := by
    split
    next h =>
      subst h
      exact vupd_get_same _ _ _
    next h => exact vupd_get_ne _ _ h
  refine ⟨fun hb => ?_, fun hb => ?_⟩
  · refine each_mem (P := fun t => (t.be[b]).stopReq.isSome = true) s hb (fun k t h => ?_) fun t => ?_ <;> rw [he]
    · split
      · rfl
      · exact h
    · rw [if_pos rfl]
      rfl
  · refine each_ind (fun t => t.be[b] = s.be[b]) _ _ (fun k hk t h => ?_) s rfl
    rw [he, if_neg (fun e : b = k => hb (e ▸ hk))]
    exact h

/-- A HOLD request asks the named beams of the running job to stop. -/
theorem holdAtEnd_spec {s : State} {n : Slot} (cause : Nat) (hn : s.runSlot = some n) (h : s.dev.holdReq = 0) :
    (s.holdAtEnd cause).dev.holdReq = cause ∧ (s.holdAtEnd cause).dev.holdAt = s.tick ∧
      (s.holdAtEnd cause).job = s.job ∧ (s.holdAtEnd cause).mem = s.mem ∧
      (∀ b ∈ (s.js n).named, ((s.holdAtEnd cause).be[b]).stopReq.isSome = true) ∧
      ∀ b : Beam, b ∉ (s.js n).named → (s.holdAtEnd cause).be[b] = s.be[b] := by
  have he : s.holdAtEnd cause = ((s.each (s.js n).named fun b t => t.askStop b false).stopAxes n false).upDev fun d =>
      { d with holdReq := cause, holdAt := s.tick } := by
    have ht : (s.each (s.js n).named fun b t => t.askStop b false).tick = s.tick := by
      have e := congrArg State.tick (each_askStop_frame s (s.js n).named false)
      exact e
    unfold holdAtEnd
    rw [hn]
    dsimp only
    rw [if_neg (by simp [h]), ht]
  have hb : (s.holdAtEnd cause).be = (s.each (s.js n).named fun b t => t.askStop b false).be := by
    have e := congrArg State.be (stopAxes_atEnd_frame (s.each (s.js n).named fun b t => t.askStop b false) n)
    rw [he]
    exact e
  have hf := holdAtEnd_frame s cause
  have hj := congrArg State.job hf
  have hm := congrArg State.mem hf
  refine ⟨holdAtEnd_holdReq cause hn h, by rw [he]; rfl, hj, hm, ?_⟩
  rw [hb]
  exact ⟨fun b => (each_askStop_be s (s.js n).named b).1, fun b => (each_askStop_be s (s.js n).named b).2⟩

/-- A HOLD request of a running job before its commit point. -/
theorem opHold_eq {s : State} {n : Slot} (m : Slot) (hn : s.runSlot = some n) (hc : s.commitReady n = false) :
    s.opHold m = (s.holdAtEnd 1, 0, m.val) := by
  unfold opHold
  rw [hn]
  dsimp only
  rw [if_neg (ne_true_of_eq_false hc)]

/-! A publish (R163). -/

theorem syncBeams_seq (n : Slot) : ((s.syncBeams n).js n).seq = (s.js n).seq := by
  unfold syncBeams
  extract_lets j
  split
  · refine each_ind (fun t => (t.js n).seq = (s.js n).seq) _ _ (fun b _ t h => ?_) s rfl
    dsimp only
    split
    · rw [upSlot_js]
      exact h
    · exact h
  · rfl

theorem execStatusPublish_spec {s : State} {n : Slot} (h : (s.js n).st = .running ∨ (s.js n).st = .holding)
    (hw : s.walkSlot ≠ some n) (hr : (s.js n).pubRound ≠ s.tick / 1000000) : ∃ t, execStatusPublish n s = .next t ∧
      (t.js n).seq = ((s.js n).seq + 1) % 128 ∧ (t.js n).st = (s.js n).st ∧ (t.js n).promise = (s.js n).promise ∧
      t.mem = s.mem ∧ t.be = s.be := by
  have he : execStatusPublish n s =
      .next ((s.upSlot n fun j => { j with pubRound := s.tick / 1000000 }).publish n) := by
    unfold execStatusPublish
    dsimp only
    rw [if_neg hw, if_pos ⟨h, hr⟩]
  obtain ⟨ht, hk, hq⟩ := publish_told n (s.upSlot n fun j => { j with pubRound := s.tick / 1000000 })
  rw [syncBeams_seq] at hq
  rw [upSlot_js] at hk hq
  obtain ⟨hb, hm, -⟩ := ht.kept
  exact ⟨_, he, hq, hk.st, hk.promise, hm, hb⟩

end State
/-- Settles O7: what the operation of each command leaves, read behind the results that it posts; a publish tells its slot. -/
theorem jobControlCommands : Obligations.JobControlCommands := by
  refine ⟨fun n s hp hb hd h => ?_, fun n s hp hb hd hs hm hq hr hg => ?_, fun n s hp hb hn hc hh => ?_,
    fun n s h hw hr => State.execStatusPublish_spec h hw hr⟩
  · have hdue := State.startDue_id (s := s.asked) hd
    have hdo := congrArg (State.opAbort n) hdue
    have hab := State.opAbort_spec (s := s.asked) (n := n) (by rw [State.asked_commitReady]; exact h)
    obtain ⟨hbe, hjob, -⟩ := (State.jobIssue_regs hp hb 4 n).of_wr
    rw [← hdo] at hab
    obtain ⟨h1, h2, h3⟩ := hab
    have hj := State.js_congr hjob n
    exact ⟨_, rfl, (congrArg JobSlot.st hj).trans h1, (congrArg JobSlot.promise hj).trans h2, h3.congr hbe⟩
  · have hdue := State.startDue_id (s := s.asked) hd
    have hdo := congrArg (State.opGo n) hdue
    have hgo := State.opGo_spec (s := s.asked) (n := n) hp hs hm hq hr hg
    obtain ⟨-, hjob, -⟩ := (State.jobIssue_regs hp hb 7 n).of_wr
    have hj := State.js_congr hjob n
    rw [← hdo] at hgo
    obtain ⟨h1, h2, h3⟩ := hgo
    exact ⟨_, rfl, (congrArg JobSlot.s hj).trans h1, (congrArg JobSlot.started hj).trans h2,
      (congrArg JobSlot.st hj).trans h3⟩
  · have hdue := State.startDue_of_running (s := s.asked) hn
    have hr := State.jobIssue_regs hp hb 0 ⟨s.rf R.JOB_CTL 5 4, Nat.mod_lt _ (by decide)⟩
    have hdo := congrArg (State.opHold ⟨s.rf R.JOB_CTL 5 4, Nat.mod_lt _ (by decide)⟩) hdue
    have hop := hdo.trans (State.opHold_eq (s := s.asked) _ hn ((s.asked_commitReady n).trans hc))
    rw [show s.asked.jobDo 0 _ = _ from hop] at hr
    obtain ⟨h1, h2, hj, hm, hask, hrest⟩ := State.holdAtEnd_spec (s := s.asked) 1 hn hh
    obtain ⟨gb, gj, gm⟩ := hr.of_wr
    have gd := congrArg State.dev hr.1
    have hjob := gj.trans hj
    have hst := State.runSlot_spec hn
    refine ⟨_, rfl, (congrArg Dev.holdReq gd).trans h1, (congrArg Dev.holdAt gd).trans h2, ?_, ?_, ?_,
      fun b hb => ?_, fun b hb => ?_, gm.trans hm⟩
    · exact (congrArg JobSlot.st (State.js_congr hjob n)).trans hst
    · exact congrArg JobSlot.promise (State.js_congr hjob n)
    · exact congrArg (fun j : JobBlock => (List.finRange 4).filter fun k => (j.slot[k]).st = .armed) hjob
    · rw [gb]
      exact hask b hb
    · rw [gb]
      exact hrest b hb

end Sys2Proof.Machine
end

section
/-! SUPPORT. The job states over every command, and O57 from them (R32). -/

namespace Sys2Proof.Machine

namespace State

/-! R32, kept by every part of a step: at most one job is RUNNING or HOLDING. -/

/-- A job in this state runs or holds (R32). -/
def Held (s : State) (n : Slot) : Prop := (s.js n).st = .running ∨ (s.js n).st = .holding

/-- No other slot is held, or this one is. -/
theorem oneHeld_of_others {s t : State} {n : Slot} (hn : ∀ k : Slot, k ≠ n → t.js k = s.js k)
    (h : ∀ k : Slot, k ≠ n → ¬s.Held k) : t.oneHeld := by
  have only (i : Slot) (hi : t.Held i) : i = n := by
    by_contra e
    unfold Held at hi
    rw [hn i e] at hi
    exact h i e hi
  exact fun j k hj hk => (only j hj).trans (only k hk).symm

/-- A slot whose state is neither adds no held job. -/
theorem oneHeld_of_free {s t : State} {n : Slot} (hn : ∀ k : Slot, k ≠ n → t.js k = s.js k) (hc : ¬t.Held n)
    (h : s.oneHeld) : t.oneHeld := by
  have hne (i : Slot) (hi : t.Held i) : s.Held i := by
    by_cases e : i = n
    · exact absurd (e ▸ hi) hc
    · unfold Held at hi
      rw [hn i e] at hi
      exact hi
  exact fun j k hj hk => h j k (hne j hj) (hne k hk)

/-- A change that keeps the state of each slot. -/
theorem oneHeld_of_st {s t : State} (e : ∀ n : Slot, (t.js n).st = (s.js n).st) (h : s.oneHeld) : t.oneHeld := by
  have hne (i : Slot) (hi : t.Held i) : s.Held i := by
    unfold Held at hi
    rw [e i] at hi
    exact hi
  exact fun j k hj hk => h j k (hne j hj) (hne k hk)

theorem oneHeld_of_job {s t : State} (e : t.job = s.job) (h : s.oneHeld) : t.oneHeld :=
  oneHeld_of_st (fun n => congrArg JobSlot.st (js_congr e n)) h

end State

/-- An answer whose next state keeps R32. -/
def Res.OneHeld : Res → Prop
  | .next t => t.oneHeld
  | _ => True

namespace State

variable {s : State}

theorem next_oneHeld (h : s.oneHeld) : Res.OneHeld (.next s) := h

theorem resIte_oneHeld {c : Prop} [Decidable c] {q r : Res} (hq : q.OneHeld) (hr : r.OneHeld) :
    (if c then q else r).OneHeld := by
  split
  · exact hq
  · exact hr

theorem ite_oneHeld {c : Prop} [Decidable c] {s t : State} (hs : s.oneHeld) (ht : t.oneHeld) :
    (if c then s else t).oneHeld := by
  split
  · exact hs
  · exact ht

theorem fstIte_oneHeld {α : Type} {c : Prop} [Decidable c] {p q : State × α} (hp : p.1.oneHeld) (hq : q.1.oneHeld) :
    (if c then p else q).1.oneHeld := by
  split
  · exact hp
  · exact hq

theorem each_oneHeld {α : Type} (l : List α) {f : α → State → State} (hf : ∀ a t, t.oneHeld → (f a t).oneHeld)
    (h : s.oneHeld) : (s.each l f).oneHeld := each_ind State.oneHeld l f (fun a _ t g => hf a t g) s h

theorem foldl_oneHeld {α : Type} (f : State → α → State) (hf : ∀ a t, t.oneHeld → (f t a).oneHeld) (l : List α)
    (h : s.oneHeld) : (l.foldl f s).oneHeld := each_oneHeld l hf h

theorem ifc_oneHeld {f : State → State} (c : Bool) (hf : ∀ t, t.oneHeld → (f t).oneHeld) (h : s.oneHeld) :
    (s.ifc c f).oneHeld := ifc_ind s State.oneHeld c f h (hf s)

theorem shp_oneHeld {f : State → State} (hf : ∀ t, t.oneHeld → (f t).oneHeld) (h : s.oneHeld) : (shp f s).oneHeld :=
  ite_oneHeld h (hf s h)

theorem run_oneHeld {f : State → Res} (hf : ∀ t, t.oneHeld → (f t).OneHeld) (h : s.oneHeld) : (s.run f).oneHeld := by
  have g := hf s h
  unfold run
  split
  next t e => rw [e] at g; exact g
  · exact h

/-! The operations on the parts of the state other than the jobs. -/

theorem fresh_oneHeld (h : s.oneHeld) : s.fresh.2.oneHeld := h
theorem wr_oneHeld (a : Nat) (v : Word) (h : s.oneHeld) : (s.wr a v).oneHeld := oneHeld_of_job (wr_job s a v) h
theorem wrByte_oneHeld (a : Nat) (v : Byte) (h : s.oneHeld) : (s.wrByte a v).oneHeld := oneHeld_of_job (wrByte_job s a v) h
theorem wmod_oneHeld (a : Nat) (f : Word → Word) (h : s.oneHeld) : (s.wmod a f).oneHeld := wr_oneHeld a _ h
theorem setB_oneHeld (a i : Nat) (h : s.oneHeld) : (s.setB a i).oneHeld := wr_oneHeld a _ h
theorem clrB_oneHeld (a i : Nat) (h : s.oneHeld) : (s.clrB a i).oneHeld := wr_oneHeld a _ h
theorem setF_oneHeld (a hi lo v : Nat) (h : s.oneHeld) : (s.setF a hi lo v).oneHeld := wr_oneHeld a _ h
theorem count_oneHeld (a hi lo n : Nat) (h : s.oneHeld) : (s.count a hi lo n).oneHeld := wr_oneHeld a _ h
theorem advance_oneHeld (a hi lo : Nat) (h : s.oneHeld) : (s.advance a hi lo).oneHeld := wr_oneHeld a _ h
theorem msix_oneHeld (v : Nat) (h : s.oneHeld) : (s.msix v).oneHeld := oneHeld_of_job (msix_job s v) h
theorem report_oneHeld (i u : Nat) (d : Word) (h : s.oneHeld) : (s.report i u d).oneHeld := oneHeld_of_job (report_job s i u d) h
theorem wrBytes_oneHeld (a : Nat) (l : List Byte) (h : s.oneHeld) : (s.wrBytes a l).oneHeld :=
  oneHeld_of_job (wrBytes_steady s a l).2.2 h

theorem Steady.oneHeld {t : State} (e : s.Steady t) (h : s.oneHeld) : t.oneHeld := oneHeld_of_job e.2.2 h

theorem tick_oneHeld (x : Nat) (h : s.oneHeld) : ({ s with tick := x } : State).oneHeld := h
theorem free_oneHeld (x : Nat) (h : s.oneHeld) : ({ s with free := x } : State).oneHeld := h
theorem regs_oneHeld (x : List (Nat × Word)) (h : s.oneHeld) : ({ s with regs := x } : State).oneHeld := h
theorem mem_oneHeld (x : List Host.Cell) (h : s.oneHeld) : ({ s with mem := x } : State).oneHeld := h
theorem mach_oneHeld (x : MachProg) (h : s.oneHeld) : ({ s with mach := x } : State).oneHeld := h
theorem sent_oneHeld (x : List Sent) (h : s.oneHeld) : ({ s with sent := x } : State).oneHeld := h
theorem forceMoreId_oneHeld (h : s.oneHeld) : (forceMore.id' s).oneHeld := h
theorem upAx_oneHeld (n : Axis) (f : AxisSt → AxisSt) (h : s.oneHeld) : (s.upAx n f).oneHeld := oneHeld_of_job (upAx_job s n f) h
theorem upBe_oneHeld (b : Beam) (f : BeamEng → BeamEng) (h : s.oneHeld) : (s.upBe b f).oneHeld := oneHeld_of_job (upBe_job s b f) h
theorem upCal_oneHeld (f : Cal → Cal) (h : s.oneHeld) : (s.upCal f).oneHeld := oneHeld_of_job (upCal_job s f) h
theorem upDev_oneHeld (f : Dev → Dev) (h : s.oneHeld) : (s.upDev f).oneHeld := oneHeld_of_job (upDev_job s f) h
theorem upFab_oneHeld (f : Fabric → Fabric) (h : s.oneHeld) : (s.upFab f).oneHeld := oneHeld_of_job (upFab_job s f) h
theorem upHead_oneHeld (b : Beam) (f : CalHead → CalHead) (h : s.oneHeld) : (s.upHead b f).oneHeld := oneHeld_of_job (upHead_job s b f) h
theorem upHost_oneHeld (f : HostIf → HostIf) (h : s.oneHeld) : (s.upHost f).oneHeld := oneHeld_of_job (upHost_job s f) h
theorem upHub_oneHeld (f : Hub → Hub) (h : s.oneHeld) : (s.upHub f).oneHeld := oneHeld_of_job (upHub_job s f) h
theorem upLane_oneHeld (n : Lane) (f : LaneSt → LaneSt) (h : s.oneHeld) : (s.upLane n f).oneHeld := oneHeld_of_job (upLane_job s n f) h
theorem upLd_oneHeld (b : Beam) (f : Laser → Laser) (h : s.oneHeld) : (s.upLd b f).oneHeld := oneHeld_of_job (upLd_job s b f) h
theorem upLdc_oneHeld (f : LaserCommon → LaserCommon) (h : s.oneHeld) : (s.upLdc f).oneHeld := oneHeld_of_job (upLdc_job s f) h
theorem upLdg_oneHeld (f : Ledger → Ledger) (h : s.oneHeld) : (s.upLdg f).oneHeld := oneHeld_of_job (upLdg_job s f) h
theorem upLe_oneHeld (k : Engine) (f : LoopEng → LoopEng) (h : s.oneHeld) : (s.upLe k f).oneHeld := oneHeld_of_job (upLe_job s k f) h
theorem upLs_oneHeld (k : Engine) (l : LSlot) (f : LeSlot → LeSlot) (h : s.oneHeld) : (s.upLs k l f).oneHeld := oneHeld_of_job (upLs_job s k l f) h
theorem upMram_oneHeld (f : Mram → Mram) (h : s.oneHeld) : (s.upMram f).oneHeld := oneHeld_of_job (upMram_job s f) h
theorem upPcu_oneHeld (b : Beam) (f : Pcu → Pcu) (h : s.oneHeld) : (s.upPcu b f).oneHeld := oneHeld_of_job (upPcu_job s b f) h
theorem upPwr_oneHeld (f : Power → Power) (h : s.oneHeld) : (s.upPwr f).oneHeld := oneHeld_of_job (upPwr_job s f) h
theorem upRec_oneHeld (f : Recorder → Recorder) (h : s.oneHeld) : (s.upRec f).oneHeld := oneHeld_of_job (upRec_job s f) h
theorem upSrc_oneHeld (b : Beam) (f : CalSource → CalSource) (h : s.oneHeld) : (s.upSrc b f).oneHeld := oneHeld_of_job (upSrc_job s b f) h
theorem upTel_oneHeld (e : Fin 2) (f : Telemetry → Telemetry) (h : s.oneHeld) : (s.upTel e f).oneHeld := oneHeld_of_job (upTel_job s e f) h
theorem upTime_oneHeld (f : TimeBase → TimeBase) (h : s.oneHeld) : (s.upTime f).oneHeld := oneHeld_of_job (upTime_job s f) h
theorem upTwin_oneHeld (f : Twin → Twin) (h : s.oneHeld) : (s.upTwin f).oneHeld := oneHeld_of_job (upTwin_job s f) h
theorem upZone_oneHeld (f : Zone → Zone) (h : s.oneHeld) : (s.upZone f).oneHeld := oneHeld_of_job (upZone_job s f) h
theorem gridHome_oneHeld (h : s.oneHeld) : s.gridHome.oneHeld := oneHeld_of_job (gridHome_job s) h
theorem send_oneHeld (p m : Nat) (b : Bool) (i : Nat) (d : List Nat) (h : s.oneHeld) : (s.send p m b i d).oneHeld := oneHeld_of_job (send_job s p m b i d) h
theorem setPair_oneHeld (role pair : Nat) (lead : Bool) (h : s.oneHeld) : (s.setPair role pair lead).oneHeld := oneHeld_of_job (setPair_job s role pair lead) h
theorem takeSend_oneHeld (cause : Nat) (h : s.oneHeld) : (s.takeSend cause).oneHeld := oneHeld_of_job (takeSend_job s cause) h
theorem twinPost_oneHeld (code : Nat) (h : s.oneHeld) : (s.twinPost code).oneHeld := oneHeld_of_job (twinPost_job s code) h
theorem refresh_oneHeld (cause : Nat) (h : s.oneHeld) : (s.refresh cause).oneHeld := oneHeld_of_job (refresh_job s cause) h

/-! The operations on a job slot. -/

theorem showSlot_oneHeld (n : Slot) (h : s.oneHeld) : (s.showSlot n).oneHeld := oneHeld_of_job (showSlot_job n s) h

theorem upJob_oneHeld {f : JobBlock → JobBlock} (hf : ∀ q, (f q).slot = q.slot) (h : s.oneHeld) : (s.upJob f).oneHeld :=
  oneHeld_of_st (fun n => congrArg (fun l : Vector JobSlot 4 => (l[n]).st) (hf s.job)) h

theorem upSlot_oneHeld {f : JobSlot → JobSlot} (n : Slot) (hf : ∀ j, (f j).st = j.st) (h : s.oneHeld) :
    (s.upSlot n f).oneHeld :=
  oneHeld_of_st (fun k => by
    by_cases e : k = n
    · rw [e, upSlot_js, hf]
    · rw [upSlot_js_ne f s e]) h

theorem publish_oneHeld (n : Slot) (h : s.oneHeld) : (s.publish n).oneHeld := by
  obtain ⟨ht, hk, -⟩ := publish_told n s
  refine oneHeld_of_st (fun k => ?_) h
  by_cases e : k = n
  · rw [e, hk.st]
  · rw [ht.2.2 k e]

/-- A change to a state that is neither RUNNING nor HOLDING. -/
theorem jobChange_oneHeld {f : JobSlot → JobSlot} {c : JobState} (n : Slot) (hf : ∀ j, (f j).st = c)
    (hc : ¬(c = .running ∨ c = .holding)) (h : s.oneHeld) : (s.jobChange n f).oneHeld := by
  obtain ⟨ht, k, -, hk⟩ := jobChange_told n f s
  refine oneHeld_of_free ht.2.2 ?_ h
  unfold Held
  rw [hk.st, hf]
  exact hc


theorem keep_then {s t : State} {p : Prop} (hp : t.oneHeld → p) (h : s.oneHeld → t.oneHeld) : s.oneHeld → p :=
  fun g => hp (h g)

theorem keep_ite {c : Prop} [Decidable c] {s t u : State} (ht : s.oneHeld → t.oneHeld) (hu : s.oneHeld → u.oneHeld) :
    s.oneHeld → (if c then t else u).oneHeld := fun g => ite_oneHeld (ht g) (hu g)

theorem keep_resIte {c : Prop} [Decidable c] {s : State} {q r : Res} (hq : s.oneHeld → q.OneHeld)
    (hr : s.oneHeld → r.OneHeld) : s.oneHeld → (if c then q else r).OneHeld := fun g => resIte_oneHeld (hq g) (hr g)

theorem keep_fstIte {α : Type} {c : Prop} [Decidable c] {s : State} {p q : State × α} (hp : s.oneHeld → p.1.oneHeld)
    (hq : s.oneHeld → q.1.oneHeld) : s.oneHeld → (if c then p else q).1.oneHeld := fun g => fstIte_oneHeld (hp g) (hq g)

theorem keep_opt {α β : Type} {P : β → Prop} {s : State} {o : Option α} {x : β} {f : α → β}
    (hx : s.oneHeld → P x) (hf : ∀ a, s.oneHeld → P (f a)) : s.oneHeld → P (o.casesOn x f) := by
  cases o with
  | none => exact hx
  | some a => exact hf a

theorem keep_list {α β : Type} {P : β → Prop} {s : State} {l : List α} {x : β} {f : α → List α → β}
    (hx : s.oneHeld → P x) (hf : ∀ a l, s.oneHeld → P (f a l)) : s.oneHeld → P (l.casesOn x f) := by
  cases l with
  | nil => exact hx
  | cons a l => exact hf a l

theorem keep_sndProd {α γ : Type} {P : γ → Prop} {s : State} {d : α × State} {f : α → State → γ}
    (hf : ∀ a t, t.oneHeld → P (f a t)) (hd : s.oneHeld → d.2.oneHeld) : s.oneHeld → P (d.casesOn f) :=
  fun g => hf d.1 d.2 (hd g)

theorem keep_fstProd {α γ : Type} {P : γ → Prop} {s : State} {d : State × α} {f : State → α → γ}
    (hf : ∀ t a, t.oneHeld → P (f t a)) (hd : s.oneHeld → d.1.oneHeld) : s.oneHeld → P (d.casesOn f) :=
  fun g => hf d.1 d.2 (hd g)

theorem keep_lit {β : Type} {P : β → Prop} {s : State} {n k : Nat} {x : β} {f : ¬n = k → β}
    (hx : s.oneHeld → P x) (hf : ∀ h, s.oneHeld → P (f h)) :
    s.oneHeld → P (dite (n = k) (Eq.ndrec_symm (motive := fun _ => β) x) f) := by
  by_cases h : n = k
  · subst h
    rw [dif_pos rfl]
    exact hx
  · rw [dif_neg h]
    exact hf h

theorem none_hasNotBit {α : Type} : Nat.hasNotBit 2 (none : Option α).ctorIdx :=
  show Nat.land 1 (Nat.shiftRight 2 0) ≠ 1 by decide

theorem keep_some {α β : Type} {P : β → Prop} {s : State} {o : Option α} {f : α → β} {x : Nat.hasNotBit 2 o.ctorIdx → β}
    (hf : ∀ a, s.oneHeld → P (f a)) (hx : ∀ e, s.oneHeld → P (x e)) : s.oneHeld →
    P (Option.rec (motive := fun o => (Nat.hasNotBit 2 o.ctorIdx → β) → β) (fun x => x none_hasNotBit) (fun a _ => f a) o x) := by
  cases o with
  | none => exact hx _
  | some a => exact hf a

theorem irq_oneHeld (st en v i : Nat) (h : s.oneHeld) : (State.irq st en v i s).oneHeld :=
  (irq_steady s st en v i).oneHeld h

theorem record_oneHeld (type : Nat) (payload : List Byte) (h : s.oneHeld) : (State.record type payload s).oneHeld :=
  (record_steady s type payload).oneHeld h

theorem fltRecord_oneHeld (r : Report) (cls handling flags reached : Nat) {s : State} : s.oneHeld → (State.fltRecord r cls handling flags reached s).oneHeld := by
  delta fltRecord
  repeat' first
    | extract_lets
    | with_reducible first
      | exact fun h => h | assumption | apply keep_ite | apply record_oneHeld
      | apply keep_then
        first | apply record_oneHeld
    | dsimp -zeta only
    | split

theorem upLatch_oneHeld (c : Nat) (f : Latch → Latch) {s : State} : s.oneHeld → (State.upLatch c f s).oneHeld := by
  delta upLatch
  repeat' first
    | extract_lets
    | with_reducible first
      | exact fun h => h | assumption | apply keep_ite | apply upHub_oneHeld
      | apply keep_then
        first | apply upHub_oneHeld
    | dsimp -zeta only
    | split

theorem setHint_oneHeld (r : Report) (c : Nat) {s : State} : s.oneHeld → (State.setHint r c s).oneHeld := by
  delta setHint
  repeat' first
    | extract_lets
    | with_reducible first
      | exact fun h => h | assumption | apply keep_ite | apply upHub_oneHeld | apply wr_oneHeld
      | apply keep_then
        first | apply upHub_oneHeld | apply wr_oneHeld
    | dsimp -zeta only
    | split

theorem setSticky_oneHeld (cause : Nat) {s : State} : s.oneHeld → (State.setSticky cause s).oneHeld := by
  delta setSticky
  repeat' first
    | extract_lets
    | with_reducible first
      | exact fun h => h | assumption | apply keep_ite | apply irq_oneHeld | apply upHub_oneHeld
      | apply upDev_oneHeld
      | apply keep_then
        first | apply irq_oneHeld | apply upHub_oneHeld | apply upDev_oneHeld
    | dsimp -zeta only
    | split

theorem ladderRecord_oneHeld (func unit step code : Nat) (auto : Bool) {s : State} : s.oneHeld → (State.ladderRecord func unit step code auto s).oneHeld := by
  delta ladderRecord
  repeat' first
    | extract_lets
    | with_reducible first
      | exact fun h => h | assumption | apply keep_ite | apply record_oneHeld
      | apply keep_then
        first | apply record_oneHeld
    | dsimp -zeta only
    | split

theorem ladderPost_oneHeld (func unit step code : Nat) (auto : Bool) {s : State} : s.oneHeld → (State.ladderPost func unit step code auto s).oneHeld := by
  delta ladderPost
  repeat' first
    | extract_lets
    | with_reducible first
      | exact fun h => h | assumption | apply keep_ite | apply ladderRecord_oneHeld | apply setF_oneHeld
      | apply advance_oneHeld
      | apply keep_then
        first | apply ladderRecord_oneHeld | apply setF_oneHeld | apply advance_oneHeld
    | dsimp -zeta only
    | split

theorem quietRestart_oneHeld {s : State} : s.oneHeld → (State.quietRestart s).oneHeld := by
  delta quietRestart
  repeat' first
    | extract_lets
    | with_reducible first
      | exact fun h => h | assumption | apply keep_ite | apply upHub_oneHeld
      | apply keep_then
        first | apply upHub_oneHeld
    | dsimp -zeta only
    | split

theorem stepBeam_oneHeld (b : Beam) (step : Nat) {s : State} : s.oneHeld → (State.stepBeam b step s).oneHeld := by
  delta stepBeam
  repeat' first
    | extract_lets
    | with_reducible first
      | exact fun h => h | assumption | apply keep_ite | apply upBe_oneHeld
      | apply keep_then
        first | apply upBe_oneHeld
    | dsimp -zeta only
    | split

theorem stepPcu_oneHeld (b : Beam) (step : Nat) {s : State} : s.oneHeld → (State.stepPcu b step s).oneHeld := by
  delta stepPcu
  repeat' first
    | extract_lets
    | with_reducible first
      | exact fun h => h | assumption | apply keep_ite | apply upPcu_oneHeld
      | apply keep_then
        first | apply upPcu_oneHeld
    | dsimp -zeta only
    | split

theorem ownSafe_oneHeld (k : Engine) (l : LSlot) {s : State} : s.oneHeld → (State.ownSafe k l s).oneHeld := by
  delta ownSafe
  repeat' first
    | extract_lets
    | with_reducible first
      | exact fun h => h | assumption | apply keep_ite | apply upHub_oneHeld
      | apply keep_then
        first | apply upHub_oneHeld
    | dsimp -zeta only
    | split

theorem leOff_oneHeld (k : Engine) (l : LSlot) {s : State} : s.oneHeld → (State.leOff k l s).oneHeld := by
  delta leOff
  repeat' first
    | extract_lets
    | with_reducible first
      | exact fun h => h | assumption | apply keep_ite | apply upLs_oneHeld | apply ownSafe_oneHeld
      | apply keep_then
        first | apply upLs_oneHeld | apply ownSafe_oneHeld
    | dsimp -zeta only
    | split

theorem leStart_oneHeld (k : Engine) (l : LSlot) {s : State} : s.oneHeld → (State.leStart k l s).oneHeld := by
  delta leStart
  repeat' first
    | extract_lets
    | with_reducible first
      | exact fun h => h | assumption | apply keep_ite | apply upLs_oneHeld
      | apply keep_then
        first | apply upLs_oneHeld
    | dsimp -zeta only
    | split

theorem stepLe_oneHeld (k : Engine) (step : Nat) {s : State} : s.oneHeld → (State.stepLe k step s).oneHeld := by
  delta stepLe
  repeat' first
    | extract_lets
    | with_reducible first
      | exact fun h => h | assumption | apply keep_ite | apply keep_fstIte | apply leOff_oneHeld
      | apply leStart_oneHeld | apply upHub_oneHeld | apply ifc_oneHeld | apply each_oneHeld
      | apply keep_then
        first
        | apply leOff_oneHeld | apply leStart_oneHeld | apply upHub_oneHeld | apply ifc_oneHeld | apply each_oneHeld
    | refine fun _ (_ : State) => ?_
    | refine fun (_ : State) => ?_
    | dsimp -zeta only
    | split

theorem assigned_oneHeld (src : Nat) (h : s.oneHeld) : (State.assigned src s).oneHeld :=
  (assigned_steady s src).oneHeld h

theorem upPort_oneHeld (p : Port) (f : PortSt → PortSt) (h : s.oneHeld) : (State.upPort p f s).oneHeld :=
  (upPort_steady s p f).oneHeld h

theorem cfgPost_oneHeld (p : Port) (code : Nat) (h : s.oneHeld) : (State.cfgPost p code s).oneHeld :=
  (cfgPost_steady s p code).oneHeld h

theorem portClear_oneHeld (p : Port) {s : State} : s.oneHeld → (State.portClear p s).oneHeld := by
  delta portClear
  repeat' first
    | extract_lets
    | with_reducible first
      | exact fun h => h | assumption | apply keep_ite | apply upPort_oneHeld | apply cfgPost_oneHeld
      | apply keep_then
        first | apply upPort_oneHeld | apply cfgPost_oneHeld
    | dsimp -zeta only
    | split

theorem onLanes_oneHeld (l : List Nat) (f : LaneSt → LaneSt) (h : s.oneHeld) : (State.onLanes l f s).oneHeld :=
  (onLanes_steady s l f).oneHeld h

theorem portTrain_oneHeld (p : Port) (full : Bool) (h : s.oneHeld) : (State.portTrain p full s).oneHeld :=
  (portTrain_steady s p full).oneHeld h

theorem portFall_oneHeld (p : Port) {s : State} : s.oneHeld → (State.portFall p s).oneHeld := by
  delta portFall
  repeat' first
    | extract_lets
    | with_reducible first
      | exact fun h => h | assumption | apply keep_ite | apply upPort_oneHeld | apply report_oneHeld
      | apply portClear_oneHeld | apply portTrain_oneHeld
      | apply keep_then
        first | apply upPort_oneHeld | apply report_oneHeld | apply portClear_oneHeld | apply portTrain_oneHeld
    | dsimp -zeta only
    | split

theorem portDown_oneHeld (p : Port) {s : State} : s.oneHeld → (State.portDown p s).oneHeld := by
  delta portDown
  repeat' first
    | extract_lets
    | with_reducible first
      | exact fun h => h | assumption | apply keep_ite | apply portFall_oneHeld
      | apply keep_then
        first | apply portFall_oneHeld
    | dsimp -zeta only
    | split

theorem portOff_oneHeld (p : Port) {s : State} : s.oneHeld → (State.portOff p s).oneHeld := by
  delta portOff
  repeat' first
    | extract_lets
    | with_reducible first
      | exact fun h => h | assumption | apply keep_ite | apply upPort_oneHeld | apply onLanes_oneHeld
      | apply portClear_oneHeld
      | apply keep_then
        first | apply upPort_oneHeld | apply onLanes_oneHeld | apply portClear_oneHeld
    | dsimp -zeta only
    | split

theorem stepPort_oneHeld (p : Port) (step : Nat) {s : State} : s.oneHeld → (State.stepPort p step s).oneHeld := by
  delta stepPort
  repeat' first
    | extract_lets
    | with_reducible first
      | exact fun h => h | assumption | apply keep_ite | apply portTrain_oneHeld | apply portDown_oneHeld
      | apply portOff_oneHeld
      | apply keep_then
        first | apply portTrain_oneHeld | apply portDown_oneHeld | apply portOff_oneHeld
    | dsimp -zeta only
    | split

set_option smartUnfolding false in
theorem stepLane_oneHeld (n step : Nat) {s : State} : s.oneHeld → (State.stepLane n step s).oneHeld := by
  delta stepLane
  repeat' first
    | extract_lets
    | with_reducible first
      | exact fun h => h | assumption | apply keep_ite | apply portDown_oneHeld | apply onLanes_oneHeld
      | apply upPort_oneHeld | apply portTrain_oneHeld
      | apply keep_then
        first | apply portDown_oneHeld | apply onLanes_oneHeld | apply upPort_oneHeld | apply portTrain_oneHeld
    | refine keep_opt ?_ fun _ => ?_
    | refine keep_some (fun _ => ?_) fun _ => ?_
    | dsimp -zeta only
    | split

theorem dropFrame_oneHeld (b : Beam) {s : State} : s.oneHeld → (State.dropFrame b s).oneHeld := by
  delta dropFrame
  repeat' first
    | extract_lets
    | with_reducible first
      | exact fun h => h | assumption | apply keep_ite | apply count_oneHeld | apply upPcu_oneHeld
      | apply keep_then
        first | apply count_oneHeld | apply upPcu_oneHeld
    | dsimp -zeta only
    | split

theorem stepEye_oneHeld (b : Beam) (step : Nat) {s : State} : s.oneHeld → (State.stepEye b step s).oneHeld := by
  delta stepEye
  repeat' first
    | extract_lets
    | with_reducible first
      | exact fun h => h | assumption | apply keep_ite | apply dropFrame_oneHeld | apply upPcu_oneHeld
      | apply keep_then
        first | apply dropFrame_oneHeld | apply upPcu_oneHeld
    | dsimp -zeta only
    | split

theorem failedAgain_oneHeld {s : State} : s.oneHeld → (State.failedAgain s).oneHeld := by
  delta failedAgain
  repeat' first
    | extract_lets
    | with_reducible first
      | exact fun h => h | assumption | apply keep_ite | apply upLdg_oneHeld
      | apply keep_then
        first | apply upLdg_oneHeld
    | dsimp -zeta only
    | split

theorem wrN_oneHeld (a n v : Nat) {s : State} : s.oneHeld → (State.wrN a n v s).oneHeld := by
  delta wrN
  repeat' first
    | extract_lets
    | with_reducible first
      | exact fun h => h | assumption | apply keep_ite | apply wrBytes_oneHeld
      | apply keep_then
        first | apply wrBytes_oneHeld
    | dsimp -zeta only
    | split

theorem flushCache_oneHeld (h : s.oneHeld) : s.flushCache.oneHeld :=
  upLdg_oneHeld _ (foldl_oneHeld _ (fun _ _ g => ite_oneHeld (wrN_oneHeld _ _ _ g) g) _ h)

theorem stepLedger_oneHeld (step : Nat) {s : State} : s.oneHeld → (State.stepLedger step s).oneHeld := by
  delta stepLedger
  repeat' first
    | extract_lets
    | with_reducible first
      | exact fun h => h | assumption | apply keep_ite | apply upLdg_oneHeld | apply failedAgain_oneHeld
      | apply flushCache_oneHeld
      | apply keep_then
        first | apply upLdg_oneHeld | apply failedAgain_oneHeld | apply flushCache_oneHeld
    | dsimp -zeta only
    | split

set_option smartUnfolding false in
theorem upDom_oneHeld (d : Dom) (f : Domain → Domain) {s : State} : s.oneHeld → (State.upDom d f s).oneHeld := by
  delta upDom
  repeat' first
    | extract_lets
    | with_reducible first
      | exact fun h => h | assumption | apply keep_ite | apply upTime_oneHeld
      | apply keep_then
        first | apply upTime_oneHeld
    | dsimp -zeta only
    | split

set_option smartUnfolding false in
theorem timeMark_oneHeld (cause : Nat) {s : State} : s.oneHeld → (State.timeMark cause s).oneHeld := by
  delta timeMark
  repeat' first
    | extract_lets
    | with_reducible first
      | exact fun h => h | assumption | apply keep_ite | apply record_oneHeld
      | apply keep_then
        first | apply record_oneHeld
    | dsimp -zeta only
    | split

theorem setDomSt_oneHeld (d : Dom) (st : Nat) {s : State} : s.oneHeld → (State.setDomSt d st s).oneHeld := by
  delta setDomSt
  repeat' first
    | extract_lets
    | with_reducible first
      | exact fun h => h | assumption | apply keep_ite | apply keep_fstIte | apply msix_oneHeld | apply setB_oneHeld
      | apply upDom_oneHeld | apply timeMark_oneHeld | apply ifc_oneHeld
      | apply keep_then
        first
        | apply msix_oneHeld | apply setB_oneHeld | apply upDom_oneHeld | apply timeMark_oneHeld | apply ifc_oneHeld
    | refine fun (_ : State) => ?_
    | dsimp -zeta only
    | split

theorem ptpRestart_oneHeld (d : Dom) {s : State} : s.oneHeld → (State.ptpRestart d s).oneHeld := by
  delta ptpRestart
  repeat' first
    | extract_lets
    | with_reducible first
      | exact fun h => h | assumption | apply keep_ite | apply setDomSt_oneHeld | apply upDom_oneHeld
      | apply keep_then
        first | apply setDomSt_oneHeld | apply upDom_oneHeld
    | dsimp -zeta only
    | split

theorem stepTime_oneHeld (d : Dom) (step : Nat) {s : State} : s.oneHeld → (State.stepTime d step s).oneHeld := by
  delta stepTime
  repeat' first
    | extract_lets
    | with_reducible first
      | exact fun h => h | assumption | apply keep_ite | apply ptpRestart_oneHeld | apply upDom_oneHeld
      | apply setDomSt_oneHeld
      | apply keep_then
        first | apply ptpRestart_oneHeld | apply upDom_oneHeld | apply setDomSt_oneHeld
    | dsimp -zeta only
    | split

set_option smartUnfolding false in
theorem stepAct_oneHeld (func unit step : Nat) {s : State} : s.oneHeld → (State.stepAct func unit step s).oneHeld := by
  delta stepAct
  repeat' first
    | extract_lets
    | with_reducible first
      | exact fun h => h | assumption | apply keep_ite | apply stepBeam_oneHeld | apply stepPcu_oneHeld
      | apply stepLe_oneHeld | apply stepPort_oneHeld | apply stepLane_oneHeld | apply stepEye_oneHeld
      | apply stepLedger_oneHeld | apply stepTime_oneHeld
      | apply keep_then
        first
        | apply stepBeam_oneHeld | apply stepPcu_oneHeld | apply stepLe_oneHeld | apply stepPort_oneHeld
        | apply stepLane_oneHeld | apply stepEye_oneHeld | apply stepLedger_oneHeld | apply stepTime_oneHeld
    | refine keep_lit ?_ fun _ => ?_
    | dsimp -zeta only
    | split

theorem stepBegin_oneHeld (func unit step : Nat) (auto : Bool) {s : State} : s.oneHeld → (State.stepBegin func unit step auto s).oneHeld := by
  delta stepBegin
  repeat' first
    | extract_lets
    | with_reducible first
      | exact fun h => h | assumption | apply keep_ite | apply upHub_oneHeld | apply quietRestart_oneHeld
      | apply stepAct_oneHeld
      | apply keep_then
        first | apply upHub_oneHeld | apply quietRestart_oneHeld | apply stepAct_oneHeld
    | dsimp -zeta only
    | split

theorem cell_oneHeld (port msg sidx : Nat) (data : List Nat) {s : State} : s.oneHeld → (State.cell port msg sidx data s).oneHeld := by
  delta cell
  repeat' first
    | extract_lets
    | with_reducible first
      | exact fun h => h | assumption | apply keep_ite | apply send_oneHeld
      | apply keep_then
        first | apply send_oneHeld
    | dsimp -zeta only
    | split

theorem preReset_oneHeld (step : Nat) {s : State} : s.oneHeld → (State.preReset step s).oneHeld := by
  delta preReset
  repeat' first
    | extract_lets
    | with_reducible first
      | exact fun h => h | assumption | apply keep_ite | apply wr_oneHeld
      | apply keep_then
        first | apply wr_oneHeld
    | dsimp -zeta only
    | split

theorem wordOff_oneHeld (b : Beam) (h : s.oneHeld) : (State.wordOff b s).oneHeld :=
  (wordOff_steady s b).oneHeld h

theorem wordsOff_oneHeld {s : State} : s.oneHeld → (State.wordsOff s).oneHeld := by
  delta wordsOff
  repeat' first
    | extract_lets
    | with_reducible first
      | exact fun h => h | assumption | apply keep_ite | apply keep_fstIte | apply wordOff_oneHeld
      | apply each_oneHeld
      | apply keep_then
        first | apply wordOff_oneHeld | apply each_oneHeld
    | refine fun _ (_ : State) => ?_
    | dsimp -zeta only
    | split

theorem unsend_oneHeld (p : Sent → Bool) {s : State} : s.oneHeld → (State.unsend p s).oneHeld := by
  delta unsend
  repeat' first
    | extract_lets
    | with_reducible first
      | exact fun h => h | assumption | apply keep_ite | apply sent_oneHeld
      | apply keep_then
        first | apply sent_oneHeld
    | dsimp -zeta only
    | split

theorem cellAt_oneHeld (t port msg sidx : Nat) (data : List Nat) {s : State} : s.oneHeld → (State.cellAt t port msg sidx data s).oneHeld := by
  delta cellAt
  repeat' first
    | extract_lets
    | with_reducible first
      | exact fun h => h | assumption | apply keep_ite | apply sent_oneHeld
      | apply keep_then
        first | apply sent_oneHeld
    | dsimp -zeta only
    | split

theorem gateEdge_oneHeld (b : Beam) (e : Int) (rise : Bool) (h : s.oneHeld) : (State.gateEdge b e rise s).oneHeld := (gateEdge_pairSteady s b e rise).1.oneHeld h

set_option smartUnfolding false in
theorem gateEdges_oneHeld (b : Beam) (from_ : Int) {s : State} : s.oneHeld → (State.gateEdges b from_ s).oneHeld := by
  delta gateEdges
  repeat' first
    | extract_lets
    | with_reducible first
      | exact fun h => h | assumption | apply keep_ite | apply gateEdge_oneHeld
      | apply keep_then
        first | apply gateEdge_oneHeld
    | refine keep_opt ?_ fun _ => ?_
    | refine keep_some (fun _ => ?_) fun _ => ?_
    | dsimp -zeta only
    | split

theorem gateSync_oneHeld (b : Beam) {s : State} : s.oneHeld → (State.gateSync b s).oneHeld := by
  delta gateSync
  repeat' first
    | extract_lets
    | with_reducible first
      | exact fun h => h | assumption | apply keep_ite | apply gateEdges_oneHeld | apply gateEdge_oneHeld
      | apply keep_then
        first | apply gateEdges_oneHeld | apply gateEdge_oneHeld
    | dsimp -zeta only
    | split

theorem sendEmitOff_oneHeld (b : Beam) (state : Nat) {s : State} : s.oneHeld → (State.sendEmitOff b state s).oneHeld := by
  delta sendEmitOff
  repeat' first
    | extract_lets
    | with_reducible first
      | exact fun h => h | assumption | apply keep_ite | apply cell_oneHeld
      | apply keep_then
        first | apply cell_oneHeld
    | dsimp -zeta only
    | split

theorem emitChange_oneHeld (b : Beam) (before : Bool) {s : State} : s.oneHeld → (State.emitChange b before s).oneHeld := by
  delta emitChange
  repeat' first
    | extract_lets
    | with_reducible first
      | exact fun h => h | assumption | apply keep_ite | apply gateSync_oneHeld | apply upLd_oneHeld
      | apply sendEmitOff_oneHeld
      | apply keep_then
        first | apply gateSync_oneHeld | apply upLd_oneHeld | apply sendEmitOff_oneHeld
    | dsimp -zeta only
    | split

theorem withEmit_oneHeld {f : State → State} (hf : ∀ t, t.oneHeld → (f t).oneHeld) (h : s.oneHeld) :
    (s.withEmit f).oneHeld := each_oneHeld _ (fun b _ g => emitChange_oneHeld b _ g) (hf s h)

theorem ilkSet_oneHeld (h : s.oneHeld) : (State.ilkSet s).oneHeld := (ilkSet_steady s).oneHeld h

theorem loadCb_oneHeld (h : s.oneHeld) : (State.loadCb s).oneHeld := (loadCb_steady s).oneHeld h

theorem bootRecord_oneHeld (cause : Nat) {s : State} : s.oneHeld → (State.bootRecord cause s).oneHeld := by
  delta bootRecord
  repeat' first
    | extract_lets
    | with_reducible first
      | exact fun h => h | assumption | apply keep_ite | apply record_oneHeld
      | apply keep_then
        first | apply record_oneHeld
    | dsimp -zeta only
    | split

theorem recoverTorn_oneHeld (cairn : Bool) (h : s.oneHeld) : (State.recoverTorn cairn s).oneHeld :=
  (recoverTorn_steady s cairn).oneHeld h





theorem recoverMram_oneHeld (h : s.oneHeld) : (State.recoverMram s).oneHeld := (recoverMram_steady s).oneHeld h

theorem portsBoot_oneHeld (h : s.oneHeld) : (State.portsBoot s).oneHeld := (portsBoot_steady s).oneHeld h

theorem ddrBoot_oneHeld (h : s.oneHeld) : (State.ddrBoot s).oneHeld := (ddrBoot_steady s).oneHeld h

theorem patchBoot_oneHeld (h : s.oneHeld) : (State.patchBoot s).oneHeld := (patchBoot_steady s).oneHeld h

theorem restoreCal_oneHeld (h : s.oneHeld) : (State.restoreCal s).oneHeld := (restoreCal_steady s).oneHeld h

theorem enterBoot_oneHeld (h : s.oneHeld) : s.enterBoot.oneHeld := oneHeld_of_job (enterBoot_steady s).2.2 h

theorem leaveReset_oneHeld {s : State} : s.oneHeld → (State.leaveReset s).oneHeld := by
  delta leaveReset
  repeat' first
    | extract_lets
    | with_reducible first
      | exact fun h => h | assumption | apply keep_ite | apply enterBoot_oneHeld
      | apply keep_then
        first | apply enterBoot_oneHeld
    | dsimp -zeta only
    | split

theorem recPart_oneHeld (x : RecRun) (cairn : Bool) (at_ part : Nat) {s : State} : s.oneHeld → (State.recPart x cairn at_ part s).oneHeld := by
  delta recPart
  repeat' first
    | extract_lets
    | with_reducible first
      | exact fun h => h | assumption | apply keep_ite | apply wrBytes_oneHeld
      | apply keep_then
        first | apply wrBytes_oneHeld
    | dsimp -zeta only
    | split

theorem saveCb_oneHeld {s : State} : s.oneHeld → (State.saveCb s).oneHeld := by
  delta saveCb
  repeat' first
    | extract_lets
    | with_reducible first
      | exact fun h => h | assumption | apply keep_ite | apply upMram_oneHeld | apply upRec_oneHeld
      | apply keep_then
        first | apply upMram_oneHeld | apply upRec_oneHeld
    | dsimp -zeta only
    | split

theorem freezeNow_oneHeld {s : State} : s.oneHeld → (State.freezeNow s).oneHeld := by
  delta freezeNow
  repeat' first
    | extract_lets
    | with_reducible first
      | exact fun h => h | assumption | apply keep_ite | apply upRec_oneHeld
      | apply keep_then
        first | apply upRec_oneHeld
    | dsimp -zeta only
    | split

set_option smartUnfolding false in
theorem recStep_oneHeld {s : State} : s.oneHeld → (State.recStep s).oneHeld := by
  delta recStep
  repeat' first
    | with_reducible first
      | exact fun h => h | assumption | apply keep_ite | apply keep_fstIte | apply upRec_oneHeld
      | apply recPart_oneHeld | apply irq_oneHeld | apply saveCb_oneHeld | apply freezeNow_oneHeld
      | apply shp_oneHeld
      | apply keep_then
        first
        | apply upRec_oneHeld | apply recPart_oneHeld | apply irq_oneHeld | apply saveCb_oneHeld
        | apply freezeNow_oneHeld | apply shp_oneHeld
    | extract_lets
    | refine keep_opt ?_ fun _ => ?_
    | refine keep_some (fun _ => ?_) fun _ => ?_
    | refine fun (_ : State) => ?_
    | dsimp -zeta only
    | split

theorem recFinish_oneHeld (h : s.oneHeld) : (State.recFinish s).oneHeld := by
  apply recStep_oneHeld
  repeat' first
    | with_reducible first
      | assumption | apply ite_oneHeld | apply recStep_oneHeld
    | extract_lets
    | split

theorem freeTail_oneHeld (n : Nat) : ∀ (k : Nat) {s : State}, s.oneHeld → (freeTail n k s).oneHeld
  | 0, _, h => h
  | k + 1, s, h => by
    have ht (f : Recorder → Recorder) := upRec_oneHeld f h
    exact ite_oneHeld h (freeTail_oneHeld n k (ite_oneHeld (ht _) (count_oneHeld _ _ _ _ (ht _))))

theorem recBegin_oneHeld (r : Rec) {s : State} : s.oneHeld → (State.recBegin r s).oneHeld := by
  delta recBegin
  repeat' first
    | extract_lets
    | with_reducible first
      | exact fun h => h | assumption | apply keep_ite | apply freeTail_oneHeld | apply wrBytes_oneHeld
      | apply upRec_oneHeld | apply saveCb_oneHeld
      | apply keep_then
        first | apply freeTail_oneHeld | apply wrBytes_oneHeld | apply upRec_oneHeld | apply saveCb_oneHeld
    | dsimp -zeta only
    | split

theorem commitRecord_oneHeld (r : Rec) {s : State} : s.oneHeld → (State.commitRecord r s).oneHeld := by
  delta commitRecord
  repeat' first
    | extract_lets
    | with_reducible first
      | exact fun h => h | assumption | apply keep_ite | apply keep_fstIte | apply recFinish_oneHeld
      | apply recBegin_oneHeld | apply shp_oneHeld
      | apply keep_then
        first | apply recFinish_oneHeld | apply recBegin_oneHeld | apply shp_oneHeld
    | refine fun (_ : State) => ?_
    | dsimp -zeta only
    | split

theorem flushRecords_oneHeld {s : State} : s.oneHeld → (State.flushRecords s).oneHeld := by
  delta flushRecords
  repeat' first
    | extract_lets
    | with_reducible first
      | exact fun h => h | assumption | apply keep_ite | apply keep_fstIte | apply commitRecord_oneHeld
      | apply recFinish_oneHeld | apply upRec_oneHeld | apply foldl_oneHeld
      | apply keep_then
        first
        | apply commitRecord_oneHeld | apply recFinish_oneHeld | apply upRec_oneHeld | apply foldl_oneHeld
    | refine fun _ (_ : State) => ?_
    | dsimp -zeta only
    | split

theorem assertKill_oneHeld (cause : Nat) {s : State} : s.oneHeld → (State.assertKill cause s).oneHeld := by
  delta assertKill
  repeat' first
    | extract_lets
    | with_reducible first
      | exact fun h => h | assumption | apply keep_ite | apply upLdc_oneHeld
      | apply keep_then
        first | apply upLdc_oneHeld
    | dsimp -zeta only
    | split

theorem kill_oneHeld (cause : Nat) {s : State} : s.oneHeld → (State.kill cause s).oneHeld := by
  delta kill
  repeat' first
    | extract_lets
    | with_reducible first
      | exact fun h => h | assumption | apply keep_ite | apply keep_fstIte | apply assertKill_oneHeld
      | apply withEmit_oneHeld
      | apply keep_then
        first | apply assertKill_oneHeld | apply withEmit_oneHeld
    | refine fun (_ : State) => ?_
    | dsimp -zeta only
    | split

set_option smartUnfolding false in
theorem jobRecord_oneHeld (n : Slot) {s : State} : s.oneHeld → (State.jobRecord n s).oneHeld := by
  delta jobRecord
  repeat' first
    | extract_lets
    | with_reducible first
      | exact fun h => h | assumption | apply keep_ite | apply record_oneHeld
      | apply keep_then
        first | apply record_oneHeld
    | refine keep_list ?_ fun _ _ => ?_
    | dsimp -zeta only
    | split

theorem putCfgDigest_oneHeld {s : State} : s.oneHeld → (State.putCfgDigest s).oneHeld := by
  delta putCfgDigest
  repeat' first
    | extract_lets
    | with_reducible first
      | exact fun h => h | assumption | apply keep_ite | apply wr_oneHeld
      | apply keep_then
        first | apply wr_oneHeld
    | dsimp -zeta only
    | split

theorem expoClose_oneHeld (b : Beam) (t : Nat) (h : s.oneHeld) : (State.expoClose b t s).oneHeld := (expoClose_pairSteady s b t).1.oneHeld h

theorem cutItems_oneHeld (b : Beam) (e : Int) (h : s.oneHeld) : (State.cutItems b e s).oneHeld := (cutItems_pairSteady s b e).1.oneHeld h

theorem digItem_oneHeld (k ord rank : Nat) (bytes : List Byte) (h : s.oneHeld) : (State.digItem k ord rank bytes s).oneHeld := (digItem_pairSteady s k ord rank bytes).1.oneHeld h

theorem gateItem_oneHeld (b : Beam) (e : Int) (rise : Bool) (h : s.oneHeld) : (State.gateItem b e rise s).oneHeld := (gateItem_pairSteady s b e rise).1.oneHeld h

theorem expoAbort_oneHeld (b : Beam) (h : s.oneHeld) : (State.expoAbort b s).oneHeld := (expoAbort_pairSteady s b).1.oneHeld h

theorem parcelOut_oneHeld (p : Port) (x : Parcel) {s : State} : s.oneHeld → (State.parcelOut p x s).oneHeld := by
  delta parcelOut
  repeat' first
    | extract_lets
    | with_reducible first
      | exact fun h => h | assumption | apply keep_ite | apply send_oneHeld
      | apply keep_then
        first | apply send_oneHeld
    | dsimp -zeta only
    | split

theorem pumpGo_oneHeld (p : Port) : ∀ (k : Nat) {s : State}, s.oneHeld → (pumpGo p k s).oneHeld
  | 0, _, h => h
  | k + 1, s, h => by
    unfold pumpGo
    dsimp only
    split
    · exact h
    · exact ite_oneHeld h (pumpGo_oneHeld p k (upPort_oneHeld _ _ (parcelOut_oneHeld _ _ h)))

theorem parcel_oneHeld (p : Port) (msg : Nat) (data : List Byte) {s : State} : s.oneHeld → (State.parcel p msg data s).oneHeld := by
  delta parcel
  repeat' first
    | extract_lets
    | with_reducible first
      | exact fun h => h | assumption | apply keep_ite | apply pumpGo_oneHeld | apply upPort_oneHeld
      | apply keep_then
        first | apply pumpGo_oneHeld | apply upPort_oneHeld
    | dsimp -zeta only
    | split

theorem ctl_oneHeld (op : Nat) (bytes : List Byte) {s : State} : s.oneHeld → (State.ctl op bytes s).oneHeld := by
  delta ctl
  repeat' first
    | extract_lets
    | with_reducible first
      | exact fun h => h | assumption | apply keep_ite | apply keep_fstIte | apply parcel_oneHeld
      | apply shp_oneHeld
      | apply keep_then
        first | apply parcel_oneHeld | apply shp_oneHeld
    | refine fun (_ : State) => ?_
    | dsimp -zeta only
    | split

theorem jobPost_oneHeld (op slot code : Nat) (h : s.oneHeld) : (State.jobPost op slot code s).oneHeld := by
  apply setF_oneHeld
  repeat' first
    | with_reducible first
      | assumption | apply ite_oneHeld | apply setF_oneHeld | apply clrB_oneHeld | apply advance_oneHeld
    | extract_lets
    | split

theorem askStop_oneHeld (b : Beam) (atOnce : Bool) {s : State} : s.oneHeld → (State.askStop b atOnce s).oneHeld := by
  delta askStop
  repeat' first
    | extract_lets
    | with_reducible first
      | exact fun h => h | assumption | apply keep_ite | apply upBe_oneHeld
      | apply keep_then
        first | apply upBe_oneHeld
    | dsimp -zeta only
    | split

theorem axPlan_oneHeld (n : Axis) (t : Nat) (f : AxisSt → AxisSt) {s : State} : s.oneHeld → (State.axPlan n t f s).oneHeld := by
  delta axPlan
  repeat' first
    | extract_lets
    | with_reducible first
      | exact fun h => h | assumption | apply keep_ite | apply upAx_oneHeld
      | apply keep_then
        first | apply upAx_oneHeld
    | dsimp -zeta only
    | split

set_option smartUnfolding false in
theorem axRem_oneHeld (n : Axis) (tgt : Option Int) (stop : Int) {s : State} : s.oneHeld → (State.axRem n tgt stop s).oneHeld := by
  delta axRem
  repeat' first
    | extract_lets
    | with_reducible first
      | exact fun h => h | assumption | apply keep_ite | apply upAx_oneHeld | apply wr_oneHeld
      | apply keep_then
        first | apply upAx_oneHeld | apply wr_oneHeld
    | refine keep_opt ?_ fun _ => ?_
    | refine keep_some (fun _ => ?_) fun _ => ?_
    | dsimp -zeta only
    | split

theorem axHalt_oneHeld (n : Axis) (hard keep : Bool) {s : State} : s.oneHeld → (State.axHalt n hard keep s).oneHeld := by
  delta axHalt
  repeat' first
    | extract_lets
    | with_reducible first
      | exact fun h => h | assumption | apply keep_ite | apply axPlan_oneHeld | apply axRem_oneHeld
      | apply keep_then
        first | apply axPlan_oneHeld | apply axRem_oneHeld
    | dsimp -zeta only
    | split

theorem axFinish_oneHeld (n : Axis) (h : s.oneHeld) : (State.axFinish n s).oneHeld := by
  dsimp only [axFinish]
  repeat' first
    | with_reducible first
      | assumption | apply ite_oneHeld | apply axRem_oneHeld | apply upAx_oneHeld | apply axPlan_oneHeld
    | split

theorem stopAxes_oneHeld (n : Slot) (atOnce : Bool) {s : State} : s.oneHeld → (State.stopAxes n atOnce s).oneHeld := by
  delta stopAxes
  repeat' first
    | extract_lets
    | with_reducible first
      | exact fun h => h | assumption | apply keep_ite | apply keep_fstIte | apply axHalt_oneHeld
      | apply axFinish_oneHeld | apply each_oneHeld
      | apply keep_then
        first | apply axHalt_oneHeld | apply axFinish_oneHeld | apply each_oneHeld
    | refine fun _ (_ : State) => ?_
    | dsimp -zeta only
    | split

theorem zoneHalt_oneHeld {s : State} : s.oneHeld → (State.zoneHalt s).oneHeld := by
  delta zoneHalt
  repeat' first
    | extract_lets
    | with_reducible first
      | exact fun h => h | assumption | apply keep_ite | apply upZone_oneHeld
      | apply keep_then
        first | apply upZone_oneHeld
    | dsimp -zeta only
    | split

theorem zoneDrop_oneHeld (b : Beam) {s : State} : s.oneHeld → (State.zoneDrop b s).oneHeld := by
  delta zoneDrop
  repeat' first
    | extract_lets
    | with_reducible first
      | exact fun h => h | assumption | apply keep_ite | apply upZone_oneHeld
      | apply keep_then
        first | apply upZone_oneHeld
    | dsimp -zeta only
    | split

theorem restore_oneHeld (l : List (Nat × Word)) (h : s.oneHeld) : (State.restore l s).oneHeld :=
  (restore_steady s l).oneHeld h

theorem unprepare_oneHeld (n : Slot) (h : s.oneHeld) : (State.unprepare n s).oneHeld :=
  (unprepare_steady s n).oneHeld h

theorem keepCourse_oneHeld (b : Beam) (until_ : Nat) (h : s.oneHeld) : (State.keepCourse b until_ s).oneHeld :=
  (keepCourse_steady s b until_).oneHeld h

theorem freeBeams_oneHeld (n : Slot) (h : s.oneHeld) : (State.freeBeams n s).oneHeld :=
  (freeBeams_steady s n).oneHeld h

theorem releaseBeams_oneHeld (n : Slot) (h : s.oneHeld) : (State.releaseBeams n s).oneHeld :=
  (releaseBeams_steady s n).oneHeld h

set_option smartUnfolding false in
theorem applySet_oneHeld {s : State} : s.oneHeld → (State.applySet s).oneHeld := by
  delta applySet
  repeat' first
    | extract_lets
    | with_reducible first
      | exact fun h => h | assumption | apply keep_ite | apply timeMark_oneHeld | apply upTime_oneHeld
      | apply keep_then
        first | apply timeMark_oneHeld | apply upTime_oneHeld
    | refine keep_opt ?_ fun _ => ?_
    | refine keep_some (fun _ => ?_) fun _ => ?_
    | dsimp -zeta only
    | split

theorem oscEdge_oneHeld (h : s.oneHeld) : (State.oscEdge s).oneHeld := by
  dsimp only [oscEdge]
  repeat' first
    | with_reducible first
      | assumption | apply ite_oneHeld | apply upTime_oneHeld | apply fresh_oneHeld | apply wr_oneHeld
      | apply applySet_oneHeld
    | split

theorem oscTick_oneHeld {s : State} : s.oneHeld → (State.oscTick s).oneHeld := by
  delta oscTick
  repeat' first
    | extract_lets
    | with_reducible first
      | exact fun h => h | assumption | apply keep_ite | apply upTime_oneHeld | apply oscEdge_oneHeld
      | apply keep_then
        first | apply upTime_oneHeld | apply oscEdge_oneHeld
    | dsimp -zeta only
    | split

theorem slewTick_oneHeld {s : State} : s.oneHeld → (State.slewTick s).oneHeld := by
  delta slewTick
  repeat' first
    | extract_lets
    | with_reducible first
      | exact fun h => h | assumption | apply keep_ite | apply upTime_oneHeld
      | apply keep_then
        first | apply upTime_oneHeld
    | dsimp -zeta only
    | split

theorem opTime_oneHeld {s : State} : s.oneHeld → (State.opTime s).oneHeld := by
  delta opTime
  repeat' first
    | extract_lets
    | with_reducible first
      | exact fun h => h | assumption | apply keep_ite | apply keep_fstIte | apply upRec_oneHeld
      | apply saveCb_oneHeld | apply shp_oneHeld
      | apply keep_then
        first | apply upRec_oneHeld | apply saveCb_oneHeld | apply shp_oneHeld
    | refine fun (_ : State) => ?_
    | dsimp -zeta only
    | split

theorem sendTrain_oneHeld (n : Lane) (p : Port) {s : State} : s.oneHeld → (State.sendTrain n p s).oneHeld := by
  delta sendTrain
  repeat' first
    | extract_lets
    | with_reducible first
      | exact fun h => h | assumption | apply keep_ite | apply send_oneHeld
      | apply keep_then
        first | apply send_oneHeld
    | dsimp -zeta only
    | split

theorem fillTick_oneHeld {s : State} : s.oneHeld → (State.fillTick s).oneHeld := by
  delta fillTick
  repeat' first
    | extract_lets
    | with_reducible first
      | exact fun h => h | assumption | apply keep_ite | apply keep_fstIte | apply send_oneHeld
      | apply sendTrain_oneHeld | apply each_oneHeld | apply ifc_oneHeld
      | apply keep_then
        first | apply send_oneHeld | apply sendTrain_oneHeld | apply each_oneHeld | apply ifc_oneHeld
    | refine fun _ (_ : State) => ?_
    | refine fun (_ : State) => ?_
    | dsimp -zeta only
    | split

set_option smartUnfolding false in
theorem axItems_oneHeld {s : State} : s.oneHeld → (State.axItems s).oneHeld := by
  delta axItems
  repeat' first
    | extract_lets
    | with_reducible first
      | exact fun h => h | assumption | apply keep_ite | apply keep_fstIte | apply digItem_oneHeld
      | apply each_oneHeld
      | apply keep_then
        first | apply digItem_oneHeld | apply each_oneHeld
    | refine keep_opt ?_ fun _ => ?_
    | refine keep_some (fun _ => ?_) fun _ => ?_
    | refine fun _ (_ : State) => ?_
    | dsimp -zeta only
    | split

theorem axStep_oneHeld (n : Axis) {s : State} : s.oneHeld → (State.axStep n s).oneHeld := by
  delta axStep
  repeat' first
    | extract_lets
    | with_reducible first
      | exact fun h => h | assumption | apply keep_ite | apply upAx_oneHeld
      | apply keep_then
        first | apply upAx_oneHeld
    | dsimp -zeta only
    | split

theorem axLimitStop_oneHeld (n : Axis) {s : State} : s.oneHeld → (State.axLimitStop n s).oneHeld := by
  delta axLimitStop
  repeat' first
    | extract_lets
    | with_reducible first
      | exact fun h => h | assumption | apply keep_ite | apply report_oneHeld | apply setB_oneHeld
      | apply axHalt_oneHeld
      | apply keep_then
        first | apply report_oneHeld | apply setB_oneHeld | apply axHalt_oneHeld
    | dsimp -zeta only
    | split

theorem axLimit_oneHeld (n : Axis) {s : State} : s.oneHeld → (State.axLimit n s).oneHeld := by
  delta axLimit
  repeat' first
    | extract_lets
    | with_reducible first
      | exact fun h => h | assumption | apply keep_ite | apply axLimitStop_oneHeld
      | apply keep_then
        first | apply axLimitStop_oneHeld
    | dsimp -zeta only
    | split

theorem mbxPost_oneHeld (tag code : Nat) (dup : Bool) (res : List Word) {s : State} : s.oneHeld → (State.mbxPost tag code dup res s).oneHeld := by
  delta mbxPost
  repeat' first
    | extract_lets
    | with_reducible first
      | exact fun h => h | assumption | apply keep_ite | apply keep_fstIte | apply wr_oneHeld | apply setF_oneHeld
      | apply advance_oneHeld | apply msix_oneHeld | apply each_oneHeld | apply ifc_oneHeld
      | apply keep_then
        first
        | apply wr_oneHeld | apply setF_oneHeld | apply advance_oneHeld | apply msix_oneHeld | apply each_oneHeld
        | apply ifc_oneHeld
    | refine fun _ (_ : State) => ?_
    | refine fun (_ : State) => ?_
    | dsimp -zeta only
    | split

theorem mbxDone_oneHeld (tag : Nat) (dig : Word) (cmd code : Nat) (res : List Word) {s : State} : s.oneHeld → (State.mbxDone tag dig cmd code res s).oneHeld := by
  delta mbxDone
  repeat' first
    | extract_lets
    | with_reducible first
      | exact fun h => h | assumption | apply keep_ite | apply upHost_oneHeld | apply mbxPost_oneHeld
      | apply keep_then
        first | apply upHost_oneHeld | apply mbxPost_oneHeld
    | dsimp -zeta only
    | split

theorem mbxFinish_oneHeld (x : MbxRun) (r : Word) {s : State} : s.oneHeld → (State.mbxFinish x r s).oneHeld := by
  delta mbxFinish
  repeat' first
    | extract_lets
    | with_reducible first
      | exact fun h => h | assumption | apply keep_ite | apply mbxDone_oneHeld | apply upHost_oneHeld
      | apply keep_then
        first | apply mbxDone_oneHeld | apply upHost_oneHeld
    | dsimp -zeta only
    | split

theorem ctlCmd_oneHeld (op slot at_ : Nat) {s : State} : s.oneHeld → (State.ctlCmd op slot at_ s).oneHeld := by
  delta ctlCmd
  repeat' first
    | extract_lets
    | with_reducible first
      | exact fun h => h | assumption | apply keep_ite | apply ctl_oneHeld
      | apply keep_then
        first | apply ctl_oneHeld
    | dsimp -zeta only
    | split

theorem sendCfg_oneHeld {s : State} : s.oneHeld → (State.sendCfg s).oneHeld := by
  delta sendCfg
  repeat' first
    | extract_lets
    | with_reducible first
      | exact fun h => h | assumption | apply keep_ite | apply ctl_oneHeld
      | apply keep_then
        first | apply ctl_oneHeld
    | dsimp -zeta only
    | split

theorem askArm_oneHeld (n : Slot) (auto : Bool) {s : State} : s.oneHeld → (State.askArm n auto s).oneHeld := by
  delta askArm
  repeat' first
    | extract_lets
    | with_reducible first
      | exact fun h => h | assumption | apply keep_ite | apply ctlCmd_oneHeld | apply sendCfg_oneHeld
      | apply upTwin_oneHeld | apply putCfgDigest_oneHeld
      | apply keep_then
        first
        | apply ctlCmd_oneHeld | apply sendCfg_oneHeld | apply upTwin_oneHeld | apply putCfgDigest_oneHeld
    | dsimp -zeta only
    | split

theorem sampleOnly_oneHeld (p : Nat → Bool) (b : Beam) {s : State} : s.oneHeld → (State.sampleOnly p b s).oneHeld := by
  delta sampleOnly
  repeat' first
    | extract_lets
    | with_reducible first
      | exact fun h => h | assumption | apply keep_ite | apply upBe_oneHeld | apply upLd_oneHeld
      | apply upPcu_oneHeld | apply upSrc_oneHeld
      | apply keep_then
        first | apply upBe_oneHeld | apply upLd_oneHeld | apply upPcu_oneHeld | apply upSrc_oneHeld
    | dsimp -zeta only
    | split

theorem sampleBeam_oneHeld (b : Beam) (h : s.oneHeld) : (State.sampleBeam b s).oneHeld :=
  (sampleBeam_steady s b).oneHeld h

theorem checkCut_oneHeld (n : Beam) (h : s.oneHeld) : (State.checkCut n s).oneHeld :=
  (checkCut_steady s n).oneHeld h

theorem zoneLoad_oneHeld (n : Slot) (h : s.oneHeld) : (State.zoneLoad n s).oneHeld :=
  (zoneLoad_steady s n).oneHeld h

theorem ledgerStart_oneHeld (n : Slot) (s0 : Nat) (h : s.oneHeld) : (State.ledgerStart n s0 s).oneHeld :=
  (ledgerStart_steady s n s0).oneHeld h

theorem axResumeQueue_oneHeld (n : Axis) {s : State} : s.oneHeld → (State.axResumeQueue n s).oneHeld := by
  delta axResumeQueue
  repeat' first
    | extract_lets
    | with_reducible first
      | exact fun h => h | assumption | apply keep_ite | apply upAx_oneHeld
      | apply keep_then
        first | apply upAx_oneHeld
    | dsimp -zeta only
    | split

theorem twinStartWin_oneHeld (s0 : Nat) (h : s.oneHeld) : (State.twinStartWin s0 s).oneHeld :=
  (twinStartWin_steady s s0).oneHeld h

theorem traceDone_oneHeld (k : Engine) {s : State} : s.oneHeld → (State.traceDone k s).oneHeld := by
  delta traceDone
  repeat' first
    | extract_lets
    | with_reducible first
      | exact fun h => h | assumption | apply keep_ite | apply irq_oneHeld | apply setB_oneHeld | apply upLe_oneHeld
      | apply keep_then
        first | apply irq_oneHeld | apply setB_oneHeld | apply upLe_oneHeld
    | dsimp -zeta only
    | split

theorem traceTrigger_oneHeld (k : Engine) (mode : Nat) (h : s.oneHeld) : (State.traceTrigger k mode s).oneHeld :=
  (traceTrigger_steady s k mode).oneHeld h

set_option smartUnfolding false in
theorem holdAtEnd_oneHeld (cause : Nat) {s : State} : s.oneHeld → (State.holdAtEnd cause s).oneHeld := by
  delta holdAtEnd
  repeat' first
    | extract_lets
    | with_reducible first
      | exact fun h => h | assumption | apply keep_ite | apply keep_fstIte | apply upDev_oneHeld
      | apply askStop_oneHeld | apply stopAxes_oneHeld | apply each_oneHeld
      | apply keep_then
        first | apply upDev_oneHeld | apply askStop_oneHeld | apply stopAxes_oneHeld | apply each_oneHeld
    | refine keep_opt ?_ fun _ => ?_
    | refine keep_some (fun _ => ?_) fun _ => ?_
    | refine fun _ (_ : State) => ?_
    | dsimp -zeta only
    | split

set_option smartUnfolding false in
theorem opHold_oneHeld (n : Slot) {s : State} : s.oneHeld → (State.opHold n s).1.oneHeld := by
  delta opHold
  repeat' first
    | extract_lets
    | with_reducible first
      | exact fun h => h | assumption | apply keep_ite | apply keep_fstIte | apply upDev_oneHeld
      | apply holdAtEnd_oneHeld
      | apply keep_then
        first | apply upDev_oneHeld | apply holdAtEnd_oneHeld
    | refine keep_opt (P := fun x => State.oneHeld x.1) ?_ fun _ => ?_
    | refine keep_some (P := fun x => State.oneHeld x.1) (fun _ => ?_) fun _ => ?_
    | dsimp -zeta only
    | split

theorem endHeads_oneHeld (n : Slot) (all : Bool) (h : s.oneHeld) : (State.endHeads n all s).oneHeld :=
  (endHeads_steady s n all).oneHeld h

theorem dropStops_oneHeld (n : Slot) (h : s.oneHeld) : (State.dropStops n s).oneHeld :=
  (dropStops_steady s n).oneHeld h

theorem fallbackEnd_oneHeld (b : Beam) {s : State} : s.oneHeld → (State.fallbackEnd b s).oneHeld := by
  delta fallbackEnd
  repeat' first
    | extract_lets
    | with_reducible first
      | exact fun h => h | assumption | apply keep_ite | apply upPcu_oneHeld
      | apply keep_then
        first | apply upPcu_oneHeld
    | dsimp -zeta only
    | split

theorem endJob_oneHeld (n : Slot) (h : s.oneHeld) : (State.endJob n s).oneHeld := (endJob_steady s n).oneHeld h

theorem dropKept_oneHeld (n : Slot) {s : State} : s.oneHeld → (State.dropKept n s).oneHeld := by
  delta dropKept
  repeat' first
    | extract_lets
    | with_reducible first
      | exact fun h => h | assumption | apply keep_ite | apply keep_fstIte | apply upAx_oneHeld | apply each_oneHeld
      | apply keep_then
        first | apply upAx_oneHeld | apply each_oneHeld
    | refine fun _ (_ : State) => ?_
    | dsimp -zeta only
    | split

theorem zoneStop_oneHeld (b : Beam) (all : Bool) (rel : Nat) {s : State} : s.oneHeld → (State.zoneStop b all rel s).oneHeld := by
  delta zoneStop
  repeat' first
    | extract_lets
    | with_reducible first
      | exact fun h => h | assumption | apply keep_ite | apply upZone_oneHeld
      | apply keep_then
        first | apply upZone_oneHeld
    | dsimp -zeta only
    | split

set_option smartUnfolding false in
theorem gateCut_oneHeld (b : Beam) (l : List GateIv) {s : State} : s.oneHeld → (State.gateCut b l s).oneHeld := by
  delta gateCut
  repeat' first
    | extract_lets
    | with_reducible first
      | exact fun h => h | assumption | apply keep_ite | apply gateEdge_oneHeld | apply gateItem_oneHeld
      | apply keep_then
        first | apply gateEdge_oneHeld | apply gateItem_oneHeld
    | refine keep_opt ?_ fun _ => ?_
    | refine keep_some (fun _ => ?_) fun _ => ?_
    | dsimp -zeta only
    | split

set_option smartUnfolding false in
theorem keepStop_oneHeld (b : Beam) (form j : Nat) (m : StopMove) (fifo : List Stroke) (gates : List GateIv) (r : Found) {s : State} : s.oneHeld → (State.keepStop b form j m fifo gates r s).oneHeld := by
  delta keepStop
  repeat' first
    | extract_lets
    | with_reducible first
      | exact fun h => h | assumption | apply keep_ite | apply upBe_oneHeld | apply gateCut_oneHeld
      | apply restore_oneHeld
      | apply keep_then
        first | apply upBe_oneHeld | apply gateCut_oneHeld | apply restore_oneHeld
    | dsimp -zeta only
    | split

set_option smartUnfolding false in
theorem stopNow_oneHeld (b : Beam) (form j : Nat) {s : State} : s.oneHeld → (State.stopNow b form j s).oneHeld := by
  delta stopNow
  repeat' first
    | extract_lets
    | with_reducible first
      | exact fun h => h | assumption | apply keep_ite | apply zoneStop_oneHeld | apply keepStop_oneHeld
      | apply keep_then
        first | apply zoneStop_oneHeld | apply keepStop_oneHeld
    | dsimp -zeta only
    | split

set_option smartUnfolding false in
theorem stopAtEnd_oneHeld (b : Beam) (s0 j : Nat) {s : State} : s.oneHeld → (State.stopAtEnd b s0 j s).oneHeld := by
  delta stopAtEnd
  repeat' first
    | extract_lets
    | with_reducible first
      | exact fun h => h | assumption | apply keep_ite | apply zoneStop_oneHeld | apply keepStop_oneHeld
      | apply keep_then
        first | apply zoneStop_oneHeld | apply keepStop_oneHeld
    | refine keep_opt ?_ fun _ => ?_
    | refine keep_some (fun _ => ?_) fun _ => ?_
    | dsimp -zeta only
    | split

set_option smartUnfolding false in
theorem acceptStop_oneHeld (b : Beam) (atOnce : Bool) {s : State} : s.oneHeld → (State.acceptStop b atOnce s).oneHeld := by
  delta acceptStop
  repeat' first
    | extract_lets
    | with_reducible first
      | exact fun h => h | assumption | apply keep_ite | apply upBe_oneHeld | apply stopNow_oneHeld
      | apply stopAtEnd_oneHeld | apply zoneStop_oneHeld | apply gateCut_oneHeld
      | apply keep_then
        first
        | apply upBe_oneHeld | apply stopNow_oneHeld | apply stopAtEnd_oneHeld | apply zoneStop_oneHeld
        | apply gateCut_oneHeld
    | refine keep_opt ?_ fun _ => ?_
    | refine keep_some (fun _ => ?_) fun _ => ?_
    | dsimp -zeta only
    | split

theorem fwdObject_oneHeld (addr len : Nat) {s : State} : s.oneHeld → (State.fwdObject addr len s).oneHeld := by
  delta fwdObject
  repeat' first
    | extract_lets
    | with_reducible first
      | exact fun h => h | assumption | apply keep_ite | apply keep_fstIte | apply ctl_oneHeld
      | apply parcel_oneHeld | apply each_oneHeld
      | apply keep_then
        first | apply ctl_oneHeld | apply parcel_oneHeld | apply each_oneHeld
    | refine fun _ (_ : State) => ?_
    | dsimp -zeta only
    | split

theorem fwdJob_oneHeld (n : Slot) {s : State} : s.oneHeld → (State.fwdJob n s).oneHeld := by
  delta fwdJob
  repeat' first
    | extract_lets
    | with_reducible first
      | exact fun h => h | assumption | apply keep_ite | apply keep_fstIte | apply fwdObject_oneHeld
      | apply each_oneHeld
      | apply keep_then
        first | apply fwdObject_oneHeld | apply each_oneHeld
    | refine fun _ (_ : State) => ?_
    | dsimp -zeta only
    | split

theorem sendCells_oneHeld (l : List Nat) {s : State} : s.oneHeld → (State.sendCells l s).oneHeld := by
  delta sendCells
  repeat' first
    | extract_lets
    | with_reducible first
      | exact fun h => h | assumption | apply keep_ite | apply keep_fstIte | apply parcel_oneHeld
      | apply each_oneHeld
      | apply keep_then
        first | apply parcel_oneHeld | apply each_oneHeld
    | refine fun _ (_ : State) => ?_
    | dsimp -zeta only
    | split

set_option smartUnfolding false in
theorem cellsSince_oneHeld (n : Slot) {s : State} : s.oneHeld → (State.cellsSince n s).oneHeld := by
  delta cellsSince
  repeat' first
    | extract_lets
    | with_reducible first
      | exact fun h => h | assumption | apply keep_ite | apply sendCells_oneHeld | apply free_oneHeld
      | apply keep_then
        first | apply sendCells_oneHeld | apply free_oneHeld
    | dsimp -zeta only
    | split

set_option smartUnfolding false in
theorem sendStop_oneHeld (b : Beam) {s : State} : s.oneHeld → (State.sendStop b s).oneHeld := by
  delta sendStop
  repeat' first
    | extract_lets
    | with_reducible first
      | exact fun h => h | assumption | apply keep_ite | apply ctl_oneHeld
      | apply keep_then
        first | apply ctl_oneHeld
    | refine keep_opt ?_ fun _ => ?_
    | refine keep_some (fun _ => ?_) fun _ => ?_
    | dsimp -zeta only
    | split

theorem unpost_oneHeld {s : State} : s.oneHeld → (State.unpost s).oneHeld := by
  delta unpost
  repeat' first
    | extract_lets
    | with_reducible first
      | exact fun h => h | assumption | apply keep_ite | apply setF_oneHeld
      | apply keep_then
        first | apply setF_oneHeld
    | dsimp -zeta only
    | split

theorem decideStep_oneHeld {s : State} : s.oneHeld → (State.decideStep s).oneHeld := by
  delta decideStep
  repeat' first
    | extract_lets
    | with_reducible first
      | exact fun h => h | assumption | apply keep_ite | apply upTwin_oneHeld
      | apply keep_then
        first | apply upTwin_oneHeld
    | dsimp -zeta only
    | split

theorem putOfs_oneHeld (m : Int) {s : State} : s.oneHeld → (State.putOfs m s).oneHeld := by
  delta putOfs
  repeat' first
    | extract_lets
    | with_reducible first
      | exact fun h => h | assumption | apply keep_ite | apply wr_oneHeld
      | apply keep_then
        first | apply wr_oneHeld
    | dsimp -zeta only
    | split

theorem swapGrid_oneHeld {s : State} : s.oneHeld → (State.swapGrid s).oneHeld := by
  delta swapGrid
  repeat' first
    | extract_lets
    | with_reducible first
      | exact fun h => h | assumption | apply keep_ite | apply upTwin_oneHeld | apply putOfs_oneHeld
      | apply keep_then
        first | apply upTwin_oneHeld | apply putOfs_oneHeld
    | dsimp -zeta only
    | split

theorem ethOut_oneHeld (n : Fin 2) (msg sidx bytes : Nat) (data : List Nat) {s : State} : s.oneHeld → (State.ethOut n msg sidx bytes data s).oneHeld := by
  delta ethOut
  repeat' first
    | extract_lets
    | with_reducible first
      | exact fun h => h | assumption | apply keep_ite | apply upTel_oneHeld | apply sent_oneHeld
      | apply keep_then
        first | apply upTel_oneHeld | apply sent_oneHeld
    | dsimp -zeta only
    | split

set_option smartUnfolding false in
theorem ethNext_oneHeld (n : Fin 2) {s : State} : s.oneHeld → (State.ethNext n s).oneHeld := by
  delta ethNext
  repeat' first
    | extract_lets
    | with_reducible first
      | exact fun h => h | assumption | apply keep_ite | apply ethOut_oneHeld | apply upTel_oneHeld
      | apply keep_then
        first | apply ethOut_oneHeld | apply upTel_oneHeld
    | refine keep_list ?_ fun _ _ => ?_
    | dsimp -zeta only
    | split

theorem driftSend_oneHeld (n : Beam) {s : State} : s.oneHeld → (State.driftSend n s).oneHeld := by
  delta driftSend
  repeat' first
    | extract_lets
    | with_reducible first
      | exact fun h => h | assumption | apply keep_ite | apply parcel_oneHeld
      | apply keep_then
        first | apply parcel_oneHeld
    | dsimp -zeta only
    | split

theorem sendState_oneHeld {s : State} : s.oneHeld → (State.sendState s).oneHeld := by
  delta sendState
  repeat' first
    | extract_lets
    | with_reducible first
      | exact fun h => h | assumption | apply keep_ite | apply ctl_oneHeld
      | apply keep_then
        first | apply ctl_oneHeld
    | dsimp -zeta only
    | split

theorem joined_oneHeld {s : State} : s.oneHeld → (State.joined s).oneHeld := by
  delta joined
  repeat' first
    | extract_lets
    | with_reducible first
      | exact fun h => h | assumption | apply keep_ite | apply upTwin_oneHeld | apply setPair_oneHeld
      | apply keep_then
        first | apply upTwin_oneHeld | apply setPair_oneHeld
    | dsimp -zeta only
    | split

theorem joinEnd_oneHeld (h : s.oneHeld) : (State.joinEnd s).oneHeld := by
  apply ite_oneHeld
  repeat' first
    | with_reducible first
      | assumption | intro _ | apply ite_oneHeld | apply fstIte_oneHeld | apply each_oneHeld | apply driftSend_oneHeld
      | apply sendState_oneHeld | apply twinPost_oneHeld | apply joined_oneHeld | apply ctl_oneHeld
    | extract_lets
    | split

theorem execRstNRelease_oneHeld {s : State} : s.oneHeld → (execRstNRelease s).OneHeld := by
  delta execRstNRelease
  repeat' first
    | extract_lets
    | with_reducible first
      | exact fun h => h | assumption | apply keep_ite | apply keep_resIte | apply next_oneHeld
      | apply leaveReset_oneHeld | apply upDev_oneHeld
      | apply keep_then
        first | apply next_oneHeld | apply leaveReset_oneHeld | apply upDev_oneHeld
    | dsimp -zeta only
    | split

theorem shpStop_oneHeld {s : State} : s.oneHeld → (State.shpStop s).oneHeld := by
  delta shpStop
  repeat' first
    | extract_lets
    | with_reducible first
      | exact fun h => h | assumption | apply keep_ite | apply upDev_oneHeld
      | apply keep_then
        first | apply upDev_oneHeld
    | dsimp -zeta only
    | split

theorem bootBreak_oneHeld (step : Nat) {s : State} : s.oneHeld → (State.bootBreak step s).oneHeld := by
  delta bootBreak
  repeat' first
    | extract_lets
    | with_reducible first
      | exact fun h => h | assumption | apply keep_ite | apply keep_fstIte | apply upDev_oneHeld | apply wr_oneHeld
      | apply report_oneHeld | apply shpStop_oneHeld | apply setSticky_oneHeld | apply ifc_oneHeld
      | apply keep_then
        first
        | apply upDev_oneHeld | apply wr_oneHeld | apply report_oneHeld | apply shpStop_oneHeld
        | apply setSticky_oneHeld | apply ifc_oneHeld
    | refine fun (_ : State) => ?_
    | dsimp -zeta only
    | split

theorem bootFail_oneHeld (step : Nat) {s : State} : s.oneHeld → (State.bootFail step s).oneHeld := by
  delta bootFail
  repeat' first
    | extract_lets
    | with_reducible first
      | exact fun h => h | assumption | apply keep_ite | apply keep_fstIte | apply report_oneHeld
      | apply bootBreak_oneHeld | apply ifc_oneHeld
      | apply keep_then
        first | apply report_oneHeld | apply bootBreak_oneHeld | apply ifc_oneHeld
    | refine fun (_ : State) => ?_
    | dsimp -zeta only
    | split

theorem execBootStepTimeout_oneHeld (step : Fin 8) {s : State} : s.oneHeld → (execBootStepTimeout step s).OneHeld := by
  delta execBootStepTimeout
  repeat' first
    | extract_lets
    | with_reducible first
      | exact fun h => h | assumption | apply keep_ite | apply keep_resIte | apply next_oneHeld
      | apply bootFail_oneHeld
      | apply keep_then
        first | apply next_oneHeld | apply bootFail_oneHeld
    | dsimp -zeta only
    | split

theorem dlStart_oneHeld {s : State} : s.oneHeld → (State.dlStart s).oneHeld := by
  delta dlStart
  repeat' first
    | extract_lets
    | with_reducible first
      | exact fun h => h | assumption | apply keep_ite | apply keep_fstIte | apply upCal_oneHeld | apply shp_oneHeld
      | apply keep_then
        first | apply upCal_oneHeld | apply shp_oneHeld
    | refine fun (_ : State) => ?_
    | dsimp -zeta only
    | split

theorem bootDone_oneHeld (h : s.oneHeld) : (State.bootDone s).oneHeld := by
  dsimp only [bootDone]
  repeat' first
    | with_reducible first
      | assumption | intro _ | apply ite_oneHeld | apply fstIte_oneHeld | apply wr_oneHeld | apply fresh_oneHeld
      | apply upTime_oneHeld | apply upHost_oneHeld | apply ifc_oneHeld | apply dlStart_oneHeld
      | apply timeMark_oneHeld | apply withEmit_oneHeld | apply upLdc_oneHeld | apply upHub_oneHeld
      | apply refresh_oneHeld | apply upDev_oneHeld
    | split

theorem execBootComplete_oneHeld {s : State} : s.oneHeld → (execBootComplete s).OneHeld := by
  delta execBootComplete
  repeat' first
    | extract_lets
    | with_reducible first
      | exact fun h => h | assumption | apply keep_ite | apply keep_resIte | apply next_oneHeld
      | apply bootDone_oneHeld | apply bootFail_oneHeld
      | apply keep_then
        first | apply next_oneHeld | apply bootDone_oneHeld | apply bootFail_oneHeld
    | dsimp -zeta only
    | split

theorem sendAdm_oneHeld (n : Slot) (code fin : Nat) (digest : DWord) {s : State} : s.oneHeld → (State.sendAdm n code fin digest s).oneHeld := by
  delta sendAdm
  repeat' first
    | extract_lets
    | with_reducible first
      | exact fun h => h | assumption | apply keep_ite | apply ctl_oneHeld
      | apply keep_then
        first | apply ctl_oneHeld
    | dsimp -zeta only
    | split

theorem zonePrep_oneHeld (n : Slot) (b : Beam) {s : State} : s.oneHeld → (State.zonePrep n b s).oneHeld := by
  delta zonePrep
  repeat' first
    | extract_lets
    | with_reducible first
      | exact fun h => h | assumption | apply keep_ite | apply upZone_oneHeld
      | apply keep_then
        first | apply upZone_oneHeld
    | dsimp -zeta only
    | split

theorem startScratch_oneHeld (n : Slot) (b : Beam) {s : State} : s.oneHeld → (State.startScratch n b s).oneHeld := by
  delta startScratch
  repeat' first
    | extract_lets
    | with_reducible first
      | exact fun h => h | assumption | apply keep_ite | apply wrBytes_oneHeld | apply mem_oneHeld
      | apply keep_then
        first | apply wrBytes_oneHeld | apply mem_oneHeld
    | dsimp -zeta only
    | split

theorem recalUpdate_oneHeld (n : Beam) {s : State} : s.oneHeld → (State.recalUpdate n s).oneHeld := by
  delta recalUpdate
  repeat' first
    | extract_lets
    | with_reducible first
      | exact fun h => h | assumption | apply keep_ite | apply keep_fstIte | apply irq_oneHeld
      | apply upHead_oneHeld | apply ifc_oneHeld
      | apply keep_then
        first | apply irq_oneHeld | apply upHead_oneHeld | apply ifc_oneHeld
    | refine fun (_ : State) => ?_
    | dsimp -zeta only
    | split

theorem promoteNow_oneHeld (n : Beam) {s : State} : s.oneHeld → (State.promoteNow n s).oneHeld := by
  delta promoteNow
  repeat' first
    | extract_lets
    | with_reducible first
      | exact fun h => h | assumption | apply keep_ite | apply recalUpdate_oneHeld | apply upHead_oneHeld
      | apply keep_then
        first | apply recalUpdate_oneHeld | apply upHead_oneHeld
    | dsimp -zeta only
    | split

theorem calResult_oneHeld (code set : Nat) {s : State} : s.oneHeld → (State.calResult code set s).oneHeld := by
  delta calResult
  repeat' first
    | extract_lets
    | with_reducible first
      | exact fun h => h | assumption | apply keep_ite | apply irq_oneHeld | apply wr_oneHeld
      | apply keep_then
        first | apply irq_oneHeld | apply wr_oneHeld
    | dsimp -zeta only
    | split

set_option smartUnfolding false in
theorem checkGone_oneHeld (b : Beam) {s : State} : s.oneHeld → (State.checkGone b s).oneHeld := by
  delta checkGone
  repeat' first
    | extract_lets
    | with_reducible first
      | exact fun h => h | assumption | apply keep_ite | apply calResult_oneHeld | apply upHead_oneHeld
      | apply keep_then
        first | apply calResult_oneHeld | apply upHead_oneHeld
    | refine keep_opt ?_ fun _ => ?_
    | refine keep_some (fun _ => ?_) fun _ => ?_
    | dsimp -zeta only
    | split

theorem driftLoad_oneHeld (n : Beam) {s : State} : s.oneHeld → (State.driftLoad n s).oneHeld := by
  delta driftLoad
  repeat' first
    | extract_lets
    | with_reducible first
      | exact fun h => h | assumption | apply keep_ite | apply upHead_oneHeld
      | apply keep_then
        first | apply upHead_oneHeld
    | dsimp -zeta only
    | split

set_option smartUnfolding false in
theorem execDriftCutoff_oneHeld (head : Beam) {s : State} : s.oneHeld → (execDriftCutoff head s).OneHeld := by
  delta execDriftCutoff
  repeat' first
    | extract_lets
    | with_reducible first
      | exact fun h => h | assumption | apply keep_ite | apply keep_resIte | apply next_oneHeld
      | apply checkCut_oneHeld
      | apply keep_then
        first | apply next_oneHeld | apply checkCut_oneHeld
    | refine keep_opt ?_ fun _ => ?_
    | refine keep_some (fun _ => ?_) fun _ => ?_
    | dsimp -zeta only
    | split

set_option smartUnfolding false in
theorem promiseMiss_oneHeld (kind : Nat) (b : Beam) (t : Nat) {s : State} : s.oneHeld → (State.promiseMiss kind b t s).oneHeld := by
  delta promiseMiss
  repeat' first
    | extract_lets
    | with_reducible first
      | exact fun h => h | assumption | apply keep_ite | apply report_oneHeld | apply record_oneHeld
      | apply wr_oneHeld
      | apply keep_then
        first | apply report_oneHeld | apply record_oneHeld | apply wr_oneHeld
    | refine keep_opt ?_ fun _ => ?_
    | refine keep_some (fun _ => ?_) fun _ => ?_
    | dsimp -zeta only
    | split

theorem lateCmds_oneHeld (n : Slot) {s : State} : s.oneHeld → (State.lateCmds n s).oneHeld := by
  delta lateCmds
  repeat' first
    | extract_lets
    | with_reducible first
      | exact fun h => h | assumption | apply keep_ite | apply keep_fstIte | apply upTwin_oneHeld
      | apply jobPost_oneHeld | apply each_oneHeld
      | apply keep_then
        first | apply upTwin_oneHeld | apply jobPost_oneHeld | apply each_oneHeld
    | refine fun _ (_ : State) => ?_
    | dsimp -zeta only
    | split

set_option smartUnfolding false in
theorem chainPart_oneHeld (b : Beam) (st : Stroke) {s : State} : s.oneHeld → (State.chainPart b st s).oneHeld := by
  delta chainPart
  repeat' first
    | extract_lets
    | with_reducible first
      | exact fun h => h | assumption | apply keep_ite | apply upBe_oneHeld
      | apply keep_then
        first | apply upBe_oneHeld
    | refine keep_list ?_ fun _ _ => ?_
    | dsimp -zeta only
    | split

theorem setStroke_oneHeld (b : Beam) (k : Key) (f : Stroke → Stroke) {s : State} : s.oneHeld → (State.setStroke b k f s).oneHeld := by
  delta setStroke
  repeat' first
    | extract_lets
    | with_reducible first
      | exact fun h => h | assumption | apply keep_ite | apply upBe_oneHeld
      | apply keep_then
        first | apply upBe_oneHeld
    | dsimp -zeta only
    | split

set_option smartUnfolding false in
theorem execStrokeStart_oneHeld (b : Beam) {s : State} : s.oneHeld → (execStrokeStart b s).OneHeld := by
  delta execStrokeStart
  repeat' first
    | with_reducible first
      | exact fun h => h | assumption | apply keep_ite | apply keep_resIte | apply next_oneHeld
      | apply chainPart_oneHeld | apply setStroke_oneHeld | apply upBe_oneHeld | apply digItem_oneHeld
      | apply askStop_oneHeld | apply promiseMiss_oneHeld
      | apply keep_then
        first
        | apply next_oneHeld | apply chainPart_oneHeld | apply setStroke_oneHeld | apply upBe_oneHeld
        | apply digItem_oneHeld | apply askStop_oneHeld | apply promiseMiss_oneHeld
    | extract_lets
    | refine keep_opt ?_ fun _ => ?_
    | refine keep_some (fun _ => ?_) fun _ => ?_
    | dsimp -zeta only
    | split

theorem lagNote_oneHeld (b : Beam) (tau : Nat) (moved : Bool) {s : State} : s.oneHeld → (State.lagNote b tau moved s).oneHeld := by
  delta lagNote
  repeat' first
    | extract_lets
    | with_reducible first
      | exact fun h => h | assumption | apply keep_ite | apply keep_fstIte | apply count_oneHeld | apply wr_oneHeld
      | apply ifc_oneHeld
      | apply keep_then
        first | apply count_oneHeld | apply wr_oneHeld | apply ifc_oneHeld
    | refine fun (_ : State) => ?_
    | dsimp -zeta only
    | split

set_option smartUnfolding false in
theorem openIv_oneHeld (b : Beam) (g : GateIv) {s : State} : s.oneHeld → (State.openIv b g s).oneHeld := by
  delta openIv
  repeat' first
    | extract_lets
    | with_reducible first
      | exact fun h => h | assumption | apply keep_ite | apply upBe_oneHeld
      | apply keep_then
        first | apply upBe_oneHeld
    | refine keep_opt ?_ fun _ => ?_
    | refine keep_list ?_ fun _ _ => ?_
    | refine keep_some (fun _ => ?_) fun _ => ?_
    | dsimp -zeta only
    | split

set_option smartUnfolding false in
theorem placeOn_oneHeld (b : Beam) (s0 : Nat) (st : Stroke) (e : Int) {s : State} : s.oneHeld → (State.placeOn b s0 st e s).oneHeld := by
  delta placeOn
  repeat' first
    | with_reducible first
      | exact fun h => h | assumption | apply keep_ite | apply setStroke_oneHeld | apply lagNote_oneHeld
      | apply openIv_oneHeld | apply gateEdge_oneHeld | apply cutItems_oneHeld | apply gateEdges_oneHeld
      | apply gateItem_oneHeld
      | apply keep_then
        first
        | apply setStroke_oneHeld | apply lagNote_oneHeld | apply openIv_oneHeld | apply gateEdge_oneHeld
        | apply cutItems_oneHeld | apply gateEdges_oneHeld | apply gateItem_oneHeld
    | extract_lets
    | refine keep_opt ?_ fun _ => ?_
    | refine keep_some (fun _ => ?_) fun _ => ?_
    | dsimp -zeta only
    | split

set_option smartUnfolding false in
theorem closeIv_oneHeld (b : Beam) (off : Int) {s : State} : s.oneHeld → (State.closeIv b off s).oneHeld := by
  delta closeIv
  repeat' first
    | extract_lets
    | with_reducible first
      | exact fun h => h | assumption | apply keep_ite | apply upBe_oneHeld
      | apply keep_then
        first | apply upBe_oneHeld
    | refine keep_list ?_ fun _ _ => ?_
    | dsimp -zeta only
    | split

set_option smartUnfolding false in
theorem gateDown_oneHeld (b : Beam) (e : Int) {s : State} : s.oneHeld → (State.gateDown b e s).oneHeld := by
  delta gateDown
  repeat' first
    | extract_lets
    | with_reducible first
      | exact fun h => h | assumption | apply keep_ite | apply gateEdge_oneHeld
      | apply keep_then
        first | apply gateEdge_oneHeld
    | refine keep_opt ?_ fun _ => ?_
    | refine keep_some (fun _ => ?_) fun _ => ?_
    | dsimp -zeta only
    | split

set_option smartUnfolding false in
theorem placeOff_oneHeld (b : Beam) (s0 : Nat) (st : Stroke) (e : Int) {s : State} : s.oneHeld → (State.placeOff b s0 st e s).oneHeld := by
  delta placeOff
  repeat' first
    | with_reducible first
      | exact fun h => h | assumption | apply keep_ite | apply setStroke_oneHeld | apply lagNote_oneHeld
      | apply closeIv_oneHeld | apply gateDown_oneHeld | apply gateItem_oneHeld
      | apply keep_then
        first
        | apply setStroke_oneHeld | apply lagNote_oneHeld | apply closeIv_oneHeld | apply gateDown_oneHeld
        | apply gateItem_oneHeld
    | extract_lets
    | refine keep_opt ?_ fun _ => ?_
    | refine keep_some (fun _ => ?_) fun _ => ?_
    | dsimp -zeta only
    | split

set_option smartUnfolding false in
theorem execGateEdge_oneHeld (b : Beam) {s : State} : s.oneHeld → (execGateEdge b s).OneHeld := by
  delta execGateEdge
  repeat' first
    | extract_lets
    | with_reducible first
      | exact fun h => h | assumption | apply keep_ite | apply keep_resIte | apply next_oneHeld
      | apply placeOn_oneHeld | apply placeOff_oneHeld
      | apply keep_then
        first | apply next_oneHeld | apply placeOn_oneHeld | apply placeOff_oneHeld
    | refine keep_opt ?_ fun _ => ?_
    | refine keep_some (fun _ => ?_) fun _ => ?_
    | dsimp -zeta only
    | split

theorem beIllegal_oneHeld (b : Beam) {s : State} : s.oneHeld → (State.beIllegal b s).oneHeld := by
  delta beIllegal
  repeat' first
    | extract_lets
    | with_reducible first
      | exact fun h => h | assumption | apply keep_ite | apply askStop_oneHeld | apply report_oneHeld
      | apply keep_then
        first | apply askStop_oneHeld | apply report_oneHeld
    | dsimp -zeta only
    | split

theorem decode_oneHeld (b : Beam) (i : PInstr) {f : Promise → PState → State → State}
    (hf : ∀ pr p t, t.oneHeld → (f pr p t).oneHeld) (h : s.oneHeld) : (s.decode b i f).oneHeld := by
  unfold decode
  refine ite_oneHeld ?_ h
  split
  · exact ite_oneHeld (beIllegal_oneHeld _ h) (ite_oneHeld h (upBe_oneHeld _ _ (hf _ _ s h)))
  · exact h

theorem prune_oneHeld (b : Beam) {s : State} : s.oneHeld → (State.prune b s).oneHeld := by
  delta prune
  repeat' first
    | extract_lets
    | with_reducible first
      | exact fun h => h | assumption | apply keep_ite | apply upBe_oneHeld
      | apply keep_then
        first | apply upBe_oneHeld
    | dsimp -zeta only
    | split

set_option smartUnfolding false in
theorem pushStroke_oneHeld (b : Beam) (pr : Promise) (p : PState) (y : Stroke) (words : Nat) {s : State} : s.oneHeld → (State.pushStroke b pr p y words s).oneHeld := by
  delta pushStroke
  repeat' first
    | extract_lets
    | with_reducible first
      | exact fun h => h | assumption | apply keep_ite | apply upBe_oneHeld
      | apply keep_then
        first | apply upBe_oneHeld
    | refine keep_opt ?_ fun _ => ?_
    | refine keep_some (fun _ => ?_) fun _ => ?_
    | dsimp -zeta only
    | split

theorem ledgerOwes_oneHeld (b n : Nat) {s : State} : s.oneHeld → (State.ledgerOwes b n s).oneHeld := by
  delta ledgerOwes
  repeat' first
    | extract_lets
    | with_reducible first
      | exact fun h => h | assumption | apply keep_ite | apply upLdg_oneHeld
      | apply keep_then
        first | apply upLdg_oneHeld
    | dsimp -zeta only
    | split

set_option smartUnfolding false in
theorem readOwes_oneHeld (b : Nat) (q : Pt) {s : State} : s.oneHeld → (State.readOwes b q s).oneHeld := by
  delta readOwes
  repeat' first
    | extract_lets
    | with_reducible first
      | exact fun h => h | assumption | apply keep_ite | apply ledgerOwes_oneHeld
      | apply keep_then
        first | apply ledgerOwes_oneHeld
    | refine keep_opt ?_ fun _ => ?_
    | refine keep_some (fun _ => ?_) fun _ => ?_
    | dsimp -zeta only
    | split

set_option smartUnfolding false in
theorem decodeStroke_oneHeld (b : Beam) (i : PInstr) (kind : StrokeKind) (a : StrokeArgs) {s : State} : s.oneHeld → (State.decodeStroke b i kind a s).oneHeld := by
  delta decodeStroke
  repeat' first
    | extract_lets
    | with_reducible first
      | exact fun h => h | assumption | apply keep_ite | apply keep_fstIte | apply upBe_oneHeld
      | apply pushStroke_oneHeld | apply readOwes_oneHeld | apply prune_oneHeld | apply count_oneHeld
      | apply decode_oneHeld | apply ifc_oneHeld
      | apply keep_then
        first
        | apply upBe_oneHeld | apply pushStroke_oneHeld | apply readOwes_oneHeld | apply prune_oneHeld
        | apply count_oneHeld | apply decode_oneHeld | apply ifc_oneHeld
    | refine keep_opt ?_ fun _ => ?_
    | refine keep_some (fun _ => ?_) fun _ => ?_
    | refine fun _ _ (_ : State) => ?_
    | refine fun (_ : State) => ?_
    | dsimp -zeta only
    | split

theorem execMark_oneHeld (b : Beam) (a : StrokeArgs) {s : State} : s.oneHeld → (execMark b a s).OneHeld := by
  delta execMark
  repeat' first
    | extract_lets
    | with_reducible first
      | exact fun h => h | assumption | apply keep_ite | apply keep_resIte | apply next_oneHeld
      | apply decodeStroke_oneHeld
      | apply keep_then
        first | apply next_oneHeld | apply decodeStroke_oneHeld
    | dsimp -zeta only
    | split

theorem execJump_oneHeld (b : Beam) (a : StrokeArgs) {s : State} : s.oneHeld → (execJump b a s).OneHeld := by
  delta execJump
  repeat' first
    | extract_lets
    | with_reducible first
      | exact fun h => h | assumption | apply keep_ite | apply keep_resIte | apply next_oneHeld
      | apply decodeStroke_oneHeld
      | apply keep_then
        first | apply next_oneHeld | apply decodeStroke_oneHeld
    | dsimp -zeta only
    | split

theorem execArc_oneHeld (b : Beam) (a : StrokeArgs) {s : State} : s.oneHeld → (execArc b a s).OneHeld := by
  delta execArc
  repeat' first
    | extract_lets
    | with_reducible first
      | exact fun h => h | assumption | apply keep_ite | apply keep_resIte | apply next_oneHeld
      | apply decodeStroke_oneHeld
      | apply keep_then
        first | apply next_oneHeld | apply decodeStroke_oneHeld
    | dsimp -zeta only
    | split

theorem execSpot_oneHeld (b : Beam) (a : StrokeArgs) {s : State} : s.oneHeld → (execSpot b a s).OneHeld := by
  delta execSpot
  repeat' first
    | extract_lets
    | with_reducible first
      | exact fun h => h | assumption | apply keep_ite | apply keep_resIte | apply next_oneHeld
      | apply decodeStroke_oneHeld
      | apply keep_then
        first | apply next_oneHeld | apply decodeStroke_oneHeld
    | dsimp -zeta only
    | split

theorem setDec_oneHeld (b : Beam) (p : PState) {s : State} : s.oneHeld → (State.setDec b p s).oneHeld := by
  delta setDec
  repeat' first
    | extract_lets
    | with_reducible first
      | exact fun h => h | assumption | apply keep_ite | apply upBe_oneHeld
      | apply keep_then
        first | apply upBe_oneHeld
    | dsimp -zeta only
    | split

theorem execZacq_oneHeld (b : Beam) (set : BitVec 16) {s : State} : s.oneHeld → (execZacq b set s).OneHeld := by
  delta execZacq
  repeat' first
    | extract_lets
    | with_reducible first
      | exact fun h => h | assumption | apply keep_ite | apply keep_resIte | apply keep_fstIte | apply next_oneHeld
      | apply setDec_oneHeld | apply upZone_oneHeld | apply decode_oneHeld
      | apply keep_then
        first | apply next_oneHeld | apply setDec_oneHeld | apply upZone_oneHeld | apply decode_oneHeld
    | refine fun _ _ (_ : State) => ?_
    | dsimp -zeta only
    | split

theorem execZrel_oneHeld (b : Beam) (h : s.oneHeld) : (execZrel b s).OneHeld := by
  apply next_oneHeld
  repeat' first
    | with_reducible first
      | assumption | intro _ | apply next_oneHeld | apply ite_oneHeld | apply resIte_oneHeld | apply fstIte_oneHeld
      | apply decode_oneHeld | apply setDec_oneHeld | apply upZone_oneHeld
    | extract_lets
    | split

theorem execMuster_oneHeld (b : Beam) (id : Byte) (cell : Bool) (mask : BitVec 16) {s : State} : s.oneHeld → (execMuster b id cell mask s).OneHeld := by
  delta execMuster
  repeat' first
    | extract_lets
    | with_reducible first
      | exact fun h => h | assumption | apply keep_ite | apply keep_resIte | apply keep_fstIte | apply next_oneHeld
      | apply upBe_oneHeld | apply decode_oneHeld
      | apply keep_then
        first | apply next_oneHeld | apply upBe_oneHeld | apply decode_oneHeld
    | refine fun _ _ (_ : State) => ?_
    | dsimp -zeta only
    | split

theorem decodeP_oneHeld (b : Beam) (i : PInstr) (f : PState → PState) {s : State} : s.oneHeld → (State.decodeP b i f s).oneHeld := by
  delta decodeP
  repeat' first
    | extract_lets
    | with_reducible first
      | exact fun h => h | assumption | apply keep_ite | apply keep_fstIte | apply setDec_oneHeld
      | apply decode_oneHeld
      | apply keep_then
        first | apply setDec_oneHeld | apply decode_oneHeld
    | refine fun _ _ (_ : State) => ?_
    | dsimp -zeta only
    | split

theorem execWaitt_oneHeld (b : Beam) (rel : Bool) (target : BitVec 48) {s : State} : s.oneHeld → (execWaitt b rel target s).OneHeld := by
  delta execWaitt
  repeat' first
    | extract_lets
    | with_reducible first
      | exact fun h => h | assumption | apply keep_ite | apply keep_resIte | apply next_oneHeld
      | apply decodeP_oneHeld
      | apply keep_then
        first | apply next_oneHeld | apply decodeP_oneHeld
    | dsimp -zeta only
    | split

theorem execMov_oneHeld (b : Beam) (a : IntArgs) {s : State} : s.oneHeld → (execMov b a s).OneHeld := by
  delta execMov
  repeat' first
    | extract_lets
    | with_reducible first
      | exact fun h => h | assumption | apply keep_ite | apply keep_resIte | apply next_oneHeld
      | apply decodeP_oneHeld
      | apply keep_then
        first | apply next_oneHeld | apply decodeP_oneHeld
    | dsimp -zeta only
    | split

theorem execAdd_oneHeld (b : Beam) (a : IntArgs) {s : State} : s.oneHeld → (execAdd b a s).OneHeld := by
  delta execAdd
  repeat' first
    | extract_lets
    | with_reducible first
      | exact fun h => h | assumption | apply keep_ite | apply keep_resIte | apply next_oneHeld
      | apply decodeP_oneHeld
      | apply keep_then
        first | apply next_oneHeld | apply decodeP_oneHeld
    | dsimp -zeta only
    | split

theorem execSub_oneHeld (b : Beam) (a : IntArgs) {s : State} : s.oneHeld → (execSub b a s).OneHeld := by
  delta execSub
  repeat' first
    | extract_lets
    | with_reducible first
      | exact fun h => h | assumption | apply keep_ite | apply keep_resIte | apply next_oneHeld
      | apply decodeP_oneHeld
      | apply keep_then
        first | apply next_oneHeld | apply decodeP_oneHeld
    | dsimp -zeta only
    | split

theorem execMul_oneHeld (b : Beam) (a : IntArgs) {s : State} : s.oneHeld → (execMul b a s).OneHeld := by
  delta execMul
  repeat' first
    | extract_lets
    | with_reducible first
      | exact fun h => h | assumption | apply keep_ite | apply keep_resIte | apply next_oneHeld
      | apply decodeP_oneHeld
      | apply keep_then
        first | apply next_oneHeld | apply decodeP_oneHeld
    | dsimp -zeta only
    | split

theorem execBand_oneHeld (b : Beam) (a : IntArgs) {s : State} : s.oneHeld → (execBand b a s).OneHeld := by
  delta execBand
  repeat' first
    | extract_lets
    | with_reducible first
      | exact fun h => h | assumption | apply keep_ite | apply keep_resIte | apply next_oneHeld
      | apply decodeP_oneHeld
      | apply keep_then
        first | apply next_oneHeld | apply decodeP_oneHeld
    | dsimp -zeta only
    | split

theorem execBor_oneHeld (b : Beam) (a : IntArgs) {s : State} : s.oneHeld → (execBor b a s).OneHeld := by
  delta execBor
  repeat' first
    | extract_lets
    | with_reducible first
      | exact fun h => h | assumption | apply keep_ite | apply keep_resIte | apply next_oneHeld
      | apply decodeP_oneHeld
      | apply keep_then
        first | apply next_oneHeld | apply decodeP_oneHeld
    | dsimp -zeta only
    | split

theorem execBxor_oneHeld (b : Beam) (a : IntArgs) {s : State} : s.oneHeld → (execBxor b a s).OneHeld := by
  delta execBxor
  repeat' first
    | extract_lets
    | with_reducible first
      | exact fun h => h | assumption | apply keep_ite | apply keep_resIte | apply next_oneHeld
      | apply decodeP_oneHeld
      | apply keep_then
        first | apply next_oneHeld | apply decodeP_oneHeld
    | dsimp -zeta only
    | split

theorem execShl_oneHeld (b : Beam) (a : IntArgs) {s : State} : s.oneHeld → (execShl b a s).OneHeld := by
  delta execShl
  repeat' first
    | extract_lets
    | with_reducible first
      | exact fun h => h | assumption | apply keep_ite | apply keep_resIte | apply next_oneHeld
      | apply decodeP_oneHeld
      | apply keep_then
        first | apply next_oneHeld | apply decodeP_oneHeld
    | dsimp -zeta only
    | split

theorem execShr_oneHeld (b : Beam) (a : IntArgs) {s : State} : s.oneHeld → (execShr b a s).OneHeld := by
  delta execShr
  repeat' first
    | extract_lets
    | with_reducible first
      | exact fun h => h | assumption | apply keep_ite | apply keep_resIte | apply next_oneHeld
      | apply decodeP_oneHeld
      | apply keep_then
        first | apply next_oneHeld | apply decodeP_oneHeld
    | dsimp -zeta only
    | split

theorem execSar_oneHeld (b : Beam) (a : IntArgs) {s : State} : s.oneHeld → (execSar b a s).OneHeld := by
  delta execSar
  repeat' first
    | extract_lets
    | with_reducible first
      | exact fun h => h | assumption | apply keep_ite | apply keep_resIte | apply next_oneHeld
      | apply decodeP_oneHeld
      | apply keep_then
        first | apply next_oneHeld | apply decodeP_oneHeld
    | dsimp -zeta only
    | split

theorem execCmp_oneHeld (b : Beam) (a : IntArgs) {s : State} : s.oneHeld → (execCmp b a s).OneHeld := by
  delta execCmp
  repeat' first
    | extract_lets
    | with_reducible first
      | exact fun h => h | assumption | apply keep_ite | apply keep_resIte | apply next_oneHeld
      | apply decodeP_oneHeld
      | apply keep_then
        first | apply next_oneHeld | apply decodeP_oneHeld
    | dsimp -zeta only
    | split

theorem execMulh_oneHeld (b : Beam) (a : IntArgs) {s : State} : s.oneHeld → (execMulh b a s).OneHeld := by
  delta execMulh
  repeat' first
    | extract_lets
    | with_reducible first
      | exact fun h => h | assumption | apply keep_ite | apply keep_resIte | apply next_oneHeld
      | apply decodeP_oneHeld
      | apply keep_then
        first | apply next_oneHeld | apply decodeP_oneHeld
    | dsimp -zeta only
    | split

theorem execLd_oneHeld (b : Beam) (a : IntArgs) {s : State} : s.oneHeld → (execLd b a s).OneHeld := by
  delta execLd
  repeat' first
    | extract_lets
    | with_reducible first
      | exact fun h => h | assumption | apply keep_ite | apply keep_resIte | apply keep_fstIte | apply next_oneHeld
      | apply setDec_oneHeld | apply decode_oneHeld
      | apply keep_then
        first | apply next_oneHeld | apply setDec_oneHeld | apply decode_oneHeld
    | refine fun _ _ (_ : State) => ?_
    | dsimp -zeta only
    | split

set_option smartUnfolding false in
theorem execSt_oneHeld (b : Beam) (a : IntArgs) {s : State} : s.oneHeld → (execSt b a s).OneHeld := by
  delta execSt
  repeat' first
    | extract_lets
    | with_reducible first
      | exact fun h => h | assumption | apply keep_ite | apply keep_resIte | apply keep_fstIte | apply next_oneHeld
      | apply wrN_oneHeld | apply setDec_oneHeld | apply upBe_oneHeld | apply decode_oneHeld
      | apply keep_then
        first
        | apply next_oneHeld | apply wrN_oneHeld | apply setDec_oneHeld | apply upBe_oneHeld | apply decode_oneHeld
    | refine keep_opt ?_ fun _ => ?_
    | refine keep_some (fun _ => ?_) fun _ => ?_
    | refine fun _ _ (_ : State) => ?_
    | dsimp -zeta only
    | split

theorem execRdp_oneHeld (b : Beam) (a : IntArgs) {s : State} : s.oneHeld → (execRdp b a s).OneHeld := by
  delta execRdp
  repeat' first
    | extract_lets
    | with_reducible first
      | exact fun h => h | assumption | apply keep_ite | apply keep_resIte | apply next_oneHeld
      | apply decodeP_oneHeld
      | apply keep_then
        first | apply next_oneHeld | apply decodeP_oneHeld
    | dsimp -zeta only
    | split

theorem execEndl_oneHeld (b : Beam) (back : BitVec 24) {s : State} : s.oneHeld → (execEndl b back s).OneHeld := by
  delta execEndl
  repeat' first
    | extract_lets
    | with_reducible first
      | exact fun h => h | assumption | apply keep_ite | apply keep_resIte | apply next_oneHeld
      | apply decodeP_oneHeld
      | apply keep_then
        first | apply next_oneHeld | apply decodeP_oneHeld
    | dsimp -zeta only
    | split

theorem execBr_oneHeld (b : Beam) (cond : Fin 16) (offset : BitVec 24) {s : State} : s.oneHeld → (execBr b cond offset s).OneHeld := by
  delta execBr
  repeat' first
    | extract_lets
    | with_reducible first
      | exact fun h => h | assumption | apply keep_ite | apply keep_resIte | apply next_oneHeld
      | apply decodeP_oneHeld
      | apply keep_then
        first | apply next_oneHeld | apply decodeP_oneHeld
    | dsimp -zeta only
    | split

theorem execLgq_oneHeld (b : Beam) (rd rx ry : Fin 16) (useP : Bool) {s : State} : s.oneHeld → (execLgq b rd rx ry useP s).OneHeld := by
  delta execLgq
  repeat' first
    | extract_lets
    | with_reducible first
      | exact fun h => h | assumption | apply keep_ite | apply keep_resIte | apply keep_fstIte | apply next_oneHeld
      | apply setDec_oneHeld | apply readOwes_oneHeld | apply decode_oneHeld
      | apply keep_then
        first | apply next_oneHeld | apply setDec_oneHeld | apply readOwes_oneHeld | apply decode_oneHeld
    | refine fun _ _ (_ : State) => ?_
    | dsimp -zeta only
    | split

theorem execPset_oneHeld (b : Beam) (reg : Bool) (rs sel : Fin 16) (imm32 : Word) {s : State} : s.oneHeld → (execPset b reg rs sel imm32 s).OneHeld := by
  delta execPset
  repeat' first
    | extract_lets
    | with_reducible first
      | exact fun h => h | assumption | apply keep_ite | apply keep_resIte | apply next_oneHeld
      | apply decodeP_oneHeld
      | apply keep_then
        first | apply next_oneHeld | apply decodeP_oneHeld
    | dsimp -zeta only
    | split

theorem execFocus_oneHeld (b : Beam) (reg rel : Bool) (rs : Fin 16) (imm32 : Word) {s : State} : s.oneHeld → (execFocus b reg rel rs imm32 s).OneHeld := by
  delta execFocus
  repeat' first
    | extract_lets
    | with_reducible first
      | exact fun h => h | assumption | apply keep_ite | apply keep_resIte | apply keep_fstIte | apply next_oneHeld
      | apply setDec_oneHeld | apply decode_oneHeld
      | apply keep_then
        first | apply next_oneHeld | apply setDec_oneHeld | apply decode_oneHeld
    | refine fun _ _ (_ : State) => ?_
    | dsimp -zeta only
    | split

theorem execMarkev_oneHeld (b : Beam) (reg irq : Bool) (rs : Fin 16) (code : BitVec 16) (imm32 : Word) {s : State} : s.oneHeld → (execMarkev b reg irq rs code imm32 s).OneHeld := by
  delta execMarkev
  repeat' first
    | extract_lets
    | with_reducible first
      | exact fun h => h | assumption | apply keep_ite | apply keep_resIte | apply keep_fstIte | apply next_oneHeld
      | apply upBe_oneHeld | apply decode_oneHeld
      | apply keep_then
        first | apply next_oneHeld | apply upBe_oneHeld | apply decode_oneHeld
    | refine fun _ _ (_ : State) => ?_
    | dsimp -zeta only
    | split

theorem execHalt_oneHeld (b : Beam) {s : State} : s.oneHeld → (execHalt b s).OneHeld := by
  delta execHalt
  repeat' first
    | with_reducible first
      | exact fun h => h | assumption | apply keep_ite | apply keep_resIte | apply keep_fstIte | apply next_oneHeld
      | apply upBe_oneHeld | apply decode_oneHeld
      | apply keep_then
        first | apply next_oneHeld | apply upBe_oneHeld | apply decode_oneHeld
    | extract_lets
    | refine fun _ _ (_ : State) => ?_
    | dsimp -zeta only
    | split

theorem telRec_oneHeld (b : Beam) (r : List Byte) {s : State} : s.oneHeld → (State.telRec b r s).oneHeld := by
  delta telRec
  repeat' first
    | extract_lets
    | with_reducible first
      | exact fun h => h | assumption | apply keep_ite | apply upTel_oneHeld
      | apply keep_then
        first | apply upTel_oneHeld
    | dsimp -zeta only
    | split

theorem capTrigger_oneHeld (b : Beam) (mode : Nat) {s : State} : s.oneHeld → (State.capTrigger b mode s).oneHeld := by
  delta capTrigger
  repeat' first
    | extract_lets
    | with_reducible first
      | exact fun h => h | assumption | apply keep_ite | apply upPcu_oneHeld
      | apply keep_then
        first | apply upPcu_oneHeld
    | dsimp -zeta only
    | split

theorem execMarkevRelease_oneHeld (b : Beam) {s : State} : s.oneHeld → (execMarkevRelease b s).OneHeld := by
  delta execMarkevRelease
  extract_lets j
  cases j with
  | none => exact fun h => h
  | some j =>
    cases (s.be[b]).pendEv with
    | nil => exact fun h => h
    | cons v rest =>
      refine keep_resIte (fun h => h) ?_
      extract_lets s₁ s₂ s₃ s₄
      have h₁ : s.oneHeld → s₁.oneHeld := upBe_oneHeld _ _
      have h₂ : s.oneHeld → s₂.oneHeld := keep_ite (keep_then (upBe_oneHeld _ _) h₁) (keep_then (count_oneHeld _ _ _ _) h₁)
      have h₃ : s.oneHeld → s₃.oneHeld := keep_ite (keep_then (telRec_oneHeld _ _) h₂) h₂
      exact keep_then (ifc_oneHeld _ fun _ => capTrigger_oneHeld _ _) (keep_then (ifc_oneHeld _ fun _ => msix_oneHeld _) h₃)

theorem muster_oneHeld (b : Beam) (m kind id : Nat) {s : State} : s.oneHeld → (State.muster b m kind id s).oneHeld := by
  delta muster
  repeat' first
    | extract_lets
    | with_reducible first
      | exact fun h => h | assumption | apply keep_ite | apply cellAt_oneHeld | apply unsend_oneHeld
      | apply keep_then
        first | apply cellAt_oneHeld | apply unsend_oneHeld
    | dsimp -zeta only
    | split

theorem execZacqWaitExpiry_oneHeld (b : Beam) {s : State} : s.oneHeld → (execZacqWaitExpiry b s).OneHeld := by
  have hm (n : Nat) : s.oneHeld → ((s.promiseMiss 4 b n).askStop b true).oneHeld :=
    keep_then (askStop_oneHeld _ _) (promiseMiss_oneHeld _ _ _)
  delta execZacqWaitExpiry
  cases s.running b with
  | none => exact fun h => h
  | some s0 =>
    cases (s.zone.beam[b]).reqs with
    | nil => exact fun h => h
    | cons q l =>
      cases s.promiseOf b with
      | none => exact fun h => h
      | some pr => exact keep_resIte (hm _) fun h => h

set_option smartUnfolding false in
theorem execBeEvPop_oneHeld (b : Beam) {s : State} : s.oneHeld → (execBeEvPop b s).OneHeld := by
  delta execBeEvPop
  repeat' first
    | extract_lets
    | with_reducible first
      | exact fun h => h | assumption | apply keep_ite | apply keep_resIte | apply next_oneHeld
      | apply upHost_oneHeld | apply upBe_oneHeld
      | apply keep_then
        first | apply next_oneHeld | apply upHost_oneHeld | apply upBe_oneHeld
    | refine keep_list ?_ fun _ _ => ?_
    | dsimp -zeta only
    | split

theorem execEvClr_oneHeld (b : Beam) {s : State} : s.oneHeld → (execEvClr b s).OneHeld := by
  delta execEvClr
  repeat' first
    | extract_lets
    | with_reducible first
      | exact fun h => h | assumption | apply keep_ite | apply keep_resIte | apply next_oneHeld | apply wr_oneHeld
      | apply upBe_oneHeld
      | apply keep_then
        first | apply next_oneHeld | apply wr_oneHeld | apply upBe_oneHeld
    | dsimp -zeta only
    | split

theorem execBeCntClr_oneHeld (b : Beam) {s : State} : s.oneHeld → (execBeCntClr b s).OneHeld := by
  delta execBeCntClr
  repeat' first
    | extract_lets
    | with_reducible first
      | exact fun h => h | assumption | apply keep_ite | apply keep_resIte | apply next_oneHeld | apply wr_oneHeld
      | apply keep_then
        first | apply next_oneHeld | apply wr_oneHeld
    | dsimp -zeta only
    | split

set_option smartUnfolding false in
theorem execPdSample_oneHeld (b : Beam) (f : Bool) (sidx pdA pdB : BitVec 16) {s : State} : s.oneHeld → (execPdSample b f sidx pdA pdB s).OneHeld := by
  delta execPdSample
  repeat' first
    | extract_lets
    | with_reducible first
      | exact fun h => h | assumption | apply keep_ite | apply keep_resIte | apply next_oneHeld
      | apply count_oneHeld | apply setF_oneHeld | apply upPcu_oneHeld
      | apply keep_then
        first | apply next_oneHeld | apply count_oneHeld | apply setF_oneHeld | apply upPcu_oneHeld
    | refine keep_opt ?_ fun _ => ?_
    | refine keep_some (fun _ => ?_) fun _ => ?_
    | dsimp -zeta only
    | split

theorem pcuIntake_oneHeld (b : Beam) (k : Nat) (running : Bool) {s : State} :
    s.oneHeld → (s.pcuIntake b k running).1.oneHeld := by
  have hu (f : Pcu → Pcu) : s.oneHeld → (s.upPcu b f).oneHeld := upPcu_oneHeld b f
  delta pcuIntake
  extract_lets p j hit inbox
  rcases hit with _ | ⟨_, _ | _⟩
  · exact keep_then (count_oneHeld _ _ _ _) (hu _)
  · exact keep_then (count_oneHeld _ _ _ _) (hu _)
  · exact hu _

theorem enterFallback_oneHeld (b : Beam) (id i : Nat) {s : State} : s.oneHeld → (State.enterFallback b id i s).oneHeld := by
  delta enterFallback
  repeat' first
    | extract_lets
    | with_reducible first
      | exact fun h => h | assumption | apply keep_ite | apply upPcu_oneHeld | apply report_oneHeld
      | apply setB_oneHeld | apply capTrigger_oneHeld | apply count_oneHeld
      | apply keep_then
        first
        | apply upPcu_oneHeld | apply report_oneHeld | apply setB_oneHeld | apply capTrigger_oneHeld
        | apply count_oneHeld
    | dsimp -zeta only
    | split

theorem pcuDetect_oneHeld (b : Beam) (ok live running : Bool) {s : State} : s.oneHeld → (State.pcuDetect b ok live running s).oneHeld := by
  delta pcuDetect
  repeat' first
    | extract_lets
    | with_reducible first
      | exact fun h => h | assumption | apply keep_ite | apply enterFallback_oneHeld | apply upPcu_oneHeld
      | apply keep_then
        first | apply enterFallback_oneHeld | apply upPcu_oneHeld
    | dsimp -zeta only
    | split

theorem pcuExposure_oneHeld (b : Beam) (first : Bool) (prof : Nat) (f : Prof) {s : State} : s.oneHeld → (State.pcuExposure b first prof f s).oneHeld := by
  delta pcuExposure
  repeat' first
    | extract_lets
    | with_reducible first
      | exact fun h => h | assumption | apply keep_ite | apply upPcu_oneHeld
      | apply keep_then
        first | apply upPcu_oneHeld
    | dsimp -zeta only
    | split

set_option smartUnfolding false in
theorem cacheRoom_oneHeld (b : Nat) {s : State} : s.oneHeld → (State.cacheRoom b s).oneHeld := by
  delta cacheRoom
  repeat' first
    | extract_lets
    | with_reducible first
      | exact fun h => h | assumption | apply keep_ite | apply upLdg_oneHeld | apply ledgerOwes_oneHeld
      | apply wrN_oneHeld
      | apply keep_then
        first | apply upLdg_oneHeld | apply ledgerOwes_oneHeld | apply wrN_oneHeld
    | refine keep_opt ?_ fun _ => ?_
    | refine keep_some (fun _ => ?_) fun _ => ?_
    | dsimp -zeta only
    | split

theorem cacheFetch_oneHeld (b ix : Nat) {s : State} : s.oneHeld → (State.cacheFetch b ix s).oneHeld := by
  delta cacheFetch
  repeat' first
    | extract_lets
    | with_reducible first
      | exact fun h => h | assumption | apply keep_ite | apply ledgerOwes_oneHeld | apply cacheRoom_oneHeld
      | apply upLdg_oneHeld
      | apply keep_then
        first | apply ledgerOwes_oneHeld | apply cacheRoom_oneHeld | apply upLdg_oneHeld
    | dsimp -zeta only
    | split

set_option smartUnfolding false in
theorem kernelFetch_oneHeld (b : Nat) (i j : Int) {s : State} : s.oneHeld → (State.kernelFetch b i j s).oneHeld := by
  delta kernelFetch
  repeat' first
    | extract_lets
    | with_reducible first
      | exact fun h => h | assumption | apply keep_ite | apply keep_fstIte | apply cacheFetch_oneHeld
      | apply each_oneHeld
      | apply keep_then
        first | apply cacheFetch_oneHeld | apply each_oneHeld
    | refine keep_opt ?_ fun _ => ?_
    | refine keep_some (fun _ => ?_) fun _ => ?_
    | refine fun _ (_ : State) => ?_
    | dsimp -zeta only
    | split

set_option smartUnfolding false in
theorem fetchAhead_oneHeld (b : Beam) (k : Nat) {s : State} : s.oneHeld → (State.fetchAhead b k s).oneHeld := by
  delta fetchAhead
  repeat' first
    | extract_lets
    | with_reducible first
      | exact fun h => h | assumption | apply keep_ite | apply kernelFetch_oneHeld
      | apply keep_then
        first | apply kernelFetch_oneHeld
    | refine keep_opt ?_ fun _ => ?_
    | refine keep_some (fun _ => ?_) fun _ => ?_
    | dsimp -zeta only
    | split

set_option smartUnfolding false in
theorem pcuStore_oneHeld (b : Beam) (k : Nat) (m : Nominal) (o : PcuOut) {s : State} : s.oneHeld → (State.pcuStore b k m o s).oneHeld := by
  delta pcuStore
  repeat' first
    | extract_lets
    | with_reducible first
      | exact fun h => h | assumption | apply keep_ite | apply keep_fstIte | apply upPcu_oneHeld
      | apply count_oneHeld | apply ifc_oneHeld
      | apply keep_then
        first | apply upPcu_oneHeld | apply count_oneHeld | apply ifc_oneHeld
    | refine keep_opt ?_ fun _ => ?_
    | refine keep_some (fun _ => ?_) fun _ => ?_
    | refine fun (_ : State) => ?_
    | dsimp -zeta only
    | split

set_option smartUnfolding false in
theorem deposit_oneHeld (b : Beam) (k tau : Nat) (opn : Bool) {s : State} : s.oneHeld → (State.deposit b k tau opn s).oneHeld := by
  delta deposit
  repeat' first
    | with_reducible first
      | exact fun h => h | assumption | apply keep_ite | apply kernelFetch_oneHeld | apply upLdg_oneHeld
      | apply keep_then
        first | apply kernelFetch_oneHeld | apply upLdg_oneHeld
    | extract_lets
    | dsimp -zeta only
    | split

theorem noDeposit_oneHeld (b : Beam) {s : State} : s.oneHeld → (State.noDeposit b s).oneHeld := by
  delta noDeposit
  repeat' first
    | extract_lets
    | with_reducible first
      | exact fun h => h | assumption | apply keep_ite | apply upLdg_oneHeld
      | apply keep_then
        first | apply upLdg_oneHeld
    | dsimp -zeta only
    | split

set_option smartUnfolding false in
theorem pcuDeposit_oneHeld (b : Beam) (k : Nat) (m : Nominal) (last : Option (Nat × Nat)) {s : State} : s.oneHeld → (State.pcuDeposit b k m last s).oneHeld := by
  delta pcuDeposit
  repeat' first
    | extract_lets
    | with_reducible first
      | exact fun h => h | assumption | apply keep_ite | apply deposit_oneHeld | apply noDeposit_oneHeld
      | apply keep_then
        first | apply deposit_oneHeld | apply noDeposit_oneHeld
    | refine keep_opt ?_ fun _ => ?_
    | refine keep_some (fun _ => ?_) fun _ => ?_
    | dsimp -zeta only
    | split

set_option smartUnfolding false in
theorem powerWord_oneHeld (b : Beam) (k w : Nat) (opn : Bool) {s : State} : s.oneHeld → (State.powerWord b k w opn s).oneHeld := by
  delta powerWord
  repeat' first
    | extract_lets
    | with_reducible first
      | exact fun h => h | assumption | apply keep_ite | apply upLd_oneHeld | apply digItem_oneHeld
      | apply cellAt_oneHeld
      | apply keep_then
        first | apply upLd_oneHeld | apply digItem_oneHeld | apply cellAt_oneHeld
    | refine keep_opt ?_ fun _ => ?_
    | refine keep_some (fun _ => ?_) fun _ => ?_
    | dsimp -zeta only
    | split

theorem sampleRec_oneHeld (b : Beam) (k : Nat) (ok : Bool) {s : State} : s.oneHeld → (State.sampleRec b k ok s).oneHeld := by
  delta sampleRec
  repeat' first
    | extract_lets
    | with_reducible first
      | exact fun h => h | assumption | apply keep_ite | apply telRec_oneHeld
      | apply keep_then
        first | apply telRec_oneHeld
    | dsimp -zeta only
    | split

theorem execPcuCntClr_oneHeld (b : Beam) (h : s.oneHeld) : (execPcuCntClr b s).OneHeld := by
  apply next_oneHeld
  repeat' first
    | with_reducible first
      | assumption | apply next_oneHeld | apply ite_oneHeld | apply resIte_oneHeld | apply wr_oneHeld
    | extract_lets
    | split

theorem imgBegin_oneHeld (b : Beam) (num : Nat) {s : State} : s.oneHeld → (State.imgBegin b num s).1.oneHeld := by
  delta imgBegin
  repeat' first
    | extract_lets
    | with_reducible first
      | exact fun h => h | assumption | apply keep_ite | apply keep_fstIte | apply dropFrame_oneHeld
      | apply upPcu_oneHeld
      | apply keep_then
        first | apply dropFrame_oneHeld | apply upPcu_oneHeld
    | dsimp -zeta only
    | split

theorem imgLine_oneHeld (b : Beam) (f : Bool) (mid num line w k depth : Nat) (pix : List Nat) {s : State} :
    s.oneHeld → (s.imgLine b f mid num line w k depth pix).oneHeld := by
  have hb (x : Nat) : s.oneHeld → (s.imgBegin b x).1.oneHeld := imgBegin_oneHeld b x
  delta imgLine
  extract_lets cfg good
  refine keep_ite (keep_ite (keep_then (upPcu_oneHeld _ _) (hb _)) (keep_then (dropFrame_oneHeld _) (hb _)))
    (keep_ite (keep_then (dropFrame_oneHeld _) (hb _)) ?_)
  cases (s.pcu[b]).frame with
  | none => exact fun h => h
  | some g => exact keep_ite (keep_ite (upPcu_oneHeld _ _) (upPcu_oneHeld _ _)) (dropFrame_oneHeld _)

theorem execImgLine_oneHeld (b : Beam) (f : Bool) (sidx frame : BitVec 16) (line : Fin 128) (w8 h8 : Fin 16) (depth12 : Bool) (pix : List (BitVec 16)) {s : State} : s.oneHeld → (execImgLine b f sidx frame line w8 h8 depth12 pix s).OneHeld := by
  delta execImgLine
  repeat' first
    | extract_lets
    | with_reducible first
      | exact fun h => h | assumption | apply keep_ite | apply keep_resIte | apply next_oneHeld
      | apply count_oneHeld | apply imgLine_oneHeld
      | apply keep_then
        first | apply next_oneHeld | apply count_oneHeld | apply imgLine_oneHeld
    | dsimp -zeta only
    | split

theorem featureRegs_oneHeld (b : Beam) (f : Frame) (x : Features) {s : State} : s.oneHeld → (State.featureRegs b f x s).oneHeld := by
  delta featureRegs
  repeat' first
    | extract_lets
    | with_reducible first
      | exact fun h => h | assumption | apply keep_ite | apply wr_oneHeld | apply setF_oneHeld
      | apply advance_oneHeld
      | apply keep_then
        first | apply wr_oneHeld | apply setF_oneHeld | apply advance_oneHeld
    | dsimp -zeta only
    | split

theorem featureRec_oneHeld (b : Beam) (f : Frame) (x : Features) (used late : Bool) (trim : Int) {s : State} : s.oneHeld → (State.featureRec b f x used late trim s).oneHeld := by
  delta featureRec
  repeat' first
    | extract_lets
    | with_reducible first
      | exact fun h => h | assumption | apply keep_ite | apply telRec_oneHeld
      | apply keep_then
        first | apply telRec_oneHeld
    | dsimp -zeta only
    | split

theorem capStop_oneHeld (b : Beam) {s : State} : s.oneHeld → (State.capStop b s).oneHeld := by
  delta capStop
  repeat' first
    | extract_lets
    | with_reducible first
      | exact fun h => h | assumption | apply keep_ite | apply keep_fstIte | apply msix_oneHeld | apply setB_oneHeld
      | apply upPcu_oneHeld | apply ifc_oneHeld
      | apply keep_then
        first | apply msix_oneHeld | apply setB_oneHeld | apply upPcu_oneHeld | apply ifc_oneHeld
    | refine fun (_ : State) => ?_
    | dsimp -zeta only
    | split

theorem capStore_oneHeld (b : Beam) (f : Frame) (valid : Bool) {s : State} : s.oneHeld → (State.capStore b f valid s).oneHeld := by
  delta capStore
  repeat' first
    | extract_lets
    | with_reducible first
      | exact fun h => h | assumption | apply keep_ite | apply capStop_oneHeld | apply wrBytes_oneHeld
      | apply count_oneHeld | apply upPcu_oneHeld
      | apply keep_then
        first | apply capStop_oneHeld | apply wrBytes_oneHeld | apply count_oneHeld | apply upPcu_oneHeld
    | dsimp -zeta only
    | split

set_option smartUnfolding false in
theorem capFrame_oneHeld (b : Beam) (f : Frame) (x : Features) {s : State} : s.oneHeld → (State.capFrame b f x s).oneHeld := by
  delta capFrame
  repeat' first
    | extract_lets
    | with_reducible first
      | exact fun h => h | assumption | apply keep_ite | apply capStore_oneHeld | apply upPcu_oneHeld
      | apply keep_then
        first | apply capStore_oneHeld | apply upPcu_oneHeld
    | refine keep_opt ?_ fun _ => ?_
    | refine keep_some (fun _ => ?_) fun _ => ?_
    | dsimp -zeta only
    | split

set_option smartUnfolding false in
theorem publishFrame_oneHeld (b : Beam) (f : Frame) {s : State} : s.oneHeld → (State.publishFrame b f s).oneHeld := by
  delta publishFrame
  repeat' first
    | extract_lets
    | with_reducible first
      | exact fun h => h | assumption | apply keep_ite | apply keep_fstIte | apply upPcu_oneHeld
      | apply capFrame_oneHeld | apply featureRec_oneHeld | apply count_oneHeld | apply featureRegs_oneHeld
      | apply ifc_oneHeld
      | apply keep_then
        first
        | apply upPcu_oneHeld | apply capFrame_oneHeld | apply featureRec_oneHeld | apply count_oneHeld
        | apply featureRegs_oneHeld | apply ifc_oneHeld
    | refine keep_opt ?_ fun _ => ?_
    | refine keep_some (fun _ => ?_) fun _ => ?_
    | refine fun (_ : State) => ?_
    | dsimp -zeta only
    | split

set_option smartUnfolding false in
theorem execFeaturePublish_oneHeld (b : Beam) {s : State} : s.oneHeld → (execFeaturePublish b s).OneHeld := by
  delta execFeaturePublish
  repeat' first
    | extract_lets
    | with_reducible first
      | exact fun h => h | assumption | apply keep_ite | apply keep_resIte | apply next_oneHeld
      | apply publishFrame_oneHeld
      | apply keep_then
        first | apply next_oneHeld | apply publishFrame_oneHeld
    | refine keep_opt ?_ fun _ => ?_
    | refine keep_some (fun _ => ?_) fun _ => ?_
    | dsimp -zeta only
    | split

theorem execTrimApply_oneHeld (b : Beam) {s : State} : s.oneHeld → (execTrimApply b s).OneHeld := by
  delta execTrimApply
  repeat' first
    | extract_lets
    | with_reducible first
      | exact fun h => h | assumption | apply keep_ite | apply keep_resIte | apply next_oneHeld
      | apply upPcu_oneHeld
      | apply keep_then
        first | apply next_oneHeld | apply upPcu_oneHeld
    | dsimp -zeta only
    | split

set_option smartUnfolding false in
theorem execEyeLoss_oneHeld (b : Beam) {s : State} : s.oneHeld → (execEyeLoss b s).OneHeld := by
  delta execEyeLoss
  repeat' first
    | extract_lets
    | with_reducible first
      | exact fun h => h | assumption | apply keep_ite | apply keep_resIte | apply next_oneHeld
      | apply report_oneHeld | apply setB_oneHeld | apply upPcu_oneHeld
      | apply keep_then
        first | apply next_oneHeld | apply report_oneHeld | apply setB_oneHeld | apply upPcu_oneHeld
    | refine keep_opt ?_ fun _ => ?_
    | refine keep_some (fun _ => ?_) fun _ => ?_
    | dsimp -zeta only
    | split

theorem execPcuCapArm_oneHeld (b : Beam) {s : State} : s.oneHeld → (execPcuCapArm b s).OneHeld := by
  delta execPcuCapArm
  repeat' first
    | extract_lets
    | with_reducible first
      | exact fun h => h | assumption | apply keep_ite | apply keep_resIte | apply next_oneHeld
      | apply upPcu_oneHeld | apply setF_oneHeld
      | apply keep_then
        first | apply next_oneHeld | apply upPcu_oneHeld | apply setF_oneHeld
    | dsimp -zeta only
    | split

set_option smartUnfolding false in
theorem execDatagramSend_oneHeld (eth : Fin 2) {s : State} : s.oneHeld → (execDatagramSend eth s).OneHeld := by
  delta execDatagramSend
  repeat' first
    | extract_lets
    | with_reducible first
      | exact fun h => h | assumption | apply keep_ite | apply keep_resIte | apply next_oneHeld
      | apply ethNext_oneHeld | apply upTel_oneHeld
      | apply keep_then
        first | apply next_oneHeld | apply ethNext_oneHeld | apply upTel_oneHeld
    | refine keep_list ?_ fun _ _ => ?_
    | dsimp -zeta only
    | split

theorem visitSample_oneHeld (b : Beam) (k : Nat) (f : VSample → VSample) {s : State} : s.oneHeld → (State.visitSample b k f s).oneHeld := by
  delta visitSample
  repeat' first
    | extract_lets
    | with_reducible first
      | exact fun h => h | assumption | apply keep_ite | apply upLdg_oneHeld
      | apply keep_then
        first | apply upLdg_oneHeld
    | dsimp -zeta only
    | split

theorem rptRun_oneHeld (b : Beam) : ∀ (n : Nat) {s : State}, s.oneHeld → (rptRun b n s).oneHeld
  | 0, _, h => h
  | n + 1, s, h => by
    have hu (f : Laser → Laser) := upLd_oneHeld b f h
    unfold rptRun
    dsimp only
    split
    · exact h
    · exact rptRun_oneHeld b n (hu _)
    · exact rptRun_oneHeld b n (ifc_oneHeld _ (fun _ g => report_oneHeld _ _ _ g) (hu _))

theorem rptSeen_oneHeld (b : Beam) (k : Nat) (lost : Bool) {s : State} : s.oneHeld → (State.rptSeen b k lost s).oneHeld := by
  delta rptSeen
  repeat' first
    | extract_lets
    | with_reducible first
      | exact fun h => h | assumption | apply keep_ite | apply rptRun_oneHeld | apply upLd_oneHeld
      | apply keep_then
        first | apply rptRun_oneHeld | apply upLd_oneHeld
    | dsimp -zeta only
    | split

theorem rptLost_oneHeld (b : Beam) (k : Nat) {s : State} : s.oneHeld → (State.rptLost b k s).oneHeld := by
  delta rptLost
  repeat' first
    | extract_lets
    | with_reducible first
      | exact fun h => h | assumption | apply keep_ite | apply visitSample_oneHeld | apply count_oneHeld
      | apply rptSeen_oneHeld
      | apply keep_then
        first | apply visitSample_oneHeld | apply count_oneHeld | apply rptSeen_oneHeld
    | dsimp -zeta only
    | split

theorem stuckCheck_oneHeld (b : Beam) (k : Nat) (emission : Bool) {s : State} : s.oneHeld → (State.stuckCheck b k emission s).oneHeld := by
  delta stuckCheck
  repeat' first
    | extract_lets
    | with_reducible first
      | exact fun h => h | assumption | apply keep_ite | apply kill_oneHeld | apply report_oneHeld
      | apply setB_oneHeld | apply upLd_oneHeld
      | apply keep_then
        first | apply kill_oneHeld | apply report_oneHeld | apply setB_oneHeld | apply upLd_oneHeld
    | dsimp -zeta only
    | split

theorem emitOpen_oneHeld (b : Beam) {s : State} : s.oneHeld → (State.emitOpen b s).oneHeld := by
  delta emitOpen
  repeat' first
    | extract_lets
    | with_reducible first
      | exact fun h => h | assumption | apply keep_ite | apply report_oneHeld | apply setB_oneHeld
      | apply keep_then
        first | apply report_oneHeld | apply setB_oneHeld
    | dsimp -zeta only
    | split

theorem ivEnd_oneHeld (b : Beam) {s : State} : s.oneHeld → (State.ivEnd b s).oneHeld := by
  delta ivEnd
  repeat' first
    | extract_lets
    | with_reducible first
      | exact fun h => h | assumption | apply keep_ite | apply upLd_oneHeld | apply emitOpen_oneHeld
      | apply keep_then
        first | apply upLd_oneHeld | apply emitOpen_oneHeld
    | dsimp -zeta only
    | split

set_option smartUnfolding false in
theorem openCheck_oneHeld (b : Beam) (k : Nat) (emission : Bool) {s : State} : s.oneHeld → (State.openCheck b k emission s).oneHeld := by
  delta openCheck
  repeat' first
    | with_reducible first
      | exact fun h => h | assumption | apply keep_ite | apply upLd_oneHeld | apply ivEnd_oneHeld
      | apply keep_then
        first | apply upLd_oneHeld | apply ivEnd_oneHeld
    | extract_lets
    | refine keep_opt ?_ fun _ => ?_
    | refine keep_some (fun _ => ?_) fun _ => ?_
    | dsimp -zeta only
    | split

theorem execPwrReport_oneHeld (b : Beam) (f : Bool) (sidx pwr : BitVec 16) (emit _ready _fault : Bool) {s : State} : s.oneHeld → (execPwrReport b f sidx pwr emit _ready _fault s).OneHeld := by
  delta execPwrReport
  repeat' first
    | extract_lets
    | with_reducible first
      | exact fun h => h | assumption | apply keep_ite | apply keep_resIte | apply next_oneHeld
      | apply rptLost_oneHeld | apply rptSeen_oneHeld | apply upLd_oneHeld | apply wr_oneHeld
      | apply visitSample_oneHeld | apply stuckCheck_oneHeld | apply openCheck_oneHeld
      | apply keep_then
        first
        | apply next_oneHeld | apply rptLost_oneHeld | apply rptSeen_oneHeld | apply upLd_oneHeld | apply wr_oneHeld
        | apply visitSample_oneHeld | apply stuckCheck_oneHeld | apply openCheck_oneHeld
    | dsimp -zeta only
    | split

theorem execReportLost_oneHeld (b : Beam) {s : State} : s.oneHeld → (execReportLost b s).OneHeld := by
  delta execReportLost
  repeat' first
    | extract_lets
    | with_reducible first
      | exact fun h => h | assumption | apply keep_ite | apply keep_resIte | apply next_oneHeld
      | apply rptLost_oneHeld
      | apply keep_then
        first | apply next_oneHeld | apply rptLost_oneHeld
    | dsimp -zeta only
    | split

theorem winResult_oneHeld (b : Beam) {s : State} : s.oneHeld → (State.winResult b s).oneHeld := by
  delta winResult
  repeat' first
    | extract_lets
    | with_reducible first
      | exact fun h => h | assumption | apply keep_ite | apply setF_oneHeld | apply emitOpen_oneHeld
      | apply report_oneHeld
      | apply keep_then
        first | apply setF_oneHeld | apply emitOpen_oneHeld | apply report_oneHeld
    | dsimp -zeta only
    | split

theorem execDiagWindowEnd_oneHeld (b : Beam) {s : State} : s.oneHeld → (execDiagWindowEnd b s).OneHeld := by
  delta execDiagWindowEnd
  repeat' first
    | extract_lets
    | with_reducible first
      | exact fun h => h | assumption | apply keep_ite | apply keep_resIte | apply next_oneHeld
      | apply winResult_oneHeld | apply upLd_oneHeld
      | apply keep_then
        first | apply next_oneHeld | apply winResult_oneHeld | apply upLd_oneHeld
    | dsimp -zeta only
    | split

set_option smartUnfolding false in
theorem execPwmPeriodStart_oneHeld (b : Beam) {s : State} : s.oneHeld → (execPwmPeriodStart b s).OneHeld := by
  delta execPwmPeriodStart
  repeat' first
    | extract_lets
    | with_reducible first
      | exact fun h => h | assumption | apply keep_ite | apply keep_resIte | apply keep_fstIte | apply next_oneHeld
      | apply count_oneHeld | apply gateEdges_oneHeld | apply upLd_oneHeld | apply ifc_oneHeld
      | apply keep_then
        first
        | apply next_oneHeld | apply count_oneHeld | apply gateEdges_oneHeld | apply upLd_oneHeld
        | apply ifc_oneHeld
    | refine keep_opt ?_ fun _ => ?_
    | refine keep_some (fun _ => ?_) fun _ => ?_
    | refine fun (_ : State) => ?_
    | dsimp -zeta only
    | split

theorem execMusterGrid_oneHeld (b : Beam) {s : State} : s.oneHeld → (execMusterGrid b s).OneHeld := by
  delta execMusterGrid
  repeat' first
    | extract_lets
    | with_reducible first
      | exact fun h => h | assumption | apply keep_ite | apply keep_resIte | apply next_oneHeld
      | apply muster_oneHeld
      | apply keep_then
        first | apply next_oneHeld | apply muster_oneHeld
    | dsimp -zeta only
    | split

theorem ilkLevels_oneHeld (a b : Bool) {s : State} : s.oneHeld → (State.ilkLevels a b s).oneHeld := by
  delta ilkLevels
  repeat' first
    | extract_lets
    | with_reducible first
      | exact fun h => h | assumption | apply keep_ite | apply keep_fstIte | apply upLdc_oneHeld
      | apply gateSync_oneHeld | apply each_oneHeld
      | apply keep_then
        first | apply upLdc_oneHeld | apply gateSync_oneHeld | apply each_oneHeld
    | refine fun _ (_ : State) => ?_
    | dsimp -zeta only
    | split

set_option smartUnfolding false in
theorem execIlkDiscrep_oneHeld {s : State} : s.oneHeld → (execIlkDiscrep s).OneHeld := by
  delta execIlkDiscrep
  repeat' first
    | extract_lets
    | with_reducible first
      | exact fun h => h | assumption | apply keep_ite | apply keep_resIte | apply next_oneHeld
      | apply report_oneHeld | apply upLdc_oneHeld
      | apply keep_then
        first | apply next_oneHeld | apply report_oneHeld | apply upLdc_oneHeld
    | refine keep_opt ?_ fun _ => ?_
    | refine keep_some (fun _ => ?_) fun _ => ?_
    | dsimp -zeta only
    | split

theorem execRearm_oneHeld {s : State} : s.oneHeld → (execRearm s).OneHeld := by
  delta execRearm
  repeat' first
    | extract_lets
    | with_reducible first
      | exact fun h => h | assumption | apply keep_ite | apply keep_resIte | apply keep_fstIte | apply next_oneHeld
      | apply upLdc_oneHeld | apply setB_oneHeld | apply withEmit_oneHeld
      | apply keep_then
        first | apply next_oneHeld | apply upLdc_oneHeld | apply setB_oneHeld | apply withEmit_oneHeld
    | refine fun (_ : State) => ?_
    | dsimp -zeta only
    | split

theorem execEmitOffRepeat_oneHeld (b : Beam) {s : State} : s.oneHeld → (execEmitOffRepeat b s).OneHeld := by
  delta execEmitOffRepeat
  repeat' first
    | extract_lets
    | with_reducible first
      | exact fun h => h | assumption | apply keep_ite | apply keep_resIte | apply next_oneHeld | apply upLd_oneHeld
      | apply sendEmitOff_oneHeld
      | apply keep_then
        first | apply next_oneHeld | apply upLd_oneHeld | apply sendEmitOff_oneHeld
    | dsimp -zeta only
    | split

theorem execEmitOffWrite_oneHeld (b : Beam) (v : Bool) {s : State} : s.oneHeld → (execEmitOffWrite b v s).OneHeld := by
  delta execEmitOffWrite
  repeat' first
    | extract_lets
    | with_reducible first
      | exact fun h => h | assumption | apply keep_ite | apply keep_resIte | apply next_oneHeld | apply setB_oneHeld
      | apply emitChange_oneHeld | apply setF_oneHeld
      | apply keep_then
        first | apply next_oneHeld | apply setB_oneHeld | apply emitChange_oneHeld | apply setF_oneHeld
    | dsimp -zeta only
    | split

theorem execLdEnable_oneHeld (b : Beam) (v : Bool) (h : s.oneHeld) : (execLdEnable b v s).OneHeld := by
  dsimp only [execLdEnable]
  repeat' first
    | with_reducible first
      | assumption | apply next_oneHeld | apply ite_oneHeld | apply resIte_oneHeld | apply upLd_oneHeld
      | apply setB_oneHeld | apply portTrain_oneHeld | apply clrB_oneHeld | apply portOff_oneHeld
    | split

theorem execKillForce_oneHeld {s : State} : s.oneHeld → (execKillForce s).OneHeld := by
  delta execKillForce
  repeat' first
    | extract_lets
    | with_reducible first
      | exact fun h => h | assumption | apply keep_ite | apply keep_resIte | apply next_oneHeld | apply kill_oneHeld
      | apply keep_then
        first | apply next_oneHeld | apply kill_oneHeld
    | dsimp -zeta only
    | split

theorem execLdCntClr_oneHeld (b : Beam) {s : State} : s.oneHeld → (execLdCntClr b s).OneHeld := by
  delta execLdCntClr
  repeat' first
    | extract_lets
    | with_reducible first
      | exact fun h => h | assumption | apply keep_ite | apply keep_resIte | apply next_oneHeld | apply wr_oneHeld
      | apply keep_then
        first | apply next_oneHeld | apply wr_oneHeld
    | dsimp -zeta only
    | split

theorem cachePut_oneHeld (ix : Nat) (w : DWord) (b : Nat) {s : State} : s.oneHeld → (State.cachePut ix w b s).oneHeld := by
  delta cachePut
  repeat' first
    | extract_lets
    | with_reducible first
      | exact fun h => h | assumption | apply keep_ite | apply upLdg_oneHeld | apply cacheFetch_oneHeld
      | apply keep_then
        first | apply upLdg_oneHeld | apply cacheFetch_oneHeld
    | dsimp -zeta only
    | split

theorem depositOne_oneHeld (b : Beam) (k ix d : Nat) (lit suspect forced : Bool) {s : State} : s.oneHeld → (State.depositOne b k ix d lit suspect forced s).1.oneHeld := by
  delta depositOne
  repeat' first
    | extract_lets
    | with_reducible first
      | exact fun h => h | assumption | apply keep_ite | apply keep_fstIte | apply cachePut_oneHeld
      | apply keep_then
        first | apply cachePut_oneHeld
    | dsimp -zeta only
    | split

set_option smartUnfolding false in
theorem keepChange_oneHeld (c : Change) {s : State} : s.oneHeld → (State.keepChange c s).oneHeld := by
  delta keepChange
  repeat' first
    | extract_lets
    | with_reducible first
      | exact fun h => h | assumption | apply keep_ite | apply upLdg_oneHeld
      | apply keep_then
        first | apply upLdg_oneHeld
    | refine keep_opt ?_ fun _ => ?_
    | refine keep_some (fun _ => ?_) fun _ => ?_
    | dsimp -zeta only
    | split

theorem cellWrite_oneHeld (ix : Nat) (w : DWord) {s : State} : s.oneHeld → (State.cellWrite ix w s).oneHeld := by
  delta cellWrite
  repeat' first
    | extract_lets
    | with_reducible first
      | exact fun h => h | assumption | apply keep_ite | apply upLdg_oneHeld | apply wrN_oneHeld
      | apply keep_then
        first | apply upLdg_oneHeld | apply wrN_oneHeld
    | dsimp -zeta only
    | split

theorem sweepWrite_oneHeld (ix : Nat) (w : DWord) {s : State} : s.oneHeld → (State.sweepWrite ix w s).oneHeld := by
  delta sweepWrite
  repeat' first
    | extract_lets
    | with_reducible first
      | exact fun h => h | assumption | apply keep_ite | apply keepChange_oneHeld | apply cellWrite_oneHeld
      | apply keep_then
        first | apply keepChange_oneHeld | apply cellWrite_oneHeld
    | dsimp -zeta only
    | split

theorem execSweepStep_oneHeld (h : s.oneHeld) : (execSweepStep s).OneHeld := by
  dsimp only [execSweepStep]
  repeat' first
    | with_reducible first
      | assumption | apply next_oneHeld | apply ite_oneHeld | apply resIte_oneHeld | apply upLdg_oneHeld
      | apply advance_oneHeld | apply sweepWrite_oneHeld
    | split

theorem execSweepLate_oneHeld {s : State} : s.oneHeld → (execSweepLate s).OneHeld := by
  delta execSweepLate
  repeat' first
    | extract_lets
    | with_reducible first
      | exact fun h => h | assumption | apply keep_ite | apply keep_resIte | apply next_oneHeld
      | apply upLdg_oneHeld | apply report_oneHeld | apply setB_oneHeld
      | apply keep_then
        first | apply next_oneHeld | apply upLdg_oneHeld | apply report_oneHeld | apply setB_oneHeld
    | dsimp -zeta only
    | split

theorem cellFull_oneHeld (u ix : Nat) {s : State} : s.oneHeld → (State.cellFull u ix s).oneHeld := by
  delta cellFull
  repeat' first
    | extract_lets
    | with_reducible first
      | exact fun h => h | assumption | apply keep_ite | apply report_oneHeld | apply count_oneHeld
      | apply upLdg_oneHeld | apply cellWrite_oneHeld
      | apply keep_then
        first | apply report_oneHeld | apply count_oneHeld | apply upLdg_oneHeld | apply cellWrite_oneHeld
    | dsimp -zeta only
    | split

theorem execLdgEcc_oneHeld (b : Beam) (cell : BitVec 26) {s : State} : s.oneHeld → (execLdgEcc b cell s).OneHeld := by
  delta execLdgEcc
  repeat' first
    | extract_lets
    | with_reducible first
      | exact fun h => h | assumption | apply keep_ite | apply keep_resIte | apply next_oneHeld
      | apply cellFull_oneHeld
      | apply keep_then
        first | apply next_oneHeld | apply cellFull_oneHeld
    | dsimp -zeta only
    | split

theorem ldgStart_oneHeld (op : Nat) (quiet : Bool) {f : State → State} (hf : ∀ t, t.oneHeld → (f t).oneHeld)
    (h : s.oneHeld) : (s.ldgStart op quiet f).oneHeld :=
  ite_oneHeld (setB_oneHeld _ _ h) (hf _ (upLdg_oneHeld _ h))

theorem execLdgFlush_oneHeld {s : State} : s.oneHeld → (execLdgFlush s).OneHeld := by
  delta execLdgFlush
  repeat' first
    | extract_lets
    | with_reducible first
      | exact fun h => h | assumption | apply keep_ite | apply keep_resIte | apply keep_fstIte | apply next_oneHeld
      | apply flushCache_oneHeld | apply ldgStart_oneHeld
      | apply keep_then
        first | apply next_oneHeld | apply flushCache_oneHeld | apply ldgStart_oneHeld
    | refine fun (_ : State) => ?_
    | dsimp -zeta only
    | split

theorem clearGrid_oneHeld {s : State} : s.oneHeld → (State.clearGrid s).oneHeld := by
  delta clearGrid
  repeat' first
    | extract_lets
    | with_reducible first
      | exact fun h => h | assumption | apply keep_ite | apply upLdg_oneHeld | apply mem_oneHeld
      | apply keep_then
        first | apply upLdg_oneHeld | apply mem_oneHeld
    | dsimp -zeta only
    | split

theorem execLdgClear_oneHeld {s : State} : s.oneHeld → (execLdgClear s).OneHeld := by
  delta execLdgClear
  repeat' first
    | extract_lets
    | with_reducible first
      | exact fun h => h | assumption | apply keep_ite | apply keep_resIte | apply keep_fstIte | apply next_oneHeld
      | apply clearGrid_oneHeld | apply ldgStart_oneHeld
      | apply keep_then
        first | apply next_oneHeld | apply clearGrid_oneHeld | apply ldgStart_oneHeld
    | refine fun (_ : State) => ?_
    | dsimp -zeta only
    | split

theorem applyGeo_oneHeld {s : State} : s.oneHeld → (State.applyGeo s).oneHeld := by
  delta applyGeo
  repeat' first
    | extract_lets
    | with_reducible first
      | exact fun h => h | assumption | apply keep_ite | apply clearGrid_oneHeld | apply upLdg_oneHeld
      | apply setB_oneHeld
      | apply keep_then
        first | apply clearGrid_oneHeld | apply upLdg_oneHeld | apply setB_oneHeld
    | dsimp -zeta only
    | split

theorem execLdgApply_oneHeld {s : State} : s.oneHeld → (execLdgApply s).OneHeld := by
  delta execLdgApply
  repeat' first
    | extract_lets
    | with_reducible first
      | exact fun h => h | assumption | apply keep_ite | apply keep_resIte | apply keep_fstIte | apply next_oneHeld
      | apply applyGeo_oneHeld | apply ldgStart_oneHeld
      | apply keep_then
        first | apply next_oneHeld | apply applyGeo_oneHeld | apply ldgStart_oneHeld
    | refine fun (_ : State) => ?_
    | dsimp -zeta only
    | split

theorem importCells_oneHeld (h : s.oneHeld) : (State.importCells s).oneHeld := by
  apply foldl_oneHeld
  repeat' first
    | with_reducible first
      | assumption | intro _ | apply ite_oneHeld | apply fstIte_oneHeld | apply foldl_oneHeld | apply wrByte_oneHeld
      | apply clearGrid_oneHeld
    | extract_lets
    | split

theorem execLdgImport_oneHeld {s : State} : s.oneHeld → (execLdgImport s).OneHeld := by
  delta execLdgImport
  repeat' first
    | extract_lets
    | with_reducible first
      | exact fun h => h | assumption | apply keep_ite | apply keep_resIte | apply keep_fstIte | apply next_oneHeld
      | apply importCells_oneHeld | apply ldgStart_oneHeld
      | apply keep_then
        first | apply next_oneHeld | apply importCells_oneHeld | apply ldgStart_oneHeld
    | refine fun (_ : State) => ?_
    | dsimp -zeta only
    | split

theorem execLdgOpDone_oneHeld {s : State} : s.oneHeld → (execLdgOpDone s).OneHeld := by
  delta execLdgOpDone
  repeat' first
    | extract_lets
    | with_reducible first
      | exact fun h => h | assumption | apply keep_ite | apply keep_resIte | apply next_oneHeld
      | apply assigned_oneHeld | apply upLdg_oneHeld
      | apply keep_then
        first | apply next_oneHeld | apply assigned_oneHeld | apply upLdg_oneHeld
    | dsimp -zeta only
    | split

theorem execLdgQryGo_oneHeld {s : State} : s.oneHeld → (execLdgQryGo s).OneHeld := by
  delta execLdgQryGo
  repeat' first
    | extract_lets
    | with_reducible first
      | exact fun h => h | assumption | apply keep_ite | apply keep_resIte | apply next_oneHeld
      | apply upLdg_oneHeld | apply clrB_oneHeld
      | apply keep_then
        first | apply next_oneHeld | apply upLdg_oneHeld | apply clrB_oneHeld
    | dsimp -zeta only
    | split

set_option smartUnfolding false in
theorem execLdgQryDone_oneHeld {s : State} : s.oneHeld → (execLdgQryDone s).OneHeld := by
  delta execLdgQryDone
  repeat' first
    | extract_lets
    | with_reducible first
      | exact fun h => h | assumption | apply keep_ite | apply keep_resIte | apply next_oneHeld | apply wr_oneHeld
      | apply upLdg_oneHeld | apply setB_oneHeld
      | apply keep_then
        first | apply next_oneHeld | apply wr_oneHeld | apply upLdg_oneHeld | apply setB_oneHeld
    | refine keep_opt ?_ fun _ => ?_
    | refine keep_some (fun _ => ?_) fun _ => ?_
    | dsimp -zeta only
    | split

theorem execLdgCntClr_oneHeld {s : State} : s.oneHeld → (execLdgCntClr s).OneHeld := by
  delta execLdgCntClr
  repeat' first
    | extract_lets
    | with_reducible first
      | exact fun h => h | assumption | apply keep_ite | apply keep_resIte | apply next_oneHeld | apply setB_oneHeld
      | apply wr_oneHeld
      | apply keep_then
        first | apply next_oneHeld | apply setB_oneHeld | apply wr_oneHeld
    | dsimp -zeta only
    | split

set_option smartUnfolding false in
theorem execZoneRound_oneHeld {s : State} : s.oneHeld → (execZoneRound s).OneHeld := by
  delta execZoneRound
  repeat' first
    | extract_lets
    | with_reducible first
      | exact fun h => h | assumption | apply keep_ite | apply keep_resIte | apply keep_fstIte | apply next_oneHeld
      | apply upZone_oneHeld | apply count_oneHeld | apply wmod_oneHeld | apply digItem_oneHeld | apply each_oneHeld
      | apply keep_then
        first
        | apply next_oneHeld | apply upZone_oneHeld | apply count_oneHeld | apply wmod_oneHeld
        | apply digItem_oneHeld | apply each_oneHeld
    | refine keep_opt ?_ fun _ => ?_
    | refine keep_list ?_ fun _ _ => ?_
    | refine keep_some (fun _ => ?_) fun _ => ?_
    | refine fun _ (_ : State) => ?_
    | dsimp -zeta only
    | split

set_option smartUnfolding false in
theorem execQuotaWindowEnd_oneHeld {s : State} : s.oneHeld → (execQuotaWindowEnd s).OneHeld := by
  delta execQuotaWindowEnd
  repeat' first
    | extract_lets
    | with_reducible first
      | exact fun h => h | assumption | apply keep_ite | apply keep_resIte | apply next_oneHeld
      | apply upZone_oneHeld
      | apply keep_then
        first | apply next_oneHeld | apply upZone_oneHeld
    | refine keep_opt ?_ fun _ => ?_
    | refine keep_some (fun _ => ?_) fun _ => ?_
    | dsimp -zeta only
    | split

theorem execZoneCntClr_oneHeld {s : State} : s.oneHeld → (execZoneCntClr s).OneHeld := by
  delta execZoneCntClr
  repeat' first
    | extract_lets
    | with_reducible first
      | exact fun h => h | assumption | apply keep_ite | apply keep_resIte | apply keep_fstIte | apply next_oneHeld
      | apply wr_oneHeld | apply each_oneHeld
      | apply keep_then
        first | apply next_oneHeld | apply wr_oneHeld | apply each_oneHeld
    | refine fun _ (_ : State) => ?_
    | dsimp -zeta only
    | split

theorem fabWindows_oneHeld {s : State} : s.oneHeld → (State.fabWindows s).oneHeld := by
  delta fabWindows
  repeat' first
    | extract_lets
    | with_reducible first
      | exact fun h => h | assumption | apply keep_ite | apply upFab_oneHeld
      | apply keep_then
        first | apply upFab_oneHeld
    | dsimp -zeta only
    | split

set_option smartUnfolding false in
theorem swapDo_oneHeld {s : State} : s.oneHeld → (State.swapDo s).oneHeld := by
  delta swapDo
  repeat' first
    | extract_lets
    | with_reducible first
      | exact fun h => h | assumption | apply keep_ite | apply upFab_oneHeld | apply setB_oneHeld
      | apply keep_then
        first | apply upFab_oneHeld | apply setB_oneHeld
    | refine keep_opt ?_ fun _ => ?_
    | refine keep_some (fun _ => ?_) fun _ => ?_
    | dsimp -zeta only
    | split

theorem freeBit_oneHeld (c : Bool) (h : s.oneHeld) : (State.freeBit c s).2.oneHeld := by
  delta freeBit
  repeat' first
    | with_reducible first
      | assumption | apply ite_oneHeld | apply fresh_oneHeld
    | split

set_option smartUnfolding false in
theorem bestAsk_oneHeld (r : Fin 16) {s : State} : s.oneHeld → (State.bestAsk r s).oneHeld := by
  delta bestAsk
  repeat' first
    | extract_lets
    | with_reducible first
      | exact fun h => h | assumption | apply keep_ite | apply freeBit_oneHeld | apply upFab_oneHeld
      | apply keep_then
        first | apply freeBit_oneHeld | apply upFab_oneHeld
    | refine keep_sndProd (fun _ _ => ?_) ?_
    | dsimp -zeta only
    | split

set_option smartUnfolding false in
theorem issue_oneHeld (k : XferKind) {s : State} : s.oneHeld → (State.issue k s).oneHeld := by
  delta issue
  repeat' first
    | extract_lets
    | with_reducible first
      | exact fun h => h | assumption | apply keep_ite | apply upFab_oneHeld | apply upLdg_oneHeld
      | apply keep_then
        first | apply upFab_oneHeld | apply upLdg_oneHeld
    | dsimp -zeta only
    | split

theorem arbitrate_oneHeld (h : s.oneHeld) : (State.arbitrate s).oneHeld := by
  dsimp only [arbitrate]
  repeat' first
    | with_reducible first
      | assumption | intro _ | apply ite_oneHeld | apply fstIte_oneHeld | apply each_oneHeld | apply bestAsk_oneHeld
      | apply issue_oneHeld | apply ifc_oneHeld | apply count_oneHeld | apply upFab_oneHeld
    | split

theorem streamAsks_oneHeld (k : XferKind) (h : s.oneHeld) : (State.streamAsks k s).2.oneHeld := by
  delta streamAsks
  repeat' first
    | with_reducible first
      | assumption | apply ite_oneHeld | apply freeBit_oneHeld
    | split

set_option smartUnfolding false in
theorem cancelBest_oneHeld {s : State} : s.oneHeld → (State.cancelBest s).oneHeld := by
  delta cancelBest
  repeat' first
    | extract_lets
    | with_reducible first
      | exact fun h => h | assumption | apply keep_ite | apply upFab_oneHeld
      | apply keep_then
        first | apply upFab_oneHeld
    | dsimp -zeta only
    | split

theorem execFabSlot_oneHeld (h : s.oneHeld) : (execFabSlot s).OneHeld := by
  apply resIte_oneHeld
  repeat' first
    | with_reducible first
      | assumption | intro _ | apply next_oneHeld | apply ite_oneHeld | apply resIte_oneHeld | apply fstIte_oneHeld
      | apply fabWindows_oneHeld | apply upFab_oneHeld | apply ifc_oneHeld | apply swapDo_oneHeld
      | apply arbitrate_oneHeld | apply streamAsks_oneHeld | apply issue_oneHeld | apply cancelBest_oneHeld
      | apply count_oneHeld
    | extract_lets
    | split

theorem execFabQuotaWindowEnd_oneHeld {s : State} : s.oneHeld → (execFabQuotaWindowEnd s).OneHeld := by
  delta execFabQuotaWindowEnd
  repeat' first
    | extract_lets
    | with_reducible first
      | exact fun h => h | assumption | apply keep_ite | apply keep_resIte | apply next_oneHeld
      | apply fabWindows_oneHeld
      | apply keep_then
        first | apply next_oneHeld | apply fabWindows_oneHeld
    | dsimp -zeta only
    | split

set_option smartUnfolding false in
theorem execCrookPreempt_oneHeld (chan : Fin 2) (debug : Bool) {s : State} : s.oneHeld → (execCrookPreempt chan debug s).OneHeld := by
  delta execCrookPreempt
  repeat' first
    | extract_lets
    | with_reducible first
      | exact fun h => h | assumption | apply keep_ite | apply keep_resIte | apply keep_fstIte | apply next_oneHeld
      | apply upFab_oneHeld | apply count_oneHeld | apply ifc_oneHeld
      | apply keep_then
        first | apply next_oneHeld | apply upFab_oneHeld | apply count_oneHeld | apply ifc_oneHeld
    | refine keep_opt ?_ fun _ => ?_
    | refine keep_some (fun _ => ?_) fun _ => ?_
    | refine fun (_ : State) => ?_
    | dsimp -zeta only
    | split

set_option smartUnfolding false in
theorem execTransferComplete_oneHeld (e : XferEnd) {s : State} : s.oneHeld → (execTransferComplete e s).OneHeld := by
  delta execTransferComplete
  refine keep_list (fun h => h) fun x rest => ?_
  dsimp -zeta only
  extract_lets s₁ s₂ s₃
  have h₂ : s.oneHeld → s₂.oneHeld := by
    unfold s₂
    clear s₃ s₂
    cases x.kind with
    | bestEffort => exact keep_then (upFab_oneHeld _) (upFab_oneHeld _)
    | _ => exact keep_then (wmod_oneHeld _ _) (upFab_oneHeld _)
  clear_value s₂
  cases e with
  | corrected => exact keep_then (count_oneHeld _ _ _ _) h₂
  | uncorrectable =>
    cases x.kind with
    | fetch n =>
      intro h
      dsimp only
      split
      · exact upBe_oneHeld _ _ (report_oneHeld _ _ _ (count_oneHeld _ _ _ _ (h₂ h)))
      · exact count_oneHeld _ _ _ _ (h₂ h)
    | _ => exact keep_then (count_oneHeld _ _ _ _) h₂
  | _ => exact h₂

theorem execSwap_oneHeld {s : State} : s.oneHeld → (execSwap s).OneHeld := by
  delta execSwap
  repeat' first
    | extract_lets
    | with_reducible first
      | exact fun h => h | assumption | apply keep_ite | apply keep_resIte | apply next_oneHeld
      | apply upFab_oneHeld
      | apply keep_then
        first | apply next_oneHeld | apply upFab_oneHeld
    | dsimp -zeta only
    | split

theorem execSwapApply_oneHeld {s : State} : s.oneHeld → (execSwapApply s).OneHeld := by
  delta execSwapApply
  repeat' first
    | extract_lets
    | with_reducible first
      | exact fun h => h | assumption | apply keep_ite | apply keep_resIte | apply next_oneHeld
      | apply swapDo_oneHeld
      | apply keep_then
        first | apply next_oneHeld | apply swapDo_oneHeld
    | dsimp -zeta only
    | split

theorem execFabCntClr_oneHeld (h : s.oneHeld) : (execFabCntClr s).OneHeld := by
  apply next_oneHeld
  repeat' first
    | with_reducible first
      | assumption | apply next_oneHeld | apply ite_oneHeld | apply resIte_oneHeld | apply wr_oneHeld
    | extract_lets
    | split

set_option smartUnfolding false in
theorem leFeedback_oneHeld (k : Engine) (l : LSlot) (j : Nat) {s : State} : s.oneHeld → (State.leFeedback k l j s).oneHeld := by
  delta leFeedback
  repeat' first
    | extract_lets
    | with_reducible first
      | exact fun h => h | assumption | apply keep_ite | apply upLs_oneHeld | apply count_oneHeld
      | apply keep_then
        first | apply upLs_oneHeld | apply count_oneHeld
    | refine keep_opt ?_ fun _ => ?_
    | refine keep_some (fun _ => ?_) fun _ => ?_
    | dsimp -zeta only
    | split

theorem leSource_oneHeld (k : Engine) (l : LSlot) (t : Nat) (h : s.oneHeld) : (State.leSource s k l t).2.oneHeld := by
  dsimp only [leSource]
  repeat' first
    | with_reducible first
      | assumption | apply ite_oneHeld | apply fresh_oneHeld
    | split

theorem axSafe_oneHeld (n : Axis) (fp : Int) {s : State} : s.oneHeld → (State.axSafe n fp s).oneHeld := by
  delta axSafe
  repeat' first
    | extract_lets
    | with_reducible first
      | exact fun h => h | assumption | apply keep_ite | apply axPlan_oneHeld | apply axRem_oneHeld
      | apply keep_then
        first | apply axPlan_oneHeld | apply axRem_oneHeld
    | dsimp -zeta only
    | split

theorem leMarks_oneHeld (k : Engine) (l : LSlot) (loss frz foll : Bool) {s : State} : s.oneHeld → (State.leMarks k l loss frz foll s).oneHeld := by
  delta leMarks
  repeat' first
    | extract_lets
    | with_reducible first
      | exact fun h => h | assumption | apply keep_ite | apply keep_fstIte | apply setB_oneHeld | apply ifc_oneHeld
      | apply keep_then
        first | apply setB_oneHeld | apply ifc_oneHeld
    | refine fun (_ : State) => ?_
    | dsimp -zeta only
    | split

theorem leOverrun_oneHeld (k : Engine) (l : LSlot) (reported forced : Bool) {s : State} : s.oneHeld → (State.leOverrun k l reported forced s).oneHeld := by
  delta leOverrun
  repeat' first
    | extract_lets
    | with_reducible first
      | exact fun h => h | assumption | apply keep_ite | apply keep_fstIte | apply setB_oneHeld
      | apply count_oneHeld | apply record_oneHeld | apply report_oneHeld | apply upLs_oneHeld
      | apply traceTrigger_oneHeld | apply ifc_oneHeld
      | apply keep_then
        first
        | apply setB_oneHeld | apply count_oneHeld | apply record_oneHeld | apply report_oneHeld
        | apply upLs_oneHeld | apply traceTrigger_oneHeld | apply ifc_oneHeld
    | refine fun (_ : State) => ?_
    | dsimp -zeta only
    | split

set_option smartUnfolding false in
theorem leHistory_oneHeld (k : Engine) (l : LSlot) (t done : Nat) (est : Int) (ok : Bool) {s : State} : s.oneHeld → (State.leHistory k l t done est ok s).oneHeld := by
  delta leHistory
  repeat' first
    | with_reducible first
      | exact fun h => h | assumption | apply keep_ite | apply upBe_oneHeld
      | apply keep_then
        first | apply upBe_oneHeld
    | extract_lets
    | dsimp -zeta only
    | split

theorem leSend_oneHeld (k : Engine) (l : LSlot) (f : Nat) (v : Int) {s : State} : s.oneHeld → (State.leSend k l f v s).oneHeld := by
  delta leSend
  repeat' first
    | extract_lets
    | with_reducible first
      | exact fun h => h | assumption | apply keep_ite | apply upLs_oneHeld | apply wr_oneHeld | apply cell_oneHeld
      | apply keep_then
        first | apply upLs_oneHeld | apply wr_oneHeld | apply cell_oneHeld
    | dsimp -zeta only
    | split

theorem traceWrite_oneHeld (k : Engine) (c : Fin 4) (f : Nat) (v : Int) {s : State} : s.oneHeld → (State.traceWrite k c f v s).oneHeld := by
  delta traceWrite
  repeat' first
    | extract_lets
    | with_reducible first
      | exact fun h => h | assumption | apply keep_ite | apply wrN_oneHeld | apply wr_oneHeld | apply setF_oneHeld
      | apply upLe_oneHeld | apply traceDone_oneHeld
      | apply keep_then
        first
        | apply wrN_oneHeld | apply wr_oneHeld | apply setF_oneHeld | apply upLe_oneHeld | apply traceDone_oneHeld
    | dsimp -zeta only
    | split

set_option smartUnfolding false in
theorem traceLevel_oneHeld (k : Engine) (v : Int) {s : State} : s.oneHeld → (State.traceLevel k v s).oneHeld := by
  delta traceLevel
  repeat' first
    | extract_lets
    | with_reducible first
      | exact fun h => h | assumption | apply keep_ite | apply keep_fstIte | apply traceTrigger_oneHeld
      | apply ifc_oneHeld
      | apply keep_then
        first | apply traceTrigger_oneHeld | apply ifc_oneHeld
    | refine keep_opt ?_ fun _ => ?_
    | refine keep_some (fun _ => ?_) fun _ => ?_
    | refine fun (_ : State) => ?_
    | dsimp -zeta only
    | split

theorem traceUpdate_oneHeld (k : Engine) (l : LSlot) (f : Nat) (value : Byte → State → Int) {s : State} : s.oneHeld → (State.traceUpdate k l f value s).oneHeld := by
  delta traceUpdate
  repeat' first
    | extract_lets
    | with_reducible first
      | exact fun h => h | assumption | apply keep_ite | apply keep_fstIte | apply upLe_oneHeld
      | apply traceWrite_oneHeld | apply traceLevel_oneHeld | apply each_oneHeld | apply ifc_oneHeld
      | apply keep_then
        first
        | apply upLe_oneHeld | apply traceWrite_oneHeld | apply traceLevel_oneHeld | apply each_oneHeld
        | apply ifc_oneHeld
    | refine fun _ (_ : State) => ?_
    | refine fun (_ : State) => ?_
    | dsimp -zeta only
    | split

set_option smartUnfolding false in
theorem execAxisFb_oneHeld (p : Port) (axis : Fin 16) (f : Bool) (sidx : BitVec 16) (pos : Word) (cur : BitVec 16) (aux : Word) {s : State} : s.oneHeld → (execAxisFb p axis f sidx pos cur aux s).OneHeld := by
  delta execAxisFb
  repeat' first
    | extract_lets
    | with_reducible first
      | exact fun h => h | assumption | apply keep_ite | apply keep_resIte | apply keep_fstIte | apply next_oneHeld
      | apply upLs_oneHeld | apply count_oneHeld | apply setF_oneHeld | apply each_oneHeld
      | apply keep_then
        first
        | apply next_oneHeld | apply upLs_oneHeld | apply count_oneHeld | apply setF_oneHeld | apply each_oneHeld
    | refine keep_opt ?_ fun _ => ?_
    | refine keep_some (fun _ => ?_) fun _ => ?_
    | refine fun _ (_ : State) => ?_
    | dsimp -zeta only
    | split

theorem leResult_oneHeld (k : Engine) (l : LSlot) (code load : Nat) {s : State} : s.oneHeld → (State.leResult k l code load s).oneHeld := by
  delta leResult
  repeat' first
    | extract_lets
    | with_reducible first
      | exact fun h => h | assumption | apply keep_ite | apply wr_oneHeld | apply irq_oneHeld
      | apply keep_then
        first | apply wr_oneHeld | apply irq_oneHeld
    | dsimp -zeta only
    | split

theorem leCommand_oneHeld (k : Engine) (l : LSlot) {f : State → State × Nat × Nat}
    (hf : ∀ t, t.oneHeld → (f t).1.oneHeld) (h : s.oneHeld) : (s.leCommand k l f).oneHeld :=
  ite_oneHeld (leResult_oneHeld _ _ _ _ (hf s h)) h

theorem lawLoad_oneHeld (k : Engine) (l : LSlot) (a : Nat) {s : State} : s.oneHeld → (State.lawLoad k l a s).oneHeld := by
  delta lawLoad
  repeat' first
    | extract_lets
    | with_reducible first
      | exact fun h => h | assumption | apply keep_ite | apply wrBytes_oneHeld | apply upLs_oneHeld
      | apply wr_oneHeld
      | apply keep_then
        first | apply wrBytes_oneHeld | apply upLs_oneHeld | apply wr_oneHeld
    | dsimp -zeta only
    | split

set_option smartUnfolding false in
theorem execLoad_oneHeld (k : Engine) (l : LSlot) {s : State} : s.oneHeld → (execLoad k l s).OneHeld := by
  delta execLoad
  repeat' first
    | extract_lets
    | with_reducible first
      | exact fun h => h | assumption | apply keep_ite | apply keep_resIte | apply keep_fstIte | apply next_oneHeld
      | apply lawLoad_oneHeld | apply leCommand_oneHeld
      | apply keep_then
        first | apply next_oneHeld | apply lawLoad_oneHeld | apply leCommand_oneHeld
    | refine keep_lit (P := fun x => State.oneHeld x.1) ?_ fun _ => ?_
    | refine fun (_ : State) => ?_
    | dsimp -zeta only
    | split

theorem execEnable_oneHeld (k : Engine) (l : LSlot) {s : State} : s.oneHeld → (execEnable k l s).OneHeld := by
  delta execEnable
  repeat' first
    | extract_lets
    | with_reducible first
      | exact fun h => h | assumption | apply keep_ite | apply keep_resIte | apply keep_fstIte | apply next_oneHeld
      | apply leStart_oneHeld | apply leCommand_oneHeld
      | apply keep_then
        first | apply next_oneHeld | apply leStart_oneHeld | apply leCommand_oneHeld
    | refine fun (_ : State) => ?_
    | dsimp -zeta only
    | split

theorem execDisable_oneHeld (k : Engine) (l : LSlot) {s : State} : s.oneHeld → (execDisable k l s).OneHeld := by
  delta execDisable
  repeat' first
    | extract_lets
    | with_reducible first
      | exact fun h => h | assumption | apply keep_ite | apply keep_resIte | apply keep_fstIte | apply next_oneHeld
      | apply leOff_oneHeld | apply leCommand_oneHeld
      | apply keep_then
        first | apply next_oneHeld | apply leOff_oneHeld | apply leCommand_oneHeld
    | refine fun (_ : State) => ?_
    | dsimp -zeta only
    | split

theorem execCoefSwap_oneHeld (k : Engine) (l : LSlot) (h : s.oneHeld) : (execCoefSwap k l s).OneHeld := by
  apply next_oneHeld
  repeat' first
    | with_reducible first
      | assumption | intro _ | apply next_oneHeld | apply ite_oneHeld | apply resIte_oneHeld | apply fstIte_oneHeld
      | apply leCommand_oneHeld | apply wrBytes_oneHeld
    | extract_lets
    | split

theorem lawStep_oneHeld (k : Engine) (l : LSlot) (i : LInstr) {s : State} : s.oneHeld → (State.lawStep k l i s).oneHeld := by
  delta lawStep
  repeat' first
    | extract_lets
    | with_reducible first
      | exact fun h => h | assumption | apply keep_ite | apply upLs_oneHeld
      | apply keep_then
        first | apply upLs_oneHeld
    | dsimp -zeta only
    | split

theorem execClr_oneHeld (k : Engine) (l : LSlot) (acc : Fin 4) {s : State} : s.oneHeld → (execClr k l acc s).OneHeld := by
  delta execClr
  repeat' first
    | extract_lets
    | with_reducible first
      | exact fun h => h | assumption | apply keep_ite | apply keep_resIte | apply next_oneHeld
      | apply lawStep_oneHeld
      | apply keep_then
        first | apply next_oneHeld | apply lawStep_oneHeld
    | dsimp -zeta only
    | split

theorem execLda_oneHeld (k : Engine) (l : LSlot) (acc : Fin 4) (sh : Fin 32) (sa : Byte) (h : s.oneHeld) :
    (execLda k l acc sh sa s).OneHeld := by
  apply next_oneHeld
  repeat' first
    | with_reducible first
      | assumption | apply next_oneHeld | apply ite_oneHeld | apply resIte_oneHeld | apply lawStep_oneHeld
    | extract_lets
    | split

theorem execMac_oneHeld (k : Engine) (l : LSlot) (acc : Fin 4) (sa : Byte) (kk : Fin 64) {s : State} : s.oneHeld → (execMac k l acc sa kk s).OneHeld := by
  delta execMac
  repeat' first
    | extract_lets
    | with_reducible first
      | exact fun h => h | assumption | apply keep_ite | apply keep_resIte | apply next_oneHeld
      | apply lawStep_oneHeld
      | apply keep_then
        first | apply next_oneHeld | apply lawStep_oneHeld
    | dsimp -zeta only
    | split

theorem execMsu_oneHeld (k : Engine) (l : LSlot) (acc : Fin 4) (sa : Byte) (kk : Fin 64) (h : s.oneHeld) :
    (execMsu k l acc sa kk s).OneHeld := by
  apply next_oneHeld
  repeat' first
    | with_reducible first
      | assumption | apply next_oneHeld | apply ite_oneHeld | apply resIte_oneHeld | apply lawStep_oneHeld
    | extract_lets
    | split

theorem execAda_oneHeld (k : Engine) (l : LSlot) (acc : Fin 4) (neg : Bool) (sh : Fin 32) (sa : Byte) (h : s.oneHeld) :
    (execAda k l acc neg sh sa s).OneHeld := by
  apply next_oneHeld
  repeat' first
    | with_reducible first
      | assumption | apply next_oneHeld | apply ite_oneHeld | apply resIte_oneHeld | apply lawStep_oneHeld
    | extract_lets
    | split

theorem execSta_oneHeld (k : Engine) (l : LSlot) (acc : Fin 4) (sh : Fin 32) (dst : Byte) (h : s.oneHeld) :
    (execSta k l acc sh dst s).OneHeld := by
  apply next_oneHeld
  repeat' first
    | with_reducible first
      | assumption | apply next_oneHeld | apply ite_oneHeld | apply resIte_oneHeld | apply lawStep_oneHeld
    | extract_lets
    | split

theorem execClp_oneHeld (k : Engine) (l : LSlot) (dst sa : Byte) (kk : Fin 64) (h : s.oneHeld) :
    (execClp k l dst sa kk s).OneHeld := by
  apply next_oneHeld
  repeat' first
    | with_reducible first
      | assumption | apply next_oneHeld | apply ite_oneHeld | apply resIte_oneHeld | apply lawStep_oneHeld
    | extract_lets
    | split

theorem execSel_oneHeld (k : Engine) (l : LSlot) (dst sa sb sc : Byte) (h : s.oneHeld) :
    (execSel k l dst sa sb sc s).OneHeld := by
  apply next_oneHeld
  repeat' first
    | with_reducible first
      | assumption | apply next_oneHeld | apply ite_oneHeld | apply resIte_oneHeld | apply lawStep_oneHeld
    | extract_lets
    | split

theorem execLawMov_oneHeld (k : Engine) (l : LSlot) (dst sa : Byte) {s : State} : s.oneHeld → (execLawMov k l dst sa s).OneHeld := by
  delta execLawMov
  repeat' first
    | extract_lets
    | with_reducible first
      | exact fun h => h | assumption | apply keep_ite | apply keep_resIte | apply next_oneHeld
      | apply lawStep_oneHeld
      | apply keep_then
        first | apply next_oneHeld | apply lawStep_oneHeld
    | dsimp -zeta only
    | split

theorem execLawHalt_oneHeld (k : Engine) (l : LSlot) {s : State} : s.oneHeld → (execLawHalt k l s).OneHeld := by
  delta execLawHalt
  repeat' first
    | extract_lets
    | with_reducible first
      | exact fun h => h | assumption | apply keep_ite | apply keep_resIte | apply next_oneHeld
      | apply lawStep_oneHeld
      | apply keep_then
        first | apply next_oneHeld | apply lawStep_oneHeld
    | dsimp -zeta only
    | split

theorem execTrArm_oneHeld (k : Engine) {s : State} : s.oneHeld → (execTrArm k s).OneHeld := by
  delta execTrArm
  repeat' first
    | extract_lets
    | with_reducible first
      | exact fun h => h | assumption | apply keep_ite | apply keep_resIte | apply next_oneHeld | apply upLe_oneHeld
      | apply clrB_oneHeld
      | apply keep_then
        first | apply next_oneHeld | apply upLe_oneHeld | apply clrB_oneHeld
    | dsimp -zeta only
    | split

theorem execTrTrig_oneHeld (k : Engine) {s : State} : s.oneHeld → (execTrTrig k s).OneHeld := by
  delta execTrTrig
  repeat' first
    | extract_lets
    | with_reducible first
      | exact fun h => h | assumption | apply keep_ite | apply keep_resIte | apply next_oneHeld
      | apply traceTrigger_oneHeld
      | apply keep_then
        first | apply next_oneHeld | apply traceTrigger_oneHeld
    | dsimp -zeta only
    | split

theorem execLeCntClr_oneHeld (k : Engine) {s : State} : s.oneHeld → (execLeCntClr k s).OneHeld := by
  delta execLeCntClr
  repeat' first
    | extract_lets
    | with_reducible first
      | exact fun h => h | assumption | apply keep_ite | apply keep_resIte | apply keep_fstIte | apply next_oneHeld
      | apply wr_oneHeld | apply each_oneHeld
      | apply keep_then
        first | apply next_oneHeld | apply wr_oneHeld | apply each_oneHeld
    | refine fun _ (_ : State) => ?_
    | dsimp -zeta only
    | split

theorem axResult_oneHeld (n : Axis) (code : Nat) {s : State} : s.oneHeld → (State.axResult n code s).oneHeld := by
  delta axResult
  repeat' first
    | extract_lets
    | with_reducible first
      | exact fun h => h | assumption | apply keep_ite | apply setF_oneHeld | apply advance_oneHeld
      | apply keep_then
        first | apply setF_oneHeld | apply advance_oneHeld
    | dsimp -zeta only
    | split

theorem axCommand_oneHeld (n : Axis) (inFault : Bool) {f : State → State × Nat} (hf : ∀ t, t.oneHeld → (f t).1.oneHeld)
    (h : s.oneHeld) : (s.axCommand n inFault f).oneHeld :=
  ite_oneHeld (axResult_oneHeld _ _ h) (ite_oneHeld (axResult_oneHeld _ _ h) (axResult_oneHeld _ _ (hf s h)))

theorem execAxAppend_oneHeld (n : Axis) {s : State} : s.oneHeld → (execAxAppend n s).OneHeld := by
  delta execAxAppend
  repeat' first
    | extract_lets
    | with_reducible first
      | exact fun h => h | assumption | apply keep_ite | apply keep_resIte | apply keep_fstIte | apply next_oneHeld
      | apply upAx_oneHeld | apply axCommand_oneHeld
      | apply keep_then
        first | apply next_oneHeld | apply upAx_oneHeld | apply axCommand_oneHeld
    | refine fun (_ : State) => ?_
    | dsimp -zeta only
    | split

theorem execAxReplace_oneHeld (n : Axis) (h : s.oneHeld) : (execAxReplace n s).OneHeld := by
  dsimp only [execAxReplace]
  repeat' first
    | with_reducible first
      | assumption | intro _ | apply next_oneHeld | apply ite_oneHeld | apply resIte_oneHeld | apply fstIte_oneHeld
      | apply axCommand_oneHeld | apply axPlan_oneHeld
    | split

theorem execAxStop_oneHeld (n : Axis) {s : State} : s.oneHeld → (execAxStop n s).OneHeld := by
  delta execAxStop
  repeat' first
    | extract_lets
    | with_reducible first
      | exact fun h => h | assumption | apply keep_ite | apply keep_resIte | apply keep_fstIte | apply next_oneHeld
      | apply axHalt_oneHeld | apply axCommand_oneHeld
      | apply keep_then
        first | apply next_oneHeld | apply axHalt_oneHeld | apply axCommand_oneHeld
    | refine fun (_ : State) => ?_
    | dsimp -zeta only
    | split

set_option smartUnfolding false in
theorem execAxResume_oneHeld (n : Axis) {s : State} : s.oneHeld → (execAxResume n s).OneHeld := by
  delta execAxResume
  repeat' first
    | extract_lets
    | with_reducible first
      | exact fun h => h | assumption | apply keep_ite | apply keep_resIte | apply keep_fstIte | apply next_oneHeld
      | apply axResumeQueue_oneHeld | apply axCommand_oneHeld
      | apply keep_then
        first | apply next_oneHeld | apply axResumeQueue_oneHeld | apply axCommand_oneHeld
    | refine keep_opt (P := fun x => State.oneHeld x.1) ?_ fun _ => ?_
    | refine keep_some (P := fun x => State.oneHeld x.1) (fun _ => ?_) fun _ => ?_
    | refine fun (_ : State) => ?_
    | dsimp -zeta only
    | split

theorem execAxHome_oneHeld (n : Axis) {s : State} : s.oneHeld → (execAxHome n s).OneHeld := by
  delta execAxHome
  repeat' first
    | extract_lets
    | with_reducible first
      | exact fun h => h | assumption | apply keep_ite | apply keep_resIte | apply keep_fstIte | apply next_oneHeld
      | apply axPlan_oneHeld | apply axCommand_oneHeld
      | apply keep_then
        first | apply next_oneHeld | apply axPlan_oneHeld | apply axCommand_oneHeld
    | refine fun (_ : State) => ?_
    | dsimp -zeta only
    | split

theorem execSetPos_oneHeld (n : Axis) {s : State} : s.oneHeld → (execSetPos n s).OneHeld := by
  delta execSetPos
  repeat' first
    | extract_lets
    | with_reducible first
      | exact fun h => h | assumption | apply keep_ite | apply keep_resIte | apply keep_fstIte | apply next_oneHeld
      | apply axPlan_oneHeld | apply axCommand_oneHeld
      | apply keep_then
        first | apply next_oneHeld | apply axPlan_oneHeld | apply axCommand_oneHeld
    | refine fun (_ : State) => ?_
    | dsimp -zeta only
    | split

theorem execEl1Move_oneHeld (n : Axis) {s : State} : s.oneHeld → (execEl1Move n s).OneHeld := by
  delta execEl1Move
  repeat' first
    | extract_lets
    | with_reducible first
      | exact fun h => h | assumption | apply keep_ite | apply keep_resIte | apply keep_fstIte | apply next_oneHeld
      | apply axPlan_oneHeld | apply axCommand_oneHeld
      | apply keep_then
        first | apply next_oneHeld | apply axPlan_oneHeld | apply axCommand_oneHeld
    | refine fun (_ : State) => ?_
    | dsimp -zeta only
    | split

set_option smartUnfolding false in
theorem execEl1Set_oneHeld (n : Axis) {s : State} : s.oneHeld → (execEl1Set n s).OneHeld := by
  refine axCommand_oneHeld n _ fun t => ?_
  extract_lets x
  refine keep_opt (P := fun x : State × _ => x.1.oneHeld) (fun h => h) fun k => ?_
  refine keep_fstIte (fun h => h) ?_
  exact keep_then (axPlan_oneHeld _ _ _) (ifc_oneHeld _ fun _ => setB_oneHeld _ _)

set_option smartUnfolding false in
theorem execAxClear_oneHeld (n : Axis) {s : State} : s.oneHeld → (execAxClear n s).OneHeld := by
  delta execAxClear
  repeat' first
    | extract_lets
    | with_reducible first
      | exact fun h => h | assumption | apply keep_ite | apply keep_resIte | apply keep_fstIte | apply next_oneHeld
      | apply upAx_oneHeld | apply wr_oneHeld | apply axCommand_oneHeld
      | apply keep_then
        first | apply next_oneHeld | apply upAx_oneHeld | apply wr_oneHeld | apply axCommand_oneHeld
    | refine keep_opt (P := fun x => State.oneHeld x.1) ?_ fun _ => ?_
    | refine keep_some (P := fun x => State.oneHeld x.1) (fun _ => ?_) fun _ => ?_
    | refine fun (_ : State) => ?_
    | dsimp -zeta only
    | split

set_option smartUnfolding false in
theorem pitchDone_oneHeld (n : Axis) {s : State} : s.oneHeld → (State.pitchDone n s).oneHeld := by
  delta pitchDone
  repeat' first
    | extract_lets
    | with_reducible first
      | exact fun h => h | assumption | apply keep_ite | apply axPlan_oneHeld
      | apply keep_then
        first | apply axPlan_oneHeld
    | refine keep_list ?_ fun _ _ => ?_
    | dsimp -zeta only
    | split

set_option smartUnfolding false in
theorem axMiss_oneHeld (n : Axis) (t : Nat) {s : State} : s.oneHeld → (State.axMiss n t s).oneHeld := by
  delta axMiss
  repeat' first
    | extract_lets
    | with_reducible first
      | exact fun h => h | assumption | apply keep_ite | apply keep_fstIte | apply record_oneHeld
      | apply report_oneHeld | apply askStop_oneHeld | apply each_oneHeld
      | apply keep_then
        first | apply record_oneHeld | apply report_oneHeld | apply askStop_oneHeld | apply each_oneHeld
    | refine keep_opt ?_ fun _ => ?_
    | refine keep_some (fun _ => ?_) fun _ => ?_
    | refine fun _ (_ : State) => ?_
    | dsimp -zeta only
    | split

set_option smartUnfolding false in
theorem execPitchEnd_oneHeld (n : Axis) {s : State} : s.oneHeld → (execPitchEnd n s).OneHeld := by
  delta execPitchEnd
  repeat' first
    | extract_lets
    | with_reducible first
      | exact fun h => h | assumption | apply keep_ite | apply keep_resIte | apply next_oneHeld
      | apply pitchDone_oneHeld | apply axMiss_oneHeld
      | apply keep_then
        first | apply next_oneHeld | apply pitchDone_oneHeld | apply axMiss_oneHeld
    | refine keep_opt ?_ fun _ => ?_
    | refine keep_some (fun _ => ?_) fun _ => ?_
    | dsimp -zeta only
    | split

theorem execLimitInput_oneHeld (n : Axis) (pos level : Bool) {s : State} : s.oneHeld → (execLimitInput n pos level s).OneHeld := by
  delta execLimitInput
  repeat' first
    | extract_lets
    | with_reducible first
      | exact fun h => h | assumption | apply keep_ite | apply keep_resIte | apply next_oneHeld | apply upAx_oneHeld
      | apply axLimitStop_oneHeld
      | apply keep_then
        first | apply next_oneHeld | apply upAx_oneHeld | apply axLimitStop_oneHeld
    | dsimp -zeta only
    | split

theorem execHomeEdge_oneHeld (n : Axis) (active : Bool) {s : State} : s.oneHeld → (execHomeEdge n active s).OneHeld := by
  delta execHomeEdge
  repeat' first
    | extract_lets
    | with_reducible first
      | exact fun h => h | assumption | apply keep_ite | apply keep_resIte | apply next_oneHeld | apply upAx_oneHeld
      | apply axPlan_oneHeld | apply wr_oneHeld
      | apply keep_then
        first | apply next_oneHeld | apply upAx_oneHeld | apply axPlan_oneHeld | apply wr_oneHeld
    | dsimp -zeta only
    | split

theorem machNext_oneHeld (n : Nat) {s : State} : s.oneHeld → (State.machNext n s).oneHeld := by
  delta machNext
  repeat' first
    | extract_lets
    | with_reducible first
      | exact fun h => h | assumption | apply keep_ite | apply mach_oneHeld
      | apply keep_then
        first | apply mach_oneHeld
    | dsimp -zeta only
    | split

set_option smartUnfolding false in
theorem execMmove_oneHeld (axis : Fin 16) (rel : Bool) (v a : BitVec 24) (tgt : Word) {s : State} : s.oneHeld → (execMmove axis rel v a tgt s).OneHeld := by
  delta execMmove
  repeat' first
    | extract_lets
    | with_reducible first
      | exact fun h => h | assumption | apply keep_ite | apply keep_resIte | apply next_oneHeld | apply upAx_oneHeld
      | apply machNext_oneHeld | apply mach_oneHeld
      | apply keep_then
        first | apply next_oneHeld | apply upAx_oneHeld | apply machNext_oneHeld | apply mach_oneHeld
    | refine keep_opt ?_ fun _ => ?_
    | refine keep_some (fun _ => ?_) fun _ => ?_
    | dsimp -zeta only
    | split

set_option smartUnfolding false in
theorem execMwait_oneHeld (mask : BitVec 16) {s : State} : s.oneHeld → (execMwait mask s).OneHeld := by
  delta execMwait
  repeat' first
    | extract_lets
    | with_reducible first
      | exact fun h => h | assumption | apply keep_ite | apply keep_resIte | apply next_oneHeld
      | apply machNext_oneHeld | apply mach_oneHeld
      | apply keep_then
        first | apply next_oneHeld | apply machNext_oneHeld | apply mach_oneHeld
    | refine keep_opt ?_ fun _ => ?_
    | refine keep_some (fun _ => ?_) fun _ => ?_
    | dsimp -zeta only
    | split

set_option smartUnfolding false in
theorem execMdwell_oneHeld (ns : BitVec 48) {s : State} : s.oneHeld → (execMdwell ns s).OneHeld := by
  delta execMdwell
  repeat' first
    | extract_lets
    | with_reducible first
      | exact fun h => h | assumption | apply keep_ite | apply keep_resIte | apply next_oneHeld
      | apply machNext_oneHeld | apply mach_oneHeld
      | apply keep_then
        first | apply next_oneHeld | apply machNext_oneHeld | apply mach_oneHeld
    | refine keep_opt ?_ fun _ => ?_
    | refine keep_some (fun _ => ?_) fun _ => ?_
    | dsimp -zeta only
    | split

set_option smartUnfolding false in
theorem execMachHalt_oneHeld {s : State} : s.oneHeld → (execMachHalt s).OneHeld := by
  delta execMachHalt
  repeat' first
    | extract_lets
    | with_reducible first
      | exact fun h => h | assumption | apply keep_ite | apply keep_resIte | apply next_oneHeld | apply mach_oneHeld
      | apply keep_then
        first | apply next_oneHeld | apply mach_oneHeld
    | refine keep_opt ?_ fun _ => ?_
    | refine keep_some (fun _ => ?_) fun _ => ?_
    | dsimp -zeta only
    | split

theorem refLost_oneHeld {s : State} : s.oneHeld → (State.refLost s).oneHeld := by
  delta refLost
  repeat' first
    | extract_lets
    | with_reducible first
      | exact fun h => h | assumption | apply keep_ite | apply keep_fstIte | apply report_oneHeld
      | apply upCal_oneHeld | apply ifc_oneHeld
      | apply keep_then
        first | apply report_oneHeld | apply upCal_oneHeld | apply ifc_oneHeld
    | refine fun (_ : State) => ?_
    | dsimp -zeta only
    | split

set_option smartUnfolding false in
theorem execCalRefLoss_oneHeld {s : State} : s.oneHeld → (execCalRefLoss s).OneHeld := by
  delta execCalRefLoss
  repeat' first
    | extract_lets
    | with_reducible first
      | exact fun h => h | assumption | apply keep_ite | apply keep_resIte | apply next_oneHeld
      | apply upCal_oneHeld | apply refLost_oneHeld
      | apply keep_then
        first | apply next_oneHeld | apply upCal_oneHeld | apply refLost_oneHeld
    | refine keep_opt ?_ fun _ => ?_
    | refine keep_some (fun _ => ?_) fun _ => ?_
    | dsimp -zeta only
    | split

theorem calCommand_oneHeld {f : State → State × Nat × Nat} (hf : ∀ t, t.oneHeld → (f t).1.oneHeld) (h : s.oneHeld) :
    (s.calCommand f).oneHeld := ite_oneHeld h (calResult_oneHeld _ _ (hf s h))

theorem dlTrigger_oneHeld {s : State} : s.oneHeld → (State.dlTrigger s).oneHeld := by
  delta dlTrigger
  repeat' first
    | extract_lets
    | with_reducible first
      | exact fun h => h | assumption | apply keep_ite | apply upCal_oneHeld | apply dlStart_oneHeld
      | apply keep_then
        first | apply upCal_oneHeld | apply dlStart_oneHeld
    | dsimp -zeta only
    | split

theorem execDlRun_oneHeld {s : State} : s.oneHeld → (execDlRun s).OneHeld := by
  delta execDlRun
  repeat' first
    | extract_lets
    | with_reducible first
      | exact fun h => h | assumption | apply keep_ite | apply keep_resIte | apply keep_fstIte | apply next_oneHeld
      | apply dlTrigger_oneHeld | apply calCommand_oneHeld
      | apply keep_then
        first | apply next_oneHeld | apply dlTrigger_oneHeld | apply calCommand_oneHeld
    | refine fun (_ : State) => ?_
    | dsimp -zeta only
    | split

theorem dlPair_oneHeld (m : Nat) (x : LineMeas) {s : State} : s.oneHeld → (State.dlPair m x s).oneHeld := by
  delta dlPair
  repeat' first
    | extract_lets
    | with_reducible first
      | exact fun h => h | assumption | apply keep_ite | apply count_oneHeld | apply clrB_oneHeld
      | apply upCal_oneHeld | apply setB_oneHeld
      | apply keep_then
        first | apply count_oneHeld | apply clrB_oneHeld | apply upCal_oneHeld | apply setB_oneHeld
    | dsimp -zeta only
    | split

theorem calRecord_oneHeld (kind unit result : Nat) (word : Word) {s : State} : s.oneHeld → (State.calRecord kind unit result word s).oneHeld := by
  delta calRecord
  repeat' first
    | extract_lets
    | with_reducible first
      | exact fun h => h | assumption | apply keep_ite | apply record_oneHeld
      | apply keep_then
        first | apply record_oneHeld
    | dsimp -zeta only
    | split

theorem execDlRunComplete_oneHeld (m : List LineMeas) {s : State} : s.oneHeld → (execDlRunComplete m s).OneHeld := by
  delta execDlRunComplete
  repeat' first
    | extract_lets
    | with_reducible first
      | exact fun h => h | assumption | apply keep_ite | apply keep_resIte | apply keep_fstIte | apply next_oneHeld
      | apply dlPair_oneHeld | apply calRecord_oneHeld | apply upCal_oneHeld | apply irq_oneHeld | apply wr_oneHeld
      | apply report_oneHeld | apply dlStart_oneHeld | apply each_oneHeld | apply ifc_oneHeld
      | apply keep_then
        first
        | apply next_oneHeld | apply dlPair_oneHeld | apply calRecord_oneHeld | apply upCal_oneHeld
        | apply irq_oneHeld | apply wr_oneHeld | apply report_oneHeld | apply dlStart_oneHeld | apply each_oneHeld
        | apply ifc_oneHeld
    | refine fun _ (_ : State) => ?_
    | refine fun (_ : State) => ?_
    | dsimp -zeta only
    | split

theorem execDlSwap_oneHeld (m : Fin 32) {s : State} : s.oneHeld → (execDlSwap m s).OneHeld := by
  delta execDlSwap
  repeat' first
    | extract_lets
    | with_reducible first
      | exact fun h => h | assumption | apply keep_ite | apply keep_resIte | apply next_oneHeld
      | apply upCal_oneHeld | apply upMram_oneHeld
      | apply keep_then
        first | apply next_oneHeld | apply upCal_oneHeld | apply upMram_oneHeld
    | dsimp -zeta only
    | split

set_option smartUnfolding false in
theorem recalSlot_oneHeld (q : Nat) {s : State} : s.oneHeld → (State.recalSlot q s).oneHeld := by
  delta recalSlot
  repeat' first
    | extract_lets
    | with_reducible first
      | exact fun h => h | assumption | apply keep_ite | apply recalUpdate_oneHeld
      | apply keep_then
        first | apply recalUpdate_oneHeld
    | refine keep_opt ?_ fun _ => ?_
    | refine keep_some (fun _ => ?_) fun _ => ?_
    | dsimp -zeta only
    | split

theorem setValidity_oneHeld (q : Nat) (v : Bool) {s : State} : s.oneHeld → (State.setValidity q v s).oneHeld := by
  delta setValidity
  repeat' first
    | extract_lets
    | with_reducible first
      | exact fun h => h | assumption | apply keep_ite | apply recalSlot_oneHeld | apply upCal_oneHeld
      | apply keep_then
        first | apply recalSlot_oneHeld | apply upCal_oneHeld
    | dsimp -zeta only
    | split

theorem execValidate_oneHeld (q : BitVec 16) {s : State} : s.oneHeld → (execValidate q s).OneHeld := by
  refine calCommand_oneHeld fun t => ?_
  cases (if q.toNat < 32 then t.slotHead q.toNat else none) with
  | none => exact fun h => h
  | some x =>
    dsimp only
    split
    · exact setValidity_oneHeld _ _
    · exact fun h => h

theorem execInvalidate_oneHeld (q : BitVec 16) (h : s.oneHeld) : (execInvalidate q s).OneHeld := by
  apply next_oneHeld
  repeat' first
    | with_reducible first
      | assumption | intro _ | apply next_oneHeld | apply ite_oneHeld | apply resIte_oneHeld | apply fstIte_oneHeld
      | apply calCommand_oneHeld | apply setValidity_oneHeld
    | extract_lets
    | split

set_option smartUnfolding false in
theorem execPromote_oneHeld (n : BitVec 16) {s : State} : s.oneHeld → (execPromote n s).OneHeld := by
  delta execPromote
  repeat' first
    | extract_lets
    | with_reducible first
      | exact fun h => h | assumption | apply keep_ite | apply keep_resIte | apply keep_fstIte | apply next_oneHeld
      | apply upHead_oneHeld | apply promoteNow_oneHeld | apply calCommand_oneHeld
      | apply keep_then
        first | apply next_oneHeld | apply upHead_oneHeld | apply promoteNow_oneHeld | apply calCommand_oneHeld
    | refine keep_opt (P := fun x => State.oneHeld x.1) ?_ fun _ => ?_
    | refine keep_some (P := fun x => State.oneHeld x.1) (fun _ => ?_) fun _ => ?_
    | refine fun (_ : State) => ?_
    | dsimp -zeta only
    | split

set_option smartUnfolding false in
theorem execDrift_oneHeld (n : BitVec 16) {s : State} : s.oneHeld → (execDrift n s).OneHeld := by
  delta execDrift
  repeat' first
    | extract_lets
    | with_reducible first
      | exact fun h => h | assumption | apply keep_ite | apply keep_resIte | apply next_oneHeld
      | apply calResult_oneHeld | apply upHead_oneHeld
      | apply keep_then
        first | apply next_oneHeld | apply calResult_oneHeld | apply upHead_oneHeld
    | refine keep_opt ?_ fun _ => ?_
    | refine keep_some (fun _ => ?_) fun _ => ?_
    | dsimp -zeta only
    | split

theorem execPcalPoint_oneHeld (arg : BitVec 16) (h : s.oneHeld) : (execPcalPoint arg s).OneHeld := by
  apply next_oneHeld
  repeat' first
    | with_reducible first
      | assumption | intro _ | apply next_oneHeld | apply ite_oneHeld | apply resIte_oneHeld | apply fstIte_oneHeld
      | apply calCommand_oneHeld | apply upSrc_oneHeld | apply upBe_oneHeld | apply gateEdges_oneHeld
      | apply gateItem_oneHeld
    | extract_lets
    | split

set_option smartUnfolding false in
theorem execPcalExposureEnd_oneHeld (b : Beam) {s : State} : s.oneHeld → (execPcalExposureEnd b s).OneHeld := by
  delta execPcalExposureEnd
  repeat' first
    | extract_lets
    | with_reducible first
      | exact fun h => h | assumption | apply keep_ite | apply keep_resIte | apply next_oneHeld
      | apply calResult_oneHeld | apply expoAbort_oneHeld | apply gateItem_oneHeld | apply upSrc_oneHeld
      | apply irq_oneHeld
      | apply keep_then
        first
        | apply next_oneHeld | apply calResult_oneHeld | apply expoAbort_oneHeld | apply gateItem_oneHeld
        | apply upSrc_oneHeld | apply irq_oneHeld
    | refine keep_opt ?_ fun _ => ?_
    | refine keep_some (fun _ => ?_) fun _ => ?_
    | dsimp -zeta only
    | split

theorem accPut_oneHeld (b : Beam) (p held v : Nat) {s : State} : s.oneHeld → (State.accPut b p held v s).oneHeld := by
  delta accPut
  repeat' first
    | extract_lets
    | with_reducible first
      | exact fun h => h | assumption | apply keep_ite | apply wr_oneHeld
      | apply keep_then
        first | apply wr_oneHeld
    | dsimp -zeta only
    | split

set_option smartUnfolding false in
theorem execPcalEnter_oneHeld (arg : BitVec 16) {s : State} : s.oneHeld → (execPcalEnter arg s).OneHeld := by
  refine calCommand_oneHeld fun t => ?_
  extract_lets p
  refine keep_opt (P := fun x : State × _ => x.1.oneHeld) (fun h => h) fun b => ?_
  refine keep_fstIte (fun h => h) (keep_fstIte (fun h => h) ?_)
  have h₁ (f : CalSource → CalSource) : t.oneHeld → (t.upSrc b f).oneHeld := upSrc_oneHeld b f
  refine keep_lit (P := fun x : State × _ => x.1.oneHeld) (keep_then (accPut_oneHeld _ _ _ _) (h₁ _)) fun _ => ?_
  refine keep_lit (P := fun x : State × _ => x.1.oneHeld)
    (keep_fstIte (keep_then (accPut_oneHeld _ _ _ _) (h₁ _)) (keep_then (accPut_oneHeld _ _ _ _) (h₁ _))) fun _ => ?_
  refine keep_opt (P := fun x : State × _ => x.1.oneHeld) (keep_then (upSrc_oneHeld _ _) (h₁ _)) fun r => ?_
  exact keep_fstIte (keep_then (accPut_oneHeld _ _ _ _) (keep_then (upSrc_oneHeld _ _) (h₁ _))) (keep_then (upSrc_oneHeld _ _) (h₁ _))

theorem accClear_oneHeld (b : Beam) {s : State} : s.oneHeld → (State.accClear b s).oneHeld := by
  delta accClear
  repeat' first
    | extract_lets
    | with_reducible first
      | exact fun h => h | assumption | apply keep_ite | apply keep_fstIte | apply upSrc_oneHeld | apply wr_oneHeld
      | apply each_oneHeld
      | apply keep_then
        first | apply upSrc_oneHeld | apply wr_oneHeld | apply each_oneHeld
    | refine fun _ (_ : State) => ?_
    | dsimp -zeta only
    | split

theorem execPcalCommit_oneHeld (n : BitVec 16) (h : s.oneHeld) : (execPcalCommit n s).OneHeld := by
  apply next_oneHeld
  repeat' first
    | with_reducible first
      | assumption | intro _ | apply next_oneHeld | apply ite_oneHeld | apply resIte_oneHeld | apply fstIte_oneHeld
      | apply calCommand_oneHeld | apply each_oneHeld | apply wr_oneHeld | apply upMram_oneHeld | apply upSrc_oneHeld
      | apply calRecord_oneHeld | apply accClear_oneHeld
    | extract_lets
    | split

theorem execPcalClear_oneHeld (n : BitVec 16) (h : s.oneHeld) : (execPcalClear n s).OneHeld := by
  apply next_oneHeld
  repeat' first
    | with_reducible first
      | assumption | intro _ | apply next_oneHeld | apply ite_oneHeld | apply resIte_oneHeld | apply fstIte_oneHeld
      | apply calCommand_oneHeld | apply accClear_oneHeld | apply expoAbort_oneHeld
    | extract_lets
    | split

theorem execCalCntClr_oneHeld {s : State} : s.oneHeld → (execCalCntClr s).OneHeld := by
  delta execCalCntClr
  repeat' first
    | extract_lets
    | with_reducible first
      | exact fun h => h | assumption | apply keep_ite | apply keep_resIte | apply next_oneHeld | apply wr_oneHeld
      | apply keep_then
        first | apply next_oneHeld | apply wr_oneHeld
    | dsimp -zeta only
    | split

theorem execHeadTemp_oneHeld (b : Beam) (f : Bool) (temp : BitVec 16) {s : State} : s.oneHeld → (execHeadTemp b f temp s).OneHeld := by
  delta execHeadTemp
  repeat' first
    | extract_lets
    | with_reducible first
      | exact fun h => h | assumption | apply keep_ite | apply keep_resIte | apply next_oneHeld
      | apply recalUpdate_oneHeld | apply upHead_oneHeld
      | apply keep_then
        first | apply next_oneHeld | apply recalUpdate_oneHeld | apply upHead_oneHeld
    | dsimp -zeta only
    | split

theorem execHeadTempStale_oneHeld (b : Beam) {s : State} : s.oneHeld → (execHeadTempStale b s).OneHeld := by
  delta execHeadTempStale
  repeat' first
    | extract_lets
    | with_reducible first
      | exact fun h => h | assumption | apply keep_ite | apply keep_resIte | apply next_oneHeld
      | apply upHead_oneHeld
      | apply keep_then
        first | apply next_oneHeld | apply upHead_oneHeld
    | dsimp -zeta only
    | split

set_option smartUnfolding false in
theorem execRefReq_oneHeld (b : Beam) {s : State} : s.oneHeld → (execRefReq b s).OneHeld := by
  delta execRefReq
  repeat' first
    | extract_lets
    | with_reducible first
      | exact fun h => h | assumption | apply keep_ite | apply keep_resIte | apply next_oneHeld
      | apply upPort_oneHeld | apply parcel_oneHeld | apply upHead_oneHeld
      | apply keep_then
        first | apply next_oneHeld | apply upPort_oneHeld | apply parcel_oneHeld | apply upHead_oneHeld
    | refine keep_opt ?_ fun _ => ?_
    | refine keep_some (fun _ => ?_) fun _ => ?_
    | dsimp -zeta only
    | split

theorem sendAck_oneHeld (p : Port) (nak : Bool) {s : State} : s.oneHeld → (State.sendAck p nak s).oneHeld := by
  delta sendAck
  repeat' first
    | extract_lets
    | with_reducible first
      | exact fun h => h | assumption | apply keep_ite | apply send_oneHeld
      | apply keep_then
        first | apply send_oneHeld
    | dsimp -zeta only
    | split

theorem sendNak_oneHeld (p : Port) {s : State} : s.oneHeld → (State.sendNak p s).oneHeld := by
  delta sendNak
  repeat' first
    | extract_lets
    | with_reducible first
      | exact fun h => h | assumption | apply keep_ite | apply upPort_oneHeld | apply count_oneHeld
      | apply sendAck_oneHeld
      | apply keep_then
        first | apply upPort_oneHeld | apply count_oneHeld | apply sendAck_oneHeld
    | dsimp -zeta only
    | split

theorem rxParcel_oneHeld (p : Port) (seq : Nat) {f : State → State} (hf : ∀ t, t.oneHeld → (f t).oneHeld) (h : s.oneHeld) :
    (s.rxParcel p seq f).oneHeld :=
  ite_oneHeld h (ite_oneHeld (hf _ (upPort_oneHeld _ _ h)) (ite_oneHeld (count_oneHeld _ _ _ _ h) (sendNak_oneHeld _ h)))

theorem driftGood_oneHeld (n : Beam) (f : Fit) {s : State} : s.oneHeld → (State.driftGood n f s).oneHeld := by
  delta driftGood
  repeat' first
    | extract_lets
    | with_reducible first
      | exact fun h => h | assumption | apply keep_ite | apply keep_fstIte | apply driftSend_oneHeld
      | apply upHead_oneHeld | apply wr_oneHeld | apply each_oneHeld
      | apply keep_then
        first | apply driftSend_oneHeld | apply upHead_oneHeld | apply wr_oneHeld | apply each_oneHeld
    | refine fun _ (_ : State) => ?_
    | dsimp -zeta only
    | split

theorem driftBad_oneHeld (n : Beam) {s : State} : s.oneHeld → (State.driftBad n s).oneHeld := by
  delta driftBad
  repeat' first
    | extract_lets
    | with_reducible first
      | exact fun h => h | assumption | apply keep_ite | apply report_oneHeld | apply setB_oneHeld
      | apply keep_then
        first | apply report_oneHeld | apply setB_oneHeld
    | dsimp -zeta only
    | split

set_option smartUnfolding false in
theorem driftEnd_oneHeld (n : Beam) (c : DriftCheck) {s : State} : s.oneHeld → (State.driftEnd n c s).oneHeld := by
  delta driftEnd
  repeat' first
    | extract_lets
    | with_reducible first
      | exact fun h => h | assumption | apply keep_ite | apply upHead_oneHeld | apply driftGood_oneHeld
      | apply driftBad_oneHeld | apply calRecord_oneHeld | apply irq_oneHeld | apply driftLoad_oneHeld
      | apply calResult_oneHeld
      | apply keep_then
        first
        | apply upHead_oneHeld | apply driftGood_oneHeld | apply driftBad_oneHeld | apply calRecord_oneHeld
        | apply irq_oneHeld | apply driftLoad_oneHeld | apply calResult_oneHeld
    | refine keep_opt ?_ fun _ => ?_
    | refine keep_some (fun _ => ?_) fun _ => ?_
    | dsimp -zeta only
    | split

set_option smartUnfolding false in
theorem execRefMeas_oneHeld (b : Beam) (seq tag : BitVec 16) (point : Fin 4) (signal : Bool) (mx my : Word) {s : State} : s.oneHeld → (execRefMeas b seq tag point signal mx my s).OneHeld := by
  delta execRefMeas
  repeat' first
    | extract_lets
    | with_reducible first
      | exact fun h => h | assumption | apply keep_ite | apply keep_resIte | apply keep_fstIte | apply next_oneHeld
      | apply upHead_oneHeld | apply driftEnd_oneHeld | apply rxParcel_oneHeld | apply shp_oneHeld
      | apply keep_then
        first
        | apply next_oneHeld | apply upHead_oneHeld | apply driftEnd_oneHeld | apply rxParcel_oneHeld
        | apply shp_oneHeld
    | refine keep_opt ?_ fun _ => ?_
    | refine keep_some (fun _ => ?_) fun _ => ?_
    | refine fun (_ : State) => ?_
    | dsimp -zeta only
    | split

theorem headerGood_oneHeld (n : Nat) (p : Port) {s : State} : s.oneHeld → (State.headerGood n p s).oneHeld := by
  delta headerGood
  repeat' first
    | extract_lets
    | with_reducible first
      | exact fun h => h | assumption | apply keep_ite | apply onLanes_oneHeld
      | apply keep_then
        first | apply onLanes_oneHeld
    | dsimp -zeta only
    | split

theorem eqEnd_oneHeld (p : Port) {s : State} : s.oneHeld → (State.eqEnd p s).oneHeld := by
  delta eqEnd
  repeat' first
    | extract_lets
    | with_reducible first
      | exact fun h => h | assumption | apply keep_ite | apply upPort_oneHeld | apply onLanes_oneHeld
      | apply keep_then
        first | apply upPort_oneHeld | apply onLanes_oneHeld
    | dsimp -zeta only
    | split

set_option smartUnfolding false in
theorem eqAsk_oneHeld (n : Lane) {s : State} : s.oneHeld → (State.eqAsk n s).oneHeld := by
  delta eqAsk
  repeat' first
    | extract_lets
    | with_reducible first
      | exact fun h => h | assumption | apply keep_ite | apply report_oneHeld | apply upLane_oneHeld
      | apply fresh_oneHeld
      | apply keep_then
        first | apply report_oneHeld | apply upLane_oneHeld | apply fresh_oneHeld
    | refine keep_sndProd (fun _ _ => ?_) ?_
    | dsimp -zeta only
    | split

theorem eqBlock_oneHeld (n : Lane) (blk : TrainBlk) (h : s.oneHeld) : (State.eqBlock n blk s).oneHeld := by
  apply upLane_oneHeld
  repeat' first
    | with_reducible first
      | assumption | apply ite_oneHeld | apply upLane_oneHeld | apply eqAsk_oneHeld
    | extract_lets
    | split

set_option smartUnfolding false in
theorem execTrain_oneHeld (n : Lane) (blk : TrainBlk) (eye : Byte) {s : State} : s.oneHeld → (execTrain n blk eye s).OneHeld := by
  delta execTrain
  repeat' first
    | extract_lets
    | with_reducible first
      | exact fun h => h | assumption | apply keep_ite | apply keep_resIte | apply next_oneHeld
      | apply upLane_oneHeld | apply headerGood_oneHeld | apply eqEnd_oneHeld | apply eqBlock_oneHeld
      | apply keep_then
        first
        | apply next_oneHeld | apply upLane_oneHeld | apply headerGood_oneHeld | apply eqEnd_oneHeld
        | apply eqBlock_oneHeld
    | refine keep_opt ?_ fun _ => ?_
    | refine keep_some (fun _ => ?_) fun _ => ?_
    | dsimp -zeta only
    | split

theorem countBy_oneHeld (a hi lo k : Nat) {s : State} : s.oneHeld → (State.countBy a hi lo k s).oneHeld := by
  delta countBy
  repeat' first
    | extract_lets
    | with_reducible first
      | exact fun h => h | assumption | apply keep_ite | apply setF_oneHeld
      | apply keep_then
        first | apply setF_oneHeld
    | dsimp -zeta only
    | split

set_option smartUnfolding false in
theorem elasticAm_oneHeld (n : Lane) (p : Port) (gap : Nat) {s : State} : s.oneHeld → (State.elasticAm n p gap s).oneHeld := by
  delta elasticAm
  repeat' first
    | extract_lets
    | with_reducible first
      | exact fun h => h | assumption | apply keep_ite | apply upLane_oneHeld | apply countBy_oneHeld
      | apply keep_then
        first | apply upLane_oneHeld | apply countBy_oneHeld
    | refine keep_opt ?_ fun _ => ?_
    | refine keep_some (fun _ => ?_) fun _ => ?_
    | dsimp -zeta only
    | split

theorem miswired_oneHeld (p : Port) {s : State} : s.oneHeld → (State.miswired p s).oneHeld := by
  delta miswired
  repeat' first
    | extract_lets
    | with_reducible first
      | exact fun h => h | assumption | apply keep_ite | apply portTrain_oneHeld | apply report_oneHeld
      | apply setB_oneHeld
      | apply keep_then
        first | apply portTrain_oneHeld | apply report_oneHeld | apply setB_oneHeld
    | dsimp -zeta only
    | split

theorem cfgStart_oneHeld (p : Port) (msg addr count : Nat) (data : List Word) (ident : Bool) {s : State} : s.oneHeld → (State.cfgStart p msg addr count data ident s).oneHeld := by
  delta cfgStart
  repeat' first
    | extract_lets
    | with_reducible first
      | exact fun h => h | assumption | apply keep_ite | apply parcel_oneHeld | apply upPort_oneHeld
      | apply keep_then
        first | apply parcel_oneHeld | apply upPort_oneHeld
    | dsimp -zeta only
    | split

theorem alignCheck_oneHeld (p : Port) {s : State} : s.oneHeld → (State.alignCheck p s).oneHeld := by
  delta alignCheck
  repeat' first
    | extract_lets
    | with_reducible first
      | exact fun h => h | assumption | apply keep_ite | apply miswired_oneHeld | apply cfgStart_oneHeld
      | apply upPort_oneHeld | apply onLanes_oneHeld
      | apply keep_then
        first | apply miswired_oneHeld | apply cfgStart_oneHeld | apply upPort_oneHeld | apply onLanes_oneHeld
    | dsimp -zeta only
    | split

set_option smartUnfolding false in
theorem execAm_oneHeld (n : Lane) (blk : AmBlk) {s : State} : s.oneHeld → (execAm n blk s).OneHeld := by
  delta execAm
  refine keep_opt (fun h => h) fun p => ?_
  beta_reduce
  extract_lets s₁ near s₂ s₃ x s₄
  have h₂ : s.oneHeld → s₂.oneHeld :=
    keep_then (ifc_oneHeld _ fun _ => elasticAm_oneHeld _ _ _) (ifc_oneHeld _ fun _ => count_oneHeld _ _ _ _)
  have h₃ : s.oneHeld → s₃.oneHeld := keep_then (upLane_oneHeld _ _) h₂
  have h₄ : s.oneHeld → s₄.oneHeld := keep_then (upLane_oneHeld _ _) h₂
  clear_value s₃ x s₄
  cases (s₂.port[p]).st with
  | align_ => exact keep_then (alignCheck_oneHeld _) h₃
  | up => exact keep_resIte (keep_resIte (keep_then (portDown_oneHeld _) h₄) h₄) (keep_then (upLane_oneHeld _ _) h₂)
  | _ => exact h₂

set_option smartUnfolding false in
theorem execAmSend_oneHeld (p : Port) {s : State} : s.oneHeld → (execAmSend p s).OneHeld := by
  delta execAmSend
  repeat' first
    | extract_lets
    | with_reducible first
      | exact fun h => h | assumption | apply keep_ite | apply keep_resIte | apply keep_fstIte | apply next_oneHeld
      | apply upPort_oneHeld | apply send_oneHeld | apply fresh_oneHeld | apply each_oneHeld
      | apply keep_then
        first
        | apply next_oneHeld | apply upPort_oneHeld | apply send_oneHeld | apply fresh_oneHeld | apply each_oneHeld
    | refine keep_sndProd (fun _ _ => ?_) ?_
    | refine keep_opt ?_ fun _ => ?_
    | refine keep_some (fun _ => ?_) fun _ => ?_
    | refine fun _ (_ : State) => ?_
    | dsimp -zeta only
    | split

theorem execTrainTimeout_oneHeld (p : Port) {s : State} : s.oneHeld → (execTrainTimeout p s).OneHeld := by
  delta execTrainTimeout
  repeat' first
    | extract_lets
    | with_reducible first
      | exact fun h => h | assumption | apply keep_ite | apply keep_resIte | apply next_oneHeld | apply setB_oneHeld
      | apply count_oneHeld | apply portTrain_oneHeld | apply upPort_oneHeld | apply onLanes_oneHeld
      | apply keep_then
        first
        | apply next_oneHeld | apply setB_oneHeld | apply count_oneHeld | apply portTrain_oneHeld
        | apply upPort_oneHeld | apply onLanes_oneHeld
    | dsimp -zeta only
    | split

set_option smartUnfolding false in
theorem lockLost_oneHeld (n : Nat) {s : State} : s.oneHeld → (State.lockLost n s).oneHeld := by
  delta lockLost
  repeat' first
    | extract_lets
    | with_reducible first
      | exact fun h => h | assumption | apply keep_ite | apply onLanes_oneHeld | apply portDown_oneHeld
      | apply keep_then
        first | apply onLanes_oneHeld | apply portDown_oneHeld
    | refine keep_opt ?_ fun _ => ?_
    | refine keep_some (fun _ => ?_) fun _ => ?_
    | dsimp -zeta only
    | split

theorem execLaneLockLoss_oneHeld (n : Lane) {s : State} : s.oneHeld → (execLaneLockLoss n s).OneHeld := by
  delta execLaneLockLoss
  repeat' first
    | extract_lets
    | with_reducible first
      | exact fun h => h | assumption | apply keep_ite | apply keep_resIte | apply next_oneHeld
      | apply lockLost_oneHeld | apply countBy_oneHeld
      | apply keep_then
        first | apply next_oneHeld | apply lockLost_oneHeld | apply countBy_oneHeld
    | dsimp -zeta only
    | split

theorem execHbLoss_oneHeld (p : Port) {s : State} : s.oneHeld → (execHbLoss p s).OneHeld := by
  delta execHbLoss
  repeat' first
    | extract_lets
    | with_reducible first
      | exact fun h => h | assumption | apply keep_ite | apply keep_resIte | apply next_oneHeld
      | apply portDown_oneHeld
      | apply keep_then
        first | apply next_oneHeld | apply portDown_oneHeld
    | dsimp -zeta only
    | split

theorem execHeartbeat_oneHeld (p : Port) {s : State} : s.oneHeld → (execHeartbeat p s).OneHeld := by
  delta execHeartbeat
  repeat' first
    | extract_lets
    | with_reducible first
      | exact fun h => h | assumption | apply keep_ite | apply keep_resIte | apply next_oneHeld
      | apply upPort_oneHeld | apply upTwin_oneHeld | apply send_oneHeld
      | apply keep_then
        first | apply next_oneHeld | apply upPort_oneHeld | apply upTwin_oneHeld | apply send_oneHeld
    | dsimp -zeta only
    | split

theorem twinHeard_oneHeld (sidx : BitVec 16) (role : Nat) {s : State} : s.oneHeld → (State.twinHeard sidx role s).oneHeld := by
  delta twinHeard
  repeat' first
    | extract_lets
    | with_reducible first
      | exact fun h => h | assumption | apply keep_ite | apply upTwin_oneHeld
      | apply keep_then
        first | apply upTwin_oneHeld
    | dsimp -zeta only
    | split

set_option smartUnfolding false in
theorem execFarHeartbeat_oneHeld (p : Port) (_f : Bool) (sidx echo turn : BitVec 16) (role : Fin 4) {s : State} : s.oneHeld → (execFarHeartbeat p _f sidx echo turn role s).OneHeld := by
  delta execFarHeartbeat
  repeat' first
    | extract_lets
    | with_reducible first
      | exact fun h => h | assumption | apply keep_ite | apply keep_resIte | apply next_oneHeld
      | apply upPort_oneHeld | apply twinHeard_oneHeld
      | apply keep_then
        first | apply next_oneHeld | apply upPort_oneHeld | apply twinHeard_oneHeld
    | refine keep_opt ?_ fun _ => ?_
    | refine keep_some (fun _ => ?_) fun _ => ?_
    | dsimp -zeta only
    | split

theorem headerBad_oneHeld (n : Nat) (p : Port) {s : State} : s.oneHeld → (State.headerBad n p s).oneHeld := by
  delta headerBad
  repeat' first
    | extract_lets
    | with_reducible first
      | exact fun h => h | assumption | apply keep_ite | apply onLanes_oneHeld | apply count_oneHeld
      | apply lockLost_oneHeld
      | apply keep_then
        first | apply onLanes_oneHeld | apply count_oneHeld | apply lockLost_oneHeld
    | dsimp -zeta only
    | split

set_option smartUnfolding false in
theorem countHeaders_oneHeld (p : Port) (l : List RxBlk) {s : State} : s.oneHeld → (State.countHeaders p l s).oneHeld := by
  delta countHeaders
  repeat' first
    | extract_lets
    | with_reducible first
      | exact fun h => h | assumption | apply keep_ite | apply keep_fstIte | apply headerBad_oneHeld
      | apply headerGood_oneHeld | apply each_oneHeld
      | apply keep_then
        first | apply headerBad_oneHeld | apply headerGood_oneHeld | apply each_oneHeld
    | refine keep_opt ?_ fun _ => ?_
    | refine keep_some (fun _ => ?_) fun _ => ?_
    | refine fun _ (_ : State) => ?_
    | dsimp -zeta only
    | split

theorem execCellDrop_oneHeld (p : Port) (blocks : List RxBlk) {s : State} :
    s.oneHeld → (execCellDrop p blocks s).OneHeld := by
  refine keep_resIte (fun h => h) ?_
  extract_lets t ctl
  have ht : s.oneHeld → t.oneHeld := countHeaders_oneHeld _ _
  have hc (c : Bool) (hi lo : Nat) : s.oneHeld → (t.ifc c (State.count (R.PORTp_TC0 p.val) hi lo)).oneHeld :=
    keep_then (ifc_oneHeld c fun _ => count_oneHeld _ _ _ _) ht
  rcases rxDrop p blocks with _ | _ | _
  · exact ht
  all_goals exact hc _ _ _

theorem execParcelBad_oneHeld (p : Port) (crcBad : Bool) (seq : BitVec 16) {s : State} : s.oneHeld → (execParcelBad p crcBad seq s).OneHeld := by
  delta execParcelBad
  repeat' first
    | extract_lets
    | with_reducible first
      | exact fun h => h | assumption | apply keep_ite | apply keep_resIte | apply next_oneHeld
      | apply sendNak_oneHeld | apply count_oneHeld
      | apply keep_then
        first | apply next_oneHeld | apply sendNak_oneHeld | apply count_oneHeld
    | dsimp -zeta only
    | split

theorem ackTo_oneHeld (p : Port) (next : Nat) {s : State} : s.oneHeld → (State.ackTo p next s).oneHeld := by
  delta ackTo
  repeat' first
    | extract_lets
    | with_reducible first
      | exact fun h => h | assumption | apply keep_ite | apply pumpGo_oneHeld | apply upPort_oneHeld
      | apply keep_then
        first | apply pumpGo_oneHeld | apply upPort_oneHeld
    | dsimp -zeta only
    | split

theorem execAck_oneHeld (p : Port) (next : BitVec 16) {s : State} : s.oneHeld → (execAck p next s).OneHeld := by
  delta execAck
  repeat' first
    | extract_lets
    | with_reducible first
      | exact fun h => h | assumption | apply keep_ite | apply keep_resIte | apply next_oneHeld
      | apply ackTo_oneHeld
      | apply keep_then
        first | apply next_oneHeld | apply ackTo_oneHeld
    | dsimp -zeta only
    | split

theorem replay_oneHeld (p : Port) {s : State} : s.oneHeld → (State.replay p s).oneHeld := by
  delta replay
  repeat' first
    | extract_lets
    | with_reducible first
      | exact fun h => h | assumption | apply keep_ite | apply keep_fstIte | apply count_oneHeld
      | apply portFall_oneHeld | apply upPort_oneHeld | apply parcelOut_oneHeld | apply each_oneHeld
      | apply keep_then
        first
        | apply count_oneHeld | apply portFall_oneHeld | apply upPort_oneHeld | apply parcelOut_oneHeld
        | apply each_oneHeld
    | refine fun _ (_ : State) => ?_
    | dsimp -zeta only
    | split

theorem execNak_oneHeld (p : Port) (next : BitVec 16) {s : State} : s.oneHeld → (execNak p next s).OneHeld := by
  delta execNak
  repeat' first
    | extract_lets
    | with_reducible first
      | exact fun h => h | assumption | apply keep_ite | apply keep_resIte | apply next_oneHeld
      | apply replay_oneHeld | apply ackTo_oneHeld
      | apply keep_then
        first | apply next_oneHeld | apply replay_oneHeld | apply ackTo_oneHeld
    | dsimp -zeta only
    | split

theorem execAckSend_oneHeld (p : Port) {s : State} : s.oneHeld → (execAckSend p s).OneHeld := by
  delta execAckSend
  repeat' first
    | extract_lets
    | with_reducible first
      | exact fun h => h | assumption | apply keep_ite | apply keep_resIte | apply next_oneHeld
      | apply upPort_oneHeld | apply sendAck_oneHeld
      | apply keep_then
        first | apply next_oneHeld | apply upPort_oneHeld | apply sendAck_oneHeld
    | dsimp -zeta only
    | split

theorem execReplayTimeout_oneHeld (p : Port) {s : State} : s.oneHeld → (execReplayTimeout p s).OneHeld := by
  delta execReplayTimeout
  repeat' first
    | extract_lets
    | with_reducible first
      | exact fun h => h | assumption | apply keep_ite | apply keep_resIte | apply next_oneHeld
      | apply replay_oneHeld
      | apply keep_then
        first | apply next_oneHeld | apply replay_oneHeld
    | dsimp -zeta only
    | split

theorem cfgServe_oneHeld (p : Port) (tag : Nat) {f : State → State} (hf : ∀ t, t.oneHeld → (f t).oneHeld) (h : s.oneHeld) :
    (cfgServe p tag f s).oneHeld := by
  unfold cfgServe
  refine ite_oneHeld h ?_
  split
  · exact parcel_oneHeld _ _ _ h
  · exact hf s h

theorem cfgAnswer_oneHeld (p : Port) (tag status : Nat) (data : List Word) {s : State} : s.oneHeld → (State.cfgAnswer p tag status data s).oneHeld := by
  delta cfgAnswer
  repeat' first
    | extract_lets
    | with_reducible first
      | exact fun h => h | assumption | apply keep_ite | apply parcel_oneHeld | apply upPort_oneHeld
      | apply keep_then
        first | apply parcel_oneHeld | apply upPort_oneHeld
    | dsimp -zeta only
    | split

theorem execCfgRd_oneHeld (p : Port) (seq tag : BitVec 16) (addr : Word) (count : Byte) {s : State} : s.oneHeld → (execCfgRd p seq tag addr count s).OneHeld := by
  delta execCfgRd
  repeat' first
    | extract_lets
    | with_reducible first
      | exact fun h => h | assumption | apply keep_ite | apply keep_resIte | apply keep_fstIte | apply next_oneHeld
      | apply cfgAnswer_oneHeld | apply rxParcel_oneHeld | apply cfgServe_oneHeld
      | apply keep_then
        first | apply next_oneHeld | apply cfgAnswer_oneHeld | apply rxParcel_oneHeld | apply cfgServe_oneHeld
    | refine fun (_ : State) => ?_
    | dsimp -zeta only
    | split

theorem execCfgWr_oneHeld (p : Port) (seq tag : BitVec 16) (addr : Word) (data : List Word) {s : State} : s.oneHeld → (execCfgWr p seq tag addr data s).OneHeld := by
  delta execCfgWr
  repeat' first
    | with_reducible first
      | exact fun h => h | assumption | apply keep_ite | apply keep_resIte | apply keep_fstIte | apply next_oneHeld
      | apply cfgAnswer_oneHeld | apply upPort_oneHeld | apply rxParcel_oneHeld | apply cfgServe_oneHeld
      | apply keep_then
        first
        | apply next_oneHeld | apply cfgAnswer_oneHeld | apply upPort_oneHeld | apply rxParcel_oneHeld
        | apply cfgServe_oneHeld
    | extract_lets
    | refine fun (_ : State) => ?_
    | dsimp -zeta only
    | split

set_option smartUnfolding false in
theorem identReply_oneHeld (p : Port) (status : Nat) (data : List Word) {s : State} : s.oneHeld → (State.identReply p status data s).oneHeld := by
  delta identReply
  repeat' first
    | extract_lets
    | with_reducible first
      | exact fun h => h | assumption | apply keep_ite | apply count_oneHeld | apply upPort_oneHeld
      | apply miswired_oneHeld
      | apply keep_then
        first | apply count_oneHeld | apply upPort_oneHeld | apply miswired_oneHeld
    | refine keep_list ?_ fun _ _ => ?_
    | dsimp -zeta only
    | split

set_option smartUnfolding false in
theorem execCfgRsp_oneHeld (p : Port) (seq tag : BitVec 16) (status : Byte) (data : List Word) {s : State} : s.oneHeld → (execCfgRsp p seq tag status data s).OneHeld := by
  delta execCfgRsp
  repeat' first
    | extract_lets
    | with_reducible first
      | exact fun h => h | assumption | apply keep_ite | apply keep_resIte | apply keep_fstIte | apply next_oneHeld
      | apply identReply_oneHeld | apply wr_oneHeld | apply cfgPost_oneHeld | apply rxParcel_oneHeld
      | apply keep_then
        first
        | apply next_oneHeld | apply identReply_oneHeld | apply wr_oneHeld | apply cfgPost_oneHeld
        | apply rxParcel_oneHeld
    | refine keep_opt ?_ fun _ => ?_
    | refine keep_some (fun _ => ?_) fun _ => ?_
    | refine fun (_ : State) => ?_
    | dsimp -zeta only
    | split

set_option smartUnfolding false in
theorem execCfgTimeout_oneHeld (p : Port) {s : State} : s.oneHeld → (execCfgTimeout p s).OneHeld := by
  delta execCfgTimeout
  repeat' first
    | extract_lets
    | with_reducible first
      | exact fun h => h | assumption | apply keep_ite | apply keep_resIte | apply next_oneHeld
      | apply parcel_oneHeld | apply upPort_oneHeld | apply cfgPost_oneHeld
      | apply keep_then
        first | apply next_oneHeld | apply parcel_oneHeld | apply upPort_oneHeld | apply cfgPost_oneHeld
    | refine keep_opt ?_ fun _ => ?_
    | refine keep_some (fun _ => ?_) fun _ => ?_
    | dsimp -zeta only
    | split

theorem cfgHost_oneHeld (p : Port) (msg : Nat) (data : List Word) {s : State} : s.oneHeld → (State.cfgHost p msg data s).oneHeld := by
  delta cfgHost
  repeat' first
    | extract_lets
    | with_reducible first
      | exact fun h => h | assumption | apply keep_ite | apply setF_oneHeld | apply advance_oneHeld
      | apply cfgStart_oneHeld
      | apply keep_then
        first | apply setF_oneHeld | apply advance_oneHeld | apply cfgStart_oneHeld
    | dsimp -zeta only
    | split

theorem execCfgRead_oneHeld (p : Port) {s : State} : s.oneHeld → (execCfgRead p s).OneHeld := by
  delta execCfgRead
  repeat' first
    | extract_lets
    | with_reducible first
      | exact fun h => h | assumption | apply keep_ite | apply keep_resIte | apply next_oneHeld
      | apply cfgHost_oneHeld
      | apply keep_then
        first | apply next_oneHeld | apply cfgHost_oneHeld
    | dsimp -zeta only
    | split

theorem execCfgWrite_oneHeld (p : Port) {s : State} : s.oneHeld → (execCfgWrite p s).OneHeld := by
  delta execCfgWrite
  repeat' first
    | extract_lets
    | with_reducible first
      | exact fun h => h | assumption | apply keep_ite | apply keep_resIte | apply next_oneHeld
      | apply cfgHost_oneHeld
      | apply keep_then
        first | apply next_oneHeld | apply cfgHost_oneHeld
    | dsimp -zeta only
    | split

theorem execRetrain_oneHeld (p : Port) {s : State} : s.oneHeld → (execRetrain p s).OneHeld := by
  delta execRetrain
  repeat' first
    | extract_lets
    | with_reducible first
      | exact fun h => h | assumption | apply keep_ite | apply keep_resIte | apply next_oneHeld | apply setB_oneHeld
      | apply portTrain_oneHeld | apply portDown_oneHeld
      | apply keep_then
        first | apply next_oneHeld | apply setB_oneHeld | apply portTrain_oneHeld | apply portDown_oneHeld
    | dsimp -zeta only
    | split

theorem execPortCntClr_oneHeld (p : Port) (h : s.oneHeld) : (execPortCntClr p s).OneHeld := by
  apply next_oneHeld
  repeat' first
    | with_reducible first
      | assumption | apply next_oneHeld | apply ite_oneHeld | apply resIte_oneHeld | apply upPort_oneHeld
      | apply wr_oneHeld
    | extract_lets
    | split

theorem execLaneCntClr_oneHeld (n : Lane) {s : State} : s.oneHeld → (execLaneCntClr n s).OneHeld := by
  delta execLaneCntClr
  repeat' first
    | extract_lets
    | with_reducible first
      | exact fun h => h | assumption | apply keep_ite | apply keep_resIte | apply next_oneHeld | apply wr_oneHeld
      | apply keep_then
        first | apply next_oneHeld | apply wr_oneHeld
    | dsimp -zeta only
    | split

set_option smartUnfolding false in
theorem execAuxData_oneHeld (seq stream : BitVec 16) (sidx : Word) (data : List Byte) {s : State} : s.oneHeld → (execAuxData seq stream sidx data s).OneHeld := by
  delta execAuxData
  repeat' first
    | with_reducible first
      | exact fun h => h | assumption | apply keep_ite | apply keep_resIte | apply keep_fstIte | apply next_oneHeld
      | apply upHost_oneHeld | apply count_oneHeld | apply assigned_oneHeld | apply rxParcel_oneHeld
      | apply keep_then
        first
        | apply next_oneHeld | apply upHost_oneHeld | apply count_oneHeld | apply assigned_oneHeld
        | apply rxParcel_oneHeld
    | extract_lets
    | refine keep_opt ?_ fun _ => ?_
    | refine keep_some (fun _ => ?_) fun _ => ?_
    | refine fun (_ : State) => ?_
    | dsimp -zeta only
    | split

theorem execRopeUp_oneHeld (h : s.oneHeld) : (execRopeUp s).OneHeld := by
  apply resIte_oneHeld
  repeat' first
    | with_reducible first
      | assumption | apply next_oneHeld | apply ite_oneHeld | apply resIte_oneHeld | apply twinPost_oneHeld
      | apply upTwin_oneHeld | apply setPair_oneHeld | apply setF_oneHeld | apply sendCfg_oneHeld
      | apply putCfgDigest_oneHeld | apply setB_oneHeld
    | extract_lets
    | split

theorem execHandover_oneHeld (h : s.oneHeld) : (execHandover s).OneHeld := by
  apply resIte_oneHeld
  repeat' first
    | with_reducible first
      | assumption | apply next_oneHeld | apply ite_oneHeld | apply resIte_oneHeld | apply twinPost_oneHeld
      | apply takeSend_oneHeld
    | extract_lets
    | split

theorem execConfirmSolo_oneHeld (h : s.oneHeld) : (execConfirmSolo s).OneHeld := by
  apply resIte_oneHeld
  repeat' first
    | with_reducible first
      | assumption | apply next_oneHeld | apply ite_oneHeld | apply resIte_oneHeld | apply twinPost_oneHeld
      | apply setF_oneHeld | apply upTwin_oneHeld | apply gridHome_oneHeld | apply setPair_oneHeld
    | extract_lets
    | split

theorem execReleaseLead_oneHeld (h : s.oneHeld) : (execReleaseLead s).OneHeld := by
  apply resIte_oneHeld
  repeat' first
    | with_reducible first
      | assumption | apply next_oneHeld | apply ite_oneHeld | apply resIte_oneHeld | apply twinPost_oneHeld
      | apply setF_oneHeld | apply upTwin_oneHeld | apply gridHome_oneHeld | apply setPair_oneHeld
    | extract_lets
    | split

theorem execRoleCfgWrite_oneHeld (v : Fin 4) (h : s.oneHeld) : (execRoleCfgWrite v s).OneHeld := by
  apply resIte_oneHeld
  repeat' first
    | with_reducible first
      | assumption | apply next_oneHeld | apply ite_oneHeld | apply resIte_oneHeld | apply setB_oneHeld
      | apply setF_oneHeld | apply setPair_oneHeld
    | extract_lets
    | split

set_option smartUnfolding false in
theorem execTwinTimeSend_oneHeld {s : State} : s.oneHeld → (execTwinTimeSend s).OneHeld := by
  delta execTwinTimeSend
  repeat' first
    | extract_lets
    | with_reducible first
      | exact fun h => h | assumption | apply keep_ite | apply keep_resIte | apply next_oneHeld
      | apply upTwin_oneHeld | apply cell_oneHeld
      | apply keep_then
        first | apply next_oneHeld | apply upTwin_oneHeld | apply cell_oneHeld
    | refine keep_opt ?_ fun _ => ?_
    | refine keep_some (fun _ => ?_) fun _ => ?_
    | dsimp -zeta only
    | split

theorem putSkew_oneHeld (x : Nat × Nat) {s : State} : s.oneHeld → (State.putSkew x s).oneHeld := by
  delta putSkew
  repeat' first
    | extract_lets
    | with_reducible first
      | exact fun h => h | assumption | apply keep_ite | apply wr_oneHeld
      | apply keep_then
        first | apply wr_oneHeld
    | dsimp -zeta only
    | split

theorem copyGo_oneHeld (total : Nat) : ∀ (k pos : Nat) (l : List Nat) {s : State}, s.oneHeld →
    (copyGo total k pos l s).oneHeld
  | 0, _, _, _, h => h
  | k + 1, pos, [], _, h => ite_oneHeld (ctl_oneHeld _ _ h) h
  | k + 1, pos, c :: l, _, h =>
    copyGo_oneHeld total k _ _ (upTwin_oneHeld _ (parcel_oneHeld _ _ _ (ite_oneHeld (ctl_oneHeld _ _ h) h)))

theorem joinCopy_oneHeld (h : s.oneHeld) : (State.joinCopy s).oneHeld := by
  apply wr_oneHeld
  repeat' first
    | with_reducible first
      | assumption | apply ite_oneHeld | apply upTwin_oneHeld | apply flushCache_oneHeld | apply copyGo_oneHeld
      | apply wr_oneHeld
    | extract_lets
    | split

theorem sendRtts_oneHeld {s : State} : s.oneHeld → (State.sendRtts s).oneHeld := by
  delta sendRtts
  repeat' first
    | extract_lets
    | with_reducible first
      | exact fun h => h | assumption | apply keep_ite | apply keep_fstIte | apply ctl_oneHeld
      | apply upTwin_oneHeld | apply each_oneHeld
      | apply keep_then
        first | apply ctl_oneHeld | apply upTwin_oneHeld | apply each_oneHeld
    | refine fun _ (_ : State) => ?_
    | dsimp -zeta only
    | split

theorem timeJudge_oneHeld (d2 delay2 : Int) {s : State} : s.oneHeld → (State.timeJudge d2 delay2 s).oneHeld := by
  delta timeJudge
  repeat' first
    | extract_lets
    | with_reducible first
      | exact fun h => h | assumption | apply keep_ite | apply wr_oneHeld | apply upTwin_oneHeld
      | apply report_oneHeld
      | apply keep_then
        first | apply wr_oneHeld | apply upTwin_oneHeld | apply report_oneHeld
    | dsimp -zeta only
    | split

theorem judgeSkew_oneHeld (h : s.oneHeld) : (State.judgeSkew s).oneHeld := by
  apply ite_oneHeld
  repeat' first
    | with_reducible first
      | assumption | apply ite_oneHeld | apply upTwin_oneHeld | apply putSkew_oneHeld | apply report_oneHeld
    | extract_lets
    | split

theorem execTwinSkewCheck_oneHeld {s : State} : s.oneHeld → (execTwinSkewCheck s).OneHeld := by
  delta execTwinSkewCheck
  repeat' first
    | extract_lets
    | with_reducible first
      | exact fun h => h | assumption | apply keep_ite | apply keep_resIte | apply next_oneHeld
      | apply judgeSkew_oneHeld | apply sendRtts_oneHeld
      | apply keep_then
        first | apply next_oneHeld | apply judgeSkew_oneHeld | apply sendRtts_oneHeld
    | dsimp -zeta only
    | split

theorem execTwinTake_oneHeld (m : TakeMsg) {s : State} : s.oneHeld → (execTwinTake m s).OneHeld := by
  delta execTwinTake
  repeat' first
    | extract_lets
    | with_reducible first
      | exact fun h => h | assumption | apply keep_ite | apply keep_resIte | apply next_oneHeld
      | apply upTwin_oneHeld | apply takeSend_oneHeld
      | apply keep_then
        first | apply next_oneHeld | apply upTwin_oneHeld | apply takeSend_oneHeld
    | dsimp -zeta only
    | split

theorem rxTwin_oneHeld (seq : BitVec 16) {f : State → State} (hf : ∀ t, t.oneHeld → (f t).oneHeld) (h : s.oneHeld) :
    (s.rxTwin seq f).oneHeld := rxParcel_oneHeld _ _ (fun _ g => shp_oneHeld hf g) h

theorem execTwinObj_oneHeld (seq : BitVec 16) (addr : BitVec 64) (len crc : Word) {s : State} : s.oneHeld → (execTwinObj seq addr len crc s).OneHeld := by
  delta execTwinObj
  repeat' first
    | extract_lets
    | with_reducible first
      | exact fun h => h | assumption | apply keep_ite | apply keep_resIte | apply keep_fstIte | apply next_oneHeld
      | apply upTwin_oneHeld | apply rxTwin_oneHeld
      | apply keep_then
        first | apply next_oneHeld | apply upTwin_oneHeld | apply rxTwin_oneHeld
    | refine fun (_ : State) => ?_
    | dsimp -zeta only
    | split

set_option smartUnfolding false in
theorem execTwinFwd_oneHeld (seq : BitVec 16) (ofs : Word) (data : List Byte) {s : State} : s.oneHeld → (execTwinFwd seq ofs data s).OneHeld := by
  delta execTwinFwd
  repeat' first
    | extract_lets
    | with_reducible first
      | exact fun h => h | assumption | apply keep_ite | apply keep_resIte | apply keep_fstIte | apply next_oneHeld
      | apply wrBytes_oneHeld | apply rxTwin_oneHeld
      | apply keep_then
        first | apply next_oneHeld | apply wrBytes_oneHeld | apply rxTwin_oneHeld
    | refine keep_opt ?_ fun _ => ?_
    | refine keep_some (fun _ => ?_) fun _ => ?_
    | refine fun (_ : State) => ?_
    | dsimp -zeta only
    | split

theorem execTwinLdg_oneHeld (seq : BitVec 16) (ofs : Word) (cells : List DWord) {s : State} : s.oneHeld → (execTwinLdg seq ofs cells s).OneHeld := by
  delta execTwinLdg
  repeat' first
    | extract_lets
    | with_reducible first
      | exact fun h => h | assumption | apply keep_ite | apply keep_resIte | apply keep_fstIte | apply next_oneHeld
      | apply cellWrite_oneHeld | apply rxTwin_oneHeld | apply each_oneHeld
      | apply keep_then
        first | apply next_oneHeld | apply cellWrite_oneHeld | apply rxTwin_oneHeld | apply each_oneHeld
    | refine fun _ (_ : State) => ?_
    | refine fun (_ : State) => ?_
    | dsimp -zeta only
    | split

set_option smartUnfolding false in
theorem adoptStop_oneHeld (m : StopMsg) {s : State} : s.oneHeld → (State.adoptStop m s).oneHeld := by
  delta adoptStop
  repeat' first
    | extract_lets
    | with_reducible first
      | exact fun h => h | assumption | apply keep_ite | apply restore_oneHeld | apply upBe_oneHeld
      | apply keep_then
        first | apply restore_oneHeld | apply upBe_oneHeld
    | refine keep_opt ?_ fun _ => ?_
    | refine keep_some (fun _ => ?_) fun _ => ?_
    | dsimp -zeta only
    | split

theorem execTwinStop_oneHeld (seq : BitVec 16) (m : StopMsg) {s : State} : s.oneHeld → (execTwinStop seq m s).OneHeld := by
  delta execTwinStop
  repeat' first
    | extract_lets
    | with_reducible first
      | exact fun h => h | assumption | apply keep_ite | apply keep_resIte | apply keep_fstIte | apply next_oneHeld
      | apply adoptStop_oneHeld | apply rxTwin_oneHeld
      | apply keep_then
        first | apply next_oneHeld | apply adoptStop_oneHeld | apply rxTwin_oneHeld
    | refine fun (_ : State) => ?_
    | dsimp -zeta only
    | split

theorem execTwinDrift_oneHeld (seq : BitVec 16) (head : Byte) (m00 m01 m10 m11 ox oy : Word) {s : State} : s.oneHeld → (execTwinDrift seq head m00 m01 m10 m11 ox oy s).OneHeld := by
  delta execTwinDrift
  repeat' first
    | extract_lets
    | with_reducible first
      | exact fun h => h | assumption | apply keep_ite | apply keep_resIte | apply keep_fstIte | apply next_oneHeld
      | apply wr_oneHeld | apply upHead_oneHeld | apply driftLoad_oneHeld | apply rxTwin_oneHeld
      | apply each_oneHeld
      | apply keep_then
        first
        | apply next_oneHeld | apply wr_oneHeld | apply upHead_oneHeld | apply driftLoad_oneHeld
        | apply rxTwin_oneHeld | apply each_oneHeld
    | refine fun _ (_ : State) => ?_
    | refine fun (_ : State) => ?_
    | dsimp -zeta only
    | split

theorem execTwinZero_oneHeld (seq : BitVec 16) (first count : Word) {s : State} : s.oneHeld → (execTwinZero seq first count s).OneHeld := by
  delta execTwinZero
  repeat' first
    | extract_lets
    | with_reducible first
      | exact fun h => h | assumption | apply keep_ite | apply keep_resIte | apply keep_fstIte | apply next_oneHeld
      | apply upLdg_oneHeld | apply mem_oneHeld | apply rxTwin_oneHeld
      | apply keep_then
        first | apply next_oneHeld | apply upLdg_oneHeld | apply mem_oneHeld | apply rxTwin_oneHeld
    | refine fun (_ : State) => ?_
    | dsimp -zeta only
    | split

theorem execTwinState_oneHeld (seq : BitVec 16) (m : StateMsg) {s : State} : s.oneHeld → (execTwinState seq m s).OneHeld := by
  delta execTwinState
  repeat' first
    | extract_lets
    | with_reducible first
      | exact fun h => h | assumption | apply keep_ite | apply keep_resIte | apply keep_fstIte | apply next_oneHeld
      | apply upLdg_oneHeld | apply rxTwin_oneHeld
      | apply keep_then
        first | apply next_oneHeld | apply upLdg_oneHeld | apply rxTwin_oneHeld
    | refine fun (_ : State) => ?_
    | dsimp -zeta only
    | split

theorem execTwinJoined_oneHeld (seq : BitVec 16) {s : State} : s.oneHeld → (execTwinJoined seq s).OneHeld := by
  delta execTwinJoined
  repeat' first
    | extract_lets
    | with_reducible first
      | exact fun h => h | assumption | apply keep_ite | apply keep_resIte | apply keep_fstIte | apply next_oneHeld
      | apply joined_oneHeld | apply rxTwin_oneHeld
      | apply keep_then
        first | apply next_oneHeld | apply joined_oneHeld | apply rxTwin_oneHeld
    | refine fun (_ : State) => ?_
    | dsimp -zeta only
    | split

theorem stopBeams_oneHeld (l : List Beam) {s : State} : s.oneHeld → (State.stopBeams l s).oneHeld := by
  delta stopBeams
  repeat' first
    | extract_lets
    | with_reducible first
      | exact fun h => h | assumption | apply keep_ite | apply keep_fstIte | apply askStop_oneHeld
      | apply each_oneHeld
      | apply keep_then
        first | apply askStop_oneHeld | apply each_oneHeld
    | refine fun _ (_ : State) => ?_
    | dsimp -zeta only
    | split

theorem execFaultReport_oneHeld (id unit : Byte) (detail : BitVec 16) {s : State} : s.oneHeld → (execFaultReport id unit detail s).OneHeld := by
  delta execFaultReport
  repeat' first
    | extract_lets
    | with_reducible first
      | exact fun h => h | assumption | apply keep_ite | apply keep_resIte | apply keep_fstIte | apply next_oneHeld
      | apply stopBeams_oneHeld | apply shpStop_oneHeld | apply bootBreak_oneHeld | apply report_oneHeld
      | apply ifc_oneHeld
      | apply keep_then
        first
        | apply next_oneHeld | apply stopBeams_oneHeld | apply shpStop_oneHeld | apply bootBreak_oneHeld
        | apply report_oneHeld | apply ifc_oneHeld
    | refine fun (_ : State) => ?_
    | dsimp -zeta only
    | split

theorem execFltAck_oneHeld (cls : Fin 4) (seq : Byte) {s : State} : s.oneHeld → (execFltAck cls seq s).OneHeld := by
  delta execFltAck
  repeat' first
    | extract_lets
    | with_reducible first
      | exact fun h => h | assumption | apply keep_ite | apply keep_resIte | apply next_oneHeld | apply wr_oneHeld
      | apply upLatch_oneHeld | apply setB_oneHeld
      | apply keep_then
        first | apply next_oneHeld | apply wr_oneHeld | apply upLatch_oneHeld | apply setB_oneHeld
    | dsimp -zeta only
    | split

theorem asForced_oneHeld (id unit : Nat) (detail : Word) {f : State → State} (hf : ∀ t, t.oneHeld → (f t).oneHeld)
    (h : s.oneHeld) : (s.asForced id unit detail f).oneHeld := by
  have hf := hf _ (upHub_oneHeld (fun h => { h with pending := [] }) h)
  exact upHub_oneHeld _ (ite_oneHeld hf (report_oneHeld _ _ _ hf))

theorem forceSram_oneHeld (id u : Nat) {s : State} : s.oneHeld → (s.forceSram id u).oneHeld := by
  delta forceSram
  dsimp -zeta only
  extract_lets l
  cases l[s.fresh.1.toNat % max 1 l.length]? with
  | none => exact fresh_oneHeld
  | some f =>
    exact keep_then (asForced_oneHeld _ _ _ fun t => keep_ite (stopBeams_oneHeld _) fun h => h) fresh_oneHeld

set_option smartUnfolding false in
theorem stopAll_oneHeld {s : State} : s.oneHeld → (State.stopAll s).oneHeld := by
  delta stopAll
  repeat' first
    | extract_lets
    | with_reducible first
      | exact fun h => h | assumption | apply keep_ite | apply keep_fstIte | apply askStop_oneHeld
      | apply each_oneHeld
      | apply keep_then
        first | apply askStop_oneHeld | apply each_oneHeld
    | refine keep_opt ?_ fun _ => ?_
    | refine keep_some (fun _ => ?_) fun _ => ?_
    | refine fun _ (_ : State) => ?_
    | dsimp -zeta only
    | split

theorem openVisit_oneHeld (b : Beam) (f : Visit → Visit) {s : State} : s.oneHeld → (State.openVisit b f s).oneHeld := by
  delta openVisit
  repeat' first
    | extract_lets
    | with_reducible first
      | exact fun h => h | assumption | apply keep_ite | apply upLdg_oneHeld
      | apply keep_then
        first | apply upLdg_oneHeld
    | dsimp -zeta only
    | split

theorem fold_oneHeld (d : Dom) {s : State} : s.oneHeld → (State.fold d s).oneHeld := by
  delta fold
  repeat' first
    | extract_lets
    | with_reducible first
      | exact fun h => h | assumption | apply keep_ite | apply upDom_oneHeld | apply wr_oneHeld
      | apply keep_then
        first | apply upDom_oneHeld | apply wr_oneHeld
    | dsimp -zeta only
    | split

theorem setRate_oneHeld (d : Dom) (v : Word) {s : State} : s.oneHeld → (State.setRate d v s).oneHeld := by
  delta setRate
  repeat' first
    | extract_lets
    | with_reducible first
      | exact fun h => h | assumption | apply keep_ite | apply wr_oneHeld | apply fold_oneHeld
      | apply keep_then
        first | apply wr_oneHeld | apply fold_oneHeld
    | dsimp -zeta only
    | split

theorem execShadowClose_oneHeld {s : State} : s.oneHeld → (execShadowClose s).OneHeld := by
  delta execShadowClose
  repeat' first
    | extract_lets
    | with_reducible first
      | exact fun h => h | assumption | apply keep_ite | apply keep_resIte | apply next_oneHeld
      | apply upHub_oneHeld
      | apply keep_then
        first | apply next_oneHeld | apply upHub_oneHeld
    | dsimp -zeta only
    | split

set_option smartUnfolding false in
theorem execQuietPeriodEnd_oneHeld {s : State} : s.oneHeld → (execQuietPeriodEnd s).OneHeld := by
  delta execQuietPeriodEnd
  repeat' first
    | extract_lets
    | with_reducible first
      | exact fun h => h | assumption | apply keep_ite | apply keep_resIte | apply next_oneHeld
      | apply setSticky_oneHeld | apply upHub_oneHeld | apply refresh_oneHeld | apply irq_oneHeld
      | apply upDev_oneHeld
      | apply keep_then
        first
        | apply next_oneHeld | apply setSticky_oneHeld | apply upHub_oneHeld | apply refresh_oneHeld
        | apply irq_oneHeld | apply upDev_oneHeld
    | refine keep_opt ?_ fun _ => ?_
    | refine keep_some (fun _ => ?_) fun _ => ?_
    | dsimp -zeta only
    | split

theorem execFltCntClr_oneHeld {s : State} : s.oneHeld → (execFltCntClr s).OneHeld := by
  delta execFltCntClr
  repeat' first
    | extract_lets
    | with_reducible first
      | exact fun h => h | assumption | apply keep_ite | apply keep_resIte | apply next_oneHeld | apply wr_oneHeld
      | apply keep_then
        first | apply next_oneHeld | apply wr_oneHeld
    | dsimp -zeta only
    | split

theorem execLadderKey_oneHeld (key : BitVec 16) {s : State} : s.oneHeld → (execLadderKey key s).OneHeld := by
  delta execLadderKey
  repeat' first
    | extract_lets
    | with_reducible first
      | exact fun h => h | assumption | apply keep_ite | apply keep_resIte | apply next_oneHeld
      | apply upHub_oneHeld
      | apply keep_then
        first | apply next_oneHeld | apply upHub_oneHeld
    | dsimp -zeta only
    | split

theorem followOn_oneHeld (k : Nat) {s : State} : s.oneHeld → (State.followOn k s).oneHeld := by
  delta followOn
  repeat' first
    | extract_lets
    | with_reducible first
      | exact fun h => h | assumption | apply keep_ite | apply upHub_oneHeld | apply stepBegin_oneHeld
      | apply keep_then
        first | apply upHub_oneHeld | apply stepBegin_oneHeld
    | dsimp -zeta only
    | split

theorem stepFollow_oneHeld (p : Nat) {s : State} : s.oneHeld → (State.stepFollow p s).oneHeld := by
  delta stepFollow
  repeat' first
    | extract_lets
    | with_reducible first
      | exact fun h => h | assumption | apply keep_ite | apply keep_fstIte | apply followOn_oneHeld
      | apply shp_oneHeld | apply each_oneHeld
      | apply keep_then
        first | apply followOn_oneHeld | apply shp_oneHeld | apply each_oneHeld
    | refine fun _ (_ : State) => ?_
    | refine fun (_ : State) => ?_
    | dsimp -zeta only
    | split

theorem followDone_oneHeld (k : Nat) {s : State} : s.oneHeld → (State.followDone k s).oneHeld := by
  delta followDone
  repeat' first
    | extract_lets
    | with_reducible first
      | exact fun h => h | assumption | apply keep_ite | apply upHub_oneHeld | apply stepBegin_oneHeld
      | apply keep_then
        first | apply upHub_oneHeld | apply stepBegin_oneHeld
    | dsimp -zeta only
    | split

theorem stepEnd_oneHeld (x : LadderRun) (code : Nat) {s : State} : s.oneHeld → (State.stepEnd x code s).oneHeld := by
  delta stepEnd
  repeat' first
    | extract_lets
    | with_reducible first
      | exact fun h => h | assumption | apply keep_ite | apply keep_fstIte | apply upHub_oneHeld
      | apply quietRestart_oneHeld | apply ladderPost_oneHeld | apply stepFollow_oneHeld | apply followDone_oneHeld
      | apply shp_oneHeld
      | apply keep_then
        first
        | apply upHub_oneHeld | apply quietRestart_oneHeld | apply ladderPost_oneHeld | apply stepFollow_oneHeld
        | apply followDone_oneHeld | apply shp_oneHeld
    | refine fun (_ : State) => ?_
    | dsimp -zeta only
    | split

set_option smartUnfolding false in
theorem execLadderStepDone_oneHeld (func : Fin 16) (unit : Fin 64) (ok : Bool) {s : State} : s.oneHeld → (execLadderStepDone func unit ok s).OneHeld := by
  delta execLadderStepDone
  repeat' first
    | extract_lets
    | with_reducible first
      | exact fun h => h | assumption | apply keep_ite | apply keep_resIte | apply next_oneHeld
      | apply stepEnd_oneHeld
      | apply keep_then
        first | apply next_oneHeld | apply stepEnd_oneHeld
    | refine keep_opt ?_ fun _ => ?_
    | refine keep_some (fun _ => ?_) fun _ => ?_
    | dsimp -zeta only
    | split

set_option smartUnfolding false in
theorem execRecordWrite_oneHeld {s : State} : s.oneHeld → (execRecordWrite s).OneHeld := by
  delta execRecordWrite
  repeat' first
    | extract_lets
    | with_reducible first
      | exact fun h => h | assumption | apply keep_ite | apply keep_resIte | apply next_oneHeld
      | apply recBegin_oneHeld | apply upRec_oneHeld
      | apply keep_then
        first | apply next_oneHeld | apply recBegin_oneHeld | apply upRec_oneHeld
    | refine keep_list ?_ fun _ _ => ?_
    | dsimp -zeta only
    | split

theorem execOptimeSave_oneHeld {s : State} : s.oneHeld → (execOptimeSave s).OneHeld := by
  delta execOptimeSave
  repeat' first
    | extract_lets
    | with_reducible first
      | exact fun h => h | assumption | apply keep_ite | apply keep_resIte | apply keep_fstIte | apply next_oneHeld
      | apply saveCb_oneHeld | apply shp_oneHeld
      | apply keep_then
        first | apply next_oneHeld | apply saveCb_oneHeld | apply shp_oneHeld
    | refine fun (_ : State) => ?_
    | dsimp -zeta only
    | split

set_option smartUnfolding false in
theorem execCrcModeEnd_oneHeld {s : State} : s.oneHeld → (execCrcModeEnd s).OneHeld := by
  delta execCrcModeEnd
  repeat' first
    | extract_lets
    | with_reducible first
      | exact fun h => h | assumption | apply keep_ite | apply keep_resIte | apply next_oneHeld
      | apply upRec_oneHeld
      | apply keep_then
        first | apply next_oneHeld | apply upRec_oneHeld
    | refine keep_opt ?_ fun _ => ?_
    | refine keep_some (fun _ => ?_) fun _ => ?_
    | dsimp -zeta only
    | split

theorem unfreeze_oneHeld {s : State} : s.oneHeld → (State.unfreeze s).oneHeld := by
  delta unfreeze
  repeat' first
    | extract_lets
    | with_reducible first
      | exact fun h => h | assumption | apply keep_ite | apply upRec_oneHeld | apply setF_oneHeld
      | apply keep_then
        first | apply upRec_oneHeld | apply setF_oneHeld
    | dsimp -zeta only
    | split

theorem execFreeze_oneHeld (p : Sys2Proof.Path) (on : Bool) (h : s.oneHeld) : (execFreeze p on s).OneHeld := by
  apply resIte_oneHeld
  repeat' first
    | with_reducible first
      | assumption | apply next_oneHeld | apply ite_oneHeld | apply resIte_oneHeld | apply upRec_oneHeld
      | apply setB_oneHeld | apply freezeNow_oneHeld | apply unfreeze_oneHeld | apply clrB_oneHeld
    | extract_lets
    | split

theorem execFreezeTimeout_oneHeld {s : State} : s.oneHeld → (execFreezeTimeout s).OneHeld := by
  delta execFreezeTimeout
  repeat' first
    | extract_lets
    | with_reducible first
      | exact fun h => h | assumption | apply keep_ite | apply keep_resIte | apply next_oneHeld | apply irq_oneHeld
      | apply setB_oneHeld | apply unfreeze_oneHeld
      | apply keep_then
        first | apply next_oneHeld | apply irq_oneHeld | apply setB_oneHeld | apply unfreeze_oneHeld
    | dsimp -zeta only
    | split

theorem execRecRdData_oneHeld (_p : Sys2Proof.Path) {s : State} : s.oneHeld → (execRecRdData _p s).OneHeld := by
  delta execRecRdData
  repeat' first
    | extract_lets
    | with_reducible first
      | exact fun h => h | assumption | apply keep_ite | apply keep_resIte | apply next_oneHeld
      | apply upHost_oneHeld | apply wr_oneHeld
      | apply keep_then
        first | apply next_oneHeld | apply upHost_oneHeld | apply wr_oneHeld
    | dsimp -zeta only
    | split

theorem execRecClrKey_oneHeld (p : Sys2Proof.Path) (key : BitVec 16) {s : State} : s.oneHeld → (execRecClrKey p key s).OneHeld := by
  delta execRecClrKey
  repeat' first
    | extract_lets
    | with_reducible first
      | exact fun h => h | assumption | apply keep_ite | apply keep_resIte | apply next_oneHeld
      | apply upRec_oneHeld
      | apply keep_then
        first | apply next_oneHeld | apply upRec_oneHeld
    | dsimp -zeta only
    | split

theorem execClrRing_oneHeld (p : Sys2Proof.Path) {s : State} : s.oneHeld → (execClrRing p s).OneHeld := by
  delta execClrRing
  repeat' first
    | extract_lets
    | with_reducible first
      | exact fun h => h | assumption | apply keep_ite | apply keep_resIte | apply next_oneHeld
      | apply recFinish_oneHeld | apply upRec_oneHeld | apply commitRecord_oneHeld | apply setB_oneHeld
      | apply keep_then
        first
        | apply next_oneHeld | apply recFinish_oneHeld | apply upRec_oneHeld | apply commitRecord_oneHeld
        | apply setB_oneHeld
    | dsimp -zeta only
    | split

theorem execClrCairn_oneHeld (p : Sys2Proof.Path) {s : State} : s.oneHeld → (execClrCairn p s).OneHeld := by
  delta execClrCairn
  repeat' first
    | extract_lets
    | with_reducible first
      | exact fun h => h | assumption | apply keep_ite | apply keep_resIte | apply next_oneHeld
      | apply recFinish_oneHeld | apply upRec_oneHeld | apply commitRecord_oneHeld | apply setB_oneHeld
      | apply keep_then
        first
        | apply next_oneHeld | apply recFinish_oneHeld | apply upRec_oneHeld | apply commitRecord_oneHeld
        | apply setB_oneHeld
    | dsimp -zeta only
    | split

theorem execRecCntClr_oneHeld {s : State} : s.oneHeld → (execRecCntClr s).OneHeld := by
  delta execRecCntClr
  repeat' first
    | extract_lets
    | with_reducible first
      | exact fun h => h | assumption | apply keep_ite | apply keep_resIte | apply next_oneHeld | apply wr_oneHeld
      | apply keep_then
        first | apply next_oneHeld | apply wr_oneHeld
    | dsimp -zeta only
    | split

theorem execVwarnFall_oneHeld {s : State} : s.oneHeld → (execVwarnFall s).OneHeld := by
  delta execVwarnFall
  repeat' first
    | extract_lets
    | with_reducible first
      | exact fun h => h | assumption | apply keep_ite | apply keep_resIte | apply next_oneHeld
      | apply upDev_oneHeld | apply count_oneHeld | apply upPwr_oneHeld | apply irq_oneHeld | apply upRec_oneHeld
      | apply report_oneHeld
      | apply keep_then
        first
        | apply next_oneHeld | apply upDev_oneHeld | apply count_oneHeld | apply upPwr_oneHeld | apply irq_oneHeld
        | apply upRec_oneHeld | apply report_oneHeld
    | dsimp -zeta only
    | split

set_option smartUnfolding false in
theorem powerRecord_oneHeld (level low : Nat) (at_ : Option Nat) {s : State} : s.oneHeld → (State.powerRecord level low at_ s).oneHeld := by
  delta powerRecord
  repeat' first
    | extract_lets
    | with_reducible first
      | exact fun h => h | assumption | apply keep_ite | apply record_oneHeld | apply fresh_oneHeld
      | apply keep_then
        first | apply record_oneHeld | apply fresh_oneHeld
    | refine keep_sndProd (fun _ _ => ?_) ?_
    | refine keep_opt ?_ fun _ => ?_
    | refine keep_some (fun _ => ?_) fun _ => ?_
    | dsimp -zeta only
    | split

set_option smartUnfolding false in
theorem execVwarnRise_oneHeld (low : BitVec 16) {s : State} : s.oneHeld → (execVwarnRise low s).OneHeld := by
  delta execVwarnRise
  repeat' first
    | extract_lets
    | with_reducible first
      | exact fun h => h | assumption | apply keep_ite | apply keep_resIte | apply next_oneHeld
      | apply upDev_oneHeld | apply powerRecord_oneHeld | apply wr_oneHeld | apply irq_oneHeld | apply upPwr_oneHeld
      | apply upRec_oneHeld
      | apply keep_then
        first
        | apply next_oneHeld | apply upDev_oneHeld | apply powerRecord_oneHeld | apply wr_oneHeld
        | apply irq_oneHeld | apply upPwr_oneHeld | apply upRec_oneHeld
    | refine keep_opt ?_ fun _ => ?_
    | refine keep_some (fun _ => ?_) fun _ => ?_
    | dsimp -zeta only
    | split

theorem execVstopFall_oneHeld {s : State} : s.oneHeld → (execVstopFall s).OneHeld := by
  delta execVstopFall
  repeat' first
    | extract_lets
    | with_reducible first
      | exact fun h => h | assumption | apply keep_ite | apply keep_resIte | apply next_oneHeld
      | apply upDev_oneHeld | apply count_oneHeld | apply upPwr_oneHeld | apply report_oneHeld | apply irq_oneHeld
      | apply stopAll_oneHeld
      | apply keep_then
        first
        | apply next_oneHeld | apply upDev_oneHeld | apply count_oneHeld | apply upPwr_oneHeld
        | apply report_oneHeld | apply irq_oneHeld | apply stopAll_oneHeld
    | dsimp -zeta only
    | split

theorem execVstopRise_oneHeld (low : BitVec 16) {s : State} : s.oneHeld → (execVstopRise low s).OneHeld := by
  delta execVstopRise
  repeat' first
    | extract_lets
    | with_reducible first
      | exact fun h => h | assumption | apply keep_ite | apply keep_resIte | apply next_oneHeld
      | apply upDev_oneHeld | apply upPwr_oneHeld | apply powerRecord_oneHeld
      | apply keep_then
        first | apply next_oneHeld | apply upDev_oneHeld | apply upPwr_oneHeld | apply powerRecord_oneHeld
    | dsimp -zeta only
    | split

theorem execVresetRise_oneHeld {s : State} : s.oneHeld → (execVresetRise s).OneHeld := by
  delta execVresetRise
  repeat' first
    | extract_lets
    | with_reducible first
      | exact fun h => h | assumption | apply keep_ite | apply keep_resIte | apply next_oneHeld
      | apply leaveReset_oneHeld | apply upDev_oneHeld
      | apply keep_then
        first | apply next_oneHeld | apply leaveReset_oneHeld | apply upDev_oneHeld
    | dsimp -zeta only
    | split

theorem dlAuto_oneHeld {s : State} : s.oneHeld → (State.dlAuto s).oneHeld := by
  delta dlAuto
  repeat' first
    | extract_lets
    | with_reducible first
      | exact fun h => h | assumption | apply keep_ite | apply keep_fstIte | apply dlTrigger_oneHeld
      | apply ifc_oneHeld
      | apply keep_then
        first | apply dlTrigger_oneHeld | apply ifc_oneHeld
    | refine fun (_ : State) => ?_
    | dsimp -zeta only
    | split

theorem roundPublish_oneHeld {s : State} : s.oneHeld → (State.roundPublish s).oneHeld := by
  delta roundPublish
  repeat' first
    | extract_lets
    | with_reducible first
      | exact fun h => h | assumption | apply keep_ite | apply keep_fstIte | apply wr_oneHeld | apply each_oneHeld
      | apply keep_then
        first | apply wr_oneHeld | apply each_oneHeld
    | refine fun _ (_ : State) => ?_
    | dsimp -zeta only
    | split

set_option smartUnfolding false in
theorem roundLevels_oneHeld {s : State} : s.oneHeld → (State.roundLevels s).oneHeld := by
  delta roundLevels
  repeat' first
    | extract_lets
    | with_reducible first
      | exact fun h => h | assumption | apply keep_ite | apply upPwr_oneHeld | apply irq_oneHeld
      | apply report_oneHeld | apply stopAll_oneHeld | apply holdAtEnd_oneHeld
      | apply keep_then
        first
        | apply upPwr_oneHeld | apply irq_oneHeld | apply report_oneHeld | apply stopAll_oneHeld
        | apply holdAtEnd_oneHeld
    | refine keep_opt ?_ fun _ => ?_
    | refine keep_some (fun _ => ?_) fun _ => ?_
    | dsimp -zeta only
    | split

set_option smartUnfolding false in
theorem roundModel_oneHeld {s : State} : s.oneHeld → (State.roundModel s).oneHeld := by
  delta roundModel
  repeat' first
    | extract_lets
    | with_reducible first
      | exact fun h => h | assumption | apply keep_ite | apply keep_fstIte | apply upPwr_oneHeld
      | apply each_oneHeld
      | apply keep_then
        first | apply upPwr_oneHeld | apply each_oneHeld
    | refine fun _ (_ : State) => ?_
    | dsimp -zeta only
    | split

theorem roundChannel_oneHeld (v : Nat → Int) (k : Fin 48) {s : State} : s.oneHeld → (State.roundChannel v k s).oneHeld := by
  delta roundChannel
  repeat' first
    | extract_lets
    | with_reducible first
      | exact fun h => h | assumption | apply keep_ite | apply upPwr_oneHeld | apply wr_oneHeld | apply irq_oneHeld
      | apply report_oneHeld
      | apply keep_then
        first | apply upPwr_oneHeld | apply wr_oneHeld | apply irq_oneHeld | apply report_oneHeld
    | dsimp -zeta only
    | split

theorem roundRails_oneHeld {s : State} : s.oneHeld → (State.roundRails s).oneHeld := by
  delta roundRails
  repeat' first
    | extract_lets
    | with_reducible first
      | exact fun h => h | assumption | apply keep_ite | apply upPwr_oneHeld | apply upTime_oneHeld
      | apply count_oneHeld | apply irq_oneHeld
      | apply keep_then
        first | apply upPwr_oneHeld | apply upTime_oneHeld | apply count_oneHeld | apply irq_oneHeld
    | dsimp -zeta only
    | split

theorem roundChannels_oneHeld (ch : List Int) {s : State} : s.oneHeld → (State.roundChannels ch s).oneHeld := by
  delta roundChannels
  repeat' first
    | extract_lets
    | with_reducible first
      | exact fun h => h | assumption | apply keep_ite | apply keep_fstIte | apply roundChannel_oneHeld
      | apply wr_oneHeld | apply roundRails_oneHeld | apply each_oneHeld
      | apply keep_then
        first | apply roundChannel_oneHeld | apply wr_oneHeld | apply roundRails_oneHeld | apply each_oneHeld
    | refine fun _ (_ : State) => ?_
    | dsimp -zeta only
    | split

theorem execHkRound_oneHeld (ch : List Int) (h : s.oneHeld) : (execHkRound ch s).OneHeld := by
  apply resIte_oneHeld
  repeat' first
    | with_reducible first
      | assumption | apply next_oneHeld | apply ite_oneHeld | apply resIte_oneHeld | apply dlAuto_oneHeld
      | apply roundPublish_oneHeld | apply roundLevels_oneHeld | apply roundModel_oneHeld
      | apply roundChannels_oneHeld | apply wr_oneHeld
    | extract_lets
    | split

theorem execPwrCntClr_oneHeld {s : State} : s.oneHeld → (execPwrCntClr s).OneHeld := by
  delta execPwrCntClr
  repeat' first
    | extract_lets
    | with_reducible first
      | exact fun h => h | assumption | apply keep_ite | apply keep_resIte | apply next_oneHeld | apply wr_oneHeld
      | apply keep_then
        first | apply next_oneHeld | apply wr_oneHeld
    | dsimp -zeta only
    | split

theorem clockLost_oneHeld (which : Nat) {s : State} : s.oneHeld → (State.clockLost which s).oneHeld := by
  delta clockLost
  repeat' first
    | extract_lets
    | with_reducible first
      | exact fun h => h | assumption | apply keep_ite | apply report_oneHeld | apply setB_oneHeld
      | apply kill_oneHeld
      | apply keep_then
        first | apply report_oneHeld | apply setB_oneHeld | apply kill_oneHeld
    | dsimp -zeta only
    | split

theorem execClkLoss_oneHeld (which : Fin 8) {s : State} : s.oneHeld → (execClkLoss which s).OneHeld := by
  delta execClkLoss
  repeat' first
    | extract_lets
    | with_reducible first
      | exact fun h => h | assumption | apply keep_ite | apply keep_resIte | apply next_oneHeld
      | apply clockLost_oneHeld | apply upTime_oneHeld
      | apply keep_then
        first | apply next_oneHeld | apply clockLost_oneHeld | apply upTime_oneHeld
    | dsimp -zeta only
    | split

theorem execRtcStartTimeout_oneHeld {s : State} : s.oneHeld → (execRtcStartTimeout s).OneHeld := by
  delta execRtcStartTimeout
  repeat' first
    | extract_lets
    | with_reducible first
      | exact fun h => h | assumption | apply keep_ite | apply keep_resIte | apply next_oneHeld
      | apply clockLost_oneHeld
      | apply keep_then
        first | apply next_oneHeld | apply clockLost_oneHeld
    | dsimp -zeta only
    | split

theorem execTimeFold_oneHeld {s : State} : s.oneHeld → (execTimeFold s).OneHeld := by
  delta execTimeFold
  repeat' first
    | extract_lets
    | with_reducible first
      | exact fun h => h | assumption | apply keep_ite | apply keep_resIte | apply next_oneHeld | apply fold_oneHeld
      | apply keep_then
        first | apply next_oneHeld | apply fold_oneHeld
    | dsimp -zeta only
    | split

theorem stepDom_oneHeld (d : Dom) (n : Int) {s : State} : s.oneHeld → (State.stepDom d n s).oneHeld := by
  delta stepDom
  repeat' first
    | extract_lets
    | with_reducible first
      | exact fun h => h | assumption | apply keep_ite | apply wr_oneHeld | apply upTime_oneHeld
      | apply keep_then
        first | apply wr_oneHeld | apply upTime_oneHeld
    | dsimp -zeta only
    | split

theorem execTimeOfsWrite_oneHeld (d : Dom) (v : Word) {s : State} : s.oneHeld → (execTimeOfsWrite d v s).OneHeld := by
  delta execTimeOfsWrite
  repeat' first
    | extract_lets
    | with_reducible first
      | exact fun h => h | assumption | apply keep_ite | apply keep_resIte | apply next_oneHeld
      | apply stepDom_oneHeld
      | apply keep_then
        first | apply next_oneHeld | apply stepDom_oneHeld
    | dsimp -zeta only
    | split

theorem execTimeStepWrite_oneHeld (d : Dom) (v : Word) {s : State} : s.oneHeld → (execTimeStepWrite d v s).OneHeld := by
  delta execTimeStepWrite
  repeat' first
    | extract_lets
    | with_reducible first
      | exact fun h => h | assumption | apply keep_ite | apply keep_resIte | apply next_oneHeld
      | apply stepDom_oneHeld | apply wr_oneHeld
      | apply keep_then
        first | apply next_oneHeld | apply stepDom_oneHeld | apply wr_oneHeld
    | dsimp -zeta only
    | split

theorem execTimeSnap_oneHeld {s : State} : s.oneHeld → (execTimeSnap s).OneHeld := by
  delta execTimeSnap
  repeat' first
    | extract_lets
    | with_reducible first
      | exact fun h => h | assumption | apply keep_ite | apply keep_resIte | apply next_oneHeld | apply wr_oneHeld
      | apply keep_then
        first | apply next_oneHeld | apply wr_oneHeld
    | dsimp -zeta only
    | split

theorem upTp_oneHeld (n : Fin 8) (f : PulseOut → PulseOut) {s : State} : s.oneHeld → (State.upTp n f s).oneHeld := by
  delta upTp
  repeat' first
    | extract_lets
    | with_reducible first
      | exact fun h => h | assumption | apply keep_ite | apply upTime_oneHeld
      | apply keep_then
        first | apply upTime_oneHeld
    | dsimp -zeta only
    | split

theorem execTpArm_oneHeld (n : Fin 8) {s : State} : s.oneHeld → (execTpArm n s).OneHeld := by
  delta execTpArm
  repeat' first
    | extract_lets
    | with_reducible first
      | exact fun h => h | assumption | apply keep_ite | apply keep_resIte | apply keep_fstIte | apply next_oneHeld
      | apply upTp_oneHeld | apply setB_oneHeld | apply ifc_oneHeld
      | apply keep_then
        first | apply next_oneHeld | apply upTp_oneHeld | apply setB_oneHeld | apply ifc_oneHeld
    | refine fun (_ : State) => ?_
    | dsimp -zeta only
    | split

theorem execTpulseFire_oneHeld (n : Fin 8) {s : State} : s.oneHeld → (execTpulseFire n s).OneHeld := by
  delta execTpulseFire
  repeat' first
    | extract_lets
    | with_reducible first
      | exact fun h => h | assumption | apply keep_ite | apply keep_resIte | apply next_oneHeld | apply upTp_oneHeld
      | apply count_oneHeld
      | apply keep_then
        first | apply next_oneHeld | apply upTp_oneHeld | apply count_oneHeld
    | dsimp -zeta only
    | split

theorem execTpulseEnd_oneHeld (n : Fin 8) {s : State} : s.oneHeld → (execTpulseEnd n s).OneHeld := by
  delta execTpulseEnd
  repeat' first
    | extract_lets
    | with_reducible first
      | exact fun h => h | assumption | apply keep_ite | apply keep_resIte | apply next_oneHeld | apply upTp_oneHeld
      | apply keep_then
        first | apply next_oneHeld | apply upTp_oneHeld
    | dsimp -zeta only
    | split

set_option smartUnfolding false in
theorem execTcRawPop_oneHeld (n : Fin 8) {s : State} : s.oneHeld → (execTcRawPop n s).OneHeld := by
  delta execTcRawPop
  repeat' first
    | extract_lets
    | with_reducible first
      | exact fun h => h | assumption | apply keep_ite | apply keep_resIte | apply next_oneHeld
      | apply upHost_oneHeld | apply upTime_oneHeld | apply wr_oneHeld
      | apply keep_then
        first | apply next_oneHeld | apply upHost_oneHeld | apply upTime_oneHeld | apply wr_oneHeld
    | refine keep_list ?_ fun _ _ => ?_
    | dsimp -zeta only
    | split

theorem servoLock_oneHeld (d : Dom) (o : Int) {s : State} : s.oneHeld → (State.servoLock d o s).oneHeld := by
  delta servoLock
  repeat' first
    | extract_lets
    | with_reducible first
      | exact fun h => h | assumption | apply keep_ite | apply upDom_oneHeld | apply setDomSt_oneHeld
      | apply keep_then
        first | apply upDom_oneHeld | apply setDomSt_oneHeld
    | dsimp -zeta only
    | split

theorem ptpDiscard_oneHeld (d : Dom) {s : State} : s.oneHeld → (State.ptpDiscard d s).oneHeld := by
  delta ptpDiscard
  repeat' first
    | extract_lets
    | with_reducible first
      | exact fun h => h | assumption | apply keep_ite | apply count_oneHeld
      | apply keep_then
        first | apply count_oneHeld
    | dsimp -zeta only
    | split

theorem execPtpAnnounce_oneHeld (d : Dom) (m : AnnounceMsg) {s : State} : s.oneHeld → (execPtpAnnounce d m s).OneHeld := by
  delta execPtpAnnounce
  repeat' first
    | extract_lets
    | with_reducible first
      | exact fun h => h | assumption | apply keep_ite | apply keep_resIte | apply next_oneHeld
      | apply upDom_oneHeld | apply setDomSt_oneHeld | apply ptpDiscard_oneHeld
      | apply keep_then
        first | apply next_oneHeld | apply upDom_oneHeld | apply setDomSt_oneHeld | apply ptpDiscard_oneHeld
    | dsimp -zeta only
    | split

set_option smartUnfolding false in
theorem execPtpEventSend_oneHeld (d : Dom) (e : PtpEvent) {s : State} : s.oneHeld → (execPtpEventSend d e s).OneHeld := by
  delta execPtpEventSend
  repeat' first
    | extract_lets
    | with_reducible first
      | exact fun h => h | assumption | apply keep_ite | apply keep_resIte | apply next_oneHeld
      | apply upDom_oneHeld | apply ethOut_oneHeld
      | apply keep_then
        first | apply next_oneHeld | apply upDom_oneHeld | apply ethOut_oneHeld
    | dsimp -zeta only
    | split

theorem setPath_oneHeld (d : Dom) (v : Int) {s : State} : s.oneHeld → (State.setPath d v s).oneHeld := by
  delta setPath
  repeat' first
    | extract_lets
    | with_reducible first
      | exact fun h => h | assumption | apply keep_ite | apply wr_oneHeld | apply upDom_oneHeld
      | apply keep_then
        first | apply wr_oneHeld | apply upDom_oneHeld
    | dsimp -zeta only
    | split

set_option smartUnfolding false in
theorem execPtpResponse_oneHeld (d : Dom) (r : PtpResp) {s : State} : s.oneHeld → (execPtpResponse d r s).OneHeld := by
  have hd : s.oneHeld → (s.ptpDiscard d).oneHeld := ptpDiscard_oneHeld d
  have hp (v : Int) : s.oneHeld → (s.setPath d v).oneHeld := setPath_oneHeld d v
  delta execPtpResponse
  extract_lets x p2p e
  refine keep_then next_oneHeld (keep_ite (fun h => h) ?_)
  cases r with
  | delayResp =>
    refine keep_some (fun _ => ?_) fun _ => hd
    refine keep_some (fun _ => ?_) fun _ => hd
    exact keep_ite (hp _) hd
  | pdelayResp => exact keep_some (fun _ => keep_ite (hp _) hd) fun _ => hd

theorem execTimeServoWrite_oneHeld (d : Dom) (v : Word) {s : State} : s.oneHeld → (execTimeServoWrite d v s).OneHeld := by
  delta execTimeServoWrite
  repeat' first
    | extract_lets
    | with_reducible first
      | exact fun h => h | assumption | apply keep_ite | apply keep_resIte | apply next_oneHeld | apply wr_oneHeld
      | apply ptpRestart_oneHeld | apply setDomSt_oneHeld | apply upDom_oneHeld
      | apply keep_then
        first
        | apply next_oneHeld | apply wr_oneHeld | apply ptpRestart_oneHeld | apply setDomSt_oneHeld
        | apply upDom_oneHeld
    | dsimp -zeta only
    | split

theorem execArpRequest_oneHeld (eth : Fin 2) (ip : Word) (who : ArpSender) {s : State} : s.oneHeld → (execArpRequest eth ip who s).OneHeld := by
  delta execArpRequest
  repeat' first
    | extract_lets
    | with_reducible first
      | exact fun h => h | assumption | apply keep_ite | apply keep_resIte | apply next_oneHeld
      | apply ethOut_oneHeld
      | apply keep_then
        first | apply next_oneHeld | apply ethOut_oneHeld
    | dsimp -zeta only
    | split

set_option smartUnfolding false in
theorem execRtcSet_oneHeld {s : State} : s.oneHeld → (execRtcSet s).OneHeld := by
  delta execRtcSet
  repeat' first
    | extract_lets
    | with_reducible first
      | exact fun h => h | assumption | apply keep_ite | apply keep_resIte | apply next_oneHeld | apply setB_oneHeld
      | apply upTime_oneHeld
      | apply keep_then
        first | apply next_oneHeld | apply setB_oneHeld | apply upTime_oneHeld
    | refine keep_opt ?_ fun _ => ?_
    | refine keep_some (fun _ => ?_) fun _ => ?_
    | dsimp -zeta only
    | split

theorem execRtcSnap_oneHeld {s : State} : s.oneHeld → (execRtcSnap s).OneHeld := by
  delta execRtcSnap
  repeat' first
    | extract_lets
    | with_reducible first
      | exact fun h => h | assumption | apply keep_ite | apply keep_resIte | apply next_oneHeld | apply wr_oneHeld
      | apply keep_then
        first | apply next_oneHeld | apply wr_oneHeld
    | dsimp -zeta only
    | split

theorem execRtcTrimStep_oneHeld {s : State} : s.oneHeld → (execRtcTrimStep s).OneHeld := by
  delta execRtcTrimStep
  repeat' first
    | extract_lets
    | with_reducible first
      | exact fun h => h | assumption | apply keep_ite | apply keep_resIte | apply next_oneHeld
      | apply upTime_oneHeld
      | apply keep_then
        first | apply next_oneHeld | apply upTime_oneHeld
    | dsimp -zeta only
    | split

theorem execBackupBrownout_oneHeld {s : State} : s.oneHeld → (execBackupBrownout s).OneHeld := by
  delta execBackupBrownout
  repeat' first
    | extract_lets
    | with_reducible first
      | exact fun h => h | assumption | apply keep_ite | apply keep_resIte | apply next_oneHeld | apply setB_oneHeld
      | apply upTime_oneHeld | apply regs_oneHeld
      | apply keep_then
        first | apply next_oneHeld | apply setB_oneHeld | apply upTime_oneHeld | apply regs_oneHeld
    | dsimp -zeta only
    | split

theorem execDmaGo_oneHeld (c : Fin 4) {s : State} : s.oneHeld → (execDmaGo c s).OneHeld := by
  delta execDmaGo
  repeat' first
    | extract_lets
    | with_reducible first
      | exact fun h => h | assumption | apply keep_ite | apply keep_resIte | apply next_oneHeld
      | apply upHost_oneHeld | apply setF_oneHeld | apply setB_oneHeld
      | apply keep_then
        first | apply next_oneHeld | apply upHost_oneHeld | apply setF_oneHeld | apply setB_oneHeld
    | dsimp -zeta only
    | split

set_option smartUnfolding false in
theorem ringByte_oneHeld (b : Beam) (a : Nat) {s : State} : s.oneHeld → (State.ringByte b a s).2.oneHeld := by
  delta ringByte
  repeat' first
    | extract_lets
    | with_reducible first
      | exact fun h => h | assumption | apply keep_ite | apply fresh_oneHeld | apply upBe_oneHeld
      | apply keep_then
        first | apply fresh_oneHeld | apply upBe_oneHeld
    | refine keep_sndProd (fun _ _ => ?_) ?_
    | refine keep_opt ?_ fun _ => ?_
    | refine keep_some (fun _ => ?_) fun _ => ?_
    | dsimp -zeta only
    | split

theorem hostByte_oneHeld (a : Nat) (h : s.oneHeld) : (State.hostByte s a).2.oneHeld := by
  delta hostByte
  repeat' first
    | with_reducible first
      | assumption | apply ite_oneHeld | apply ringByte_oneHeld | apply fresh_oneHeld
    | extract_lets
    | split

theorem hostBytes_oneHeld : ∀ (n a : Nat) {s : State}, s.oneHeld → (hostBytes a n s).2.oneHeld
  | 0, _, _, h => h
  | n + 1, a, _, h => hostBytes_oneHeld n (a + 1) (hostByte_oneHeld a h)

theorem dmaEnd_oneHeld (c : Fin 4) (code : Nat) (refused : Bool) (h : s.oneHeld) :
    (State.dmaEnd c code refused s).oneHeld := by
  apply ifc_oneHeld
  repeat' first
    | with_reducible first
      | assumption | intro _ | apply ite_oneHeld | apply fstIte_oneHeld | apply upHost_oneHeld | apply setF_oneHeld
      | apply ifc_oneHeld | apply setB_oneHeld | apply clrB_oneHeld | apply assigned_oneHeld
    | extract_lets
    | split

set_option smartUnfolding false in
theorem hostPut_oneHeld (a : Nat) (v : Byte) {s : State} : s.oneHeld → (State.hostPut a v s).oneHeld := by
  delta hostPut
  repeat' first
    | extract_lets
    | with_reducible first
      | exact fun h => h | assumption | apply keep_ite | apply upBe_oneHeld | apply wrByte_oneHeld
      | apply setB_oneHeld | apply setValidity_oneHeld
      | apply keep_then
        first | apply upBe_oneHeld | apply wrByte_oneHeld | apply setB_oneHeld | apply setValidity_oneHeld
    | dsimp -zeta only
    | split

theorem hostPuts_oneHeld : ∀ (l : List Byte) (a : Nat) {s : State}, s.oneHeld → (s.hostPuts a l).oneHeld
  | [], _, _, h => h
  | v :: l, a, _, h => hostPuts_oneHeld l (a + 1) (hostPut_oneHeld a v h)

set_option smartUnfolding false in
theorem execDmaDone_oneHeld (c : Fin 4) (e : XferEnd) (host : List Byte) {s : State} :
    s.oneHeld → (execDmaDone c e host s).OneHeld := by
  delta execDmaDone
  refine keep_opt (fun h => h) fun x => ?_
  dsimp -zeta only
  extract_lets ok n s₁ code addrs refused
  have h₁ : s.oneHeld → s₁.oneHeld := by
    unfold s₁
    cases e with
    | corrected | uncorrectable => exact count_oneHeld _ _ _ _
    | _ => exact fun h => h
  exact keep_resIte
    (keep_then (dmaEnd_oneHeld _ _ _) (keep_then (upHost_oneHeld _) (keep_then (hostBytes_oneHeld _ _) h₁)))
    (keep_then (dmaEnd_oneHeld _ _ _) (keep_then (hostPuts_oneHeld _ _) h₁))

theorem execAuxEnable_oneHeld (v : Bool) {s : State} : s.oneHeld → (execAuxEnable v s).OneHeld := by
  delta execAuxEnable
  repeat' first
    | extract_lets
    | with_reducible first
      | exact fun h => h | assumption | apply keep_ite | apply keep_resIte | apply next_oneHeld | apply wr_oneHeld
      | apply upHost_oneHeld
      | apply keep_then
        first | apply next_oneHeld | apply wr_oneHeld | apply upHost_oneHeld
    | dsimp -zeta only
    | split

theorem execHostWinLoWrite_oneHeld (v : Word) {s : State} : s.oneHeld → (execHostWinLoWrite v s).OneHeld := by
  delta execHostWinLoWrite
  repeat' first
    | extract_lets
    | with_reducible first
      | exact fun h => h | assumption | apply keep_ite | apply keep_resIte | apply next_oneHeld | apply wr_oneHeld
      | apply upHost_oneHeld
      | apply keep_then
        first | apply next_oneHeld | apply wr_oneHeld | apply upHost_oneHeld
    | dsimp -zeta only
    | split

theorem execFlr_oneHeld {s : State} : s.oneHeld → (execFlr s).OneHeld := by
  delta execFlr
  repeat' first
    | extract_lets
    | with_reducible first
      | exact fun h => h | assumption | apply keep_ite | apply keep_resIte | apply keep_fstIte | apply next_oneHeld
      | apply wr_oneHeld | apply upHost_oneHeld | apply count_oneHeld | apply each_oneHeld
      | apply keep_then
        first
        | apply next_oneHeld | apply wr_oneHeld | apply upHost_oneHeld | apply count_oneHeld | apply each_oneHeld
    | refine fun _ (_ : State) => ?_
    | dsimp -zeta only
    | split

theorem patchStage_oneHeld (addr len : Nat) {s : State} : s.oneHeld → (State.patchStage addr len s).1.oneHeld := by
  delta patchStage
  repeat' first
    | extract_lets
    | with_reducible first
      | exact fun h => h | assumption | apply keep_ite | apply keep_fstIte | apply upMram_oneHeld
      | apply keep_then
        first | apply upMram_oneHeld
    | dsimp -zeta only
    | split

set_option smartUnfolding false in
theorem mbxServe_oneHeld (tag : Nat) (dig : Word) (code : Nat) (p : List Byte) {s : State} : s.oneHeld → (State.mbxServe tag dig code p s).oneHeld := by
  delta mbxServe
  repeat' first
    | extract_lets
    | with_reducible first
      | exact fun h => h | assumption | apply keep_ite | apply mbxDone_oneHeld | apply patchStage_oneHeld
      | apply upMram_oneHeld | apply fresh_oneHeld | apply upHost_oneHeld
      | apply keep_then
        first
        | apply mbxDone_oneHeld | apply patchStage_oneHeld | apply upMram_oneHeld | apply fresh_oneHeld
        | apply upHost_oneHeld
    | refine keep_fstProd (fun _ _ => ?_) ?_
    | refine keep_sndProd (fun _ _ => ?_) ?_
    | dsimp -zeta only
    | split

theorem mbxPlace_oneHeld (tag code : Nat) (payload : List Byte) {s : State} : s.oneHeld → (State.mbxPlace tag code payload s).oneHeld := by
  delta mbxPlace
  repeat' first
    | extract_lets
    | with_reducible first
      | exact fun h => h | assumption | apply keep_ite | apply keep_fstIte | apply wr_oneHeld | apply each_oneHeld
      | apply keep_then
        first | apply wr_oneHeld | apply each_oneHeld
    | refine fun _ (_ : State) => ?_
    | dsimp -zeta only
    | split

theorem execSysLock_oneHeld {s : State} : s.oneHeld → (execSysLock s).OneHeld := by
  delta execSysLock
  repeat' first
    | extract_lets
    | with_reducible first
      | exact fun h => h | assumption | apply keep_ite | apply keep_resIte | apply next_oneHeld
      | apply upDev_oneHeld
      | apply keep_then
        first | apply next_oneHeld | apply upDev_oneHeld
    | dsimp -zeta only
    | split

set_option smartUnfolding false in
theorem execTapInstruction_oneHeld (i : TapInstr) {s : State} : s.oneHeld → (execTapInstruction i s).OneHeld := by
  delta execTapInstruction
  repeat' first
    | extract_lets
    | with_reducible first
      | exact fun h => h | assumption | apply keep_ite | apply keep_resIte | apply next_oneHeld
      | apply upHost_oneHeld
      | apply keep_then
        first | apply next_oneHeld | apply upHost_oneHeld
    | dsimp -zeta only
    | split

set_option smartUnfolding false in
theorem latchRead_oneHeld (p : Sys2Proof.Path) (a : Nat) {s : State} : s.oneHeld → (State.latchRead p a s).oneHeld := by
  delta latchRead
  repeat' first
    | extract_lets
    | with_reducible first
      | exact fun h => h | assumption | apply keep_ite | apply upHost_oneHeld
      | apply keep_then
        first | apply upHost_oneHeld
    | refine keep_opt ?_ fun _ => ?_
    | refine keep_some (fun _ => ?_) fun _ => ?_
    | dsimp -zeta only
    | split

theorem execLoReadLatch_oneHeld (path : Sys2Proof.Path) (addr : BitVec 24) (h : s.oneHeld) :
    (execLoReadLatch path addr s).OneHeld := by
  apply resIte_oneHeld
  repeat' first
    | with_reducible first
      | assumption | apply next_oneHeld | apply ite_oneHeld | apply resIte_oneHeld | apply upHost_oneHeld
      | apply latchRead_oneHeld | apply execBeEvPop_oneHeld | apply execRecRdData_oneHeld | apply execTcRawPop_oneHeld
    | extract_lets
    | split

set_option smartUnfolding false in
theorem store_oneHeld (a : Nat) (v : Word) {s : State} : s.oneHeld → (State.store a v s).oneHeld := by
  delta store
  repeat' first
    | extract_lets
    | with_reducible first
      | exact fun h => h | assumption | apply keep_ite | apply wmod_oneHeld
      | apply keep_then
        first | apply wmod_oneHeld
    | refine keep_opt ?_ fun _ => ?_
    | refine keep_some (fun _ => ?_) fun _ => ?_
    | dsimp -zeta only
    | split

theorem writeBe_oneHeld (b : Beam) (a r : Nat) (v : Word) {s : State} : s.oneHeld → (State.writeBe b a r v s).oneHeld := by
  delta writeBe
  repeat' first
    | extract_lets
    | with_reducible first
      | exact fun h => h | assumption | apply keep_ite | apply keep_fstIte | apply next_oneHeld
      | apply execEvClr_oneHeld | apply execBeCntClr_oneHeld | apply store_oneHeld | apply ifc_oneHeld
      | apply run_oneHeld
      | apply keep_then
        first
        | apply next_oneHeld | apply execEvClr_oneHeld | apply execBeCntClr_oneHeld | apply store_oneHeld
        | apply ifc_oneHeld | apply run_oneHeld
    | refine fun (_ : State) => ?_
    | dsimp -zeta only
    | split

theorem writePcu_oneHeld (b : Beam) (a r : Nat) (v : Word) {s : State} : s.oneHeld → (State.writePcu b a r v s).oneHeld := by
  delta writePcu
  repeat' first
    | extract_lets
    | with_reducible first
      | exact fun h => h | assumption | apply keep_ite | apply keep_fstIte | apply next_oneHeld
      | apply store_oneHeld | apply execPcuCntClr_oneHeld | apply execPcuCapArm_oneHeld | apply ifc_oneHeld
      | apply run_oneHeld
      | apply keep_then
        first
        | apply next_oneHeld | apply store_oneHeld | apply execPcuCntClr_oneHeld | apply execPcuCapArm_oneHeld
        | apply ifc_oneHeld | apply run_oneHeld
    | refine fun (_ : State) => ?_
    | dsimp -zeta only
    | split

set_option smartUnfolding false in
theorem writeLe_oneHeld (k : Engine) (a r : Nat) (v : Word) {s : State} : s.oneHeld → (State.writeLe k a r v s).oneHeld := by
  delta writeLe
  repeat' first
    | extract_lets
    | with_reducible first
      | exact fun h => h | assumption | apply keep_ite | apply keep_fstIte | apply next_oneHeld
      | apply execLeCntClr_oneHeld | apply store_oneHeld | apply execLoad_oneHeld | apply execEnable_oneHeld
      | apply execDisable_oneHeld | apply execCoefSwap_oneHeld | apply leResult_oneHeld | apply execTrTrig_oneHeld
      | apply execTrArm_oneHeld | apply setB_oneHeld | apply ifc_oneHeld | apply run_oneHeld
      | apply keep_then
        first
        | apply next_oneHeld | apply execLeCntClr_oneHeld | apply store_oneHeld | apply execLoad_oneHeld
        | apply execEnable_oneHeld | apply execDisable_oneHeld | apply execCoefSwap_oneHeld | apply leResult_oneHeld
        | apply execTrTrig_oneHeld | apply execTrArm_oneHeld | apply setB_oneHeld | apply ifc_oneHeld
        | apply run_oneHeld
    | refine keep_lit ?_ fun _ => ?_
    | refine fun (_ : State) => ?_
    | dsimp -zeta only
    | split

theorem vmaxFit_oneHeld (n : Axis) {s : State} : s.oneHeld → (State.vmaxFit n s).oneHeld := by
  delta vmaxFit
  repeat' first
    | extract_lets
    | with_reducible first
      | exact fun h => h | assumption | apply keep_ite | apply wr_oneHeld
      | apply keep_then
        first | apply wr_oneHeld
    | dsimp -zeta only
    | split

set_option smartUnfolding false in
theorem writeAx_oneHeld (a r : Nat) (v : Word) {s : State} : s.oneHeld → (State.writeAx a r v s).oneHeld := by
  delta writeAx
  repeat' first
    | extract_lets
    | with_reducible first
      | exact fun h => h | assumption | apply keep_ite | apply keep_fstIte | apply next_oneHeld
      | apply store_oneHeld | apply upAx_oneHeld | apply vmaxFit_oneHeld | apply execAxAppend_oneHeld
      | apply execAxReplace_oneHeld | apply execAxStop_oneHeld | apply execAxResume_oneHeld
      | apply execAxHome_oneHeld | apply execSetPos_oneHeld | apply execEl1Move_oneHeld | apply execEl1Set_oneHeld
      | apply execAxClear_oneHeld | apply axResult_oneHeld | apply run_oneHeld
      | apply keep_then
        first
        | apply next_oneHeld | apply store_oneHeld | apply upAx_oneHeld | apply vmaxFit_oneHeld
        | apply execAxAppend_oneHeld | apply execAxReplace_oneHeld | apply execAxStop_oneHeld
        | apply execAxResume_oneHeld | apply execAxHome_oneHeld | apply execSetPos_oneHeld
        | apply execEl1Move_oneHeld | apply execEl1Set_oneHeld | apply execAxClear_oneHeld | apply axResult_oneHeld
        | apply run_oneHeld
    | refine keep_lit ?_ fun _ => ?_
    | refine fun (_ : State) => ?_
    | dsimp -zeta only
    | split

set_option smartUnfolding false in
theorem writeLdg_oneHeld (a r : Nat) (v : Word) {s : State} : s.oneHeld → (State.writeLdg a r v s).oneHeld := by
  delta writeLdg
  repeat' first
    | extract_lets
    | with_reducible first
      | exact fun h => h | assumption | apply keep_ite | apply keep_fstIte | apply next_oneHeld | apply setB_oneHeld
      | apply execLdgCntClr_oneHeld | apply execLdgFlush_oneHeld | apply execLdgClear_oneHeld
      | apply execLdgApply_oneHeld | apply execLdgImport_oneHeld | apply store_oneHeld | apply execLdgQryGo_oneHeld
      | apply ifc_oneHeld | apply run_oneHeld
      | apply keep_then
        first
        | apply next_oneHeld | apply setB_oneHeld | apply execLdgCntClr_oneHeld | apply execLdgFlush_oneHeld
        | apply execLdgClear_oneHeld | apply execLdgApply_oneHeld | apply execLdgImport_oneHeld
        | apply store_oneHeld | apply execLdgQryGo_oneHeld | apply ifc_oneHeld | apply run_oneHeld
    | refine keep_lit ?_ fun _ => ?_
    | refine fun (_ : State) => ?_
    | dsimp -zeta only
    | split

theorem writeZone_oneHeld (a r : Nat) (v : Word) {s : State} : s.oneHeld → (State.writeZone a r v s).oneHeld := by
  delta writeZone
  repeat' first
    | extract_lets
    | with_reducible first
      | exact fun h => h | assumption | apply keep_ite | apply keep_fstIte | apply next_oneHeld
      | apply execZoneCntClr_oneHeld | apply setB_oneHeld | apply store_oneHeld | apply ifc_oneHeld
      | apply run_oneHeld
      | apply keep_then
        first
        | apply next_oneHeld | apply execZoneCntClr_oneHeld | apply setB_oneHeld | apply store_oneHeld
        | apply ifc_oneHeld | apply run_oneHeld
    | refine fun (_ : State) => ?_
    | dsimp -zeta only
    | split

theorem fabRebase_oneHeld {s : State} : s.oneHeld → (State.fabRebase s).oneHeld := by
  delta fabRebase
  repeat' first
    | extract_lets
    | with_reducible first
      | exact fun h => h | assumption | apply keep_ite | apply keep_fstIte | apply upFab_oneHeld
      | apply each_oneHeld
      | apply keep_then
        first | apply upFab_oneHeld | apply each_oneHeld
    | refine fun _ (_ : State) => ?_
    | dsimp -zeta only
    | split

theorem shadowKeep_oneHeld {s : State} : s.oneHeld → (State.shadowKeep s).oneHeld := by
  delta shadowKeep
  repeat' first
    | extract_lets
    | with_reducible first
      | exact fun h => h | assumption | apply keep_ite | apply upFab_oneHeld
      | apply keep_then
        first | apply upFab_oneHeld
    | dsimp -zeta only
    | split

theorem writeFab_oneHeld (a r : Nat) (v : Word) {s : State} : s.oneHeld → (State.writeFab a r v s).oneHeld := by
  delta writeFab
  repeat' first
    | extract_lets
    | with_reducible first
      | exact fun h => h | assumption | apply keep_ite | apply keep_fstIte | apply next_oneHeld
      | apply execSwap_oneHeld | apply execFabCntClr_oneHeld | apply fabRebase_oneHeld | apply store_oneHeld
      | apply shadowKeep_oneHeld | apply ifc_oneHeld | apply run_oneHeld
      | apply keep_then
        first
        | apply next_oneHeld | apply execSwap_oneHeld | apply execFabCntClr_oneHeld | apply fabRebase_oneHeld
        | apply store_oneHeld | apply shadowKeep_oneHeld | apply ifc_oneHeld | apply run_oneHeld
    | refine fun (_ : State) => ?_
    | dsimp -zeta only
    | split

theorem writeLane_oneHeld (n : Lane) (a r : Nat) (v : Word) {s : State} : s.oneHeld → (State.writeLane n a r v s).oneHeld := by
  delta writeLane
  repeat' first
    | extract_lets
    | with_reducible first
      | exact fun h => h | assumption | apply keep_ite | apply keep_fstIte | apply next_oneHeld
      | apply execLaneCntClr_oneHeld | apply store_oneHeld | apply ifc_oneHeld | apply run_oneHeld
      | apply keep_then
        first
        | apply next_oneHeld | apply execLaneCntClr_oneHeld | apply store_oneHeld | apply ifc_oneHeld
        | apply run_oneHeld
    | refine fun (_ : State) => ?_
    | dsimp -zeta only
    | split

theorem writePortCtl_oneHeld (p : Port) (a : Nat) (v : Word) {s : State} : s.oneHeld → (State.writePortCtl p a v s).oneHeld := by
  delta writePortCtl
  repeat' first
    | extract_lets
    | with_reducible first
      | exact fun h => h | assumption | apply keep_ite | apply keep_fstIte | apply next_oneHeld
      | apply execPortCntClr_oneHeld | apply setB_oneHeld | apply store_oneHeld | apply portTrain_oneHeld
      | apply portOff_oneHeld | apply execRetrain_oneHeld | apply ifc_oneHeld | apply run_oneHeld
      | apply keep_then
        first
        | apply next_oneHeld | apply execPortCntClr_oneHeld | apply setB_oneHeld | apply store_oneHeld
        | apply portTrain_oneHeld | apply portOff_oneHeld | apply execRetrain_oneHeld | apply ifc_oneHeld
        | apply run_oneHeld
    | refine fun (_ : State) => ?_
    | dsimp -zeta only
    | split

theorem writePort_oneHeld (a r : Nat) (v : Word) {s : State} : s.oneHeld → (State.writePort a r v s).oneHeld := by
  delta writePort
  repeat' first
    | extract_lets
    | with_reducible first
      | exact fun h => h | assumption | apply keep_ite | apply keep_fstIte | apply next_oneHeld
      | apply writePortCtl_oneHeld | apply store_oneHeld | apply execCfgRead_oneHeld | apply execCfgWrite_oneHeld
      | apply run_oneHeld
      | apply keep_then
        first
        | apply next_oneHeld | apply writePortCtl_oneHeld | apply store_oneHeld | apply execCfgRead_oneHeld
        | apply execCfgWrite_oneHeld | apply run_oneHeld
    | refine fun (_ : State) => ?_
    | dsimp -zeta only
    | split

theorem writeLd_oneHeld (a r : Nat) (v : Word) {s : State} : s.oneHeld → (State.writeLd a r v s).oneHeld := by
  delta writeLd
  repeat' first
    | extract_lets
    | with_reducible first
      | exact fun h => h | assumption | apply keep_ite | apply keep_fstIte | apply next_oneHeld
      | apply execRearm_oneHeld | apply store_oneHeld | apply execKillForce_oneHeld | apply execEmitOffWrite_oneHeld
      | apply execLdEnable_oneHeld | apply execLdCntClr_oneHeld | apply ifc_oneHeld | apply run_oneHeld
      | apply keep_then
        first
        | apply next_oneHeld | apply execRearm_oneHeld | apply store_oneHeld | apply execKillForce_oneHeld
        | apply execEmitOffWrite_oneHeld | apply execLdEnable_oneHeld | apply execLdCntClr_oneHeld
        | apply ifc_oneHeld | apply run_oneHeld
    | refine fun (_ : State) => ?_
    | dsimp -zeta only
    | split

set_option smartUnfolding false in
theorem writeCal_oneHeld (a r : Nat) (v : Word) {s : State} : s.oneHeld → (State.writeCal a r v s).oneHeld := by
  delta writeCal
  repeat' first
    | extract_lets
    | with_reducible first
      | exact fun h => h | assumption | apply keep_ite | apply keep_fstIte | apply next_oneHeld
      | apply execCalCntClr_oneHeld | apply store_oneHeld | apply execDlRun_oneHeld | apply execValidate_oneHeld
      | apply execInvalidate_oneHeld | apply execPromote_oneHeld | apply execDrift_oneHeld
      | apply execPcalPoint_oneHeld | apply execPcalEnter_oneHeld | apply execPcalCommit_oneHeld
      | apply execPcalClear_oneHeld | apply calResult_oneHeld | apply recalUpdate_oneHeld | apply ifc_oneHeld
      | apply run_oneHeld | apply each_oneHeld
      | apply keep_then
        first
        | apply next_oneHeld | apply execCalCntClr_oneHeld | apply store_oneHeld | apply execDlRun_oneHeld
        | apply execValidate_oneHeld | apply execInvalidate_oneHeld | apply execPromote_oneHeld
        | apply execDrift_oneHeld | apply execPcalPoint_oneHeld | apply execPcalEnter_oneHeld
        | apply execPcalCommit_oneHeld | apply execPcalClear_oneHeld | apply calResult_oneHeld
        | apply recalUpdate_oneHeld | apply ifc_oneHeld | apply run_oneHeld | apply each_oneHeld
    | refine keep_lit ?_ fun _ => ?_
    | refine fun _ (_ : State) => ?_
    | refine fun (_ : State) => ?_
    | dsimp -zeta only
    | split

set_option smartUnfolding false in
theorem writeTwin_oneHeld (a r : Nat) (v : Word) {s : State} : s.oneHeld → (State.writeTwin a r v s).oneHeld := by
  delta writeTwin
  repeat' first
    | extract_lets
    | with_reducible first
      | exact fun h => h | assumption | apply keep_ite | apply keep_fstIte | apply next_oneHeld
      | apply execRoleCfgWrite_oneHeld | apply setF_oneHeld | apply execRopeUp_oneHeld | apply execHandover_oneHeld
      | apply execConfirmSolo_oneHeld | apply execReleaseLead_oneHeld | apply twinPost_oneHeld | apply store_oneHeld
      | apply run_oneHeld
      | apply keep_then
        first
        | apply next_oneHeld | apply execRoleCfgWrite_oneHeld | apply setF_oneHeld | apply execRopeUp_oneHeld
        | apply execHandover_oneHeld | apply execConfirmSolo_oneHeld | apply execReleaseLead_oneHeld
        | apply twinPost_oneHeld | apply store_oneHeld | apply run_oneHeld
    | refine keep_lit ?_ fun _ => ?_
    | refine fun (_ : State) => ?_
    | dsimp -zeta only
    | split

theorem writeRec_oneHeld (p : Sys2Proof.Path) (a r : Nat) (v : Word) {s : State} : s.oneHeld → (State.writeRec p a r v s).oneHeld := by
  delta writeRec
  repeat' first
    | extract_lets
    | with_reducible first
      | exact fun h => h | assumption | apply keep_ite | apply keep_fstIte | apply next_oneHeld
      | apply execFreeze_oneHeld | apply execClrCairn_oneHeld | apply execClrRing_oneHeld
      | apply execRecCntClr_oneHeld | apply execRecClrKey_oneHeld | apply store_oneHeld | apply run_oneHeld
      | apply ifc_oneHeld
      | apply keep_then
        first
        | apply next_oneHeld | apply execFreeze_oneHeld | apply execClrCairn_oneHeld | apply execClrRing_oneHeld
        | apply execRecCntClr_oneHeld | apply execRecClrKey_oneHeld | apply store_oneHeld | apply run_oneHeld
        | apply ifc_oneHeld
    | refine fun (_ : State) => ?_
    | dsimp -zeta only
    | split

theorem writePwr_oneHeld (a r : Nat) (v : Word) {s : State} : s.oneHeld → (State.writePwr a r v s).oneHeld := by
  delta writePwr
  repeat' first
    | extract_lets
    | with_reducible first
      | exact fun h => h | assumption | apply keep_ite | apply keep_fstIte | apply next_oneHeld
      | apply execPwrCntClr_oneHeld | apply setB_oneHeld | apply store_oneHeld | apply ifc_oneHeld
      | apply run_oneHeld
      | apply keep_then
        first
        | apply next_oneHeld | apply execPwrCntClr_oneHeld | apply setB_oneHeld | apply store_oneHeld
        | apply ifc_oneHeld | apply run_oneHeld
    | refine fun (_ : State) => ?_
    | dsimp -zeta only
    | split

theorem writeHost_oneHeld (a r : Nat) (v : Word) {s : State} : s.oneHeld → (State.writeHost a r v s).oneHeld := by
  delta writeHost
  repeat' first
    | extract_lets
    | with_reducible first
      | exact fun h => h | assumption | apply keep_ite | apply keep_fstIte | apply next_oneHeld
      | apply execHostWinLoWrite_oneHeld | apply execDmaGo_oneHeld | apply store_oneHeld
      | apply execAuxEnable_oneHeld | apply run_oneHeld | apply ifc_oneHeld
      | apply keep_then
        first
        | apply next_oneHeld | apply execHostWinLoWrite_oneHeld | apply execDmaGo_oneHeld | apply store_oneHeld
        | apply execAuxEnable_oneHeld | apply run_oneHeld | apply ifc_oneHeld
    | refine fun (_ : State) => ?_
    | dsimp -zeta only
    | split

theorem sampleLdg_oneHeld (a : Nat) {s : State} : s.oneHeld → (State.sampleLdg a s).oneHeld := by
  delta sampleLdg
  repeat' first
    | extract_lets
    | with_reducible first
      | exact fun h => h | assumption | apply keep_ite | apply upLdg_oneHeld
      | apply keep_then
        first | apply upLdg_oneHeld
    | dsimp -zeta only
    | split

set_option smartUnfolding false in
theorem execBar2Access_oneHeld (write : Bool) (ofs : BitVec 28) (data : Word) (be : BitVec 4) {s : State} : s.oneHeld → (execBar2Access write ofs data be s).OneHeld := by
  delta execBar2Access
  repeat' first
    | extract_lets
    | with_reducible first
      | exact fun h => h | assumption | apply keep_ite | apply keep_resIte | apply keep_fstIte | apply next_oneHeld
      | apply setB_oneHeld | apply hostPut_oneHeld | apply hostBytes_oneHeld | apply upHost_oneHeld
      | apply each_oneHeld
      | apply keep_then
        first
        | apply next_oneHeld | apply setB_oneHeld | apply hostPut_oneHeld | apply hostBytes_oneHeld
        | apply upHost_oneHeld | apply each_oneHeld
    | refine keep_sndProd (fun _ _ => ?_) ?_
    | refine keep_list ?_ fun _ _ => ?_
    | refine fun _ (_ : State) => ?_
    | dsimp -zeta only
    | split

theorem execIlkInputRise_oneHeld (b : Bool) {s : State} : s.oneHeld → (execIlkInputRise b s).OneHeld := by
  delta execIlkInputRise
  repeat' first
    | extract_lets
    | with_reducible first
      | exact fun h => h | assumption | apply keep_ite | apply keep_resIte | apply next_oneHeld
      | apply upLdc_oneHeld | apply ilkLevels_oneHeld
      | apply keep_then
        first | apply next_oneHeld | apply upLdc_oneHeld | apply ilkLevels_oneHeld
    | dsimp -zeta only
    | split

theorem execCalRefEdge_oneHeld (dev : Int) {s : State} : s.oneHeld → (execCalRefEdge dev s).OneHeld := by
  delta execCalRefEdge
  repeat' first
    | extract_lets
    | with_reducible first
      | exact fun h => h | assumption | apply keep_ite | apply keep_resIte | apply next_oneHeld
      | apply upCal_oneHeld | apply wr_oneHeld | apply refLost_oneHeld | apply dlStart_oneHeld
      | apply keep_then
        first
        | apply next_oneHeld | apply upCal_oneHeld | apply wr_oneHeld | apply refLost_oneHeld
        | apply dlStart_oneHeld
    | dsimp -zeta only
    | split

theorem execRtcOscStart_oneHeld {s : State} : s.oneHeld → (execRtcOscStart s).OneHeld := by
  delta execRtcOscStart
  repeat' first
    | extract_lets
    | with_reducible first
      | exact fun h => h | assumption | apply keep_ite | apply keep_resIte | apply next_oneHeld
      | apply upTime_oneHeld
      | apply keep_then
        first | apply next_oneHeld | apply upTime_oneHeld
    | dsimp -zeta only
    | split

theorem execSlewEnd_oneHeld {s : State} : s.oneHeld → (execSlewEnd s).OneHeld := by
  delta execSlewEnd
  repeat' first
    | extract_lets
    | with_reducible first
      | exact fun h => h | assumption | apply keep_ite | apply keep_resIte | apply next_oneHeld
      | apply upTime_oneHeld
      | apply keep_then
        first | apply next_oneHeld | apply upTime_oneHeld
    | dsimp -zeta only
    | split

theorem execCalendarEnd_oneHeld {s : State} : s.oneHeld → (execCalendarEnd s).OneHeld := by
  delta execCalendarEnd
  repeat' first
    | extract_lets
    | with_reducible first
      | exact fun h => h | assumption | apply keep_ite | apply keep_resIte | apply next_oneHeld
      | apply upTime_oneHeld
      | apply keep_then
        first | apply next_oneHeld | apply upTime_oneHeld
    | dsimp -zeta only
    | split

theorem execEthLink_oneHeld (n : Fin 2) (blockLock up : Bool) {s : State} : s.oneHeld → (execEthLink n blockLock up s).OneHeld := by
  delta execEthLink
  repeat' first
    | extract_lets
    | with_reducible first
      | exact fun h => h | assumption | apply keep_ite | apply keep_resIte | apply next_oneHeld
      | apply upTime_oneHeld
      | apply keep_then
        first | apply next_oneHeld | apply upTime_oneHeld
    | dsimp -zeta only
    | split

set_option smartUnfolding false in
theorem execEthFrameDiscard_oneHeld (n : Fin 2) (badFcs : Bool) (f : EthFrame) {s : State} : s.oneHeld → (execEthFrameDiscard n badFcs f s).OneHeld := by
  delta execEthFrameDiscard
  repeat' first
    | extract_lets
    | with_reducible first
      | exact fun h => h | assumption | apply keep_ite | apply keep_resIte | apply next_oneHeld
      | apply count_oneHeld | apply ptpDiscard_oneHeld
      | apply keep_then
        first | apply next_oneHeld | apply count_oneHeld | apply ptpDiscard_oneHeld
    | refine keep_opt ?_ fun _ => ?_
    | refine keep_some (fun _ => ?_) fun _ => ?_
    | dsimp -zeta only
    | split

theorem execAxAtRest_oneHeld (n : Axis) {s : State} : s.oneHeld → (execAxAtRest n s).OneHeld := by
  delta execAxAtRest
  repeat' first
    | extract_lets
    | with_reducible first
      | exact fun h => h | assumption | apply keep_ite | apply keep_resIte | apply next_oneHeld
      | apply axPlan_oneHeld
      | apply keep_then
        first | apply next_oneHeld | apply axPlan_oneHeld
    | dsimp -zeta only
    | split

theorem fixS_oneHeld (n : Slot) (at_ : Nat) (bound : Option Nat) (dt : Option Word) {s : State} : s.oneHeld → (s.fixS n at_ bound dt).oneHeld := by
  delta fixS
  repeat' first
    | with_reducible first
      | exact fun h => h | assumption | apply keep_ite | apply showSlot_oneHeld | apply upSlot_oneHeld
      | apply ctl_oneHeld
      | apply keep_then
        first | apply showSlot_oneHeld | apply upSlot_oneHeld | apply ctl_oneHeld
    | extract_lets
    | exact fun _ => rfl
    | dsimp -zeta only
    | split

theorem autoFails_oneHeld (n : Slot) (code : Nat) {s : State} : s.oneHeld → (s.autoFails n code).oneHeld := by
  delta autoFails
  repeat' first
    | extract_lets
    | with_reducible first
      | exact fun h => h | assumption | apply keep_ite | apply showSlot_oneHeld | apply upSlot_oneHeld
      | apply keep_then
        first | apply showSlot_oneHeld | apply upSlot_oneHeld
    | exact fun _ => rfl
    | dsimp -zeta only
    | split

theorem startEvent_oneHeld (n : Slot) (stamp : Nat) {s : State} : s.oneHeld → (s.startEvent n stamp).oneHeld := by
  delta startEvent
  repeat' first
    | extract_lets
    | with_reducible first
      | exact fun h => h | assumption | apply keep_ite | apply showSlot_oneHeld | apply upSlot_oneHeld
      | apply fixS_oneHeld
      | apply keep_then
        first | apply showSlot_oneHeld | apply upSlot_oneHeld | apply fixS_oneHeld
    | exact fun _ => rfl
    | dsimp -zeta only
    | split

set_option smartUnfolding false in
theorem redateSlot_oneHeld (n : Slot) {s : State} : s.oneHeld → (s.redateSlot n).oneHeld := by
  delta redateSlot
  repeat' first
    | extract_lets
    | with_reducible first
      | exact fun h => h | assumption | apply keep_ite | apply showSlot_oneHeld | apply upSlot_oneHeld
      | apply keep_then
        first | apply showSlot_oneHeld | apply upSlot_oneHeld
    | exact fun _ => rfl
    | refine keep_opt ?_ fun _ => ?_
    | refine keep_some (fun _ => ?_) fun _ => ?_
    | dsimp -zeta only
    | split

theorem redate_oneHeld {s : State} : s.oneHeld → s.redate.oneHeld := by
  delta redate
  repeat' first
    | extract_lets
    | with_reducible first
      | exact fun h => h | assumption | apply keep_ite | apply keep_fstIte | apply redateSlot_oneHeld
      | apply each_oneHeld
      | apply keep_then
        first | apply redateSlot_oneHeld | apply each_oneHeld
    | refine fun _ (_ : State) => ?_
    | dsimp -zeta only
    | split

theorem rateTo_oneHeld (d : Dom) (v : Word) {s : State} : s.oneHeld → (s.rateTo d v).oneHeld := by
  delta rateTo
  repeat' first
    | extract_lets
    | with_reducible first
      | exact fun h => h | assumption | apply keep_ite | apply redate_oneHeld | apply setRate_oneHeld
      | apply keep_then
        first | apply redate_oneHeld | apply setRate_oneHeld
    | dsimp -zeta only
    | split

theorem holdover_oneHeld (d : Dom) {s : State} : s.oneHeld → (s.holdover d).oneHeld := by
  delta holdover
  repeat' first
    | extract_lets
    | with_reducible first
      | exact fun h => h | assumption | apply keep_ite | apply setDomSt_oneHeld | apply rateTo_oneHeld
      | apply keep_then
        first | apply setDomSt_oneHeld | apply rateTo_oneHeld
    | dsimp -zeta only
    | split

theorem servoRun_oneHeld (d : Dom) (o : Int) (q : Q) {s : State} : s.oneHeld → (s.servoRun d o q).oneHeld := by
  delta servoRun
  repeat' first
    | extract_lets
    | with_reducible first
      | exact fun h => h | assumption | apply keep_ite | apply count_oneHeld | apply upDom_oneHeld
      | apply stepDom_oneHeld | apply wr_oneHeld | apply rateTo_oneHeld
      | apply keep_then
        first
        | apply count_oneHeld | apply upDom_oneHeld | apply stepDom_oneHeld | apply wr_oneHeld
        | apply rateTo_oneHeld
    | dsimp -zeta only
    | split

theorem lockSets_oneHeld (n : Slot) (b : Beam) (h : s.oneHeld) : (s.lockSets n b).oneHeld := by
  delta lockSets
  repeat' first
    | with_reducible first
      | assumption | apply ite_oneHeld | apply upSlot_oneHeld
    | exact fun _ => rfl
    | split

theorem prepBeam_oneHeld (n : Slot) (b : Beam) {s : State} : s.oneHeld → (s.prepBeam n b).oneHeld := by
  delta prepBeam
  repeat' first
    | extract_lets
    | with_reducible first
      | exact fun h => h | assumption | apply keep_ite | apply upBe_oneHeld | apply upHead_oneHeld
      | apply lockSets_oneHeld | apply checkGone_oneHeld | apply driftLoad_oneHeld | apply zonePrep_oneHeld
      | apply startScratch_oneHeld | apply promoteNow_oneHeld
      | apply keep_then
        first
        | apply upBe_oneHeld | apply upHead_oneHeld | apply lockSets_oneHeld | apply checkGone_oneHeld
        | apply driftLoad_oneHeld | apply zonePrep_oneHeld | apply startScratch_oneHeld | apply promoteNow_oneHeld
    | dsimp -zeta only
    | split

set_option smartUnfolding false in
theorem riseEvent_oneHeld (b : Beam) {s : State} : s.oneHeld → (s.riseEvent b).oneHeld := by
  delta riseEvent
  repeat' first
    | extract_lets
    | with_reducible first
      | exact fun h => h | assumption | apply keep_ite | apply report_oneHeld | apply upLdg_oneHeld
      | apply count_oneHeld | apply upSlot_oneHeld
      | apply keep_then
        first | apply report_oneHeld | apply upLdg_oneHeld | apply count_oneHeld | apply upSlot_oneHeld
    | exact fun _ => rfl
    | refine keep_opt ?_ fun _ => ?_
    | refine keep_some (fun _ => ?_) fun _ => ?_
    | dsimp -zeta only
    | split

theorem commitCell_oneHeld (b : Beam) (sum : Nat) (lit suspect forced : Bool) (kc : Nat × Option Nat) (h : s.oneHeld) :
    (s.commitCell b sum lit suspect forced kc).1.oneHeld := by
  delta commitCell
  repeat' first
    | with_reducible first
      | assumption | apply ite_oneHeld | apply fstIte_oneHeld | apply count_oneHeld | apply riseEvent_oneHeld
      | apply depositOne_oneHeld
    | extract_lets
    | split

theorem commitCells_oneHeld (b : Beam) (sum : Nat) (lit suspect forced : Bool) (l : List (Nat × Option Nat)) :
    ∀ x : State × List Deposit, x.1.oneHeld → (l.foldl (fun (x : State × List Deposit) kc =>
      let y := x.1.commitCell b sum lit suspect forced kc
      (y.1, x.2 ++ y.2)) x).1.oneHeld := by
  induction l with
  | nil => exact fun _ h => h
  | cons kc l ih => exact fun x h => ih _ (commitCell_oneHeld b sum lit suspect forced kc h)

theorem commitVisit_oneHeld (b : Beam) (v : Visit) {s : State} : s.oneHeld → (s.commitVisit b v).oneHeld := by
  delta commitVisit
  repeat' first
    | extract_lets
    | with_reducible first
      | exact fun h => h | assumption | apply keep_ite | apply keep_fstIte | apply commitCells_oneHeld
      | apply count_oneHeld | apply report_oneHeld | apply keepChange_oneHeld | apply digItem_oneHeld
      | apply ifc_oneHeld
      | apply keep_then
        first
        | apply commitCells_oneHeld | apply count_oneHeld | apply report_oneHeld | apply keepChange_oneHeld
        | apply digItem_oneHeld | apply ifc_oneHeld
    | refine fun (_ : State) => ?_
    | dsimp -zeta only
    | split

set_option smartUnfolding false in
theorem pcuForm_oneHeld (b : Beam) (k : Nat) (m : Nominal) (first cont running : Bool) {s : State} :
    s.oneHeld → (s.pcuForm b k m first cont running).1.oneHeld := by
  delta pcuForm
  refine keep_opt (P := fun x : State × _ => x.1.oneHeld) (fun h => h) fun a => ?_
  dsimp -zeta only
  extract_lets f s₁ prev s₂ p active trim e
  have h₁ : s.oneHeld → s₁.oneHeld := keep_ite (fun h => h) (upPcu_oneHeld _ _)
  refine keep_opt (P := fun x : State × _ => x.1.oneHeld) h₁ fun g => ?_
  dsimp -zeta only
  extract_lets o s₃ s₄
  have h₃ : s.oneHeld → s₃.oneHeld := keep_then (upPcu_oneHeld _ _) (keep_then (pcuExposure_oneHeld _ _ _ _) h₁)
  exact keep_ite (keep_opt h₃ fun n => keep_then (upSlot_oneHeld n fun _ => rfl) h₃) h₃

set_option smartUnfolding false in
theorem pcuSample_oneHeld (b : Beam) (k : Nat) {s : State} : s.oneHeld → (s.pcuSample b k).oneHeld := by
  delta pcuSample
  repeat' first
    | extract_lets
    | with_reducible first
      | exact fun h => h | assumption | apply keep_ite | apply sampleRec_oneHeld | apply powerWord_oneHeld
      | apply pcuStore_oneHeld | apply pcuDeposit_oneHeld | apply pcuForm_oneHeld | apply fetchAhead_oneHeld
      | apply pcuDetect_oneHeld | apply upPcu_oneHeld | apply pcuIntake_oneHeld
      | apply keep_then
        first
        | apply sampleRec_oneHeld | apply powerWord_oneHeld | apply pcuStore_oneHeld | apply pcuDeposit_oneHeld
        | apply pcuForm_oneHeld | apply fetchAhead_oneHeld | apply pcuDetect_oneHeld | apply upPcu_oneHeld
        | apply pcuIntake_oneHeld
    | refine keep_fstProd (fun _ _ => ?_) ?_
    | refine keep_opt ?_ fun _ => ?_
    | refine keep_some (fun _ => ?_) fun _ => ?_
    | dsimp -zeta only
    | split

theorem barDone_oneHeld (n : Slot) (id inst : Nat) {s : State} : s.oneHeld → (s.barDone n id inst).oneHeld := by
  delta barDone
  repeat' first
    | extract_lets
    | with_reducible first
      | exact fun h => h | assumption | apply keep_ite | apply keep_fstIte | apply upSlot_oneHeld
      | apply upBe_oneHeld | apply each_oneHeld
      | apply keep_then
        first | apply upSlot_oneHeld | apply upBe_oneHeld | apply each_oneHeld
    | exact fun _ => rfl
    | refine fun _ (_ : State) => ?_
    | dsimp -zeta only
    | split

theorem pitchBegun_oneHeld (n : Slot) (a : Axis) {s : State} : s.oneHeld → (s.pitchBegun n a).oneHeld := by
  delta pitchBegun
  repeat' first
    | extract_lets
    | with_reducible first
      | exact fun h => h | assumption | apply keep_ite | apply upSlot_oneHeld
      | apply keep_then
        first | apply upSlot_oneHeld
    | exact fun _ => rfl
    | dsimp -zeta only
    | split

theorem tcTake_oneHeld (n : Fin 8) (rising : Bool) (stamp : Nat) {s : State} : s.oneHeld → (s.tcTake n rising stamp).oneHeld := by
  delta tcTake
  repeat' first
    | extract_lets
    | with_reducible first
      | exact fun h => h | assumption | apply keep_ite | apply keep_fstIte | apply msix_oneHeld
      | apply upTime_oneHeld | apply count_oneHeld | apply startEvent_oneHeld | apply each_oneHeld
      | apply ifc_oneHeld
      | apply keep_then
        first
        | apply msix_oneHeld | apply upTime_oneHeld | apply count_oneHeld | apply startEvent_oneHeld
        | apply each_oneHeld | apply ifc_oneHeld
    | refine fun _ (_ : State) => ?_
    | refine fun (_ : State) => ?_
    | dsimp -zeta only
    | split

set_option smartUnfolding false in
theorem walkOn_oneHeld (n : Slot) {s : State} : s.oneHeld → (s.walkOn n).oneHeld := by
  delta walkOn
  repeat' first
    | extract_lets
    | with_reducible first
      | exact fun h => h | assumption | apply keep_ite | apply publish_oneHeld | apply upSlot_oneHeld
      | apply showSlot_oneHeld
      | apply keep_then
        first | apply publish_oneHeld | apply upSlot_oneHeld | apply showSlot_oneHeld
    | exact fun _ => rfl
    | refine keep_opt ?_ fun _ => ?_
    | refine keep_some (fun _ => ?_) fun _ => ?_
    | dsimp -zeta only
    | split

theorem leaveWalk_oneHeld (n : Slot) (a : Analysis) {s : State} : s.oneHeld → (s.leaveWalk n a).oneHeld := by
  delta leaveWalk
  repeat' first
    | extract_lets
    | with_reducible first
      | exact fun h => h | assumption | apply keep_ite | apply upSlot_oneHeld | apply upJob_oneHeld
      | apply keep_then
        first | apply upSlot_oneHeld | apply upJob_oneHeld
    | exact fun _ => rfl
    | dsimp -zeta only
    | split

theorem enterReset_oneHeld (cause : Nat) : (s.enterReset cause).oneHeld := by
  have he (n : Slot) : ((s.enterReset cause).js n).st = .empty :=
    congrArg JobSlot.st (show (Vector.replicate 4 resetSlot)[n] = resetSlot from Vector.getElem_replicate ..)
  intro j k hj
  rw [he] at hj
  exact absurd hj (by decide)

theorem warmReset_oneHeld (cause : Nat) : (s.warmReset cause).oneHeld := leaveReset_oneHeld (enterReset_oneHeld _)

theorem stepWhole_oneHeld (step : Nat) {s : State} : s.oneHeld → (s.stepWhole step).oneHeld := by
  delta stepWhole
  repeat' first
    | extract_lets
    | with_reducible first
      | exact fun h => h | assumption | apply keep_ite | exact fun _ => warmReset_oneHeld _ | apply upHub_oneHeld
      | apply flushRecords_oneHeld | apply ladderRecord_oneHeld | apply preReset_oneHeld | apply ladderPost_oneHeld
      | apply keep_then
        first
        | exact fun _ => warmReset_oneHeld _ | apply upHub_oneHeld | apply flushRecords_oneHeld
        | apply ladderRecord_oneHeld | apply preReset_oneHeld | apply ladderPost_oneHeld
    | dsimp -zeta only
    | split

set_option smartUnfolding false in
theorem stepRequest_oneHeld (func unit step : Nat) (auto : Bool) {s : State} : s.oneHeld → (s.stepRequest func unit step auto).oneHeld := by
  delta stepRequest
  repeat' first
    | extract_lets
    | with_reducible first
      | exact fun h => h | assumption | apply keep_ite | apply ladderPost_oneHeld | apply stepBegin_oneHeld
      | apply upHub_oneHeld | apply takeSend_oneHeld | apply stepWhole_oneHeld
      | apply keep_then
        first
        | apply ladderPost_oneHeld | apply stepBegin_oneHeld | apply upHub_oneHeld | apply takeSend_oneHeld
        | apply stepWhole_oneHeld
    | refine keep_opt ?_ fun _ => ?_
    | refine keep_some (fun _ => ?_) fun _ => ?_
    | dsimp -zeta only
    | split

theorem stepAuto_oneHeld {s : State} : s.oneHeld → s.stepAuto.oneHeld := by
  delta stepAuto
  repeat' first
    | extract_lets
    | with_reducible first
      | exact fun h => h | assumption | apply keep_ite | apply keep_fstIte | apply stepRequest_oneHeld
      | apply shp_oneHeld
      | apply keep_then
        first | apply stepRequest_oneHeld | apply shp_oneHeld
    | refine fun (_ : State) => ?_
    | dsimp -zeta only
    | split

set_option smartUnfolding false in
theorem stepDue_oneHeld {s : State} : s.oneHeld → s.stepDue.oneHeld := by
  delta stepDue
  repeat' first
    | extract_lets
    | with_reducible first
      | exact fun h => h | assumption | apply keep_ite | apply stepWhole_oneHeld
      | apply keep_then
        first | apply stepWhole_oneHeld
    | refine keep_opt ?_ fun _ => ?_
    | refine keep_some (fun _ => ?_) fun _ => ?_
    | dsimp -zeta only
    | split

theorem reAnalyse_oneHeld (n : Slot) {s : State} : s.oneHeld → (s.reAnalyse n).oneHeld := by
  delta reAnalyse
  repeat' first
    | extract_lets
    | with_reducible first
      | exact fun h => h | assumption | apply keep_ite | apply refresh_oneHeld | apply upJob_oneHeld
      | apply jobChange_oneHeld | apply upPwr_oneHeld
      | apply keep_then
        first | apply refresh_oneHeld | apply upJob_oneHeld | apply jobChange_oneHeld | apply upPwr_oneHeld
      | decide
    | exact fun _ => rfl
    | dsimp -zeta only
    | split

theorem armJob_oneHeld (n : Slot) (h : s.oneHeld) : (s.armJob n).oneHeld := by
  have hu (j : JobSlot) {u : State} (g : u.oneHeld) : (armStart n j u).oneHeld := by
    unfold armStart
    refine ite_oneHeld ?_ g
    split
    · exact fixS_oneHeld _ _ _ _ g
    · exact g
  rw [armJob_eq]
  refine refresh_oneHeld _ (hu _ (jobChange_oneHeld n (fun _ => rfl) (by decide) ?_))
  exact (expoAborts_pairSteady _).1.oneHeld (ite_oneHeld (putCfgDigest_oneHeld h) h)

theorem opArm_oneHeld (n : Slot) {s : State} : s.oneHeld → (s.opArm n).1.oneHeld := by
  delta opArm
  repeat' first
    | extract_lets
    | with_reducible first
      | exact fun h => h | assumption | apply keep_ite | apply keep_fstIte | apply reAnalyse_oneHeld
      | apply armJob_oneHeld
      | apply keep_then
        first | apply reAnalyse_oneHeld | apply armJob_oneHeld
    | dsimp -zeta only
    | split

set_option smartUnfolding false in
theorem armAlone_oneHeld (c : TimedCmd) {s : State} : s.oneHeld → (s.armAlone c).oneHeld := by
  delta armAlone
  repeat' first
    | extract_lets
    | with_reducible first
      | exact fun h => h | assumption | apply keep_ite | apply opArm_oneHeld | apply autoFails_oneHeld
      | apply jobPost_oneHeld
      | apply keep_then
        first | apply opArm_oneHeld | apply autoFails_oneHeld | apply jobPost_oneHeld
    | refine keep_fstProd (fun _ _ => ?_) ?_
    | dsimp -zeta only
    | split

theorem twinClear_oneHeld {s : State} : s.oneHeld → s.twinClear.oneHeld := by
  delta twinClear
  repeat' first
    | extract_lets
    | with_reducible first
      | exact fun h => h | assumption | apply keep_ite | apply keep_fstIte | apply gridHome_oneHeld
      | apply armAlone_oneHeld | apply upTwin_oneHeld | apply each_oneHeld
      | apply keep_then
        first | apply gridHome_oneHeld | apply armAlone_oneHeld | apply upTwin_oneHeld | apply each_oneHeld
    | refine fun _ (_ : State) => ?_
    | dsimp -zeta only
    | split

theorem setPair_twinClear_oneHeld (role pair : Nat) (lead : Bool) (h : s.oneHeld) :
    ((s.setPair role pair lead).twinClear).oneHeld := twinClear_oneHeld (setPair_oneHeld _ _ _ h)

theorem joinFail_oneHeld (code : Nat) {s : State} : s.oneHeld → (s.joinFail code).oneHeld := by
  delta joinFail
  repeat' first
    | extract_lets
    | with_reducible first
      | exact fun h => h | assumption | apply keep_ite | apply setPair_twinClear_oneHeld | apply ctl_oneHeld
      | apply twinPost_oneHeld
      | apply keep_then
        first | apply setPair_twinClear_oneHeld | apply ctl_oneHeld | apply twinPost_oneHeld
    | dsimp -zeta only
    | split

theorem joinGone_oneHeld {s : State} : s.oneHeld → s.joinGone.oneHeld := by
  delta joinGone
  repeat' first
    | extract_lets
    | with_reducible first
      | exact fun h => h | assumption | apply keep_ite | apply joinFail_oneHeld
      | apply keep_then
        first | apply joinFail_oneHeld
    | dsimp -zeta only
    | split

theorem joinLost_oneHeld {s : State} : s.oneHeld → s.joinLost.oneHeld := by
  delta joinLost
  repeat' first
    | extract_lets
    | with_reducible first
      | exact fun h => h | assumption | apply keep_ite | apply joinFail_oneHeld
      | apply keep_then
        first | apply joinFail_oneHeld
    | dsimp -zeta only
    | split

theorem leadStep_oneHeld (h : s.oneHeld) : s.leadStep.oneHeld := by
  dsimp only [leadStep]
  repeat' first
    | with_reducible first
      | assumption | apply ite_oneHeld | apply setF_oneHeld | apply swapGrid_oneHeld | apply upTwin_oneHeld
      | apply setPair_oneHeld | apply setPair_twinClear_oneHeld
    | split

theorem dissolve_oneHeld {s : State} : s.oneHeld → s.dissolve.oneHeld := by
  delta dissolve
  repeat' first
    | extract_lets
    | with_reducible first
      | exact fun h => h | assumption | apply keep_ite | apply setPair_twinClear_oneHeld
      | apply keep_then
        first | apply setPair_twinClear_oneHeld
    | dsimp -zeta only
    | split

theorem diverge_oneHeld (tell : Bool) (h : s.oneHeld) : (s.diverge tell).oneHeld := by
  apply dissolve_oneHeld
  repeat' first
    | with_reducible first
      | assumption | apply ite_oneHeld | apply dissolve_oneHeld | apply ctlCmd_oneHeld | apply irq_oneHeld
      | apply count_oneHeld | apply report_oneHeld
    | extract_lets
    | split

theorem belayTwin_oneHeld {s : State} : s.oneHeld → s.belayTwin.oneHeld := by
  delta belayTwin
  repeat' first
    | extract_lets
    | with_reducible first
      | exact fun h => h | assumption | apply keep_ite | apply takeSend_oneHeld | apply setPair_twinClear_oneHeld
      | apply ctl_oneHeld
      | apply keep_then
        first | apply takeSend_oneHeld | apply setPair_twinClear_oneHeld | apply ctl_oneHeld
    | dsimp -zeta only
    | split

theorem withdraw_oneHeld (n : Slot) {s : State} : s.oneHeld → (s.withdraw n).oneHeld := by
  delta withdraw
  repeat' first
    | extract_lets
    | with_reducible first
      | exact fun h => h | assumption | apply keep_ite | apply jobChange_oneHeld | apply releaseBeams_oneHeld
      | apply keep_then
        first | apply jobChange_oneHeld | apply releaseBeams_oneHeld
      | decide
    | exact fun _ => rfl
    | dsimp -zeta only
    | split

theorem toHolding_oneHeld {n : Slot} (hn : (s.js n).st = .running) (h : s.oneHeld) : (s.toHolding n).oneHeld := by
  have h₁ : (s.jobChange n fun j => { j with st := .holding, promise := none }).oneHeld :=
    oneHeld_of_others (jobChange_told n _ s).1.2.2 fun k hk hh => hk (h k n hh (.inl hn))
  exact upTwin_oneHeld _ (zoneHalt_oneHeld (each_oneHeld _ (fun k _ g => withdraw_oneHeld k g) h₁))

theorem axHalt_steady (s : State) (n : Axis) (hard keep : Bool) : s.Steady (s.axHalt n hard keep) := by
  have hu (f : AxisSt → AxisSt) (u : State) : u.Steady (u.upAx n f) := ⟨rfl, rfl, rfl⟩
  have hr (tgt : Option Int) (stop : Int) : s.Steady (s.axRem n tgt stop) := (wr_steady s _ _).trans (hu _ _)
  exact Steady.ite (Steady.refl s) ((hr _ _).trans (hu _ _))

theorem stopAxes_steady (s : State) (n : Slot) (atOnce : Bool) : s.Steady (s.stopAxes n atOnce) :=
  Steady.each _ (fun a t => Steady.ite (axHalt_steady t a _ _) (.of_frame (axFinish_frame t a) rfl rfl rfl)) (Steady.refl s)

theorem holdNow_oneHeld (cause : Nat) (h : s.oneHeld) : (s.holdNow cause).oneHeld := by
  unfold holdNow
  split
  · exact h
  next n hn =>
    have he : s.Steady (s.each (s.js n).named fun b t => t.askStop b true) :=
      .of_frame (each_askStop_frame s _ true) rfl rfl rfl
    have hj := (he.trans (stopAxes_steady _ n true)).2.2
    exact refresh_oneHeld _ (toHolding_oneHeld ((congrArg JobSlot.st (js_congr hj n)).trans (runSlot_spec hn))
      (oneHeld_of_job hj h))

theorem holdDone_oneHeld (h : s.oneHeld) : s.holdDone.oneHeld := by
  unfold holdDone
  refine ite_oneHeld h ?_
  split
  · exact upDev_oneHeld _ h
  next n hn => exact ite_oneHeld (refresh_oneHeld _ (upDev_oneHeld _ (toHolding_oneHeld (runSlot_spec hn) h))) h

theorem belayEnter_oneHeld (h : s.oneHeld) : s.belayEnter.oneHeld := by
  apply ite_oneHeld
  repeat' first
    | with_reducible first
      | assumption | apply ite_oneHeld | apply refresh_oneHeld | apply belayTwin_oneHeld | apply holdNow_oneHeld
      | apply irq_oneHeld | apply upHub_oneHeld | apply upDev_oneHeld
    | extract_lets
    | split

theorem classReact_oneHeld (c : Nat) {s : State} : s.oneHeld → (s.classReact c).oneHeld := by
  delta classReact
  repeat' first
    | extract_lets
    | with_reducible first
      | exact fun h => h | assumption | apply keep_ite | apply keep_fstIte | apply kill_oneHeld
      | apply upHub_oneHeld | apply quietRestart_oneHeld | apply belayEnter_oneHeld | apply ifc_oneHeld
      | apply keep_then
        first
        | apply kill_oneHeld | apply upHub_oneHeld | apply quietRestart_oneHeld | apply belayEnter_oneHeld
        | apply ifc_oneHeld
    | refine fun (_ : State) => ?_
    | dsimp -zeta only
    | split

theorem latchFirst_oneHeld (r : Report) (cls c : Nat) {s : State} : s.oneHeld → (s.latchFirst r cls c).oneHeld := by
  delta latchFirst
  repeat' first
    | extract_lets
    | with_reducible first
      | exact fun h => h | assumption | apply keep_ite | apply keep_fstIte | apply stepAuto_oneHeld
      | apply classReact_oneHeld | apply setSticky_oneHeld | apply fltRecord_oneHeld | apply irq_oneHeld
      | apply setHint_oneHeld | apply upHub_oneHeld | apply upLatch_oneHeld | apply ifc_oneHeld
      | apply keep_then
        first
        | apply stepAuto_oneHeld | apply classReact_oneHeld | apply setSticky_oneHeld | apply fltRecord_oneHeld
        | apply irq_oneHeld | apply setHint_oneHeld | apply upHub_oneHeld | apply upLatch_oneHeld
        | apply ifc_oneHeld
    | refine fun (_ : State) => ?_
    | dsimp -zeta only
    | split

theorem latchOver_oneHeld (r : Report) (cls c : Nat) {s : State} : s.oneHeld → (s.latchOver r cls c).oneHeld := by
  delta latchOver
  repeat' first
    | extract_lets
    | with_reducible first
      | exact fun h => h | assumption | apply keep_ite | apply fltRecord_oneHeld | apply upLatch_oneHeld
      | apply upHub_oneHeld | apply quietRestart_oneHeld | apply belayEnter_oneHeld | apply setSticky_oneHeld
      | apply keep_then
        first
        | apply fltRecord_oneHeld | apply upLatch_oneHeld | apply upHub_oneHeld | apply quietRestart_oneHeld
        | apply belayEnter_oneHeld | apply setSticky_oneHeld
    | dsimp -zeta only
    | split

theorem fltHandle_oneHeld (x : Nat × Report) (h : s.oneHeld) : (s.fltHandle x).oneHeld := by
  dsimp only [fltHandle]
  repeat' first
    | with_reducible first
      | assumption | apply ite_oneHeld | apply setB_oneHeld | apply fltRecord_oneHeld | apply upHub_oneHeld
      | apply count_oneHeld | apply upLatch_oneHeld | apply latchFirst_oneHeld | apply latchOver_oneHeld
      | apply irq_oneHeld
    | split

theorem hubTake_oneHeld {s : State} : s.oneHeld → s.hubTake.oneHeld := by
  delta hubTake
  repeat' first
    | extract_lets
    | with_reducible first
      | exact fun h => h | assumption | apply keep_ite | apply keep_fstIte | apply upHub_oneHeld
      | apply refresh_oneHeld | apply fltHandle_oneHeld | apply each_oneHeld
      | apply keep_then
        first | apply upHub_oneHeld | apply refresh_oneHeld | apply fltHandle_oneHeld | apply each_oneHeld
    | refine fun _ (_ : State) => ?_
    | dsimp -zeta only
    | split

theorem axesBar_oneHeld (n : Slot) {s : State} : s.oneHeld → (s.axesBar n).oneHeld := by
  delta axesBar
  repeat' first
    | extract_lets
    | with_reducible first
      | exact fun h => h | assumption | apply keep_ite | apply refresh_oneHeld | apply withdraw_oneHeld
      | apply upSlot_oneHeld
      | apply keep_then
        first | apply refresh_oneHeld | apply withdraw_oneHeld | apply upSlot_oneHeld
    | exact fun _ => rfl
    | dsimp -zeta only
    | split

theorem startJob_oneHeld (n : Slot) (s0 : Nat) (ho : s.otherRuns n = false) : (s.startJob n s0).oneHeld := by
  obtain ⟨u, hu, -, -, -, -, hk⟩ := s.startJob_eq n s0
  rw [hu]
  refine refresh_oneHeld _ (oneHeld_of_others hk fun k hne hh => ?_)
  obtain ⟨h1, h2⟩ := not_held_of_otherRuns ho hne
  exact hh.elim h1 h2

theorem startRun_oneHeld (n : Slot) (s0 : Nat) (ho : s.otherRuns n = false) (h : s.oneHeld) : (s.startRun n s0).oneHeld :=
  ite_oneHeld (axesBar_oneHeld n h) (ite_oneHeld (holdNow_oneHeld 2 (startJob_oneHeld n s0 ho)) (startJob_oneHeld n s0 ho))

theorem startDue_oneHeld (h : s.oneHeld) : s.startDue.oneHeld := by
  unfold startDue
  split
  · split
    · split
      · exact h
      next hc => exact startRun_oneHeld _ _ (Bool.eq_false_of_not_eq_true fun e => hc (.inr (.inr e))) h
    · exact h
  · exact h

theorem opSubmit_oneHeld (n : Slot) {s : State} : s.oneHeld → (s.opSubmit n).1.oneHeld := by
  have h₁ (f : Power → Power) : s.oneHeld → (s.upPwr f).oneHeld := upPwr_oneHeld f
  refine keep_fstIte (fun h => h) (keep_fstIte (fun h => h) (keep_fstIte (fun h => h) ?_))
  extract_lets desc _ j s₁ same twin
  clear_value desc
  cases twin with
  | some k => exact h₁ _
  | none =>
    cases same with
    | some k => exact h₁ _
    | none =>
      exact keep_then (upJob_oneHeld fun _ => rfl)
        (keep_then (jobChange_oneHeld (c := .analysing) n (fun _ => rfl) (by decide)) (h₁ _))

theorem opDisarm_oneHeld (n : Slot) {s : State} : s.oneHeld → (s.opDisarm n).1.oneHeld := by
  delta opDisarm
  repeat' first
    | extract_lets
    | with_reducible first
      | exact fun h => h | assumption | apply keep_ite | apply keep_fstIte | apply refresh_oneHeld
      | apply withdraw_oneHeld | apply endHeads_oneHeld
      | apply keep_then
        first | apply refresh_oneHeld | apply withdraw_oneHeld | apply endHeads_oneHeld
    | dsimp -zeta only
    | split

theorem withdrawBehind_oneHeld (n : Slot) {s : State} : s.oneHeld → (s.withdrawBehind n).oneHeld := by
  delta withdrawBehind
  repeat' first
    | extract_lets
    | with_reducible first
      | exact fun h => h | assumption | apply keep_ite | apply keep_fstIte | apply withdraw_oneHeld
      | apply each_oneHeld
      | apply keep_then
        first | apply withdraw_oneHeld | apply each_oneHeld
    | refine fun _ (_ : State) => ?_
    | dsimp -zeta only
    | split

theorem aborted_oneHeld (n : Slot) (h : s.oneHeld) : (((s.dropStops n).jobChange n fun j =>
    { j with st := .aborted, promise := none, ready := false, prepAt := none, decided := none }).refresh).oneHeld :=
  refresh_oneHeld _ (jobChange_oneHeld (c := .aborted) n (fun _ => rfl) (by decide) (dropStops_oneHeld n h))

theorem opAbort_oneHeld (n : Slot) (h : s.oneHeld) : (s.opAbort n).1.oneHeld := by
  have hk {t : State} (ht : t.oneHeld) : ((t.dropKept n).endJob n).oneHeld := endJob_oneHeld n (dropKept_oneHeld n ht)
  have hq (f : JobBlock → JobBlock) (hf : ∀ q, (f q).slot = q.slot) := upJob_oneHeld hf h
  unfold opAbort
  extract_lets gone t s₁ s₂ s₃ s₄ s₅
  split
  · have ht : t.oneHeld := hq _ fun _ => rfl
    exact aborted_oneHeld n (ite_oneHeld (hk ht) ht)
  · exact aborted_oneHeld n (ite_oneHeld (hk h) (freeBeams_oneHeld n (endHeads_oneHeld n _ h)))
  · refine fstIte_oneHeld h ?_
    have h₁ : s₁.oneHeld := each_oneHeld _ (fun b _ g => acceptStop_oneHeld b true g) h
    have h₄ : s₄.oneHeld := upDev_oneHeld _ (upTwin_oneHeld _ (dropKept_oneHeld n (stopAxes_oneHeld n true h₁)))
    have h₅ : s₅.oneHeld := jobChange_oneHeld (c := .aborted) n (fun _ => rfl) (by decide) h₄
    have h₆ := refresh_oneHeld 0 (withdrawBehind_oneHeld n (dropStops_oneHeld n (endJob_oneHeld n h₅)))
    dsimp only
    exact h₆
  · exact aborted_oneHeld n (hk h)
  · exact h
  · exact h

theorem opResume_oneHeld (n : Slot) (h : s.oneHeld) : (s.opResume n).1.oneHeld := by
  have h₁ (l : List Beam) (k : Nat) : (s.each l fun b t => t.keepCourse b t.tick).oneHeld :=
    each_oneHeld l (fun b t g => keepCourse_oneHeld b t.tick g) h
  refine fstIte_oneHeld h (fstIte_oneHeld h (refresh_oneHeld 0 (upJob_oneHeld (fun _ => rfl) ?_)))
  exact jobChange_oneHeld (c := .analysing) n (fun _ => rfl) (by decide) (upPwr_oneHeld _ (h₁ _ 0))

theorem opRelease_oneHeld (n : Slot) (h : s.oneHeld) : (s.opRelease n).1.oneHeld := by
  apply fstIte_oneHeld
  repeat' first
    | with_reducible first
      | assumption | apply ite_oneHeld | apply fstIte_oneHeld | apply endJob_oneHeld | apply dropKept_oneHeld
      | apply freeBeams_oneHeld | apply refresh_oneHeld | apply jobChange_oneHeld | apply dropStops_oneHeld
    | exact fun _ => rfl
    | decide
    | extract_lets
    | split

theorem opGo_oneHeld (n : Slot) {s : State} : s.oneHeld → (s.opGo n).1.oneHeld := by
  delta opGo
  repeat' first
    | extract_lets
    | with_reducible first
      | exact fun h => h | assumption | apply keep_ite | apply keep_fstIte | apply startEvent_oneHeld
      | apply keep_then
        first | apply startEvent_oneHeld
    | dsimp -zeta only
    | split

set_option smartUnfolding false in
theorem jobDo_oneHeld (op : Nat) (n : Slot) {s : State} : s.oneHeld → (s.jobDo op n).1.oneHeld := by
  delta jobDo
  extract_lets s₁
  have h₁ : s.oneHeld → s₁.oneHeld := startDue_oneHeld
  refine keep_lit (P := fun x : State × _ => x.1.oneHeld) (keep_then (opHold_oneHeld n) h₁) fun _ => ?_
  refine keep_lit (P := fun x : State × _ => x.1.oneHeld) (keep_then (opSubmit_oneHeld n) h₁) fun _ => ?_
  refine keep_lit (P := fun x : State × _ => x.1.oneHeld) (keep_then (opArm_oneHeld n) h₁) fun _ => ?_
  refine keep_lit (P := fun x : State × _ => x.1.oneHeld) (keep_then (opDisarm_oneHeld n) h₁) fun _ => ?_
  refine keep_lit (P := fun x : State × _ => x.1.oneHeld) (keep_then (opAbort_oneHeld n) h₁) fun _ => ?_
  refine keep_lit (P := fun x : State × _ => x.1.oneHeld) (keep_then (opResume_oneHeld n) h₁) fun _ => ?_
  refine keep_lit (P := fun x : State × _ => x.1.oneHeld) (keep_then (opRelease_oneHeld n) h₁) fun _ => ?_
  exact keep_lit (P := fun x : State × _ => x.1.oneHeld) (keep_then (opGo_oneHeld n) h₁) fun _ => h₁

set_option smartUnfolding false in
theorem jobPair_oneHeld (op : Nat) (n : Slot) {s : State} : s.oneHeld → (s.jobPair op n).oneHeld := by
  delta jobPair
  repeat' first
    | extract_lets
    | with_reducible first
      | exact fun h => h | assumption | apply keep_ite | apply keep_fstIte | apply jobDo_oneHeld
      | apply ctlCmd_oneHeld | apply setB_oneHeld | apply upTwin_oneHeld | apply askArm_oneHeld
      | apply jobPost_oneHeld | apply fwdJob_oneHeld | apply cellsSince_oneHeld | apply sendStop_oneHeld
      | apply each_oneHeld
      | apply keep_then
        first
        | apply jobDo_oneHeld | apply ctlCmd_oneHeld | apply setB_oneHeld | apply upTwin_oneHeld
        | apply askArm_oneHeld | apply jobPost_oneHeld | apply fwdJob_oneHeld | apply cellsSince_oneHeld
        | apply sendStop_oneHeld | apply each_oneHeld
    | refine keep_fstProd (fun _ _ => ?_) ?_
    | refine fun _ (_ : State) => ?_
    | dsimp -zeta only
    | split

theorem jobIssue_oneHeld (op : Nat) (n : Slot) (h : s.oneHeld) : (s.jobIssue op n).oneHeld := by
  dsimp only [jobIssue]
  repeat' first
    | with_reducible first
      | assumption | apply ite_oneHeld | apply setB_oneHeld | apply wr_oneHeld | apply jobPost_oneHeld
      | apply jobPair_oneHeld | apply jobDo_oneHeld | apply unpost_oneHeld
    | split

theorem mbxJobIssue_oneHeld (x : MbxRun) {s : State} : s.oneHeld → (s.mbxJobIssue x).oneHeld := by
  delta mbxJobIssue
  repeat' first
    | extract_lets
    | with_reducible first
      | exact fun h => h | assumption | apply keep_ite | apply keep_fstIte | apply setF_oneHeld | apply wr_oneHeld
      | apply jobIssue_oneHeld | apply ifc_oneHeld
      | apply keep_then
        first | apply setF_oneHeld | apply wr_oneHeld | apply jobIssue_oneHeld | apply ifc_oneHeld
    | refine fun (_ : State) => ?_
    | dsimp -zeta only
    | split

set_option smartUnfolding false in
theorem mbxGo_oneHeld {s : State} : s.oneHeld → s.mbxGo.oneHeld := by
  delta mbxGo
  repeat' first
    | extract_lets
    | with_reducible first
      | exact fun h => h | assumption | apply keep_ite | apply keep_fstIte | apply mbxFinish_oneHeld
      | apply mbxJobIssue_oneHeld | apply upHost_oneHeld | apply shp_oneHeld
      | apply keep_then
        first | apply mbxFinish_oneHeld | apply mbxJobIssue_oneHeld | apply upHost_oneHeld | apply shp_oneHeld
    | refine keep_opt ?_ fun _ => ?_
    | refine keep_some (fun _ => ?_) fun _ => ?_
    | refine fun (_ : State) => ?_
    | dsimp -zeta only
    | split

set_option smartUnfolding false in
theorem mbxRun_oneHeld (tag : Nat) (dig : Word) (code : Nat) (p : List Byte) {s : State} : s.oneHeld → (s.mbxRun tag dig code p).oneHeld := by
  delta mbxRun
  repeat' first
    | extract_lets
    | with_reducible first
      | exact fun h => h | assumption | apply keep_ite | apply mbxDone_oneHeld | apply mbxGo_oneHeld
      | apply upHost_oneHeld | apply mbxServe_oneHeld
      | apply keep_then
        first | apply mbxDone_oneHeld | apply mbxGo_oneHeld | apply upHost_oneHeld | apply mbxServe_oneHeld
    | refine keep_opt ?_ fun _ => ?_
    | refine keep_some (fun _ => ?_) fun _ => ?_
    | dsimp -zeta only
    | split

set_option smartUnfolding false in
theorem mbxRing_oneHeld {s : State} : s.oneHeld → s.mbxRing.oneHeld := by
  delta mbxRing
  repeat' first
    | extract_lets
    | with_reducible first
      | exact fun h => h | assumption | apply keep_ite | apply keep_fstIte | apply setB_oneHeld
      | apply mbxPost_oneHeld | apply mbxRun_oneHeld | apply shp_oneHeld
      | apply keep_then
        first | apply setB_oneHeld | apply mbxPost_oneHeld | apply mbxRun_oneHeld | apply shp_oneHeld
    | refine keep_opt ?_ fun _ => ?_
    | refine keep_some (fun _ => ?_) fun _ => ?_
    | refine fun (_ : State) => ?_
    | dsimp -zeta only
    | split

theorem mbxSend_oneHeld (tag : BitVec 16) (code : Nat) (payload : List Byte) {s : State} : s.oneHeld → (s.mbxSend tag code payload).oneHeld := by
  delta mbxSend
  repeat' first
    | extract_lets
    | with_reducible first
      | exact fun h => h | assumption | apply keep_ite | apply mbxRing_oneHeld | apply mbxPlace_oneHeld
      | apply keep_then
        first | apply mbxRing_oneHeld | apply mbxPlace_oneHeld
    | dsimp -zeta only
    | split

theorem tickOn_oneHeld {s : State} : s.oneHeld → s.tickOn.oneHeld := by
  delta tickOn
  extract_lets s₁ s₂ s₃ s₄ s₅
  have h₂ : s.oneHeld → s₂.oneHeld := keep_then slewTick_oneHeld (tick_oneHeld _)
  have h₃ : s.oneHeld → s₃.oneHeld := keep_then recStep_oneHeld (keep_ite (keep_then opTime_oneHeld h₂) h₂)
  have h₄ : s.oneHeld → s₄.oneHeld := keep_then fillTick_oneHeld (keep_then axItems_oneHeld
    (keep_then (each_oneHeld _ fun n t => keep_then (axStep_oneHeld n) (axLimit_oneHeld n)) h₃))
  have h₅ : s.oneHeld → s₅.oneHeld := keep_then mbxGo_oneHeld (keep_then stepDue_oneHeld (keep_then gridHome_oneHeld
    (keep_then decideStep_oneHeld (keep_then leadStep_oneHeld h₄))))
  exact keep_then holdDone_oneHeld (keep_then (ethNext_oneHeld 1) (keep_then (ethNext_oneHeld 0)
    (keep_then joinEnd_oneHeld (keep_then joinGone_oneHeld (keep_then joinLost_oneHeld h₅)))))

theorem idle_oneHeld {s : State} : s.oneHeld → s.idle.oneHeld := by
  delta idle
  repeat' first
    | extract_lets
    | with_reducible first
      | exact fun h => h | assumption | apply keep_ite | apply hubTake_oneHeld | apply oscTick_oneHeld
      | apply tickOn_oneHeld
      | apply keep_then
        first | apply hubTake_oneHeld | apply oscTick_oneHeld | apply tickOn_oneHeld
    | dsimp -zeta only
    | split

theorem reject_oneHeld (n : Slot) (a : Analysis) (code : Nat) (loc : Word) (time : Nat) {s : State} : s.oneHeld → (s.reject n a code loc time).oneHeld := by
  delta reject
  repeat' first
    | extract_lets
    | with_reducible first
      | exact fun h => h | assumption | apply keep_ite | apply refresh_oneHeld | apply jobChange_oneHeld
      | apply leaveWalk_oneHeld
      | apply keep_then
        first | apply refresh_oneHeld | apply jobChange_oneHeld | apply leaveWalk_oneHeld
      | decide
    | exact fun _ => rfl
    | dsimp -zeta only
    | split

theorem autoArm_oneHeld (n : Slot) (h : s.oneHeld) : (s.autoArm n).oneHeld := by
  dsimp only [autoArm]
  repeat' first
    | with_reducible first
      | assumption | apply ite_oneHeld | apply opArm_oneHeld | apply upSlot_oneHeld | apply ctlCmd_oneHeld
      | apply askArm_oneHeld | apply autoFails_oneHeld
    | exact fun _ => rfl
    | split

theorem accept_oneHeld (n : Slot) (a : Analysis) {s : State} : s.oneHeld → (s.accept n a).oneHeld := by
  delta accept
  repeat' first
    | extract_lets
    | with_reducible first
      | exact fun h => h | assumption | apply keep_ite | apply refresh_oneHeld | apply jobChange_oneHeld
      | apply leaveWalk_oneHeld | apply autoArm_oneHeld
      | apply keep_then
        first
        | apply refresh_oneHeld | apply jobChange_oneHeld | apply leaveWalk_oneHeld | apply autoArm_oneHeld
      | decide
    | exact fun _ => rfl
    | dsimp -zeta only
    | split

set_option smartUnfolding false in
theorem finishWalk_oneHeld (n : Slot) (a : Analysis) (p : Promise) {s : State} : s.oneHeld → (s.finishWalk n a p).oneHeld := by
  delta finishWalk
  repeat' first
    | extract_lets
    | with_reducible first
      | exact fun h => h | assumption | apply keep_ite | apply sendAdm_oneHeld | apply showSlot_oneHeld
      | apply upSlot_oneHeld | apply accept_oneHeld | apply reject_oneHeld | apply ctlCmd_oneHeld
      | apply keep_then
        first
        | apply sendAdm_oneHeld | apply showSlot_oneHeld | apply upSlot_oneHeld | apply accept_oneHeld
        | apply reject_oneHeld | apply ctlCmd_oneHeld
    | exact fun _ => rfl
    | refine keep_opt ?_ fun _ => ?_
    | refine keep_some (fun _ => ?_) fun _ => ?_
    | dsimp -zeta only
    | split

set_option smartUnfolding false in
theorem endWalk_oneHeld (n : Slot) (a : Analysis) {s : State} : s.oneHeld → (s.endWalk n a).oneHeld := by
  delta endWalk
  repeat' first
    | extract_lets
    | with_reducible first
      | exact fun h => h | assumption | apply keep_ite | apply reject_oneHeld | apply sendAdm_oneHeld
      | apply ctlCmd_oneHeld | apply finishWalk_oneHeld
      | apply keep_then
        first | apply reject_oneHeld | apply sendAdm_oneHeld | apply ctlCmd_oneHeld | apply finishWalk_oneHeld
    | refine keep_opt ?_ fun _ => ?_
    | refine keep_some (fun _ => ?_) fun _ => ?_
    | dsimp -zeta only
    | split

theorem commitJob_oneHeld (n : Slot) {s : State} : s.oneHeld → (s.commitJob n).oneHeld := by
  delta commitJob
  repeat' first
    | extract_lets
    | with_reducible first
      | exact fun h => h | assumption | apply keep_ite | apply keep_fstIte | apply upTwin_oneHeld
      | apply upBe_oneHeld | apply jobChange_oneHeld | apply endJob_oneHeld | apply refresh_oneHeld
      | apply lateCmds_oneHeld | apply upJob_oneHeld | apply each_oneHeld
      | apply keep_then
        first
        | apply upTwin_oneHeld | apply upBe_oneHeld | apply jobChange_oneHeld | apply endJob_oneHeld
        | apply refresh_oneHeld | apply lateCmds_oneHeld | apply upJob_oneHeld | apply each_oneHeld
      | decide
    | exact fun _ => rfl
    | refine fun _ (_ : State) => ?_
    | dsimp -zeta only
    | split

theorem ilkLatch_oneHeld {s : State} : s.oneHeld → s.ilkLatch.oneHeld := by
  delta ilkLatch
  repeat' first
    | extract_lets
    | with_reducible first
      | exact fun h => h | assumption | apply keep_ite | apply holdNow_oneHeld | apply ilkSet_oneHeld
      | apply keep_then
        first | apply holdNow_oneHeld | apply ilkSet_oneHeld
    | dsimp -zeta only
    | split

theorem leSafe_oneHeld (k : Engine) (l : LSlot) (cause : Nat) {s : State} : s.oneHeld → (s.leSafe k l cause).oneHeld := by
  delta leSafe
  repeat' first
    | extract_lets
    | with_reducible first
      | exact fun h => h | assumption | apply keep_ite | apply keep_fstIte | apply upLs_oneHeld
      | apply ownSafe_oneHeld | apply irq_oneHeld | apply acceptStop_oneHeld | apply holdDone_oneHeld
      | apply axSafe_oneHeld | apply traceTrigger_oneHeld | apply each_oneHeld | apply ifc_oneHeld
      | apply keep_then
        first
        | apply upLs_oneHeld | apply ownSafe_oneHeld | apply irq_oneHeld | apply acceptStop_oneHeld
        | apply holdDone_oneHeld | apply axSafe_oneHeld | apply traceTrigger_oneHeld | apply each_oneHeld
        | apply ifc_oneHeld
    | refine fun _ (_ : State) => ?_
    | refine fun (_ : State) => ?_
    | dsimp -zeta only
    | split

theorem leReact_oneHeld (k : Engine) (l : LSlot) (loss frz foll : Bool) {s : State} : s.oneHeld → (s.leReact k l loss frz foll).oneHeld := by
  delta leReact
  repeat' first
    | extract_lets
    | with_reducible first
      | exact fun h => h | assumption | apply keep_ite | apply report_oneHeld | apply leSafe_oneHeld
      | apply keep_then
        first | apply report_oneHeld | apply leSafe_oneHeld
    | dsimp -zeta only
    | split

set_option smartUnfolding false in
theorem leSupervise_oneHeld (k : Engine) (l : LSlot) (sp sv : Int) (over_ : Bool) {s : State} : s.oneHeld → (s.leSupervise k l sp sv over_).oneHeld := by
  delta leSupervise
  repeat' first
    | extract_lets
    | with_reducible first
      | exact fun h => h | assumption | apply keep_ite | apply upLs_oneHeld | apply wmod_oneHeld
      | apply leOverrun_oneHeld | apply leReact_oneHeld | apply leMarks_oneHeld
      | apply keep_then
        first
        | apply upLs_oneHeld | apply wmod_oneHeld | apply leOverrun_oneHeld | apply leReact_oneHeld
        | apply leMarks_oneHeld
    | dsimp -zeta only
    | split

theorem leRunLaw_oneHeld (k : Engine) (l : LSlot) (retry : Nat) (entered : Bool) (x : Int) (h : s.oneHeld) :
    (s.leRunLaw k l retry entered x).2.2.oneHeld := by
  unfold leRunLaw
  dsimp -zeta only
  extract_lets x ramping sp sv sa flags c s₁ out valid s₂ s₃ s₄ s₅
  have h₁ : s₁.oneHeld := ite_oneHeld (wrBytes_oneHeld _ _ h) h
  have h₃ : s₃.oneHeld := wr_oneHeld _ _ (wr_oneHeld _ _ (wr_oneHeld _ _ (upLs_oneHeld _ _ _ h₁)))
  clear_value s₃ c
  have h₄ : s₄.oneHeld := upLs_oneHeld _ _ _ (leSupervise_oneHeld k l _ _ _ h₃)
  exact ite_oneHeld (upLs_oneHeld _ _ _ h₄) h₄

theorem leUpdate_oneHeld (k : Engine) (l : LSlot) (f retry : Nat) (h : s.oneHeld) : (s.leUpdate k l f retry).oneHeld := by
  unfold leUpdate
  dsimp -zeta only
  extract_lets t j x0 live s₁ s₂ enter s₃ runs x valid s₄ v s₅ s₆ s₇
  have h₁ : s₁.oneHeld := upLs_oneHeld _ _ _ h
  have h₂ : s₂.oneHeld := ite_oneHeld (leFeedback_oneHeld _ _ _ h₁) h₁
  have hm := leSource_oneHeld k l t h₂
  have h₃ : s₃.oneHeld := ite_oneHeld (upLs_oneHeld _ _ _ hm) hm
  have hr : (if runs then s₃.leRunLaw k l retry enter (s₂.leSource k l t).1 else (0, 0, s₃)).2.2.oneHeld := by
    split
    · exact leRunLaw_oneHeld k l _ _ _ h₃
    · exact h₃
  have h₅ : s₅.oneHeld := digItem_oneHeld _ _ _ _ (leHistory_oneHeld _ _ _ _ _ _ hr)
  exact upLs_oneHeld _ _ _ (traceUpdate_oneHeld _ _ _ _ (leSend_oneHeld _ _ _ _ h₅))

theorem joinSkew_oneHeld {s : State} : s.oneHeld → s.joinSkew.oneHeld := by
  delta joinSkew
  repeat' first
    | extract_lets
    | with_reducible first
      | exact fun h => h | assumption | apply keep_ite | apply putSkew_oneHeld | apply joinFail_oneHeld
      | apply upTwin_oneHeld | apply joinCopy_oneHeld
      | apply keep_then
        first | apply putSkew_oneHeld | apply joinFail_oneHeld | apply upTwin_oneHeld | apply joinCopy_oneHeld
    | dsimp -zeta only
    | split

theorem joinTime_oneHeld {s : State} : s.oneHeld → s.joinTime.oneHeld := by
  delta joinTime
  repeat' first
    | extract_lets
    | with_reducible first
      | exact fun h => h | assumption | apply keep_ite | apply joinFail_oneHeld | apply joinSkew_oneHeld
      | apply sendRtts_oneHeld | apply putOfs_oneHeld | apply upTwin_oneHeld
      | apply keep_then
        first
        | apply joinFail_oneHeld | apply joinSkew_oneHeld | apply sendRtts_oneHeld | apply putOfs_oneHeld
        | apply upTwin_oneHeld
    | dsimp -zeta only
    | split

theorem compareDigests_oneHeld (no last : Nat) (own far : DWord) {s : State} : s.oneHeld → (s.compareDigests no last own far).oneHeld := by
  delta compareDigests
  repeat' first
    | extract_lets
    | with_reducible first
      | exact fun h => h | assumption | apply keep_ite | apply wr_oneHeld | apply upTwin_oneHeld
      | apply diverge_oneHeld
      | apply keep_then
        first | apply wr_oneHeld | apply upTwin_oneHeld | apply diverge_oneHeld
    | dsimp -zeta only
    | split

theorem leadRejects_oneHeld (n : Slot) {s : State} : s.oneHeld → (s.leadRejects n).oneHeld := by
  delta leadRejects
  repeat' first
    | extract_lets
    | with_reducible first
      | exact fun h => h | assumption | apply keep_ite | apply upSlot_oneHeld | apply refresh_oneHeld
      | apply jobChange_oneHeld
      | apply keep_then
        first | apply upSlot_oneHeld | apply refresh_oneHeld | apply jobChange_oneHeld
      | decide
    | exact fun _ => rfl
    | dsimp -zeta only
    | split

theorem cmdSecond_oneHeld (op : Nat) (n : Slot) (at_ : Nat) (h : s.oneHeld) : (s.cmdSecond op n at_).oneHeld := by
  dsimp only [cmdSecond]
  refine ite_oneHeld (ite_oneHeld (diverge_oneHeld _ h) (upTwin_oneHeld _ h)) (ite_oneHeld ?_ (ite_oneHeld ?_ ?_))
  · split
    · exact opSubmit_oneHeld n (wr_oneHeld _ _ (wr_oneHeld _ _ h))
    · exact h
  · refine ite_oneHeld (ite_oneHeld (reAnalyse_oneHeld n h) h) (sendAdm_oneHeld _ _ _ _ (sendCfg_oneHeld (upTwin_oneHeld _ ?_)))
    exact fstIte_oneHeld h (opArm_oneHeld n h)
  · exact ite_oneHeld (leadRejects_oneHeld n h) (jobDo_oneHeld op n h)

theorem armAnswer_oneHeld (c : TimedCmd) (n : Slot) (code : Nat) {s : State} : s.oneHeld → (s.armAnswer c n code).oneHeld := by
  delta armAnswer
  repeat' first
    | extract_lets
    | with_reducible first
      | exact fun h => h | assumption | apply keep_ite | apply upTwin_oneHeld | apply armJob_oneHeld
      | apply ctlCmd_oneHeld | apply jobPost_oneHeld | apply autoFails_oneHeld
      | apply keep_then
        first
        | apply upTwin_oneHeld | apply armJob_oneHeld | apply ctlCmd_oneHeld | apply jobPost_oneHeld
        | apply autoFails_oneHeld
    | dsimp -zeta only
    | split

set_option smartUnfolding false in
theorem forceMore_oneHeld (id u : Nat) {s : State} : s.oneHeld → (s.forceMore id u).oneHeld := by
  delta forceMore
  repeat' first
    | extract_lets
    | with_reducible first
      | exact fun h => h | assumption | apply keep_ite | apply keep_fstIte | apply asForced_oneHeld_of_oneHeld
      | apply setB_oneHeld | apply axHalt_oneHeld | apply rptLost_oneHeld | apply openVisit_oneHeld
      | apply cellFull_oneHeld | apply portDown_oneHeld | apply onLanes_oneHeld | apply miswired_oneHeld
      | apply diverge_oneHeld | apply upTwin_oneHeld | apply setPair_twinClear_oneHeld | apply holdover_oneHeld
      | apply refLost_oneHeld | apply upRec_oneHeld | apply stopAll_oneHeld | apply upPwr_oneHeld
      | apply leSafe_oneHeld | apply upLs_oneHeld | apply fresh_oneHeld | apply forceMoreId_oneHeld
      | apply asForced_oneHeld
      | apply keep_then
        first
        | apply asForced_oneHeld_of_oneHeld | apply setB_oneHeld | apply axHalt_oneHeld | apply rptLost_oneHeld
        | apply openVisit_oneHeld | apply cellFull_oneHeld | apply portDown_oneHeld | apply onLanes_oneHeld
        | apply miswired_oneHeld | apply diverge_oneHeld | apply upTwin_oneHeld | apply setPair_twinClear_oneHeld
        | apply holdover_oneHeld | apply refLost_oneHeld | apply upRec_oneHeld | apply stopAll_oneHeld
        | apply upPwr_oneHeld | apply leSafe_oneHeld | apply upLs_oneHeld | apply fresh_oneHeld
        | apply forceMoreId_oneHeld | apply asForced_oneHeld
    | refine keep_sndProd (fun _ _ => ?_) ?_
    | refine keep_lit ?_ fun _ => ?_
    | refine fun (_ : State) => ?_
    | dsimp -zeta only
    | split

set_option smartUnfolding false in
theorem forceOne_oneHeld (id u : Nat) {s : State} : s.oneHeld → (s.forceOne id u).oneHeld := by
  delta forceOne
  repeat' first
    | extract_lets
    | with_reducible first
      | exact fun h => h | assumption | apply keep_ite | apply keep_fstIte | apply asForced_oneHeld_of_oneHeld
      | apply shpStop_oneHeld | apply bootBreak_oneHeld | apply kill_oneHeld | apply stopAll_oneHeld
      | apply stopBeams_oneHeld | apply enterFallback_oneHeld | apply setB_oneHeld | apply upPcu_oneHeld
      | apply forceMore_oneHeld | apply asForced_oneHeld
      | apply keep_then
        first
        | apply asForced_oneHeld_of_oneHeld | apply shpStop_oneHeld | apply bootBreak_oneHeld | apply kill_oneHeld
        | apply stopAll_oneHeld | apply stopBeams_oneHeld | apply enterFallback_oneHeld | apply setB_oneHeld
        | apply upPcu_oneHeld | apply forceMore_oneHeld | apply asForced_oneHeld
    | refine keep_lit ?_ fun _ => ?_
    | refine fun (_ : State) => ?_
    | dsimp -zeta only
    | split

theorem forceBit_oneHeld (id : Nat) {s : State} : s.oneHeld → (s.forceBit id).oneHeld := by
  delta forceBit
  repeat' first
    | extract_lets
    | with_reducible first
      | exact fun h => h | assumption | apply keep_ite | apply forceSram_oneHeld | apply forceOne_oneHeld
      | apply keep_then
        first | apply forceSram_oneHeld | apply forceOne_oneHeld
    | dsimp -zeta only
    | split

theorem execSubmit_oneHeld (n : Slot) {s : State} : s.oneHeld → (execSubmit n s).OneHeld := by
  delta execSubmit
  repeat' first
    | extract_lets
    | with_reducible first
      | exact fun h => h | assumption | apply keep_ite | apply keep_resIte | apply next_oneHeld
      | apply jobIssue_oneHeld
      | apply keep_then
        first | apply next_oneHeld | apply jobIssue_oneHeld
    | dsimp -zeta only
    | split

theorem execArm_oneHeld (n : Slot) {s : State} : s.oneHeld → (execArm n s).OneHeld := by
  delta execArm
  repeat' first
    | extract_lets
    | with_reducible first
      | exact fun h => h | assumption | apply keep_ite | apply keep_resIte | apply next_oneHeld
      | apply jobIssue_oneHeld
      | apply keep_then
        first | apply next_oneHeld | apply jobIssue_oneHeld
    | dsimp -zeta only
    | split

theorem execDisarm_oneHeld (n : Slot) {s : State} : s.oneHeld → (execDisarm n s).OneHeld := by
  delta execDisarm
  repeat' first
    | extract_lets
    | with_reducible first
      | exact fun h => h | assumption | apply keep_ite | apply keep_resIte | apply next_oneHeld
      | apply jobIssue_oneHeld
      | apply keep_then
        first | apply next_oneHeld | apply jobIssue_oneHeld
    | dsimp -zeta only
    | split

theorem execAbort_oneHeld (n : Slot) {s : State} : s.oneHeld → (execAbort n s).OneHeld := by
  delta execAbort
  repeat' first
    | extract_lets
    | with_reducible first
      | exact fun h => h | assumption | apply keep_ite | apply keep_resIte | apply next_oneHeld
      | apply jobIssue_oneHeld
      | apply keep_then
        first | apply next_oneHeld | apply jobIssue_oneHeld
    | dsimp -zeta only
    | split

theorem execResume_oneHeld (n : Slot) {s : State} : s.oneHeld → (execResume n s).OneHeld := by
  delta execResume
  repeat' first
    | extract_lets
    | with_reducible first
      | exact fun h => h | assumption | apply keep_ite | apply keep_resIte | apply next_oneHeld
      | apply jobIssue_oneHeld
      | apply keep_then
        first | apply next_oneHeld | apply jobIssue_oneHeld
    | dsimp -zeta only
    | split

theorem execRelease_oneHeld (n : Slot) {s : State} : s.oneHeld → (execRelease n s).OneHeld := by
  delta execRelease
  repeat' first
    | extract_lets
    | with_reducible first
      | exact fun h => h | assumption | apply keep_ite | apply keep_resIte | apply next_oneHeld
      | apply jobIssue_oneHeld
      | apply keep_then
        first | apply next_oneHeld | apply jobIssue_oneHeld
    | dsimp -zeta only
    | split

theorem execGo_oneHeld (n : Slot) {s : State} : s.oneHeld → (execGo n s).OneHeld := by
  delta execGo
  repeat' first
    | extract_lets
    | with_reducible first
      | exact fun h => h | assumption | apply keep_ite | apply keep_resIte | apply next_oneHeld
      | apply jobIssue_oneHeld
      | apply keep_then
        first | apply next_oneHeld | apply jobIssue_oneHeld
    | dsimp -zeta only
    | split

theorem execJobHold_oneHeld {s : State} : s.oneHeld → (execJobHold s).OneHeld := by
  delta execJobHold
  repeat' first
    | extract_lets
    | with_reducible first
      | exact fun h => h | assumption | apply keep_ite | apply keep_resIte | apply next_oneHeld
      | apply jobIssue_oneHeld
      | apply keep_then
        first | apply next_oneHeld | apply jobIssue_oneHeld
    | dsimp -zeta only
    | split

set_option smartUnfolding false in
theorem execWalkStart_oneHeld {s : State} : s.oneHeld → (execWalkStart s).OneHeld := by
  delta execWalkStart
  repeat' first
    | extract_lets
    | with_reducible first
      | exact fun h => h | assumption | apply keep_ite | apply keep_resIte | apply next_oneHeld
      | apply upJob_oneHeld | apply showSlot_oneHeld | apply upSlot_oneHeld
      | apply keep_then
        first | apply next_oneHeld | apply upJob_oneHeld | apply showSlot_oneHeld | apply upSlot_oneHeld
    | exact fun _ => rfl
    | refine keep_list ?_ fun _ _ => ?_
    | dsimp -zeta only
    | split

set_option smartUnfolding false in
theorem execAnalysisEnd_oneHeld {s : State} : s.oneHeld → (execAnalysisEnd s).OneHeld := by
  delta execAnalysisEnd
  repeat' first
    | extract_lets
    | with_reducible first
      | exact fun h => h | assumption | apply keep_ite | apply keep_resIte | apply keep_fstIte | apply next_oneHeld
      | apply endWalk_oneHeld | apply shp_oneHeld
      | apply keep_then
        first | apply next_oneHeld | apply endWalk_oneHeld | apply shp_oneHeld
    | refine keep_opt ?_ fun _ => ?_
    | refine keep_some (fun _ => ?_) fun _ => ?_
    | refine fun (_ : State) => ?_
    | dsimp -zeta only
    | split

set_option smartUnfolding false in
theorem execWalkLimit_oneHeld {s : State} : s.oneHeld → (execWalkLimit s).OneHeld := by
  delta execWalkLimit
  repeat' first
    | extract_lets
    | with_reducible first
      | exact fun h => h | assumption | apply keep_ite | apply keep_resIte | apply keep_fstIte | apply next_oneHeld
      | apply endWalk_oneHeld | apply shp_oneHeld
      | apply keep_then
        first | apply next_oneHeld | apply endWalk_oneHeld | apply shp_oneHeld
    | refine keep_opt ?_ fun _ => ?_
    | refine keep_some (fun _ => ?_) fun _ => ?_
    | refine fun (_ : State) => ?_
    | dsimp -zeta only
    | split

theorem execStatusPublish_oneHeld (n : Slot) {s : State} : s.oneHeld → (execStatusPublish n s).OneHeld := by
  delta execStatusPublish
  repeat' first
    | extract_lets
    | with_reducible first
      | exact fun h => h | assumption | apply keep_ite | apply keep_resIte | apply next_oneHeld
      | apply walkOn_oneHeld | apply publish_oneHeld | apply upSlot_oneHeld
      | apply keep_then
        first | apply next_oneHeld | apply walkOn_oneHeld | apply publish_oneHeld | apply upSlot_oneHeld
    | exact fun _ => rfl
    | dsimp -zeta only
    | split

theorem execAutoArm_oneHeld (n : Slot) {s : State} : s.oneHeld → (execAutoArm n s).OneHeld := by
  delta execAutoArm
  repeat' first
    | extract_lets
    | with_reducible first
      | exact fun h => h | assumption | apply keep_ite | apply keep_resIte | apply next_oneHeld
      | apply autoArm_oneHeld
      | apply keep_then
        first | apply next_oneHeld | apply autoArm_oneHeld
    | dsimp -zeta only
    | split

theorem execPreparationBegin_oneHeld (n : Slot) (h : s.oneHeld) : (execPreparationBegin n s).OneHeld := by
  have hb (f : JobSlot → JobSlot) (hf : ∀ j, (f j).st = j.st) : ((s.upSlot n f).each (s.js n).named (prepBeam n)).oneHeld :=
    each_oneHeld _ (fun b _ g => prepBeam_oneHeld n b g) (upSlot_oneHeld n hf h)
  unfold execPreparationBegin
  extract_lets j tp end_ drift s₁ s₂ bound
  have h₂ : s₂.oneHeld := hb _ fun _ => rfl
  exact resIte_oneHeld h (resIte_oneHeld (axesBar_oneHeld n h) (resIte_oneHeld h₂
    (resIte_oneHeld (fixS_oneHeld _ _ _ _ h₂) (resIte_oneHeld (fixS_oneHeld _ _ _ _ h₂) h₂))))

set_option smartUnfolding false in
theorem execPreparationEnd_oneHeld (n : Slot) {s : State} : s.oneHeld → (execPreparationEnd n s).OneHeld := by
  delta execPreparationEnd
  repeat' first
    | extract_lets
    | with_reducible first
      | exact fun h => h | assumption | apply keep_ite | apply keep_resIte | apply next_oneHeld
      | apply showSlot_oneHeld | apply upSlot_oneHeld
      | apply keep_then
        first | apply next_oneHeld | apply showSlot_oneHeld | apply upSlot_oneHeld
    | exact fun _ => rfl
    | refine keep_opt ?_ fun _ => ?_
    | refine keep_some (fun _ => ?_) fun _ => ?_
    | dsimp -zeta only
    | split

theorem execJobStart_oneHeld (n : Slot) (h : s.oneHeld) : (execJobStart n s).OneHeld := by
  dsimp only [execJobStart]
  split
  · exact h
  · refine resIte_oneHeld h ?_
    split
    · exact refresh_oneHeld 0 (withdraw_oneHeld n h)
    next hc => exact startRun_oneHeld n _ (Bool.eq_false_of_not_eq_true fun e => hc (.inr e)) h

set_option smartUnfolding false in
theorem execJobCommit_oneHeld {s : State} : s.oneHeld → (execJobCommit s).OneHeld := by
  delta execJobCommit
  repeat' first
    | extract_lets
    | with_reducible first
      | exact fun h => h | assumption | apply keep_ite | apply keep_resIte | apply next_oneHeld
      | apply promiseMiss_oneHeld | apply commitJob_oneHeld
      | apply keep_then
        first | apply next_oneHeld | apply promiseMiss_oneHeld | apply commitJob_oneHeld
    | refine keep_opt ?_ fun _ => ?_
    | refine keep_some (fun _ => ?_) fun _ => ?_
    | dsimp -zeta only
    | split

set_option smartUnfolding false in
theorem execLoop_oneHeld (b : Beam) (creg : Bool) (rc : Fin 16) (bound body : BitVec 24) {s : State} : s.oneHeld → (execLoop b creg rc bound body s).OneHeld := by
  delta execLoop
  repeat' first
    | extract_lets
    | with_reducible first
      | exact fun h => h | assumption | apply keep_ite | apply keep_resIte | apply keep_fstIte | apply next_oneHeld
      | apply report_oneHeld | apply setDec_oneHeld | apply upSlot_oneHeld | apply decode_oneHeld
      | apply keep_then
        first
        | apply next_oneHeld | apply report_oneHeld | apply setDec_oneHeld | apply upSlot_oneHeld
        | apply decode_oneHeld
    | exact fun _ => rfl
    | refine keep_opt ?_ fun _ => ?_
    | refine keep_some (fun _ => ?_) fun _ => ?_
    | refine fun _ _ (_ : State) => ?_
    | dsimp -zeta only
    | split

set_option smartUnfolding false in
theorem execMusterRelease_oneHeld (id : Byte) {s : State} : s.oneHeld → (execMusterRelease id s).OneHeld := by
  delta execMusterRelease
  repeat' first
    | extract_lets
    | with_reducible first
      | exact fun h => h | assumption | apply keep_ite | apply keep_resIte | apply keep_fstIte | apply next_oneHeld
      | apply barDone_oneHeld | apply muster_oneHeld | apply askStop_oneHeld | apply promiseMiss_oneHeld
      | apply each_oneHeld
      | apply keep_then
        first
        | apply next_oneHeld | apply barDone_oneHeld | apply muster_oneHeld | apply askStop_oneHeld
        | apply promiseMiss_oneHeld | apply each_oneHeld
    | refine keep_opt ?_ fun _ => ?_
    | refine keep_some (fun _ => ?_) fun _ => ?_
    | refine fun _ (_ : State) => ?_
    | dsimp -zeta only
    | split

set_option smartUnfolding false in
theorem execBeStop_oneHeld (b : Beam) {s : State} : s.oneHeld → (execBeStop b s).OneHeld := by
  delta execBeStop
  repeat' first
    | extract_lets
    | with_reducible first
      | exact fun h => h | assumption | apply keep_ite | apply keep_resIte | apply next_oneHeld
      | apply holdDone_oneHeld | apply acceptStop_oneHeld
      | apply keep_then
        first | apply next_oneHeld | apply holdDone_oneHeld | apply acceptStop_oneHeld
    | refine keep_opt ?_ fun _ => ?_
    | refine keep_some (fun _ => ?_) fun _ => ?_
    | dsimp -zeta only
    | split

set_option smartUnfolding false in
theorem execStopComplete_oneHeld (b : Beam) {s : State} : s.oneHeld → (execStopComplete b s).OneHeld := by
  delta execStopComplete
  repeat' first
    | extract_lets
    | with_reducible first
      | exact fun h => h | assumption | apply keep_ite | apply keep_resIte | apply next_oneHeld
      | apply holdDone_oneHeld | apply upBe_oneHeld
      | apply keep_then
        first | apply next_oneHeld | apply holdDone_oneHeld | apply upBe_oneHeld
    | refine keep_opt ?_ fun _ => ?_
    | refine keep_some (fun _ => ?_) fun _ => ?_
    | dsimp -zeta only
    | split

theorem execPcuWord_oneHeld (b : Beam) {s : State} : s.oneHeld → (execPcuWord b s).OneHeld := by
  delta execPcuWord
  repeat' first
    | extract_lets
    | with_reducible first
      | exact fun h => h | assumption | apply keep_ite | apply keep_resIte | apply next_oneHeld
      | apply pcuSample_oneHeld
      | apply keep_then
        first | apply next_oneHeld | apply pcuSample_oneHeld
    | dsimp -zeta only
    | split

theorem execInterlockTrip_oneHeld (a b : Bool) (widthPs : Nat) (h : s.oneHeld) :
    (execInterlockTrip a b widthPs s).OneHeld := by
  dsimp only [execInterlockTrip]
  repeat' first
    | with_reducible first
      | assumption | apply next_oneHeld | apply ite_oneHeld | apply resIte_oneHeld | apply ilkLevels_oneHeld
      | apply ilkLatch_oneHeld | apply fresh_oneHeld
    | split

set_option smartUnfolding false in
theorem execVisitCommit_oneHeld (b : Beam) {s : State} : s.oneHeld → (execVisitCommit b s).OneHeld := by
  delta execVisitCommit
  repeat' first
    | extract_lets
    | with_reducible first
      | exact fun h => h | assumption | apply keep_ite | apply keep_resIte | apply next_oneHeld
      | apply commitVisit_oneHeld | apply upLdg_oneHeld
      | apply keep_then
        first | apply next_oneHeld | apply commitVisit_oneHeld | apply upLdg_oneHeld
    | refine keep_list ?_ fun _ _ => ?_
    | dsimp -zeta only
    | split

theorem execLeUpdate_oneHeld (k : Engine) (l : LSlot) (retry : Nat) {s : State} : s.oneHeld → (execLeUpdate k l retry s).OneHeld := by
  delta execLeUpdate
  repeat' first
    | extract_lets
    | with_reducible first
      | exact fun h => h | assumption | apply keep_ite | apply keep_resIte | apply next_oneHeld
      | apply leUpdate_oneHeld
      | apply keep_then
        first | apply next_oneHeld | apply leUpdate_oneHeld
    | dsimp -zeta only
    | split

theorem execLeImgCheck_oneHeld (k : Engine) (h : s.oneHeld) : (execLeImgCheck k s).OneHeld := by
  have h₁ (f : LoopEng → LoopEng) := upLe_oneHeld k f h
  unfold execLeImgCheck
  refine resIte_oneHeld h ?_
  extract_lets e holds
  split
  · exact h
  · exact resIte_oneHeld (h₁ _) (leSafe_oneHeld k _ _ (report_oneHeld _ _ _ (h₁ _)))

set_option smartUnfolding false in
theorem execPitchStart_oneHeld (n : Axis) {s : State} : s.oneHeld → (execPitchStart n s).OneHeld := by
  delta execPitchStart
  repeat' first
    | extract_lets
    | with_reducible first
      | exact fun h => h | assumption | apply keep_ite | apply keep_resIte | apply next_oneHeld
      | apply axPlan_oneHeld | apply pitchBegun_oneHeld
      | apply keep_then
        first | apply next_oneHeld | apply axPlan_oneHeld | apply pitchBegun_oneHeld
    | refine keep_opt ?_ fun _ => ?_
    | refine keep_list ?_ fun _ _ => ?_
    | refine keep_some (fun _ => ?_) fun _ => ?_
    | dsimp -zeta only
    | split

set_option smartUnfolding false in
theorem execTwinTime_oneHeld (launch lastArr : Word) {s : State} : s.oneHeld → (execTwinTime launch lastArr s).OneHeld := by
  delta execTwinTime
  repeat' first
    | extract_lets
    | with_reducible first
      | exact fun h => h | assumption | apply keep_ite | apply keep_resIte | apply next_oneHeld
      | apply upTwin_oneHeld | apply joinTime_oneHeld | apply timeJudge_oneHeld
      | apply keep_then
        first | apply next_oneHeld | apply upTwin_oneHeld | apply joinTime_oneHeld | apply timeJudge_oneHeld
    | refine keep_opt ?_ fun _ => ?_
    | refine keep_some (fun _ => ?_) fun _ => ?_
    | dsimp -zeta only
    | split

set_option smartUnfolding false in
theorem execCheckpointDigest_oneHeld {s : State} : s.oneHeld → (execCheckpointDigest s).OneHeld := by
  delta execCheckpointDigest
  repeat' first
    | extract_lets
    | with_reducible first
      | exact fun h => h | assumption | apply keep_ite | apply keep_resIte | apply next_oneHeld | apply cell_oneHeld
      | apply upTwin_oneHeld | apply compareDigests_oneHeld
      | apply keep_then
        first | apply next_oneHeld | apply cell_oneHeld | apply upTwin_oneHeld | apply compareDigests_oneHeld
    | refine keep_opt ?_ fun _ => ?_
    | refine keep_some (fun _ => ?_) fun _ => ?_
    | dsimp -zeta only
    | split

set_option smartUnfolding false in
theorem execTwinDigest_oneHeld (num : Word) (digest : DWord) {s : State} : s.oneHeld → (execTwinDigest num digest s).OneHeld := by
  delta execTwinDigest
  repeat' first
    | extract_lets
    | with_reducible first
      | exact fun h => h | assumption | apply keep_ite | apply keep_resIte | apply next_oneHeld
      | apply compareDigests_oneHeld | apply upTwin_oneHeld
      | apply keep_then
        first | apply next_oneHeld | apply compareDigests_oneHeld | apply upTwin_oneHeld
    | refine keep_opt ?_ fun _ => ?_
    | refine keep_some (fun _ => ?_) fun _ => ?_
    | dsimp -zeta only
    | split

theorem execDigestTimeout_oneHeld {s : State} : s.oneHeld → (execDigestTimeout s).OneHeld := by
  delta execDigestTimeout
  repeat' first
    | extract_lets
    | with_reducible first
      | exact fun h => h | assumption | apply keep_ite | apply keep_resIte | apply next_oneHeld
      | apply diverge_oneHeld
      | apply keep_then
        first | apply next_oneHeld | apply diverge_oneHeld
    | dsimp -zeta only
    | split

theorem execTwinHbMissing_oneHeld {s : State} : s.oneHeld → (execTwinHbMissing s).OneHeld := by
  delta execTwinHbMissing
  repeat' first
    | extract_lets
    | with_reducible first
      | exact fun h => h | assumption | apply keep_ite | apply keep_resIte | apply next_oneHeld
      | apply upTwin_oneHeld | apply count_oneHeld | apply decideStep_oneHeld | apply report_oneHeld
      | apply setPair_twinClear_oneHeld
      | apply keep_then
        first
        | apply next_oneHeld | apply upTwin_oneHeld | apply count_oneHeld | apply decideStep_oneHeld
        | apply report_oneHeld | apply setPair_twinClear_oneHeld
    | dsimp -zeta only
    | split

set_option smartUnfolding false in
theorem execTakeover_oneHeld {s : State} : s.oneHeld → (execTakeover s).OneHeld := by
  delta execTakeover
  repeat' first
    | extract_lets
    | with_reducible first
      | exact fun h => h | assumption | apply keep_ite | apply keep_resIte | apply next_oneHeld
      | apply upTwin_oneHeld | apply setPair_oneHeld | apply report_oneHeld | apply count_oneHeld
      | apply twinClear_oneHeld | apply setF_oneHeld | apply setB_oneHeld | apply holdAtEnd_oneHeld
      | apply keep_then
        first
        | apply next_oneHeld | apply upTwin_oneHeld | apply setPair_oneHeld | apply report_oneHeld
        | apply count_oneHeld | apply twinClear_oneHeld | apply setF_oneHeld | apply setB_oneHeld
        | apply holdAtEnd_oneHeld
    | refine keep_opt ?_ fun _ => ?_
    | refine keep_some (fun _ => ?_) fun _ => ?_
    | dsimp -zeta only
    | split

set_option smartUnfolding false in
theorem execTwinCmdEffective_oneHeld {s : State} : s.oneHeld → (execTwinCmdEffective s).OneHeld := by
  delta execTwinCmdEffective
  repeat' first
    | extract_lets
    | with_reducible first
      | exact fun h => h | assumption | apply keep_ite | apply keep_resIte | apply next_oneHeld
      | apply upTwin_oneHeld | apply jobPost_oneHeld | apply jobDo_oneHeld
      | apply keep_then
        first | apply next_oneHeld | apply upTwin_oneHeld | apply jobPost_oneHeld | apply jobDo_oneHeld
    | refine keep_fstProd (fun _ _ => ?_) ?_
    | refine keep_list ?_ fun _ _ => ?_
    | dsimp -zeta only
    | split

theorem execTwinCtlCmd_oneHeld (seq : BitVec 16) (op slot : Byte) (at_ : BitVec 64) (h : s.oneHeld) :
    (execTwinCtlCmd seq op slot at_ s).OneHeld := by
  apply next_oneHeld
  repeat' first
    | with_reducible first
      | assumption | intro _ | apply next_oneHeld | apply ite_oneHeld | apply resIte_oneHeld | apply fstIte_oneHeld
      | apply rxTwin_oneHeld | apply diverge_oneHeld | apply cmdSecond_oneHeld
    | extract_lets
    | split

set_option smartUnfolding false in
theorem execTwinAdm_oneHeld (seq : BitVec 16) (slot code : Byte) (jtFin digest : BitVec 64) {s : State} : s.oneHeld → (execTwinAdm seq slot code jtFin digest s).OneHeld := by
  delta execTwinAdm
  repeat' first
    | extract_lets
    | with_reducible first
      | exact fun h => h | assumption | apply keep_ite | apply keep_resIte | apply keep_fstIte | apply next_oneHeld
      | apply armAnswer_oneHeld | apply upSlot_oneHeld | apply rxTwin_oneHeld
      | apply keep_then
        first | apply next_oneHeld | apply armAnswer_oneHeld | apply upSlot_oneHeld | apply rxTwin_oneHeld
    | exact fun _ => rfl
    | refine keep_opt ?_ fun _ => ?_
    | refine keep_some (fun _ => ?_) fun _ => ?_
    | refine fun (_ : State) => ?_
    | dsimp -zeta only
    | split

theorem execTwinStart_oneHeld (seq : BitVec 16) (slot : Byte) (at_ : BitVec 64) {s : State} : s.oneHeld → (execTwinStart seq slot at_ s).OneHeld := by
  delta execTwinStart
  repeat' first
    | extract_lets
    | with_reducible first
      | exact fun h => h | assumption | apply keep_ite | apply keep_resIte | apply keep_fstIte | apply next_oneHeld
      | apply diverge_oneHeld | apply fixS_oneHeld | apply rxTwin_oneHeld
      | apply keep_then
        first | apply next_oneHeld | apply diverge_oneHeld | apply fixS_oneHeld | apply rxTwin_oneHeld
    | refine fun (_ : State) => ?_
    | dsimp -zeta only
    | split

theorem execTwinLeave_oneHeld (seq : BitVec 16) (cause : Byte) {s : State} : s.oneHeld → (execTwinLeave seq cause s).OneHeld := by
  delta execTwinLeave
  repeat' first
    | extract_lets
    | with_reducible first
      | exact fun h => h | assumption | apply keep_ite | apply keep_resIte | apply keep_fstIte | apply next_oneHeld
      | apply joinFail_oneHeld | apply setPair_twinClear_oneHeld | apply rxTwin_oneHeld
      | apply keep_then
        first
        | apply next_oneHeld | apply joinFail_oneHeld | apply setPair_twinClear_oneHeld | apply rxTwin_oneHeld
    | refine fun (_ : State) => ?_
    | dsimp -zeta only
    | split

theorem execTwinCfg_oneHeld (seq : BitVec 16) (digest : DWord) (h : s.oneHeld) :
    (execTwinCfg seq digest s).OneHeld := by
  apply next_oneHeld
  repeat' first
    | with_reducible first
      | assumption | intro _ | apply next_oneHeld | apply ite_oneHeld | apply resIte_oneHeld | apply fstIte_oneHeld
      | apply rxTwin_oneHeld | apply upTwin_oneHeld | apply joinFail_oneHeld | apply ctl_oneHeld
      | apply setPair_oneHeld | apply sendCfg_oneHeld | apply putCfgDigest_oneHeld
    | extract_lets
    | split

theorem execTwinRtt_oneHeld (seq : BitVec 16) (first : Byte) (rtts : List (BitVec 16)) {s : State} : s.oneHeld → (execTwinRtt seq first rtts s).OneHeld := by
  delta execTwinRtt
  repeat' first
    | extract_lets
    | with_reducible first
      | exact fun h => h | assumption | apply keep_ite | apply keep_resIte | apply keep_fstIte | apply next_oneHeld
      | apply upTwin_oneHeld | apply judgeSkew_oneHeld | apply joinSkew_oneHeld | apply rxTwin_oneHeld
      | apply keep_then
        first
        | apply next_oneHeld | apply upTwin_oneHeld | apply judgeSkew_oneHeld | apply joinSkew_oneHeld
        | apply rxTwin_oneHeld
    | refine fun (_ : State) => ?_
    | dsimp -zeta only
    | split

theorem execFltForce_oneHeld (k : Fin 8) (bits : Word) {s : State} : s.oneHeld → (execFltForce k bits s).OneHeld := by
  delta execFltForce
  repeat' first
    | extract_lets
    | with_reducible first
      | exact fun h => h | assumption | apply keep_ite | apply keep_resIte | apply keep_fstIte | apply next_oneHeld
      | apply forceBit_oneHeld | apply each_oneHeld
      | apply keep_then
        first | apply next_oneHeld | apply forceBit_oneHeld | apply each_oneHeld
    | refine fun _ (_ : State) => ?_
    | dsimp -zeta only
    | split

theorem execLadderRequest_oneHeld (func : Fin 16) (unit : Fin 64) (step : Fin 8) {s : State} : s.oneHeld → (execLadderRequest func unit step s).OneHeld := by
  delta execLadderRequest
  repeat' first
    | extract_lets
    | with_reducible first
      | exact fun h => h | assumption | apply keep_ite | apply keep_resIte | apply next_oneHeld
      | apply stepRequest_oneHeld | apply wr_oneHeld
      | apply keep_then
        first | apply next_oneHeld | apply stepRequest_oneHeld | apply wr_oneHeld
    | dsimp -zeta only
    | split

theorem execRstNAssert_oneHeld : (execRstNAssert s).OneHeld := enterReset_oneHeld _

set_option smartUnfolding false in
theorem execPwrCycEnd_oneHeld {s : State} : s.oneHeld → (execPwrCycEnd s).OneHeld := by
  delta execPwrCycEnd
  repeat' first
    | extract_lets
    | with_reducible first
      | exact fun h => h | assumption | apply keep_ite | apply keep_resIte | apply next_oneHeld
      | exact fun _ => warmReset_oneHeld _ | apply upHub_oneHeld | apply setB_oneHeld
      | apply keep_then
        first
        | apply next_oneHeld | exact fun _ => warmReset_oneHeld _ | apply upHub_oneHeld | apply setB_oneHeld
    | refine keep_opt ?_ fun _ => ?_
    | refine keep_some (fun _ => ?_) fun _ => ?_
    | dsimp -zeta only
    | split

theorem execVresetFall_oneHeld : (execVresetFall s).OneHeld := enterReset_oneHeld _

theorem execTimeRateWrite_oneHeld (d : Dom) (v : Word) {s : State} : s.oneHeld → (execTimeRateWrite d v s).OneHeld := by
  delta execTimeRateWrite
  repeat' first
    | extract_lets
    | with_reducible first
      | exact fun h => h | assumption | apply keep_ite | apply keep_resIte | apply next_oneHeld
      | apply rateTo_oneHeld
      | apply keep_then
        first | apply next_oneHeld | apply rateTo_oneHeld
    | dsimp -zeta only
    | split

theorem execBellwetherWrite_oneHeld (b : Bool) {s : State} : s.oneHeld → (execBellwetherWrite b s).OneHeld := by
  delta execBellwetherWrite
  repeat' first
    | extract_lets
    | with_reducible first
      | exact fun h => h | assumption | apply keep_ite | apply keep_resIte | apply next_oneHeld
      | apply redate_oneHeld | apply upTime_oneHeld | apply setF_oneHeld
      | apply keep_then
        first | apply next_oneHeld | apply redate_oneHeld | apply upTime_oneHeld | apply setF_oneHeld
    | dsimp -zeta only
    | split

set_option smartUnfolding false in
theorem execTcapEdge_oneHeld (n : Fin 8) (rising : Bool) (width : Nat) (err : Fin 3) {s : State} : s.oneHeld → (execTcapEdge n rising width err s).OneHeld := by
  delta execTcapEdge
  repeat' first
    | extract_lets
    | with_reducible first
      | exact fun h => h | assumption | apply keep_ite | apply keep_resIte | apply next_oneHeld
      | apply tcTake_oneHeld | apply fresh_oneHeld
      | apply keep_then
        first | apply next_oneHeld | apply tcTake_oneHeld | apply fresh_oneHeld
    | refine keep_sndProd (fun _ _ => ?_) ?_
    | dsimp -zeta only
    | split

theorem execPtpSync_oneHeld (d : Dom) (m : SyncMsg) {s : State} : s.oneHeld → (execPtpSync d m s).OneHeld := by
  delta execPtpSync
  repeat' first
    | extract_lets
    | with_reducible first
      | exact fun h => h | assumption | apply keep_ite | apply keep_resIte | apply next_oneHeld
      | apply count_oneHeld | apply upDom_oneHeld | apply wr_oneHeld | apply servoLock_oneHeld
      | apply servoRun_oneHeld | apply ptpDiscard_oneHeld
      | apply keep_then
        first
        | apply next_oneHeld | apply count_oneHeld | apply upDom_oneHeld | apply wr_oneHeld
        | apply servoLock_oneHeld | apply servoRun_oneHeld | apply ptpDiscard_oneHeld
    | dsimp -zeta only
    | split

set_option smartUnfolding false in
theorem execPtpParentLoss_oneHeld (d : Dom) {s : State} : s.oneHeld → (execPtpParentLoss d s).OneHeld := by
  delta execPtpParentLoss
  repeat' first
    | extract_lets
    | with_reducible first
      | exact fun h => h | assumption | apply keep_ite | apply keep_resIte | apply next_oneHeld
      | apply upDom_oneHeld | apply report_oneHeld | apply holdover_oneHeld | apply setDomSt_oneHeld
      | apply keep_then
        first
        | apply next_oneHeld | apply upDom_oneHeld | apply report_oneHeld | apply holdover_oneHeld
        | apply setDomSt_oneHeld
    | refine keep_opt ?_ fun _ => ?_
    | refine keep_some (fun _ => ?_) fun _ => ?_
    | dsimp -zeta only
    | split

theorem execInfo_oneHeld (tag : BitVec 16) {s : State} : s.oneHeld → (execInfo tag s).OneHeld := by
  delta execInfo
  repeat' first
    | extract_lets
    | with_reducible first
      | exact fun h => h | assumption | apply keep_ite | apply keep_resIte | apply next_oneHeld
      | apply mbxSend_oneHeld
      | apply keep_then
        first | apply next_oneHeld | apply mbxSend_oneHeld
    | dsimp -zeta only
    | split

theorem execMbxJob_oneHeld (tag : BitVec 16) (op slot : Byte) (daddr : BitVec 64) {s : State} : s.oneHeld → (execMbxJob tag op slot daddr s).OneHeld := by
  delta execMbxJob
  repeat' first
    | extract_lets
    | with_reducible first
      | exact fun h => h | assumption | apply keep_ite | apply keep_resIte | apply next_oneHeld
      | apply mbxSend_oneHeld
      | apply keep_then
        first | apply next_oneHeld | apply mbxSend_oneHeld
    | dsimp -zeta only
    | split

theorem execMbxHold_oneHeld (tag : BitVec 16) {s : State} : s.oneHeld → (execMbxHold tag s).OneHeld := by
  delta execMbxHold
  repeat' first
    | extract_lets
    | with_reducible first
      | exact fun h => h | assumption | apply keep_ite | apply keep_resIte | apply next_oneHeld
      | apply mbxSend_oneHeld
      | apply keep_then
        first | apply next_oneHeld | apply mbxSend_oneHeld
    | dsimp -zeta only
    | split

theorem execPatchLoad_oneHeld (tag : BitVec 16) (addr : BitVec 64) (len : Word) {s : State} : s.oneHeld → (execPatchLoad tag addr len s).OneHeld := by
  delta execPatchLoad
  repeat' first
    | extract_lets
    | with_reducible first
      | exact fun h => h | assumption | apply keep_ite | apply keep_resIte | apply next_oneHeld
      | apply mbxSend_oneHeld
      | apply keep_then
        first | apply next_oneHeld | apply mbxSend_oneHeld
    | dsimp -zeta only
    | split

theorem execBootCfgSave_oneHeld (tag : BitVec 16) {s : State} : s.oneHeld → (execBootCfgSave tag s).OneHeld := by
  delta execBootCfgSave
  repeat' first
    | extract_lets
    | with_reducible first
      | exact fun h => h | assumption | apply keep_ite | apply keep_resIte | apply next_oneHeld
      | apply mbxSend_oneHeld
      | apply keep_then
        first | apply next_oneHeld | apply mbxSend_oneHeld
    | dsimp -zeta only
    | split

theorem execDdrCfgSave_oneHeld (tag : BitVec 16) (cfg : BitVec 64) {s : State} : s.oneHeld → (execDdrCfgSave tag cfg s).OneHeld := by
  delta execDdrCfgSave
  repeat' first
    | extract_lets
    | with_reducible first
      | exact fun h => h | assumption | apply keep_ite | apply keep_resIte | apply next_oneHeld
      | apply mbxSend_oneHeld
      | apply keep_then
        first | apply next_oneHeld | apply mbxSend_oneHeld
    | dsimp -zeta only
    | split

theorem execDbgChallenge_oneHeld (tag : BitVec 16) {s : State} : s.oneHeld → (execDbgChallenge tag s).OneHeld := by
  delta execDbgChallenge
  repeat' first
    | extract_lets
    | with_reducible first
      | exact fun h => h | assumption | apply keep_ite | apply keep_resIte | apply next_oneHeld
      | apply mbxSend_oneHeld
      | apply keep_then
        first | apply next_oneHeld | apply mbxSend_oneHeld
    | dsimp -zeta only
    | split

theorem execDbgUnlock_oneHeld (tag : BitVec 16) (addr : BitVec 64) {s : State} : s.oneHeld → (execDbgUnlock tag addr s).OneHeld := by
  delta execDbgUnlock
  repeat' first
    | extract_lets
    | with_reducible first
      | exact fun h => h | assumption | apply keep_ite | apply keep_resIte | apply next_oneHeld
      | apply mbxSend_oneHeld
      | apply keep_then
        first | apply next_oneHeld | apply mbxSend_oneHeld
    | dsimp -zeta only
    | split

theorem writeSys_oneHeld (a r : Nat) (v : Word) {s : State} : s.oneHeld → (s.writeSys a r v).oneHeld := by
  delta writeSys
  repeat' first
    | extract_lets
    | with_reducible first
      | exact fun h => h | assumption | apply keep_ite | apply keep_fstIte | apply next_oneHeld
      | apply execSysLock_oneHeld | apply execLadderRequest_oneHeld | apply execLadderKey_oneHeld
      | apply store_oneHeld | apply ifc_oneHeld | apply run_oneHeld
      | apply keep_then
        first
        | apply next_oneHeld | apply execSysLock_oneHeld | apply execLadderRequest_oneHeld
        | apply execLadderKey_oneHeld | apply store_oneHeld | apply ifc_oneHeld | apply run_oneHeld
    | refine fun (_ : State) => ?_
    | dsimp -zeta only
    | split

theorem writeTime_oneHeld (a r : Nat) (v : Word) {s : State} : s.oneHeld → (s.writeTime a r v).oneHeld := by
  delta writeTime
  repeat' first
    | extract_lets
    | with_reducible first
      | exact fun h => h | assumption | apply keep_ite | apply keep_fstIte | apply next_oneHeld
      | apply execTimeSnap_oneHeld | apply execBellwetherWrite_oneHeld | apply setF_oneHeld
      | apply execTimeOfsWrite_oneHeld | apply execTimeRateWrite_oneHeld | apply execTimeStepWrite_oneHeld
      | apply execTimeServoWrite_oneHeld | apply execTpArm_oneHeld | apply msix_oneHeld | apply execRtcSnap_oneHeld
      | apply execRtcSet_oneHeld | apply store_oneHeld | apply ifc_oneHeld | apply run_oneHeld
      | apply keep_then
        first
        | apply next_oneHeld | apply execTimeSnap_oneHeld | apply execBellwetherWrite_oneHeld | apply setF_oneHeld
        | apply execTimeOfsWrite_oneHeld | apply execTimeRateWrite_oneHeld | apply execTimeStepWrite_oneHeld
        | apply execTimeServoWrite_oneHeld | apply execTpArm_oneHeld | apply msix_oneHeld
        | apply execRtcSnap_oneHeld | apply execRtcSet_oneHeld | apply store_oneHeld | apply ifc_oneHeld
        | apply run_oneHeld
    | refine fun (_ : State) => ?_
    | dsimp -zeta only
    | split

theorem writeJob_oneHeld (a r : Nat) (v : Word) {s : State} : s.oneHeld → (s.writeJob a r v).oneHeld := by
  delta writeJob
  repeat' first
    | extract_lets
    | with_reducible first
      | exact fun h => h | assumption | apply keep_ite | apply setF_oneHeld | apply jobIssue_oneHeld
      | apply setB_oneHeld | apply jobPost_oneHeld | apply wr_oneHeld | apply store_oneHeld
      | apply keep_then
        first
        | apply setF_oneHeld | apply jobIssue_oneHeld | apply setB_oneHeld | apply jobPost_oneHeld
        | apply wr_oneHeld | apply store_oneHeld
    | dsimp -zeta only
    | split

theorem writeFlt_oneHeld (a r : Nat) (v : Word) {s : State} : s.oneHeld → (s.writeFlt a r v).oneHeld := by
  delta writeFlt
  repeat' first
    | extract_lets
    | with_reducible first
      | exact fun h => h | assumption | apply keep_ite | apply keep_fstIte | apply next_oneHeld
      | apply execFltCntClr_oneHeld | apply execFltAck_oneHeld | apply execFltForce_oneHeld | apply store_oneHeld
      | apply ifc_oneHeld | apply run_oneHeld
      | apply keep_then
        first
        | apply next_oneHeld | apply execFltCntClr_oneHeld | apply execFltAck_oneHeld | apply execFltForce_oneHeld
        | apply store_oneHeld | apply ifc_oneHeld | apply run_oneHeld
    | refine fun (_ : State) => ?_
    | dsimp -zeta only
    | split

set_option smartUnfolding false in
theorem writeReg_oneHeld (p : Sys2Proof.Path) (a : Nat) (v : Word) {s : State} : s.oneHeld → (s.writeReg p a v).oneHeld := by
  delta writeReg
  refine keep_opt (fun h => h) fun x => ?_
  obtain ⟨b, i, r⟩ := x
  dsimp -zeta only
  extract_lets t
  have ht : s.oneHeld → t.oneHeld := by
    unfold t
    clear t
    cases b with
    | sys => exact writeSys_oneHeld _ _ _
    | clk => exact store_oneHeld _ _
    | time => exact writeTime_oneHeld _ _ _
    | job => exact writeJob_oneHeld _ _ _
    | mbx => exact keep_ite (ifc_oneHeld _ fun _ => mbxRing_oneHeld) (store_oneHeld _ _)
    | be => exact writeBe_oneHeld _ _ _ _
    | pcu => exact writePcu_oneHeld _ _ _ _
    | le => exact writeLe_oneHeld _ _ _ _
    | ax => exact writeAx_oneHeld _ _ _
    | ldg => exact writeLdg_oneHeld _ _ _
    | zone => exact writeZone_oneHeld _ _ _
    | fab => exact writeFab_oneHeld _ _ _
    | ddr => exact fun h => h
    | lane => exact writeLane_oneHeld _ _ _ _
    | port => exact writePort_oneHeld _ _ _
    | ld => exact writeLd_oneHeld _ _ _
    | cal => exact writeCal_oneHeld _ _ _
    | twin => exact writeTwin_oneHeld _ _ _
    | flt => exact writeFlt_oneHeld _ _ _
    | rec_ => exact writeRec_oneHeld _ _ _ _
    | pwr => exact writePwr_oneHeld _ _ _
    | eth => exact store_oneHeld _ _
    | host => exact writeHost_oneHeld _ _ _
  refine keep_opt ?_ fun n => ?_
  · exact keep_ite (keep_then (sampleLdg_oneHeld _) ht) ht
  · exact keep_ite ht (keep_then (sampleOnly_oneHeld _ _) ht)

theorem execRegisterWrite_oneHeld (path : Sys2Proof.Path) (addr : BitVec 24) (v : Word) (h : s.oneHeld) :
    (execRegisterWrite path addr v s).OneHeld := by
  apply resIte_oneHeld
  repeat' first
    | with_reducible first
      | assumption | apply next_oneHeld | apply ite_oneHeld | apply resIte_oneHeld | apply writeReg_oneHeld
    | extract_lets
    | split

theorem exec_oneHeld (i : Instr) (h : s.oneHeld) : Res.OneHeld (exec i s) := by
  cases i with
  | rstNAssert => exact execRstNAssert_oneHeld
  | rstNRelease => exact execRstNRelease_oneHeld h
  | bootStepTimeout step => exact execBootStepTimeout_oneHeld step h
  | bootComplete => exact execBootComplete_oneHeld h
  | submit slot => exact execSubmit_oneHeld slot h
  | arm slot => exact execArm_oneHeld slot h
  | disarm slot => exact execDisarm_oneHeld slot h
  | abort slot => exact execAbort_oneHeld slot h
  | resume slot => exact execResume_oneHeld slot h
  | release slot => exact execRelease_oneHeld slot h
  | go slot => exact execGo_oneHeld slot h
  | jobHold => exact execJobHold_oneHeld h
  | walkStart => exact execWalkStart_oneHeld h
  | analysisEnd => exact execAnalysisEnd_oneHeld h
  | walkLimit => exact execWalkLimit_oneHeld h
  | statusPublish slot => exact execStatusPublish_oneHeld slot h
  | autoArm slot => exact execAutoArm_oneHeld slot h
  | preparationBegin slot => exact execPreparationBegin_oneHeld slot h
  | preparationEnd slot => exact execPreparationEnd_oneHeld slot h
  | driftCutoff head => exact execDriftCutoff_oneHeld head h
  | jobStart slot => exact execJobStart_oneHeld slot h
  | jobCommit => exact execJobCommit_oneHeld h
  | strokeStart b => exact execStrokeStart_oneHeld b h
  | gateEdge b => exact execGateEdge_oneHeld b h
  | mark b a => exact execMark_oneHeld b a h
  | jump b a => exact execJump_oneHeld b a h
  | arc b a => exact execArc_oneHeld b a h
  | spot b a => exact execSpot_oneHeld b a h
  | zacq b set => exact execZacq_oneHeld b set h
  | zrel b => exact execZrel_oneHeld b h
  | muster b id cell mask => exact execMuster_oneHeld b id cell mask h
  | waitt b rel target => exact execWaitt_oneHeld b rel target h
  | mov b a => exact execMov_oneHeld b a h
  | add b a => exact execAdd_oneHeld b a h
  | sub b a => exact execSub_oneHeld b a h
  | mul b a => exact execMul_oneHeld b a h
  | band b a => exact execBand_oneHeld b a h
  | bor b a => exact execBor_oneHeld b a h
  | bxor b a => exact execBxor_oneHeld b a h
  | shl b a => exact execShl_oneHeld b a h
  | shr b a => exact execShr_oneHeld b a h
  | sar b a => exact execSar_oneHeld b a h
  | cmp b a => exact execCmp_oneHeld b a h
  | mulh b a => exact execMulh_oneHeld b a h
  | ld b a => exact execLd_oneHeld b a h
  | st b a => exact execSt_oneHeld b a h
  | rdp b a => exact execRdp_oneHeld b a h
  | loop b creg rc bound body => exact execLoop_oneHeld b creg rc bound body h
  | endl b back => exact execEndl_oneHeld b back h
  | br b cond offset => exact execBr_oneHeld b cond offset h
  | lgq b rd rx ry useP => exact execLgq_oneHeld b rd rx ry useP h
  | pset b reg rs sel imm32 => exact execPset_oneHeld b reg rs sel imm32 h
  | focus b reg rel rs imm32 => exact execFocus_oneHeld b reg rel rs imm32 h
  | markev b reg irq rs code imm32 => exact execMarkev_oneHeld b reg irq rs code imm32 h
  | halt b => exact execHalt_oneHeld b h
  | markevRelease b => exact execMarkevRelease_oneHeld b h
  | musterRelease id => exact execMusterRelease_oneHeld id h
  | zacqWaitExpiry b => exact execZacqWaitExpiry_oneHeld b h
  | beStop b => exact execBeStop_oneHeld b h
  | stopComplete b => exact execStopComplete_oneHeld b h
  | beEvPop b => exact execBeEvPop_oneHeld b h
  | evClr b => exact execEvClr_oneHeld b h
  | beCntClr b => exact execBeCntClr_oneHeld b h
  | pdSample b f sidx pdA pdB => exact execPdSample_oneHeld b f sidx pdA pdB h
  | pcuWord b => exact execPcuWord_oneHeld b h
  | pcuCntClr b => exact execPcuCntClr_oneHeld b h
  | imgLine b f sidx frame line w8 h8 depth12 pix => exact execImgLine_oneHeld b f sidx frame line w8 h8 depth12 pix h
  | featurePublish b => exact execFeaturePublish_oneHeld b h
  | trimApply b => exact execTrimApply_oneHeld b h
  | eyeLoss b => exact execEyeLoss_oneHeld b h
  | pcuCapArm b => exact execPcuCapArm_oneHeld b h
  | datagramSend eth => exact execDatagramSend_oneHeld eth h
  | pwrReport b f sidx pwr emit ready fault => exact execPwrReport_oneHeld b f sidx pwr emit ready fault h
  | reportLost b => exact execReportLost_oneHeld b h
  | diagWindowEnd b => exact execDiagWindowEnd_oneHeld b h
  | pwmPeriodStart b => exact execPwmPeriodStart_oneHeld b h
  | musterGrid b => exact execMusterGrid_oneHeld b h
  | interlockTrip a b widthPs => exact execInterlockTrip_oneHeld a b widthPs h
  | ilkDiscrep => exact execIlkDiscrep_oneHeld h
  | rearm => exact execRearm_oneHeld h
  | emitOffRepeat b => exact execEmitOffRepeat_oneHeld b h
  | emitOffWrite b v => exact execEmitOffWrite_oneHeld b v h
  | ldEnable b v => exact execLdEnable_oneHeld b v h
  | killForce => exact execKillForce_oneHeld h
  | ldCntClr b => exact execLdCntClr_oneHeld b h
  | visitCommit b => exact execVisitCommit_oneHeld b h
  | sweepStep => exact execSweepStep_oneHeld h
  | sweepLate => exact execSweepLate_oneHeld h
  | ldgEcc b cell => exact execLdgEcc_oneHeld b cell h
  | ldgFlush => exact execLdgFlush_oneHeld h
  | ldgClear => exact execLdgClear_oneHeld h
  | ldgApply => exact execLdgApply_oneHeld h
  | ldgImport => exact execLdgImport_oneHeld h
  | ldgOpDone => exact execLdgOpDone_oneHeld h
  | ldgQryGo => exact execLdgQryGo_oneHeld h
  | ldgQryDone => exact execLdgQryDone_oneHeld h
  | ldgCntClr => exact execLdgCntClr_oneHeld h
  | zoneRound => exact execZoneRound_oneHeld h
  | quotaWindowEnd => exact execQuotaWindowEnd_oneHeld h
  | zoneCntClr => exact execZoneCntClr_oneHeld h
  | fabSlot => exact execFabSlot_oneHeld h
  | fabQuotaWindowEnd => exact execFabQuotaWindowEnd_oneHeld h
  | crookPreempt chan debug => exact execCrookPreempt_oneHeld chan debug h
  | transferComplete e => exact execTransferComplete_oneHeld e h
  | swap => exact execSwap_oneHeld h
  | swapApply => exact execSwapApply_oneHeld h
  | fabCntClr => exact execFabCntClr_oneHeld h
  | leUpdate k l retry => exact execLeUpdate_oneHeld k l retry h
  | axisFb p axis f sidx pos cur aux => exact execAxisFb_oneHeld p axis f sidx pos cur aux h
  | load k l => exact execLoad_oneHeld k l h
  | enable k l => exact execEnable_oneHeld k l h
  | disable k l => exact execDisable_oneHeld k l h
  | coefSwap k l => exact execCoefSwap_oneHeld k l h
  | leImgCheck k => unfold exec; exact execLeImgCheck_oneHeld k h
  | clr k l acc => exact execClr_oneHeld k l acc h
  | lda k l acc sh sa => exact execLda_oneHeld k l acc sh sa h
  | mac k l acc sa kk => exact execMac_oneHeld k l acc sa kk h
  | msu k l acc sa kk => exact execMsu_oneHeld k l acc sa kk h
  | ada k l acc neg sh sa => exact execAda_oneHeld k l acc neg sh sa h
  | sta k l acc sh dst => exact execSta_oneHeld k l acc sh dst h
  | clp k l dst sa kk => exact execClp_oneHeld k l dst sa kk h
  | sel k l dst sa sb sc => exact execSel_oneHeld k l dst sa sb sc h
  | lawMov k l dst sa => exact execLawMov_oneHeld k l dst sa h
  | lawHalt k l => exact execLawHalt_oneHeld k l h
  | trArm k => exact execTrArm_oneHeld k h
  | trTrig k => exact execTrTrig_oneHeld k h
  | leCntClr k => exact execLeCntClr_oneHeld k h
  | axAppend n => exact execAxAppend_oneHeld n h
  | axReplace n => exact execAxReplace_oneHeld n h
  | axStop n => exact execAxStop_oneHeld n h
  | axResume n => exact execAxResume_oneHeld n h
  | axHome n => exact execAxHome_oneHeld n h
  | setPos n => exact execSetPos_oneHeld n h
  | el1Move n => exact execEl1Move_oneHeld n h
  | el1Set n => exact execEl1Set_oneHeld n h
  | axClear n => exact execAxClear_oneHeld n h
  | pitchStart n => exact execPitchStart_oneHeld n h
  | pitchEnd n => exact execPitchEnd_oneHeld n h
  | limitInput n pos active => exact execLimitInput_oneHeld n pos active h
  | homeEdge n active => exact execHomeEdge_oneHeld n active h
  | mmove axis rel v a tgt => exact execMmove_oneHeld axis rel v a tgt h
  | mwait mask => exact execMwait_oneHeld mask h
  | mdwell ns => exact execMdwell_oneHeld ns h
  | machHalt => exact execMachHalt_oneHeld h
  | calRefLoss => exact execCalRefLoss_oneHeld h
  | dlRun => exact execDlRun_oneHeld h
  | dlRunComplete m => exact execDlRunComplete_oneHeld m h
  | dlSwap m => exact execDlSwap_oneHeld m h
  | validate q => exact execValidate_oneHeld q h
  | invalidate q => exact execInvalidate_oneHeld q h
  | promote n => exact execPromote_oneHeld n h
  | drift n => exact execDrift_oneHeld n h
  | pcalPoint arg => exact execPcalPoint_oneHeld arg h
  | pcalExposureEnd b => exact execPcalExposureEnd_oneHeld b h
  | pcalEnter arg => exact execPcalEnter_oneHeld arg h
  | pcalCommit n => exact execPcalCommit_oneHeld n h
  | pcalClear n => exact execPcalClear_oneHeld n h
  | calCntClr => exact execCalCntClr_oneHeld h
  | headTemp b f temp => exact execHeadTemp_oneHeld b f temp h
  | headTempStale b => exact execHeadTempStale_oneHeld b h
  | refReq b => exact execRefReq_oneHeld b h
  | refMeas b seq tag point signal mx my => exact execRefMeas_oneHeld b seq tag point signal mx my h
  | train n blk eye => exact execTrain_oneHeld n blk eye h
  | am n blk => exact execAm_oneHeld n blk h
  | amSend p => exact execAmSend_oneHeld p h
  | trainTimeout p => exact execTrainTimeout_oneHeld p h
  | laneLockLoss n => exact execLaneLockLoss_oneHeld n h
  | hbLoss p => exact execHbLoss_oneHeld p h
  | heartbeat p => exact execHeartbeat_oneHeld p h
  | farHeartbeat p f sidx echo turn role => exact execFarHeartbeat_oneHeld p f sidx echo turn role h
  | cellDrop p blocks => exact execCellDrop_oneHeld p blocks h
  | parcelBad p crcBad seq => exact execParcelBad_oneHeld p crcBad seq h
  | ack p next => exact execAck_oneHeld p next h
  | nak p next => exact execNak_oneHeld p next h
  | ackSend p => exact execAckSend_oneHeld p h
  | replayTimeout p => exact execReplayTimeout_oneHeld p h
  | cfgRd p seq tag addr count => exact execCfgRd_oneHeld p seq tag addr count h
  | cfgWr p seq tag addr data => exact execCfgWr_oneHeld p seq tag addr data h
  | cfgRsp p seq tag status data => exact execCfgRsp_oneHeld p seq tag status data h
  | cfgTimeout p => exact execCfgTimeout_oneHeld p h
  | cfgRead p => exact execCfgRead_oneHeld p h
  | cfgWrite p => exact execCfgWrite_oneHeld p h
  | retrain p => exact execRetrain_oneHeld p h
  | portCntClr p => exact execPortCntClr_oneHeld p h
  | laneCntClr n => exact execLaneCntClr_oneHeld n h
  | auxData seq stream sidx data => exact execAuxData_oneHeld seq stream sidx data h
  | ropeUp => exact execRopeUp_oneHeld h
  | handover => exact execHandover_oneHeld h
  | confirmSolo => exact execConfirmSolo_oneHeld h
  | releaseLead => exact execReleaseLead_oneHeld h
  | roleCfgWrite v => exact execRoleCfgWrite_oneHeld v h
  | twinTimeSend => exact execTwinTimeSend_oneHeld h
  | twinTime launch lastArr => exact execTwinTime_oneHeld launch lastArr h
  | twinSkewCheck => exact execTwinSkewCheck_oneHeld h
  | checkpointDigest => exact execCheckpointDigest_oneHeld h
  | twinDigest num digest => exact execTwinDigest_oneHeld num digest h
  | digestTimeout => exact execDigestTimeout_oneHeld h
  | twinHbMissing => exact execTwinHbMissing_oneHeld h
  | twinTake m => exact execTwinTake_oneHeld m h
  | takeover => exact execTakeover_oneHeld h
  | twinCmdEffective => exact execTwinCmdEffective_oneHeld h
  | twinCtlCmd seq op slot at_ => exact execTwinCtlCmd_oneHeld seq op slot at_ h
  | twinObj seq addr len crc => exact execTwinObj_oneHeld seq addr len crc h
  | twinFwd seq ofs data => exact execTwinFwd_oneHeld seq ofs data h
  | twinLdg seq ofs cells => exact execTwinLdg_oneHeld seq ofs cells h
  | twinAdm seq slot code jtFin digest => exact execTwinAdm_oneHeld seq slot code jtFin digest h
  | twinStart seq slot at_ => exact execTwinStart_oneHeld seq slot at_ h
  | twinStop seq m => exact execTwinStop_oneHeld seq m h
  | twinDrift seq head m00 m01 m10 m11 ox oy => exact execTwinDrift_oneHeld seq head m00 m01 m10 m11 ox oy h
  | twinZero seq first count => exact execTwinZero_oneHeld seq first count h
  | twinState seq m => exact execTwinState_oneHeld seq m h
  | twinLeave seq cause => exact execTwinLeave_oneHeld seq cause h
  | twinCfg seq digest => exact execTwinCfg_oneHeld seq digest h
  | twinJoined seq => exact execTwinJoined_oneHeld seq h
  | twinRtt seq first rtts => exact execTwinRtt_oneHeld seq first rtts h
  | faultReport id unit detail => exact execFaultReport_oneHeld id unit detail h
  | fltAck cls seq => exact execFltAck_oneHeld cls seq h
  | fltForce k bits => exact execFltForce_oneHeld k bits h
  | shadowClose => exact execShadowClose_oneHeld h
  | quietPeriodEnd => exact execQuietPeriodEnd_oneHeld h
  | fltCntClr => exact execFltCntClr_oneHeld h
  | ladderRequest func unit step => exact execLadderRequest_oneHeld func unit step h
  | ladderKey key => exact execLadderKey_oneHeld key h
  | ladderStepDone func unit ok => exact execLadderStepDone_oneHeld func unit ok h
  | pwrCycEnd => exact execPwrCycEnd_oneHeld h
  | recordWrite => exact execRecordWrite_oneHeld h
  | optimeSave => exact execOptimeSave_oneHeld h
  | crcModeEnd => exact execCrcModeEnd_oneHeld h
  | freeze path on => exact execFreeze_oneHeld path on h
  | freezeTimeout => exact execFreezeTimeout_oneHeld h
  | recRdData path => exact execRecRdData_oneHeld path h
  | recClrKey path key => exact execRecClrKey_oneHeld path key h
  | clrRing path => exact execClrRing_oneHeld path h
  | clrCairn path => exact execClrCairn_oneHeld path h
  | recCntClr => exact execRecCntClr_oneHeld h
  | vwarnFall => exact execVwarnFall_oneHeld h
  | vwarnRise low => exact execVwarnRise_oneHeld low h
  | vstopFall => exact execVstopFall_oneHeld h
  | vstopRise low => exact execVstopRise_oneHeld low h
  | vresetFall => exact execVresetFall_oneHeld
  | vresetRise => exact execVresetRise_oneHeld h
  | hkRound ch => exact execHkRound_oneHeld ch h
  | pwrCntClr => exact execPwrCntClr_oneHeld h
  | clkLoss which => exact execClkLoss_oneHeld which h
  | rtcStartTimeout => exact execRtcStartTimeout_oneHeld h
  | timeFold => exact execTimeFold_oneHeld h
  | timeRateWrite d v => exact execTimeRateWrite_oneHeld d v h
  | timeOfsWrite d v => exact execTimeOfsWrite_oneHeld d v h
  | timeStepWrite d v => exact execTimeStepWrite_oneHeld d v h
  | bellwetherWrite b => exact execBellwetherWrite_oneHeld b h
  | timeSnap => exact execTimeSnap_oneHeld h
  | tpArm n => exact execTpArm_oneHeld n h
  | tpulseFire n => exact execTpulseFire_oneHeld n h
  | tpulseEnd n => exact execTpulseEnd_oneHeld n h
  | tcapEdge n rising width err => exact execTcapEdge_oneHeld n rising width err h
  | tcRawPop n => exact execTcRawPop_oneHeld n h
  | ptpSync d m => exact execPtpSync_oneHeld d m h
  | ptpAnnounce d m => exact execPtpAnnounce_oneHeld d m h
  | ptpEventSend d e => exact execPtpEventSend_oneHeld d e h
  | ptpResponse d r => exact execPtpResponse_oneHeld d r h
  | ptpParentLoss d => exact execPtpParentLoss_oneHeld d h
  | timeServoWrite d v => exact execTimeServoWrite_oneHeld d v h
  | arpRequest eth ip who => exact execArpRequest_oneHeld eth ip who h
  | rtcSet => exact execRtcSet_oneHeld h
  | rtcSnap => exact execRtcSnap_oneHeld h
  | rtcTrimStep => exact execRtcTrimStep_oneHeld h
  | backupBrownout => exact execBackupBrownout_oneHeld h
  | dmaGo c => exact execDmaGo_oneHeld c h
  | dmaDone c e host => exact execDmaDone_oneHeld c e host h
  | auxEnable v => exact execAuxEnable_oneHeld v h
  | hostWinLoWrite v => exact execHostWinLoWrite_oneHeld v h
  | flr => exact execFlr_oneHeld h
  | info tag => exact execInfo_oneHeld tag h
  | mbxJob tag op slot daddr => exact execMbxJob_oneHeld tag op slot daddr h
  | mbxHold tag => exact execMbxHold_oneHeld tag h
  | patchLoad tag addr len => exact execPatchLoad_oneHeld tag addr len h
  | bootCfgSave tag => exact execBootCfgSave_oneHeld tag h
  | ddrCfgSave tag cfg => exact execDdrCfgSave_oneHeld tag cfg h
  | dbgChallenge tag => exact execDbgChallenge_oneHeld tag h
  | dbgUnlock tag addr => exact execDbgUnlock_oneHeld tag addr h
  | sysLock => exact execSysLock_oneHeld h
  | tapInstruction ir => exact execTapInstruction_oneHeld ir h
  | loReadLatch path addr => exact execLoReadLatch_oneHeld path addr h
  | registerWrite path addr v => exact execRegisterWrite_oneHeld path addr v h
  | bar2Access write ofs data be => exact execBar2Access_oneHeld write ofs data be h
  | ilkInputRise b => exact execIlkInputRise_oneHeld b h
  | calRefEdge dev => exact execCalRefEdge_oneHeld dev h
  | rtcOscStart => exact execRtcOscStart_oneHeld h
  | slewEnd => exact execSlewEnd_oneHeld h
  | calendarEnd => exact execCalendarEnd_oneHeld h
  | ethLink n blockLock up => exact execEthLink_oneHeld n blockLock up h
  | ethFrameDiscard n badFcs f => exact execEthFrameDiscard_oneHeld n badFcs f h
  | axAtRest n => exact execAxAtRest_oneHeld n h



/-- Settles O57: a command leaves the job states as they are, or moves one slot; a slot is started only while no job is
held, and holds only where it ran. -/
theorem oneJobHeld : Obligations.OneJobHeld := by
  unfold Obligations.OneJobHeld
  intro s t h hs
  unfold step at hs
  split at hs
  · cases hs
    exact idle_oneHeld h
  next c rest _ =>
    have g := exec_oneHeld c (s := { s with pending := rest }) h
    rw [hs] at g
    exact g

end State

end Sys2Proof.Machine
end
